-- ==== Sys2Proof/Word.lean ====
section
/-!
DEFINITION. The plain words of the CH4096 and their simplest arithmetic: bytes, 32-bit words, samples.
-/
namespace Sys2Proof

/-- One byte of host memory, of a cell or of a frame. -/
abbrev Byte := BitVec 8

/-- A setup register, a parameter word or a lane word (R5). -/
abbrev Word := BitVec 32

/-- A sample value in Q1.31, handed over at a tick boundary (R37). -/
abbrev Sample := BitVec 32

/-- An EUI-64 or another 64-bit identifier. -/
abbrev Eui := BitVec 64

end Sys2Proof
end

