-- ==== Sys2Proof/Syntax.lean ====
section
/-!
DEFINITION. The commands of the CH4096 node audio engine: one constructor of Instr per row of the command table, with the
operands the spec gives the row, and the types of those operands. A host command carries its descriptor's header and fields;
a received cell or frame carries its contents; an event carries what the outside of the block supplies (a measured value, the
data of a port, an entropy word).
-/
namespace Sys2Proof

/-- A store of the host: into its own memory, or into BAR2 of the PCIe endpoint (R365), where `addr` is the offset. -/
structure HostStore where
  addr : BitVec 64
  bytes : List Byte
  bar2 : Bool
  deriving DecidableEq, Repr

/-- The header of a command descriptor (R370) with the place it was taken from: its ring and ring index, its TAG, its IRQ and
ORDERED flags, whether a reserved byte or bit of the descriptor is not 0 (R9), and the stores of the host that became visible
to the CH4096 before it took the descriptor (the host data its ADDR fields name). -/
structure CmdHdr where
  ring : Fin 8
  index : BitVec 12
  tag : BitVec 16
  irq : Bool
  ordered : Bool
  reservedSet : Bool
  stores : List HostStore
  deriving DecidableEq, Repr

/-- The path by which a register access arrives (R526); `dma` is a DMA COPY to the peripheral bus, `mb0` a read on MB_0. -/
inductive AccessPath where
  | bar0 | tunnelReg | mb1 | dma | mb0
  deriving DecidableEq, Repr

/-- A Dorura cell (R172) as received or sent, without its CRC; `resv` holds its reserved bits, MODE [7:2], SRC_ID [15:12],
DST_ID [15:12] and the two bytes at 0x0A, which this node sends as 0. -/
structure Cell where
  ty : Byte
  mode : BitVec 2
  hop : Byte
  hops : Byte
  src : BitVec 12
  dst : BitVec 12
  seq : BitVec 16
  route : BitVec 64
  body : List Byte
  resv : BitVec 30 := 0
  deriving DecidableEq, Repr

/-- A node-time value (R273): seconds, nanoseconds and a 16-bit fraction of a nanosecond. -/
structure TimeVal where
  sec : BitVec 64
  ns : BitVec 32
  frac : BitVec 16
  deriving DecidableEq, Repr

/-- ROUTE_SET fields (R48). -/
structure RouteSetArgs where
  tick : BitVec 64
  dest : BitVec 16
  input : Byte
  law : BitVec 2
  source : BitVec 16
  rampMs : BitVec 16
  gain : Word
  deriving DecidableEq, Repr

/-- GAIN_SET fields (R50). -/
structure GainSetArgs where
  tick : BitVec 64
  dest : BitVec 16
  input : Byte
  gain : Word
  rampMs : BitVec 16
  deriving DecidableEq, Repr

/-- ROUTE_CLEAR fields (R50). -/
structure RouteClearArgs where
  tick : BitVec 64
  dest : BitVec 16
  law : BitVec 2
  rampMs : BitVec 16
  deriving DecidableEq, Repr

/-- ROUTE_BATCH fields (R51). -/
structure RouteBatchArgs where
  tick : BitVec 64
  addr : BitVec 64
  count : BitVec 16
  version : Byte
  deriving DecidableEq, Repr

/-- DIRECT_SET fields (R63). -/
structure DirectSetArgs where
  tick : BitVec 64
  channel : Byte
  source : BitVec 16
  dest : BitVec 16
  rampMs : BitVec 16
  gain : Word
  deriving DecidableEq, Repr

/-- TESTGEN_SET fields (R60). -/
structure TestgenSetArgs where
  tick : BitVec 64
  gen : Byte
  wave : Byte
  level : Word
  freq : Word
  seed : Word
  deriving DecidableEq, Repr

/-- TILE_LOAD fields (R123). -/
structure TileLoadArgs where
  addr : BitVec 64
  length : Word
  tile : Byte
  deriving DecidableEq, Repr

/-- PARAM_WRITE fields (R128): DATA are the 32 bytes from 0x20 on. -/
structure ParamWriteArgs where
  tick : BitVec 64
  tile : Byte
  count : Byte
  inline_ : Bool
  stride : Bool
  waddr : BitVec 19
  data : List Byte
  deriving DecidableEq, Repr

/-- RAMP_SET fields (R132). -/
structure RampSetArgs where
  tick : BitVec 64
  tile : Byte
  unit : Byte
  q29 : Bool
  stride : Bool
  release : Bool
  waddr : BitVec 19
  target : Word
  from_ : Word
  rampMs : BitVec 16
  deriving DecidableEq, Repr

/-- DMEM_READ fields (R130). -/
structure DmemReadArgs where
  tile : Byte
  count : BitVec 16
  waddr : BitVec 19
  resultAddr : BitVec 64
  deriving DecidableEq, Repr

/-- Where a DRAM word lay (R161): in a bench, in the reserved granules, or in a free granule. -/
inductive DramPlace where
  | bench (n : Fin 64) | system | unmapped
  deriving DecidableEq, Repr

/-- An error of the DRAM code that a read meets (R159): its address in 64-byte units, where it lay, and whether it cannot be
corrected. -/
structure DramError where
  addr : BitVec 27
  place : DramPlace
  uncorrectable : Bool
  deriving DecidableEq, Repr

/-- A DRAM error met by the bench engine's reads of a tick (R159): the object and its channel, the read head (false: the only
or outgoing head, true: the incoming head of a crossfade) and the samples of the tick that the word held (bit s: sample s). -/
structure TickDramError where
  err : DramError
  handle : BitVec 16
  chan : Byte
  newHead : Bool
  samples : Byte
  deriving DecidableEq, Repr

/-- A bit of a table row that has gone bad since its load (R101): its tile, page, row and bit. -/
structure RowUpset where
  tile : Fin 16
  page : Fin 2
  row : BitVec 15
  bit : BitVec 7
  deriving DecidableEq, Repr

/-- A DRAM error met by a BENCH_READ (R159): the byte offset of the 64-bit word in the object. -/
structure ReadDramError where
  err : DramError
  offset : Nat
  deriving DecidableEq, Repr

/-- OBJ_ALLOC fields (R156). -/
structure ObjAllocArgs where
  bench : Byte
  ty : Byte
  channel : BitVec 16
  channels : Byte
  size : Word
  deriving DecidableEq, Repr

/-- DELAY_SET fields (R156). -/
structure DelaySetArgs where
  tick : BitVec 64
  handle : BitVec 16
  mode : Byte
  law : Byte
  delay : Word
  rampMs : BitVec 16
  deriving DecidableEq, Repr

/-- PLAY_START fields (R156). -/
structure PlayStartArgs where
  tick : BitVec 64
  handle : BitVec 16
  loop : Bool
  startFrame : Word
  loopStart : Word
  gain : Word
  rampMs : BitVec 16
  deriving DecidableEq, Repr

/-- CAPTURE_CTRL fields (R156). -/
structure CaptureCtrlArgs where
  tick : BitVec 64
  handle : BitVec 16
  action : Byte
  startFrame : Word
  deriving DecidableEq, Repr

/-- BENCH_WRITE and BENCH_READ fields (R156). -/
structure BenchDataArgs where
  handle : BitVec 16
  offset : Word
  addr : BitVec 64
  length : Word
  deriving DecidableEq, Repr

/-- SNAP_TAKE fields (R156). -/
structure SnapTakeArgs where
  tick : BitVec 64
  handle : BitVec 16
  count : BitVec 16
  addr : BitVec 64
  deriving DecidableEq, Repr

/-- A training marker as received (R178): the seven bytes after the type byte, byte 1 first. -/
structure TrainMarker where
  bytes : List Byte
  deriving DecidableEq, Repr

/-- A frame marker as received in its window (R167, R179): the seven bytes after the type byte, byte 1 first, and when it
arrived relative to the node's own tick boundary, in 1/16 ns (R194). -/
structure FrameMarker where
  bytes : List Byte
  arrival : Int
  deriving DecidableEq, Repr

/-- A slot as received (R168): its slot number in the frame, its bytes but the CRC, and the CRC byte. -/
structure SlotIn where
  slot : Nat
  bytes : List Byte
  crc : Byte
  deriving DecidableEq, Repr

/-- LINK_CMD fields (R189). -/
structure LinkCmdArgs where
  tick : BitVec 64
  link : Byte
  action : Byte
  deriving DecidableEq, Repr

/-- The result of the eye measurement of one link (R191, R192). -/
structure EyeResult where
  link : Fin 16
  eyeH : Byte
  eyeV : Byte
  deriving DecidableEq, Repr

/-- What the receiver asks of the partner's transmit FIR after an adaptation step (R178). -/
structure FirWish where
  preReq : BitVec 2
  postReq : BitVec 2
  preset : Bool
  deriving DecidableEq, Repr

/-- PATH_RESERVE fields (R200). -/
structure PathReserveArgs where
  tick : BitVec 64
  addCh : BitVec 12
  dropCh : BitVec 12
  dst : BitVec 12
  hops : Byte
  copy : Bool
  gen : BitVec 2
  route : Word
  limitNs : Word
  tapMask : Byte
  resultAddr : BitVec 64
  deriving DecidableEq, Repr

/-- A switch table (R197): the incoming table of a link, or the add table. -/
inductive SwitchTable where
  | incoming (link : Fin 16) | add
  deriving DecidableEq, Repr

/-- SWITCH_READ fields: the spec gives no layout of its descriptor (DESIGN CHOICE, log 54): a table, the first entry (slot, or add channel × 2 +
copy), the number of entries and the result address. -/
structure SwitchReadArgs where
  table : SwitchTable
  first : Nat
  count : Nat
  resultAddr : BitVec 64
  deriving DecidableEq, Repr

/-- PAIR_SET fields (R214). -/
structure PairSetArgs where
  tick : BitVec 64
  partner : BitVec 12
  hops : Byte
  groups : Byte
  route : BitVec 64
  compareFrom : BitVec 64
  groupAddr : BitVec 64
  deriving DecidableEq, Repr

/-- GLOBAL_ARM fields (R222). -/
structure GlobalArmArgs where
  set : Byte
  handle : BitVec 16
  count : BitVec 16
  addr : BitVec 64
  deriving DecidableEq, Repr

/-- GLOBAL_OP fields (R222). -/
structure GlobalOpArgs where
  tick : BitVec 64
  kind : Byte
  groups : Word
  arg : List Byte
  resultAddr : BitVec 64
  deriving DecidableEq, Repr

/-- What the CH4096 measures of one candidate in one second (R231, R234): whether its signal or message flow is there, its
offset against model-corrected LOCAL and against the DPLL output in 0.1 ppb, and for PTP the servo offset in ns. -/
structure CandMeasure where
  present : Bool
  ofsLocal : Int
  ofsOutput : Int
  servoNs : Int
  deriving DecidableEq, Repr

/-- What the CH4096 measures in one second (R231, R242): the eight candidates, and the oscillator's temperature in mK. -/
structure SecondIn where
  cands : List CandMeasure
  tempMk : Int
  deriving DecidableEq, Repr

/-- A fault of a reference input (R233). -/
inductive RefFault where
  | stop | glitch | rate
  deriving DecidableEq, Repr

/-- CMP_SET fields (R280). -/
structure CmpSetArgs where
  unit : Byte
  action : Byte
  arg : Byte
  periodic : Bool
  report : Bool
  pulseNs : Word
  time : TimeVal
  period : BitVec 64
  deriving DecidableEq, Repr

/-- A frame received by an Ethernet port (R266): its bytes from the destination address to the last byte before the FCS, whether
the FCS is right, and the instant at which its first bit crossed the contact (R272). -/
structure EthFrame where
  bytes : List Byte
  fcsOk : Bool
  time : TimeVal
  deriving DecidableEq, Repr

/-- The PTP messages (R274, R276). -/
inductive PtpKind where
  | sync | delayReq | followUp | delayResp | announce | signaling | management | pdelay
  deriving DecidableEq, Repr

/-- A received PTP message: its kind and header fields, its transport and VLAN (none: untagged), its secondsField,
nanosecondsField and UDP checksum, for an Announce its timescale
flag and currentUtcOffset, the instant of arrival as the TIME domain stamped it, and the IEEE 1588 portState that the best-master algorithm of the port's
instance reaches with this message (R276). -/
structure PtpMsg where
  kind : PtpKind
  domain : Byte
  l2 : Bool
  vlan : Option (BitVec 12)
  requester : BitVec 80
  sequence : BitVec 16
  correction : BitVec 64
  seconds : BitVec 48
  nanos : Word
  checksum : BitVec 16
  ptpTimescale : Bool
  utcOffset : BitVec 16
  time : TimeVal
  portState : BitVec 4
  deriving DecidableEq, Repr

/-- An RTP packet as it arrives (R285, R291): addresses, header fields, how many CSRC entries it has and whether a header
extension follows them, all bytes after its 12-byte fixed header, and the time since the last tick boundary in ns. -/
structure RtpIn where
  dstIp : Word
  udpPort : BitVec 16
  srcIp : Word
  ssrc : Word
  pt : BitVec 7
  seq : BitVec 16
  ts : Word
  csrc : BitVec 4
  ext : Bool
  payload : List Byte
  sinceNs : Nat
  deriving DecidableEq, Repr

/-- AOIP_RX_SET fields (R299). -/
structure AoipRxArgs where
  tick : BitVec 64
  stream : Byte
  portA : BitVec 2
  portB : BitVec 2
  legB : Bool
  format : BitVec 2
  enable : Bool
  channels : Byte
  firstCh : BitVec 16
  ptime : Byte
  pt : Byte
  dstIp : Word
  dstIpB : Word
  udpPort : BitVec 16
  udpPortB : BitVec 16
  srcIp : Word
  ssrc : Word
  linkOffset : BitVec 16
  ssrcMatch : Bool
  vValid : Bool
  deriving DecidableEq, Repr

/-- AOIP_TX_SET fields (R299). -/
structure AoipTxArgs where
  tick : BitVec 64
  stream : Byte
  portA : BitVec 2
  portB : BitVec 2
  dup : Bool
  format : BitVec 2
  enable : Bool
  channels : Byte
  firstCh : BitVec 16
  ptime : Byte
  pt : Byte
  dstIp : Word
  dstIpB : Word
  udpPort : BitVec 16
  dscp : BitVec 6
  ttl : Byte
  ssrc : Word
  dstMac : BitVec 48
  vlan : BitVec 16
  tsAdj : Word
  deriving DecidableEq, Repr

/-- The PORT byte of a command (R327): AES selects AES_index. -/
structure PortSel where
  aes : Bool
  index : BitVec 3
  deriving DecidableEq, Repr

/-- PORT_SLOTS fields (R327). -/
structure PortSlotsArgs where
  tick : BitVec 64
  port : PortSel
  immediate : Bool
  write : BitVec 4
  masks : List Word
  deriving DecidableEq, Repr

/-- AES_CS_SET fields (R327): KIND 1 is the user block. -/
structure AesCsSetArgs where
  tick : BitVec 64
  port : PortSel
  subframe : BitVec 1
  user : Bool
  block : List Byte
  deriving DecidableEq, Repr

/-- A received port frame (R305, R317): the position of its samples, counted from the first position of the tick in progress;
whether its frame edge lies at a sample boundary; its length in bit clocks; whether it shows a biphase or preamble error (AES3);
the measured frame rate in mHz; its frame edge against the sample boundary as the DLL measures it, in 1/64 of a MEDIA cycle
(R253); its slots (serial: lane × 32 + slot, W bits each; AES3: the two subframes, time slot 4 in bit 0 to P in bit 27); and for
AES3 whether it begins with a Z preamble. -/
structure PortFrameIn where
  ahead : Fin 9
  onGrid : Bool
  bits : Nat
  bad : Bool
  rate : Word
  phase : Int
  slots : List Word
  z : Bool
  deriving DecidableEq, Repr

/-- PS_BUDGET fields (R361). -/
structure PsBudgetArgs where
  tick : BitVec 64
  ch : Byte
  watts : BitVec 16
  attack : BitVec 16
  release : BitVec 16
  deriving DecidableEq, Repr

/-- PS_FREQ_SET fields (R361). -/
structure PsFreqArgs where
  tick : BitVec 64
  pref : Byte
  min : Byte
  max : Byte
  deriving DecidableEq, Repr

/-- PS_MODEL fields (R361). -/
structure PsModelArgs where
  ch : Byte
  tile : Byte
  lookahead : Byte
  waddr : BitVec 19
  deriving DecidableEq, Repr

/-- What the CH4096 measures for one allocation (R349): PVIN in 10 mV and T_case in 0.1 °C (signed). -/
structure PowerMeasure where
  pvin : BitVec 16
  tcase : BitVec 16
  deriving DecidableEq, Repr

/-- The class of a short circuit (R356). -/
inductive ShortClass where
  | load | gnd | rail
  deriving DecidableEq, Repr

/-- TUNNEL_CLAIM fields (R391). -/
structure TunnelClaimArgs where
  target : BitVec 12
  hops : Byte
  gen : Byte
  winPages : Word
  route : BitVec 64
  hca : BitVec 64
  winBase : BitVec 64
  deriving DecidableEq, Repr

/-- TUNNEL_REG fields (R391): DATA for a write, RESULT_ADDR for a read. -/
structure TunnelRegArgs where
  target : BitVec 12
  count : Byte
  write : Bool
  offset : Word
  data : List Word
  resultAddr : BitVec 64
  deriving DecidableEq, Repr

/-- DMA_CTRL fields (R391). -/
structure DmaCtrlArgs where
  tick : BitVec 64
  chMask : Word
  action : Byte
  deriving DecidableEq, Repr

/-- An error on an access of the DMA engine (R403): the channel (32 = command channel), the cause code of DMA_ERR_INFO,
whether the address is a host address, and whether the halt makes a DCQ write fail. -/
structure DmaError where
  channel : Fin 33
  cause : BitVec 4
  hostSide : Bool
  addr : BitVec 64
  dcqWriteFails : Bool
  deriving DecidableEq, Repr

/-- MB_XFER fields (R446). -/
structure MbXferArgs where
  bus : Byte
  addr : Byte
  wlen : Byte
  rlen : Byte
  wdata : List Byte
  resultAddr : BitVec 64
  deriving DecidableEq, Repr

/-- What the wires answer while this module drives a transaction as controller: the other devices' acknowledges (of the first
address byte, of the write bytes in a row, of the address byte after a repeated START) and the bytes read; a loss of
arbitration at a byte and bit (8: the acknowledge slot), with the complete byte that stood on the bus; or a transaction that
another event ends (a stuck bus, MB_RST_n). -/
inductive MbWire where
  | answer (addrAck : Bool) (writeAcks : Nat) (readAck : Bool) (data : List Byte)
  | lost (byte : Byte) (bit : Fin 9) (header : Byte)
  | hang
  deriving DecidableEq, Repr

/-- How a request header of the module ends (R438). -/
inductive MbHeaderEnd where
  | acked | nacked | lost
  deriving DecidableEq, Repr

/-- SUMP_QUERY fields (R463). -/
structure SumpQueryArgs where
  source : Byte
  first : Byte
  countM1 : Byte
  resultAddr : BitVec 64
  deriving DecidableEq, Repr

/-- SUMP_CLEAR fields (R463). -/
structure SumpClearArgs where
  source : Byte
  inst : Byte
  action : Byte
  deriving DecidableEq, Repr

/-- AGE_DECIDE fields (R473). -/
structure AgeDecideArgs where
  tick : BitVec 64
  id : BitVec 16
  action : Byte
  kind : Byte
  deriving DecidableEq, Repr

/-- What one weekly survey measured (R470): the eyes of the links that were surveyed, with the transmit FIR the survey would
propose for each, the retention margin × 10, the on-resistance rise of each channel and the temperature rise of each boost
group over their baselines in percent, and the derating the regression would propose. -/
structure SurveyResult where
  eyes : List (Fin 16 × Byte × Byte × BitVec 4 × BitVec 5)
  retention : Option (BitVec 16)
  ron : List (Fin 8 × Byte)
  boost : List (Fin 2 × Byte)
  derate : BitVec 6
  deriving DecidableEq, Repr

/-- What reading an image finds (R489): the first 16 bytes of its header and the first 8 of its key block, and the outcome of the
checks that rest on the fused key hash, on FIPS 186-5 and on SHA-384; its CRC-32C. -/
structure ImageCheck where
  empty : Bool
  header : List Byte
  keyBlock : List Byte
  keyHashOk : Bool
  signatureOk : Bool
  digestOk : Bool
  crc : Word
  deriving DecidableEq, Repr

/-- IMG_COMMIT fields (R490). -/
structure ImgCommitArgs where
  slot : Byte
  svnLock : Bool
  length : Word
  addr : BitVec 64
  deriving DecidableEq, Repr

/-- How a commit step ends (R491): normally, or with a flash failure; step 1 and step 4 bring what the image check finds. -/
structure StepEnd where
  ok : Bool
  check : ImageCheck
  deriving DecidableEq, Repr

/-- SLEEP fields (R495). -/
structure SleepArgs where
  tick : BitVec 64
  wakeMask : Byte
  wakeTime : TimeVal
  deriving DecidableEq, Repr

/-- The configuration-store writes that end with STORE_WRITE_DONE (R469, R490, R493, R494, R530). -/
inductive StoreKind where
  | mediaRate | prefId | imgSelect
  deriving DecidableEq, Repr

/-- What the outside supplies with a tick boundary: the DRAM errors met by the bench engine in the tick, the bits of table rows
that have gone bad (R101; DESIGN CHOICE, log 145), the measured rail of
each boost group in 0.1 V (R343), the sense samples of the tick
delivered three boundaries before, voltages of channels 0–7 and then currents, S samples each (R337), and the AUDIO_OUT channels
whose block for this boundary host memory has not delivered in full (R399). -/
structure TickIn where
  dram : List TickDramError
  upsets : List RowUpset
  rail0 : BitVec 12
  rail1 : BitVec 12
  sense : List Word
  late : List (Fin 32)
  deriving DecidableEq, Repr

/-- The commands: one constructor per row of the command table. -/
inductive Instr where
  /-- TICK_BOUNDARY (R19). The tick counter advances at a MEDIA edge. Every action latched for the new tick takes effect, and the tick's processing begins. -/
  | tickBoundary (m : TickIn)
  /-- TICK_KERF_OPEN (R18). The tick kerf of tick N − 1 opens, which closes the schedule for tick N and latches every timed action accepted for it. -/
  | tickKerfOpen
  /-- TILE_CUT (R99). A tick program that reaches cycle C − 1 is cut, its in-flight results are discarded and its outputs are not committed. -/
  | tileCut (tile : Fin 16)
  /-- SUB_FRAME_START (R165). Sub-frame j of a link frame begins with its marker, followed by its slots, its cell positions and idle blocks. -/
  | subFrameStart (link : Fin 16) (j : Fin 16)
  /-- POLL_ROUND (R381). A poll round reads the doorbell block, accepts descriptors and starts DMA rings whose tails have advanced. -/
  | pollRound (stores : List HostStore)
  /-- ROUTE_SET (R57). A ROUTE_SET sets the source and gain of one logical input of a destination, crossfading at its tick. -/
  | routeSet (h : CmdHdr) (a : RouteSetArgs)
  /-- GAIN_SET (R50). A GAIN_SET ramps the gain of an input's current tap, or completes with BAD_ARG when the input has no current tap. -/
  | gainSet (h : CmdHdr) (a : GainSetArgs)
  /-- ROUTE_CLEAR (R50). A ROUTE_CLEAR fades every tap of a destination to 0 and frees the table entry at the end of the fade. -/
  | routeClear (h : CmdHdr) (a : RouteClearArgs)
  /-- ROUTE_BATCH (R52). A ROUTE_BATCH reads and checks a list of route entries and applies them all at one boundary. -/
  | routeBatch (h : CmdHdr) (a : RouteBatchArgs)
  /-- ROUTE_QUERY (R53). A ROUTE_QUERY writes a destination's taps, gains and factors as they stand at the next boundary. -/
  | routeQuery (h : CmdHdr) (dest : BitVec 16) (resultAddr : BitVec 64)
  /-- DIRECT_SET (R64). A DIRECT_SET activates, changes or releases a direct-path channel with dB-linear gain ramps. -/
  | directSet (h : CmdHdr) (a : DirectSetArgs)
  /-- TESTGEN_SET (R60). A TESTGEN_SET configures the waveform and gain of a test generator at its tick. -/
  | testgenSet (h : CmdHdr) (a : TestgenSetArgs)
  /-- TILE_LOAD (R123). A TILE_LOAD empties the standby page, then reads an image into it, checks it and writes its INIT regions. -/
  | tileLoad (h : CmdHdr) (a : TileLoadArgs)
  /-- TILE_LOAD_COMPLETE (R111). When the last byte of an image has been read, the CH4096 completes the checks and the load and writes the completion. -/
  | tileLoadComplete (tile : Fin 16)
  /-- TILE_CLEAR (R124). A TILE_CLEAR marks the standby page of a tile empty. -/
  | tileClear (h : CmdHdr) (tile : Byte)
  /-- TILE_SWAP (R125). A TILE_SWAP schedules the page swap of a set of tiles for one tick. -/
  | tileSwap (h : CmdHdr) (tick : BitVec 64) (mask : BitVec 16)
  /-- PARAM_WRITE (R128). A PARAM_WRITE writes 1 to 16 parameter words at a tick, subject to the PARAM, ramp and protection checks. -/
  | paramWrite (h : CmdHdr) (a : ParamWriteArgs)
  /-- RAMP_SET (R133). A RAMP_SET binds, ramps or releases a ramp unit over a word set. -/
  | rampSet (h : CmdHdr) (a : RampSetArgs)
  /-- DMEM_READ (R130). A DMEM_READ copies data-memory words at the next boundary and writes them to the host. -/
  | dmemRead (h : CmdHdr) (a : DmemReadArgs)
  /-- RAMP_QUERY (R135). A RAMP_QUERY writes the records of the 64 ramp units of a tile. -/
  | rampQuery (h : CmdHdr) (tile : Byte) (resultAddr : BitVec 64)
  /-- BENCH_CREATE (R139). A BENCH_CREATE creates a bench with a quota, within the sum of all quotas. -/
  | benchCreate (h : CmdHdr) (bench : Byte) (quota : Word)
  /-- BENCH_QUOTA (R140). A BENCH_QUOTA raises or cuts the quota of an existing bench. -/
  | benchQuota (h : CmdHdr) (bench : Byte) (quota : Word)
  /-- BENCH_DELETE (R141). A BENCH_DELETE deletes a bench that holds no object. -/
  | benchDelete (h : CmdHdr) (bench : Byte)
  /-- OBJ_ALLOC (R142). An OBJ_ALLOC allocates a delay line, playback clip, capture ring or snapshot in a bench and binds its channels. -/
  | objAlloc (h : CmdHdr) (a : ObjAllocArgs)
  /-- OBJ_FREE (R144). An OBJ_FREE frees an object at its tick, unbinding its channels and freeing its extents. -/
  | objFree (h : CmdHdr) (tick : BitVec 64) (handle : BitVec 16)
  /-- DELAY_SET (R148). A DELAY_SET changes a delay line's delay by a jump or a crossfade, deferring it behind a running crossfade. -/
  | delaySet (h : CmdHdr) (a : DelaySetArgs)
  /-- PLAY_START (R150). A PLAY_START starts a clip playing from START_FRAME, ramping its gain. -/
  | playStart (h : CmdHdr) (a : PlayStartArgs)
  /-- PLAY_STOP (R151). A PLAY_STOP ramps a clip to mute and makes it idle at the end of the ramp. -/
  | playStop (h : CmdHdr) (tick : BitVec 64) (handle : BitVec 16) (rampMs : BitVec 16)
  /-- CAPTURE_CTRL (R152). A CAPTURE_CTRL starts ring or one-shot capture, or stops capture, at its tick. -/
  | captureCtrl (h : CmdHdr) (a : CaptureCtrlArgs)
  /-- BENCH_WRITE (R153). A BENCH_WRITE writes host data into a clip, ring or snapshot. -/
  | benchWrite (h : CmdHdr) (a : BenchDataArgs)
  /-- BENCH_READ (R153). A BENCH_READ reads the contents of a clip, ring or snapshot to the host. -/
  | benchRead (h : CmdHdr) (a : BenchDataArgs) (errors : List ReadDramError)
  /-- SNAP_TAKE (R154). A SNAP_TAKE copies a list of tile memory items into a snapshot object at its boundary. -/
  | snapTake (h : CmdHdr) (a : SnapTakeArgs)
  /-- BENCH_QUERY (R157). A BENCH_QUERY writes the state of a bench and of one of its objects. -/
  | benchQuery (h : CmdHdr) (bench : Byte) (handle : BitVec 16) (resultAddr : BitVec 64)
  /-- SCRUB (R160). The scrubber reads the DRAM over its period and writes back every corrected word. -/
  | scrub (errors : List DramError) (percent : BitVec 7)
  /-- LINK_CMD (R189). A LINK_CMD attaches, detaches or retrains a link at its tick. -/
  | linkCmd (h : CmdHdr) (a : LinkCmdArgs)
  /-- LINK_QUERY (R190). A LINK_QUERY writes the state, flags and partner data of a link. -/
  | linkQuery (h : CmdHdr) (link : Byte) (resultAddr : BitVec 64)
  /-- EYE_SURVEY (R191). An EYE_SURVEY starts a measurement of the eye of each named link. -/
  | eyeSurvey (h : CmdHdr) (linkMask : BitVec 16)
  /-- EYE_SURVEY_COMPLETE (R191). The eye measurement ends, its results are written to LINK_EYE and the command completes. -/
  | eyeSurveyComplete (r : List EyeResult)
  /-- NODE_ID_SET (R191). A NODE_ID_SET gives the node a new ID and floods an ID_ANNOUNCE. -/
  | nodeIdSet (h : CmdHdr) (id : BitVec 12)
  /-- LINK_SIGNAL_DETECT (R177). Transitions held for 10 µs on an enabled DOWN link start its training. -/
  | linkSignalDetect (link : Fin 16)
  /-- LINK_BLOCK_LOCK (R177). Block lock and four training markers end phase 2 and start equalization. -/
  | linkBlockLock (link : Fin 16)
  /-- LINK_EQ_COMPLETE (R177). The receiver reaches its eye margin and sends RX_READY in its training markers. -/
  | linkEqComplete (link : Fin 16) (ctle : BitVec 4)
  /-- TRAINING_MARKER (R178). A received training marker carries FIR step requests, their status and RX_READY. -/
  | trainingMarker (link : Fin 16) (m : TrainMarker) (w : FirWish)
  /-- FRAME_MARKER (R179). A received frame marker acquires or keeps frame alignment, or counts as a miss. -/
  | frameMarker (link : Fin 16) (m : FrameMarker)
  /-- MARKER_WINDOW_EXPIRY (R179). A marker window passes without a valid marker, and two consecutive misses take the link DOWN. -/
  | markerWindowExpiry (link : Fin 16)
  /-- LINK_SIGNAL_LOSS (R179). Loss of signal or loss of block lock takes the link DOWN at once. -/
  | linkSignalLoss (link : Fin 16) (signalGone : Bool)
  /-- TRAIN_TIMEOUT (R176). Training that has not completed within TRAIN_TIMEOUT takes the link DOWN and counts TRAIN_FAIL. -/
  | trainTimeout (link : Fin 16)
  /-- RETRY_WAIT (R177). After RETRY_WAIT has passed since a failed training, the link may train again. -/
  | retryWait (link : Fin 16)
  /-- SLOT_RECEIVED (R198). A received slot is checked, then forwarded or dropped by its switch entry, with VALID cleared when it is invalid. -/
  | slotReceived (link : Fin 16) (x : SlotIn)
  /-- DISCOVER (R182). A received DISCOVER cell records the partner and runs the attach checks. -/
  | discover (link : Fin 16) (cell : Cell)
  /-- DISCOVER_SEND (R181). A DISCOVER is sent every 1,024 ticks once the partner's has been received. -/
  | discoverSend (link : Fin 16)
  /-- LINK_CTRL_CELL (R183). A received LINK_CTRL cell carries ATTACH_REQ, ATTACH_ACK, DETACH or REJECT. -/
  | linkCtrlCell (link : Fin 16) (cell : Cell)
  /-- ATTACH_REQ_REPEAT (R183). An unanswered ATTACH_REQ is repeated every 1,024 ticks. -/
  | attachReqRepeat (link : Fin 16)
  /-- ID_ANNOUNCE (R184). A received ID_ANNOUNCE is flooded, and a duplicate ID is resolved by comparing EUI-64s. -/
  | idAnnounce (link : Fin 16) (cell : Cell)
  /-- ID_ANNOUNCE_PERIODIC (R184). The node floods an ID_ANNOUNCE every 65,536 ticks. -/
  | idAnnouncePeriodic
  /-- LINK_BER (R187). A link that counts more than LINK_BER_LIMIT slot CRC errors in one second raises LINK_BER. -/
  | linkBer (link : Fin 16)
  /-- PATH_RESERVE (R200). A PATH_RESERVE checks the slot budget and sends a PATH_SET along the route from the source. -/
  | pathReserve (h : CmdHdr) (a : PathReserveArgs)
  /-- PATH_SET (R202). A node receiving PATH_SET chooses an outgoing slot by the offset rule, marks it tentative and forwards the cell, or refuses. -/
  | pathSet (link : Fin 16) (cell : Cell)
  /-- PATH_REPLY (R203). A returning PATH_REPLY activates or frees each tentative entry, and at the source it completes the command. -/
  | pathReply (link : Fin 16) (cell : Cell)
  /-- PATH_RESERVE_TIMEOUT (R204). No reply within 16 ticks completes the command with TIMEOUT and sends a PATH_CLEAR. -/
  | pathReserveTimeout (addCh : BitVec 12) (copy : Bool)
  /-- TENTATIVE_EXPIRY (R204). A tentative entry that has not been confirmed within 32 ticks is freed. -/
  | tentativeExpiry (link : Fin 16) (slot : BitVec 14)
  /-- PATH_RELEASE (R207). A PATH_RELEASE stops a path at its tick and sends a PATH_CLEAR. -/
  | pathRelease (h : CmdHdr) (tick : BitVec 64) (addCh : BitVec 12) (copy : Bool)
  /-- PATH_CLEAR (R207). A received PATH_CLEAR frees the node's entry for the path at the first kerf after its tick. -/
  | pathClear (link : Fin 16) (cell : Cell)
  /-- PATH_BROKEN (R208). A received PATH_BROKEN frees the entry, passes the cell on, and at the source reports PATH_LOST. -/
  | pathBroken (link : Fin 16) (cell : Cell)
  /-- PATH_QUERY (R199). A PATH_QUERY returns the state of a path. -/
  | pathQuery (h : CmdHdr) (addCh : BitVec 12) (copy : Bool) (resultAddr : BitVec 64)
  /-- SWITCH_READ (R197). A SWITCH_READ returns switch-table entries. -/
  | switchRead (h : CmdHdr) (a : SwitchReadArgs)
  /-- PAIR_SET (R214). A PAIR_SET starts or ends pairing with a partner node and its digest groups. -/
  | pairSet (h : CmdHdr) (a : PairSetArgs)
  /-- PAIR_DIGEST (R216). A received PAIR_DIGEST cell delivers the partner's digests of tick M. -/
  | pairDigest (link : Fin 16) (cell : Cell)
  /-- ROLE_SET (R219). A ROLE_SET makes a port a twin primary, a twin standby or neither. -/
  | roleSet (h : CmdHdr) (tick : BitVec 64) (port : Byte) (role : Byte)
  /-- TWIN_READBACK_MISMATCH (R219). A twin driver that reads back 2 differing bits releases the lanes, and the standby takes over. -/
  | twinReadbackMismatch (port : Fin 8) (position : Byte)
  /-- TWIN_DIGEST_TAKEOVER (R218). With no PAIR_DIGEST from the partner in 2 ticks, the standby takes over the twin bus drive. -/
  | twinDigestTakeover (port : Fin 8)
  /-- GLOBAL_ARM (R222). A GLOBAL_ARM reads and holds a snapshot item list for a set. -/
  | globalArm (h : CmdHdr) (a : GlobalArmArgs)
  /-- GLOBAL_OP (R223). A GLOBAL_OP checks the lead and floods a GLOBAL_OP cell. -/
  | globalOp (h : CmdHdr) (a : GlobalOpArgs)
  /-- GLOBAL_OP_CELL (R224). A received GLOBAL_OP cell is adopted and scheduled, or reported LATE. -/
  | globalOpCell (link : Fin 16) (cell : Cell)
  /-- ADOPT (R224). A received ADOPT cell records the sender as a child. -/
  | adopt (link : Fin 16) (cell : Cell)
  /-- DONE (R225). A received DONE cell adds a child's totals, and at the originator completes the command. -/
  | doneCell (link : Fin 16) (cell : Cell)
  /-- DONE_TIMEOUT (R225). Four ticks after N, a node sends its DONE and counts missing children as lost. -/
  | doneTimeout (orig : BitVec 12) (opNo : BitVec 16)
  /-- GLOBAL_RESET_WARM (R221). At N + ceil(12 ms / T_tick) of a GLOBAL_RESET the warm reset follows. -/
  | globalResetWarm
  /-- TIME_SYNC (R245). A received TIME_SYNC cell gives the link's θ and delay and the anchor and standby entries. -/
  | timeSync (link : Fin 16) (cell : Cell)
  /-- ANCHOR_LOST (R248). When the anchor beat reaches BEAT_LAG + 2 ticks, the node follows the standby, and the standby claims anchorship. -/
  | anchorLost
  /-- ANCHOR_CLAIM (R247). A node whose claim has ranked better than the anchor's for WTR_S claims anchorship with GEN + 1. -/
  | anchorClaim
  /-- DPLL_UPDATE (R228). Every 10 µs the DPLL writes the MEDIA PLL frequency control word. -/
  | dpllUpdate (phaseNs : Int)
  /-- REF_SECOND (R231). Once per second each candidate is measured, checked against its limits and qualified, and the selection is revised. -/
  | refSecond (m : SecondIn)
  /-- REF_INPUT_FAULT (R233). A stop, glitch or rate change on a reference input disqualifies the candidate at once. -/
  | refInputFault (slot : Fin 8) (fault : RefFault)
  /-- TICK_ALIGNMENT (R241). When the first candidate qualifies after a warm reset, the DPLL sets phase and loads the tick counter. -/
  | tickAlignment (slot : Fin 8) (time : TimeVal)
  /-- ALIGN_WAIT_EXPIRY (R241). ALIGN_WAIT_S after HOST_READY with no qualified candidate, the node aligns on LOCAL. -/
  | alignWaitExpiry
  /-- PLL_UNLOCK (R252). A PLL that loses lock stops its domain, raises PLL_UNLOCK and relocks. -/
  | pllUnlock (pll : Fin 6)
  /-- PLL_LOCK (R250). A PLL locks in a band from its table, or raises PLL_BAND_MISS, and its domain starts. -/
  | pllLock (pll : Fin 6) (fails : Nat) (measured : BitVec 24)
  /-- PLL_MEAS_START (R251). A write of START to PLL_MEAS_CTRL starts a measurement of a PLL's band and VCO frequency. -/
  | pllMeasStart (path : AccessPath) (value : Word)
  /-- PLL_MEAS_DONE (R251). The measurement ends and sets DONE with the result in PLL_MEAS. -/
  | pllMeasDone (freqKhz : BitVec 24)
  /-- REF_FORCE (R260). A REF_FORCE forces the selection of a candidate, or returns to automatic selection. -/
  | refForce (h : CmdHdr) (tick : BitVec 64) (cand : Byte)
  /-- REF_QUERY (R260). A REF_QUERY writes the state of the eight candidate slots. -/
  | refQuery (h : CmdHdr) (resultAddr : BitVec 64)
  /-- PULSE_ALIGN (R256). A PULSE_ALIGN re-aligns the named pulse outputs and frame syncs without short pulses. -/
  | pulseAlign (h : CmdHdr) (tick : BitVec 64) (mask : BitVec 10)
  /-- TIME_SET (R260). A TIME_SET sets the second count of node time before tick alignment. -/
  | timeSet (h : CmdHdr) (seconds : BitVec 64)
  /-- PULSE_CFG_WRITE (R255). A write of PULSE_CFG switches a pulse output on in the relation of R254, or stores a change for the next alignment. -/
  | pulseCfgWrite (path : AccessPath) (m : Fin 2) (value : Word)
  /-- CMP_SET (R280). A CMP_SET configures a time comparator. -/
  | cmpSet (h : CmdHdr) (a : CmpSetArgs)
  /-- CMP_FIRE (R279). A comparator fires at its node time and runs its action on an EVT pin or a start trigger. -/
  | cmpFire (unit : Fin 32)
  /-- CAPTURE_EDGE (R281). A selected edge of a capture source, with its time as the TIME domain stamped it, is timestamped in node time (R228). -/
  | captureEdge (source : BitVec 6) (rising : Bool) (time : TimeVal)
  /-- TIME_QUERY (R282). A TIME_QUERY writes node time, the tick number and the latest captures. -/
  | timeQuery (h : CmdHdr) (resultAddr : BitVec 64)
  /-- ETH_CTRL_WRITE (R265). A write of ETH_CTRL takes the port down and restarts it within 10 ms. -/
  | ethCtrlWrite (path : AccessPath) (port : Fin 4) (value : Word)
  /-- ETH_LINK_DOWN (R265). A port whose link goes down discards its transmit queues and raises ETH_LINK_DOWN. -/
  | ethLinkDown (port : Fin 4)
  /-- ETH_FRAME_RECEIVED (R266). A received frame is classified and steered to the MAC, PTP, the service core, the AoIP engine or a queue. -/
  | ethFrameReceived (port : Fin 4) (f : EthFrame)
  /-- PAUSE_RECEIVED (R270). A received PAUSE stops transmission for pause_time quanta, or is counted and ignored. -/
  | pauseReceived (port : Fin 4) (quanta : BitVec 16)
  /-- PAUSE_EXPIRY (R270). The pause time of a received PAUSE runs out and transmission resumes. -/
  | pauseExpiry (port : Fin 4)
  /-- PAUSE_WATCHDOG (R271). A pause lasting WD_MS ends and further PAUSE frames are ignored, with PAUSE_STUCK set. -/
  | pauseWatchdog (port : Fin 4)
  /-- PAUSE_STUCK_CLEAR (R271). A write of 1 to PAUSE_STUCK makes the port obey PAUSE again. -/
  | pauseStuckClear (path : AccessPath) (port : Fin 4) (value : Word)
  /-- PAUSE_REFRESH (R269). Half the QUANTA time after the last PAUSE, with occupancy still above LOW_PCT, the PAUSE is sent again. -/
  | pauseRefresh (port : Fin 4)
  /-- PTP_MESSAGE (R276). A received PTP message is timestamped and handled by the port's PTP instance. -/
  | ptpMessage (port : Fin 4) (m : PtpMsg)
  /-- PTP_MASTER_SEND (R278). An instance in MASTER sends Sync and Announce at its intervals. -/
  | ptpMasterSend (port : Fin 4) (announce : Bool)
  /-- AOIP_PACKET_RECEIVED (R288). An RTP packet of a receive stream is accepted into its ring or counted LATE, EARLY, DUP or LOST. -/
  | aoipPacketReceived (port : Fin 4) (p : RtpIn)
  /-- AOIP_RX_SET (R299). An AOIP_RX_SET enables, changes or disables a receive stream. -/
  | aoipRxSet (h : CmdHdr) (a : AoipRxArgs)
  /-- AOIP_TX_SET (R299). An AOIP_TX_SET enables, changes or disables a transmit stream. -/
  | aoipTxSet (h : CmdHdr) (a : AoipTxArgs)
  /-- AOIP_QUERY (R300). An AOIP_QUERY writes a stream's counters and channel status. -/
  | aoipQuery (h : CmdHdr) (dir : Byte) (stream : Byte) (csPair : Byte) (resultAddr : BitVec 64)
  /-- AOIP_CS_SET (R300). An AOIP_CS_SET sets the AM824 channel status of a channel pair. -/
  | aoipCsSet (h : CmdHdr) (tick : BitVec 64) (stream : Byte) (pair : Byte) (block : List Byte)
  /-- PORT_START (R314). A PORT_START starts a port at its tick or arms it on a start trigger. -/
  | portStart (h : CmdHdr) (tick : BitVec 64) (port : PortSel) (trigger : Byte)
  /-- PORT_READY (R314). A port acquires its frames and locks, and data turns on at the next qualifying boundary. -/
  | portReady (port : Fin 12) (rate : Word) (ratio : Word)
  /-- PORT_START_TIMEOUT (R314). A port not ready 1 s after its PRECLK raises PORT_CLK_LOST and stays STARTING. -/
  | portStartTimeout (port : Fin 12)
  /-- START_SPLIT (R315). A grouped port not ready 100 ms after its PRECLK leaves the group and sets START_SPLIT. -/
  | startSplit (port : Fin 12)
  /-- PORT_STOP (R316). A PORT_STOP mutes a port at its tick, runs its POSTCLK frames, or disarms an armed port. -/
  | portStop (h : CmdHdr) (tick : BitVec 64) (port : PortSel)
  /-- POSTCLK_END (R316). After POSTCLK frames, the port stops its clocks or lanes and enters STOPPED. -/
  | postclkEnd (port : Fin 12)
  /-- PORT_SLOTS (R312). A PORT_SLOTS writes shadow slot masks and commits them at a frame boundary. -/
  | portSlots (h : CmdHdr) (a : PortSlotsArgs)
  /-- PORT_FRAME (R317). A received port frame is checked for length and phase, and a glitch is spalled. -/
  | portFrame (port : Fin 12) (f : PortFrameIn)
  /-- PORT_CLOCK_STOP (R318). No BCLK or frame edge within 4 periods stops the port's inputs with a ramp and puts it in FAULT. -/
  | portClockStop (port : Fin 12)
  /-- PORT_QUERY (R328). A PORT_QUERY writes the state and counters of a serial port. -/
  | portQuery (h : CmdHdr) (port : PortSel) (resultAddr : BitVec 64)
  /-- AES_CS_SET (R324). An AES_CS_SET replaces the channel-status or user block of an AES3 subframe. -/
  | aesCsSet (h : CmdHdr) (a : AesCsSetArgs)
  /-- AES_QUERY (R328). An AES_QUERY writes the blocks, state and counters of an AES3 port. -/
  | aesQuery (h : CmdHdr) (port : PortSel) (resultAddr : BitVec 64)
  /-- AES_CS_BLOCK (R324). A complete received channel-status block is checked, kept or discarded, and any change is reported. -/
  | aesCsBlock (aes : Fin 4) (subframe : Fin 2)
  /-- PS_START (R346). A PS_START starts the named channels with a soft rail and a 100 ms start ramp. -/
  | psStart (h : CmdHdr) (tick : BitVec 64) (mask : Byte)
  /-- PS_START_TIMEOUT (R346). A rail that is not READY 20 ms after N returns the channel to STOPPED with TIMEOUT. -/
  | psStartTimeout (ch : Fin 8)
  /-- PS_STOP (R347). A PS_STOP ramps the named channels to mute and turns them off. -/
  | psStop (h : CmdHdr) (tick : BitVec 64) (mask : Byte) (rampMs : BitVec 16)
  /-- CONVERTER_STOP (R347). A group whose channels have all been off for 50 ms stops its converter at the next boundary. -/
  | converterStop (group : Fin 2)
  /-- PS_BUDGET (R351). A PS_BUDGET sets a channel's budget and its attack and release times. -/
  | psBudget (h : CmdHdr) (a : PsBudgetArgs)
  /-- PS_FREQ_SET (R341). A PS_FREQ_SET chooses an admissible switching frequency code. -/
  | psFreqSet (h : CmdHdr) (a : PsFreqArgs)
  /-- PS_PFREQ_WRITE (R341). A write of a protected frequency updates the margin and CONFLICT without changing the frequency. -/
  | psPfreqWrite (path : AccessPath) (k : Fin 16) (value : Word)
  /-- PS_MODEL (R352). A PS_MODEL binds a channel's limit words to a tile's PARAM region, or unbinds them. -/
  | psModel (h : CmdHdr) (a : PsModelArgs)
  /-- PS_QUERY (R362). A PS_QUERY writes the state, power and levels of a channel. -/
  | psQuery (h : CmdHdr) (ch : Byte) (resultAddr : BitVec 64)
  /-- POWER_ALLOCATE (R350). Every millisecond the available power is computed and shared among the channels as budget targets. -/
  | powerAllocate (m : PowerMeasure)
  /-- PILOT_ESTIMATE (R354). Every second the pilot gives RE_EST and TVC and may raise PS_VC_TEMP or PS_OPEN_LOAD. The pilot-tone estimates of resistance in mΩ and of current in µA depend on analog measurement (R338). -/
  | pilotEstimate (ch : Fin 8) (re : BitVec 16) (microAmps : Nat)
  /-- ILIM_TRIP (R355). A half-bridge current reaching ILIM freewheels the channel for the rest of the cycle. -/
  | ilimTrip (ch : Fin 8)
  /-- SHORT_CIRCUIT (R356). Four consecutive limited cycles classify a short, fence the channel and raise PS_SHORT. -/
  | shortCircuit (ch : Fin 8) (cls : ShortClass)
  /-- PS_RETRY (R357). After the quiet period, a fenced channel retries its start ramp. -/
  | psRetry (ch : Fin 8)
  /-- PS_DC (R358). A mean terminal voltage above 2.0 V over 1 s fences the channel with FAULT = DC. -/
  | psDc (ch : Fin 8)
  /-- PS_DIE_TEMP (R358). A junction above 150 °C fences the channel with FAULT = DIE_TEMP. -/
  | psDieTemp (ch : Fin 8)
  /-- PS_RAIL_OV (R345). A clamp active for more than 1 ms mutes the group's channels and raises PS_RAIL_OV. -/
  | psRailOv (group : Fin 2)
  /-- PS_PVIN_LOW (R345). PVIN below 35 V for 1 ms mutes every channel, stops both converters and raises PS_PVIN_LOW. -/
  | psPvinLow
  /-- PVIN_RESTORED (R345). PVIN at 36 V or above for 100 ms restarts the faulted channels. -/
  | pvinRestored
  /-- PS_RAIL_SAG (R344). A rail more than 4 V low for 5 ms lowers the group's budget targets by 3 dB. -/
  | psRailSag (group : Fin 2)
  /-- DIRECT_TRACKING_RESUME (R33). 50 ms after the last direct-path channel of a group is removed, rail envelope tracking resumes. -/
  | directTrackingResume (group : Fin 2)
  /-- HIF_MODE_WRITE (R366). A write of MODE in HIF_CTRL changes the ring owner, stops fetching and reads the directory for MODE 1. -/
  | hifModeWrite (path : AccessPath) (value : Word) (stores : List HostStore)
  /-- WAKE_WRITE (R381). A write to WAKE in BAR2 starts a poll round at once, or wakes the device from sleep. -/
  | wakeWrite (stores : List HostStore)
  /-- REMOTE_WAKE_WRITE (R389). A write to REMOTE_WAKE sends a TUN_WAKE to the named target node. -/
  | remoteWakeWrite (value : Word)
  /-- TUNNEL_CLAIM (R391). A TUNNEL_CLAIM installs a bridge entry and sends TUN_CLAIM to the target. -/
  | tunnelClaim (h : CmdHdr) (a : TunnelClaimArgs)
  /-- TUNNEL_CLAIM_TIMEOUT (R391). No TUN_CLAIM_ACK within 16 ticks completes TUNNEL_CLAIM with TIMEOUT and removes the entry. -/
  | tunnelClaimTimeout (target : BitVec 12)
  /-- TUNNEL_REG (R391). A TUNNEL_REG sends a register access to a target through the tunnel. -/
  | tunnelReg (h : CmdHdr) (a : TunnelRegArgs)
  /-- TUNNEL_DROP (R391). A TUNNEL_DROP removes a bridge entry at once. -/
  | tunnelDrop (h : CmdHdr) (target : BitVec 12)
  /-- TUN_CLAIM (R385). A target receiving TUN_CLAIM refuses it, ignores it, or accepts it and answers. -/
  | tunClaim (link : Fin 16) (cell : Cell)
  /-- TUN_CLAIM_ACK (R391). A received TUN_CLAIM_ACK completes the server's TUNNEL_CLAIM. -/
  | tunClaimAck (link : Fin 16) (cell : Cell)
  /-- TUN_YIELD (R386). A server receiving TUN_YIELD removes its bridge entry and reports OWNER_CHANGE. -/
  | tunYield (link : Fin 16) (cell : Cell)
  /-- TUN_WRITE (R387). The server performs a target's write in host memory in XID order. -/
  | tunWrite (link : Fin 16) (cell : Cell)
  /-- TUN_READ (R387). The server performs a target's read in host memory and answers with TUN_DATA. -/
  | tunRead (link : Fin 16) (cell : Cell)
  /-- TUN_DATA (R387). A received TUN_DATA delivers read data to the target. -/
  | tunData (link : Fin 16) (cell : Cell)
  /-- TUN_IRQ (R383). A server receiving TUN_IRQ raises its own MSI-X vector. -/
  | tunIrq (link : Fin 16) (cell : Cell)
  /-- TUN_ACK (R387). A received TUN_ACK frees acknowledged requests or shows a gap or an error. -/
  | tunAck (link : Fin 16) (cell : Cell)
  /-- TUN_WAKE (R381). A received TUN_WAKE starts a poll round at once. -/
  | tunWake (link : Fin 16) (cell : Cell)
  /-- TUN_REG (R391). A target performs a tunnelled register access and answers with TUN_REG_RESP. -/
  | tunReg (link : Fin 16) (cell : Cell)
  /-- TUN_REG_RESP (R391). A received TUN_REG_RESP completes the server's TUNNEL_REG. -/
  | tunRegResp (link : Fin 16) (cell : Cell)
  /-- TUN_RESEND (R387). RESEND_TICKS without an acknowledgement resends every unacknowledged request in order. -/
  | tunResend
  /-- TUNNEL_LOST (R388). No acknowledgement for LOST_MS declares the tunnel lost, stops fetching and halts DMA. -/
  | tunnelLost
  /-- DMA_CTRL (R401). A DMA_CTRL starts, stops, aborts or resets the named DMA channels. -/
  | dmaCtrl (h : CmdHdr) (a : DmaCtrlArgs)
  /-- DMA_DESCRIPTOR_BEGIN (R395). A channel begins a descriptor once a DCQ entry is reserved for it. -/
  | dmaDescriptorBegin (ch : Fin 32) (stores : List HostStore)
  /-- DMA_DESCRIPTOR_COMPLETE (R397). A descriptor ends, its data is read back, and its record is written to the DCQ. -/
  | dmaDescriptorComplete (ch : Fin 32)
  /-- DMA_BUS_ERROR (R403). An error on any engine access halts all 32 channels and raises DMA_BUS_ERR. -/
  | dmaBusError (e : DmaError)
  /-- RINGS_STOPPED (R404). A failed ring-fetcher access stops fetching and raises HOST_BUS_ERR. -/
  | ringsStopped (cause : BitVec 4) (addr : BitVec 64) (eventWriteFails : Bool)
  /-- PCIE_PERST (R519). PCIE_PERST_N low holds the PCIe endpoint in reset, and its rise lets the endpoint train. -/
  | pciePerst (low : Bool)
  /-- CRC_START (R420). A write of START to CRC_CTRL loads V from INIT and clears the count. -/
  | crcStart (path : AccessPath) (unit : Fin 8) (value : Word)
  /-- CRC_DATA_B (R421). A write of CRC_DATA_B feeds one byte to a check-value unit. -/
  | crcDataB (path : AccessPath) (unit : Fin 8) (value : Word)
  /-- CRC_DATA_H (R421). A write of CRC_DATA_H feeds two bytes to a check-value unit. -/
  | crcDataH (path : AccessPath) (unit : Fin 8) (value : Word)
  /-- CRC_DATA_W (R421). A write of CRC_DATA_W feeds four bytes to a check-value unit. -/
  | crcDataW (path : AccessPath) (unit : Fin 8) (value : Word)
  /-- MB_XFER (R431). An MB_XFER runs a controller transaction on a two-wire bus, with arbitration and retries. -/
  | mbXfer (h : CmdHdr) (a : MbXferArgs) (w : MbWire)
  /-- MB_ADDR_NACK_RETRY (R431). 1.2 ms after an address NACK, the transaction is repeated. -/
  | mbAddrNackRetry (bus : Fin 2) (w : MbWire)
  /-- MB_RESET (R444). An MB_RESET drives MB_RST_n low for RST_US × 10 µs. -/
  | mbReset (h : CmdHdr) (bus : Byte)
  /-- MB_TARGET_ADDRESS (R434). An address byte matching TGT_ADDR starts a target transaction, or is NACKed in sleep as a wake source. -/
  | mbTargetAddress (bus : Fin 2) (byte : Byte)
  /-- MB_TARGET_BYTE (R435). A byte written to the target is committed, setting the pointer or completing a register write. -/
  | mbTargetByte (bus : Fin 2) (byte : Byte)
  /-- MB_TARGET_READ_BYTE (R434). The target returns the next byte of the register at the pointer. -/
  | mbTargetReadByte (bus : Fin 2)
  /-- MB_STOP (R435). A STOP or repeated START ends a target transaction and discards an incomplete word. -/
  | mbStop (bus : Fin 2) (repeated : Bool) (inByte : Bool)
  /-- MB_STUCK (R443). SCL or SDA held low for SCL_TIMEOUT sets STUCK and may drive MB_RST_n. -/
  | mbStuck (bus : Fin 2) (sclLow : Bool)
  /-- MB_RST_RECEIVED (R444). MB_RST_n low for 10 µs resets the bus interface. -/
  | mbRstReceived (bus : Fin 2)
  /-- MB_RST_RELEASE_CHECK (R444). 1 ms after MB_RST_n rises, a bus not free is marked stuck again. -/
  | mbRstReleaseCheck (bus : Fin 2) (scl : Bool) (sda : Bool)
  /-- MB_TARGET_REQUEST (R438). A target with a pending request and a free bus sends an in-band request header. -/
  | mbTargetRequest (bus : Fin 2) (e : MbHeaderEnd)
  /-- MB_REQUEST_UNSERVED (R438). SCL not falling 1 ms after a request releases SDA and sets REQ_UNSERVED. -/
  | mbRequestUnserved (bus : Fin 2)
  /-- MB_SERVE_INBAND (R439). A controller with SERVE_INBAND clocks and acknowledges an in-band request header and reports MB_REQUEST. -/
  | mbServeInband (bus : Fin 2) (header : Byte)
  /-- MB_ALERT_SERVE (R441). A controller with SERVE_ALERT reads the Alert Response Address while MB_ALERT_n is low. -/
  | mbAlertServe (bus : Fin 2) (bytes : List Byte) (lineLow : Bool)
  /-- MB_ARA_READ (R441). A target holding MB_ALERT_n answers an ARA read with its address, arbitrating. -/
  | mbAraRead (bus : Fin 2) (wins : Bool)
  /-- MB_TGT_REQ_SET (R438). A write of SET in MB_TGT_REQ sets PENDING. -/
  | mbTgtReqSet (path : AccessPath) (bus : Fin 2) (value : Word)
  /-- MB_TGT_REQ_CLEAR (R438). A write of 1 to PENDING clears the request and SERVED. -/
  | mbTgtReqClear (path : AccessPath) (bus : Fin 2) (value : Word)
  /-- FAULT_QUIET_EXPIRY (R454). QUIET after the last raise moves an instance to RECOVERING. -/
  | faultQuietExpiry (source : Byte) (inst : Byte)
  /-- SUMP_QUERY (R463). A SUMP_QUERY writes the state records of a source's instances. -/
  | sumpQuery (h : CmdHdr) (a : SumpQueryArgs)
  /-- SUMP_CLEAR (R463). A SUMP_CLEAR clears latches and releases fences of the named instances. -/
  | sumpClear (h : CmdHdr) (a : SumpClearArgs)
  /-- PROPOSE (R467). A PROPOSE in PROT_CMD checks and freezes the items and issues a nonce. -/
  | propose (path : AccessPath) (value : Word)
  /-- WITHDRAW (R468). A WITHDRAW in PROT_CMD by the proposer's class returns the proposal to IDLE. -/
  | withdraw (path : AccessPath) (value : Word)
  /-- PROT_CONFIRM (R467). A confirmation value from another class commits the proposal atomically, or is refused. -/
  | protConfirm (path : AccessPath) (value : Word)
  /-- PROT_TIMEOUT (R468). 10 s without a matching confirmation discards the proposal as a TIMEOUT refusal. -/
  | protTimeout
  /-- PROT_STORE_DONE (R469). The committed values reach both copies of the configuration store and STORE_BUSY clears. -/
  | protStoreDone
  /-- AGE_QUERY (R474). An AGE_QUERY writes the ageing plan, monitors and proposals. -/
  | ageQuery (h : CmdHdr) (resultAddr : BitVec 64)
  /-- AGE_DECIDE (R473). An AGE_DECIDE approves, rejects or reverts an ageing proposal. -/
  | ageDecide (h : CmdHdr) (a : AgeDecideArgs)
  /-- AGE_VDD_ADJUST (R471). The replica margin adjusts the core supply by one step at most every 10 s. -/
  | ageVddAdjust (worstPs : BitVec 16)
  /-- AGE_SURVEY (R470). The weekly eye survey, retention test and power-stage regressions run and may propose changes. -/
  | ageSurvey (r : SurveyResult)
  /-- POWER_ON (R480). PVIN above 32.0 V, or RESET_N rising, starts a cold start. -/
  | powerOn (compat : Bool) (pvinAbsent : Bool)
  /-- PIN_RESET (R479). RESET_N held low for 1 µs resets the module and releases the outputs at once. -/
  | pinReset
  /-- BROWN_OUT (R479). PVIN below 30.0 V, or an internal rail out of tolerance, for 10 µs resets the module. -/
  | brownOut
  /-- OVER_TEMPERATURE (R513). T_case above 135 °C for 1 s switches the internal rails off as a brown-out. -/
  | overTemperature
  /-- OVER_TEMPERATURE_RECOVER (R513). T_case below 120 °C with PVIN present starts a cold start. -/
  | overTemperatureRecover (compat : Bool)
  /-- IMAGE_VERIFIED (R489). The boot ROM verifies the chosen slot or falls back to the other. -/
  | imageVerified (a b : ImageCheck)
  /-- HOST_READY (R480). Boot completes, STAGE becomes HOST_READY and the setup window opens. -/
  | hostReady
  /-- SLOT_CHECK (R489). Within 2 s of HOST_READY, the firmware checks the slot not booted. -/
  | slotCheck (c : ImageCheck)
  /-- WARM (R529). A write of WARM to GLB_RESET with CONFIRM 0xA5 requests a warm reset. -/
  | warmWrite (path : AccessPath) (value : Word)
  /-- WARM_RESET (R484). A warm reset takes hold after the mute ramp, loses volatile state and reboots to HOST_READY. -/
  | warmReset
  /-- WATCHDOG (R486). A watchdog not served for 1 s causes a warm reset. -/
  | watchdog
  /-- SETUP_LOCK (R527). A write of SETUP_LOCK closes the setup window and applies the matrix topology and slices. -/
  | setupLock (path : AccessPath) (value : Word)
  /-- STORE (R530). A write of STORE in GLB_MEDIA_RATE writes the media rate to the configuration store. -/
  | storeRate (path : AccessPath) (value : Word)
  /-- GLB_TICK_LO_READ (R531). A read of GLB_TICK_LO captures the high tick bits for the reading path. -/
  | glbTickLoRead (path : AccessPath)
  /-- IMG_COMMIT (R490). An IMG_COMMIT checks the authorization, consumes it and starts programming the image into a slot. -/
  | imgCommit (h : CmdHdr) (a : ImgCommitArgs)
  /-- IMG_COMMIT_STEP_DONE (R491). A commit step ends, and the next step begins, or the commit completes or fails. -/
  | imgCommitStepDone (e : StepEnd)
  /-- IMG_SELECT (R493). An IMG_SELECT points the next boot at a VALID slot. -/
  | imgSelect (h : CmdHdr) (slot : Byte)
  /-- CFG_SET (R494). A CFG_SET stores the preferred node ID in the configuration store. -/
  | cfgSet (h : CmdHdr) (prefId : BitVec 12)
  /-- SLEEP (R495). A SLEEP command puts the node to sleep at its tick if no activity prevents it. -/
  | sleep (h : CmdHdr) (a : SleepArgs)
  /-- SLEEP_WAKE (R497). An enabled wake source ends sleep, restarts the clocks and reports WOKEN. -/
  | sleepWake (source : Fin 8)
  /-- METER_CLEAR (R70). A write of CLEAR to METER_CTRL clears every meter at the next boundary. -/
  | meterClear (path : AccessPath) (value : Word)
  /-- METER_SRC_WRITE (R70). A write of METER_SRC clears the meter and applies the new source from the next boundary. -/
  | meterSrcWrite (path : AccessPath) (e : Fin 1024) (value : Word)
  /-- LINK_ENABLE_WRITE (R192). Writing ENABLE 0 takes a link DOWN within one sub-frame and squelches it. -/
  | linkEnableWrite (path : AccessPath) (link : Fin 16) (value : Word)
  /-- TEST_DBG_READ (R532). A write of READ in TEST_DBG_CTRL starts a debug-window read of device memory. -/
  | testDbgRead (path : AccessPath) (value : Word)
  /-- TEST_DBG_WRITE (R532). A write of WRITE in TEST_DBG_CTRL starts a debug-window write of device memory. -/
  | testDbgWrite (path : AccessPath) (value : Word)
  /-- TEST_DBG_DONE (R532). A debug-window access completes with its response in TEST_DBG_STAT. -/
  | testDbgDone (slvErr : Bool)
  /-- TRACE_ENABLE (R533). Writing ENABLE from 0 to 1 clears the trace and sets NEXT to 0. -/
  | traceEnable (path : AccessPath) (value : Word)
  /-- REGISTER_WRITE (R525). A write to a register without its own row is applied field by field under the access codes. -/
  | registerWrite (path : AccessPath) (offset : BitVec 18) (value : Word)
  /-- REF_SIGNAL_DETECT (R234). Signal appears on an ABSENT reference candidate's input, which moves the candidate to QUALIFYING. -/
  | refSignalDetect (slot : Fin 8)
  /-- ETH_LINK_UP (R265). An Ethernet port's PCS (and auto-negotiation where used) reaches link up, and an ETH_LINK event with byte 0 = 1 is reported. -/
  | ethLinkUp (port : Fin 4) (fecLock : Bool) (anPause : Bool)
  /-- CELL_RECEIVED (R174). A received cell that fails its CRC, has a reserved type, or is a source-routed or flood cell in transit is discarded, counted or forwarded on its next link. -/
  | cellReceived (link : Fin 16) (cell : Cell) (crc : Word)
  /-- PSTAGE_TICK_STEP (R336). While the MEDIA tick is stopped during a relock, the PSTAGE clock counts tick-length steps that advance the hold, ramp and silence of the power-stage channels and the converter-stop boundary. -/
  | pstageTickStep
  /-- CLAMP_IDLE_RESTART (R358). After a PS_RAIL_OV mute, the clamp has been idle for 1 s and the group's channels restart by R346. -/
  | clampIdleRestart (group : Fin 2)
  /-- DIE_TEMP_RECOVER (R358). A channel fenced for DIE_TEMP sees its junction fall below 130 °C and its retry may run. -/
  | dieTempRecover (ch : Fin 8)
  /-- TUNNEL_REG_TIMEOUT (R391). A TUNNEL_REG with no TUN_REG_RESP within 16 ticks completes with TIMEOUT and is not resent. -/
  | tunnelRegTimeout (target : BitVec 12) (rseq : Byte)
  /-- MB_BUS_FREE (R432). The bus has been free for T_LOW cycles after a STOP, so a waiting MB_XFER begins or a controller that lost arbitration retries its transaction from START. -/
  | mbBusFree (bus : Fin 2) (w : MbWire)
  /-- MB_XFER_TIMEOUT (R431). An MB_XFER whose bus has not become free within 100 ms of acceptance completes with TIMEOUT. -/
  | mbXferTimeout (bus : Fin 2) (seq : BitVec 16)
  /-- MB_RST_DRIVE_END (R444). After RST_US × 10 µs, the CH4096 releases the MB_RST_n line it drove, which completes MB_RESET and starts the bus-free check. -/
  | mbRstDriveEnd (bus : Fin 2)
  /-- STORE_WRITE_DONE (R530). A configuration-store write started by STORE in GLB_MEDIA_RATE, by CFG_SET or by IMG_SELECT reaches both copies; STORE_BUSY clears or the command completes. -/
  | storeWriteDone (kind : StoreKind)
  /-- RETRAIN_SQUELCH_END (R189). 10 µs after a RETRAIN takes effect, the squelch ends and the transmitter starts training from phase 1. -/
  | retrainSquelchEnd (link : Fin 16)
  deriving DecidableEq, Repr

end Sys2Proof
end

