-- ==== Sys2Proof/Decode.lean ====
section
/-!
DEFINITION. The command that a word spells by the bits of the command table. The table gives no row any bits: a command of the
host is a 64-byte descriptor (Machine/Descriptor.lean reads it), and every other row is an event. So no word spells a command.
-/
namespace Sys2Proof

/-- The command a word of `nbits` bits spells: none, since no row of the table gives bits (DESIGN CHOICE, log 2). -/
def decodeTableWord (_nbits _w : Nat) : Option Instr := none

end Sys2Proof
end

