-- ==== Sys2Proof/Machine/Bits.lean ====
section
/-!
DEFINITION. Bit fields, byte order and sign: every multi-byte value of the CH4096 is little-endian (R4, R5), and a field
[hi:lo] of a register or descriptor is read and written by its bit positions.
-/
namespace Sys2Proof.Machine

/-- Bits [hi:lo] of a value, as a number. -/
def bitsOf (v : Nat) (hi lo : Nat) : Nat := (v / 2 ^ lo) % 2 ^ (hi + 1 - lo)

/-- Bit i of a value. -/
def bitOf (v : Nat) (i : Nat) : Bool := (v / 2 ^ i) % 2 = 1

/-- Field [hi:lo] of a 32-bit register. -/
def fld (w : Word) (hi lo : Nat) : Nat := bitsOf w.toNat hi lo

/-- Single-bit field of a register. -/
def flag (w : Word) (i : Nat) : Bool := w.getLsbD i

/-- The mask of field [hi:lo]. -/
def fldMask (hi lo : Nat) : Word := BitVec.ofNat 32 ((2 ^ (hi + 1 - lo) - 1) * 2 ^ lo)

/-- Field [hi:lo] of `w` replaced by `v` (modulo the field's width). -/
def setFld (w : Word) (hi lo : Nat) (v : Nat) : Word :=
  (w &&& ~~~ fldMask hi lo) ||| (BitVec.ofNat 32 ((v % 2 ^ (hi + 1 - lo)) * 2 ^ lo))

/-- A Boolean as a bit. -/
def b2n (b : Bool) : Nat := if b then 1 else 0

/-- Bit i of a Boolean, in place. -/
def bitAt (b : Bool) (i : Nat) : Nat := if b then 2 ^ i else 0

/-- The low `n` bytes of a value, least significant first. -/
def leBytes : Nat → Nat → List Byte
  | 0, _ => []
  | n + 1, v => BitVec.ofNat 8 v :: leBytes n (v / 256)

/-- The value of bytes in little-endian order. -/
def ofLe : List Byte → Nat
  | [] => 0
  | b :: bs => b.toNat + 256 * ofLe bs

/-- The value of bytes, most significant first. -/
def ofBe (bs : List Byte) : Nat := bs.foldl (fun a b => a * 256 + b.toNat) 0

/-- Two's complement reading of a `w`-bit value. -/
def signed (w v : Nat) : Int := if v % 2 ^ w < 2 ^ (w - 1) then (v % 2 ^ w : Nat) else ((v % 2 ^ w : Nat) : Int) - (2 ^ w : Nat)

/-- A `w`-bit two's complement encoding of an integer. -/
def unsign (w : Nat) (i : Int) : Nat := (i % (2 ^ w : Nat)).toNat

/-- An integer clamped to [lo, hi]. -/
def clampI (lo hi i : Int) : Int := if i < lo then lo else if hi < i then hi else i

/-- A number saturated at 2^w − 1, as the counters of the CH4096 are. -/
def satN (w n : Nat) : Nat := if n < 2 ^ w then n else 2 ^ w - 1

/-- Ceiling of a/b. -/
def ceilDiv (a b : Nat) : Nat := (a + b - 1) / b

/-- Nearest integer to a/b, halves upward (b > 0). -/
def roundDiv (a : Int) (b : Nat) : Int := (2 * a + b) / (2 * (b : Int))

/-- Reverse the low `n` bits of a value (R420: reflect). -/
def reflectBits : Nat → Nat → Nat
  | 0, _ => 0
  | n + 1, v => (v % 2) * 2 ^ n + reflectBits n (v / 2)

/-- Exclusive or of two numbers, bit by bit over `n` bits. -/
def xorN (n a b : Nat) : Nat := ((BitVec.ofNat n a) ^^^ (BitVec.ofNat n b)).toNat

/-- Number of set bits among the low `n` bits. -/
def popCount : Nat → Nat → Nat
  | 0, _ => 0
  | n + 1, v => v % 2 + popCount n (v / 2)

/-- The positions of the set bits among the low `n` bits, from bit 0 up. -/
def setBits (n v : Nat) : List Nat := (List.range n).filter fun i => bitOf v i

/-- Even parity over `n` bits: true when the number of set bits is odd. -/
def oddParity (n v : Nat) : Bool := popCount n v % 2 = 1

/-- Insertion sort by a numeric key, stable: events of one boundary are ordered so (R379). -/
def insertBy {α : Type} (key : α → Nat) (x : α) : List α → List α
  | [] => [x]
  | y :: ys => if key x < key y then x :: y :: ys else y :: insertBy key x ys

def sortBy {α : Type} (key : α → Nat) (l : List α) : List α := l.foldl (fun acc x => insertBy key x acc) []

end Sys2Proof.Machine
end

