-- ==== Sys2Proof/Machine/HostState.lean ====
section
/-!
DEFINITION. The state of the host interface (chapter "Host Control: Rings, Doorbells and DMA"): accepted commands, command
rings, record queues, events, interrupts, the control tunnel and the DMA channels.
-/
namespace Sys2Proof.Machine

/-- An accepted command (R371, R372): where its descriptor stood, what its completion record returns, its acceptance number,
the ring-owner epoch and takeover it was accepted under (R366, R386), its place in the order of acceptance (R20), and whether it
runs late (R23). -/
structure Ticket where
  ring : Fin 8
  index : BitVec 12
  tag : BitVec 16
  irq : Bool
  seq : BitVec 16
  epoch : Nat
  takeover : Nat
  order : Nat
  late : Bool
  deriving DecidableEq, Repr

/-- A command ring as the directory gives it (R368), its head, the tail last read, and how many of its accepted commands, of
this owner and of earlier ones, have no completion record yet (R372, R386). -/
structure CmdRing where
  base : BitVec 64
  log2 : Nat
  cq : Fin 4
  head : Nat
  tail : Nat
  outstanding : Nat
  deriving DecidableEq, Repr

/-- A completion, event or DMA completion queue (R368, R375): its entry, the write index, the PHASE of the next record, the
head last read from the doorbell block and the reserved entries; of these `old` for commands accepted before the last
takeover, of which `oldDue` more wait for an entry (R386). -/
structure RecQueue where
  base : BitVec 64
  log2 : Nat
  vector : BitVec 6
  irqEn : Bool
  write : Nat
  phase : Bool
  head : Nat
  reserved : Nat
  old : Nat
  oldDue : Nat
  deriving DecidableEq, Repr

/-- The states of a DMA channel (R401). -/
inductive DmaState where
  | stopped | running | stopping | halted
  deriving DecidableEq, Repr

/-- A DMA descriptor as fetched (R393). -/
structure DmaDesc where
  own : Bool
  irq : Bool
  tag : BitVec 16
  length : Nat
  hostAddr : BitVec 64
  devAddr : BitVec 64
  toHost : Bool
  badArg : Bool
  deriving DecidableEq, Repr

/-- A descriptor that has been begun: its ring index, the bytes transferred, the tick of its first audio block, and the
TRUNC flag of its record (R400). -/
structure DmaCur where
  desc : DmaDesc
  index : Nat
  done : Nat
  firstTick : Option Nat
  trunc : Bool
  deriving DecidableEq, Repr

/-- An audio block read from host memory that waits for its boundary K (R398): its address, its bytes as they were at K − LEAD,
and its descriptor if it is the last block of it. -/
structure DmaBlock where
  at_ : Nat
  addr : Nat
  bytes : List Byte
  last : Option DmaCur
  deriving DecidableEq, Repr

/-- A DMA channel: its directory entry (R368), its ring position, its state, the descriptor in progress and, for AUDIO_OUT, the
blocks that wait for their boundary, and whether a block of the descriptor being handed over was not read in time (R399). -/
structure DmaCh where
  base : BitVec 64
  log2 : Nat
  mode : Nat
  first : Nat
  count : Nat
  lead : Nat
  qos : Nat
  head : Nat
  tail : Nat
  state : DmaState
  cur : Option DmaCur
  blocks : List DmaBlock
  under : Bool
  deriving DecidableEq, Repr

/-- A DMA_CTRL STOP or ABORT that completes when every named channel is STOPPED (R401). -/
structure DmaWait where
  ticket : Ticket
  mask : Nat
  tick : Nat
  deriving DecidableEq, Repr

/-- An event waiting for the next tick boundary (R378, R379): TYPE, INDEX and the 24 DATA bytes. -/
structure Event where
  ty : BitVec 16
  index : Byte
  data : List Byte
  deriving DecidableEq, Repr

/-- A completion record that waits for the new owner's directory or for a free entry of its queue (R386): its ring, and the
record without its PHASE bit. -/
structure WaitRec where
  ring : Fin 8
  bytes : List Byte
  irq : Bool
  deriving DecidableEq, Repr

/-- One interrupt source (R383): whether it has raised its vector in this tick, and whether a further call waits for the next
boundary. -/
structure IrqSource where
  raised : Bool
  due : Bool
  deriving DecidableEq, Repr

/-- One MSI-X table entry (R365, R383). -/
structure MsixEntry where
  addr : BitVec 64
  data : Word
  masked : Bool
  deriving DecidableEq, Repr

/-- The bound tunnel owner, or an accepted claim (R385, R386). -/
structure Owner where
  id : BitVec 12
  gen : Byte
  eui : Eui
  hca : BitVec 64
  retLinks : BitVec 64
  hops : Nat
  link : Fin 16
  deriving DecidableEq, Repr

/-- A request of the target to its server (R387). -/
inductive TunReqKind where
  | write (addr : BitVec 64) (bytes : List Byte)
  | read (addr : BitVec 64) (len : Nat)
  | irq (vector : BitVec 6)
  deriving DecidableEq, Repr

/-- What a request is for: the ring fetcher (R404), the directory, a DMA channel, the command channel (32, R392), the record of a
DMA channel (R395), the result data of a command (R376) by its place in the order of acceptance, or the data of a global
operation's snapshot (R221). -/
inductive TunUse where
  | fetch | dir | dma (ch : Nat) | dcq (ch : Nat) | result (order : Nat) | snap (op : Nat)
  deriving DecidableEq, Repr

/-- An unacknowledged request: its XID, what it asks and for whom, the tick of its last sending, and for a read the bytes that
have arrived. -/
structure TunReq where
  xid : BitVec 16
  kind : TunReqKind
  use : TunUse
  sent : Nat
  got : Nat
  deriving DecidableEq, Repr

/-- A bridge entry of the server side (R391), with the XID it expects next, whether it has executed requests since its last
acknowledgement and the first write of them that lay outside the window (R387), and the TUNNEL_CLAIM that waits for its
answer. -/
structure Bridge where
  hops : Nat
  gen : Byte
  winPages : Nat
  route : BitVec 64
  hca : BitVec 64
  winBase : BitVec 64
  xidNext : BitVec 16
  executed : Bool
  err : Option (BitVec 16)
  claim : Option Ticket
  claimAt : Nat
  deriving DecidableEq, Repr

/-- A command whose record waits for the read-back of its result data (R376): the record's STATUS and CMD_SPECIFIC, and for a
timed command the tick at which it took effect. -/
structure ResultWait where
  ticket : Ticket
  status : Nat
  specific : Nat
  tick : Option Nat
  deriving DecidableEq, Repr

/-- A TUNNEL_REG that waits for its response (R391). -/
structure TunRegWait where
  ticket : Ticket
  target : BitVec 12
  rseq : Byte
  write : Bool
  count : Nat
  resultAddr : BitVec 64
  sent : Nat
  deriving DecidableEq, Repr

/-- The host interface. MODE lies in the register HIF_CTRL; the flags of HIF_STAT stand here. `dirOk`: a directory is in force;
`dirWait`: an accepted claim has not read its directory yet (R386); `stopTry`: the one RINGS_STOPPED event of R404 is due, and
whether its write fails; `order`: commands and global operations accepted so far (R18, R20); `eventsNow`: events that are
reported at the very boundary at which they arise (R380); `again`: a further poll round follows the running one (R381). -/
structure HostIf where
  polling : Bool
  startPoll : Bool
  dirOk : Bool
  dirWait : Bool
  dirBad : Bool
  dirOffset : Nat
  ringsStopped : Bool
  stopTry : Option Bool
  tunnelLost : Bool
  owner : Option Owner
  claim : Option Owner
  epoch : Nat
  takeover : Nat
  rings : Vector CmdRing 8
  cqs : Vector RecQueue 4
  eq : RecQueue
  dcq : RecQueue
  accepted : Nat
  order : Nat
  events : List Event
  eventsNow : List Event
  again : Bool
  eqLostPending : Nat
  waiting : List WaitRec
  irqs : Vector IrqSource 6
  polledThisTick : Bool
  deriving DecidableEq, Repr

/-- The PCIe endpoint and its BAR2 (R365): whether PCIE_PERST_N is low and holds the endpoint in reset
(R519), the MSI-X table and its
pending bits. -/
structure Pcie where
  perst : Bool
  msix : Vector MsixEntry 64
  pba : BitVec 64
  deriving DecidableEq, Repr

/-- The control tunnel, both sides (R384–R391): the next XID, the unacknowledged requests, those not issued while 512 are
held, the tick of the last acknowledgement or of the first request outstanding since (R388), the bridge entries by target ID,
the register accesses that wait, what has come of the data of the descriptors that stand at the heads of rings, as (address,
bytes) (R389), and the commands that wait for the read-back of their result data (R376). -/
structure Tunnel where
  xid : BitVec 16
  unacked : List TunReq
  unissued : List (TunReqKind × TunUse)
  lastAck : Nat
  bridges : List (Nat × Bridge)
  regWaits : List TunRegWait
  rseq : Byte
  come : List (Nat × Nat)
  results : List ResultWait
  deriving DecidableEq, Repr

def CmdRing.reset : CmdRing := { base := 0, log2 := 0, cq := 0, head := 0, tail := 0, outstanding := 0 }

def RecQueue.reset : RecQueue :=
  { base := 0, log2 := 0, vector := 0, irqEn := false, write := 0, phase := true, head := 0, reserved := 0, old := 0,
    oldDue := 0 }

def DmaCh.reset : DmaCh :=
  { base := 0, log2 := 0, mode := 0, first := 0, count := 0, lead := 0, qos := 0, head := 0, tail := 0,
    state := .stopped, cur := none, blocks := [], under := false }

def HostIf.reset : HostIf :=
  { polling := false, startPoll := false, dirOk := false, dirWait := false, dirBad := false, dirOffset := 0, ringsStopped := false, stopTry := none, tunnelLost := false,
    owner := none, claim := none, epoch := 0, takeover := 0, rings := Vector.replicate 8 CmdRing.reset,
    cqs := Vector.replicate 4 RecQueue.reset, eq := RecQueue.reset, dcq := RecQueue.reset, accepted := 0, order := 0,
    events := [], eventsNow := [], again := false, eqLostPending := 0, waiting := [],
    irqs := Vector.replicate 6 { raised := false, due := false }, polledThisTick := false }

def Pcie.reset : Pcie :=
  { perst := false,
    msix := Vector.replicate 64 { addr := 0, data := 0, masked := true }, pba := 0 }

def Tunnel.reset : Tunnel :=
  { xid := 0, unacked := [], unissued := [], lastAck := 0, bridges := [], regWaits := [], rseq := 0, come := [], results := [] }

end Sys2Proof.Machine
end

