-- ==== Sys2Proof/Machine/CoreState.lean ====
section
/-!
DEFINITION. The state of the tick, of the power states, boot and flash, of the Sump, of two-party protection, of ageing and of
the TEST block (chapters "The Tick", "Power States, Boot, Images and Resets", "Faults, Two-Party Protection and Ageing",
"Setup Register Space").
-/
namespace Sys2Proof.Machine

/-- Registers at values other than their reset values: (BAR0 offset, value), offsets strictly rising. -/
abbrev Regs := List (Nat × Word)

/-- BOOT_STAT.STAGE (R500). -/
inductive Stage where
  | rom | verified | hostReady | romHalt
  deriving DecidableEq, Repr

/-- BOOT_STAT.RESET_CAUSE (R500). -/
inductive ResetCause where
  | powerOn | brownOut | pin | warmRequest | globalReset | watchdog
  deriving DecidableEq, Repr

/-- The power states (chapter opening): off or held in reset, running, and the two stages of sleep (R496): a node that has
passed the checks of R495 at a boundary N enters SLEEP at N + 3. -/
inductive PowerState where
  | off | running | sleep
  deriving DecidableEq, Repr

/-- A node on its way to sleep (R496): boundary N, the wake mask and the wake time. -/
structure SleepPlan where
  at_ : Nat
  mask : Byte
  time : TimeVal
  deriving DecidableEq, Repr

/-- Power and resets in progress; `opt3v3`: the optics supply is on (R510). -/
structure Power where
  state : PowerState
  compat : Bool
  stage : Stage
  slot : Fin 2
  fallback : Bool
  cause : ResetCause
  watchdogs : Nat
  bootFaults : List (Nat × Nat)
  sleepPlan : Option SleepPlan
  warmAsked : Option ResetCause
  opt3v3 : Bool
  readyAt : Nat
  warmAt : Nat
  tooHot : Bool
  unpowered : Bool
  deriving DecidableEq, Repr

/-- The tick (R13–R18): the counter, whether it has been loaded by alignment, whether the tick kerf is open, the MEDIA rate in
force (0–5 as RATE codes it), the REF time elapsed since the cold start in units of 1/28,224,000 s (every sample period is a
whole number of them), and the capture registers of the tick's high half per access path (R531). -/
structure TickState where
  tick : BitVec 64
  aligned : Bool
  kerf : Bool
  rate : Fin 6
  refTime : Nat
  capBar0 : Word
  capTunnel : Word
  capMb1 : Word
  capDma : Word
  capMb0 : Word
  deriving DecidableEq, Repr

/-- SLOT_x_INFO.STATE (R500). -/
inductive SlotState where
  | empty | valid | invalid | writing
  deriving DecidableEq, Repr

/-- What is known of an image slot (R489, R500). -/
structure SlotInfo where
  state : SlotState
  svn : Byte
  version : BitVec 16
  crc : Word
  deriving DecidableEq, Repr

/-- One copy of the configuration store (R488): its pointer log, the committed RWP values by BAR0 offset, COMMIT_SEQ, the
preferred node ID, and the stored media rate. -/
structure StoreCopy where
  log : List Word
  rwp : Regs
  commitSeq : BitVec 16
  prefId : BitVec 12
  rate : Option (Fin 6)
  deriving DecidableEq, Repr

/-- An image commit in progress (R491): the step 1–5, whether its pointer entry stands in copy 0 already, and the image. -/
structure Commit where
  ticket : Ticket
  slot : Fin 2
  svnLock : Bool
  length : Nat
  addr : BitVec 64
  step : Nat
  copy0 : Bool
  svn : Byte
  version : Word
  crc : Word
  deriving DecidableEq, Repr

/-- A configuration-store write in progress other than a protected commit (R493, R494, R530). -/
structure StoreWrite where
  kind : StoreKind
  ticket : Option Ticket
  value : Nat
  deriving DecidableEq, Repr

/-- The flash, the fuses and the writes to them (R488–R494); `cal` holds the band entries that the service core has written to
the calibration area (R251), keyed PLL × 32 + entry. -/
structure Flash where
  slots : Vector SlotInfo 2
  copies : Vector StoreCopy 2
  minSvn : Byte
  raisesLeft : BitVec 5
  cal : List (Nat × Word)
  commit : Option Commit
  writes : List StoreWrite
  deriving DecidableEq, Repr

/-- The states of a fault instance (R454). -/
inductive FaultState where
  | clear | active | recovering | latched
  deriving DecidableEq, Repr

/-- One fault instance (R454, R455): raise and recovery counts, the REF times of the last 15 entries to RECOVERING, the tick
of the last transition, the severity in force at its last raise or transition (R456), the DETAIL of its last raise (R464), and the
REF time from which its QUIET runs (R454, R458). -/
structure SumpInst where
  state : FaultState
  raises : Nat
  recoveries : Nat
  window : List Nat
  lastTick : Nat
  sev : Nat
  detail : Nat
  quietFrom : Nat
  quiet : Nat
  deriving DecidableEq, Repr

/-- A unit that a fence isolates (R457). Ports 0–7 are serial, 8–11 AES3. -/
inductive FenceUnit where
  | tile (n : Fin 16) | link (n : Fin 16) | port (n : Fin 12) | eth (n : Fin 4) | channel (n : Fin 8)
  deriving DecidableEq, Repr

/-- The Sump: every instance that is not at its reset value (keyed source × 256 + instance), the fences held, and for each
whether its block has been isolated; HALTED (R460), a HALT latch whose stop has still to be
carried out, and whether the node stands aside (R459). -/
structure Sump where
  insts : List (Nat × SumpInst)
  fences : List (FenceUnit × Bool)
  halted : Bool
  haltDue : Bool
  aside : Bool
  deriving DecidableEq, Repr

/-- Two-party protection (R465–R469). -/
structure Prot where
  proposed : Bool
  classA : Fin 4
  count : Nat
  nonce : Word
  proposedAt : Nat
  lastResult : Nat
  storeBusy : Bool
  commitSeq : Nat
  deriving DecidableEq, Repr

/-- A pending ageing proposal (R472): ID, kind, target (link) and value. -/
structure Proposal where
  id : BitVec 16
  kind : Nat
  target : Nat
  value : BitVec 16
  deriving DecidableEq, Repr

/-- The CLOCK_STEP sequence of R473: accepted, running on FAB ÷ 4 since the first boundary, carried out at boundary `at`. -/
structure ClockStep where
  ticket : Ticket
  at_ : Nat
  onFab : Bool
  revert : Bool
  deriving DecidableEq, Repr

/-- The wear record (R470–R474) and what boot re-applies from it. -/
structure Wear where
  vddSteps : Int
  marginPs : Nat
  refresh : Fin 3
  clockStep : Bool
  ka : Nat
  retention : BitVec 16
  eyes : Vector Byte 16
  ron : Vector Byte 8
  boost : Vector Byte 2
  days : Word
  lastAdjust : Option Nat
  proposals : List Proposal
  nextId : BitVec 16
  oldFir : List (Nat × (BitVec 4 × BitVec 5))
  newFir : List (Nat × (BitVec 4 × BitVec 5))
  step : Option ClockStep
  deriving DecidableEq, Repr

/-- A debug-window access in progress (R532), and whether the regions allowed it when it began (R418). -/
structure DbgAccess where
  allowed : Bool
  write : Bool
  path : AccessPath
  addr : Nat
  data : Word
  deriving DecidableEq, Repr

/-- The TEST block: the window access and the last response. -/
structure Test where
  dbg : Option DbgAccess
  resp : Nat
  deriving DecidableEq, Repr

def SumpInst.reset : SumpInst :=
  { state := .clear, raises := 0, recoveries := 0, window := [], lastTick := 0, sev := 0, detail := 0, quietFrom := 0, quiet := 0 }

def Sump.reset : Sump := { insts := [], fences := [], halted := false, haltDue := false, aside := false }

def Prot.reset : Prot :=
  { proposed := false, classA := 0, count := 0, nonce := 0, proposedAt := 0, lastResult := 0, storeBusy := false, commitSeq := 0 }

def StoreCopy.blank : StoreCopy := { log := [], rwp := [], commitSeq := 0, prefId := 0, rate := none }

def Flash.blank : Flash :=
  { slots := Vector.replicate 2 { state := .empty, svn := 0, version := 0, crc := 0 },
    copies := Vector.replicate 2 StoreCopy.blank, minSvn := 0, raisesLeft := 31, cal := [], commit := none, writes := [] }

def Wear.blank : Wear :=
  { vddSteps := 0, marginPs := 0, refresh := 0, clockStep := false, ka := 64, retention := 0,
    eyes := Vector.replicate 16 0, ron := Vector.replicate 8 0, boost := Vector.replicate 2 0, days := 0,
    lastAdjust := none, proposals := [], nextId := 0, oldFir := [], newFir := [], step := none }

def TickState.reset : TickState :=
  { tick := 0, aligned := false, kerf := false, rate := 3, refTime := 0, capBar0 := 0, capTunnel := 0, capMb1 := 0,
    capDma := 0, capMb0 := 0 }

def Power.reset : Power :=
  { state := .running, compat := false, stage := .rom, slot := 0, fallback := false, cause := .powerOn, watchdogs := 0,
    bootFaults := [], sleepPlan := none, warmAsked := none, opt3v3 := false, readyAt := 0,
    warmAt := 0, tooHot := false, unpowered := false }

def Test.reset : Test := { dbg := none, resp := 0 }

end Sys2Proof.Machine
end

