-- ==== Sys2Proof/Machine/LinkState.lean ====
section
/-!
DEFINITION. The state of the 16 Dorura links and of the node's identity (chapter "Dorura Links: Attachment, Framing and
Discovery").
-/
namespace Sys2Proof.Machine

/-- LINK_STAT.STATE (R176). -/
inductive LinkSt where
  | down | training | discovered | attached | quarantined
  deriving DecidableEq, Repr

/-- One channel slot (R168): its samples, its FLAGS byte and its CRC byte. -/
structure Slot where
  samples : List Sample
  flags : Byte
  crc : Byte
  deriving DecidableEq, Repr

/-- What the transmitter last put on the line: the sub-frame and marker flags (R165, R167), the filled slots by slot number,
and the cells. -/
structure LineOut where
  sf : Fin 16
  tickLo : BitVec 32
  aligned : Bool
  quarantine : Bool
  detaching : Bool
  slots : List (Nat × Slot)
  cells : List Cell
  deriving DecidableEq, Repr

/-- The training markers a link sends: its requests to the partner's transmit FIR, the answers to the partner's requests,
and RX_READY (R178). -/
structure TrainOut where
  preReq : BitVec 2
  postReq : BitVec 2
  preset : Bool
  preStat : BitVec 2
  postStat : BitVec 2
  rxReady : Bool
  deriving DecidableEq, Repr

/-- One Dorura link: the state of its end (R176), its training (R177, R178), what its receiver holds of the partner's markers
(R167, R179; `markerAt` the position of the last good one in the
unit of `unitNs`, `spacing` the sub-frame it keeps), RX_OFFSET in 1/16 ns with the own tick the incoming frame started in (R194), the attach handshake (R182, R183),
the detach in progress (R186), the equalizer (R178), the REF time of
the last eye survey (R192), the class queues (R175) and the transmitter's last frame part (R165).
`heard`: a DISCOVER has been received since framed mode began (R181); `berCount`: slot CRC errors of the second (R187) that began
at the REF time `berAt`; `trainAt`, `failAt`: the REF times at which the training in progress began and at which the last one failed
(R177); `retrain`: the squelch of a RETRAIN runs (R189). -/
structure Link where
  state : LinkSt
  phase : Nat
  signal : Bool
  blockLock : Bool
  align : Bool
  partnerAligned : Bool
  partnerQuarantine : Bool
  partnerDetaching : Bool
  markerRun : Nat
  markerAt : Nat
  spacing : Nat
  lastSf : Fin 16
  misses : Nat
  sfBad : Bool
  train : TrainOut
  readySeen : Nat
  handover : Bool
  framed : Bool
  trainAt : Nat
  retryWait : Bool
  failAt : Nat
  squelch : Bool
  retrain : Bool
  detachHold : Bool
  detachAt : Option Nat
  formatMismatch : Bool
  versionMismatch : Bool
  selfLoop : Bool
  rejected : Bool
  partner : Option (List Byte)
  wantAttach : Bool
  reqOpen : Bool
  attachDue : Bool
  pre : BitVec 4
  post : BitVec 5
  trained : Bool
  ctle : BitVec 4
  survey : Bool
  eyeAt : Option Nat
  heard : Bool
  discoverDue : Bool
  rxOfs : Int
  rxBase : Nat
  tickLo : BitVec 32
  detaching : Bool
  lag : Nat
  berCount : Nat
  berAt : Nat
  changeTick : Nat
  sentBody : List Byte
  lastDiscover : Nat
  lastReq : Nat
  q0 : List Cell
  q1 : List Cell
  q2 : List Cell
  line : LineOut
  deriving DecidableEq, Repr

/-- The node's identity on the fabric (R184): ID, ID_STATE, the SEQ of its next cell in modes 1 and 2, the flood cells seen
with the tick of their arrival (R174; keyed SRC_ID × 65536 + SEQ, ID_ANNOUNCE keyed apart by EUI-64 and SEQ), the IDs
announced by others with the tick of the announcement (R188), and the tick of the last periodic announcement. -/
structure NodeId where
  id : BitVec 12
  idState : BitVec 4
  seq : BitVec 16
  floodSeen : List (Nat × Nat)
  announceSeen : List ((BitVec 64 × BitVec 16) × Nat)
  announced : List (Nat × Nat)
  everAttached : Bool
  periodAt : Nat
  deriving DecidableEq, Repr

/-- An EYE_SURVEY in progress (R191): its command (none for the weekly survey) and the links it measures. -/
structure Survey where
  ticket : Ticket
  links : List (Fin 16)
  deriving DecidableEq, Repr

/-- A LINK_QUERY whose result is taken at the next tick boundary (R190). -/
structure LinkQuery where
  ticket : Ticket
  link : Fin 16
  addr : BitVec 64
  deriving DecidableEq, Repr

def TrainOut.reset : TrainOut :=
  { preReq := 0, postReq := 0, preset := false, preStat := 0, postStat := 0, rxReady := false }

def LineOut.reset : LineOut :=
  { sf := 0, tickLo := 0, aligned := false, quarantine := false, detaching := false, slots := [], cells := [] }

def Link.reset : Link :=
  { state := .down, phase := 0, signal := false, blockLock := false, align := false, partnerAligned := false,
    partnerQuarantine := false, partnerDetaching := false, markerRun := 0, markerAt := 0, spacing := 0, lastSf := 0, misses := 0, sfBad := false,
    train := TrainOut.reset, readySeen := 0, handover := false, framed := false, trainAt := 0, retryWait := false, failAt := 0, squelch := true, retrain := false,
    detachHold := false, detachAt := none, formatMismatch := false, versionMismatch := false, selfLoop := false,
    rejected := false, partner := none, wantAttach := false, reqOpen := false, attachDue := false, pre := 0, post := 0,
    trained := false, ctle := 0, survey := false, eyeAt := none, heard := false, discoverDue := false, rxOfs := 0,
    rxBase := 0, tickLo := 0, detaching := false, lag := 0, berCount := 0, berAt := 0, changeTick := 0, sentBody := [], lastDiscover := 0, lastReq := 0,
    q0 := [], q1 := [], q2 := [], line := LineOut.reset }

def NodeId.reset : NodeId :=
  { id := 0, idState := 3, seq := 0, floodSeen := [], announceSeen := [], announced := [], everAttached := false, periodAt := 0 }

end Sys2Proof.Machine
end

