-- ==== Sys2Proof/Machine/RouterState.lean ====
section
/-!
DEFINITION. The state of the router, the direct path, the test generators and the meters (chapter "Audio Router, Gains and
Route Changes").
-/
namespace Sys2Proof.Machine

/-- One tick of one channel as it is handed over or delivered at a boundary: S samples in Q1.31 and the validity flag, and for
a delivered value whether any tap of the destination is rising or falling (R43). -/
structure Blk where
  samples : List Sample
  valid : Bool
  ramp : Bool
  deriving DecidableEq, Repr

/-- A gain with its running ramp (R44, R55): INVERT, the target level in 1/256 dB (none = mute), the level at step 0 of the
running ramp in 1/65,536 dB, the ramp's length in samples (0 = no ramp runs), and the steps done. -/
structure Gain where
  inv : Bool
  target : Option Int
  start : Int
  n : Nat
  j : Nat
  deriving DecidableEq, Repr

/-- A physical tap of a destination (R40, R57): source, logical input, gain, the crossfade factor in Q2.30 at step 0 of its
fade, the fade's direction, law and length (0 = steady), and the steps done. -/
structure Tap where
  source : BitVec 16
  input : Fin 4
  gain : Gain
  f0 : Nat
  up : Bool
  power : Bool
  n : Nat
  j : Nat
  deriving DecidableEq, Repr

/-- A test generator (R60). -/
structure TestGen where
  wave : Nat
  gain : Word
  step : BitVec 32
  phase : BitVec 32
  lfsr : BitVec 32
  deriving DecidableEq, Repr

/-- A change of source or destination that takes over when the gain has ramped to mute (R64). -/
structure DirectNext where
  source : BitVec 16
  dest : BitVec 16
  gain : Word
  n : Nat
  deriving DecidableEq, Repr

/-- A direct-path channel (R61–R65): the endpoints it holds, its gain, the change it is ramping toward, whether it is
ramping to its release, the samples left of the ramp to mute before either, the sample and validity of the last input position,
and the samples it sent in the tick that ended. -/
structure Direct where
  ends : Option (BitVec 16 × BitVec 16)
  gain : Gain
  next : Option DirectNext
  releasing : Bool
  left : Nat
  last : Sample
  lastValid : Bool
  out : Blk
  deriving DecidableEq, Repr

/-- A ROUTE_QUERY whose result is taken at the next boundary (R53). -/
structure RouteQuery where
  ticket : Ticket
  dest : BitVec 16
  addr : BitVec 64
  deriving DecidableEq, Repr

/-- One entry of a ROUTE_SET or ROUTE_BATCH, with the law and ramp resolved at acceptance (R48, R51, R66). -/
structure RouteAct where
  dest : BitVec 16
  input : Fin 4
  source : BitVec 16
  power : Bool
  ms : Nat
  gain : Word
  deriving DecidableEq, Repr

/-- The router: the route table by destination, the sources handed over at the last boundary, the values in flight to the next
boundary, the values delivered at the last boundary, and the parts beside it. -/
structure Router where
  routes : List (Nat × List Tap)
  store : List (Nat × Blk)
  inFlight : List (Nat × Blk)
  delivered : List (Nat × Blk)
  gens : Vector TestGen 16
  directs : Vector Direct 64
  meterClearAll : Bool
  meterClears : List Nat
  queries : List RouteQuery
  deriving DecidableEq, Repr

def Gain.mute : Gain := { inv := false, target := none, start := 0, n := 0, j := 0 }

def TestGen.reset : TestGen := { wave := 0, gain := 0x8000, step := 0, phase := 0, lfsr := 0 }

def Direct.reset : Direct :=
  { ends := none, gain := Gain.mute, next := none, releasing := false, left := 0, last := 0, lastValid := false,
    out := { samples := [], valid := false, ramp := false } }

def Router.reset : Router :=
  { routes := [], store := [], inFlight := [], delivered := [], gens := Vector.replicate 16 TestGen.reset,
    directs := Vector.replicate 64 Direct.reset, meterClearAll := false, meterClears := [], queries := [] }

end Sys2Proof.Machine
end

