-- ==== Sys2Proof/Machine/Gain.lean ====
section
/-!
DEFINITION. The gain arithmetic shared by the router, the direct path, the test generators, the benches and the power stage:
the conversion of R45, the ramp law of R55, the factors of the two crossfade laws (R57) and the product of R40. The
exponential and the cosine are computed with 256 fractional bits and then rounded.
-/
namespace Sys2Proof.Machine

/-- 2^256, the scale of the fixed-point numbers below. -/
def fxOne : Nat := 2 ^ 256

/-- ln 2, ln 10 and π, times 2^256. -/
def fxLn2 : Nat := 80260960185991308862233904206310070533990667611589946606122867505419956976172
def fxLn10 : Nat := 266621138564480548222253459415182587429914225440519472036001743423645469947338
def fxPi : Nat := 363771576891766324280234942777729862653393377328392429958772151117938894466185

/-- The sum of r^k/k! from k = i on, `fuel` terms, times 2^256, given the term r^(i−1)/(i−1)!. -/
def expTerms (r : Nat) : Nat → Nat → Nat → Nat
  | 0, _, _ => 0
  | fuel + 1, i, t => let t' := t * r / fxOne / i; t' + expTerms r fuel (i + 1) t'

/-- e^r · 2^256 for 0 ≤ r < ln 2. -/
def fxExp (r : Nat) : Nat := fxOne + expTerms r 70 1 fxOne

/-- round(2^bits × 10^(l / (20 × 65536))) for a level l in 1/65,536 dB. -/
def expLevel (bits : Int) (l : Int) : Int :=
  let y : Int := l * (fxLn10 : Int) / (1310720 : Int)          -- ln of the gain, times 2^256
  let k : Int := y / (fxLn2 : Int)
  let r : Nat := (y - k * (fxLn2 : Int)).toNat
  let e := fxExp r                                             -- in [1, 2) × 2^256
  let sh : Int := 256 - bits - k                                 -- g = e / 2^sh
  if sh ≤ 0 then (e * 2 ^ (-sh).toNat : Nat)
  else ((2 * e + 2 ^ sh.toNat) / 2 ^ (sh.toNat + 1) : Nat)

/-- The linear gain of a level in 1/65,536 dB (R45). -/
def gainOfLevel (l : Int) : Int := expLevel 27 l

/-- The terms of the alternating series of the cosine (start 0) or sine (start 1) of x, in pairs, given the last term. -/
def trigTerms (x2 : Nat) : Nat → Nat → Nat → Int → Int
  | 0, _, _, _ => 0
  | fuel + 1, i, t, sg =>
    let t' := t * x2 / fxOne / (i * (i + 1))
    sg * (t' : Int) + trigTerms x2 fuel (i + 2) t' (-sg)

/-- cos x · 2^256 and sin x · 2^256 for 0 ≤ x ≤ π/2, x times 2^256. -/
def fxCos (x : Nat) : Int := (fxOne : Int) + trigTerms (x * x / fxOne) 45 1 fxOne (-1)
def fxSin (x : Nat) : Int := (x : Int) + trigTerms (x * x / fxOne) 45 2 x (-1)

/-- c(j) = round(2^30 cos(πj/2N)) and s(j) = round(2^30 sin(πj/2N)) (R57). -/
def cosLaw (j n : Nat) : Nat := (roundDiv (fxCos (fxPi * j / (2 * n)) * 2 ^ 30) fxOne).toNat
def sinLaw (j n : Nat) : Nat := (roundDiv (fxSin (fxPi * j / (2 * n)) * 2 ^ 30) fxOne).toNat

/-- round((2^31 − 1) sin(2π p / 2^32)) for a phase p (R60). -/
def sineSample (p : Nat) : Int :=
  let q := p / 2 ^ 30 % 4
  let r := p % 2 ^ 30
  let a := if q % 2 = 0 then r else 2 ^ 30 - r          -- angle within the quadrant, 2^30 = π/2
  let v := roundDiv (fxSin (fxPi * a / 2 ^ 31) * (2 ^ 31 - 1)) fxOne
  if q < 2 then v else -v

/-- Saturation to 32 bits: the value and whether it saturated. -/
def sat32 (v : Int) : Sample × Bool :=
  if v < -(2 ^ 31) then (0x80000000, true)
  else if 2 ^ 31 - 1 < v then (0x7FFFFFFF, true)
  else (BitVec.ofInt 32 v, false)

/-- LEVEL of a gain word: −120 dB to +24 dB, or mute (R44). -/
def levelValid (g : Word) : Bool :=
  let l := signed 16 g.toNat
  decide (fld g 15 0 = 0x8000) || (decide (-30720 ≤ l) && decide (l ≤ 6144))

/-- A gain word is valid: its LEVEL is, and its reserved bits are 0 (R44). -/
def gainWordValid (g : Word) : Bool := levelValid g && decide (fld g 31 17 = 0)

/-- The level of a gain word in 1/256 dB; none = mute. -/
def levelOf (g : Word) : Option Int := if fld g 15 0 = 0x8000 then none else some (signed 16 g.toNat)

/-- The linear gain of a steady level (R45). -/
def linOf (inv : Bool) : Option Int → Int
  | none => 0
  | some l => if inv then -gainOfLevel (256 * l) else gainOfLevel (256 * l)

/-- The linear gain of a gain word (R45). -/
def gainLin (g : Word) : Int := linOf (flag g 16) (levelOf g)

/-- The steady gain of a gain word. -/
def Gain.ofWord (g : Word) : Gain := { inv := flag g 16, target := levelOf g, start := 0, n := 0, j := 0 }

/-- A mute endpoint counts as −120.0 dB during a ramp (R55). -/
def rampLevel : Option Int → Int
  | none => -30720
  | some l => l

/-- The ramp level at step j, in 1/65,536 dB (R55). -/
def Gain.levelAt (g : Gain) (j : Nat) : Int :=
  g.start + ((256 * rampLevel g.target - g.start) * j) / (max g.n 1 : Nat)

/-- The linear gain at step j of the running ramp (R45, R55); the target's once the ramp has ended. -/
def Gain.linAt (g : Gain) (j : Nat) : Int :=
  if j ≤ g.n ∧ g.n ≠ 0 then (let v := gainOfLevel (g.levelAt j); if g.inv then -v else v) else linOf g.inv g.target

/-- The level of the last sample before the boundary, in 1/65,536 dB; none = mute. -/
def Gain.current (g : Gain) : Option Int :=
  if g.n = 0 then g.target.map (256 * ·) else some (g.levelAt g.j)

/-- Start a ramp of n samples to a gain word (R55, R56): n = 0 sets the target; a ramp between two mutes is no ramp. -/
def Gain.rampTo (g : Gain) (w : Word) (n : Nat) : Gain :=
  let t := levelOf w
  match n, g.current, t with
  | 0, _, _ => Gain.ofWord w
  | _, none, none => Gain.ofWord w
  | n, c, t => { inv := flag w 16, target := t, start := c.getD (-30720 * 256), n := n, j := 0 }

/-- The gain word that mutes a gain and keeps its INVERT while the ramp runs (R55; DEDUCED, log 19). -/
def Gain.muteWord (g : Gain) : Word := if g.inv then 0x18000 else 0x8000

/-- After k samples: a ramp that has run its steps has ended. -/
def Gain.advance (g : Gain) (k : Nat) : Gain :=
  if g.n = 0 then g else if g.n ≤ g.j + k then { g with start := 0, n := 0, j := 0 } else { g with j := g.j + k }

/-- Mute at every one of the next k samples (R42). -/
def Gain.silentFor (g : Gain) (_k : Nat) : Bool := g.n = 0 && g.target = none

/-- The gain word in force, LEVEL truncated to whole 1/256 dB (R53). -/
def Gain.word (g : Gain) : Word :=
  let lv : Nat := match g.current with
    | none => 0x8000
    | some l => unsign 16 (l / 256)
  BitVec.ofNat 32 (lv + bitAt g.inv 16)

/-- The crossfade factor at step j (R57), Q2.30. -/
def Tap.factorAt (t : Tap) (j : Nat) : Nat :=
  if t.n = 0 then t.f0
  else
    let j := min j t.n
    if t.up then
      if t.power then t.f0 + (2 ^ 30 - t.f0) * sinLaw j t.n / 2 ^ 30 else t.f0 + (2 ^ 30 - t.f0) * j / t.n
    else if t.power then t.f0 * cosLaw j t.n / 2 ^ 30 else t.f0 * (t.n - j) / t.n

/-- The samples of a ramp of `ms` milliseconds: a whole number of ticks (R54). -/
def rampSamples (fs spt ms : Nat) : Nat := ceilDiv (ms * fs) (1000 * spt) * spt

/-- The product of R40 with one gain: floor(x·m / 2^27), saturated. -/
def scaleSample (x : Sample) (m : Int) : Sample × Bool := sat32 (x.toInt * m / 2 ^ 27)

end Sys2Proof.Machine
end

