-- ==== Sys2Proof/Config.lean ====
section
/-!
DEFINITION. The free values of the model: values the spec gives an effect to but does not state. Nothing in Lean can evaluate
them.
-/
namespace Sys2Proof

/-- The free value with a number (DESIGN CHOICE, log 3). The counter `free` of State hands out the numbers. -/
opaque Config.freeValue : Nat → Nat

/-- CAPS.MANAGER of DISCOVER: whether the manager is active at this node (DESIGN CHOICE, log 47). -/
opaque Config.managerHere : Bool

/-- The bytes a PATH_QUERY writes for a path: its HOPS, its L in ns and its state (1 reserving, 2 reserved, 3 active), whose
layout the spec does not give (DESIGN CHOICE, log 54). -/
opaque Config.pathQueryBytes : Nat → Nat → Nat → List Byte

/-- What a PATH_QUERY descriptor in a ring names (DESIGN CHOICE, log 54): ADD_CH, COPY and RESULT_ADDR; the spec gives no layout. -/
opaque Config.pathQueryFields : List Byte → Nat × Bool × Nat

/-- What a SWITCH_READ descriptor in a ring names (DESIGN CHOICE, log 54): the table (a link below 16, else the add table), the first
entry, the number of entries and RESULT_ADDR; the spec gives no layout. -/
opaque Config.switchReadFields : List Byte → Nat × Nat × Nat × Nat

/-- The calibration area of flash as the module was made: the band-table entry e of PLL p (R251; DESIGN CHOICE, log 67). -/
opaque Config.calibration : Nat → Nat → Word

/-- The progress in percent of the flash step in hand (R491, R500; DESIGN CHOICE, log 131), by the REF time. -/
opaque Config.flashPercent : Nat → Nat

/-- The bytes of flash outside the pointer logs (R488; DESIGN CHOICE, log 132): the address within the flash and the tick. -/
opaque Config.flashByte : Nat → Nat → Byte

/-- The value that the fixed-delay interpolator hands the modulator in switching cycle k of the n of a tick, from the samples of
the last two ticks (R339; DESIGN CHOICE, log 157). -/
opaque Config.interpolate : List Int → Nat → Nat → Int

/-- d_A of R339 in 2^−32 while the rail is measured as 0 V, which the rule divides by (DESIGN CHOICE, log 157). -/
opaque Config.dutyNoRail : Int → Nat → Int

/-- The phase at which a channel's pilot tone begins when its half-bridges are released (R354; DESIGN CHOICE, log 158), by the REF
time and the channel. -/
opaque Config.pilotPhase : Nat → Nat → Nat

/-- What a sensed power counts as while the budget gain is at mute, where R350 divides by 0 (DESIGN CHOICE, log 159). -/
opaque Config.powerAtMute : Int → Int

/-- Group 0's share of the PVIN limit while no channel is allowed any power (R344; DESIGN CHOICE, log 161). -/
opaque Config.idleShare : Nat → Nat

end Sys2Proof
end

