-- ==== Sys2Proof/Machine/Crc.lean ====
section
/-!
DEFINITION. Cyclic check values: the general computation of R420, the CRC-8 of R168 and the CRC-32C of R110.
-/
namespace Sys2Proof.Machine

/-- Eight shifts of a W-bit check register (R420). -/
def crcShift (w poly : Nat) : Nat → Nat → Nat
  | 0, v => v
  | k + 1, v =>
    let v2 := (v * 2) % 2 ^ w
    crcShift w poly k (if v / 2 ^ (w - 1) % 2 = 1 then Nat.xor v2 (poly % 2 ^ w) else v2)

/-- Feed one byte (R420). -/
def crcFeed (w poly : Nat) (refin : Bool) (v : Nat) (b : Byte) : Nat :=
  let b' := if refin then reflectBits 8 b.toNat else b.toNat
  let v' := if w = 8 then Nat.xor (v % 2 ^ w) b' else Nat.xor (v % 2 ^ w) (b' * 2 ^ (w - 8))
  crcShift w poly 8 v'

/-- Feed bytes in order. -/
def crcFeedAll (w poly : Nat) (refin : Bool) (v : Nat) (bs : List Byte) : Nat := bs.foldl (crcFeed w poly refin) v

/-- The result r of a running value V (R420). -/
def crcResult (w : Nat) (refout invert : Bool) (v : Nat) : Nat :=
  let r := if refout then reflectBits w (v % 2 ^ w) else v % 2 ^ w
  if invert then Nat.xor r (2 ^ w - 1) else r

/-- CRC-8: polynomial 0x2F, initial value 0xFF, no reflection, final exclusive-OR 0xFF (R168). -/
def crc8 (bs : List Byte) : Byte := BitVec.ofNat 8 (crcResult 8 false true (crcFeedAll 8 0x2F false 0xFF bs))

/-- CRC-32C (R110). -/
def crc32c (bs : List Byte) : Word :=
  BitVec.ofNat 32 (crcResult 32 true true (crcFeedAll 32 0x1EDC6F41 true 0xFFFFFFFF bs))

end Sys2Proof.Machine
end

