-- ==== Sys2Proof/Machine/Map.lean ====
section
/-!
DEFINITION. Sparse tables in one canonical form: a list of (key, value) pairs with strictly rising keys. Host memory, the
register file, tile data memory and every table of the CH4096 that is addressed by a number are kept this way. A table may
have a DEFAULT, the value every unlisted key reads as; writing the default removes the entry, so equal tables are equal
data.
-/
namespace Sys2Proof.Machine

variable {α : Type}

/-- The value a key holds, if it is listed. -/
def mapGet : List (Nat × α) → Nat → Option α
  | [], _ => none
  | (k', v) :: m, k => if k = k' then some v else mapGet m k

/-- The value a key reads as: the listed value, or the table's default. -/
def mapGetD (d : α) (m : List (Nat × α)) (k : Nat) : α := (mapGet m k).getD d

/-- Remove a key. -/
def mapErase (m : List (Nat × α)) (k : Nat) : List (Nat × α) := m.filter fun e => decide (e.1 ≠ k)

/-- Write a key, keeping the keys strictly rising. -/
def mapPut : List (Nat × α) → Nat → α → List (Nat × α)
  | [], k, v => [(k, v)]
  | (k', v') :: m, k, v =>
    if k < k' then (k, v) :: (k', v') :: m
    else if k = k' then (k, v) :: m
    else (k', v') :: mapPut m k v

/-- Write a key of a table with a default: the default is never listed. -/
def mapPutD [DecidableEq α] (d : α) (m : List (Nat × α)) (k : Nat) (v : α) : List (Nat × α) :=
  if v = d then mapErase m k else mapPut m k v

/-- Change the value of a listed key. -/
def mapModify (m : List (Nat × α)) (k : Nat) (f : α → α) : List (Nat × α) :=
  m.map fun e => if e.1 = k then (e.1, f e.2) else e

/-- The keys rise strictly from `lo` on. -/
def mapRising : Nat → List (Nat × α) → Bool
  | _, [] => true
  | lo, (k, _) :: m => decide (lo ≤ k) && mapRising (k + 1) m

/-- The canonical form of a table with default `d`: keys strictly rising, the default never listed. -/
def mapWf [DecidableEq α] (d : α) (m : List (Nat × α)) : Bool :=
  mapRising 0 m && m.all fun e => decide (e.2 ≠ d)

/-- Write consecutive keys from `k` on. -/
def mapPutList [DecidableEq α] (d : α) (m : List (Nat × α)) (k : Nat) : List α → List (Nat × α)
  | [] => m
  | v :: vs => mapPutList d (mapPutD d m k v) (k + 1) vs

/-- Read `n` consecutive keys from `k` on. -/
def mapGetList (d : α) (m : List (Nat × α)) (k : Nat) : Nat → List α
  | 0 => []
  | n + 1 => mapGetD d m k :: mapGetList d m (k + 1) n

end Sys2Proof.Machine
end

