-- ==== Sys2Proof/Machine/RegTable.lean ====
section
/-!
DEFINITION. The register space (R523): every setup register's BAR0 offset, by name, with the masks of its fields' access codes
(R6) and its reset value, and the fault sources with their defaults (R451, R498). The rows follow the register tables of the
chapters; the rule that lays a register down stands at its constant.
-/
namespace Sys2Proof.Machine

/-- One register or register array: name, base offset, strides and counts of its indexes, the masks of its RW, RWL, RWP, W1C and WO fields (every other
bit is RO or reserved) and its reset value. -/
structure RegRow where
  name : String
  base : Nat
  stride1 : Nat
  count1 : Nat
  stride2 : Nat
  count2 : Nat
  rw : Word
  rwl : Word
  rwp : Word
  w1c : Word
  wo : Word
  reset : Word
  deriving DecidableEq, Repr

/-- GLB_ID (R529). -/
def Reg.glbId : Nat := 0x0
/-- GLB_REV (R529). -/
def Reg.glbRev : Nat := 0x4
/-- GLB_EUI_LO (R529). -/
def Reg.glbEuiLo : Nat := 0x8
/-- GLB_EUI_HI (R529). -/
def Reg.glbEuiHi : Nat := 0xC
/-- GLB_MODE (R529). -/
def Reg.glbMode : Nat := 0x10
/-- GLB_MEDIA_RATE (R529). -/
def Reg.glbMediaRate : Nat := 0x14
/-- GLB_RESET (R529). -/
def Reg.glbReset : Nat := 0x18
/-- GLB_LOCK (R529). -/
def Reg.glbLock : Nat := 0x1C
/-- GLB_TICK_LO (R529). -/
def Reg.glbTickLo : Nat := 0x20
/-- GLB_TICK_HI (R529). -/
def Reg.glbTickHi : Nat := 0x24
/-- GLB_UPTIME (R529). -/
def Reg.glbUptime : Nat := 0x28
/-- CLK_STAT (R261). -/
def Reg.clkStat : Nat := 0x1000
/-- CLK_UNLOCK_STAT (R261). -/
def Reg.clkUnlockStat : Nat := 0x1004
/-- PLL_MEAS_CTRL (R261). -/
def Reg.pllMeasCtrl : Nat := 0x1008
/-- PLL_MEAS (R261). -/
def Reg.pllMeas : Nat := 0x100C
/-- BAND_p_e (R261). -/
def Reg.band (p : Nat) (e : Nat) : Nat := 0x1100 + 0x80 * p + 0x4 * e
/-- REF_CTRL (R262). -/
def Reg.refCtrl : Nat := 0x2000
/-- REF_FREQ_LIMITS (R262). -/
def Reg.refFreqLimits : Nat := 0x2004
/-- REF_DRIFT_LIMITS (R262). -/
def Reg.refDriftLimits : Nat := 0x2008
/-- REF_SEL_STAT (R262). -/
def Reg.refSelStat : Nat := 0x200C
/-- REF_PHASE_ERR (R262). -/
def Reg.refPhaseErr : Nat := 0x2010
/-- HOLDOVER_STAT (R262). -/
def Reg.holdoverStat : Nat := 0x2014
/-- ANCHOR_CTRL (R262). -/
def Reg.anchorCtrl : Nat := 0x2018
/-- ANCHOR_STAT (R262). -/
def Reg.anchorStat : Nat := 0x201C
/-- REF_EVENT_STAT (R262). -/
def Reg.refEventStat : Nat := 0x2020
/-- REF_ALIGN_CTRL (R262). -/
def Reg.refAlignCtrl : Nat := 0x2024
/-- REF_CFG_n (R262). -/
def Reg.refCfg (n : Nat) : Nat := 0x2040 + 0x10 * n
/-- REF_BW_n (R262). -/
def Reg.refBw (n : Nat) : Nat := 0x2044 + 0x10 * n
/-- REF_STAT_n (R262). -/
def Reg.refStat (n : Nat) : Nat := 0x2048 + 0x10 * n
/-- REF_OFFSET_n (R262). -/
def Reg.refOffset (n : Nat) : Nat := 0x204C + 0x10 * n
/-- PULSE_CFG_m (R262). -/
def Reg.pulseCfg (m : Nat) : Nat := 0x20C0 + 0x4 * m
/-- REFIN_CFG (R262). -/
def Reg.refinCfg : Nat := 0x20C8
/-- FAB_ASYM_n (R262). -/
def Reg.fabAsym (n : Nat) : Nat := 0x2100 + 0x4 * n
/-- TIME_EVT_CFG (R302). -/
def Reg.timeEvtCfg : Nat := 0x3000
/-- TIME_CMP_ACTIVE (R302). -/
def Reg.timeCmpActive : Nat := 0x3004
/-- TIME_CAP_STAT (R302). -/
def Reg.timeCapStat : Nat := 0x3008
/-- TIME_CAP_CFG_u (R302). -/
def Reg.timeCapCfg (u : Nat) : Nat := 0x3040 + 0x4 * u
/-- HIF_CTRL (R405). -/
def Reg.hifCtrl : Nat := 0x4000
/-- HIF_STAT (R405). -/
def Reg.hifStat : Nat := 0x4004
/-- HIF_HCA_LO (R405). -/
def Reg.hifHcaLo : Nat := 0x4008
/-- HIF_HCA_HI (R405). -/
def Reg.hifHcaHi : Nat := 0x400C
/-- HIF_OWNER (R405). -/
def Reg.hifOwner : Nat := 0x4010
/-- HIF_TUN_CFG (R405). -/
def Reg.hifTunCfg : Nat := 0x4014
/-- HIF_ERR_STAT (R405). -/
def Reg.hifErrStat : Nat := 0x4018
/-- HIF_EQ_LOST_COUNT (R405). -/
def Reg.hifEqLostCount : Nat := 0x401C
/-- HIF_RECORD_LOST_COUNT (R405). -/
def Reg.hifRecordLostCount : Nat := 0x4020
/-- HIF_ERR_ADDR_LO (R405). -/
def Reg.hifErrAddrLo : Nat := 0x4024
/-- HIF_ERR_ADDR_HI (R405). -/
def Reg.hifErrAddrHi : Nat := 0x4028
/-- HIF_QOS (R405). -/
def Reg.hifQos : Nat := 0x402C
/-- HIF_ACCEPT (R405). -/
def Reg.hifAccept : Nat := 0x4030
/-- TUN_ALLOW_EN (R405). -/
def Reg.tunAllowEn : Nat := 0x4034
/-- TUN_SERVE (R405). -/
def Reg.tunServe : Nat := 0x4038
/-- TUN_ALLOW_LO_k (R405). -/
def Reg.tunAllowLo (k : Nat) : Nat := 0x4040 + 0x8 * k
/-- TUN_ALLOW_HI_k (R405). -/
def Reg.tunAllowHi (k : Nat) : Nat := 0x4044 + 0x8 * k
/-- DMA_STATE_LO (R406). -/
def Reg.dmaStateLo : Nat := 0x5000
/-- DMA_STATE_HI (R406). -/
def Reg.dmaStateHi : Nat := 0x5004
/-- DMA_ERR_STAT (R406). -/
def Reg.dmaErrStat : Nat := 0x5008
/-- DMA_ERR_ADDR_LO (R406). -/
def Reg.dmaErrAddrLo : Nat := 0x500C
/-- DMA_ERR_ADDR_HI (R406). -/
def Reg.dmaErrAddrHi : Nat := 0x5010
/-- DMA_ERR_INFO (R406). -/
def Reg.dmaErrInfo : Nat := 0x5014
/-- DMA_UNDERRUN_COUNT (R406). -/
def Reg.dmaUnderrunCount : Nat := 0x5018
/-- DMA_OVERRUN_COUNT (R406). -/
def Reg.dmaOverrunCount : Nat := 0x501C
/-- MTX_CTRL (R424). -/
def Reg.mtxCtrl : Nat := 0x6000
/-- MTX_STAT (R424). -/
def Reg.mtxStat : Nat := 0x6004
/-- MTX_QOS (R424). -/
def Reg.mtxQos : Nat := 0x6008
/-- MTX_ERR_STAT (R424). -/
def Reg.mtxErrStat : Nat := 0x600C
/-- MTX_DECERR_COUNT (R424). -/
def Reg.mtxDecerrCount : Nat := 0x6010
/-- MTX_DENY_COUNT (R424). -/
def Reg.mtxDenyCount : Nat := 0x6014
/-- MTX_ERR_ADDR_LO (R424). -/
def Reg.mtxErrAddrLo : Nat := 0x6018
/-- MTX_ERR_ADDR_HI (R424). -/
def Reg.mtxErrAddrHi : Nat := 0x601C
/-- MTX_ERR_INFO (R424). -/
def Reg.mtxErrInfo : Nat := 0x6020
/-- MTX_SLICE_m (R424). -/
def Reg.mtxSlice (m : Nat) : Nat := 0x6040 + 0x4 * m
/-- MTX_RGN_BASE_k (R424). -/
def Reg.mtxRgnBase (k : Nat) : Nat := 0x6100 + 0x10 * k
/-- MTX_RGN_LIMIT_k (R424). -/
def Reg.mtxRgnLimit (k : Nat) : Nat := 0x6104 + 0x10 * k
/-- MTX_RGN_PERM_k (R424). -/
def Reg.mtxRgnPerm (k : Nat) : Nat := 0x6108 + 0x10 * k
/-- CRC_CFG_u (R425). -/
def Reg.crcCfg (u : Nat) : Nat := 0x7000 + 0x40 * u
/-- CRC_POLY_LO_u (R425). -/
def Reg.crcPolyLo (u : Nat) : Nat := 0x7004 + 0x40 * u
/-- CRC_POLY_HI_u (R425). -/
def Reg.crcPolyHi (u : Nat) : Nat := 0x7008 + 0x40 * u
/-- CRC_INIT_LO_u (R425). -/
def Reg.crcInitLo (u : Nat) : Nat := 0x700C + 0x40 * u
/-- CRC_INIT_HI_u (R425). -/
def Reg.crcInitHi (u : Nat) : Nat := 0x7010 + 0x40 * u
/-- CRC_CTRL_u (R425). -/
def Reg.crcCtrl (u : Nat) : Nat := 0x7014 + 0x40 * u
/-- CRC_VALUE_LO_u (R425). -/
def Reg.crcValueLo (u : Nat) : Nat := 0x7018 + 0x40 * u
/-- CRC_VALUE_HI_u (R425). -/
def Reg.crcValueHi (u : Nat) : Nat := 0x701C + 0x40 * u
/-- CRC_RESULT_LO_u (R425). -/
def Reg.crcResultLo (u : Nat) : Nat := 0x7020 + 0x40 * u
/-- CRC_RESULT_HI_u (R425). -/
def Reg.crcResultHi (u : Nat) : Nat := 0x7024 + 0x40 * u
/-- CRC_DATA_B_u (R425). -/
def Reg.crcDataB (u : Nat) : Nat := 0x7028 + 0x40 * u
/-- CRC_DATA_H_u (R425). -/
def Reg.crcDataH (u : Nat) : Nat := 0x702C + 0x40 * u
/-- CRC_DATA_W_u (R425). -/
def Reg.crcDataW (u : Nat) : Nat := 0x7030 + 0x40 * u
/-- CRC_STAT_u (R425). -/
def Reg.crcStat (u : Nat) : Nat := 0x7034 + 0x40 * u
/-- CRC_COUNT_u (R425). -/
def Reg.crcCount (u : Nat) : Nat := 0x7038 + 0x40 * u
/-- SUMP_CTRL (R475). -/
def Reg.sumpCtrl : Nat := 0x8000
/-- SUMP_STAT (R475). -/
def Reg.sumpStat : Nat := 0x8004
/-- SUMP_CFG_s (R475). -/
def Reg.sumpCfg (s : Nat) : Nat := 0x8400 + 0x4 * s
/-- SUMP_SUM_s (R475). -/
def Reg.sumpSum (s : Nat) : Nat := 0x8800 + 0x4 * s
/-- PROT_STAT (R476). -/
def Reg.protStat : Nat := 0x9000
/-- PROT_CMD (R476). -/
def Reg.protCmd : Nat := 0x9004
/-- PROT_NONCE (R476). -/
def Reg.protNonce : Nat := 0x9008
/-- PROT_CONFIRM (R476). -/
def Reg.protConfirm : Nat := 0x900C
/-- PROT_WHOAMI (R476). -/
def Reg.protWhoami : Nat := 0x9010
/-- PROT_REFUSE_COUNT (R476). -/
def Reg.protRefuseCount : Nat := 0x9014
/-- PROT_LAST_REFUSE (R476). -/
def Reg.protLastRefuse : Nat := 0x9018
/-- PROT_IMG_AUTH (R476). -/
def Reg.protImgAuth : Nat := 0x9040
/-- PROT_IMG_CRC (R476). -/
def Reg.protImgCrc : Nat := 0x9044
/-- PROT_ITEM_OFS_k (R476). -/
def Reg.protItemOfs (k : Nat) : Nat := 0x9100 + 0x10 * k
/-- PROT_ITEM_VAL_k (R476). -/
def Reg.protItemVal (k : Nat) : Nat := 0x9104 + 0x10 * k
/-- PROT_ITEM_MASK_k (R476). -/
def Reg.protItemMask (k : Nat) : Nat := 0x9108 + 0x10 * k
/-- AGE_CTRL (R477). -/
def Reg.ageCtrl : Nat := 0xA000
/-- AGE_VDD (R477). -/
def Reg.ageVdd : Nat := 0xA004
/-- AGE_PLAN (R477). -/
def Reg.agePlan : Nat := 0xA008
/-- AGE_PENDING (R477). -/
def Reg.agePending : Nat := 0xA00C
/-- MB_CTRL (R448). -/
def Reg.mbCtrl (n : Nat) : Nat := 0xB000 + 0x100 * n
/-- MB_TIMING_A (R448). -/
def Reg.mbTimingA (n : Nat) : Nat := 0xB004 + 0x100 * n
/-- MB_TIMING_B (R448). -/
def Reg.mbTimingB (n : Nat) : Nat := 0xB008 + 0x100 * n
/-- MB_STAT (R448). -/
def Reg.mbStat (n : Nat) : Nat := 0xB00C + 0x100 * n
/-- MB_ERR_STAT (R448). -/
def Reg.mbErrStat (n : Nat) : Nat := 0xB010 + 0x100 * n
/-- MB_ARB_INFO (R448). -/
def Reg.mbArbInfo (n : Nat) : Nat := 0xB014 + 0x100 * n
/-- MB_COUNTS (R448). -/
def Reg.mbCounts (n : Nat) : Nat := 0xB018 + 0x100 * n
/-- MB_TGT_REQ (R448). -/
def Reg.mbTgtReq (n : Nat) : Nat := 0xB01C + 0x100 * n
/-- BOOT_STAT (R500). -/
def Reg.bootStat : Nat := 0xC000
/-- SLOT_x_INFO (R500). -/
def Reg.slotInfo (x : Nat) : Nat := 0xC004 + 0x4 * x
/-- SLOT_x_CRC (R500). -/
def Reg.slotCrc (x : Nat) : Nat := 0xC00C + 0x4 * x
/-- CFG_PTR (R500). -/
def Reg.cfgPtr : Nat := 0xC014
/-- FLASH_PROGRESS (R500). -/
def Reg.flashProgress : Nat := 0xC018
/-- SVN_FUSE (R500). -/
def Reg.svnFuse : Nat := 0xC01C
/-- METER_CTRL (R71). -/
def Reg.meterCtrl : Nat := 0xD000
/-- METER_STAT (R71). -/
def Reg.meterStat : Nat := 0xD004
/-- METER_SRC_e (R71). -/
def Reg.meterSrc (e : Nat) : Nat := 0xD400 + 0x4 * e
/-- METER_PEAK_e (R71). -/
def Reg.meterPeak (e : Nat) : Nat := 0xE400 + 0x4 * e
/-- ROUTER_CTRL (R66). -/
def Reg.routerCtrl : Nat := 0x10000
/-- ROUTE_RAMP (R66). -/
def Reg.routeRamp : Nat := 0x10004
/-- ROUTER_CAP (R66). -/
def Reg.routerCap : Nat := 0x10008
/-- ROUTER_USE (R66). -/
def Reg.routerUse : Nat := 0x1000C
/-- ROUTER_SAT_COUNT (R66). -/
def Reg.routerSatCount : Nat := 0x10010
/-- ROUTER_SAT_STAT (R66). -/
def Reg.routerSatStat : Nat := 0x10014
/-- DIRECT_SAT_COUNT (R66). -/
def Reg.directSatCount : Nat := 0x10018
/-- DIRECT_ACTIVE_LO (R66). -/
def Reg.directActiveLo : Nat := 0x10020
/-- DIRECT_ACTIVE_HI (R66). -/
def Reg.directActiveHi : Nat := 0x10024
/-- TILE_ID (R105). -/
def Reg.tileId (n : Nat) : Nat := 0x14000 + 0x1000 * n
/-- TILE_STAT (R105). -/
def Reg.tileStat (n : Nat) : Nat := 0x14004 + 0x1000 * n
/-- TILE_CTRL (R105). -/
def Reg.tileCtrl (n : Nat) : Nat := 0x14008 + 0x1000 * n
/-- TILE_FLAGS (R105). -/
def Reg.tileFlags (n : Nat) : Nat := 0x1400C + 0x1000 * n
/-- TILE_SAT_COUNT (R105). -/
def Reg.tileSatCount (n : Nat) : Nat := 0x14010 + 0x1000 * n
/-- TILE_WRAP_COUNT (R105). -/
def Reg.tileWrapCount (n : Nat) : Nat := 0x14014 + 0x1000 * n
/-- TILE_PARITY_COUNT (R105). -/
def Reg.tileParityCount (n : Nat) : Nat := 0x14018 + 0x1000 * n
/-- TILE_CYC_LAST (R105). -/
def Reg.tileCycLast (n : Nat) : Nat := 0x1401C + 0x1000 * n
/-- TILE_CYC_MAX (R105). -/
def Reg.tileCycMax (n : Nat) : Nat := 0x14020 + 0x1000 * n
/-- TILE_BG_CYC (R105). -/
def Reg.tileBgCyc (n : Nat) : Nat := 0x14024 + 0x1000 * n
/-- TILE_MARK (R105). -/
def Reg.tileMark (n : Nat) : Nat := 0x14028 + 0x1000 * n
/-- BENCH_CAP (R161). -/
def Reg.benchCap : Nat := 0x24000
/-- BENCH_MAPPED (R161). -/
def Reg.benchMapped : Nat := 0x24004
/-- BENCH_OVER_LO (R161). -/
def Reg.benchOverLo : Nat := 0x24008
/-- BENCH_OVER_HI (R161). -/
def Reg.benchOverHi : Nat := 0x2400C
/-- BENCH_SAT_COUNT (R161). -/
def Reg.benchSatCount : Nat := 0x24010
/-- DRAM_ECC_STAT (R161). -/
def Reg.dramEccStat : Nat := 0x24014
/-- DRAM_CE_COUNT (R161). -/
def Reg.dramCeCount : Nat := 0x24018
/-- DRAM_UE_COUNT (R161). -/
def Reg.dramUeCount : Nat := 0x2401C
/-- DRAM_ERR_ADDR (R161). -/
def Reg.dramErrAddr : Nat := 0x24020
/-- DRAM_ERR_WHERE (R161). -/
def Reg.dramErrWhere : Nat := 0x24024
/-- SCRUB_CTRL (R161). -/
def Reg.scrubCtrl : Nat := 0x24028
/-- SCRUB_STAT (R161). -/
def Reg.scrubStat : Nat := 0x2402C
/-- LINK_CTRL (R192). -/
def Reg.linkCtrl (n : Nat) : Nat := 0x28000 + 0x400 * n
/-- LINK_STAT (R192). -/
def Reg.linkStat (n : Nat) : Nat := 0x28004 + 0x400 * n
/-- LINK_PEER_EUI_LO (R192). -/
def Reg.linkPeerEuiLo (n : Nat) : Nat := 0x28008 + 0x400 * n
/-- LINK_PEER_EUI_HI (R192). -/
def Reg.linkPeerEuiHi (n : Nat) : Nat := 0x2800C + 0x400 * n
/-- LINK_TXEQ (R192). -/
def Reg.linkTxeq (n : Nat) : Nat := 0x28010 + 0x400 * n
/-- LINK_EYE (R192). -/
def Reg.linkEye (n : Nat) : Nat := 0x28014 + 0x400 * n
/-- LINK_ERR_STAT (R192). -/
def Reg.linkErrStat (n : Nat) : Nat := 0x28018 + 0x400 * n
/-- SLOT_CRC_COUNT (R192). -/
def Reg.slotCrcCount (n : Nat) : Nat := 0x2801C + 0x400 * n
/-- CELL_CRC_COUNT (R192). -/
def Reg.cellCrcCount (n : Nat) : Nat := 0x28020 + 0x400 * n
/-- MARKER_MISS_COUNT (R192). -/
def Reg.markerMissCount (n : Nat) : Nat := 0x28024 + 0x400 * n
/-- CELL_DROP_COUNT (R192). -/
def Reg.cellDropCount (n : Nat) : Nat := 0x28028 + 0x400 * n
/-- LINK_EVENTS (R192). -/
def Reg.linkEvents (n : Nat) : Nat := 0x2802C + 0x400 * n
/-- LINK_BER_LIMIT (R192). -/
def Reg.linkBerLimit (n : Nat) : Nat := 0x28030 + 0x400 * n
/-- FSW_CTRL (R226). -/
def Reg.fswCtrl : Nat := 0x2C000
/-- FSW_CAP (R226). -/
def Reg.fswCap : Nat := 0x2C004
/-- FSW_BUDGET (R226). -/
def Reg.fswBudget : Nat := 0x2C008
/-- FSW_USE (R226). -/
def Reg.fswUse : Nat := 0x2C00C
/-- FSW_GROUPS (R226). -/
def Reg.fswGroups : Nat := 0x2C010
/-- FSW_SEL_STAT (R226). -/
def Reg.fswSelStat : Nat := 0x2C014
/-- FSW_B_TICKS (R226). -/
def Reg.fswBTicks : Nat := 0x2C018
/-- FSW_HOLD_TICKS (R226). -/
def Reg.fswHoldTicks : Nat := 0x2C01C
/-- FSW_GEN_OLD_COUNT (R226). -/
def Reg.fswGenOldCount : Nat := 0x2C020
/-- FSW_PAIR_STAT (R226). -/
def Reg.fswPairStat : Nat := 0x2C024
/-- FSW_DIVERGE_TICK (R226). -/
def Reg.fswDivergeTick : Nat := 0x2C028
/-- FSW_DIVERGE_COUNT (R226). -/
def Reg.fswDivergeCount : Nat := 0x2C02C
/-- FSW_DIGEST_MISS_COUNT (R226). -/
def Reg.fswDigestMissCount : Nat := 0x2C030
/-- FSW_RXOFS_n (R226). -/
def Reg.fswRxofs (n : Nat) : Nat := 0x2C040 + 0x4 * n
/-- ETH_CTRL (R301). -/
def Reg.ethCtrl (n : Nat) : Nat := 0x30000 + 0x1000 * n
/-- ETH_STAT (R301). -/
def Reg.ethStat (n : Nat) : Nat := 0x30004 + 0x1000 * n
/-- ETH_MAC_LO (R301). -/
def Reg.ethMacLo (n : Nat) : Nat := 0x30008 + 0x1000 * n
/-- ETH_MAC_HI (R301). -/
def Reg.ethMacHi (n : Nat) : Nat := 0x3000C + 0x1000 * n
/-- ETH_IPV4 (R301). -/
def Reg.ethIpv4 (n : Nat) : Nat := 0x30010 + 0x1000 * n
/-- ETH_MGMT_VLAN (R301). -/
def Reg.ethMgmtVlan (n : Nat) : Nat := 0x30014 + 0x1000 * n
/-- ETH_PAUSE_CFG (R301). -/
def Reg.ethPauseCfg (n : Nat) : Nat := 0x30020 + 0x1000 * n
/-- ETH_PAUSE_QUANTA (R301). -/
def Reg.ethPauseQuanta (n : Nat) : Nat := 0x30024 + 0x1000 * n
/-- ETH_PAUSE_STAT (R301). -/
def Reg.ethPauseStat (n : Nat) : Nat := 0x30028 + 0x1000 * n
/-- ETH_PTP_CFG (R301). -/
def Reg.ethPtpCfg (n : Nat) : Nat := 0x30030 + 0x1000 * n
/-- ETH_PTP_PRIO (R301). -/
def Reg.ethPtpPrio (n : Nat) : Nat := 0x30034 + 0x1000 * n
/-- ETH_TS_ADJ (R301). -/
def Reg.ethTsAdj (n : Nat) : Nat := 0x30038 + 0x1000 * n
/-- ETH_PTP_STAT (R301). -/
def Reg.ethPtpStat (n : Nat) : Nat := 0x3003C + 0x1000 * n
/-- ETH_RX_DROP_COUNT (R301). -/
def Reg.ethRxDropCount (n : Nat) : Nat := 0x30040 + 0x1000 * n
/-- ETH_TC_FWD_COUNT (R301). -/
def Reg.ethTcFwdCount (n : Nat) : Nat := 0x30044 + 0x1000 * n
/-- ETH_PAUSE_IGN_COUNT (R301). -/
def Reg.ethPauseIgnCount (n : Nat) : Nat := 0x30048 + 0x1000 * n
/-- ETH_QCFG_n_q (R301). -/
def Reg.ethQcfg (n : Nat) (q : Nat) : Nat := 0x30080 + 0x1000 * n + 0x4 * q
/-- ETH_FILT_CTRL_n_f (R301). -/
def Reg.ethFiltCtrl (n : Nat) (f : Nat) : Nat := 0x30400 + 0x1000 * n + 0x10 * f
/-- ETH_FILT_DMAC_LO_n_f (R301). -/
def Reg.ethFiltDmacLo (n : Nat) (f : Nat) : Nat := 0x30404 + 0x1000 * n + 0x10 * f
/-- ETH_FILT_DMAC_HI_n_f (R301). -/
def Reg.ethFiltDmacHi (n : Nat) (f : Nat) : Nat := 0x30408 + 0x1000 * n + 0x10 * f
/-- ETH_FILT_UDP_n_f (R301). -/
def Reg.ethFiltUdp (n : Nat) (f : Nat) : Nat := 0x3040C + 0x1000 * n + 0x10 * f
/-- AOIP_CAP (R303). -/
def Reg.aoipCap : Nat := 0x34000
/-- AOIP_USE (R303). -/
def Reg.aoipUse : Nat := 0x34004
/-- AOIP_ERR_STAT (R303). -/
def Reg.aoipErrStat : Nat := 0x34008
/-- PORT_CFG (R329). -/
def Reg.portCfg (n : Nat) : Nat := 0x36000 + 0x400 * n
/-- PORT_SEQ (R329). -/
def Reg.portSeq (n : Nat) : Nat := 0x36004 + 0x400 * n
/-- PORT_STAT (R329). -/
def Reg.portStat (n : Nat) : Nat := 0x36008 + 0x400 * n
/-- PORT_ERR_STAT (R329). -/
def Reg.portErrStat (n : Nat) : Nat := 0x3600C + 0x400 * n
/-- PORT_SPALL_COUNT (R329). -/
def Reg.portSpallCount (n : Nat) : Nat := 0x36010 + 0x400 * n
/-- PORT_RATE_MEAS (R329). -/
def Reg.portRateMeas (n : Nat) : Nat := 0x36014 + 0x400 * n
/-- PORT_TWIN_COUNT (R329). -/
def Reg.portTwinCount (n : Nat) : Nat := 0x36018 + 0x400 * n
/-- PORT_MASK_m (R329). -/
def Reg.portMask (n : Nat) (m : Nat) : Nat := 0x36020 + 0x400 * n + 0x4 * m
/-- AES_CFG (R330). -/
def Reg.aesCfg (n : Nat) : Nat := 0x38000 + 0x400 * n
/-- AES_STAT (R330). -/
def Reg.aesStat (n : Nat) : Nat := 0x38004 + 0x400 * n
/-- AES_ERR_STAT (R330). -/
def Reg.aesErrStat (n : Nat) : Nat := 0x38008 + 0x400 * n
/-- AES_ERR_COUNT (R330). -/
def Reg.aesErrCount (n : Nat) : Nat := 0x3800C + 0x400 * n
/-- AES_RATE_MEAS (R330). -/
def Reg.aesRateMeas (n : Nat) : Nat := 0x38010 + 0x400 * n
/-- ASRC_CAP (R331). -/
def Reg.asrcCap : Nat := 0x39000
/-- ASRC_USE (R331). -/
def Reg.asrcUse : Nat := 0x39004
/-- PS_FSW_STAT (R363). -/
def Reg.psFswStat : Nat := 0x3A000
/-- PS_BOOST_CFG (R363). -/
def Reg.psBoostCfg : Nat := 0x3A004
/-- PS_RAIL_MAX (R363). -/
def Reg.psRailMax : Nat := 0x3A008
/-- PS_SUPPLY (R363). -/
def Reg.psSupply : Nat := 0x3A00C
/-- PS_AVAIL (R363). -/
def Reg.psAvail : Nat := 0x3A010
/-- PS_RAIL_g (R363). -/
def Reg.psRail (g : Nat) : Nat := 0x3A014 + 0x4 * g
/-- PS_ERR_STAT (R363). -/
def Reg.psErrStat : Nat := 0x3A01C
/-- PS_CLIP_COUNT (R363). -/
def Reg.psClipCount : Nat := 0x3A020
/-- PS_INVALID_COUNT (R363). -/
def Reg.psInvalidCount : Nat := 0x3A024
/-- PS_PFREQ_k (R363). -/
def Reg.psPfreq (k : Nat) : Nat := 0x3A040 + 0x4 * k
/-- PS_CH_CFG_c (R363). -/
def Reg.psChCfg (c : Nat) : Nat := 0x3A100 + 0x40 * c
/-- PS_CH_THERM_c (R363). -/
def Reg.psChTherm (c : Nat) : Nat := 0x3A104 + 0x40 * c
/-- PS_CH_LIM_c (R363). -/
def Reg.psChLim (c : Nat) : Nat := 0x3A108 + 0x40 * c
/-- PS_CH_STAT_c (R363). -/
def Reg.psChStat (c : Nat) : Nat := 0x3A10C + 0x40 * c
/-- PS_CH_POWER_c (R363). -/
def Reg.psChPower (c : Nat) : Nat := 0x3A110 + 0x40 * c
/-- PS_CH_RE_c (R363). -/
def Reg.psChRe (c : Nat) : Nat := 0x3A114 + 0x40 * c
/-- PS_CH_BUDGET_c (R363). -/
def Reg.psChBudget (c : Nat) : Nat := 0x3A118 + 0x40 * c
/-- PS_CH_ILIM_COUNT_c (R363). -/
def Reg.psChIlimCount (c : Nat) : Nat := 0x3A11C + 0x40 * c
/-- TEST_DBG_ADDR_LO (R534). -/
def Reg.testDbgAddrLo : Nat := 0x3E000
/-- TEST_DBG_ADDR_HI (R534). -/
def Reg.testDbgAddrHi : Nat := 0x3E004
/-- TEST_DBG_DATA (R534). -/
def Reg.testDbgData : Nat := 0x3E008
/-- TEST_DBG_CTRL (R534). -/
def Reg.testDbgCtrl : Nat := 0x3E00C
/-- TEST_DBG_STAT (R534). -/
def Reg.testDbgStat : Nat := 0x3E010
/-- TEST_TRACE_CTRL (R534). -/
def Reg.testTraceCtrl : Nat := 0x3E020
/-- TEST_TRACE_e (R534). -/
def Reg.testTrace (e : Nat) : Nat := 0x3E200 + 0x4 * e

/-- Registers of spec/18_register_space.md. -/
def regRows18_0 : List RegRow := [
  ⟨"GLB_ID", 0x0, 0x0, 1, 0x0, 1, 0x0, 0x0, 0x0, 0x0, 0x0, 0xC4A04096⟩,
  ⟨"GLB_REV", 0x4, 0x0, 1, 0x0, 1, 0x0, 0x0, 0x0, 0x0, 0x0, 0x0⟩,
  ⟨"GLB_EUI_LO", 0x8, 0x0, 1, 0x0, 1, 0x0, 0x0, 0x0, 0x0, 0x0, 0x0⟩,
  ⟨"GLB_EUI_HI", 0xC, 0x0, 1, 0x0, 1, 0x0, 0x0, 0x0, 0x0, 0x0, 0x0⟩,
  ⟨"GLB_MODE", 0x10, 0x0, 1, 0x0, 1, 0x0, 0x0, 0x0, 0x0, 0x0, 0x0⟩,
  ⟨"GLB_MEDIA_RATE", 0x14, 0x0, 1, 0x0, 1, 0x0, 0x7, 0x0, 0x0, 0x100, 0x3⟩,
  ⟨"GLB_RESET", 0x18, 0x0, 1, 0x0, 1, 0x0, 0x0, 0x0, 0x0, 0xFF01, 0x0⟩,
  ⟨"GLB_LOCK", 0x1C, 0x0, 1, 0x0, 1, 0x0, 0x1, 0x0, 0x0, 0x0, 0x0⟩,
  ⟨"GLB_TICK_LO", 0x20, 0x0, 1, 0x0, 1, 0x0, 0x0, 0x0, 0x0, 0x0, 0x0⟩,
  ⟨"GLB_TICK_HI", 0x24, 0x0, 1, 0x0, 1, 0x0, 0x0, 0x0, 0x0, 0x0, 0x0⟩,
  ⟨"GLB_UPTIME", 0x28, 0x0, 1, 0x0, 1, 0x0, 0x0, 0x0, 0x0, 0x0, 0x0⟩,
  ⟨"TEST_DBG_ADDR_LO", 0x3E000, 0x0, 1, 0x0, 1, 0x0, 0xFFFFFFFC, 0x0, 0x0, 0x0, 0x0⟩,
  ⟨"TEST_DBG_ADDR_HI", 0x3E004, 0x0, 1, 0x0, 1, 0x0, 0x3, 0x0, 0x0, 0x0, 0x0⟩,
  ⟨"TEST_DBG_DATA", 0x3E008, 0x0, 1, 0x0, 1, 0x0, 0xFFFFFFFF, 0x0, 0x0, 0x0, 0x0⟩,
  ⟨"TEST_DBG_CTRL", 0x3E00C, 0x0, 1, 0x0, 1, 0x0, 0x3, 0x0, 0x0, 0x0, 0x0⟩,
  ⟨"TEST_DBG_STAT", 0x3E010, 0x0, 1, 0x0, 1, 0x0, 0x0, 0x0, 0x0, 0x0, 0x0⟩]

/-- Registers of spec/18_register_space.md. -/
def regRows18_1 : List RegRow := [
  ⟨"TEST_TRACE_CTRL", 0x3E020, 0x0, 1, 0x0, 1, 0x1, 0x0, 0x0, 0x0, 0x0, 0x0⟩,
  ⟨"TEST_TRACE_e", 0x3E200, 0x4, 1920, 0x0, 1, 0x0, 0x0, 0x0, 0x0, 0x0, 0x0⟩]

/-- Registers of spec/08_clocking.md. -/
def regRows08_0 : List RegRow := [
  ⟨"CLK_STAT", 0x1000, 0x0, 1, 0x0, 1, 0x0, 0x0, 0x0, 0x0, 0x0, 0x0⟩,
  ⟨"CLK_UNLOCK_STAT", 0x1004, 0x0, 1, 0x0, 1, 0x0, 0x0, 0x0, 0x3F3F, 0x0, 0x0⟩,
  ⟨"PLL_MEAS_CTRL", 0x1008, 0x0, 1, 0x0, 1, 0x7, 0x0, 0x0, 0x0, 0x8, 0x0⟩,
  ⟨"PLL_MEAS", 0x100C, 0x0, 1, 0x0, 1, 0x0, 0x0, 0x0, 0x0, 0x0, 0x0⟩,
  ⟨"BAND_p_e", 0x1100, 0x80, 6, 0x4, 32, 0x0, 0xFFFFFFFF, 0x0, 0x0, 0x0, 0x0⟩,
  ⟨"REF_CTRL", 0x2000, 0x0, 1, 0x0, 1, 0x1FFF03FF, 0x0, 0x0, 0x0, 0x0, 0x30A0032⟩,
  ⟨"REF_FREQ_LIMITS", 0x2004, 0x0, 1, 0x0, 1, 0xFFFFFFFF, 0x0, 0x0, 0x0, 0x0, 0x271007D0⟩,
  ⟨"REF_DRIFT_LIMITS", 0x2008, 0x0, 1, 0x0, 1, 0xFFFFFFFF, 0x0, 0x0, 0x0, 0x0, 0x3E80032⟩,
  ⟨"REF_SEL_STAT", 0x200C, 0x0, 1, 0x0, 1, 0x0, 0x0, 0x0, 0x0, 0x0, 0x0⟩,
  ⟨"REF_PHASE_ERR", 0x2010, 0x0, 1, 0x0, 1, 0x0, 0x0, 0x0, 0x0, 0x0, 0x0⟩,
  ⟨"HOLDOVER_STAT", 0x2014, 0x0, 1, 0x0, 1, 0x0, 0x0, 0x0, 0x0, 0x0, 0x0⟩,
  ⟨"ANCHOR_CTRL", 0x2018, 0x0, 1, 0x0, 1, 0xFF, 0x0, 0x0, 0x0, 0x0, 0x80⟩,
  ⟨"ANCHOR_STAT", 0x201C, 0x0, 1, 0x0, 1, 0x0, 0x0, 0x0, 0x0, 0x0, 0x0⟩,
  ⟨"REF_EVENT_STAT", 0x2020, 0x0, 1, 0x0, 1, 0x0, 0x0, 0x0, 0xFF, 0x0, 0x0⟩,
  ⟨"REF_ALIGN_CTRL", 0x2024, 0x0, 1, 0x0, 1, 0x0, 0xFF, 0x0, 0x0, 0x0, 0xA⟩,
  ⟨"REF_CFG_0", 0x2040, 0x0, 1, 0x0, 1, 0xFFFF, 0x0, 0x0, 0x0, 0x0, 0x1003⟩]

/-- Registers of spec/08_clocking.md. -/
def regRows08_1 : List RegRow := [
  ⟨"REF_CFG_n", 0x2050, 0x10, 7, 0x0, 1, 0xFFFF, 0x0, 0x0, 0x0, 0x0, 0x0⟩,
  ⟨"REF_BW_n", 0x2044, 0x10, 8, 0x0, 1, 0x1FFFF, 0x0, 0x0, 0x0, 0x0, 0x0⟩,
  ⟨"REF_STAT_n", 0x2048, 0x10, 8, 0x0, 1, 0x0, 0x0, 0x0, 0x0, 0x0, 0x0⟩,
  ⟨"REF_OFFSET_n", 0x204C, 0x10, 8, 0x0, 1, 0x0, 0x0, 0x0, 0x0, 0x0, 0x0⟩,
  ⟨"PULSE_CFG_m", 0x20C0, 0x4, 2, 0x0, 1, 0xFFF7, 0x0, 0x0, 0x0, 0x0, 0x0⟩,
  ⟨"REFIN_CFG", 0x20C8, 0x0, 1, 0x0, 1, 0xFFFFFFFF, 0x0, 0x0, 0x0, 0x0, 0x0⟩,
  ⟨"FAB_ASYM_n", 0x2100, 0x4, 16, 0x0, 1, 0xFFFF, 0x0, 0x0, 0x0, 0x0, 0x0⟩]

/-- Registers of spec/09_ethernet_time_aoip.md. -/
def regRows09_0 : List RegRow := [
  ⟨"TIME_EVT_CFG", 0x3000, 0x0, 1, 0x0, 1, 0xFF, 0x0, 0x0, 0x0, 0x0, 0x0⟩,
  ⟨"TIME_CMP_ACTIVE", 0x3004, 0x0, 1, 0x0, 1, 0x0, 0x0, 0x0, 0x0, 0x0, 0x0⟩,
  ⟨"TIME_CAP_STAT", 0x3008, 0x0, 1, 0x0, 1, 0x0, 0x0, 0x0, 0xFFFF, 0x0, 0x0⟩,
  ⟨"TIME_CAP_CFG_u", 0x3040, 0x4, 16, 0x0, 1, 0x3F0F, 0x0, 0x0, 0x0, 0x0, 0x0⟩,
  ⟨"ETH_CTRL", 0x30000, 0x1000, 4, 0x0, 1, 0x0, 0x3FFF001F, 0x0, 0x0, 0x0, 0x5EE0000⟩,
  ⟨"ETH_STAT", 0x30004, 0x1000, 4, 0x0, 1, 0x0, 0x0, 0x0, 0x0, 0x0, 0x0⟩,
  ⟨"ETH_MAC_LO", 0x30008, 0x1000, 4, 0x0, 1, 0x0, 0xFFFFFFFF, 0x0, 0x0, 0x0, 0x0⟩,
  ⟨"ETH_MAC_HI", 0x3000C, 0x1000, 4, 0x0, 1, 0x0, 0xFFFF, 0x0, 0x0, 0x0, 0x0⟩,
  ⟨"ETH_IPV4", 0x30010, 0x1000, 4, 0x0, 1, 0x0, 0xFFFFFFFF, 0x0, 0x0, 0x0, 0x0⟩,
  ⟨"ETH_MGMT_VLAN", 0x30014, 0x1000, 4, 0x0, 1, 0x0, 0xFFFF, 0x0, 0x0, 0x0, 0x0⟩,
  ⟨"ETH_PAUSE_CFG", 0x30020, 0x1000, 4, 0x0, 1, 0xFF7F7F03, 0x0, 0x0, 0x0, 0x0, 0xA194B00⟩,
  ⟨"ETH_PAUSE_QUANTA", 0x30024, 0x1000, 4, 0x0, 1, 0xFFFF, 0x0, 0x0, 0x0, 0x0, 0xFFFF⟩,
  ⟨"ETH_PAUSE_STAT", 0x30028, 0x1000, 4, 0x0, 1, 0x0, 0x0, 0x0, 0x1, 0x0, 0x0⟩,
  ⟨"ETH_PTP_CFG", 0x30030, 0x1000, 4, 0x0, 1, 0x0, 0xFFFFF3F, 0x0, 0x0, 0x0, 0x0⟩,
  ⟨"ETH_PTP_PRIO", 0x30034, 0x1000, 4, 0x0, 1, 0x0, 0xFFFF, 0x0, 0x0, 0x0, 0x8080⟩,
  ⟨"ETH_TS_ADJ", 0x30038, 0x1000, 4, 0x0, 1, 0x0, 0xFFFFFFFF, 0x0, 0x0, 0x0, 0x0⟩]

/-- Registers of spec/09_ethernet_time_aoip.md. -/
def regRows09_1 : List RegRow := [
  ⟨"ETH_PTP_STAT", 0x3003C, 0x1000, 4, 0x0, 1, 0x0, 0x0, 0x0, 0x0, 0x0, 0x0⟩,
  ⟨"ETH_RX_DROP_COUNT", 0x30040, 0x1000, 4, 0x0, 1, 0x0, 0x0, 0x0, 0x0, 0x0, 0x0⟩,
  ⟨"ETH_TC_FWD_COUNT", 0x30044, 0x1000, 4, 0x0, 1, 0x0, 0x0, 0x0, 0x0, 0x0, 0x0⟩,
  ⟨"ETH_PAUSE_IGN_COUNT", 0x30048, 0x1000, 4, 0x0, 1, 0x0, 0x0, 0x0, 0x0, 0x0, 0x0⟩,
  ⟨"ETH_QCFG_n_q", 0x30080, 0x1000, 4, 0x4, 16, 0x3FF1F03, 0x0, 0x0, 0x0, 0x0, 0x400000⟩,
  ⟨"ETH_FILT_CTRL_n_f", 0x30400, 0x1000, 4, 0x10, 64, 0xFFF7F7F, 0x0, 0x0, 0x0, 0x0, 0x0⟩,
  ⟨"ETH_FILT_DMAC_LO_n_f", 0x30404, 0x1000, 4, 0x10, 64, 0xFFFFFFFF, 0x0, 0x0, 0x0, 0x0, 0x0⟩,
  ⟨"ETH_FILT_DMAC_HI_n_f", 0x30408, 0x1000, 4, 0x10, 64, 0xFFFFFFFF, 0x0, 0x0, 0x0, 0x0, 0x0⟩,
  ⟨"ETH_FILT_UDP_n_f", 0x3040C, 0x1000, 4, 0x10, 64, 0xFFFF, 0x0, 0x0, 0x0, 0x0, 0x0⟩,
  ⟨"AOIP_CAP", 0x34000, 0x0, 1, 0x0, 1, 0x0, 0x0, 0x0, 0x0, 0x0, 0x4000100⟩,
  ⟨"AOIP_USE", 0x34004, 0x0, 1, 0x0, 1, 0x0, 0x0, 0x0, 0x0, 0x0, 0x0⟩,
  ⟨"AOIP_ERR_STAT", 0x34008, 0x0, 1, 0x0, 1, 0x0, 0x0, 0x0, 0xF, 0x0, 0x0⟩]

/-- Registers of spec/12_host_control.md. -/
def regRows12_0 : List RegRow := [
  ⟨"HIF_CTRL", 0x4000, 0x0, 1, 0x0, 1, 0x3, 0x0, 0x0, 0x0, 0x0, 0x0⟩,
  ⟨"HIF_STAT", 0x4004, 0x0, 1, 0x0, 1, 0x0, 0x0, 0x0, 0x0, 0x0, 0x0⟩,
  ⟨"HIF_HCA_LO", 0x4008, 0x0, 1, 0x0, 1, 0xFFFFF000, 0x0, 0x0, 0x0, 0x0, 0x0⟩,
  ⟨"HIF_HCA_HI", 0x400C, 0x0, 1, 0x0, 1, 0xFFFFFFFF, 0x0, 0x0, 0x0, 0x0, 0x0⟩,
  ⟨"HIF_OWNER", 0x4010, 0x0, 1, 0x0, 1, 0x0, 0x0, 0x0, 0x0, 0x0, 0x0⟩,
  ⟨"HIF_TUN_CFG", 0x4014, 0x0, 1, 0x0, 1, 0x0, 0xFFFFFF, 0x0, 0x0, 0x0, 0x80064⟩,
  ⟨"HIF_ERR_STAT", 0x4018, 0x0, 1, 0x0, 1, 0x0, 0x0, 0x0, 0xF, 0x0, 0x0⟩,
  ⟨"HIF_EQ_LOST_COUNT", 0x401C, 0x0, 1, 0x0, 1, 0x0, 0x0, 0x0, 0x0, 0x0, 0x0⟩,
  ⟨"HIF_RECORD_LOST_COUNT", 0x4020, 0x0, 1, 0x0, 1, 0x0, 0x0, 0x0, 0x0, 0x0, 0x0⟩,
  ⟨"HIF_ERR_ADDR_LO", 0x4024, 0x0, 1, 0x0, 1, 0x0, 0x0, 0x0, 0x0, 0x0, 0x0⟩,
  ⟨"HIF_ERR_ADDR_HI", 0x4028, 0x0, 1, 0x0, 1, 0x0, 0x0, 0x0, 0x0, 0x0, 0x0⟩,
  ⟨"HIF_QOS", 0x402C, 0x0, 1, 0x0, 1, 0x0, 0xFF, 0x0, 0x0, 0x0, 0x88⟩,
  ⟨"HIF_ACCEPT", 0x4030, 0x0, 1, 0x0, 1, 0x0, 0x0, 0x0, 0x0, 0x0, 0x0⟩,
  ⟨"TUN_ALLOW_EN", 0x4034, 0x0, 1, 0x0, 1, 0x0, 0x0, 0xFF, 0x0, 0x0, 0x0⟩,
  ⟨"TUN_SERVE", 0x4038, 0x0, 1, 0x0, 1, 0x0, 0x0, 0x0, 0x0, 0x0, 0x0⟩,
  ⟨"TUN_ALLOW_LO_k", 0x4040, 0x8, 8, 0x0, 1, 0x0, 0x0, 0xFFFFFFFF, 0x0, 0x0, 0x0⟩]

/-- Registers of spec/12_host_control.md. -/
def regRows12_1 : List RegRow := [
  ⟨"TUN_ALLOW_HI_k", 0x4044, 0x8, 8, 0x0, 1, 0x0, 0x0, 0xFFFFFFFF, 0x0, 0x0, 0x0⟩,
  ⟨"DMA_STATE_LO", 0x5000, 0x0, 1, 0x0, 1, 0x0, 0x0, 0x0, 0x0, 0x0, 0x0⟩,
  ⟨"DMA_STATE_HI", 0x5004, 0x0, 1, 0x0, 1, 0x0, 0x0, 0x0, 0x0, 0x0, 0x0⟩,
  ⟨"DMA_ERR_STAT", 0x5008, 0x0, 1, 0x0, 1, 0x0, 0x0, 0x0, 0x7, 0x0, 0x0⟩,
  ⟨"DMA_ERR_ADDR_LO", 0x500C, 0x0, 1, 0x0, 1, 0x0, 0x0, 0x0, 0x0, 0x0, 0x0⟩,
  ⟨"DMA_ERR_ADDR_HI", 0x5010, 0x0, 1, 0x0, 1, 0x0, 0x0, 0x0, 0x0, 0x0, 0x0⟩,
  ⟨"DMA_ERR_INFO", 0x5014, 0x0, 1, 0x0, 1, 0x0, 0x0, 0x0, 0x0, 0x0, 0x0⟩,
  ⟨"DMA_UNDERRUN_COUNT", 0x5018, 0x0, 1, 0x0, 1, 0x0, 0x0, 0x0, 0x0, 0x0, 0x0⟩,
  ⟨"DMA_OVERRUN_COUNT", 0x501C, 0x0, 1, 0x0, 1, 0x0, 0x0, 0x0, 0x0, 0x0, 0x0⟩]

/-- Registers of spec/13_matrix_crc.md. -/
def regRows13_0 : List RegRow := [
  ⟨"MTX_CTRL", 0x6000, 0x0, 1, 0x0, 1, 0x0, 0x1, 0x0, 0x0, 0x0, 0x0⟩,
  ⟨"MTX_STAT", 0x6004, 0x0, 1, 0x0, 1, 0x0, 0x0, 0x0, 0x0, 0x0, 0x0⟩,
  ⟨"MTX_QOS", 0x6008, 0x0, 1, 0x0, 1, 0x0, 0xFFF, 0x0, 0x0, 0x0, 0xCC4⟩,
  ⟨"MTX_ERR_STAT", 0x600C, 0x0, 1, 0x0, 1, 0x0, 0x0, 0x0, 0x7, 0x0, 0x0⟩,
  ⟨"MTX_DECERR_COUNT", 0x6010, 0x0, 1, 0x0, 1, 0x0, 0x0, 0x0, 0x0, 0x0, 0x0⟩,
  ⟨"MTX_DENY_COUNT", 0x6014, 0x0, 1, 0x0, 1, 0x0, 0x0, 0x0, 0x0, 0x0, 0x0⟩,
  ⟨"MTX_ERR_ADDR_LO", 0x6018, 0x0, 1, 0x0, 1, 0x0, 0x0, 0x0, 0x0, 0x0, 0x0⟩,
  ⟨"MTX_ERR_ADDR_HI", 0x601C, 0x0, 1, 0x0, 1, 0x0, 0x0, 0x0, 0x0, 0x0, 0x0⟩,
  ⟨"MTX_ERR_INFO", 0x6020, 0x0, 1, 0x0, 1, 0x0, 0x0, 0x0, 0x0, 0x0, 0x0⟩,
  ⟨"MTX_SLICE_m", 0x6040, 0x4, 22, 0x0, 1, 0x0, 0x1F, 0x0, 0x0, 0x0, 0x0⟩,
  ⟨"MTX_RGN_BASE_0", 0x6100, 0x0, 1, 0x0, 1, 0x0, 0x0, 0x803FFFFF, 0x0, 0x0, 0x80010000⟩,
  ⟨"MTX_RGN_BASE_k", 0x6110, 0x10, 7, 0x0, 1, 0x0, 0x0, 0x803FFFFF, 0x0, 0x0, 0x0⟩,
  ⟨"MTX_RGN_LIMIT_0", 0x6104, 0x0, 1, 0x0, 1, 0x0, 0x0, 0x3FFFFF, 0x0, 0x0, 0x100FF⟩,
  ⟨"MTX_RGN_LIMIT_k", 0x6114, 0x10, 7, 0x0, 1, 0x0, 0x0, 0x3FFFFF, 0x0, 0x0, 0x0⟩,
  ⟨"MTX_RGN_PERM_0", 0x6108, 0x0, 1, 0x0, 1, 0x0, 0x0, 0x3, 0x0, 0x0, 0x3⟩,
  ⟨"MTX_RGN_PERM_k", 0x6118, 0x10, 7, 0x0, 1, 0x0, 0x0, 0x3, 0x0, 0x0, 0x0⟩]

/-- Registers of spec/13_matrix_crc.md. -/
def regRows13_1 : List RegRow := [
  ⟨"CRC_CFG_u", 0x7000, 0x40, 8, 0x0, 1, 0x1F, 0x0, 0x0, 0x0, 0x0, 0x0⟩,
  ⟨"CRC_POLY_LO_u", 0x7004, 0x40, 8, 0x0, 1, 0xFFFFFFFF, 0x0, 0x0, 0x0, 0x0, 0x0⟩,
  ⟨"CRC_POLY_HI_u", 0x7008, 0x40, 8, 0x0, 1, 0xFFFFFFFF, 0x0, 0x0, 0x0, 0x0, 0x0⟩,
  ⟨"CRC_INIT_LO_u", 0x700C, 0x40, 8, 0x0, 1, 0xFFFFFFFF, 0x0, 0x0, 0x0, 0x0, 0x0⟩,
  ⟨"CRC_INIT_HI_u", 0x7010, 0x40, 8, 0x0, 1, 0xFFFFFFFF, 0x0, 0x0, 0x0, 0x0, 0x0⟩,
  ⟨"CRC_CTRL_u", 0x7014, 0x40, 8, 0x0, 1, 0x0, 0x0, 0x0, 0x0, 0x1, 0x0⟩,
  ⟨"CRC_VALUE_LO_u", 0x7018, 0x40, 8, 0x0, 1, 0xFFFFFFFF, 0x0, 0x0, 0x0, 0x0, 0x0⟩,
  ⟨"CRC_VALUE_HI_u", 0x701C, 0x40, 8, 0x0, 1, 0xFFFFFFFF, 0x0, 0x0, 0x0, 0x0, 0x0⟩,
  ⟨"CRC_RESULT_LO_u", 0x7020, 0x40, 8, 0x0, 1, 0x0, 0x0, 0x0, 0x0, 0x0, 0x0⟩,
  ⟨"CRC_RESULT_HI_u", 0x7024, 0x40, 8, 0x0, 1, 0x0, 0x0, 0x0, 0x0, 0x0, 0x0⟩,
  ⟨"CRC_DATA_B_u", 0x7028, 0x40, 8, 0x0, 1, 0x0, 0x0, 0x0, 0x0, 0xFF, 0x0⟩,
  ⟨"CRC_DATA_H_u", 0x702C, 0x40, 8, 0x0, 1, 0x0, 0x0, 0x0, 0x0, 0xFFFF, 0x0⟩,
  ⟨"CRC_DATA_W_u", 0x7030, 0x40, 8, 0x0, 1, 0x0, 0x0, 0x0, 0x0, 0xFFFFFFFF, 0x0⟩,
  ⟨"CRC_STAT_u", 0x7034, 0x40, 8, 0x0, 1, 0x0, 0x0, 0x0, 0x0, 0x0, 0x0⟩,
  ⟨"CRC_COUNT_u", 0x7038, 0x40, 8, 0x0, 1, 0x0, 0x0, 0x0, 0x0, 0x0, 0x0⟩]

/-- Registers of spec/15_faults_protection_ageing.md. -/
def regRows15_0 : List RegRow := [
  ⟨"SUMP_CTRL", 0x8000, 0x0, 1, 0x0, 1, 0x0, 0x7, 0x0, 0x0, 0x0, 0x4⟩,
  ⟨"SUMP_STAT", 0x8004, 0x0, 1, 0x0, 1, 0x0, 0x0, 0x0, 0x0, 0x0, 0x0⟩,
  ⟨"SUMP_SUM_s", 0x8800, 0x4, 256, 0x0, 1, 0x0, 0x0, 0x0, 0x0, 0x0, 0x0⟩,
  ⟨"PROT_STAT", 0x9000, 0x0, 1, 0x0, 1, 0x0, 0x0, 0x0, 0x0, 0x0, 0x0⟩,
  ⟨"PROT_CMD", 0x9004, 0x0, 1, 0x0, 1, 0x0, 0x0, 0x0, 0x0, 0x1F03, 0x0⟩,
  ⟨"PROT_NONCE", 0x9008, 0x0, 1, 0x0, 1, 0x0, 0x0, 0x0, 0x0, 0x0, 0x0⟩,
  ⟨"PROT_CONFIRM", 0x900C, 0x0, 1, 0x0, 1, 0x0, 0x0, 0x0, 0x0, 0xFFFFFFFF, 0x0⟩,
  ⟨"PROT_WHOAMI", 0x9010, 0x0, 1, 0x0, 1, 0x0, 0x0, 0x0, 0x0, 0x0, 0x3⟩,
  ⟨"PROT_REFUSE_COUNT", 0x9014, 0x0, 1, 0x0, 1, 0x0, 0x0, 0x0, 0x0, 0x0, 0x0⟩,
  ⟨"PROT_LAST_REFUSE", 0x9018, 0x0, 1, 0x0, 1, 0x0, 0x0, 0x0, 0x0, 0x0, 0x0⟩,
  ⟨"PROT_IMG_AUTH", 0x9040, 0x0, 1, 0x0, 1, 0x0, 0x0, 0x3, 0x0, 0x0, 0x0⟩,
  ⟨"PROT_IMG_CRC", 0x9044, 0x0, 1, 0x0, 1, 0x0, 0x0, 0xFFFFFFFF, 0x0, 0x0, 0x0⟩,
  ⟨"PROT_ITEM_OFS_k", 0x9100, 0x10, 16, 0x0, 1, 0xFFFFFFFF, 0x0, 0x0, 0x0, 0x0, 0x0⟩,
  ⟨"PROT_ITEM_VAL_k", 0x9104, 0x10, 16, 0x0, 1, 0xFFFFFFFF, 0x0, 0x0, 0x0, 0x0, 0x0⟩,
  ⟨"PROT_ITEM_MASK_k", 0x9108, 0x10, 16, 0x0, 1, 0xFFFFFFFF, 0x0, 0x0, 0x0, 0x0, 0x0⟩,
  ⟨"AGE_CTRL", 0xA000, 0x0, 1, 0x0, 1, 0xFF07, 0x0, 0x0, 0x0, 0x0, 0x7⟩]

/-- Registers of spec/15_faults_protection_ageing.md. -/
def regRows15_1 : List RegRow := [
  ⟨"AGE_VDD", 0xA004, 0x0, 1, 0x0, 1, 0x0, 0x0, 0x0, 0x0, 0x0, 0x0⟩,
  ⟨"AGE_PLAN", 0xA008, 0x0, 1, 0x0, 1, 0x0, 0x0, 0x0, 0x0, 0x0, 0x4000⟩,
  ⟨"AGE_PENDING", 0xA00C, 0x0, 1, 0x0, 1, 0x0, 0x0, 0x0, 0x0, 0x0, 0x0⟩]

/-- Registers of spec/14_two_wire.md. -/
def regRows14_0 : List RegRow := [
  ⟨"MB_CTRL", 0xB000, 0x100, 2, 0x0, 1, 0x0, 0xFF7F7FFF, 0x0, 0x0, 0x0, 0x190345A7⟩,
  ⟨"MB_TIMING_A", 0xB004, 0x100, 2, 0x0, 1, 0x0, 0xFFFFFFFF, 0x0, 0x0, 0x0, 0x5008C12C⟩,
  ⟨"MB_TIMING_B", 0xB008, 0x100, 2, 0x0, 1, 0x0, 0xFF1F03FF, 0x0, 0x0, 0x0, 0xA0A0014⟩,
  ⟨"MB_STAT", 0xB00C, 0x100, 2, 0x0, 1, 0x0, 0x0, 0x0, 0x0, 0x0, 0x0⟩,
  ⟨"MB_ERR_STAT", 0xB010, 0x100, 2, 0x0, 1, 0x0, 0x0, 0x0, 0x3F, 0x0, 0x0⟩,
  ⟨"MB_ARB_INFO", 0xB014, 0x100, 2, 0x0, 1, 0x0, 0x0, 0x0, 0x0, 0x0, 0x0⟩,
  ⟨"MB_COUNTS", 0xB018, 0x100, 2, 0x0, 1, 0x0, 0x0, 0x0, 0x0, 0x0, 0x0⟩,
  ⟨"MB_TGT_REQ", 0xB01C, 0x100, 2, 0x0, 1, 0x0, 0x0, 0x0, 0x1, 0x2, 0x0⟩]

/-- Registers of spec/16_power_states_boot.md. -/
def regRows16_0 : List RegRow := [
  ⟨"BOOT_STAT", 0xC000, 0x0, 1, 0x0, 1, 0x0, 0x0, 0x0, 0x0, 0x0, 0x0⟩,
  ⟨"SLOT_x_INFO", 0xC004, 0x4, 2, 0x0, 1, 0x0, 0x0, 0x0, 0x0, 0x0, 0x0⟩,
  ⟨"SLOT_x_CRC", 0xC00C, 0x4, 2, 0x0, 1, 0x0, 0x0, 0x0, 0x0, 0x0, 0x0⟩,
  ⟨"CFG_PTR", 0xC014, 0x0, 1, 0x0, 1, 0x0, 0x0, 0x0, 0x0, 0x0, 0x0⟩,
  ⟨"FLASH_PROGRESS", 0xC018, 0x0, 1, 0x0, 1, 0x0, 0x0, 0x0, 0x0, 0x0, 0x0⟩,
  ⟨"SVN_FUSE", 0xC01C, 0x0, 1, 0x0, 1, 0x0, 0x0, 0x0, 0x0, 0x0, 0x0⟩]

/-- Registers of spec/02_router.md. -/
def regRows02_0 : List RegRow := [
  ⟨"METER_CTRL", 0xD000, 0x0, 1, 0x0, 1, 0x1, 0x0, 0x0, 0x0, 0x2, 0x1⟩,
  ⟨"METER_STAT", 0xD004, 0x0, 1, 0x0, 1, 0x0, 0x0, 0x0, 0x0, 0x0, 0x0⟩,
  ⟨"METER_SRC_e", 0xD400, 0x4, 1024, 0x0, 1, 0xFFFF, 0x0, 0x0, 0x0, 0x0, 0xF000⟩,
  ⟨"METER_PEAK_e", 0xE400, 0x4, 1024, 0x0, 1, 0x0, 0x0, 0x0, 0x0, 0x0, 0x0⟩,
  ⟨"ROUTER_CTRL", 0x10000, 0x0, 1, 0x0, 1, 0x0, 0x3, 0x0, 0x0, 0x0, 0x0⟩,
  ⟨"ROUTE_RAMP", 0x10004, 0x0, 1, 0x0, 1, 0x3FF, 0x0, 0x0, 0x0, 0x0, 0xA⟩,
  ⟨"ROUTER_CAP", 0x10008, 0x0, 1, 0x0, 1, 0x0, 0x0, 0x0, 0x0, 0x0, 0x40002000⟩,
  ⟨"ROUTER_USE", 0x1000C, 0x0, 1, 0x0, 1, 0x0, 0x0, 0x0, 0x0, 0x0, 0x0⟩,
  ⟨"ROUTER_SAT_COUNT", 0x10010, 0x0, 1, 0x0, 1, 0x0, 0x0, 0x0, 0x0, 0x0, 0x0⟩,
  ⟨"ROUTER_SAT_STAT", 0x10014, 0x0, 1, 0x0, 1, 0x0, 0x0, 0x0, 0x3, 0x0, 0x0⟩,
  ⟨"DIRECT_SAT_COUNT", 0x10018, 0x0, 1, 0x0, 1, 0x0, 0x0, 0x0, 0x0, 0x0, 0x0⟩,
  ⟨"DIRECT_ACTIVE_LO", 0x10020, 0x0, 1, 0x0, 1, 0x0, 0x0, 0x0, 0x0, 0x0, 0x0⟩,
  ⟨"DIRECT_ACTIVE_HI", 0x10024, 0x0, 1, 0x0, 1, 0x0, 0x0, 0x0, 0x0, 0x0, 0x0⟩]

/-- Registers of spec/03_tile_datapath.md. -/
def regRows03_0 : List RegRow := [
  ⟨"TILE_ID", 0x14000, 0x1000, 16, 0x0, 1, 0x0, 0x0, 0x0, 0x0, 0x0, 0x22000⟩,
  ⟨"TILE_STAT", 0x14004, 0x1000, 16, 0x0, 1, 0x0, 0x0, 0x0, 0x0, 0x0, 0x0⟩,
  ⟨"TILE_CTRL", 0x14008, 0x1000, 16, 0x0, 1, 0x3, 0x0, 0x0, 0x0, 0x0, 0x3⟩,
  ⟨"TILE_FLAGS", 0x1400C, 0x1000, 16, 0x0, 1, 0x0, 0x0, 0x0, 0xF, 0x0, 0x0⟩,
  ⟨"TILE_SAT_COUNT", 0x14010, 0x1000, 16, 0x0, 1, 0x0, 0x0, 0x0, 0x0, 0x0, 0x0⟩,
  ⟨"TILE_WRAP_COUNT", 0x14014, 0x1000, 16, 0x0, 1, 0x0, 0x0, 0x0, 0x0, 0x0, 0x0⟩,
  ⟨"TILE_PARITY_COUNT", 0x14018, 0x1000, 16, 0x0, 1, 0x0, 0x0, 0x0, 0x0, 0x0, 0x0⟩,
  ⟨"TILE_CYC_LAST", 0x1401C, 0x1000, 16, 0x0, 1, 0x0, 0x0, 0x0, 0x0, 0x0, 0x0⟩,
  ⟨"TILE_CYC_MAX", 0x14020, 0x1000, 16, 0x0, 1, 0x0, 0x0, 0x0, 0x0, 0x0, 0x0⟩,
  ⟨"TILE_BG_CYC", 0x14024, 0x1000, 16, 0x0, 1, 0x0, 0x0, 0x0, 0x0, 0x0, 0x0⟩,
  ⟨"TILE_MARK", 0x14028, 0x1000, 16, 0x0, 1, 0x0, 0x0, 0x0, 0x0, 0x0, 0x0⟩]

/-- Registers of spec/05_benches.md. -/
def regRows05_0 : List RegRow := [
  ⟨"BENCH_CAP", 0x24000, 0x0, 1, 0x0, 1, 0x0, 0x0, 0x0, 0x0, 0x0, 0x401F00⟩,
  ⟨"BENCH_MAPPED", 0x24004, 0x0, 1, 0x0, 1, 0x0, 0x0, 0x0, 0x0, 0x0, 0x0⟩,
  ⟨"BENCH_OVER_LO", 0x24008, 0x0, 1, 0x0, 1, 0x0, 0x0, 0x0, 0x0, 0x0, 0x0⟩,
  ⟨"BENCH_OVER_HI", 0x2400C, 0x0, 1, 0x0, 1, 0x0, 0x0, 0x0, 0x0, 0x0, 0x0⟩,
  ⟨"BENCH_SAT_COUNT", 0x24010, 0x0, 1, 0x0, 1, 0x0, 0x0, 0x0, 0x0, 0x0, 0x0⟩,
  ⟨"DRAM_ECC_STAT", 0x24014, 0x0, 1, 0x0, 1, 0x0, 0x0, 0x0, 0x7, 0x0, 0x0⟩,
  ⟨"DRAM_CE_COUNT", 0x24018, 0x0, 1, 0x0, 1, 0x0, 0x0, 0x0, 0x0, 0x0, 0x0⟩,
  ⟨"DRAM_UE_COUNT", 0x2401C, 0x0, 1, 0x0, 1, 0x0, 0x0, 0x0, 0x0, 0x0, 0x0⟩,
  ⟨"DRAM_ERR_ADDR", 0x24020, 0x0, 1, 0x0, 1, 0x0, 0x0, 0x0, 0x0, 0x0, 0x0⟩,
  ⟨"DRAM_ERR_WHERE", 0x24024, 0x0, 1, 0x0, 1, 0x0, 0x0, 0x0, 0x0, 0x0, 0x0⟩,
  ⟨"SCRUB_CTRL", 0x24028, 0x0, 1, 0x0, 1, 0xFF01, 0x0, 0x0, 0x0, 0x0, 0x1801⟩,
  ⟨"SCRUB_STAT", 0x2402C, 0x0, 1, 0x0, 1, 0x0, 0x0, 0x0, 0x0, 0x0, 0x0⟩]

/-- Registers of spec/06_dorura_links.md. -/
def regRows06_0 : List RegRow := [
  ⟨"LINK_CTRL", 0x28000, 0x400, 16, 0x0, 1, 0xFFFF03, 0x0, 0x0, 0x0, 0x0, 0xA1403⟩,
  ⟨"LINK_STAT", 0x28004, 0x400, 16, 0x0, 1, 0x0, 0x0, 0x0, 0x0, 0x0, 0x0⟩,
  ⟨"LINK_PEER_EUI_LO", 0x28008, 0x400, 16, 0x0, 1, 0x0, 0x0, 0x0, 0x0, 0x0, 0x0⟩,
  ⟨"LINK_PEER_EUI_HI", 0x2800C, 0x400, 16, 0x0, 1, 0x0, 0x0, 0x0, 0x0, 0x0, 0x0⟩,
  ⟨"LINK_TXEQ", 0x28010, 0x400, 16, 0x0, 1, 0x0, 0x0, 0x0, 0x0, 0x0, 0x0⟩,
  ⟨"LINK_EYE", 0x28014, 0x400, 16, 0x0, 1, 0x0, 0x0, 0x0, 0x0, 0x0, 0x0⟩,
  ⟨"LINK_ERR_STAT", 0x28018, 0x400, 16, 0x0, 1, 0x0, 0x0, 0x0, 0x3F, 0x0, 0x0⟩,
  ⟨"SLOT_CRC_COUNT", 0x2801C, 0x400, 16, 0x0, 1, 0x0, 0x0, 0x0, 0x0, 0x0, 0x0⟩,
  ⟨"CELL_CRC_COUNT", 0x28020, 0x400, 16, 0x0, 1, 0x0, 0x0, 0x0, 0x0, 0x0, 0x0⟩,
  ⟨"MARKER_MISS_COUNT", 0x28024, 0x400, 16, 0x0, 1, 0x0, 0x0, 0x0, 0x0, 0x0, 0x0⟩,
  ⟨"CELL_DROP_COUNT", 0x28028, 0x400, 16, 0x0, 1, 0x0, 0x0, 0x0, 0x0, 0x0, 0x0⟩,
  ⟨"LINK_EVENTS", 0x2802C, 0x400, 16, 0x0, 1, 0x0, 0x0, 0x0, 0x0, 0x0, 0x0⟩,
  ⟨"LINK_BER_LIMIT", 0x28030, 0x400, 16, 0x0, 1, 0xFFFF, 0x0, 0x0, 0x0, 0x0, 0x64⟩]

/-- Registers of spec/07_fabric_switching.md. -/
def regRows07_0 : List RegRow := [
  ⟨"FSW_CTRL", 0x2C000, 0x0, 1, 0x0, 1, 0x0, 0xFF1F, 0x0, 0x0, 0x0, 0x210⟩,
  ⟨"FSW_CAP", 0x2C004, 0x0, 1, 0x0, 1, 0x0, 0x0, 0x0, 0x0, 0x0, 0x83800⟩,
  ⟨"FSW_BUDGET", 0x2C008, 0x0, 1, 0x0, 1, 0x1FFFF, 0x0, 0x0, 0x0, 0x0, 0x10000⟩,
  ⟨"FSW_USE", 0x2C00C, 0x0, 1, 0x0, 1, 0x0, 0x0, 0x0, 0x0, 0x0, 0x0⟩,
  ⟨"FSW_GROUPS", 0x2C010, 0x0, 1, 0x0, 1, 0xFFFFFFFF, 0x0, 0x0, 0x0, 0x0, 0x1⟩,
  ⟨"FSW_SEL_STAT", 0x2C014, 0x0, 1, 0x0, 1, 0x0, 0x0, 0x0, 0x1F, 0x0, 0x0⟩,
  ⟨"FSW_B_TICKS", 0x2C018, 0x0, 1, 0x0, 1, 0x0, 0x0, 0x0, 0x0, 0x0, 0x0⟩,
  ⟨"FSW_HOLD_TICKS", 0x2C01C, 0x0, 1, 0x0, 1, 0x0, 0x0, 0x0, 0x0, 0x0, 0x0⟩,
  ⟨"FSW_GEN_OLD_COUNT", 0x2C020, 0x0, 1, 0x0, 1, 0x0, 0x0, 0x0, 0x0, 0x0, 0x0⟩,
  ⟨"FSW_PAIR_STAT", 0x2C024, 0x0, 1, 0x0, 1, 0x0, 0x0, 0x0, 0x0, 0x0, 0x0⟩,
  ⟨"FSW_DIVERGE_TICK", 0x2C028, 0x0, 1, 0x0, 1, 0x0, 0x0, 0x0, 0x0, 0x0, 0x0⟩,
  ⟨"FSW_DIVERGE_COUNT", 0x2C02C, 0x0, 1, 0x0, 1, 0x0, 0x0, 0x0, 0x0, 0x0, 0x0⟩,
  ⟨"FSW_DIGEST_MISS_COUNT", 0x2C030, 0x0, 1, 0x0, 1, 0x0, 0x0, 0x0, 0x0, 0x0, 0x0⟩,
  ⟨"FSW_RXOFS_n", 0x2C040, 0x4, 16, 0x0, 1, 0x0, 0x0, 0x0, 0x0, 0x0, 0x0⟩]

/-- Registers of spec/10_serial_aes_ports.md. -/
def regRows10_0 : List RegRow := [
  ⟨"PORT_CFG", 0x36000, 0x400, 8, 0x0, 1, 0x0, 0x7FFF, 0x0, 0x0, 0x0, 0x0⟩,
  ⟨"PORT_SEQ", 0x36004, 0x400, 8, 0x0, 1, 0xFFFFFFFF, 0x0, 0x0, 0x0, 0x0, 0x400040⟩,
  ⟨"PORT_STAT", 0x36008, 0x400, 8, 0x0, 1, 0x0, 0x0, 0x0, 0x0, 0x0, 0x0⟩,
  ⟨"PORT_ERR_STAT", 0x3600C, 0x400, 8, 0x0, 1, 0x0, 0x0, 0x0, 0x3F, 0x0, 0x0⟩,
  ⟨"PORT_SPALL_COUNT", 0x36010, 0x400, 8, 0x0, 1, 0x0, 0x0, 0x0, 0x0, 0x0, 0x0⟩,
  ⟨"PORT_RATE_MEAS", 0x36014, 0x400, 8, 0x0, 1, 0x0, 0x0, 0x0, 0x0, 0x0, 0x0⟩,
  ⟨"PORT_TWIN_COUNT", 0x36018, 0x400, 8, 0x0, 1, 0x0, 0x0, 0x0, 0x0, 0x0, 0x0⟩,
  ⟨"PORT_MASK_m", 0x36020, 0x400, 8, 0x4, 4, 0x0, 0x0, 0x0, 0x0, 0x0, 0x0⟩,
  ⟨"AES_CFG", 0x38000, 0x400, 4, 0x0, 1, 0x0, 0x3F, 0x0, 0x0, 0x0, 0x24⟩,
  ⟨"AES_STAT", 0x38004, 0x400, 4, 0x0, 1, 0x0, 0x0, 0x0, 0x0, 0x0, 0x0⟩,
  ⟨"AES_ERR_STAT", 0x38008, 0x400, 4, 0x0, 1, 0x0, 0x0, 0x0, 0x7F, 0x0, 0x0⟩,
  ⟨"AES_ERR_COUNT", 0x3800C, 0x400, 4, 0x0, 1, 0x0, 0x0, 0x0, 0x0, 0x0, 0x0⟩,
  ⟨"AES_RATE_MEAS", 0x38010, 0x400, 4, 0x0, 1, 0x0, 0x0, 0x0, 0x0, 0x0, 0x0⟩,
  ⟨"ASRC_CAP", 0x39000, 0x0, 1, 0x0, 1, 0x0, 0x0, 0x0, 0x0, 0x0, 0x100⟩,
  ⟨"ASRC_USE", 0x39004, 0x0, 1, 0x0, 1, 0x0, 0x0, 0x0, 0x0, 0x0, 0x0⟩]

/-- Registers of spec/11_power_stage.md. -/
def regRows11_0 : List RegRow := [
  ⟨"PS_FSW_STAT", 0x3A000, 0x0, 1, 0x0, 1, 0x0, 0x0, 0x0, 0x0, 0x0, 0xFFFF000A⟩,
  ⟨"PS_BOOST_CFG", 0x3A004, 0x0, 1, 0x0, 1, 0xFF1F, 0x0, 0x0, 0x0, 0x0, 0x3208⟩,
  ⟨"PS_RAIL_MAX", 0x3A008, 0x0, 1, 0x0, 1, 0x0, 0x0, 0xFFFF, 0x0, 0x0, 0x6E6E⟩,
  ⟨"PS_SUPPLY", 0x3A00C, 0x0, 1, 0x0, 1, 0x0, 0x0, 0x0, 0x0, 0x0, 0x0⟩,
  ⟨"PS_AVAIL", 0x3A010, 0x0, 1, 0x0, 1, 0x0, 0x0, 0x0, 0x0, 0x0, 0x0⟩,
  ⟨"PS_RAIL_g", 0x3A014, 0x4, 2, 0x0, 1, 0x0, 0x0, 0x0, 0x0, 0x0, 0x0⟩,
  ⟨"PS_ERR_STAT", 0x3A01C, 0x0, 1, 0x0, 1, 0x0, 0x0, 0x0, 0x3FF, 0x0, 0x0⟩,
  ⟨"PS_CLIP_COUNT", 0x3A020, 0x0, 1, 0x0, 1, 0x0, 0x0, 0x0, 0x0, 0x0, 0x0⟩,
  ⟨"PS_INVALID_COUNT", 0x3A024, 0x0, 1, 0x0, 1, 0x0, 0x0, 0x0, 0x0, 0x0, 0x0⟩,
  ⟨"PS_PFREQ_k", 0x3A040, 0x4, 16, 0x0, 1, 0x8000FFFF, 0x0, 0x0, 0x0, 0x0, 0x0⟩,
  ⟨"PS_CH_CFG_c", 0x3A100, 0x40, 8, 0x0, 1, 0x3F0F7F, 0x0, 0x0, 0x0, 0x0, 0x140064⟩,
  ⟨"PS_CH_THERM_c", 0x3A104, 0x40, 8, 0x0, 1, 0xFFFFFF, 0x0, 0x0, 0x0, 0x0, 0x0⟩,
  ⟨"PS_CH_LIM_c", 0x3A108, 0x40, 8, 0x0, 1, 0x0, 0x0, 0xFF0FFFFF, 0x0, 0x0, 0xB403E832⟩,
  ⟨"PS_CH_STAT_c", 0x3A10C, 0x40, 8, 0x0, 1, 0x0, 0x0, 0x0, 0x0, 0x0, 0x0⟩,
  ⟨"PS_CH_POWER_c", 0x3A110, 0x40, 8, 0x0, 1, 0x0, 0x0, 0x0, 0x0, 0x0, 0x0⟩,
  ⟨"PS_CH_RE_c", 0x3A114, 0x40, 8, 0x0, 1, 0x0, 0x0, 0x0, 0x0, 0x0, 0x0⟩]

/-- Registers of spec/11_power_stage.md. -/
def regRows11_1 : List RegRow := [
  ⟨"PS_CH_BUDGET_c", 0x3A118, 0x40, 8, 0x0, 1, 0x0, 0x0, 0x0, 0x0, 0x0, 0x4E2⟩,
  ⟨"PS_CH_ILIM_COUNT_c", 0x3A11C, 0x40, 8, 0x0, 1, 0x0, 0x0, 0x0, 0x0, 0x0, 0x0⟩]

/-- Every register of BAR0 but SUMP_CFG_s, whose codes and reset depend on the source (R475). -/
def regRows : List RegRow :=
  regRows18_0 ++
  regRows18_1 ++
  regRows08_0 ++
  regRows08_1 ++
  regRows09_0 ++
  regRows09_1 ++
  regRows12_0 ++
  regRows12_1 ++
  regRows13_0 ++
  regRows13_1 ++
  regRows15_0 ++
  regRows15_1 ++
  regRows14_0 ++
  regRows16_0 ++
  regRows02_0 ++
  regRows03_0 ++
  regRows05_0 ++
  regRows06_0 ++
  regRows07_0 ++
  regRows10_0 ++
  regRows11_0 ++
  regRows11_1

/-- A fault source (R451, R498): ID, name, number of instances, default severity, QUIET in units of 10 ms, LIMIT, WINDOW in
seconds, and whether its severity is protected. -/
structure SumpSource where
  id : Nat
  name : String
  instances : Nat
  severity : Nat
  quiet : Nat
  limit : Nat
  window : Nat
  safety : Bool
  deriving DecidableEq, Repr

def sumpSources_0 : List SumpSource := [
  ⟨0x00, "BOOT_FALLBACK", 2, 2, 0, 0, 0, false⟩,
  ⟨0x01, "CFG_COPY_BAD", 2, 2, 0, 0, 0, false⟩,
  ⟨0x02, "RESET_WATCHDOG", 1, 2, 0, 0, 0, false⟩,
  ⟨0x03, "RESET_BROWNOUT", 1, 2, 0, 0, 0, false⟩,
  ⟨0x04, "FLASH_FAIL", 1, 2, 0, 0, 0, false⟩,
  ⟨0x10, "REF_WARN", 8, 1, 100, 0, 0, false⟩,
  ⟨0x11, "REF_DRIFT", 8, 2, 1000, 0, 0, false⟩,
  ⟨0x12, "REF_SUSPECT", 8, 2, 1000, 0, 0, false⟩,
  ⟨0x13, "REF_HOLDOVER", 1, 2, 100, 0, 0, false⟩,
  ⟨0x14, "ANCHOR_LOST", 1, 2, 100, 0, 0, false⟩,
  ⟨0x15, "TIME_FAR", 1, 2, 100, 0, 0, false⟩,
  ⟨0x16, "PLL_UNLOCK", 6, 3, 100, 5, 600, false⟩,
  ⟨0x17, "PLL_BAND_MISS", 6, 3, 100, 0, 0, false⟩,
  ⟨0x18, "DLL_SLIP", 12, 2, 100, 0, 0, false⟩,
  ⟨0x20, "HOST_BUS_ERR", 1, 2, 0, 0, 0, false⟩,
  ⟨0x21, "DMA_BUS_ERR", 1, 2, 0, 0, 0, false⟩,
  ⟨0x22, "TUNNEL_LOST", 1, 2, 100, 0, 0, false⟩,
  ⟨0x23, "MTX_DECERR", 1, 1, 0, 0, 0, false⟩,
  ⟨0x24, "MTX_DENY", 1, 2, 0, 0, 0, true⟩,
  ⟨0x25, "MTX_SLVERR", 1, 2, 0, 0, 0, false⟩]

def sumpSources_1 : List SumpSource := [
  ⟨0x30, "PROT_REFUSED", 4, 2, 0, 0, 0, true⟩,
  ⟨0x32, "AGE_MARGIN_LOW", 6, 2, 100, 0, 0, false⟩,
  ⟨0x33, "AGE_VDD_LIMIT", 1, 2, 100, 0, 0, false⟩,
  ⟨0x34, "MB_STUCK", 2, 2, 100, 0, 0, false⟩,
  ⟨0x40, "ROUTER_SAT", 1, 1, 0, 0, 0, false⟩,
  ⟨0x50, "TILE_OVERRUN", 16, 3, 100, 0, 0, false⟩,
  ⟨0x51, "TILE_PARITY", 16, 4, 100, 0, 0, false⟩,
  ⟨0x52, "TILE_SAT", 16, 1, 0, 0, 0, false⟩,
  ⟨0x53, "TILE_ACC_WRAP", 16, 1, 0, 0, 0, false⟩,
  ⟨0x60, "DRAM_UE", 66, 2, 0, 0, 0, false⟩,
  ⟨0x70, "LINK_DOWN", 16, 2, 100, 0, 0, false⟩,
  ⟨0x71, "LINK_TRAIN_FAIL", 16, 1, 0, 0, 0, false⟩,
  ⟨0x72, "LINK_MISMATCH", 16, 2, 100, 0, 0, false⟩,
  ⟨0x73, "LINK_BER", 16, 4, 1000, 3, 3600, false⟩,
  ⟨0x74, "CELL_OVERFLOW", 16, 1, 0, 0, 0, false⟩,
  ⟨0x75, "NODE_ID_DUP", 1, 2, 100, 0, 0, false⟩,
  ⟨0x80, "PAIR_DIVERGE", 1, 2, 100, 0, 0, false⟩,
  ⟨0x81, "PAIR_LOST", 1, 2, 100, 0, 0, false⟩,
  ⟨0x82, "GLOBAL_LATE", 1, 2, 0, 0, 0, false⟩,
  ⟨0x83, "GLOBAL_OVERFLOW", 1, 2, 0, 0, 0, false⟩]

def sumpSources_2 : List SumpSource := [
  ⟨0x90, "ETH_LINK_DOWN", 4, 2, 100, 0, 0, false⟩,
  ⟨0x91, "ETH_PAUSE_STUCK", 4, 2, 100, 0, 0, false⟩,
  ⟨0x92, "AOIP_RX_LOSS", 256, 2, 100, 0, 0, false⟩,
  ⟨0xA0, "PORT_CLK_LOST", 12, 2, 100, 0, 0, false⟩,
  ⟨0xA1, "PORT_RESYNC", 12, 2, 100, 0, 0, false⟩,
  ⟨0xA2, "PORT_RATE", 12, 2, 100, 0, 0, false⟩,
  ⟨0xA3, "AES_CS_CRC", 4, 1, 0, 0, 0, false⟩,
  ⟨0xB0, "PS_SHORT", 8, 4, 100, 5, 60, true⟩,
  ⟨0xB1, "PS_DC", 8, 4, 100, 5, 60, true⟩,
  ⟨0xB2, "PS_DIE_TEMP", 8, 4, 100, 3, 600, true⟩,
  ⟨0xB3, "PS_RAIL_OV", 2, 2, 100, 0, 0, true⟩,
  ⟨0xB4, "PS_PVIN_LOW", 1, 2, 100, 0, 0, true⟩,
  ⟨0xB5, "PS_RAIL_SAG", 2, 1, 100, 0, 0, true⟩,
  ⟨0xB6, "PS_VC_TEMP", 8, 2, 1000, 0, 0, true⟩,
  ⟨0xB7, "PS_OPEN_LOAD", 8, 2, 1000, 0, 0, true⟩,
  ⟨0xB8, "PS_CLIP", 1, 1, 0, 0, 0, true⟩,
  ⟨0xB9, "PS_INVALID_IN", 1, 1, 0, 0, 0, true⟩]

/-- Every fault source of R451 and R498. -/
def sumpSources : List SumpSource := sumpSources_0 ++ sumpSources_1 ++ sumpSources_2

/-- BOOT_FALLBACK (R498). -/
def Src.bootFallback : Nat := 0x00
/-- CFG_COPY_BAD (R498). -/
def Src.cfgCopyBad : Nat := 0x01
/-- RESET_WATCHDOG (R498). -/
def Src.resetWatchdog : Nat := 0x02
/-- RESET_BROWNOUT (R498). -/
def Src.resetBrownout : Nat := 0x03
/-- FLASH_FAIL (R498). -/
def Src.flashFail : Nat := 0x04
/-- REF_WARN (R451). -/
def Src.refWarn : Nat := 0x10
/-- REF_DRIFT (R451). -/
def Src.refDrift : Nat := 0x11
/-- REF_SUSPECT (R451). -/
def Src.refSuspect : Nat := 0x12
/-- REF_HOLDOVER (R451). -/
def Src.refHoldover : Nat := 0x13
/-- ANCHOR_LOST (R451). -/
def Src.anchorLost : Nat := 0x14
/-- TIME_FAR (R451). -/
def Src.timeFar : Nat := 0x15
/-- PLL_UNLOCK (R451). -/
def Src.pllUnlock : Nat := 0x16
/-- PLL_BAND_MISS (R451). -/
def Src.pllBandMiss : Nat := 0x17
/-- DLL_SLIP (R451). -/
def Src.dllSlip : Nat := 0x18
/-- HOST_BUS_ERR (R451). -/
def Src.hostBusErr : Nat := 0x20
/-- DMA_BUS_ERR (R451). -/
def Src.dmaBusErr : Nat := 0x21
/-- TUNNEL_LOST (R451). -/
def Src.tunnelLost : Nat := 0x22
/-- MTX_DECERR (R451). -/
def Src.mtxDecerr : Nat := 0x23
/-- MTX_DENY (R451). -/
def Src.mtxDeny : Nat := 0x24
/-- MTX_SLVERR (R451). -/
def Src.mtxSlverr : Nat := 0x25
/-- PROT_REFUSED (R451). -/
def Src.protRefused : Nat := 0x30
/-- AGE_MARGIN_LOW (R451). -/
def Src.ageMarginLow : Nat := 0x32
/-- AGE_VDD_LIMIT (R451). -/
def Src.ageVddLimit : Nat := 0x33
/-- MB_STUCK (R451). -/
def Src.mbStuck : Nat := 0x34
/-- ROUTER_SAT (R451). -/
def Src.routerSat : Nat := 0x40
/-- TILE_OVERRUN (R451). -/
def Src.tileOverrun : Nat := 0x50
/-- TILE_PARITY (R451). -/
def Src.tileParity : Nat := 0x51
/-- TILE_SAT (R451). -/
def Src.tileSat : Nat := 0x52
/-- TILE_ACC_WRAP (R451). -/
def Src.tileAccWrap : Nat := 0x53
/-- DRAM_UE (R451). -/
def Src.dramUe : Nat := 0x60
/-- LINK_DOWN (R451). -/
def Src.linkDown : Nat := 0x70
/-- LINK_TRAIN_FAIL (R451). -/
def Src.linkTrainFail : Nat := 0x71
/-- LINK_MISMATCH (R451). -/
def Src.linkMismatch : Nat := 0x72
/-- LINK_BER (R451). -/
def Src.linkBer : Nat := 0x73
/-- CELL_OVERFLOW (R451). -/
def Src.cellOverflow : Nat := 0x74
/-- NODE_ID_DUP (R451). -/
def Src.nodeIdDup : Nat := 0x75
/-- PAIR_DIVERGE (R451). -/
def Src.pairDiverge : Nat := 0x80
/-- PAIR_LOST (R451). -/
def Src.pairLost : Nat := 0x81
/-- GLOBAL_LATE (R451). -/
def Src.globalLate : Nat := 0x82
/-- GLOBAL_OVERFLOW (R451). -/
def Src.globalOverflow : Nat := 0x83
/-- ETH_LINK_DOWN (R451). -/
def Src.ethLinkDown : Nat := 0x90
/-- ETH_PAUSE_STUCK (R451). -/
def Src.ethPauseStuck : Nat := 0x91
/-- AOIP_RX_LOSS (R451). -/
def Src.aoipRxLoss : Nat := 0x92
/-- PORT_CLK_LOST (R451). -/
def Src.portClkLost : Nat := 0xA0
/-- PORT_RESYNC (R451). -/
def Src.portResync : Nat := 0xA1
/-- PORT_RATE (R451). -/
def Src.portRate : Nat := 0xA2
/-- AES_CS_CRC (R451). -/
def Src.aesCsCrc : Nat := 0xA3
/-- PS_SHORT (R451). -/
def Src.psShort : Nat := 0xB0
/-- PS_DC (R451). -/
def Src.psDc : Nat := 0xB1
/-- PS_DIE_TEMP (R451). -/
def Src.psDieTemp : Nat := 0xB2
/-- PS_RAIL_OV (R451). -/
def Src.psRailOv : Nat := 0xB3
/-- PS_PVIN_LOW (R451). -/
def Src.psPvinLow : Nat := 0xB4
/-- PS_RAIL_SAG (R451). -/
def Src.psRailSag : Nat := 0xB5
/-- PS_VC_TEMP (R451). -/
def Src.psVcTemp : Nat := 0xB6
/-- PS_OPEN_LOAD (R451). -/
def Src.psOpenLoad : Nat := 0xB7
/-- PS_CLIP (R451). -/
def Src.psClip : Nat := 0xB8
/-- PS_INVALID_IN (R451). -/
def Src.psInvalidIn : Nat := 0xB9

end Sys2Proof.Machine
end

