-- ==== Sys2Proof/Machine/MbState.lean ====
section
/-!
DEFINITION. The state of the two-wire buses (chapter "Two-Wire Management Buses").
-/
namespace Sys2Proof.Machine

/-- A command that waits on a bus (R431): an MB_XFER with the REF time of its acceptance, or an MB_RESET. -/
inductive MbCmd where
  | xfer (t : Ticket) (a : MbXferArgs) (since : Nat)
  | reset (t : Ticket)
  deriving DecidableEq, Repr

/-- Where a controller transaction stands: waiting for the bus to be free for its next attempt (R432), waiting 1.2 ms after an
address NACK (R431), or on the bus until another event ends it. -/
inductive MbPhase where
  | waitFree | nackWait | running
  deriving DecidableEq, Repr

/-- The controller transaction in progress: its command with the REF time of its acceptance, the arbitration and address retries
used, its phase. -/
structure MbCur where
  ticket : Ticket
  args : MbXferArgs
  since : Nat
  arb : Nat
  nacks : Nat
  phase : MbPhase
  deriving DecidableEq, Repr

/-- A target transaction (R434–R436): its direction, the bytes committed since the address byte, whether a byte has been
answered with NACK, and for a read the word being sent. -/
structure MbTgt where
  read : Bool
  bytes : List Byte
  nacked : Bool
  word : Word
  sent : Nat
  deriving DecidableEq, Repr

/-- Who drives MB_RST_n low: nobody, this module for a stuck bus (R443) or for MB_RESET, or another device. -/
inductive MbRst where
  | none | stuck | command (t : Ticket) | other
  deriving DecidableEq, Repr

/-- A two-wire bus: the commands that wait, the transaction in progress, the target transaction, the word pointer (R434), the
byte last sent as target, the filtered levels, whether MB_ALERT_n is low by another device, whether the bus has been free
for T_LOW cycles, whether other devices use it, whether it is stuck, MB_RST_n, the acknowledge last given to a byte (true: ACK),
the REF time of the NACK that woke the node (R437), of the last address NACK of its own transaction (R431) and of MB_RST_n being
driven low, and of its rise while the check of the bus is due (R444); and of the last request that went unserved (R438) or eighth alert read in a row (R441), while a pause follows. -/
structure MbBus where
  queue : List MbCmd
  cur : Option MbCur
  tgt : Option MbTgt
  ptr : Nat
  sent : Byte
  scl : Bool
  sda : Bool
  alertIn : Bool
  free : Bool
  others : Bool
  stuck : Bool
  rst : MbRst
  ack : Bool
  wakeNack : Option Nat
  nackAt : Nat
  rstAt : Nat
  riseAt : Option Nat
  reqPause : Option Nat
  alertPause : Option Nat
  deriving DecidableEq, Repr

def MbBus.reset : MbBus :=
  { queue := [], cur := none, tgt := none, ptr := 0, sent := 0, scl := false, sda := false, alertIn := false, free := false,
    others := false, stuck := false, rst := .none, ack := false, wakeNack := none, nackAt := 0, rstAt := 0, riseAt := none, reqPause := none, alertPause := none }

end Sys2Proof.Machine
end

