-- ==== Sys2Proof/Machine/TileState.lean ====
section
/-!
DEFINITION. The state of the 16 DSP tiles (chapters "DSP Tiles: Datapath and Number Formats" and "Spindle Programs: Tables,
Scheduling and Parameters"): register banks, memories, table pages, ramp units and the commands that act on them.
-/
namespace Sys2Proof.Machine

/-- A pointer register (R96). -/
structure Ptr where
  start : Nat
  len : Nat
  cur : Nat
  deriving DecidableEq, Repr

/-- A result on its way to where it lands (R87–R89), as it reaches the enabled lanes: vector register words by physical
register and lane, with the saturated lanes counted; accumulator values that overwrite or are added; memory words; output
words and validity marks; a pointer's parts. Keys are register × 32 + lane, accumulator × 32 + lane, word × 32 + lane. -/
inductive Land where
  | vec (vals : List (Nat × Word)) (sats : Nat)
  | accSet (vals : List (Nat × BitVec 72))
  | accAdd (vals : List (Nat × BitVec 72))
  | mem (vals : List (Nat × Word)) (sats : Nat)
  | out (vals : List (Nat × Word))
  | outValid (vals : List (Nat × Bool))
  | ptr (p : Fin 8) (x : Ptr)
  deriving DecidableEq, Repr

/-- A result in flight: the issued cycles of its bank until it lands. -/
structure Flight where
  left : Nat
  land : Land
  deriving DecidableEq, Repr

/-- A register bank (R73, R79, R114): the vector registers by physical register × 32 + lane, the accumulators by
accumulator × 32 + lane, the pointers, the window base, the next row, the repeat counters (none: inactive) and the results in
flight in issue order. -/
structure Bank where
  v : List (Nat × Word)
  a : List (Nat × BitVec 72)
  p : Vector Ptr 8
  rbase : Nat
  pc : Nat
  ctr : Vector (Option Nat) 4
  flights : List Flight
  deriving DecidableEq, Repr

/-- A table page that holds an image (R108, R112): rows other than the NOP row by page-relative index, the programs, the reload
values, the maps, CLEAR_T and CLEAR_B, the PARAM regions and the footprint as (first word, words), the count of R117. -/
structure Page where
  rows : List (Nat × BitVec 128)
  rowCount : Nat
  tickProg : Option (Nat × Nat)
  bgProg : Option (Nat × Nat)
  tReload : List Nat
  bReload : List Nat
  inMap : BitVec 256
  outMap : BitVec 256
  clearT : Bool
  clearB : Bool
  params : List (Nat × Nat)
  footprint : List (Nat × Nat)
  count : Nat
  buildId : Word
  deriving DecidableEq, Repr

/-- A word set that a ramp unit is bound to (R131): first word, STRIDE, and FORMAT Q3.29. -/
structure WordSet where
  waddr : Nat
  stride : Bool
  q29 : Bool
  deriving DecidableEq, Repr

/-- A ramp unit (R131): its binding, its gain with the running ramp (`gain.j` steps are written), and whether it writes its
target at the next writing of ramp words (R133). -/
structure RampUnit where
  bound : Option WordSet
  gain : Gain
  due : Bool
  deriving DecidableEq, Repr

/-- A TILE_LOAD in progress (R123). -/
structure TileLoad where
  ticket : Ticket
  addr : BitVec 64
  length : Nat
  deriving DecidableEq, Repr

/-- A DMEM_READ whose copy is taken at the next boundary (R130). -/
structure DmemRead where
  ticket : Ticket
  waddr : Nat
  count : Nat
  addr : BitVec 64
  deriving DecidableEq, Repr

/-- What a tick comes to in a tile, shown when it has ended (R105): the tick program's cycle count (none where a fence stopped
it or stood: the last count stays, log 146), the bank B cycles issued, the issue cycle of the last MARK row, and an overrun. -/
structure TickSum where
  count : Option Nat
  bg : Nat
  mark : Option Nat
  overran : Bool
  deriving DecidableEq, Repr

def TickSum.none : TickSum := { count := .none, bg := 0, mark := .none, overran := false }

/-- One DSP tile. `input`, `work` and `comm` are the I/O buffers by word index × 32 + lane (R74–R76); `workInvalid` and
`inInvalid` the channels flagged invalid. `handMap` names the channels that the tick in progress hands over at its end and
`handValid` those of them that are valid (R76, R120). `cutDue` says that the tick program of this tick reaches C − 1; `sum` is what the tick in progress
comes to. -/
structure Tile where
  active : Fin 2
  pages : Vector (Option Page) 2
  mem : List (Nat × Word)
  bankT : Bank
  bankB : Bank
  input : List (Nat × Word)
  inInvalid : BitVec 256
  work : List (Nat × Word)
  workInvalid : BitVec 256
  comm : List (Nat × Word)
  handMap : BitVec 256
  handValid : BitVec 256
  cutDue : Bool
  sum : TickSum
  overrunLast : Bool
  units : Vector RampUnit 64
  load : Option TileLoad
  reads : List DmemRead
  queries : List (Ticket × BitVec 64)
  deriving DecidableEq, Repr

/-- The eight limit words that a power-stage channel is bound to (R352). -/
structure LimitBind where
  tile : Fin 16
  waddr : Nat
  deriving DecidableEq, Repr

def Ptr.reset : Ptr := { start := 0, len := 0, cur := 0 }

def Bank.reset : Bank :=
  { v := [], a := [], p := Vector.replicate 8 Ptr.reset, rbase := 0, pc := 0, ctr := Vector.replicate 4 none, flights := [] }

def RampUnit.reset : RampUnit := { bound := none, gain := Gain.mute, due := false }

def Tile.reset : Tile :=
  { active := 0, pages := Vector.replicate 2 none, mem := [], bankT := Bank.reset, bankB := Bank.reset, input := [],
    inInvalid := 0, work := [], workInvalid := 0, comm := [], handMap := 0, handValid := 0, cutDue := false, sum := TickSum.none,
    overrunLast := false, units := Vector.replicate 64 RampUnit.reset, load := none, reads := [], queries := [] }

end Sys2Proof.Machine
end

