-- ==== Sys2Proof/Machine/BenchState.lean ====
section
/-!
DEFINITION. The state of the delay memory (chapter "Delay Memory and Benches"): benches with their granules, and the objects in
them.
-/
namespace Sys2Proof.Machine

/-- A bench (R136–R140): its quota in granules, its mapped granules, each with the extents that its objects occupy in it as
(handle, extents), and OVER_QUOTA. -/
structure Bench where
  quota : Nat
  granules : List (List (Nat × Nat))
  overQuota : Bool
  deriving DecidableEq, Repr

/-- A crossfade of a delay line (R148): the new delay, the law, its length in samples and the steps done. -/
structure LineFade where
  delay : Nat
  power : Bool
  n : Nat
  j : Nat
  deriving DecidableEq, Repr

/-- A change deferred behind a crossfade (R149). -/
structure LineNext where
  ticket : Ticket
  delay : Nat
  power : Bool
  ms : Nat
  deriving DecidableEq, Repr

/-- What an object is and does (R142): a delay line with its delay, its input history newest first (samples with their
validity), its crossfade and its deferred change; a clip with its position, LOOP_START, gain and state; a ring with its write
position, action (0 stopped, 1 ring, 2 one-shot), DONE and INVALID_TICKS; a snapshot. -/
inductive ObjKind where
  | line (delay : Nat) (hist : List (Sample × Bool)) (fade : Option LineFade) (next : Option LineNext)
  | clip (pos : Nat) (loop : Option Nat) (gain : Gain) (playing stopping : Bool)
  | ring (pos action : Nat) (isDone : Bool) (invalidTicks : Nat)
  | snap
  deriving DecidableEq, Repr

/-- An object: its bench, TYPE data, first channel, channels, SIZE, extents, and its stored words (R142). -/
structure BObj where
  bench : Fin 64
  kind : ObjKind
  chan : Nat
  chans : Nat
  size : Nat
  extents : Nat
  words : List (Nat × Word)
  deriving DecidableEq, Repr

/-- A BENCH_QUERY whose values are taken at the next boundary (R157). -/
structure BenchQuery where
  ticket : Ticket
  bench : Fin 64
  handle : Nat
  addr : BitVec 64
  deriving DecidableEq, Repr

/-- One item of a SNAP_TAKE (R154): ramp-unit records or data-memory words of a tile. -/
structure SnapItem where
  ramps : Bool
  tile : Fin 16
  waddr : Nat
  count : Nat
  deriving DecidableEq, Repr

/-- The delay memory: the benches by number, the objects by handle, and the waiting queries. -/
structure Benches where
  benches : List (Nat × Bench)
  objs : List (Nat × BObj)
  queries : List BenchQuery
  deriving DecidableEq, Repr

def Benches.reset : Benches := { benches := [], objs := [], queries := [] }

end Sys2Proof.Machine
end

