-- ==== Sys2Proof/Machine/FabricState.lean ====
section
/-!
DEFINITION. The state of the fabric switch: tables, drop channels, paths, pairing, port twins and global operations (chapter
"Fabric Switching, Redundancy and Global Operations"), and the concealment of lost ticks that several outputs share (R212).
-/
namespace Sys2Proof.Machine

/-- Hold, ramp and silence (R212): ticks without a usable value so far, the sample held, the last sample delivered, and a
running fade-in as (factor at step 0, steps done). -/
structure Conceal where
  bad : Nat
  held : Sample
  last : Sample
  fade : Option (Nat × Nat)
  deriving DecidableEq, Repr

/-- STATE of a switch entry (R197). -/
inductive EntryState where
  | tentative | active | releasing
  deriving DecidableEq, Repr

/-- A switch entry (R197): where it forwards, whether it drops, the path it belongs to, its state, whether it carries slots
since the last kerf (R198), the tick at which it became tentative (R204), the boundary from which a releasing entry is freed
(R207), and for a dropping entry the frames between the source's boundary and the arriving frame and the ticks from the
source's boundary to the drop (R196). -/
structure SwEntry where
  fwd : Option (Fin 16 × Nat)
  drop : Bool
  copy : Bool
  state : EntryState
  srcId : BitVec 12
  addCh : BitVec 12
  dropCh : BitVec 12
  carry : Bool
  since : Nat
  freeAt : Nat
  steps : Nat
  late : Nat
  deriving DecidableEq, Repr

/-- A path that this node originates (R200–R209): its command's fields with the node's ID of
then, whether it is being reserved, whether its activation
tick has passed, L once it is reserved, the reply body, and the tick its cell was sent. -/
structure PathRec where
  src : BitVec 12
  addCh : BitVec 12
  copy : Bool
  gen : BitVec 2
  hops : Nat
  dst : BitVec 12
  route : Word
  ticket : Ticket
  tickField : BitVec 64
  resultAddr : BitVec 64
  reserving : Bool
  live : Bool
  latency : Nat
  reply : List Byte
  sent : Nat
  deriving DecidableEq, Repr

/-- A drop channel (R210–R213): the slots its copies delivered by the source's tick, the generation G, the concealment, the
source's tick last delivered, and the drop point in ticks. -/
structure DropCh where
  a : List (Nat × Slot)
  b : List (Nat × Slot)
  gen : Option (BitVec 2)
  conceal : Conceal
  lastTick : Option Nat
  point : Nat
  deriving DecidableEq, Repr

/-- The pairing (R214–R216): partner, route, group list as (first add channel, count), the ticks from which digests are sent
and compared, own and received digests by tick, consecutive misses, the digest fields of the last cells, and whether the last
compared digest matched. -/
structure Pair where
  partner : BitVec 12
  hops : Nat
  route : BitVec 64
  groups : List (Nat × Nat)
  since : Nat
  compareFrom : Nat
  own : List (Nat × List Word)
  theirs : List (Nat × List (Nat × Word))
  misses : Nat
  matched : Bool
  lastCell : Nat
  deriving DecidableEq, Repr

/-- A port-twin port (R219): role 0 none, 1 primary, 2 standby, and whether it drives the data-out lanes. -/
structure Twin where
  role : Nat
  driving : Bool
  deriving DecidableEq, Repr

/-- What a node reports of a global operation (R225): executed, late, refused, lost. -/
structure Totals where
  executed : Nat
  late : Nat
  refused : Nat
  lost : Nat
  deriving DecidableEq, Repr

/-- A pending global operation at this node (R221–R225): its originator and number, its place in the order of acceptance (R18),
its fields, the link to the parent (none at the originator), the children and those that have reported, the totals so far,
whether this node is to execute it, whether its snapshot data is still being written, whether its own report is ready, and at
the originator the command. -/
structure GlobalOp where
  orig : BitVec 12
  opNo : BitVec 16
  order : Nat
  kind : Nat
  tick : Nat
  groups : Word
  arg : List Byte
  parent : Option (Fin 16)
  children : List (Fin 16)
  reported : List (Fin 16)
  totals : Totals
  execs : Bool
  writing : Bool
  ready : Bool
  command : Option (Ticket × BitVec 64)
  deriving DecidableEq, Repr

/-- The fabric switch: the incoming tables keyed link × 16,384 + slot and the add table keyed add channel × 2 + copy, the paths
this node originates, its drop channels, the slots waiting to be sent keyed (tick × 16 + link) × 16,384 + slot, the GEN last
sent by add channel × 2 + copy and the add channels whose next slot carries NEWGEN, the pairing, the port twins, the global
operations with the armed snapshot sets, whether a timed action completed with OK_LATE since the last BARRIER, and the tick of the warm reset that follows a GLOBAL_RESET. -/
structure Fabric where
  incoming : List (Nat × SwEntry)
  add : List (Nat × SwEntry)
  paths : List PathRec
  drops : List (Nat × DropCh)
  out : List (Nat × Slot)
  lastGen : List (Nat × BitVec 2)
  newGen : List Nat
  pair : Option Pair
  twins : Vector Twin 8
  ops : List GlobalOp
  opNo : BitVec 16
  armed : Vector (Option (Nat × List SnapItem)) 4
  lateSinceBarrier : Bool
  resetAt : Option Nat
  deriving DecidableEq, Repr

def Conceal.reset : Conceal := { bad := 0, held := 0, last := 0, fade := none }

def Fabric.reset : Fabric :=
  { incoming := [], add := [], paths := [], drops := [], out := [], lastGen := [], newGen := [], pair := none,
    twins := Vector.replicate 8 { role := 0, driving := false }, ops := [], opNo := 0, armed := Vector.replicate 4 none,
    lateSinceBarrier := false, resetAt := none }

end Sys2Proof.Machine
end

