-- ==== Sys2Proof/Machine/ClockState.lean ====
section
/-!
DEFINITION. The state of references, holdover, fabric time and clock synthesis (chapter "References, Holdover and Clock
Synthesis").
-/
namespace Sys2Proof.Machine

/-- REF_STAT_n.STATE (R234). -/
inductive CandState where
  | disabled | absent | qualifying | waitRestore | qualified
  deriving DecidableEq, Repr

/-- A reference candidate (R229–R234): its state and flags, the seconds left, whether it has been QUALIFIED since the last warm
reset, its offsets in 0.1 ppb and the last eight of them (newest first), its drift rate in 0.01 ppb/s. -/
structure Cand where
  state : CandState
  suspect : Bool
  warn : Bool
  drift : Bool
  left : Nat
  everQualified : Bool
  ofsLocal : Int
  ofsOutput : Int
  driftRate : Int
  history : List Int
  deriving DecidableEq, Repr

/-- An anchor entry (R246). -/
structure AnchorEntry where
  priority : Byte
  hops : Byte
  timeErr : BitVec 16
  id : BitVec 12
  cls : BitVec 4
  beat : Byte
  gen : Byte
  deriving DecidableEq, Repr

/-- What a link knows of fabric time (R244, R245): θ and d in quarter picoseconds, the partner's flags, the entries of its last TIME_SYNC
and the tick in which it arrived. -/
structure LinkTime where
  theta : Int
  delay : Int
  flags : Byte
  anchor : Option AnchorEntry
  standby : Option AnchorEntry
  at_ : Nat
  deriving DecidableEq, Repr

/-- DPLL_STATE (R262). -/
inductive DpllState where
  | freerun | locked | slew | holdover | tracking
  deriving DecidableEq, Repr

/-- A PLL (R249–R252): locked, and the band code in use. -/
structure Pll where
  locked : Bool
  band : Nat
  deriving DecidableEq, Repr

/-- A pulse output (R254–R256): the FUNCTION and OFFSET_NS it runs with (function 0: off), its divider's count of MEDIA cycles at
the last tick boundary, and the level that a PULSE_ALIGN makes it hold, with the MEDIA cycles after the boundary for which it
still holds it. -/
structure Pulse where
  running : Nat
  offset : Int
  count : Nat
  held : Option (Bool × Nat)
  deriving DecidableEq, Repr

/-- An output that is off. -/
def Pulse.reset : Pulse := { running := 0, offset := 0, count := 0, held := none }

/-- References, DPLL, holdover, anchor view, PLLs and pulse outputs. `fcw` is the MEDIA PLL's frequency control word; `integ` and
`corr` the loop's frequency integrator and phase correction in units of 10^−21, `accum` the accumulated correction in that unit
times 10 µs, `sinceUs` the time since the loop's last step, `fabNew` whether a newer anchor beat has come on the upstream link
since (R237, R248); `selFab` whether the node follows FAB, `judged` whether the selector has chosen since the reset (R262);
`tc` the learned temperature coefficient in 10^−15 per mK, `temp` the oscillator temperature in mK, `refHist` the reference's
offset in 0.1 ppb and the temperature of the last 62 s, newest first, `holdSince` the refTime of the entry into holdover (R242,
R243); `timeSet` whether TIME_SET has given node time a value (R241); `onFab` whether the tiles run from the FAB VCO ÷ 4 (R473);
`lowUs` the time in µs for which |e| has stayed below 100 ns; `learnSecs` the seconds of learning (R243); `refSecs` the seconds
of reference history of the selected candidate (R242); `lost` the entry of the anchor last declared lost (R248);
`betterSince` the refTime since which the own claim ranks better than the
anchor's (R247); `timeErr` the estimated time error in ns; `nodeUnits` node time at the last tick boundary in the unit of
refTime. -/
structure Clock where
  cands : Vector Cand 8
  selected : Option (Fin 8)
  forced : Option (Fin 8)
  dpll : DpllState
  error : Int
  lowUs : Nat
  timeFar : Bool
  fcw : Nat
  integ : Int
  corr : Int
  accum : Int
  sinceUs : Nat
  fabNew : Bool
  selFab : Bool
  judged : Bool
  tc : Int
  temp : Int
  refHist : List (Int × Int)
  holdSince : Nat
  timeSet : Bool
  onFab : Bool
  refSecs : Nat
  learnSecs : Nat
  ageing : BitVec 16
  ofLink : Vector (Option LinkTime) 16
  upstream : Option (Fin 16)
  anchor : Option AnchorEntry
  standby : Option AnchorEntry
  isAnchor : Bool
  isStandby : Bool
  gen : Byte
  beatTick : Nat
  beatLag : Nat
  betterSince : Option Nat
  lost : Option AnchorEntry
  timeErr : BitVec 16
  nodeUnits : Nat
  plls : Vector Pll 6
  measuring : Option Nat
  pulses : Vector Pulse 2
  queries : List (Ticket × BitVec 64)
  deriving DecidableEq, Repr

def Cand.reset : Cand :=
  { state := .disabled, suspect := false, warn := false, drift := false, left := 0, everQualified := false, ofsLocal := 0,
    ofsOutput := 0, driftRate := 0, history := [] }

def Clock.reset : Clock :=
  { cands := Vector.replicate 8 Cand.reset, selected := none, forced := none, dpll := .freerun, error := 0, lowUs := 0,
    timeFar := false, fcw := 0, integ := 0, corr := 0, accum := 0, sinceUs := 0, fabNew := false, selFab := false,
    judged := false, tc := 0, temp := 0, refHist := [], holdSince := 0, timeSet := false, onFab := false, refSecs := 0, learnSecs := 0, ageing := 0, ofLink := Vector.replicate 16 none,
    upstream := none, anchor := none, standby := none, isAnchor := false, isStandby := false, gen := 0, beatTick := 0,
    beatLag := 1, betterSince := none, lost := none, timeErr := 0xFFFF, nodeUnits := 0, plls := Vector.replicate 6 { locked := false, band := 0 },
    measuring := none, pulses := Vector.replicate 2 Pulse.reset, queries := [] }

end Sys2Proof.Machine
end

