-- ==== Sys2Proof/Machine/NetState.lean ====
section
/-!
DEFINITION. The state of the Ethernet ports, of the AoIP engine, of the time comparators and of the capture units (chapter
"Ethernet Ports, Network Time and Audio-over-IP Streams"). Times are counted in 2^−16 ns of node time.
-/
namespace Sys2Proof.Machine

/-- A frame that waits in a receive queue (R268), with its timestamp if its filter asks for one (R267). -/
structure RxFrame where
  queue : Fin 16
  bytes : List Byte
  time : Option Nat
  deriving DecidableEq, Repr

/-- A time in a PTP message (R273): secondsField, nanosecondsField and correctionField in 2^−16 ns. -/
structure PtpTime where
  seconds : BitVec 48
  nanos : Word
  correction : BitVec 64
  deriving DecidableEq, Repr

/-- What carries a PTP message of this node's own (R277): its transport with the destination and source addresses and TTL, its
802.1Q tag (PCP and VID) if any, its domain and its logMessageInterval. -/
structure PtpHead where
  l2 : Bool
  dstMac : BitVec 48
  dstIp : Word
  srcIp : Word
  ttl : Byte
  tag : Option (BitVec 15)
  domain : Byte
  interval : Int
  deriving DecidableEq, Repr

/-- What a PTP message that this node sends says (R274, R276, R278). A Sync carries the instant at which it leaves, a forwarded
message its ingress timestamp. -/
inductive PtpOut where
  | sync (origin : Option PtpTime)
  | delayReq (sequence : BitVec 16)
  | delayResp (requester : BitVec 80) (sequence : BitVec 16) (receive : PtpTime)
  | announce (clockClass accuracy variance timeSource priority1 priority2 : Nat) (identity : BitVec 64)
  | forwarded (m : PtpMsg) (ingress : Nat)
  deriving DecidableEq, Repr

/-- The addresses and header fields of a transmit stream's packet (R297, R299). -/
structure RtpHead where
  dstMac : BitVec 48
  srcMac : BitVec 48
  tag : Option (BitVec 15)
  dstIp : Word
  srcIp : Word
  ttl : Byte
  dscp : BitVec 6
  udpPort : BitVec 16
  pt : BitVec 7
  ssrc : Word
  deriving DecidableEq, Repr

/-- An RTP packet of a transmit stream on its way out of a port (R296): the boundary at which it was queued, its leg, and its
header fields and payload. -/
structure AoipOut where
  stream : Nat
  legB : Bool
  due : Nat
  head : RtpHead
  seq : BitVec 16
  ts : Nat
  payload : List Byte
  deriving DecidableEq, Repr

/-- A frame sent or to be sent by a port. -/
inductive TxFrame where
  | pause (time : BitVec 16)
  | ptp (h : Option PtpHead) (m : PtpOut)
  | igmp (group source : Word) (join : Bool)
  | aoip (p : AoipOut)
  deriving DecidableEq, Repr

/-- An Ethernet port: its link, the symmetric pause that Clause 37 resolved, whether it is paused with the REF times since which it
has been so without interruption (R271) and at which the received pause ends (R270), whether a PAUSE is in force toward the partner
with the REF time at which the last one was sent (R269), the frames in its receive buffer,
the frames that wait for transmission and those sent in the tick in progress, and its PTP instance: its state, the timestamps of the
last PTP message received and sent (R272), the master's time in the last Sync or Follow_Up (R273), and in REF time the last
Announce or start of listening and the last Delay_Req, with the next sequence number (R276). `pauseUntil` is the node time at
which the last PAUSE toward the partner lapses (R269). -/
structure EthPort where
  up : Bool
  blockLock : Bool
  fecLock : Bool
  anDone : Bool
  anPause : Bool
  paused : Bool
  pauseSince : Nat
  pauseEnds : Nat
  pausing : Bool
  pauseSent : Nat
  rx : List RxFrame
  tx : List TxFrame
  sent : List TxFrame
  ptpState : BitVec 4
  arb : Bool
  utc : BitVec 16
  rxTime : Option Nat
  txTime : Option Nat
  masterTime : Option Int
  announceAt : Nat
  delayReqAt : Option Nat
  reqSeq : BitVec 16
  pauseUntil : Nat
  deriving DecidableEq, Repr

/-- One sample position of a receive ring (R287): its RTP timestamp, the channels' samples, and for AM824 their label bytes. -/
structure RtpSample where
  ts : Nat
  data : List Sample
  labels : List Byte
  deriving DecidableEq, Repr

/-- The channel status of an AM824 channel pair (R295): the bits collected since the block start, if any, and the last complete
block. -/
structure CsPair where
  bits : Option (List Bool)
  block : List Byte
  deriving DecidableEq, Repr

/-- A receive stream (R284–R294): its setting, its ring by RTP timestamp modulo R, its counters, the last sequence number and
the gaps whose handover boundary has not come, the concealment of each channel, the time of its last missing sample, and the
channel status of its pairs. -/
structure AoipRx where
  on : Bool
  cfg : AoipRxArgs
  ring : List (Nat × RtpSample)
  packets : Nat
  lost : Nat
  late : Nat
  early : Nat
  dup : Nat
  marginMin : Option Nat
  rtpLast : Nat
  lastSeq : Option (BitVec 16)
  gaps : List (BitVec 16 × Nat)
  conceal : List Conceal
  lastMissing : Option Nat
  cs : List (Nat × CsPair)
  deriving DecidableEq, Repr

/-- A transmit stream (R295, R296): its setting, next sequence number, counters, the positions gathered for the packet in
progress (none until a packet start), the samples sent since it was enabled, and the channel-status blocks in use and waiting
for a block start at or after a sample position, as (pair, position, block). -/
structure AoipTx where
  on : Bool
  cfg : AoipTxArgs
  seq : BitVec 16
  sent : Nat
  late : Nat
  rtpLast : Nat
  buf : Option (List (List (Sample × Bool)))
  count : Nat
  cs : List (Nat × List Byte)
  csNext : List (Nat × Nat × List Byte)
  deriving DecidableEq, Repr

/-- A time comparator (R279, R280): its action and argument, its next fire time, and its period (0: one shot). -/
structure Comparator where
  action : Nat
  arg : Nat
  report : Bool
  pulse : Nat
  period : Nat
  next : Option Nat
  deriving DecidableEq, Repr

/-- An EVT pin as an output (R279): its level, the end of a pulse in progress, and the time and unit of the last drive. -/
structure EvtPin where
  high : Bool
  fall : Option Nat
  last : Option (Nat × Nat)
  deriving DecidableEq, Repr

/-- A capture unit (R281): its latest capture and the captures taken. -/
structure Capture where
  time : Option Nat
  count : Nat
  deriving DecidableEq, Repr

/-- An AOIP_QUERY that waits for a boundary (R300). -/
structure AoipQuery where
  ticket : Ticket
  tx : Bool
  stream : Fin 256
  pair : Nat
  addr : BitVec 64
  deriving DecidableEq, Repr

/-- Ethernet, AoIP, comparators and captures. Streams at their reset value are not listed. -/
structure Net where
  eth : Vector EthPort 4
  rx : List (Nat × AoipRx)
  tx : List (Nat × AoipTx)
  queries : List AoipQuery
  cmps : Vector Comparator 32
  evt : Vector EvtPin 4
  caps : Vector Capture 16
  deriving DecidableEq, Repr

def EthPort.reset : EthPort :=
  { up := false, blockLock := false, fecLock := false, anDone := false, anPause := false, paused := false,
    pauseSince := 0, pauseEnds := 0, pausing := false, pauseSent := 0, rx := [], tx := [], sent := [], ptpState := 1, arb := false, utc := 0, rxTime := none, txTime := none, masterTime := none,
    announceAt := 0, delayReqAt := none, reqSeq := 0, pauseUntil := 0 }

def Comparator.off : Comparator := { action := 0, arg := 0, report := false, pulse := 0, period := 0, next := none }

def Net.reset : Net :=
  { eth := Vector.replicate 4 EthPort.reset, rx := [], tx := [], queries := [],
    cmps := Vector.replicate 32 Comparator.off,
    evt := Vector.replicate 4 { high := false, fall := none, last := none },
    caps := Vector.replicate 16 { time := none, count := 0 } }

end Sys2Proof.Machine
end

