-- ==== Sys2Proof/Machine/PortState.lean ====
section
/-!
DEFINITION. The state of the serial audio ports, the AES3 transceivers and the ASRC (chapter "Serial Audio and AES3 Ports").
Ports 0–7 are PORT_0 to PORT_7, ports 8–11 are AES_0 to AES_3.
-/
namespace Sys2Proof.Machine

/-- The port states (R328). -/
inductive PortRun where
  | stopped | starting | running | fault | stopping | armed
  deriving DecidableEq, Repr

/-- A commit of slot masks (R312): the output and the input position from which the new masks apply. -/
structure MaskCommit where
  outPos : Nat
  inPos : Nat
  masks : Vector Word 4
  deriving DecidableEq, Repr

/-- What a port received for one sample position (R318): the samples of its 64 slots (AES3: its 2 subframes; none where a
parity error spalls the subframe's sample) with their validity, or a spalled frame. -/
inductive PortIn where
  | frame (slots : List (Option Sample × Bool))
  | spall
  deriving DecidableEq, Repr

/-- A channel-status or user block of an AES3 subframe (R323, R324): received — the bits collected since the Z frame, a complete block that
waits for its check, the last good block — and transmitted: the block in use and one that waits for the next Z preamble. -/
structure AesBlock where
  bits : Option (List Bool)
  ready : Option (List Byte)
  good : Option (List Byte)
  tx : Option (List Byte)
  txNext : Option (List Byte)
  deriving DecidableEq, Repr

/-- A port. `cfg` and `seq` are PORT_CFG (AES_CFG) and PORT_SEQ as taken at its start; `startAt` is N, `dataFrom` the first tick
whose data it carries, `group` the start group it belongs to (N × 4 + trigger), `preclk` the PRECLK that counts for it; `waits` the
triggered starts accepted while it was not STOPPED, with the boundary of their fire (R315, R326); `phase` the DLL's last measurement
and `lockPhase` that at its lock, in 1/64 of a MEDIA cycle (R253); `rates` the frame rates of the last 8 frames, newest first (R317);
`postLeft` the frames still to run of POSTCLK, and `fsyncHeld` the level at which a stopped master holds FSYNC, with BCLK low
(R316). -/
structure Port where
  state : PortRun
  cfg : Word
  seq : Word
  startAt : Nat
  preclk : Nat
  group : Option Nat
  armed : Option (Ticket × Fin 4)
  fireAt : Option Nat
  waits : List (Ticket × Fin 4 × Option Nat)
  phase : Int
  lockPhase : Int
  rates : List Nat
  postLeft : Nat
  fsyncHeld : Option Bool
  dataOn : Bool
  dataFrom : Nat
  dataTick : Nat
  clkPresent : Bool
  frameAlign : Bool
  dllLock : Bool
  asrcLock : Bool
  ready : Bool
  rateFault : Bool
  rateRun : Nat
  glitches : Nat
  rate : Word
  ratio : Word
  clkLosses : Nat
  resyncs : Nat
  parityErrs : Nat
  active : Vector Word 4
  shadow : Vector Word 4
  commits : List MaskCommit
  inBuf : List (Nat × PortIn)
  conceal : List Conceal
  outFade : Option Nat
  lostOut : List Nat
  sent : List (List (Option Word))
  zCount : Nat
  cs : Vector AesBlock 2
  user : Vector AesBlock 2
  asrc : Nat
  offGrid : Bool
  deriving DecidableEq, Repr

/-- A PORT_QUERY or AES_QUERY that waits for a boundary (R328). -/
structure PortQuery where
  ticket : Ticket
  port : Fin 12
  addr : BitVec 64
  deriving DecidableEq, Repr

/-- The ports and their queries. -/
structure Ports where
  port : Vector Port 12
  queries : List PortQuery
  deriving DecidableEq, Repr

def AesBlock.reset : AesBlock := { bits := none, ready := none, good := none, tx := none, txNext := none }

def noMasks : Vector Word 4 := Vector.replicate 4 0

def Port.reset : Port :=
  { state := .stopped, cfg := 0, seq := 0, startAt := 0, preclk := 0, group := none, armed := none, fireAt := none,
    waits := [], phase := 0, lockPhase := 0, rates := [], postLeft := 0, fsyncHeld := none, dataOn := false, dataFrom := 0, dataTick := 0, clkPresent := false, frameAlign := false, dllLock := false,
    asrcLock := false, ready := false, rateFault := false, rateRun := 0, glitches := 0, rate := 0, ratio := 0,
    clkLosses := 0, resyncs := 0, parityErrs := 0, active := noMasks, shadow := noMasks, commits := [],
    inBuf := [], conceal := [], outFade := none, lostOut := [], sent := [], zCount := 0,
    cs := Vector.replicate 2 AesBlock.reset, user := Vector.replicate 2 AesBlock.reset, asrc := 0, offGrid := false }

def Ports.reset : Ports := { port := Vector.replicate 12 Port.reset, queries := [] }

end Sys2Proof.Machine
end

