-- ==== Sys2Proof/Machine/PowerState.lean ====
section
/-!
DEFINITION. The state of the loudspeaker power stage (chapter "Loudspeaker Power Stage"). Levels are in 1/65,536 dB; none is
mute.
-/
namespace Sys2Proof.Machine

/-- A gain of the gain stage (R335): the level it moves from, the level it moves to, the steps of the ramp (0: it stands at
`aim`) and the steps done. -/
structure Lev where
  from_ : Int
  aim : Option Int
  n : Nat
  j : Nat
  deriving DecidableEq, Repr

/-- The states of a channel (R363). -/
inductive PsRun where
  | stopped | starting | ramping | running | stopping | fault | latched
  deriving DecidableEq, Repr

/-- Why a channel in FAULT waits for its supply (R345, R358). -/
inductive PsPause where
  | none | railOv | pvinLow
  deriving DecidableEq, Repr

/-- A hardware mute ramp (R359): the total level at the trigger, the trigger in the unit of refTime, its switching cycles, and
the state the channel then enters. -/
structure HwMute where
  level : Option Int
  at_ : Nat
  cycles : Nat
  next : PsRun
  deriving DecidableEq, Repr

/-- The synchronous demodulation of the sensed voltage and current since the last estimate (R354): the sums of their products with
cosine and minus sine, and the samples taken. -/
structure PsDemod where
  vRe : Int
  vIm : Int
  iRe : Int
  iIm : Int
  n : Nat
  deriving DecidableEq, Repr

/-- A power-stage channel. `aimed` is the budget ramp that begins at the next boundary (R351): its target and its samples; `pilot`
the phase of the pilot tone in 1/fs of a turn; `drive` the samples of the last two ticks as they reach the interpolator (y + p of
R339); `gains` the linear budget gains of the samples of the last two ticks, the newer first; `powers` the power of each tick of the
last second, the newest first (R350); `held` is the tick delivered at the last boundary, `enter` the one that plays now, `out` what it
played in the tick that ended (y of R339); `raw` and `allowed` are M_c and A_c in mW; `retry` says that the running start is a
retry of R357, `startAt` the REF time at which it began, `retryDue` that one begins at the next boundary, `retryWait` that one waits for the junction to cool. -/
structure PsCh where
  state : PsRun
  fault : Nat
  start : Lev
  budget : Lev
  aimed : Option (Option Int × Nat)
  mute : Lev
  vfs : Nat
  watts : Nat
  attack : Nat
  release : Nat
  raw : Nat
  allowed : Nat
  re : Nat
  tvc : Int
  weak : Nat
  openLoad : Bool
  hot : Bool
  vcTemp : Bool
  retry : Bool
  retryDue : Bool
  retryWait : Bool
  pause : PsPause
  hw : Option HwMute
  startAt : Nat
  invalid : Nat
  faultTick : Nat
  lookahead : Nat
  conceal : Conceal
  held : Blk
  enter : Blk
  out : List Sample
  pilot : Nat
  drive : List Int
  gains : List (List Int)
  powers : List Int
  demod : PsDemod
  deriving DecidableEq, Repr

/-- A boost group (R343, R344): R_K in 2^−64 V, the measured rail in 0.1 V, whether its converter has been started, whether its
rail is READY, and has been since the start (R346: the converter already runs), the 3 dB steps by which a sag has lowered its budgets, whether a direct-path channel holds it at RAIL_MAX, the PVIN
power in mW that its converter may draw, and the REF times of the last boundary at which one of its channels was on (R347) and of
the last at which a direct-path channel fed it (R33). -/
structure PsGroup where
  on : Bool
  ready : Bool
  up : Bool
  target : Nat
  actual : Nat
  sag : Nat
  direct : Bool
  limit : Nat
  onAt : Nat
  directAt : Nat
  deriving DecidableEq, Repr

/-- A PS_START that waits for its channels (R346): the tick at which it took effect, and the result of each channel named, none
while it waits. -/
structure PsWait where
  ticket : Ticket
  tick : Nat
  results : List (Fin 8 × Option Nat)
  deriving DecidableEq, Repr

/-- The power stage: channels, groups, the frequency code, the measured supply, the available power in W, and the waiting
commands. -/
structure PowerStage where
  ch : Vector PsCh 8
  group : Vector PsGroup 2
  code : Nat
  pvin : BitVec 16
  tcase : BitVec 16
  sustained : Nat
  peak : Nat
  waits : List PsWait
  queries : List (Ticket × Fin 8 × BitVec 64)
  deriving DecidableEq, Repr

def Lev.steady (l : Option Int) : Lev := { from_ := 0, aim := l, n := 0, j := 0 }

def noBlk : Blk := { samples := [], valid := true, ramp := false }

def PsDemod.reset : PsDemod := { vRe := 0, vIm := 0, iRe := 0, iIm := 0, n := 0 }

def PsCh.reset : PsCh :=
  { state := .stopped, fault := 0, start := Lev.steady none, budget := Lev.steady (some 0), aimed := none,
    mute := Lev.steady (some 0), vfs := 100,
    watts := 1250, attack := 20, release := 500, raw := 0, allowed := 0, re := 0, tvc := 0, weak := 0, openLoad := false,
    hot := false, vcTemp := false, retry := false, retryDue := false, retryWait := false, pause := .none, hw := none, startAt := 0,
    invalid := 0, faultTick := 0, lookahead := 0, conceal := Conceal.reset, held := noBlk, enter := noBlk, out := [],
    pilot := 0, drive := [], gains := [], powers := [], demod := PsDemod.reset }

def PsGroup.reset : PsGroup :=
  { on := false, ready := false, up := false, target := 0, actual := 0, sag := 0, direct := false, limit := 0, onAt := 0, directAt := 0 }

def PowerStage.reset : PowerStage :=
  { ch := Vector.replicate 8 PsCh.reset, group := Vector.replicate 2 PsGroup.reset, code := 10, pvin := 0, tcase := 0,
    sustained := 0, peak := 0, waits := [], queries := [] }

end Sys2Proof.Machine
end

