-- ==== Sys2Proof/Machine/State.lean ====
section
/-!
DEFINITION. The state of the CH4096 node audio engine: every register, FIFO, buffer, counter, mode and pin the spec gives the
block, as plain data, and the queue of the commands that wait. The parts of each chapter are defined beside it.
-/
namespace Sys2Proof.Machine

/-- The effect a timed command has at its tick (R19), with the command's fields. -/
inductive Action where
  | dmaCtrl (a : DmaCtrlArgs)
  | ageDecide (a : AgeDecideArgs)
  | sleep (a : SleepArgs)
  | linkCmd (a : LinkCmdArgs)
  | routeSet (a : RouteAct)
  | gainSet (dest : BitVec 16) (input : Fin 4) (gain : Word) (ms : Nat)
  | routeClear (dest : BitVec 16) (power : Bool) (ms : Nat)
  | routeBatch (l : List RouteAct)
  | directSet (ch : Fin 64) (source dest : BitVec 16) (gain : Word) (ms : Nat)
  | testgenSet (gen : Fin 16) (a : TestgenSetArgs)
  | tileSwap (mask : BitVec 16)
  | paramWrite (tile : Fin 16) (words : List (Nat × Word))
  | objFree (handle : Nat)
  | delaySet (handle : Nat) (xfade power : Bool) (delay ms : Nat)
  | playStart (handle : Nat) (loop : Option Nat) (start : Nat) (gain : Word) (ms : Nat)
  | playStop (handle : Nat) (ms : Nat)
  | captureCtrl (handle action start : Nat)
  | snapTake (handle : Nat) (items : List SnapItem)
  | rampSet (tile : Fin 16) (unit : Fin 64) (a : RampSetArgs) (ms : Nat)
  | pathActivate (addCh : BitVec 12) (copy : Bool)
  | pathRelease (addCh : BitVec 12) (copy : Bool)
  | pairSet (a : PairSetArgs) (groups : List (Nat × Nat))
  | roleSet (port : Fin 8) (role : Nat)
  | refForce (cand : Option (Fin 8))
  | pulseAlign (mask : BitVec 10)
  | aoipRx (stream : Fin 256) (a : AoipRxArgs)
  | aoipTx (stream : Fin 256) (a : AoipTxArgs)
  | aoipCs (stream : Fin 256) (pair : Nat) (block : List Byte)
  | portStart (port : Fin 12)
  | portStop (port : Fin 12)
  | portSlots (port : Fin 8) (write : BitVec 4) (masks : List Word)
  | psStart (mask : Nat)
  | psStop (mask ms : Nat)
  | psBudget (ch : Fin 8) (watts attack release : Nat)
  | psFreq (pref min max : Nat)
  | aesCs (aes : Fin 4) (subframe : Fin 2) (user : Bool) (block : List Byte)
  deriving DecidableEq, Repr

/-- What a timed command acts on, in the sense of R20. -/
inductive Obj where
  | input (dest : Nat) (input : Nat)
  | direct (ch : Nat)
  | gen (g : Nat)
  | dmaCh (d : Nat)
  | ageKind (k : Nat)
  | node
  | link (n : Nat)
  | tile (n : Nat)
  | word (tile addr : Nat)
  | ramp (tile unit : Nat)
  | obj (handle : Nat)
  | path (addCh : Nat) (copy : Bool)
  | pairing
  | selector
  | pulse (bit : Nat)
  | stream (tx : Bool) (n : Nat)
  | pair (stream pair : Nat)
  | port (n : Nat)
  | psChannel (c : Nat)
  | budget (c : Nat)
  | freqSelector
  | aesBlock (n subframe : Nat) (user : Bool)
  deriving DecidableEq, Repr

/-- An accepted timed action that has not yet taken effect (R25): the tick it is scheduled for and its command. -/
structure Timed where
  tick : Nat
  ticket : Ticket
  act : Action
  deriving DecidableEq, Repr

/-- The machine. `pending` is the queue of waiting commands, first in, first out; `free` counts the free values drawn so far
and belongs to the model, not to the spec. -/
structure State where
  pending : List Instr
  free : Nat
  power : Power
  time : TickState
  regs : Regs
  timed : List Timed
  flash : Flash
  sump : Sump
  prot : Prot
  wear : Wear
  test : Test
  hif : HostIf
  pcie : Pcie
  tun : Tunnel
  dma : Vector DmaCh 32
  dmaWait : List DmaWait
  localMem : List Host.Cell
  tunMem : List Host.Cell
  links : Vector Link 16
  node : NodeId
  surveys : List Survey
  linkQueries : List LinkQuery
  router : Router
  tiles : Vector Tile 16
  limits : Vector (Option LimitBind) 8
  mem : Benches
  fabric : Fabric
  clock : Clock
  net : Net
  ports : Ports
  ps : PowerStage
  mb : Vector MbBus 2
  scratch : List Host.Cell
  deriving DecidableEq, Repr

/-- The reasons a command ends in a fault: none. Every command of the table has an effect in every state. -/
inductive Fault where
  deriving DecidableEq, Repr

/-- The reasons a command is refused. -/
inductive Refusal where
  /-- Raised by Dispatch for a command that has no meaning in the model yet. Safe: nothing is claimed of it. -/
  | notModelled (mnemonic : String)
  deriving DecidableEq, Repr

/-- The machine right after a power-on reset has taken hold: the boot ROM is about to run (R480), every register and field at
its reset value, the flash blank, and no command waiting. -/
def State.reset : State :=
  { pending := [], free := 0, power := Power.reset, time := TickState.reset, regs := [], timed := [], flash := Flash.blank,
    sump := Sump.reset, prot := Prot.reset, wear := Wear.blank, test := Test.reset, hif := HostIf.reset,
    pcie := Pcie.reset, tun := Tunnel.reset, dma := Vector.replicate 32 DmaCh.reset, dmaWait := [], localMem := [],
    tunMem := [], links := Vector.replicate 16 Link.reset, node := NodeId.reset, surveys := [], linkQueries := [], router := Router.reset,
    tiles := Vector.replicate 16 Tile.reset, limits := Vector.replicate 8 none,
    mem := Benches.reset, fabric := Fabric.reset, clock := Clock.reset,
    net := Net.reset, ports := Ports.reset, ps := PowerStage.reset, mb := Vector.replicate 2 MbBus.reset,
    scratch := [] }

end Sys2Proof.Machine
end

