-- ==== Sys2Proof/Machine/Vec.lean ====
section
/-!
DEFINITION. Fixed register files as vectors: the units of the CH4096 that come in a fixed number (16 tiles, 16 links,
8 ports, 32 DMA channels) are vectors indexed by Fin, so that no unit number is out of range.
-/
namespace Sys2Proof.Machine

variable {α β : Type} {n : Nat}

/-- Replace one element. -/
def vset (v : Vector α n) (i : Fin n) (x : α) : Vector α n := v.set i.val x i.isLt

/-- Change one element. -/
def vmod (v : Vector α n) (i : Fin n) (f : α → α) : Vector α n := vset v i (f v[i])

/-- Apply a function to every element, by its list. -/
def vmap (f : α → β) (v : Vector α n) : Vector β n :=
  ⟨(v.toList.map f).toArray, by simp⟩

/-- All indices 0, …, n − 1. -/
def fins (n : Nat) : List (Fin n) := (List.finRange n)

/-- The vector of the values of a function. -/
def vgen (n : Nat) (f : Fin n → α) : Vector α n := ⟨((fins n).map f).toArray, by simp [fins]⟩

/-- Element at a number, if it is in range. -/
def vget? (v : Vector α n) (i : Nat) : Option α := if h : i < n then some (v[i]'h) else none

/-- Replace the element at a number, if it is in range. -/
def vsetN (v : Vector α n) (i : Nat) (x : α) : Vector α n := if h : i < n then v.set i x h else v

/-- Element at a number, or a given value out of range. -/
def vgetD (v : Vector α n) (i : Nat) (d : α) : α := if h : i < n then v[i]'h else d

/-- Map with the index. -/
def vmapIdx (f : Fin n → α → β) (v : Vector α n) : Vector β n := vgen n fun i => f i v[i]

/-- The index, if it is in range. -/
def toFin? (n i : Nat) : Option (Fin n) := if h : i < n then some ⟨i, h⟩ else none

end Sys2Proof.Machine
end

