-- ==== Sys2Proof/Machine/Ops.lean ====
section
/-!
DEFINITION. The named operations every meaning is built from: time and ticks, the register file, host memory, cells queued on
links, events, interrupts and completion records, the acceptance and scheduling of host commands, and the raising of a fault.
-/
namespace Sys2Proof.Machine

/-! ### Time -/

/-- The tick counter as a number. -/
def now (s : State) : Nat := s.time.tick.toNat

/-- Samples per tick S: 4 in native mode, 8 in forerunner mode (R13). -/
def spt (s : State) : Nat := if s.power.compat then 8 else 4

/-- The sample rate in Hz of a RATE code (R13, R108). -/
def rateHz : Fin 6 → Nat
  | 0 => 44100 | 1 => 48000 | 2 => 88200 | 3 => 96000 | 4 => 176400 | 5 => 192000

/-- The media rate in force, in Hz. -/
def fs (s : State) : Nat := rateHz s.time.rate

/-- One second in the unit of `refTime`. -/
def refSecond : Nat := 28224000

/-- The tick length in units of 1/28,224,000 s: exact at every rate (R13). -/
def tickUnits (s : State) : Nat := spt s * (refSecond / fs s)

/-- So many units of refTime may have passed since an instant, both ends being known to the tick. -/
def mayHavePassed (s : State) (since units : Nat) : Bool := decide (since + units < s.time.refTime + tickUnits s)

/-- The MEDIA clock in Hz (R249). -/
def mediaHz (s : State) : Nat := if s.time.rate.val % 2 = 1 then 98304000 else 90316800

/-- The MEDIA, FABRIC and MATRIX domains run: a tick is processed (R252, R257). -/
def tickRuns (s : State) : Bool := s.clock.plls[(4 : Fin 6)].locked && s.clock.plls[(1 : Fin 6)].locked

/-- The CORE domain runs, from its PLL or, around a clock step, from the FAB VCO ÷ 4 (R257, R473). -/
def coreRuns (s : State) : Bool := s.clock.plls[(0 : Fin 6)].locked || s.clock.onFab

/-- The DRAM domain runs (R257). -/
def dramRuns (s : State) : Bool := s.clock.plls[(2 : Fin 6)].locked

/-- The TIME domain runs, and PSTAGE with it (R257). -/
def timeRuns (s : State) : Bool := decide (s.power.state = .running) && s.clock.plls[(5 : Fin 6)].locked

/-- Ticks that a number of microseconds spans, rounded up. -/
def ticksOfUs (s : State) (us : Nat) : Nat := ceilDiv (us * fs s) (1000000 * spt s)

/-- floor(1.2 GHz × T_tick), the CORE cycles of a tick (R21), or at 1.1 GHz. -/
def coreCycles (s : State) (hz : Nat) : Nat := hz * spt s / fs s

/-- The first tick whose schedule is still open (R18, R23): the next one, or the one after it once the tick kerf has opened. -/
def openTick (s : State) : Nat := now s + (if s.time.kerf then 2 else 1)

/-! ### The register file -/

/-- Does a row of the register table cover an offset? -/
def RegRow.covers (r : RegRow) (off : Nat) : Bool :=
  if off < r.base then false else
    let d := off - r.base
    if r.stride1 = 0 then d = 0 else
      let i := d / r.stride1
      let m := d % r.stride1
      decide (i < r.count1) && (if r.stride2 = 0 then m = 0 else m % r.stride2 = 0 && decide (m / r.stride2 < r.count2))

/-- The fault source of an ID, if it is not reserved (R451). -/
def sumpSource (id : Nat) : Option SumpSource := sumpSources.find? fun x => x.id = id

/-- SUMP_CFG_s as a row: the severity of a SAFETY source is RWP, everything else RWL, and the reset is the source's default;
a reserved source ID reads 0 and ignores writes (R475). -/
def sumpCfgRow (id : Nat) : Option RegRow :=
  (sumpSource id).map fun x =>
    { name := "SUMP_CFG_s", base := Reg.sumpCfg id, stride1 := 0, count1 := 1, stride2 := 0, count2 := 1,
      rw := 0, rwl := if x.safety then 0xFFFFFFF0 else 0xFFFFFFF7, rwp := if x.safety then 7 else 0, w1c := 0, wo := 0,
      reset := BitVec.ofNat 32 (x.severity + bitAt x.safety 3 + x.limit * 2 ^ 4 + x.quiet * 2 ^ 8 + x.window * 2 ^ 20) }

/-- The register at a BAR0 offset; none where the offset is reserved (R524). -/
def regRow (off : Nat) : Option RegRow :=
  if 0x8400 ≤ off ∧ off < 0x8800 then (if off % 4 = 0 then sumpCfgRow ((off - 0x8400) / 4) else none)
  else regRows.find? fun r => r.covers off

/-- The reset value of the register at an offset (R528); 0 at a reserved offset. -/
def regReset (off : Nat) : Word :=
  match regRow off with
  | some r => r.reset
  | none => 0

/-- The value held in the register file at an offset. -/
def regGet (s : State) (off : Nat) : Word := (mapGet s.regs off).getD (regReset off)

/-- Write the register file; a register at its reset value is not listed. -/
def regPut (m : Regs) (off : Nat) (v : Word) : Regs := if v = regReset off then mapErase m off else mapPut m off v

/-- Set a register of the register file. -/
def regSet (off : Nat) (v : Word) (s : State) : State := { s with regs := regPut s.regs off v }

/-- Change a register. -/
def regMod (off : Nat) (f : Word → Word) (s : State) : State := regSet off (f (regGet s off)) s

/-- Set field [hi:lo] of a register. -/
def regSetFld (off hi lo v : Nat) (s : State) : State := regMod off (fun w => setFld w hi lo v) s

/-- Field [hi:lo] of a register. -/
def regFld (s : State) (off hi lo : Nat) : Nat := fld (regGet s off) hi lo

/-- Bit i of a register. -/
def regBit (s : State) (off i : Nat) : Bool := flag (regGet s off) i

/-- Add to a counter that saturates at 0xFFFF_FFFF. -/
def bump (off n : Nat) (s : State) : State := regMod off (fun w => BitVec.ofNat 32 (satN 32 (w.toNat + n))) s

/-- Add to a 16-bit counter field that saturates. -/
def bumpFld (off hi lo n : Nat) (s : State) : State := regMod off (fun w => setFld w hi lo (satN (hi + 1 - lo) (fld w hi lo + n))) s

/-- Set a sticky flag. -/
def sticky (off i : Nat) (s : State) : State := regMod off (fun w => w ||| BitVec.ofNat 32 (2 ^ i)) s

/-- MODE of HIF_CTRL; 3 acts as 0 (R405). -/
def hifMode (s : State) : Nat := let m := regFld s Reg.hifCtrl 1 0; if m = 3 then 0 else m

/-- The node's EUI-64 (R529). -/
def ownEui (s : State) : Eui := BitVec.ofNat 64 ((regGet s Reg.glbEuiHi).toNat * 2 ^ 32 + (regGet s Reg.glbEuiLo).toNat)

/-- RWL fields are writable until SETUP_LOCK (R527). -/
def locked (s : State) : Bool := regBit s Reg.glbLock 0

/-! ### Memory -/

/-- What a byte of memory that nothing has written reads as (DESIGN CHOICE, log 4). -/
def memDefault : Byte := 0

/-- Write bytes at consecutive addresses of a 64-bit address space. -/
def memWrite (m : List Host.Cell) (addr : Nat) : List Byte → List Host.Cell
  | [] => m
  | b :: bs => memWrite (mapPutD memDefault m (addr % 2 ^ 64) b) (addr + 1) bs

/-- Read `n` bytes. -/
def memRead (m : List Host.Cell) (addr : Nat) : Nat → List Byte
  | 0 => []
  | n + 1 => mapGetD memDefault m (addr % 2 ^ 64) :: memRead m (addr + 1) n

/-- The canonical form of a memory. -/
def Memory.wf (m : List Host.Cell) : Bool := mapWf memDefault m

/-- The memory of the ring owner's host: the local PCIe host's, or the tunnel owner's (R366). -/
def hostMem (s : State) : List Host.Cell := if hifMode s = 2 then s.tunMem else s.localMem

/-- Read the owner's host memory. -/
def hostRead (s : State) (addr n : Nat) : List Byte := memRead (hostMem s) addr n

/-- Replace the owner's host memory. -/
def setHostMem (m : List Host.Cell) (s : State) : State :=
  if hifMode s = 2 then { s with tunMem := m } else { s with localMem := m }

/-- Send one MSI-X message, or set its pending bit while its entry is masked (R383). -/
def msixRaise (v : Nat) (s : State) : State :=
  match vget? s.pcie.msix v with
  | none => s
  | some e =>
    if e.masked then { s with pcie := { s.pcie with pba := s.pcie.pba ||| BitVec.ofNat 64 (2 ^ v) } }
    else { s with localMem := memWrite s.localMem e.addr.toNat (leBytes 4 e.data.toNat) }

/-- Change one MSI-X table entry; one that is unmasked with its pending bit set sends its message (R383). -/
def msixMod (v : Fin 64) (f : MsixEntry → MsixEntry) (s : State) : State :=
  let s1 := { s with pcie := { s.pcie with msix := vmod s.pcie.msix v f } }
  if !s1.pcie.msix[v].masked && s.pcie.pba.getLsbD v.val then
    msixRaise v { s1 with pcie := { s1.pcie with pba := s1.pcie.pba &&& ~~~BitVec.ofNat 64 (2 ^ v.val) } }
  else s1

/-- A 32-bit write to the MSI-X table at 0x800–0xBFF of BAR2 (R365), whose entries are those of the PCI Express rules (PRESUMED,
log 104): message address, message data, and the mask bit. -/
def msixWord (off : Nat) (w : Word) (s : State) : State :=
  match toFin? 64 ((off - 0x800) / 16) with
  | none => s
  | some v =>
    if off < 0x800 then s else
    match off % 16 / 4 with
    | 0 => msixMod v (fun e => { e with addr := BitVec.ofNat 64 (e.addr.toNat / 2 ^ 32 * 2 ^ 32 + w.toNat) }) s
    | 1 => msixMod v (fun e => { e with addr := BitVec.ofNat 64 (e.addr.toNat % 2 ^ 32 + w.toNat * 2 ^ 32) }) s
    | 2 => msixMod v (fun e => { e with data := w }) s
    | _ => msixMod v (fun e => { e with masked := w.getLsbD 0 }) s

/-- A store into BAR2 in aligned 32-bit words; while the endpoint is in reset nothing reaches it (R519). -/
def bar2Store (off : Nat) (bs : List Byte) (s : State) : State :=
  if s.pcie.perst || decide (off % 4 ≠ 0) || decide (bs.length % 4 ≠ 0) then s
  else (List.range (bs.length / 4)).foldl
    (fun s i => msixWord (off + 4 * i) (BitVec.ofNat 32 (ofLe ((bs.drop (4 * i)).take 4))) s) s

/-- Stores the host has made: into its own memory, and into the MSI-X table. -/
def hostStores (l : List HostStore) (s : State) : State :=
  l.foldl (fun s x => if x.bar2 then bar2Store x.addr.toNat x.bytes s
    else setHostMem (memWrite (hostMem s) x.addr.toNat x.bytes) s) s

/-! ### Free values -/

/-- Draw the next free value, of `w` bits. -/
def freshFree (w : Nat) (s : State) : Nat × State := (Config.freeValue s.free % 2 ^ w, { s with free := s.free + 1 })

/-! ### Faults -/

/-- The severity in force of a source: SEVERITY of SUMP_CFG_s, 7 acting as 6 (R475). -/
def severity (s : State) (src : Nat) : Nat := min 6 (regFld s (Reg.sumpCfg src) 2 0)

/-- The unit an instance names, if a fence can isolate it (R457). -/
def fenceUnit (src inst : Nat) : Option FenceUnit :=
  if src / 16 = 5 then (toFin? 16 inst).map .tile
  else if src / 16 = 7 ∧ src ≠ Src.nodeIdDup then (toFin? 16 inst).map .link
  else if src = Src.aesCsCrc then (toFin? 12 (8 + inst)).map .port
  else if src / 16 = 0xA then (toFin? 12 inst).map .port
  else if src = Src.ethLinkDown ∨ src = Src.ethPauseStuck then (toFin? 4 inst).map .eth
  else if src = Src.psShort ∨ src = Src.psDc ∨ src = Src.psDieTemp then (toFin? 8 inst).map .channel
  else none

/-- A unit leaves its fence by host release, unless it is a power-stage channel (R457). -/
def hostReleased : FenceUnit → Bool
  | .channel _ => false
  | _ => true

/-- The instance of a source. -/
def sumpInst (s : State) (src inst : Nat) : SumpInst := (mapGet s.sump.insts (src * 256 + inst)).getD SumpInst.reset

/-- Set an instance; one at its reset value is not listed. -/
def setInst (src inst : Nat) (x : SumpInst) (s : State) : State :=
  { s with sump := { s.sump with insts := mapPutD SumpInst.reset s.sump.insts (src * 256 + inst) x } }

/-- A unit is fenced. -/
def fenced (s : State) (u : FenceUnit) : Bool := s.sump.fences.any fun f => f.1 = u

/-- The severity in force for an instance (R456): that of its last raise or transition, or the source's once it is CLEAR. -/
def instSev (s : State) (src inst : Nat) : Nat :=
  let i := sumpInst s src inst
  if i.state = .clear then severity s src else i.sev

/-- Queue an event for the next tick boundary (R378, R379). -/
def report (ty index : Nat) (data : List Byte) (s : State) : State :=
  { s with hif := { s.hif with events := s.hif.events ++
      [{ ty := BitVec.ofNat 16 ty, index := BitVec.ofNat 8 index,
         data := (data ++ List.replicate (24 - data.length) 0).take 24 }] } }

/-- Queue an event for the boundary at which it arises (R380). -/
def reportNow (ty index : Nat) (data : List Byte) (s : State) : State :=
  { s with hif := { s.hif with eventsNow := s.hif.eventsNow ++
      [{ ty := BitVec.ofNat 16 ty, index := BitVec.ofNat 8 index,
         data := (data ++ List.replicate (24 - data.length) 0).take 24 }] } }

/-- The FAULT event of a transition, for a source at NOTIFY or above (R464). DETAIL is that of the instance's last raise. -/
def faultEvent (src inst transition : Nat) (s : State) : State :=
  if instSev s src inst < 2 then s else
    report 0x0F01 (src / 16)
      (leBytes 1 src ++ leBytes 1 inst ++ leBytes 1 transition ++ leBytes 1 (instSev s src inst) ++
        leBytes 2 (sumpInst s src inst).recoveries ++ leBytes 2 0 ++ leBytes 8 (now s) ++
        leBytes 8 (sumpInst s src inst).detail) s

/-- WINDOW of a source in the unit of refTime; 0 acts as 1 second (R475). -/
def windowOf (s : State) (src : Nat) : Nat := max 1 (regFld s (Reg.sumpCfg src) 31 20) * refSecond

/-- QUIET of a source in the unit of refTime (R475). -/
def quietOf (s : State) (src : Nat) : Nat := regFld s (Reg.sumpCfg src) 19 8 * (refSecond / 100)

/-- The entries to RECOVERING within the window (R455). -/
def inWindow (s : State) (src inst : Nat) : Nat :=
  ((sumpInst s src inst).window.filter fun t => s.time.refTime < t + windowOf s src).length

/-- Fence the unit of an instance, if it is not fenced yet (R457). -/
def fenceFor (src inst : Nat) (s : State) : State :=
  match fenceUnit src inst with
  | none => s
  | some u =>
    if fenced s u then s
    else faultEvent src inst 6 { s with sump := { s.sump with fences := s.sump.fences ++ [(u, false)] } }

/-- The Sump asks for service on a bus whose REQ_LEVEL a raise reaches (chapter "Two-Wire Management Buses", R448): PENDING. -/
def requestService (sev : Nat) (s : State) : State :=
  (fins 2).foldl (fun s (n : Fin 2) =>
    let l := min 6 (regFld s (Reg.mbCtrl n) 22 20)
    if l ≠ 0 ∧ l ≤ sev then regSetFld (Reg.mbTgtReq n) 0 0 1 s else s) s

/-- Raise a fault (R452, R454, R455): nothing at OFF, in sleep (R496) or for a reserved source. -/
def raise (src inst : Nat) (detail : Nat) (s : State) : State :=
  match sumpSource src with
  | none => s
  | some x =>
    let sev := severity s src
    if x.instances ≤ inst ∨ sev = 0 ∨ s.power.state = .sleep then s else
    let i := sumpInst s src inst
    let n := satN 16 (i.raises + 1)
    let i1 := { i with raises := n, detail := detail, sev := sev, quietFrom := s.time.refTime, quiet := quietOf s src }
    match i.state with
    | .latched => setInst src inst { i with raises := n } s
    | st =>
      let lim := regFld s (Reg.sumpCfg src) 7 4
      let latch : Bool := 5 ≤ sev || (decide (st ≠ .active) && decide (lim ≠ 0) && decide (lim ≤ inWindow s src inst))
      if latch then
        let s1 := requestService sev (setInst src inst { i1 with state := .latched, lastTick := now s } s)
        let s2 := faultEvent src inst 4 s1
        let s3 := if 4 ≤ sev then fenceFor src inst s2 else s2
        if sev = 6 then { s3 with sump := { s3.sump with halted := true, haltDue := true } } else s3
      else if st = .active then
        let s1 := setInst src inst i1 s
        if 4 ≤ sev then fenceFor src inst s1 else s1
      else
        let s1 := requestService sev (setInst src inst { i1 with state := .active, lastTick := now s } s)
        let s2 := faultEvent src inst 1 s1
        if 4 ≤ sev then fenceFor src inst s2 else s2

/-! ### Cells -/

/-- The bytes 0x00–0x3B of a cell (R172). -/
def cellBytes (c : Cell) : List Byte :=
  let r := c.resv.toNat
  [c.ty, BitVec.ofNat 8 (c.mode.toNat + bitsOf r 5 0 * 4), c.hop, c.hops] ++ leBytes 2 (c.src.toNat + bitsOf r 9 6 * 4096) ++
    leBytes 2 (c.dst.toNat + bitsOf r 13 10 * 4096) ++ leBytes 2 c.seq.toNat ++ leBytes 2 (bitsOf r 29 14) ++ leBytes 8 c.route.toNat ++ (c.body ++ List.replicate (40 - c.body.length) 0).take 40

/-- The CRC of a cell (R172). -/
def cellCrc (c : Cell) : Word := crc32c (cellBytes c)

/-- Forwarding mode and priority class of a cell type (R173); none for a reserved type. Mode of the global-operation cells
depends on the cell and is taken from its header. -/
def cellClass (ty : Byte) : Option Nat :=
  let t := ty.toNat
  if t = 1 ∨ t = 3 then some 2 else if t = 2 then some 0
  else if t / 16 = 1 then some 1 else if t / 16 = 2 then some 0 else if t / 16 = 3 then some 1
  else if t / 16 = 4 then some 0 else if t / 16 = 5 then some 2 else none

/-- Limits of the class queues (R175). -/
def classLimit : Nat → Nat
  | 0 => 64 | 1 => 256 | _ => 1024

def linkQueue (l : Link) : Nat → List Cell
  | 0 => l.q0 | 1 => l.q1 | _ => l.q2

def setLinkQueue (l : Link) (k : Nat) (q : List Cell) : Link :=
  match k with
  | 0 => { l with q0 := q } | 1 => { l with q1 := q } | _ => { l with q2 := q }

/-- Change one link. -/
def linkMod (n : Fin 16) (f : Link → Link) (s : State) : State := { s with links := vmod s.links n f }

/-- Count a discarded cell of a link (R173–R175). -/
def cellDrop (n : Fin 16) (s : State) : State := sticky (Reg.linkErrStat n) 3 (bump (Reg.cellDropCount n) 1 s)

/-- Queue a cell on an output link, or discard it when its class queue is full, raising CELL_OVERFLOW (R175). -/
def queueCell (n : Fin 16) (c : Cell) (s : State) : State :=
  let k := (cellClass c.ty).getD 2
  let q := linkQueue s.links[n] k
  if q.length < classLimit k then linkMod n (fun l => setLinkQueue l k (q ++ [c])) s
  else raise Src.cellOverflow n 0 (cellDrop n s)

/-- A link is ATTACHED. -/
def attached (s : State) (n : Fin 16) : Bool := s.links[n].state = .attached

/-- The SEQ of the next cell this node originates in modes 1 and 2 (R172). -/
def takeSeq (s : State) : BitVec 16 × State := (s.node.seq, { s with node := { s.node with seq := s.node.seq + 1 } })

/-- ROUTE entry e (R172). -/
def routeEntry (route : BitVec 64) (e : Nat) : Fin 16 := ⟨(route.toNat / 16 ^ e) % 16, Nat.mod_lt _ (by decide)⟩

/-- Originate a source-routed cell along a route: it leaves on ROUTE entry 0 with HOP 1 (R174); on a link that is not ATTACHED
it is discarded and counted. -/
def sendRouted (ty : Nat) (dst : BitVec 12) (hops : Nat) (route : BitVec 64) (body : List Byte) (s : State) : State :=
  let q := takeSeq s
  let out := routeEntry route 0
  let c : Cell := { ty := BitVec.ofNat 8 ty, mode := 1, hop := 1, hops := BitVec.ofNat 8 hops, src := s.node.id, dst := dst,
                    seq := q.1, route := route, body := (body ++ List.replicate (40 - body.length) 0).take 40 }
  if attached q.2 out then queueCell out c q.2 else cellDrop out q.2

/-- Send a neighbour cell on a link (R172). -/
def sendNeighbour (n : Fin 16) (ty : Nat) (body : List Byte) (s : State) : State :=
  queueCell n { ty := BitVec.ofNat 8 ty, mode := 0, hop := 0, hops := 0, src := s.node.id, dst := 0, seq := 0, route := 0,
                body := (body ++ List.replicate (40 - body.length) 0).take 40 } s

/-- Queue a copy of a cell on every ATTACHED link but one (R174). -/
def floodOn (except_ : Option (Fin 16)) (c : Cell) (s : State) : State :=
  (fins 16).foldl (fun s n => if attached s n && decide (some n ≠ except_) then queueCell n c s else s) s

/-- Originate a flood cell (R172, R174): the node marks the pair (SRC_ID, SEQ) as seen, so that its own cell is not delivered
to it again. -/
def sendFlood (ty hops : Nat) (body : List Byte) (s : State) : State :=
  let q := takeSeq s
  let c : Cell := { ty := BitVec.ofNat 8 ty, mode := 2, hop := 0, hops := BitVec.ofNat 8 hops, src := s.node.id, dst := 0xFFF,
                    seq := q.1, route := 0, body := (body ++ List.replicate (40 - body.length) 0).take 40 }
  let n1 := { q.2.node with floodSeen := (s.node.id.toNat * 65536 + q.1.toNat, now s) :: q.2.node.floodSeen }
  floodOn none c { q.2 with node := n1 }

/-! ### The tunnel's requests (target side) -/

/-- The cell of a request (R384). -/
def tunCellOf (gen : Byte) (r : TunReq) : Nat × List Byte :=
  match r.kind with
  | .write a bs => (0x50, leBytes 8 a.toNat ++ leBytes 1 bs.length ++ [gen] ++ leBytes 2 r.xid.toNat ++ bs)
  | .read a n => (0x51, leBytes 8 a.toNat ++ leBytes 2 n ++ leBytes 2 r.xid.toNat ++ [gen])
  | .irq v => (0x53, leBytes 1 v.toNat ++ [gen] ++ leBytes 2 r.xid.toNat)

/-- The return route: RET_LINKS taken in reverse order (R385). -/
def reverseRoute (hops : Nat) (ret : BitVec 64) : BitVec 64 :=
  BitVec.ofNat 64 ((List.range hops).foldl (fun a i => a + (routeEntry ret (hops - 1 - i)).val * 16 ^ i) 0)

/-- Send one request to the owner along the return route. -/
def tunSend (r : TunReq) (s : State) : State :=
  match s.hif.owner with
  | none => s
  | some o => let c := tunCellOf o.gen r; sendRouted c.1 o.id o.hops (reverseRoute o.hops o.retLinks) c.2 s

/-- Issue a request with the next XID, or hold it back while 512 are unacknowledged (R387). An accepted claim that has not
bound yet lets no request go to the previous owner (R386). -/
def tunIssue (u : TunUse) (k : TunReqKind) (s : State) : State :=
  if s.hif.claim.isSome then s
  else if s.tun.unacked.length < 512 then
    let r : TunReq := { xid := s.tun.xid, kind := k, use := u, sent := now s, got := 0 }
    tunSend r { s with tun := { s.tun with
      xid := s.tun.xid + 1, unacked := s.tun.unacked ++ [r],
      lastAck := if s.tun.unacked.isEmpty then now s else s.tun.lastAck } }
  else { s with tun := { s.tun with unissued := s.tun.unissued ++ [(k, u)] } }

/-- Cut bytes into runs of at most 28 (R389). -/
def cut28 : Nat → Nat → List Byte → List (Nat × List Byte)
  | 0, _, _ => []
  | fuel + 1, a, bs => if bs = [] then [] else (a, bs.take 28) :: cut28 fuel (a + 28) (bs.drop 28)

/-- Write the owner's host memory; over the tunnel the write travels in TUN_WRITE requests (R389). -/
def useWrite (u : TunUse) (addr : Nat) (bs : List Byte) (s : State) : State :=
  let s1 := setHostMem (memWrite (hostMem s) addr bs) s
  if hifMode s = 2 then (cut28 bs.length addr bs).foldl (fun s x => tunIssue u (.write (BitVec.ofNat 64 x.1) x.2) s) s1 else s1

/-- The read that the device makes of the owner's host memory; over the tunnel it is a TUN_READ (R389), of at most 4,096 bytes
each (R396). -/
def useRead (u : TunUse) (addr n : Nat) (s : State) : State :=
  if hifMode s = 2 then
    (List.range (ceilDiv n 4096)).foldl (fun s i =>
      tunIssue u (.read (BitVec.ofNat 64 (addr + 4096 * i)) (min 4096 (n - 4096 * i))) s) s
  else s

/-- A read of the owner's memory that meets these bytes waits for data of the tunnel (R389). -/
def readWaits (u : TunUse) (addr n : Nat) (s : State) : Bool :=
  let meets (v : TunUse) (k : TunReqKind) (got : Nat) : Bool :=
    match k with
    | .read a len => decide (v = u) && decide (got < len) && decide (a.toNat < addr + n) && decide (addr < a.toNat + len)
    | _ => false
  decide (hifMode s = 2) && ((s.tun.unacked.any fun r => meets r.use r.kind r.got) || s.tun.unissued.any fun x => meets x.2 x.1 0)

/-- A write and a read of the command channel (R392). -/
def hostWrite (addr : Nat) (bs : List Byte) (s : State) : State := useWrite (.dma 32) addr bs s
def hostReadReq (addr n : Nat) (s : State) : State := useRead (.dma 32) addr n s

/-! ### Interrupts and records -/

/-- Raise a vector toward the owner (R383): this endpoint's MSI-X, or a TUN_IRQ. -/
def raiseVector (v : BitVec 6) (s : State) : State := if hifMode s = 2 then tunIssue .fetch (.irq v) s else msixRaise v.toNat s

/-- The queue of an interrupt source: 0–3 the CQs, 4 the EQ, 5 the DCQ. -/
def queueOf (s : State) (i : Fin 6) : RecQueue :=
  if h : i.val < 4 then s.hif.cqs[i.val] else if i.val = 4 then s.hif.eq else s.hif.dcq

def setQueue (i : Fin 6) (q : RecQueue) (s : State) : State :=
  if h : i.val < 4 then { s with hif := { s.hif with cqs := vset s.hif.cqs ⟨i.val, h⟩ q } }
  else if i.val = 4 then { s with hif := { s.hif with eq := q } } else { s with hif := { s.hif with dcq := q } }

/-- A record calls for an interrupt of its source: at once, or at the next boundary if the source has raised its vector in
this tick (R383). -/
def callIrq (i : Fin 6) (s : State) : State :=
  let q := queueOf s i
  if !q.irqEn then s
  else if s.hif.irqs[i].raised then { s with hif := { s.hif with irqs := vset s.hif.irqs i { raised := true, due := true } } }
  else raiseVector q.vector { s with hif := { s.hif with irqs := vset s.hif.irqs i { raised := true, due := false } } }

/-- Unconsumed records of a queue (R375). -/
def RecQueue.used (q : RecQueue) : Nat := (q.write + 2 ^ q.log2 - q.head) % 2 ^ q.log2

/-- Entries that can still be reserved: one entry always stays unused (R375). -/
def RecQueue.free (q : RecQueue) : Nat := 2 ^ q.log2 - 1 - (q.used + q.reserved)

/-- Write one record into a queue at its write index, with the PHASE bit in the FLAGS byte (byte `fl`), and advance (R375); the
DCQ is written by the DMA engine, every other queue by the ring fetcher (R404). -/
def writeRec (i : Fin 6) (size fl : Nat) (bytes : List Byte) (s : State) : State :=
  let q := queueOf s i
  let flb := (bytes.getD fl 0) ||| (if q.phase then 1 else 0)
  let bs := bytes.take fl ++ [flb] ++ bytes.drop (fl + 1)
  let w := (q.write + 1) % 2 ^ q.log2
  let s1 := setQueue i { q with write := w, phase := if w = 0 then !q.phase else q.phase } s
  useWrite (if i.val = 5 then .dcq (bytes.getD 4 0).toNat else .fetch) (q.base.toNat + size * q.write) bs s1

/-- Count a discarded completion record (R366, R404). -/
def recordLost (s : State) : State := sticky Reg.hifErrStat 2 (bump Reg.hifRecordLostCount 1 s)

/-- A completion record without PHASE (R374). -/
def recordBytes (t : Ticket) (status specific tickLo : Nat) (old : Bool) : List Byte :=
  leBytes 2 t.tag.toNat ++ leBytes 1 status ++ leBytes 1 (t.ring.val * 2 + bitAt old 4) ++ leBytes 2 t.index.toNat ++
    leBytes 2 t.seq.toNat ++ leBytes 4 specific ++ leBytes 4 tickLo

/-- The interrupt source of a completion queue. -/
def cqSource (q : Fin 4) : Fin 6 := ⟨q.val, by omega⟩

/-- Common status codes (R377). -/
def St.ok : Nat := 0
def St.okLate : Nat := 1
def St.refusedQuota : Nat := 2
def St.refusedBudget : Nat := 3
def St.badArg : Nat := 4
def St.noPath : Nat := 5
def St.protected_ : Nat := 6
def St.aborted : Nat := 7
def St.busError : Nat := 8
def St.timeout : Nat := 9
def St.fenced : Nat := 0xA

/-- A command of a ring has had its record written or discarded (R372). -/
def ringDone (r : Fin 8) (s : State) : State :=
  { s with hif := { s.hif with rings := vmod s.hif.rings r fun x => { x with outstanding := x.outstanding - 1 } } }

/-- Give back an entry of a completion queue that was reserved: for a command of this owner, or for one accepted before the
last takeover, if one was found (R375, R386). -/
def unreserve (cq : Fin 4) (old : Bool) (s : State) : State :=
  { s with hif := { s.hif with cqs := vmod s.hif.cqs cq fun q =>
    if !old then { q with reserved := q.reserved - 1 }
    else if 0 < q.old then { q with old := q.old - 1, reserved := q.reserved - 1 } else { q with oldDue := q.oldDue - 1 } } }

/-- Write a record of ring r into its queue; IRQ calls for an interrupt (R383). -/
def postRec (r : Fin 8) (bytes : List Byte) (irq : Bool) (s : State) : State :=
  let src := cqSource s.hif.rings[r].cq
  let s1 := writeRec src 16 3 bytes s
  if irq then callIrq src s1 else s1

/-- Write the completion record of a command with its TICK_LO (R374–R376): into the queue of its ring; with OLD_OWNER set after
a takeover, waiting there for a free entry or for the new directory (R386); or discarded and counted when its owner has gone or
the rings are stopped (R366, R404). -/
def completeAt (tick : Nat) (t : Ticket) (status specific : Nat) (s0 : State) : State :=
  let s := if status = St.okLate then { s0 with fabric := { s0.fabric with lateSinceBarrier := true } } else s0
  if t.epoch ≠ s.hif.epoch ∨ (!s.hif.dirOk && !s.hif.dirWait) then recordLost s
  else
    let old := s.hif.dirWait || decide (t.takeover ≠ s.hif.takeover)
    let bytes := recordBytes t status specific tick old
    let cq := s.hif.rings[t.ring].cq
    if s.hif.ringsStopped then recordLost (ringDone t.ring (unreserve cq old s))
    else if s.hif.dirWait || (old && decide (s.hif.cqs[cq].old = 0)) then
      { s with hif := { s.hif with waiting := s.hif.waiting ++ [{ ring := t.ring, bytes := bytes, irq := t.irq }] } }
    else postRec t.ring bytes t.irq (ringDone t.ring (unreserve cq old s))

/-- The completion of a command now. -/
def complete (t : Ticket) (status specific : Nat) (s : State) : State := completeAt (now s) t status specific s

/-! ### Acceptance and scheduling -/

/-- The status of a timed command that has taken effect (R23). -/
def okOf (t : Ticket) : Nat := if t.late then St.okLate else St.ok

/-- The most timed actions that are held (R25). -/
def timedMax : Nat := 4096

/-- The delay changes that wait for a running one to end (R149). -/
def deferredDelays (s : State) : Nat :=
  (s.mem.objs.filter fun e => match e.2.kind with | .line _ _ _ d => d.isSome | _ => false).length

/-- The timed actions held: those that wait for their tick, the path reservations in progress (R25, R205), the delay changes that
wait for a running one to end (R149), and the global operations that wait for theirs (R221). A PORT_START that waits for its
trigger is not among them (DESIGN CHOICE, log 140). -/
def timedHeld (s : State) : Nat :=
  s.timed.length + (s.fabric.paths.filter fun p => p.reserving).length + deferredDelays s +
    (s.fabric.ops.filter fun o => o.execs && decide (now s < o.tick)).length

/-- May a ring's descriptor be taken (R372)? Its completion queue has a free entry, a timed descriptor finds room in the
timed-action table, and an ORDERED one finds every earlier command of its ring completed. Where no directory has been read,
no queue is asked. -/
def takeable (ring : Fin 8) (ordered timed : Bool) (s : State) : Bool :=
  let r := s.hif.rings[ring]
  (!s.hif.polling || decide (0 < s.hif.cqs[r.cq].free)) && (!timed || decide (timedHeld s < timedMax)) &&
    (!ordered || decide (r.outstanding = 0))

/-- Take a descriptor (R371, R372): number it in ACCEPT_SEQ and reserve the entry of its record. -/
def accept (h : CmdHdr) (s : State) : Ticket × State :=
  let r := s.hif.rings[h.ring]
  let q := s.hif.cqs[r.cq]
  let t : Ticket := { ring := h.ring, index := h.index, tag := h.tag, irq := h.irq, seq := BitVec.ofNat 16 s.hif.accepted,
                      epoch := s.hif.epoch, takeover := s.hif.takeover, order := s.hif.order, late := false }
  (t, { s with hif := { s.hif with accepted := s.hif.accepted + 1, order := s.hif.order + 1,
                                   rings := vset s.hif.rings h.ring { r with outstanding := r.outstanding + 1 },
                                   cqs := vset s.hif.cqs r.cq { q with reserved := q.reserved + 1 } } })

/-- The tick at which a timed command executes, and whether late (R23); none when its tick lies more than 2^32 ahead. -/
def schedule (field : BitVec 64) (s : State) : Option (Nat × Bool) :=
  let f := field.toNat
  if f = 0 then some (openTick s, false)
  else if now s + 2 ^ 32 < f then none
  else if openTick s ≤ f then some (f, false)
  else some (openTick s, true)

/-- A command that runs at its acceptance (R373): taken, or refused with BAD_ARG when its descriptor is malformed (R9). A
descriptor its ring cannot take changes nothing but the host stores. -/
def takenCmd (timed : Bool) (h : CmdHdr) (bad : Bool) (run : Ticket → State → State) (s0 : State) : State :=
  let s := hostStores h.stores s0
  if takeable h.ring h.ordered timed s then
    let a := accept h s
    if h.reservedSet || bad then complete a.1 St.badArg 0 a.2 else run a.1 a.2
  else s

/-- An untimed command (R373). -/
def untimedCmd (h : CmdHdr) (bad : Bool) (run : Ticket → State → State) (s0 : State) : State := takenCmd false h bad run s0

/-- Hold a timed action until its tick (R25). -/
def hold (tick : Nat) (t : Ticket) (late : Bool) (act : Action) (s : State) : State :=
  { s with timed := s.timed ++ [{ tick := tick, ticket := { t with late := late }, act := act }] }

/-- A timed command: taken, refused at acceptance with BAD_ARG or with a status of its block, or scheduled by R23; `pre` is
what it does at acceptance once it is scheduled. -/
def timedCmd (h : CmdHdr) (tick : BitVec 64) (bad : Bool) (refuse : State → Option (Nat × Nat))
    (pre : Nat → Ticket → State → State) (act : Action) (s0 : State) : State :=
  let s := hostStores h.stores s0
  if takeable h.ring h.ordered true s then
    let a := accept h s
    if h.reservedSet || bad then complete a.1 St.badArg 0 a.2
    else
      match schedule tick a.2 with
      | none => complete a.1 St.badArg 0 a.2
      | some (n, late) =>
        match refuse a.2 with
        | some (st, sp) => complete a.1 st sp a.2
        | none => hold n a.1 late act (pre n { a.1 with late := late } a.2)
  else s

/-- A timed command whose fields are out of range: taken, and completed with BAD_ARG (R9, R36). -/
def badTimed (h : CmdHdr) (s0 : State) : State :=
  let s := hostStores h.stores s0
  if takeable h.ring h.ordered true s then let a := accept h s; complete a.1 St.badArg 0 a.2 else s

/-- A timed command that needs host data while the DMA engine is halted: taken, and completed with BUS_ERROR (R403). -/
def busTimed (h : CmdHdr) (s0 : State) : State :=
  let s := hostStores h.stores s0
  if takeable h.ring h.ordered true s then
    let a := accept h s
    complete a.1 (if h.reservedSet then St.badArg else St.busError) 0 a.2
  else s

/-- No refusal at acceptance. -/
def noRefusal : State → Option (Nat × Nat) := fun _ => none

/-- Nothing at acceptance. -/
def noPre : Nat → Ticket → State → State := fun _ _ s => s

/-- The DMA engine is halted while any channel is HALTED (R403): commands that need host data then complete with BUS_ERROR. -/
def dmaHalted (s : State) : Bool := s.dma.toList.any fun c => c.state = .halted

/-- A command writes its result to RESULT_ADDR, reads back its last byte and completes; over the tunnel its record waits for the
read-back (R376). BUS_ERROR while the engine is halted (R403). `tick`: the tick at which a timed command took effect. -/
def resultWith (tick : Option Nat) (t : Ticket) (addr : Nat) (bytes : List Byte) (status specific : Nat) (s : State) : State :=
  if dmaHalted s then completeAt (tick.getD (now s)) t St.busError 0 s
  else
    let s1 := useRead (.result t.order) (addr + bytes.length - 1) 1 (useWrite (.result t.order) addr bytes s)
    if hifMode s = 2 then
      { s1 with tun := { s1.tun with results := s1.tun.results ++
          [{ ticket := t, status := status, specific := specific, tick := tick }] } }
    else completeAt (tick.getD (now s)) t status specific s1

/-- The result of an untimed command. -/
def resultThen (t : Ticket) (addr : Nat) (bytes : List Byte) (status : Nat) (s : State) : State :=
  resultWith none t addr bytes status 0 s

/-- The commands whose result data was on its way complete with BUS_ERROR (R403). -/
def failResults (s : State) : State :=
  s.tun.results.foldl (fun s w => completeAt (w.tick.getD (now s)) w.ticket St.busError 0 s)
    { s with tun := { s.tun with results := [] } }

/-- The read-back of a command's result data has come: its record is written (R376). -/
def resultCome (order : Nat) (s : State) : State :=
  (s.tun.results.filter fun w => decide (w.ticket.order = order)).foldl
    (fun s w => completeAt (w.tick.getD (now s)) w.ticket w.status w.specific s)
    { s with tun := { s.tun with results := s.tun.results.filter fun w => decide (w.ticket.order ≠ order) } }

end Sys2Proof.Machine
end

