-- ==== Sys2Proof/Machine/Operands.lean ====
section
/-!
DEFINITION. Operand forms shared by the commands: endpoints (R35, R36), gain words (R44), the ramp and law fields of the route
commands (R48, R66), and the check of masks and addresses.
-/
namespace Sys2Proof.Machine

/-- Class [15:12] and index [11:0] of an endpoint (R11, R35). -/
def epClass (e : BitVec 16) : Nat := e.toNat / 4096
def epIndex (e : BitVec 16) : Nat := e.toNat % 4096

/-- The null endpoint: class 0xF (R11). -/
def epNull (e : BitVec 16) : Bool := epClass e = 0xF

/-- The endpoint of a class and index. -/
def ep (cls idx : Nat) : Nat := cls * 4096 + idx

/-- The rate column of R35: 0 for at most 48 kHz, 1 for 88.2 and 96 kHz, 2 for 176.4 and 192 kHz. -/
def rateBand (s : State) : Nat := s.time.rate.val / 2

/-- Table value by rate column. -/
def byBand (s : State) (a b c : Nat) : Nat := if rateBand s = 0 then a else if rateBand s = 1 then b else c

/-- Slots per lane of a serial port (R35). -/
def slotLimit (s : State) : Nat := byBand s 32 16 8

/-- Does the index exist in its class at the fabric's media rate (R35)? -/
def indexExists (s : State) (cls idx : Nat) : Bool :=
  match cls with
  | 0 | 1 => idx < byBand s 4096 4096 2048
  | 2 => decide (idx < 512) && decide (idx % 32 < slotLimit s)
  | 3 => idx < 8
  | 4 => idx < byBand s 2048 1024 512
  | 5 | 6 => true
  | 7 => idx < 256
  | 8 => idx < 16
  | 9 => idx < 16
  | _ => false

/-- A source endpoint exists (R35, R36). -/
def srcExists (s : State) (e : BitVec 16) : Bool := decide (epClass e ≠ 1) && indexExists s (epClass e) (epIndex e)

/-- A destination endpoint exists (R11, R35, R36): classes 0x0 and 0x9 are no destinations, class 0x8 has 8, and the null class is
a destination whatever its index. -/
def dstExists (s : State) (e : BitVec 16) : Bool :=
  match epClass e with
  | 0 | 9 => false
  | 8 => epIndex e < 8
  | 15 => true
  | c => indexExists s c (epIndex e)

/-- The unit a source endpoint belongs to, where a fence can isolate it (R38, R457). -/
def epUnit (e : Nat) : Option FenceUnit :=
  let i := e % 4096
  match e / 4096 with
  | 2 => (toFin? 12 (i / 64)).map .port
  | 3 => (toFin? 12 (8 + i / 2)).map .port
  | 5 => (toFin? 16 (i / 256)).map .tile
  | 8 => (toFin? 8 (i % 8)).map .channel
  | _ => none

/-- A RAMP_MS field of a command: up to `max`, or 0xFFFF for the ROUTE_RAMP register, whose values 1,001–1,023 act as 1,000
(R48, R66); none when invalid. -/
def rampField (s : State) (max_ : Nat) (f : BitVec 16) : Option Nat :=
  if f.toNat = 0xFFFF then some (min 1000 (regFld s Reg.routeRamp 9 0))
  else if f.toNat ≤ max_ then some f.toNat else none

/-- A LAW field: true for equal power; 0 takes DEFAULT_LAW; none when invalid (R48). -/
def lawField (s : State) (l : BitVec 2) : Option Bool :=
  match l.toNat with
  | 0 => some (regBit s Reg.routerCtrl 0)
  | 1 => some false
  | 2 => some true
  | _ => none

/-- An address field that must be 8-byte aligned. -/
def aligned8 (a : BitVec 64) : Bool := a.toNat % 8 = 0

/-- The units a mask names. -/
def maskUnits (n mask : Nat) : List (Fin n) := (fins n).filter fun i => bitOf mask i.val

end Sys2Proof.Machine
end

