-- ==== Sys2Proof/Machine/Conceal.lean ====
section
/-!
DEFINITION. Hold, ramp and silence (R212): what an output delivers in ticks for which it has no usable value, shared by the
drop channels, the AoIP receive channels (R294) and the power-stage channels (R336).
-/
namespace Sys2Proof.Machine

/-- The falling factor after j of n ramp samples (R212): floor(2^30 × (n − j) / n). -/
def fallFactor (j n : Nat) : Nat := if n = 0 then 0 else 2 ^ 30 * (n - j) / n

/-- The rising equal-gain factor from f0 after j of n samples (R57, R212). -/
def riseFactor (f0 j n : Nat) : Nat := if n ≤ j then 2 ^ 30 else f0 + (2 ^ 30 - f0) * j / n

/-- A sample times a Q2.30 factor, rounded down. -/
def factored (x : Sample) (f : Nat) : Sample := BitVec.ofInt 32 (x.toInt * f / 2 ^ 30)

/-- The factor reached after the bad ticks so far (R212): 1.0 until the hold has ended, 0 once the ramp has. -/
def Conceal.reached (c : Conceal) (holdMax spt n : Nat) : Nat :=
  if c.bad ≤ holdMax then 2 ^ 30 else fallFactor ((c.bad - holdMax) * spt) n

/-- A tick without a usable value (R212). -/
def Conceal.lose (c : Conceal) (holdMax spt n : Nat) : List Sample × Conceal :=
  let h := if c.bad = 0 then c.last else c.held
  let out := (List.range spt).map fun i =>
    if c.bad < holdMax then h else factored h (fallFactor ((c.bad - holdMax) * spt + i + 1) n)
  (out, { bad := c.bad + 1, held := h, last := out.getLastD 0, fade := none })

/-- A tick with a usable value: direct, or faded in after a ramp or silence (R212). -/
def Conceal.take (c : Conceal) (holdMax spt n : Nat) (x : List Sample) : List Sample × Conceal :=
  let fade := if c.bad = 0 then c.fade else if c.bad ≤ holdMax then none else some (c.reached holdMax spt n, 0)
  match fade with
  | none => (x, { bad := 0, held := 0, last := x.getLastD 0, fade := none })
  | some (f0, j) =>
    let out := x.mapIdx fun i y => factored y (riseFactor f0 (j + i + 1) n)
    (out, { bad := 0, held := 0, last := out.getLastD 0, fade := if n ≤ j + spt then none else some (f0, j + spt) })

end Sys2Proof.Machine
end

