-- ==== Sys2Proof/Machine/Flags.lean ====
section
/-!
DEFINITION. Flag computations: the sticky flags and saturating counters that several blocks set by one rule (a flag, its
counter, and the fault raised at the first event after the flag was cleared).
-/
namespace Sys2Proof.Machine

/-- Count `n` events into a saturating counter and set its sticky flag; the first event after the flag was cleared raises the
source (R41, R80). Nothing happens for n = 0. -/
def countSticky (count stat bit src inst n : Nat) (s : State) : State :=
  if n = 0 then s
  else
    let was := regBit s stat bit
    let s1 := sticky stat bit (bump count n s)
    if was then s1 else raise src inst 0 s1

/-- Count events and set the sticky flag; no fault. -/
def countFlag (count stat bit n : Nat) (s : State) : State :=
  if n = 0 then s else sticky stat bit (bump count n s)

/-- Clearing a sticky flag clears its counter (W1C fields "clears the flag and COUNT"). -/
def clearWith (w : Word) (bit count : Nat) (s : State) : State := if flag w bit then regSet count 0 s else s

end Sys2Proof.Machine
end

