-- ==== Sys2Proof/Machine/Router.lean ====
section
/-!
DEFINITION. The router (R34–R60), the direct path (R61–R65), the test generators (R60) and the meters (R69, R70): their
commands, the effect of the commands at their tick, and the work of a tick boundary.
-/
namespace Sys2Proof.Machine

/-- A block of S zero samples. -/
def zeroBlk (s : State) (valid : Bool) : Blk := { samples := List.replicate (spt s) 0, valid := valid, ramp := false }

/-- The block a source endpoint was handed over with at the last boundary: zero, flagged invalid, where its block drives
nothing or its unit is fenced (R38). -/
def sourceBlk (s : State) (e : Nat) : Blk :=
  match epUnit e with
  | some u => if fenced s u then zeroBlk s false else (mapGet s.router.store e).getD (zeroBlk s false)
  | none => (mapGet s.router.store e).getD (zeroBlk s false)

/-- The value delivered to a destination at the last boundary: zero, flagged valid, without a route-table entry (R42). -/
def deliveredBlk (s : State) (e : Nat) : Blk := (mapGet s.router.delivered e).getD (zeroBlk s true)

/-! ### Taps and factors -/

/-- The factor of the last sample before the boundary. -/
def Tap.factor (t : Tap) : Nat := t.factorAt t.j

/-- A tap that is fading (R53). -/
def Tap.fading (t : Tap) : Bool := decide (t.n ≠ 0)

/-- STATE of a tap in ROUTE_QUERY (R53): 1 steady, 2 rising, 3 falling. -/
def Tap.code (t : Tap) : Nat := if t.n = 0 then 1 else if t.up then 2 else 3

/-- The tap contributes to the tick of its next k samples (R42): its gain is not mute and its factor not 0 at some sample. -/
def Tap.contributes (t : Tap) (k : Nat) : Bool :=
  (List.range k).any fun i => decide (t.factorAt (t.j + i + 1) ≠ 0) &&
    !(t.gain.silentFor k || (decide (t.gain.n ≠ 0) && decide (t.gain.n < t.gain.j + i + 1) && t.gain.target = none))

/-- A tap starts to fade: rising toward 1.0 or falling toward 0 over n samples (R57). -/
def Tap.fade (t : Tap) (up power : Bool) (n : Nat) : Tap := { t with f0 := t.factor, up := up, power := power, n := n, j := 0 }

/-- A tap after k samples: a finished rise stands at 1.0, a finished fall is released (R57, R58). -/
def Tap.advance (t : Tap) (k : Nat) : Option Tap :=
  let t1 := { t with gain := t.gain.advance k }
  if t.n = 0 then some t1
  else if t.n ≤ t.j + k then (if t.up then some { t1 with f0 := 2 ^ 30, n := 0, j := 0 } else none)
  else some { t1 with j := t.j + k }

/-- m_t of R40 at step j: floor(g·f / 2^30). -/
def Tap.multiplier (t : Tap) (i : Nat) : Int :=
  t.gain.linAt (t.gain.j + i + 1) * (t.factorAt (t.j + i + 1) : Int) / 2 ^ 30

/-- One output sample of a destination (R40) and whether it saturated. -/
def destSample (s : State) (taps : List Tap) (i : Nat) : Sample × Bool :=
  let acc := taps.foldl (fun (a : Int) t => a + ((sourceBlk s t.source.toNat).samples.getD i 0).toInt * t.multiplier i) 0
  sat32 (acc / 2 ^ 27)

/-- Validity of a destination's tick (R42). -/
def destValid (s : State) (taps : List Tap) : Bool :=
  let c := taps.filter fun t => t.contributes (spt s)
  let bad := c.filter fun t => !(sourceBlk s t.source.toNat).valid
  if regBit s Reg.routerCtrl 1 then !(decide (c ≠ []) && decide (bad.length = c.length)) else decide (bad = [])

/-- A destination's tick: its block and the number of saturated samples. -/
def destBlk (s : State) (taps : List Tap) : Blk × Nat :=
  let v := (List.range (spt s)).map (destSample s taps)
  ({ samples := v.map (·.1), valid := destValid s taps, ramp := taps.any Tap.fading }, (v.filter (·.2)).length)

/-! ### The route table at a boundary -/

/-- The taps of a destination; none listed where it has no entry. -/
def routeTaps (s : State) (dest : Nat) : List Tap := (mapGet s.router.routes dest).getD []

def setTaps (dest : Nat) (taps : List Tap) (s : State) : State :=
  { s with router := { s.router with routes := mapPut s.router.routes dest taps } }

/-- ROUTE_SET at its boundary (R57–R59): the taps after it, or none when no physical tap is free (NO_TAP). -/
def routeChange (taps : List Tap) (a : RouteAct) (n : Nat) : Option (List Tap) :=
  let others := taps.filter fun t => t.input ≠ a.input
  let mine := taps.filter fun t => t.input = a.input
  if epNull a.source then
    some (if n = 0 then others else others ++ mine.map fun t => t.fade false a.power n)
  else
    let same := mine.filter fun t => t.source = a.source
    let rest := mine.filter fun t => t.source ≠ a.source
    let fresh : Tap := { source := a.source, input := a.input, gain := Gain.ofWord a.gain, f0 := 0, up := true,
                         power := a.power, n := n, j := 0 }
    match same with
    | t :: _ =>
      if n = 0 then some (others ++ [{ t with gain := Gain.ofWord a.gain, f0 := 2 ^ 30, up := true, n := 0, j := 0 }])
      else some (others ++ [{ t.fade true a.power n with gain := t.gain.rampTo a.gain n }] ++
                  rest.map fun t => t.fade false a.power n)
    | [] =>
      if n = 0 then
        if others.length < 4 then some (others ++ [{ fresh with f0 := 2 ^ 30, n := 0 }]) else none
      else if taps.length < 4 then some (others ++ rest.map (fun t => t.fade false a.power n) ++ [fresh])
      else none

/-- A route that takes an entry of the route table (R39): neither end is null. A null destination emits nothing (R11). -/
def RouteAct.needsEntry (a : RouteAct) : Bool := !epNull a.source && !epNull a.dest

/-- Apply one route entry; false when it found no free tap. A null destination holds nothing. -/
def applyRoute (a : RouteAct) (s : State) : Bool × State :=
  if epNull a.dest then (true, s) else
  match routeChange (routeTaps s a.dest.toNat) a (rampSamples (fs s) (spt s) a.ms) with
  | some taps =>
    if taps = [] ∧ mapGet s.router.routes a.dest.toNat = none then (true, s) else (true, setTaps a.dest.toNat taps s)
  | none => (false, s)

/-- The current tap of an input (R50): the rising tap, or its single steady tap. -/
def currentTap (taps : List Tap) (input : Fin 4) : Option Tap :=
  match taps.find? fun t => t.input = input && t.fading && t.up with
  | some t => some t
  | none => taps.find? fun t => t.input = input && !t.fading

/-- GAIN_SET at its boundary (R50, R55, R56): false when the input has no current tap. -/
def applyGain (dest : Nat) (input : Fin 4) (gain : Word) (ms : Nat) (s : State) : Bool × State :=
  let taps := routeTaps s dest
  match currentTap taps input with
  | none => (false, s)
  | some c =>
    let n := rampSamples (fs s) (spt s) ms
    (true, setTaps dest (taps.map fun t => if t = c then { t with gain := t.gain.rampTo gain n } else t) s)

/-- ROUTE_CLEAR at its boundary: every tap of the inputs that no later action replaces falls to 0 (R46, R50). -/
def applyClear (dest : Nat) (power : Bool) (ms : Nat) (skip : Nat → Bool) (s : State) : State :=
  match mapGet s.router.routes dest with
  | none => s
  | some taps =>
    let n := rampSamples (fs s) (spt s) ms
    let taps' := if n = 0 then taps.filter fun t => skip t.input.val
      else taps.map fun t => if skip t.input.val then t else t.fade false power n
    setTaps dest taps' s

/-- ROUTE_BATCH at its boundary (R52): the entries in list order, each unless replaced by a later action or entry; answers the
list index of the first entry that found no tap. -/
def applyBatch (skip : Nat → Nat → Bool) : Nat → List RouteAct → State → Option Nat × State
  | _, [], s => (none, s)
  | k, a :: l, s =>
    if skip a.dest.toNat a.input.val || l.any (fun b => b.dest = a.dest && b.input = a.input) then applyBatch skip (k + 1) l s
    else
      let r := applyRoute a s
      let q := applyBatch skip (k + 1) l r.2
      (if r.1 then q.1 else some k, q.2)

/-- Advance every tap by one tick and release those whose fade has ended (R58). -/
def advanceRoutes (s : State) : State :=
  { s with router := { s.router with
      routes := s.router.routes.map fun e => (e.1, e.2.filterMap fun t => t.advance (spt s)) } }

/-- The destinations that accepted timed commands with a non-null source still name (R39). -/
def pendingDests (s : State) : List Nat :=
  s.timed.flatMap fun t => match t.act with
    | .routeSet a => if a.needsEntry then [a.dest.toNat] else []
    | .routeBatch l => (l.filter RouteAct.needsEntry).map fun a => a.dest.toNat
    | _ => []

/-- Free the entries whose last tap has been released and that no accepted command needs (R39). -/
def freeRoutes (s : State) : State :=
  let keep := pendingDests s
  { s with router := { s.router with routes := s.router.routes.filter fun e => e.2 ≠ [] || keep.contains e.1 } }

/-- Count saturated router or generator samples (R41). -/
def routerSat (n : Nat) (s : State) : State := countSticky Reg.routerSatCount Reg.routerSatStat 0 Src.routerSat 0 n s

/-- The router pass (R40): every destination with an entry, from the sources handed over at this boundary. Tile inputs are
answered apart, since the tick program of this very tick takes them (R34); the rest are in flight to the next boundary. -/
def routerPass (s : State) : List (Nat × Blk) × State :=
  let r := s.router.routes.map fun e => (e.1, destBlk s e.2)
  let sat := r.foldl (fun a e => a + e.2.2) 0
  let vals := r.map fun e => (e.1, e.2.1)
  let tile := vals.filter fun e => e.1 / 4096 = 5
  (tile, routerSat sat { s with router := { s.router with inFlight := vals.filter fun e => e.1 / 4096 ≠ 5 } })

/-- ROUTER_USE at a boundary (R66). -/
def routerUse (s : State) : State :=
  let ramping := s.router.routes.foldl (fun a e => a + (e.2.filter Tap.fading).length) 0
  regSet Reg.routerUse (BitVec.ofNat 32 (s.router.routes.length % 65536 + (ramping % 65536) * 65536)) s

/-- Route-table entries at the media rate (R39). -/
def destMax (s : State) : Nat := byBand s 8192 4096 2048

/-! ### Test generators -/

/-- The raw samples of a generator over k samples, with its state after them (R60): the LFSR shifts right, and its first sample is
its state after one step (DESIGN CHOICE, log 142). -/
def genSamples : Nat → TestGen → List Int × TestGen
  | 0, g => ([], g)
  | k + 1, g =>
    let g1 : TestGen :=
      { g with phase := g.phase + g.step,
               lfsr := if g.lfsr.getLsbD 0 then (g.lfsr >>> 1) ^^^ 0x80200003 else g.lfsr >>> 1 }
    let x : Int := match g.wave with
      | 1 => sineSample g.phase.toNat
      | 2 => g1.lfsr.toInt
      | 3 => 0x7FFFFFFF
      | _ => 0
    let r := genSamples k g1
    (x :: r.1, r.2)

/-- A generator's tick: its block with the gain applied by R40, the saturated samples, and its state after the tick. -/
def genTick (s : State) (g : TestGen) : Blk × Nat × TestGen :=
  let r := genSamples (spt s) g
  let v := r.1.map fun x => sat32 (x * gainLin g.gain / 2 ^ 27)
  ({ samples := v.map (·.1), valid := true, ramp := false }, (v.filter (·.2)).length, r.2)

/-- Hand over all 16 generators at a boundary. -/
def runGens (s : State) : State :=
  (fins 16).foldl (fun s (n : Fin 16) =>
    let r := genTick s s.router.gens[n]
    routerSat r.2.1 { s with router := { s.router with store := mapPut s.router.store (ep 9 n) r.1,
                                                       gens := vset s.router.gens n r.2.2 } }) s

/-- TESTGEN_SET at its boundary (R60): a new setting without a ramp, the phase at 0 and the LFSR at SEED. -/
def applyTestgen (g : Fin 16) (a : TestgenSetArgs) (s : State) : State :=
  let step := BitVec.ofNat 32 (roundDiv (a.freq.toNat * 2 ^ 32 : Nat) (1000 * fs s)).toNat
  let x : TestGen :=
    { wave := a.wave.toNat, gain := a.level, step := if a.wave.toNat = 1 then step else 0, phase := 0, lfsr := a.seed }
  { s with router := { s.router with gens := vset s.router.gens g x } }

/-! ### The direct path -/

/-- The configuration a port runs with, or will start with (R329). -/
def cfgInForce (s : State) (p : Fin 12) : Word :=
  match s.ports.port[p].state with
  | .stopped | .armed => regGet s (if 8 ≤ p.val then Reg.aesCfg (p.val - 8) else Reg.portCfg p)
  | _ => s.ports.port[p].cfg

/-- The endpoint's port is clocked synchronously to MEDIA (R61, R309): a serial port that is no asynchronous slave, an AES3
receiver without ASYNC, and every AES3 transmitter (R320, R322); power-stage inputs are. -/
def directSync (s : State) (dest : Bool) (e : BitVec 16) : Bool :=
  let i := epIndex e
  match epClass e with
  | 2 => (toFin? 12 (i / 64)).all fun p => decide (fld (cfgInForce s p) 3 2 ≠ 2)
  | 3 => dest || (toFin? 12 (8 + i / 2)).all fun p => !flag (cfgInForce s p) 0
  | _ => true

/-- Endpoints that may end a direct path (R61). -/
def directSource (s : State) (e : BitVec 16) : Bool := (epClass e = 2 || epClass e = 3) && srcExists s e
def directDest (s : State) (e : BitVec 16) : Bool := (epClass e = 2 || epClass e = 3 || epClass e = 8) && dstExists s e

/-- A destination held by a direct-path channel: its present one, or the one it is changing to (R62, R64). -/
def directHolds (d : Direct) (dest : BitVec 16) : Bool :=
  (match d.ends with | some e => e.2 = dest | none => false) || (match d.next with | some x => x.dest = dest | none => false)

/-- Some direct-path channel but `except_` holds a destination. -/
def directOwned (s : State) (dest : BitVec 16) (except_ : Option (Fin 64)) : Bool :=
  (fins 64).any fun n => decide (some n ≠ except_) && directHolds s.router.directs[n] dest

/-- The samples a channel sends in the tick that ends, from the input positions of that tick (R310): input position p goes out
at position p + 1. Answers the block and the number of saturated samples (R65); a tick that mixes samples of two source ticks is
valid when both are (DESIGN CHOICE, log 143). -/
def directBlk (d : Direct) (x : Blk) : Blk × Nat :=
  let inp := (d.last :: x.samples).take x.samples.length
  let v := inp.mapIdx fun i a => scaleSample a (d.gain.linAt (d.gain.j + i + 1))
  ({ samples := v.map (·.1), valid := d.lastValid && x.valid, ramp := false }, (v.filter (·.2)).length)

/-- A source as the channel takes it up: the next sample sent is the last one of the source's block (R64, R310). -/
def Direct.takes (d : Direct) (x : Blk) : Direct := { d with last := x.samples.getLastD 0, lastValid := x.valid }

/-- The direct path over the tick that ends: each channel's output, its gain ramp, and the takeover or release at the end of a
ramp to mute (R64). -/
def directTick (s : State) (d : Direct) : Direct × Nat :=
  match d.ends with
  | none => ({ d with out := { samples := [], valid := false, ramp := false } }, 0)
  | some e =>
    let x := sourceBlk s e.1.toNat
    let r := directBlk d x
    let d1 := { d.takes x with out := r.1, gain := d.gain.advance (spt s), left := d.left - spt s }
    let ended : Bool := d1.left = 0
    let d2 := match d1.next with
      | some nx => if ended then { d1.takes (sourceBlk s nx.source.toNat) with
                                     ends := some (nx.source, nx.dest), next := none,
                                     gain := d1.gain.rampTo nx.gain nx.n } else d1
      | none => if d1.releasing && ended then { d1 with ends := none, releasing := false, gain := Gain.mute } else d1
    (d2, r.2)

/-- The direct path at a boundary: it sends from the samples handed over, saturating samples are counted (R65). -/
def runDirects (s : State) : State :=
  let r := s.router.directs.toList.map (directTick s)
  let sat := r.foldl (fun a x => a + x.2) 0
  countFlag Reg.directSatCount Reg.routerSatStat 1 sat
    { s with router := { s.router with directs := vgen 64 fun n => (directTick s s.router.directs[n]).1 } }

/-- DIRECT_SET at its boundary (R64): `x` is the source's block handed over at it. A ramp to mute before a change or a release
takes its N samples from mute too (R64, R55; DEDUCED, log 19). -/
def directChange (d : Direct) (source dest : BitVec 16) (gain : Word) (n : Nat) (x : Blk) : Direct :=
  match d.ends with
  | none =>
    if epNull source then d
    else { d.takes x with ends := some (source, dest), gain := Gain.mute.rampTo gain n, next := none, releasing := false,
                          left := 0 }
  | some e =>
    if epNull source then
      if n = 0 then { d with ends := none, gain := Gain.mute, next := none, releasing := false, left := 0 }
      else { d with gain := d.gain.rampTo d.gain.muteWord n, next := none, releasing := true, left := n }
    else if e = (source, dest) then { d with gain := d.gain.rampTo gain n, next := none, releasing := false, left := 0 }
    else if n = 0 then
      { d.takes x with ends := some (source, dest), gain := Gain.ofWord gain, next := none, releasing := false, left := 0 }
    else { d with gain := d.gain.rampTo d.gain.muteWord n,
                  next := some { source := source, dest := dest, gain := gain, n := n }, releasing := false, left := n }

/-- Apply a DIRECT_SET: answers the refusal found at the boundary, if any (R62). -/
def applyDirect (ch : Fin 64) (source dest : BitVec 16) (gain : Word) (ms : Nat) (s : State) : Option Nat × State :=
  if !epNull source && ((mapGet s.router.routes dest.toNat).isSome || directOwned s dest (some ch)) then (some 0x42, s)
  else
    let n := rampSamples (fs s) (spt s) ms
    (none, { s with router := { s.router with
      directs := vset s.router.directs ch (directChange s.router.directs[ch] source dest gain n
        (sourceBlk s source.toNat)) } })

/-- DIRECT_ACTIVE: the channels that hold an endpoint (R66). -/
def directActive (s : State) (lo : Nat) : Word :=
  BitVec.ofNat 32 ((List.range 32).foldl (fun a i =>
    a + (match vget? s.router.directs (lo + i) with | some d => bitAt d.ends.isSome i | none => 0)) 0)

/-! ### Meters -/

/-- The magnitude of a sample; 0x8000_0000 counts as 0x7FFF_FFFF (R69). -/
def magnitude (x : Sample) : Nat := min (2 ^ 31 - 1) x.toInt.natAbs

/-- Do the pending clears at a boundary (R70). -/
def meterClears (s : State) : State :=
  let idx := if s.router.meterClearAll then List.range 1024 else s.router.meterClears
  let regs' := idx.foldl (fun m e => mapErase m (Reg.meterPeak e)) s.regs
  { s with regs := regs', router := { s.router with meterClearAll := false, meterClears := [] } }

/-- The meters whose source exists: index and source (R69). -/
def activeMeters (s : State) : List (Nat × Nat) :=
  s.regs.filterMap fun e =>
    if Reg.meterSrc 0 ≤ e.1 ∧ e.1 < Reg.meterSrc 1024 ∧ srcExists s (BitVec.ofNat 16 e.2.toNat)
    then some ((e.1 - Reg.meterSrc 0) / 4, e.2.toNat % 65536) else none

/-- One meter takes the samples of a tick (R69). -/
def meterTake (s : State) (m : Nat × Nat) : State :=
  let b := sourceBlk s m.2
  regMod (Reg.meterPeak m.1) (fun w =>
    if b.valid then setFld w 30 0 (b.samples.foldl (fun a x => max a (magnitude x)) (fld w 30 0))
    else w ||| 0x80000000) s

/-- The meters at a boundary (R69, R70). -/
def runMeters (s : State) : State :=
  let s1 := meterClears s
  let act := activeMeters s1
  let s2 := if regBit s1 Reg.meterCtrl 0 then act.foldl meterTake s1 else s1
  regSet Reg.meterStat (BitVec.ofNat 32 act.length) s2

/-- METER_CTRL written: ENABLE, and CLEAR asked for the next boundary (R70, R71). -/
def writeMeterCtrl (v : Word) (s : State) : State :=
  let s1 := regSet Reg.meterCtrl (setFld 0 0 0 (fld v 0 0)) s
  if flag v 1 then { s1 with router := { s1.router with meterClearAll := true } } else s1

/-- METER_SRC_e written: the meter is cleared at the next boundary and takes its new source from there on (R70). -/
def writeMeterSrc (e : Fin 1024) (v : Word) (s : State) : State :=
  let s1 := regSet (Reg.meterSrc e) (setFld 0 15 0 (fld v 15 0)) s
  { s1 with router := { s1.router with meterClears := e.val :: s1.router.meterClears.filter (· ≠ e.val) } }

/-! ### The commands -/

/-- Entries in use or reserved, and whether a destination has one (R39). -/
def hasEntry (s : State) (dest : Nat) : Bool := (mapGet s.router.routes dest).isSome

/-- Allocate the entry of a destination at acceptance (R39). -/
def allocEntry (dest : Nat) (s : State) : State := if hasEntry s dest then s else setTaps dest [] s

/-- The destinations a list of entries newly needs, without repeats. -/
def newDests (s : State) (l : List RouteAct) : List Nat :=
  (((l.filter RouteAct.needsEntry).map fun a => a.dest.toNat).eraseDups).filter fun d => !hasEntry s d

/-- Refusals of route entries at acceptance: ENDPOINT_OWNED (R62), then ROUTER_FULL (R39, R52). -/
def routeRefusal (l : List RouteAct) (s : State) : Option (Nat × Nat) :=
  if l.any fun a => directOwned s a.dest none then some (0x42, 0)
  else if destMax s < s.router.routes.length + (newDests s l).length then some (0x40, 0) else none

/-- The checks of one route entry (R36, R44, R48): the entry with its law and ramp resolved; none when invalid. -/
def routeEntryOf (s : State) (dest : BitVec 16) (input : Nat) (law : Option Bool) (source : BitVec 16) (ms : Option Nat)
    (gain : Word) : Option RouteAct :=
  match toFin? 4 input, law, ms with
  | some i, some p, some m =>
    if dstExists s dest && (epNull source || srcExists s source) && gainWordValid gain
    then some { dest := dest, input := i, source := source, power := p, ms := m, gain := gain } else none
  | _, _, _ => none

/-- ROUTE_SET (R48, R49, R57). -/
def execRouteSet (h : CmdHdr) (a : RouteSetArgs) (s : State) : Host.Outcome State Fault Refusal :=
  match routeEntryOf s a.dest a.input.toNat (lawField s a.law) a.source (rampField s 1000 a.rampMs) a.gain with
  | none => .next (badTimed h s)
  | some e => .next (timedCmd h a.tick false (routeRefusal [e])
      (fun _ _ s => if e.needsEntry then allocEntry e.dest.toNat s else s) (.routeSet e) s)

/-- GAIN_SET (R50, R55, R56). -/
def execGainSet (h : CmdHdr) (a : GainSetArgs) (s : State) : Host.Outcome State Fault Refusal :=
  match toFin? 4 a.input.toNat, rampField s 10000 a.rampMs with
  | some i, some ms =>
    .next (timedCmd h a.tick (!(dstExists s a.dest && gainWordValid a.gain))
      (fun s => if directOwned s a.dest none then some (0x42, 0) else none) noPre (.gainSet a.dest i a.gain ms) s)
  | _, _ => .next (badTimed h s)

/-- ROUTE_CLEAR (R50). -/
def execRouteClear (h : CmdHdr) (a : RouteClearArgs) (s : State) : Host.Outcome State Fault Refusal :=
  match lawField s a.law, rampField s 1000 a.rampMs with
  | some p, some ms => .next (timedCmd h a.tick (!dstExists s a.dest) noRefusal noPre (.routeClear a.dest p ms) s)
  | _, _ => .next (badTimed h s)

/-- One list entry of a ROUTE_BATCH from its bytes (R51): version 2 in native mode, version 1 in forerunner mode. -/
def batchEntry (s : State) (v2 : Bool) (b : List Byte) : Option RouteAct :=
  let at2 (o : Nat) : Nat := ofLe ((b.drop o).take 2)
  let dest := BitVec.ofNat 16 (at2 0)
  let source := BitVec.ofNat 16 (at2 2)
  if v2 then
    let law := at2 4 / 256
    if law < 4 ∧ ofLe ((b.drop 12).take 4) = 0 then
      routeEntryOf s dest (at2 4 % 256) (lawField s (BitVec.ofNat 2 law)) source
        (rampField s 1000 (BitVec.ofNat 16 (at2 6))) (BitVec.ofNat 32 (ofLe ((b.drop 8).take 4)))
    else none
  else
    let ctrl := at2 6
    if ctrl / 8 = 0 then
      routeEntryOf s dest (ctrl % 4) (lawField s 0) source (rampField s 1000 0xFFFF)
        (BitVec.ofNat 32 (at2 4 + bitAt (bitOf ctrl 2) 16))
    else none

/-- The entry list of a ROUTE_BATCH in host memory; none if any entry is invalid (R52). -/
def batchList (s : State) (v2 : Bool) (addr : Nat) : Nat → Option (List RouteAct)
  | 0 => some []
  | n + 1 =>
    let w := if v2 then 16 else 8
    match batchEntry s v2 (hostRead s addr w), batchList s v2 (addr + w) n with
    | some e, some l => some (e :: l)
    | _, _ => none

/-- ROUTE_BATCH (R51, R52): the list is read and checked before it is accepted; host data cannot be read while the DMA engine
is halted (R403). -/
def execRouteBatch (h : CmdHdr) (a : RouteBatchArgs) (s : State) : Host.Outcome State Fault Refusal :=
  let s1 := hostStores h.stores s
  let v2 := !s.power.compat
  let n := a.count.toNat
  let shape : Bool := aligned8 a.addr && decide (1 ≤ n) && decide (n ≤ 4096) && decide (a.version.toNat = if v2 then 2 else 1)
  if shape && dmaHalted s then .next (busTimed h s)
  else
    match (if shape then batchList s1 v2 a.addr.toNat n else none) with
    | none => .next (badTimed h s)
    | some l => .next (timedCmd h a.tick false (routeRefusal l)
        (fun _ _ s => (newDests s l).foldl (fun s d => allocEntry d s) s)
        (.routeBatch l) s)

/-- ROUTE_QUERY (R53): its result is taken at the next boundary. -/
def execRouteQuery (h : CmdHdr) (dest : BitVec 16) (resultAddr : BitVec 64) (s : State) : Host.Outcome State Fault Refusal :=
  .next (untimedCmd h (!dstExists s dest)
    (fun t s => { s with router := { s.router with
      queries := s.router.queries ++ [{ ticket := t, dest := dest, addr := resultAddr }] } }) s)

/-- The 64-byte result of a ROUTE_QUERY (R53); the held taps stand in TAP_0 on in the order of the model's list (DESIGN CHOICE,
log 141). -/
def routeResult (s : State) (dest : BitVec 16) : List Byte :=
  let taps := routeTaps s dest.toNat
  let invalid := hasEntry s dest.toNat && !destValid s taps
  let tap (t : Tap) : List Byte := leBytes 2 t.source.toNat ++ leBytes 1 t.input.val ++ leBytes 1 t.code ++
    leBytes 4 t.gain.word.toNat ++ leBytes 4 t.factor
  let left := taps.foldl (fun a t => max a (max (t.n - t.j) (t.gain.n - t.gain.j))) 0
  leBytes 2 dest.toNat ++ leBytes 1 taps.length ++
    leBytes 1 (bitAt (hasEntry s dest.toNat) 0 + bitAt invalid 1) ++
    ((taps.flatMap tap) ++ List.replicate 48 0).take 48 ++ leBytes 4 left ++ leBytes 8 0

/-- Answer the ROUTE_QUERYs at a boundary, after the sources of the tick have been handed over. -/
def runRouteQueries (s : State) : State :=
  s.router.queries.foldl (fun s q => resultThen q.ticket q.addr.toNat (routeResult s q.dest) St.ok s)
    { s with router := { s.router with queries := [] } }

/-- DIRECT_SET (R61–R64). -/
def execDirectSet (h : CmdHdr) (a : DirectSetArgs) (s : State) : Host.Outcome State Fault Refusal :=
  match toFin? 64 a.channel.toNat, rampField s 1000 a.rampMs with
  | some ch, some ms =>
    let null := epNull a.source
    .next (timedCmd h a.tick (!(gainWordValid a.gain && (null || (directSource s a.source && directDest s a.dest))))
      (fun s =>
        if null then none
        else if !(directSync s false a.source && directSync s true a.dest) then some (0x43, 0)
        else if hasEntry s a.dest.toNat || directOwned s a.dest (some ch) then some (0x42, 0) else none)
      noPre (.directSet ch a.source a.dest a.gain ms) s)
  | _, _ => .next (badTimed h s)

/-- TESTGEN_SET (R60). -/
def execTestgenSet (h : CmdHdr) (a : TestgenSetArgs) (s : State) : Host.Outcome State Fault Refusal :=
  match toFin? 16 a.gen.toNat with
  | some g =>
    let w := a.wave.toNat
    let bad : Bool := decide (3 < w) || !gainWordValid a.level ||
      (decide (w = 1) && !(decide (1 ≤ a.freq.toNat) && decide (a.freq.toNat ≤ 500 * fs s))) ||
      (decide (w = 2) && decide (a.seed = 0))
    .next (timedCmd h a.tick bad noRefusal noPre (.testgenSet g a) s)
  | none => .next (badTimed h s)

end Sys2Proof.Machine
end

