-- ==== Sys2Proof/Machine/Switch.lean ====
section
/-!
DEFINITION. The switch tables (R194–R198, R202): departure times and the offset rule, the search for a slot, entries and what
they carry, and the slots waiting to be sent.
-/
namespace Sys2Proof.Machine

/-! ### Times -/

/-- One nanosecond in the unit 1/(6,800·fs) ns, in which the tick, the sub-frame, the block of R163 (1,056/425 ns) and RX_OFFSET
are whole numbers. -/
def unitNs (s : State) : Nat := 16 * fs s * 425

/-- One tick in that unit. -/
def unitTick (s : State) : Nat := spt s * 1000000000 * 16 * 425

/-- Slots per sub-frame (R166). -/
def slotsPerSub (s : State) : Nat := byBand s 896 448 224

/-- Slots per tick on a link (R166). -/
def slotsPerTick (s : State) : Nat := 16 * slotsPerSub s

/-- Bytes of a slot (R166). -/
def slotBytes (s : State) : Nat := if s.power.compat then 34 else 18

/-- dep(i) of R169 and R194 in the unit of `unitNs`. -/
def depUnits (s : State) (i : Nat) : Nat :=
  (i / slotsPerSub s) * (unitTick s / 16) + (1 + slotBytes s * (i % slotsPerSub s) / 8) * 1056 * 16 * fs s

/-- A time in 1/16 ns in the unit of `unitNs`. -/
def ofSixteenth (s : State) (x : Int) : Int := x * ((fs s * 425 : Nat) : Int)

/-- A time in the unit of `unitNs` as whole ns, to the nearest (DEDUCED, log 41). -/
def nsNearest (s : State) (u : Int) : Nat := (roundDiv u (unitNs s)).toNat

/-- A time in the unit of `unitNs` as whole ns, rounded up (R196). -/
def nsUp (s : State) (u : Int) : Nat := (-((-u) / (unitNs s : Int))).toNat

/-- The ticks from the source's boundary to the drop: max(1, ceil(L / T_tick)) (R196). -/
def dropTicks (s : State) (l : Nat) : Nat := max 1 (ceilDiv (l * unitNs s) (unitTick s))

/-- floor(T_tick) in ns (R200). -/
def tickNs (s : State) : Nat := spt s * 1000000000 / fs s

/-! ### Entries -/

/-- The key of an incoming entry and of an outgoing slot. -/
def slotKey (link slot : Nat) : Nat := link * 16384 + slot

/-- The key of an add entry. -/
def addKey (addCh : BitVec 12) (copy : Bool) : Nat := addCh.toNat * 2 + b2n copy

/-- Change the switch. -/
def fab (f : Fabric → Fabric) (s : State) : State := { s with fabric := f s.fabric }

/-- Every entry of the node. -/
def allEntries (s : State) : List SwEntry := s.fabric.incoming.map (·.2) ++ s.fabric.add.map (·.2)

/-- The entry that holds an outgoing slot, if any (R197). -/
def slotHolder (s : State) (link : Fin 16) (slot : Nat) : Option SwEntry :=
  (allEntries s).find? fun e => e.fwd = some (link, slot)

/-- An entry of the path (SRC_ID, ADD_CH, COPY) (R197). -/
def SwEntry.ofPath (e : SwEntry) (src addCh : BitVec 12) (copy : Bool) : Bool :=
  decide (e.srcId = src) && decide (e.addCh = addCh) && decide (e.copy = copy)

/-- An entry forwards to a link. -/
def SwEntry.toLink (e : SwEntry) (n : Fin 16) : Bool := match e.fwd with | some x => x.1 = n | none => false

/-- The free slots of a link with their earliest departures d ≥ t (R195, R202), in the unit of `unitNs`; the least d wins. -/
def chooseSlot (s : State) (o : Fin 16) (t : Int) : Option (Nat × Int) :=
  let held := ((allEntries s).filter fun e => e.toLink o).filterMap fun e => e.fwd.map (·.2)
  let tick : Int := unitTick s
  (List.range (slotsPerTick s)).foldl (fun best i =>
    if held.contains i then best
    else
      let dep : Int := depUnits s i
      let d := if t ≤ dep then dep else dep + (-((dep - t) / tick)) * tick
      match best with
      | none => some (i, d)
      | some b => if d < b.2 then some (i, d) else best) none

/-- The copy of a drop channel is held by another path, or its other copy belongs to another stream (R197, R202). -/
def dropTaken (s : State) (dropCh src addCh : BitVec 12) (copy : Bool) : Bool :=
  (allEntries s).any fun e => e.drop && decide (e.dropCh = dropCh) &&
    (decide (e.copy = copy) || !(decide (e.srcId = src) && decide (e.addCh = addCh)))

/-- Slots held by the paths this node originates (R209). -/
def slotsHeld (s : State) : Nat := s.fabric.paths.foldl (fun a p => a + p.hops) 0

/-- FSW_USE follows the paths (R209). -/
def updateUse (s : State) : State := regSet Reg.fswUse (BitVec.ofNat 32 (slotsHeld s)) s

/-- Free an incoming entry at once, with the slots it fed (R180). -/
def freeIncoming (key : Nat) (s : State) : State :=
  match mapGet s.fabric.incoming key with
  | none => s
  | some e => fab (fun f => { f with
      incoming := mapErase f.incoming key,
      out := match e.fwd with
        | some x => f.out.filter fun o => o.1 % (16 * 16384) ≠ slotKey x.1 x.2
        | none => f.out }) s

/-- Free an add entry at once. -/
def freeAdd (key : Nat) (s : State) : State :=
  match mapGet s.fabric.add key with
  | none => s
  | some e => fab (fun f => { f with
      add := mapErase f.add key,
      out := match e.fwd with
        | some x => f.out.filter fun o => o.1 % (16 * 16384) ≠ slotKey x.1 x.2
        | none => f.out }) s

/-- Let an incoming entry go at the first boundary from tick `at_` on; a tentative one is freed at once (R198, R204, R207). -/
def releaseIncoming (key at_ : Nat) (s : State) : State :=
  match mapGet s.fabric.incoming key with
  | none => s
  | some e =>
    if e.state = .tentative then freeIncoming key s
    else fab (fun f => { f with incoming := mapPut f.incoming key { e with state := .releasing, freeAt := at_ } }) s

/-- Let an add entry go at the first boundary from tick `at_` on. -/
def releaseAdd (key at_ : Nat) (s : State) : State :=
  match mapGet s.fabric.add key with
  | none => s
  | some e =>
    if e.state = .tentative then freeAdd key s
    else fab (fun f => { f with add := mapPut f.add key { e with state := .releasing, freeAt := at_ } }) s

/-- The record of a path this node originates. -/
def pathRec (s : State) (addCh : BitVec 12) (copy : Bool) : Option PathRec :=
  s.fabric.paths.find? fun p => decide (p.addCh = addCh) && decide (p.copy = copy)

/-- Change the record of a path. -/
def setPath (addCh : BitVec 12) (copy : Bool) (g : PathRec → PathRec) (s : State) : State :=
  let hit (p : PathRec) : Bool := decide (p.addCh = addCh) && decide (p.copy = copy)
  fab (fun f => { f with paths := f.paths.map fun p => if hit p then g p else p }) s

/-- Remove a path and credit its slots (R209). -/
def removePath (addCh : BitVec 12) (copy : Bool) (s : State) : State :=
  updateUse (fab (fun f => { f with paths := f.paths.filter fun p => !(decide (p.addCh = addCh) && decide (p.copy = copy)) }) s)

/-! ### Slots -/

/-- The FLAGS byte of a slot (R168). -/
def slotFlags (valid ramp newGen : Bool) (gen : BitVec 2) : Byte :=
  BitVec.ofNat 8 (bitAt valid 0 + bitAt ramp 1 + bitAt newGen 2 + gen.toNat * 8)

def Slot.valid (x : Slot) : Bool := x.flags.getLsbD 0
def Slot.ramp (x : Slot) : Bool := x.flags.getLsbD 1
def Slot.gen (x : Slot) : BitVec 2 := BitVec.ofNat 2 (x.flags.toNat / 8)

/-- The bytes a slot's CRC covers (R168). -/
def slotData (samples : List Sample) (flags : Byte) : List Byte := (samples.flatMap fun x => leBytes 4 x.toNat) ++ [flags]

/-- A slot with a correct CRC. -/
def slotOf (samples : List Sample) (flags : Byte) : Slot :=
  { samples := samples, flags := flags, crc := crc8 (slotData samples flags) }

/-- A slot as forwarded (R198): VALID cleared when it is invalid, and the CRC recomputed when FLAGS changes. -/
def Slot.forwarded (x : Slot) (ok : Bool) : Slot :=
  if !ok && x.valid then slotOf x.samples (x.flags &&& 0xFE) else x

/-- The key of a slot waiting to be sent in a tick. -/
def outKey (tick : Nat) (link slot : Nat) : Nat := (tick * 16 + link) * 16384 + slot

/-- Put a slot into the frame of a tick. -/
def putOut (tick : Nat) (link slot : Nat) (x : Slot) (s : State) : State :=
  fab (fun f => { f with out := mapPut f.out (outKey tick link slot) x }) s

/-- The slots sent in sub-frame j of a link (R165, R170, R198): those put there whose outgoing slot is held by an entry that
carries. A slot not listed is sent unfilled. -/
def slotsToSend (s : State) (n : Fin 16) (j : Nat) : List (Nat × Slot) :=
  let k := slotsPerSub s
  (s.fabric.out.filter fun o =>
    decide (outKey (now s) n (j * k) ≤ o.1) && decide (o.1 < outKey (now s) n (j * k) + k) &&
      (match slotHolder s n (o.1 % 16384) with | some e => e.carry | none => false)).map fun o => (o.1 % 16384, o.2)

/-- A received slot at its entry (R195, R198): forwarded into the outgoing slot of this tick or of a later one, and kept for
its drop channel under the source's tick. -/
def switchSlot (n : Fin 16) (slot : Nat) (x : Slot) (ok : Bool) (s : State) : State :=
  match mapGet s.fabric.incoming (slotKey n slot) with
  | none => s
  | some e =>
    if !e.carry then s else
    let l := s.links[n]
    let y := x.forwarded ok
    let s1 := match e.fwd with
      | none => s
      | some o =>
        let a := ofSixteenth s l.rxOfs + (depUnits s slot : Int) + ((1000 * unitNs s : Nat) : Int)
        let late := a - (depUnits s o.2 : Int)
        let k := if late ≤ 0 then 0 else ceilDiv late.toNat (unitTick s)
        putOut (l.rxBase + k) o.1 o.2 y s
    if e.drop && decide (e.steps ≤ l.rxBase) then
      let m := l.rxBase - e.steps
      fab (fun f =>
        let d := (mapGet f.drops e.dropCh.toNat).getD
          { a := [], b := [], gen := none, conceal := Conceal.reset, lastTick := none, point := e.late }
        let d1 := if e.copy then { d with b := mapPut d.b m y } else { d with a := mapPut d.a m y }
        { f with drops := mapPut f.drops e.dropCh.toNat d1 }) s1
    else s1

/-! ### The switch at a boundary -/

/-- The kerf (R198, R207): entries whose release is due are freed, and every other entry carries from here on exactly when it
is active. -/
def switchKerf (s : State) : State :=
  let step (l : List (Nat × SwEntry)) : List (Nat × SwEntry) :=
    (l.filter fun e => !(decide (e.2.state = .releasing) && decide (e.2.freeAt ≤ now s))).map fun e =>
      (e.1, { e.2 with carry := decide (e.2.state = .active) })
  fab (fun f => { f with incoming := step f.incoming, add := step f.add,
                         out := f.out.filter fun o => decide (now s ≤ o.1 / (16 * 16384)) }) s

/-- The GEN and NEWGEN of an add entry's next slot (R211, R213). -/
def genOf (s : State) (key : Nat) : BitVec 2 × Bool :=
  match pathRec s (BitVec.ofNat 12 (key / 2)) (decide (key % 2 = 1)) with
  | none => (0, false)
  | some p => (p.gen, decide ((mapGet s.fabric.lastGen key) ≠ some p.gen) || s.fabric.newGen.contains key)

/-- A slot bears NEWGEN with a generation. -/
def Slot.announces (x : Slot) (gen : BitVec 2) : Bool := x.flags.getLsbD 2 && decide (x.gen = gen)

/-- The frame of this tick carries a slot of an add entry that departs under 1.0 µs, put there a tick ago, with its NEWGEN. -/
def toldLate (s : State) (e : Nat × SwEntry) : Bool :=
  match e.2.fwd with
  | none => false
  | some o => e.2.carry && decide (depUnits s o.2 < 1000 * unitNs s) &&
      ((mapGet s.fabric.out (outKey (now s) o.1 o.2)).elim false fun x => x.announces (genOf s e.1).1)

/-- The frame of this tick carries an add entry's NEWGEN, if it owes one. -/
def toldNow (s : State) (e : Nat × SwEntry) : Bool :=
  match e.2.fwd with
  | none => false
  | some o => if 1000 * unitNs s ≤ depUnits s o.2 then e.2.carry else toldLate s e

/-- Put the values handed to the add channels at this boundary into their outgoing slots (R194, R198); a node that stands
aside or is halted sends them invalid (R459, R460). NEWGEN is owed until a frame has carried it (R211, R213). -/
def addSlots (invalid : Bool) (s : State) : State :=
  let sent := s.fabric.add.filter (toldNow s)
  let s1 := s.fabric.add.foldl (fun st e =>
    match e.2.fwd with
    | none => st
    | some o =>
      let b := deliveredBlk s (ep 1 (e.1 / 2))
      let g := genOf s e.1
      let k := if 1000 * unitNs s ≤ depUnits s o.2 then 0 else 1
      putOut (now s + k) o.1 o.2 (slotOf b.samples (slotFlags (b.valid && !invalid) b.ramp (g.2 && !toldLate s e) g.1)) st) s
  fab (fun f => { f with
    lastGen := sent.foldl (fun m e => mapPut m e.1 (genOf s e.1).1) f.lastGen,
    newGen := f.newGen.filter fun c => !(sent.any fun e => decide (e.1 = c)) }) s1

/-- The active copies of a drop channel (R210). -/
def dropEntries (s : State) (ch : Nat) : List SwEntry :=
  (s.fabric.incoming.map (·.2)).filter fun e => e.drop && decide (e.dropCh.toNat = ch) && decide (e.state = .active)

/-- One drop channel at boundary K (R210–R213): its block, the events it counts (from B, hold, older copies) and its state;
none when it has no copy and has fallen silent. -/
def dropTick (s : State) (ch : Nat) (d : DropCh) : Option (Blk × (Bool × Bool × Nat) × DropCh) :=
  let es := dropEntries s ch
  let point := if es = [] then d.point else es.foldl (fun a e => max a e.late) 1
  let m := now s - point
  let fresh := match d.lastTick with | some t => decide (t < m) | none => true
  let get (copy : Bool) (buf : List (Nat × Slot)) : Option Slot :=
    if fresh && decide (point ≤ now s) && es.any (fun e => e.copy = copy) then
      (mapGet buf m).filter Slot.valid else none
  let a := get false d.a
  let b := get true d.b
  let all := a.toList ++ b.toList
  let g := match d.gen, all with
    | none, x :: _ => some x.gen
    | none, [] => none
    | some g, _ => if all.any fun x => x.gen = g + 1 then some (g + 1) else some g
  let old (x : Slot) : Bool := match g with | some g => decide (x.gen = g + 2) || decide (x.gen = g + 3) | none => false
  let ua := a.filter fun x => !old x
  let ub := b.filter fun x => !old x
  let n := rampSamples (fs s) (spt s) 1
  let hold := regFld s Reg.fswCtrl 15 8
  let rest (c : Conceal) : DropCh :=
    { a := d.a.filter fun x => decide (m < x.1), b := d.b.filter fun x => decide (m < x.1), gen := g, conceal := c,
      lastTick := if fresh then some m else d.lastTick, point := point }
  match ua <|> ub with
  | some x =>
    let r := d.conceal.take hold (spt s) n x.samples
    some ({ samples := r.1, valid := true, ramp := x.ramp }, (ua.isNone, false, (all.filter old).length), rest r.2)
  | none =>
    if es = [] ∧ hold + n / spt s ≤ d.conceal.bad then none
    else
      let r := d.conceal.lose hold (spt s) n
      some ({ samples := r.1, valid := false, ramp := false }, (false, true, (all.filter old).length), rest r.2)

/-- The drop channels at a boundary: class 0x0 sources, and the counters of R226. -/
def runDrops (s : State) : State :=
  let chans := (s.fabric.drops.map (·.1) ++ ((s.fabric.incoming.filter fun e =>
    e.2.drop && decide (e.2.state = .active)).map fun e => e.2.dropCh.toNat)).eraseDups
  let blank : DropCh := { a := [], b := [], gen := none, conceal := Conceal.reset, lastTick := none, point := 1 }
  let r := chans.map fun c => (c, dropTick s c ((mapGet s.fabric.drops c).getD blank))
  let live := r.filterMap fun x => x.2.map fun y => (x.1, y)
  let keep := s.router.store.filter fun e => e.1 / 4096 ≠ 0
  let s1 : State := { s with
    router := { s.router with store := live.foldl (fun m x => mapPut m (ep 0 x.1) x.2.1) keep },
    fabric := { s.fabric with drops := live.foldl (fun m x => mapPut m x.1 x.2.2.2) [] } }
  let nb := (live.filter fun x => x.2.2.1.1).length
  let nh := (live.filter fun x => x.2.2.1.2.1).length
  let no := live.foldl (fun a x => a + x.2.2.1.2.2) 0
  countFlag Reg.fswGenOldCount Reg.fswSelStat 2 no
    (countFlag Reg.fswHoldTicks Reg.fswSelStat 1 nh (countFlag Reg.fswBTicks Reg.fswSelStat 0 nb s1))

end Sys2Proof.Machine
end

