-- ==== Sys2Proof/Machine/LinkOps.lean ====
section
/-!
DEFINITION. What the links do beside their commands (R163–R187, R208): going DOWN, quarantine, lost paths, discovery, node IDs,
the attach handshake, and the handling of received cells by their MODE (R174).
-/
namespace Sys2Proof.Machine

/-- The code of a link state (R176). -/
def LinkSt.code : LinkSt → Nat
  | .down => 0 | .training => 1 | .discovered => 2 | .attached => 3 | .quarantined => 4

/-- ENABLE of LINK_CTRL (R192). -/
def linkEnabled (s : State) (n : Fin 16) : Bool := regBit s (Reg.linkCtrl n) 0

/-- Bytes `[o, o + k)` of a cell's body as a number; offsets count from the cell's start (0x14 is the first body byte). -/
def bodyN (c : Cell) (o k : Nat) : Nat := ofLe ((c.body.drop (o - 0x14)).take k)

/-- Bytes of a DISCOVER body as a number, by cell offset. -/
def discN (b : List Byte) (o k : Nat) : Nat := ofLe ((b.drop (o - 0x14)).take k)

/-- The partner's EUI-64, node ID and link number, 0 before a DISCOVER has been received. -/
def peerEui (l : Link) : Nat := l.partner.elim 0 fun b => discN b 0x14 8
def peerId (l : Link) : BitVec 12 := BitVec.ofNat 12 (l.partner.elim 0 fun b => discN b 0x1C 2)
def peerLink (l : Link) : Nat := l.partner.elim 0 fun b => discN b 0x1E 1 % 16

/-- Enter a state: the tick of the change is kept and the change is reported (R180, R190, R380). -/
def setLinkState (n : Fin 16) (x : LinkSt) (s : State) : State :=
  let l := s.links[n]
  if l.state = x then s
  else report 0x0301 n ([BitVec.ofNat 8 x.code, BitVec.ofNat 8 l.state.code] ++ List.replicate 6 0 ++ leBytes 8 (peerEui l))
    (linkMod n (fun l => { l with state := x, changeTick := now s }) s)

/-! ### Lost paths -/

/-- A one-hop source-routed cell to the partner of a link (R208, R224, R225). -/
def sendOneHop (n : Fin 16) (ty : Nat) (src : BitVec 12) (body : List Byte) (s : State) : State :=
  let q := takeSeq s
  let c : Cell := { ty := BitVec.ofNat 8 ty, mode := 1, hop := 1, hops := 1, src := src, dst := peerId s.links[n], seq := q.1,
                    route := BitVec.ofNat 64 n.val, body := (body ++ List.replicate (40 - body.length) 0).take 40 }
  if attached q.2 n then queueCell n c q.2 else cellDrop n q.2

/-- The body of a PATH_BROKEN (R201, R208). R208 states no value of the fields that an entry does not hold (GEN, RESULT, TAP_MASK,
LIMIT_NS, ACC_NS, TICK_LO, SLOT, RET_LINKS): they are the free value `f` (DESIGN CHOICE, log 46). -/
def brokenBody (e : SwEntry) (f : Nat) : List Byte :=
  leBytes 2 e.addCh.toNat ++ leBytes 1 (b2n e.copy + f % 4 * 2) ++ leBytes 1 (f / 2 ^ 2) ++ leBytes 2 e.dropCh.toNat ++
    leBytes 1 (f / 2 ^ 10) ++ [0] ++ leBytes 12 (f / 2 ^ 18) ++
    (List.range 8).flatMap (fun h => leBytes 2 (f / 2 ^ (114 + 14 * h) % 2 ^ 14)) ++ leBytes 4 (f / 2 ^ 226)

/-- Send a PATH_BROKEN for an entry on a link. -/
def sendBroken (n : Fin 16) (e : SwEntry) (s : State) : State :=
  let f := freshFree 258 s
  sendOneHop n 0x13 e.srcId (brokenBody e f.1) f.2

/-- A path that this node originates is lost (R208): its entry is freed, its slots are credited and PATH_LOST is reported. A
reservation in progress waits for its answer or its timeout. -/
def losePath (addCh : BitVec 12) (copy : Bool) (s : State) : State :=
  let s1 := releaseAdd (addKey addCh copy) (now s + 1) s
  match pathRec s addCh copy with
  | none => s1
  | some p => if p.reserving then s1
    else report 0x0303 0 (leBytes 2 addCh.toNat ++ leBytes 1 (b2n copy)) (removePath addCh copy s1)

/-- Free every entry that uses a link and send the PATH_BROKENs (R180, R208): toward the source where the outgoing link is
lost, toward the destination where the incoming one is. -/
def breakEntries (n : Fin 16) (s : State) : State :=
  let inc := s.fabric.incoming.filter fun e => decide (e.1 / 16384 = n.val) || e.2.toLink n
  let add := s.fabric.add.filter fun e => e.2.toLink n
  let s1 := inc.foldl (fun s e =>
    let s2 := freeIncoming e.1 s
    if e.1 / 16384 ≠ n.val then
      sendBroken ⟨e.1 / 16384 % 16, Nat.mod_lt _ (by decide)⟩ e.2 s2
    else match e.2.fwd with
      | some o => if o.1 ≠ n then sendBroken o.1 e.2 s2 else s2
      | none => s2) s
  add.foldl (fun s e => losePath (BitVec.ofNat 12 (e.1 / 2)) (decide (e.1 % 2 = 1)) s) s1

/-! ### Going down, quarantine -/

/-- What the end of a link forgets when it leaves framed operation. -/
def Link.dropped (l : Link) : Link :=
  { l with phase := 0, blockLock := false, align := false, partnerAligned := false, partnerQuarantine := false,
           partnerDetaching := false, markerRun := 0, misses := 0, sfBad := false, train := TrainOut.reset, readySeen := 0,
           handover := false, framed := false, wantAttach := false, reqOpen := false, attachDue := false, rejected := false,
           formatMismatch := false, versionMismatch := false, selfLoop := false, heard := false, discoverDue := false,
           detachAt := none, detaching := false, sentBody := [], rxOfs := 0, berCount := 0, q0 := [], q1 := [], q2 := [] }

/-- A link goes DOWN (R180): its entries and the slots they fed go, its queued cells are discarded, DOWN_COUNT counts it and
LINK_DOWN is raised, each unless the way of going down excepts it (R186, R189, R192). -/
def linkDown (n : Fin 16) (count fault : Bool) (s : State) : State :=
  if s.links[n].state = .down then linkMod n Link.dropped s
  else
    let s1 := setLinkState n .down (breakEntries n (linkMod n Link.dropped s))
    let s2 := if count then bumpFld (Reg.linkEvents n) 15 0 1 s1 else s1
    if fault then raise Src.linkDown n 0 s2 else s2

/-- The loss that R179 declares: without LINK_DOWN and uncounted when DETACHING was seen (R186). -/
def linkLost (n : Fin 16) (s : State) : State :=
  let d := s.links[n].partnerDetaching
  linkDown n (!d) (!d) s

/-- Start training if nothing holds the link back (R176): signal, ENABLE, no detach hold, no RETRY_WAIT running, the
transmitter not squelched by RETRAIN. -/
def startTraining (n : Fin 16) (s : State) : State :=
  let l := s.links[n]
  if l.state = .down ∧ l.signal ∧ linkEnabled s n ∧ !l.detachHold ∧ !l.retryWait ∧ !l.squelch then
    setLinkState n .training (linkMod n (fun l => { l with phase := 2, trainAt := s.time.refTime }) s)
  else s

/-- Queued cells that a link in DISCOVERED or QUARANTINED keeps (R187). -/
def keptCell (c : Cell) : Bool := decide (c.ty.toNat = 1) || decide (c.ty.toNat = 2)

def Link.discardCells (l : Link) : Link :=
  { l with q0 := l.q0.filter keptCell, q1 := l.q1.filter keptCell, q2 := l.q2.filter keptCell }

/-- A fenced link (R187): its entries go, queued cells other than DISCOVER and LINK_CTRL are discarded; DISCOVERED and ATTACHED
become QUARANTINED. -/
def quarantineLink (n : Fin 16) (s : State) : State :=
  let s1 := linkMod n Link.discardCells (breakEntries n s)
  match s.links[n].state with
  | .discovered | .attached =>
    setLinkState n .quarantined (linkMod n (fun l => { l with wantAttach := false, reqOpen := false, attachDue := false }) s1)
  | _ => s1

/-- The partner shows QUARANTINE while this end is ATTACHED (R187). -/
def partnerQuarantined (n : Fin 16) (s : State) : State :=
  raise Src.linkMismatch n 0 (setLinkState n .discovered (linkMod n Link.discardCells (breakEntries n s)))

/-! ### Discovery -/

/-- A follower: not the anchor, with an ATTACHED link (R236). -/
def isFollower (s : State) : Bool := !s.clock.isAnchor && (fins 16).any (attached s)

/-- TYPE of a candidate slot (R229, R262). -/
def candType (s : State) (n : Fin 8) : Nat := regFld s (Reg.refCfg n) 3 1

/-- SOURCE of TIME_QUAL (R181): what the node's time comes from. -/
def timeSource (s : State) : Nat :=
  if isFollower s then 1
  else match s.clock.selected with
    | some c => candType s c
    | none => if s.clock.dpll = .holdover then 7 else 0

/-- The EUI-64 of the anchor: this node's own, or what the upstream partner says in its DISCOVER. -/
def anchorEui (s : State) : Nat :=
  if isFollower s then (s.clock.upstream.bind fun n => s.links[n].partner).elim 0 fun b => discN b 0x28 8
  else (ownEui s).toNat

/-- A host is attached: software that owns this node's rings, through PCIe or through the tunnel (R181, R366). -/
def hostAttached (s : State) : Bool := decide (hifMode s = 1) || (decide (hifMode s = 2) && s.hif.owner.isSome)

/-- The body of the DISCOVER a link sends (R181). -/
def discoverBody (s : State) (n : Fin 16) : List Byte :=
  let a := s.clock.anchor
  let paired := match s.fabric.pair with | some p => decide (p.since ≤ now s) | none => false
  leBytes 8 (ownEui s).toNat ++ leBytes 2 (s.node.id.toNat + s.node.idState.toNat * 4096) ++ leBytes 1 n.val ++
    leBytes 1 (b2n s.power.compat + s.time.rate.val * 2) ++
    leBytes 1 1 ++ leBytes 1 (b2n (hostAttached s) + bitAt Config.managerHere 1 + bitAt paired 2) ++
    leBytes 1 (regFld s Reg.glbRev 7 0) ++ leBytes 1 0 ++
    leBytes 1 (timeSource s) ++ leBytes 1 (regFld s Reg.anchorCtrl 7 0) ++ leBytes 2 s.clock.timeErr.toNat ++
    leBytes 8 (anchorEui s) ++ leBytes 2 (a.elim s.node.id.toNat fun x => x.id.toNat) ++
    leBytes 1 (a.elim 0 fun x => x.hops.toNat) ++ leBytes 1 0 ++ leBytes 4 (s.time.tick.toNat / 2 ^ 32) ++ leBytes 4 0

/-- A DISCOVER body without its TICK_HI. -/
def discoverFixed (b : List Byte) : List Byte := b.take 32 ++ b.drop 36

/-- Send a DISCOVER (R181). -/
def sendDiscover (n : Fin 16) (s : State) : State :=
  let b := discoverBody s n
  sendNeighbour n 1 b (linkMod n (fun l => { l with sentBody := discoverFixed b, lastDiscover := now s }) s)

/-- A field of the DISCOVER other than TICK_HI has changed since it was last sent (R181). -/
def discoverStale (s : State) (n : Fin 16) : Bool :=
  let l := s.links[n]
  l.framed && l.heard && decide (l.state ≠ .down) && decide (l.sentBody ≠ discoverFixed (discoverBody s n))

/-- The links whose partner has not been told of a change are told at once (R181). -/
def tellPartners (s : State) : State :=
  (fins 16).foldl (fun s (n : Fin 16) => if discoverStale s n then sendDiscover n s else s) s

/-- Send a LINK_CTRL cell (R183). -/
def sendCtrl (n : Fin 16) (action reason tick : Nat) (s : State) : State :=
  sendNeighbour n 2 (leBytes 1 action ++ leBytes 1 reason ++ leBytes 2 0 ++ leBytes 8 tick) s

/-- The checks of R182 on a partner's DISCOVER: format, version, self-loop, quarantine; true where the check passes. -/
def checkFormat (s : State) (b : List Byte) : Bool := discN b 0x1F 1 % 16 = b2n s.power.compat + s.time.rate.val * 2
def checkVersion (b : List Byte) : Bool := discN b 0x20 1 = 1
def checkLoop (s : State) (b : List Byte) : Bool := discN b 0x14 8 ≠ (ownEui s).toNat

def checksPass (s : State) (n : Fin 16) : Bool :=
  match s.links[n].partner with
  | none => false
  | some b => checkFormat s b && checkVersion b && checkLoop s b && !s.links[n].partnerQuarantine

/-- The node would itself request an attach (R183). -/
def wouldRequest (s : State) (n : Fin 16) : Bool := regBit s (Reg.linkCtrl n) 1 || s.links[n].wantAttach

/-- Ask the partner to attach (R183). -/
def requestAttach (n : Fin 16) (s : State) : State :=
  sendCtrl n 1 0 0 (linkMod n (fun l => { l with reqOpen := true, lastReq := now s }) s)

/-- What a failed check of DISCOVERED sends and raises: an ATTACH_REJECT with its reason, and LINK_MISMATCH but for a loop. -/
def checkFailed (n : Fin 16) (ok : Bool) (reason : Nat) (fault : Bool) (s : State) : State :=
  if ok then s
  else
    let s2 := sendCtrl n 4 reason 0 s
    if fault then raise Src.linkMismatch n 0 s2 else s2

/-- Run the checks of R182 in DISCOVERED: each failed check sends a REJECT and raises LINK_MISMATCH (self-loop raises
nothing); when all pass the node requests the attach if it is to. -/
def runChecks (n : Fin 16) (s : State) : State :=
  let l := s.links[n]
  match l.state, l.partner with
  | .discovered, some b =>
    let f := checkFormat s b
    let v := checkVersion b
    let o := checkLoop s b
    let s1 := linkMod n (fun l => { l with formatMismatch := !f, versionMismatch := !v, selfLoop := !o }) s
    let s2 := checkFailed n (!l.partnerQuarantine) 4 true (checkFailed n o 3 false (checkFailed n v 2 true (checkFailed n f 1 true s1)))
    if f && v && o && !l.partnerQuarantine then
      (if wouldRequest s n && !l.reqOpen && !l.attachDue then requestAttach n s2 else s2)
    else linkMod n (fun l => { l with attachDue := false }) s2
  | _, _ => s

/-- TRAINING ends when alignment is held, a valid DISCOVER has been received and the partner shows ALIGNED (R176); a fenced
link becomes QUARANTINED. -/
def tryDiscovered (n : Fin 16) (s : State) : State :=
  let l := s.links[n]
  if l.state = .training ∧ l.framed ∧ l.align ∧ l.heard ∧ l.partnerAligned then
    if fenced s (.link n) then setLinkState n .quarantined s else runChecks n (setLinkState n .discovered s)
  else s

/-! ### Node IDs -/

/-- The keys of an announcement: the EUI-64 and the SEQ (R174). -/
def announceLimit (s : State) (l : List ((BitVec 64 × BitVec 16) × Nat)) : List ((BitVec 64 × BitVec 16) × Nat) :=
  l.filter fun e => decide (now s < e.2 + 64)

/-- Flood an ID_ANNOUNCE (R184). -/
def announce (s : State) : State :=
  let seq := s.node.seq
  let n1 := { s.node with announceSeen := ((ownEui s, seq), now s) :: announceLimit s s.node.announceSeen }
  sendFlood 3 16 (leBytes 8 (ownEui s).toNat ++ leBytes 2 (s.node.id.toNat + s.node.idState.toNat * 4096) ++
    leBytes 2 seq.toNat) { s with node := n1 }

/-- Take an ID (R184): the change is flooded. -/
def takeId (id : BitVec 12) (st : BitVec 4) (s : State) : State :=
  announce { s with node := { s.node with id := id, idState := st } }

/-- An ID_ANNOUNCE or a DISCOVER names an ID with another EUI-64 (R184). -/
def resolveId (id : BitVec 12) (eui : Nat) (s : State) : State :=
  if id ≠ 0 ∧ id = s.node.id ∧ eui ≠ (ownEui s).toNat then
    if (ownEui s).toNat < eui then announce s
    else
      let s1 := takeId 0 2 s
      report 0x0302 0 (leBytes 2 (s1.node.id.toNat + s1.node.idState.toNat * 4096) ++ List.replicate 6 0 ++ leBytes 8 eui)
        (raise Src.nodeIdDup 0 0 s1)
  else s

/-! ### Received cells -/

/-- Cells a link accepts in its state (R176): everything in ATTACHED; DISCOVER, LINK_CTRL and time cells in DISCOVERED; DISCOVER
and LINK_CTRL in QUARANTINED; DISCOVER in TRAINING from frame alignment on (R181). Cells under a missing marker are not
(R179), nor is a cell of a fenced link beside those of QUARANTINED. -/
def acceptsCell (s : State) (n : Fin 16) (ty : Nat) : Bool :=
  let l := s.links[n]
  !l.sfBad &&
  match l.state with
  | .down => false
  | .training => l.align && decide (ty = 1)
  | .discovered => decide (ty = 1) || decide (ty = 2) || (decide (ty / 16 = 4) && !fenced s (.link n))
  | .attached => !fenced s (.link n) || decide (ty = 1) || decide (ty = 2)
  | .quarantined => decide (ty = 1) || decide (ty = 2)

/-- Forward a source-routed cell whose route goes on (R174). -/
def forwardCell (c : Cell) (s : State) : State :=
  let out := routeEntry c.route c.hop.toNat
  if attached s out then queueCell out { c with hop := c.hop + 1 } s else cellDrop out s

/-- The flood cells seen in the last 64 ticks. -/
def seenLimit (s : State) (l : List (Nat × Nat)) : List (Nat × Nat) := l.filter fun e => decide (now s < e.2 + 64)

/-- A flood cell has been seen in the last 64 ticks (R174): by (SRC_ID, SEQ), or for ID_ANNOUNCE by (EUI-64, SEQ). -/
def floodSeen (s : State) (c : Cell) : Bool :=
  if c.ty.toNat = 3 then
    (announceLimit s s.node.announceSeen).any fun e => e.1 = (BitVec.ofNat 64 (bodyN c 0x14 8), c.seq)
  else (seenLimit s s.node.floodSeen).any fun e => e.1 = c.src.toNat * 65536 + c.seq.toNat

/-- Mark a flood cell as seen. -/
def markFlood (c : Cell) (s : State) : State :=
  if c.ty.toNat = 3 then
    { s with node := { s.node with
        announceSeen := ((BitVec.ofNat 64 (bodyN c 0x14 8), c.seq), now s) :: announceLimit s s.node.announceSeen } }
  else
    { s with node := { s.node with
        floodSeen := (c.src.toNat * 65536 + c.seq.toNat, now s) :: seenLimit s s.node.floodSeen } }

/-- Queue the copies of a flood cell (R174). -/
def forwardFlood (n : Fin 16) (c : Cell) (s : State) : State :=
  let c1 := { c with hop := c.hop + 1 }
  if c1.hop.toNat < c1.hops.toNat then floodOn (some n) c1 s else s

/-- A received cell by its MODE (R174): `deliver` is what the node does with a cell that is its own. -/
def receiveCell (n : Fin 16) (c : Cell) (deliver : State → State) (s : State) : State :=
  if !acceptsCell s n c.ty.toNat then s
  else match c.mode.toNat with
    | 0 => deliver s
    | 1 =>
      if c.hop = c.hops then (if c.dst = s.node.id then deliver s else cellDrop n s)
      else if c.hop.toNat < c.hops.toNat then forwardCell c s else cellDrop n s
    | 2 => if floodSeen s c then s else forwardFlood n c (deliver (markFlood c s))
    | _ => cellDrop n s

end Sys2Proof.Machine
end

