-- ==== Sys2Proof/Machine/EthOps.lean ====
section
/-!
DEFINITION. Operations of the Ethernet ports (R264–R275) that other blocks use: time values, the sending of frames, the port's
link, the receive buffer and PAUSE.
-/
namespace Sys2Proof.Machine

/-! ### Time values (R273) -/

/-- 1 s in units of 2^−16 ns. -/
def sec16 : Nat := 65536 * 1000000000

/-- A time value in units of 2^−16 ns. -/
def timeOf (t : TimeVal) : Nat := t.sec.toNat * sec16 + t.ns.toNat * 65536 + t.frac.toNat

/-- The 16 bytes of a time value. -/
def timeBytes (x : Nat) : List Byte :=
  leBytes 8 (x / sec16) ++ leBytes 4 (x % sec16 / 65536) ++ leBytes 2 (x % 65536) ++ leBytes 2 0

/-- A time value of a command is well formed (R273). -/
def timeOk (t : TimeVal) : Bool := t.ns.toNat ≤ 999999999

/-- Node time at the last tick boundary, and the length of a tick. -/
def boundaryTime (s : State) : Nat := s.clock.nodeUnits * sec16 / refSecond
def tickSpan (s : State) : Nat := max 1 (tickUnits s * sec16 / refSecond)

/-- The node time of a timestamp taken in the TIME domain (R228): the DPLL's accumulated correction and the setting of node time
are added to it. -/
def toNode (s : State) (t : Nat) : Nat :=
  ((t : Int) + ((s.clock.nodeUnits : Int) - s.time.refTime) * sec16 / refSecond + s.clock.accum * sec16 / 10 ^ 26).toNat

/-- Node time at an instant of the tick in progress: where in the tick is a free value (DESIGN CHOICE, log 14). -/
def nodeNow (s : State) : Nat × State :=
  let f := freshFree 48 s
  (boundaryTime s + f.1 % tickSpan s, f.2)

/-! ### Ports -/

/-- Change the network state, or one port. -/
def netMod (f : Net → Net) (s : State) : State := { s with net := f s.net }
def ethMod (p : Fin 4) (f : EthPort → EthPort) (s : State) : State := netMod (fun n => { n with eth := vmod n.eth p f }) s

/-- MODE of a port; 4–7 act as 0 (R264). -/
def ethMode (s : State) (p : Fin 4) : Nat := let m := regFld s (Reg.ethCtrl p) 2 0; if 3 < m then 0 else m

/-- MAX_FRAME within its limits (R301). -/
def maxFrame (s : State) (p : Fin 4) : Nat := max 1518 (min 9216 (regFld s (Reg.ethCtrl p) 29 16))

/-- The nominal line rate in Mb/s (R264, R297). -/
def lineMbps : Nat → Nat
  | 1 => 1000 | 2 => 10000 | 3 => 25000 | _ => 0

/-- TX_EN and RX_EN in force (R269): with Clause 37 auto-negotiation the resolved result replaces both. -/
def pauseEnables (s : State) (p : Fin 4) : Bool × Bool :=
  let t := regBit s (Reg.ethPauseCfg p) 0
  let r := regBit s (Reg.ethPauseCfg p) 1
  if ethMode s p = 1 && regBit s (Reg.ethCtrl p) 4 then
    let x := (t || r) && s.net.eth[p].anPause
    (x, x)
  else (t, r)

/-- PAUSE_STUCK (R271). -/
def pauseStuck (s : State) (p : Fin 4) : Bool := regBit s (Reg.ethPauseStat p) 0

/-- RX_ADJ and TX_ADJ in 2^−16 ns (R272). -/
def rxAdj (s : State) (p : Fin 4) : Int := 4096 * signed 16 (regFld s (Reg.ethTsAdj p) 15 0)
def txAdj (s : State) (p : Fin 4) : Int := 4096 * signed 16 (regFld s (Reg.ethTsAdj p) 31 16)

/-- A receive timestamp in node time (R228, R272). -/
def rxStamp (s : State) (p : Fin 4) (t : TimeVal) : Nat := ((toNode s (timeOf t) : Int) - rxAdj s p).toNat

/-- A node time as a PTP message carries it (R273): the fraction of a nanosecond goes into correctionField. -/
def ptpTime (x : Nat) : PtpTime :=
  { seconds := BitVec.ofNat 48 (x / sec16), nanos := BitVec.ofNat 32 (x % sec16 / 65536), correction := BitVec.ofNat 64 (x % 65536) }

/-- The time that a received PTP message carries, as a node time (R273): correctionField is added exactly. -/
def ptpTimeIn (m : PtpMsg) : Int :=
  (m.seconds.toNat * sec16 + m.nanos.toNat * 65536 : Nat) + m.correction.toInt

/-- A Sync or Delay_Req with its residence time, the egress minus the ingress timestamp, in the correction (R274); a full
correctionField stays. The UDP checksum of a corrected message is 0. -/
def corrected (m : PtpMsg) (residence : Int) : PtpMsg :=
  if (m.kind = .sync ∨ m.kind = .delayReq) ∧ m.correction ≠ 0x7FFFFFFFFFFFFFFF then
    { m with correction := m.correction + BitVec.ofInt 64 residence, checksum := if m.l2 then m.checksum else 0 }
  else m

/-- What a PTP message says as it leaves at a timestamp (R274, R278). -/
def PtpOut.stamped (t : Nat) : PtpOut → PtpOut
  | .sync none => .sync (some (ptpTime t))
  | .forwarded m i => .forwarded (corrected m ((t : Int) - i)) i
  | x => x

/-! ### Sending -/

/-- The samples per channel of a packet (R286). -/
def packetSamples (s : State) (ptime : Nat) : Nat :=
  let k := fs s / 11025 / 4
  match ptime with
  | 0 => if fs s % 48000 = 0 then fs s / 8000 else 6 * k
  | 1 => if fs s % 48000 = 0 then fs s / 4000 else 11 * k
  | 2 => if fs s % 48000 = 0 then fs s / 1000 else 44 * k
  | _ => if fs s % 48000 = 0 then fs s / 250 else 176 * k

/-- Change a transmit stream. -/
def txMod (n : Nat) (f : AoipTx → AoipTx) (s : State) : State := netMod (fun x => { x with tx := mapModify x.tx n f }) s

/-- A frame leaves a port (R272, R274, R278, R296): a PTP message takes its transmit timestamp, an RTP packet is counted as sent once,
on its first leg or on the second where that is the only one up. -/
def leave (p : Fin 4) (f : TxFrame) (s : State) : State :=
  match f with
  | .ptp h m =>
    let t := nodeNow s
    let stamp := ((t.1 : Int) + txAdj s p).toNat
    ethMod p (fun e => { e with sent := e.sent ++ [.ptp h (m.stamped stamp)], txTime := some stamp }) t.2
  | .aoip a =>
    let s1 := ethMod p (fun e => { e with sent := e.sent ++ [f] }) s
    txMod a.stream (fun x =>
      if a.legB && s.net.eth[x.cfg.portA.toFin].up then x
      else { x with sent := satN 32 (x.sent + 1), rtpLast := a.ts }) s1
  | _ => ethMod p (fun e => { e with sent := e.sent ++ [f] }) s

/-- Send a frame: it leaves, waits while the port is paused (R270), or is discarded while the link is down (R265, R275). -/
def launch (p : Fin 4) (f : TxFrame) (s : State) : State :=
  if !s.net.eth[p].up then s
  else if s.net.eth[p].paused then ethMod p (fun e => { e with tx := e.tx ++ [f] }) s
  else leave p f s

/-- A packet whose launch is more than one packet time late (R270). -/
def tooLate (s : State) (a : AoipOut) : Bool :=
  match mapGet s.net.tx a.stream with
  | some x => decide (packetSamples s x.cfg.ptime.toNat < (now s - a.due) * spt s)
  | none => true

/-- Discard the RTP packets of a paused port that are too late, counting each as TX_LATE (R270). -/
def dropLate (p : Fin 4) (s : State) : State :=
  let keep (f : TxFrame) : Bool := match f with | .aoip a => !tooLate s a | _ => true
  let out := s.net.eth[p].tx.filterMap fun f => match f with | .aoip a => if tooLate s a then some a else none | _ => none
  out.foldl (fun s a => sticky Reg.aoipErrStat 3 (txMod a.stream (fun x => { x with late := satN 32 (x.late + 1) }) s))
    (ethMod p (fun e => { e with tx := e.tx.filter keep }) s)

/-- A PTP frame: it goes first at egress (R274). -/
def TxFrame.isPtp : TxFrame → Bool
  | .ptp .. => true
  | _ => false

/-- A pause ends (R270): the frames that waited leave, PTP first. -/
def resumePort (p : Fin 4) (s0 : State) : State :=
  let s := dropLate p s0
  let q := s.net.eth[p].tx
  (q.filter TxFrame.isPtp ++ q.filter fun f => !f.isPtp).foldl (fun s f => leave p f s)
    (ethMod p (fun e => { e with paused := false, tx := [] }) s)

/-! ### The link -/

/-- A port's link goes down (R265): the frames queued for transmission are discarded and an event is reported. -/
def ethDown (p : Fin 4) (s : State) : State :=
  let s1 := ethMod p (fun e => { e with up := false, blockLock := false, fecLock := false, anDone := false, anPause := false,
                                        paused := false, pausing := false, tx := [], ptpState := 1 }) s
  if s.net.eth[p].up then report 0x0501 p [0] s1 else s1

/-! ### The receive buffer and PAUSE -/

/-- Bytes a frame occupies, with its FCS. -/
def frameLen (bytes : List Byte) : Nat := bytes.length + 4

/-- Occupancy of the receive buffer, and of one queue, in bytes (R268). -/
def bufBytes (l : List RxFrame) : Nat := l.foldl (fun a f => a + frameLen f.bytes) 0
def queueBytes (l : List RxFrame) (q : Fin 16) : Nat := bufBytes (l.filter fun f => f.queue = q)

/-- The receive buffer of a port: 512 KiB. -/
def rxBuffer : Nat := 524288

/-- LOW_PCT and HIGH_PCT as byte counts times 100 (R269, R301). -/
def pauseLow (s : State) (p : Fin 4) : Nat := regFld s (Reg.ethPauseCfg p) 22 16 * rxBuffer
def pauseHigh (s : State) (p : Fin 4) : Nat :=
  let low := regFld s (Reg.ethPauseCfg p) 22 16
  let high := min 100 (regFld s (Reg.ethPauseCfg p) 14 8)
  (if low < high then high else low + 1) * rxBuffer

/-- pause_time sent; 0 acts as 1 (R301). -/
def pauseQuanta (s : State) (p : Fin 4) : Nat := max 1 (regFld s (Reg.ethPauseQuanta p) 15 0)

/-- So many pause quanta, of 512 bit times each (R269), in the unit of refTime. -/
def quantaUnits (s : State) (p : Fin 4) (quanta : Nat) : Nat :=
  quanta * 512 * refSecond / (1000000 * max 1 (lineMbps (ethMode s p)))

/-- A PAUSE toward the partner (R269). -/
def sendPause (p : Fin 4) (quanta : Nat) (s : State) : State :=
  if s.net.eth[p].up then
    let ns := quanta * 512000 / max 1 (lineMbps (ethMode s p))
    ethMod p (fun e =>
      { e with pausing := decide (quanta ≠ 0), pauseUntil := boundaryTime s + ns * 65536, pauseSent := s.time.refTime,
               sent := e.sent ++ [.pause (BitVec.ofNat 16 quanta)] }) s
  else s

/-- The buffer's occupancy has changed from `was` to `occ` bytes (R269). -/
def pauseMove (p : Fin 4) (was occ : Nat) (s : State) : State :=
  if (pauseEnables s p).1 && decide (was * 100 ≤ pauseHigh s p) && decide (pauseHigh s p < occ * 100) then
    sendPause p (pauseQuanta s p) s
  else if s.net.eth[p].pausing && decide (occ * 100 < pauseLow s p) then sendPause p 0 s
  else s

/-- The buffer's occupancy has changed from `was` bytes to what it holds now. -/
def pauseCheck (p : Fin 4) (was : Nat) (s : State) : State := pauseMove p was (bufBytes s.net.eth[p].rx) s

/-- A frame of steps 2–4 of R266 passes through the buffer: its bytes count while it does (R268). -/
def passBuffer (p : Fin 4) (n : Nat) (s : State) : State :=
  let was := bufBytes s.net.eth[p].rx
  pauseMove p (was + n) was (pauseMove p was (was + n) s)

/-- A frame of a length meets a full buffer (R268). -/
def bufferFull (s : State) (p : Fin 4) (n : Nat) : Bool := decide (rxBuffer < bufBytes s.net.eth[p].rx + n)

/-- LIMIT_KIB of a queue in bytes (R301). -/
def queueLimit (s : State) (p : Fin 4) (q : Fin 16) : Nat := 1024 * min 512 (regFld s (Reg.ethQcfg p q) 25 16)

/-- CONSUMER of a queue; 3 acts as 0 (R301). -/
def consumer (s : State) (p : Fin 4) (q : Fin 16) : Nat := let c := regFld s (Reg.ethQcfg p q) 1 0; if c = 3 then 0 else c

/-- A frame is discarded and counted. -/
def rxDrop (p : Fin 4) (s : State) : State := bump (Reg.ethRxDropCount p) 1 s

/-- A frame for a receive queue (R268): discarded by CONSUMER 0, when the queue's limit or the buffer would be exceeded, kept
for the host, or taken by the service core. -/
def enqueueRx (p : Fin 4) (f : RxFrame) (s : State) : State :=
  let was := bufBytes s.net.eth[p].rx
  let n := frameLen f.bytes
  match consumer s p f.queue with
  | 0 => s
  | c =>
    if queueLimit s p f.queue < queueBytes s.net.eth[p].rx f.queue + n ∨ rxBuffer < was + n then rxDrop p s
    else if c = 1 then pauseCheck p was (ethMod p (fun e => { e with rx := e.rx ++ [f] }) s)
    else s

/-- The first frame that waits for a DMA channel, over the ports in order (R268, R400). -/
def frameFor (s : State) (ch : Nat) : Option (Fin 4 × RxFrame) :=
  (fins 4).findSome? fun p => (s.net.eth[p].rx.find? fun f =>
    decide (consumer s p f.queue = 1) && decide (regFld s (Reg.ethQcfg p f.queue) 12 8 = ch)).map fun f => (p, f)

/-- Take a frame out of a port's buffer. -/
def takeFrame (p : Fin 4) (f : RxFrame) (s : State) : State :=
  let was := bufBytes s.net.eth[p].rx
  pauseCheck p was (ethMod p (fun e => { e with rx := e.rx.erase f }) s)

end Sys2Proof.Machine
end

