-- ==== Sys2Proof/Machine/PortOps.lean ====
section
/-!
DEFINITION. Operations of the serial audio ports and AES3 transceivers (R305–R325) that other blocks use: formats and masks,
starting and stopping, triggers, the handover of inputs and the sending of outputs at a boundary.
-/
namespace Sys2Proof.Machine

/-- Change one port. -/
def portMod (p : Fin 12) (f : Port → Port) (s : State) : State := { s with ports := { s.ports with port := vmod s.ports.port p f } }

/-- Ports 8–11 are AES_0 to AES_3. -/
def isAes (p : Fin 12) : Bool := 8 ≤ p.val
def aesOf (p : Fin 12) : Nat := p.val - 8
def aesPort (n : Fin 4) : Fin 12 := ⟨8 + n.val, by omega⟩
def serialPort (n : Fin 8) : Fin 12 := ⟨n.val, by omega⟩

/-- The configuration register of a port. -/
def portCfgReg (p : Fin 12) : Nat := if isAes p then Reg.aesCfg (aesOf p) else Reg.portCfg p

/-- The PORT byte of a port (R327). -/
def portByte (p : Fin 12) : Nat := if isAes p then 16 + aesOf p else p.val

/-! ### Formats (R305–R309) -/

/-- FORMAT; 3 acts as 0 (R329). -/
def portFormat (cfg : Word) : Nat := let f := fld cfg 1 0; if f = 3 then 0 else f

/-- ROLE: 0 master, 1 synchronous, 2 asynchronous slave; 3 acts as 1 (R329). An AES3 receiver is a slave, asynchronous with
ASYNC = 1 (R322). -/
def portRole (p : Fin 12) (cfg : Word) : Nat :=
  if isAes p then (if flag cfg 0 then 2 else 1) else let r := fld cfg 3 2; if r = 3 then 1 else r

/-- Slots per lane (R305, R329). -/
def portSlotCount (s : State) (cfg : Word) : Nat :=
  if portFormat cfg = 2 then min (fld cfg 12 8 + 1) (slotLimit s) else 2

/-- Slot width W (R305). -/
def slotWidth (s : State) : Nat := if s.power.compat then 24 else 32

/-- Bits per frame B (R305). -/
def frameBits (s : State) (cfg : Word) : Nat := portSlotCount s cfg * slotWidth s

/-- Bits of a received frame: an AES3 frame is two subframes of 32 time slots (R317, R323). -/
def portFrameBits (s : State) (p : Fin 12) (cfg : Word) : Nat := if isAes p then 64 else frameBits s cfg

/-- FSYNC in bit clock k of a frame (R305). -/
def fsyncLevel (s : State) (cfg : Word) (k : Nat) : Bool :=
  let b := frameBits s cfg
  let level : Bool := match portFormat cfg with
    | 0 => decide (b / 2 ≤ k)
    | 1 => decide (k < b / 2)
    | _ => if flag cfg 7 then decide (k < slotWidth s) else decide (k = 0)
  level != flag cfg 5

/-- The delay d of the first data bit (R305). -/
def dataDelay (cfg : Word) : Nat :=
  match portFormat cfg with
  | 0 => 1 | 1 => 0 | _ => b2n (flag cfg 6)

/-- The frame edge is a rising edge of FSYNC (R305). -/
def edgeRises (cfg : Word) : Bool := decide (portFormat cfg ≠ 0) != flag cfg 5

/-- Data and FSYNC are launched on the falling edge of BCLK and sampled on the rising edge (R305). -/
def launchFalls (cfg : Word) : Bool := !flag cfg 4

/-- What a data-out lane carries in bit clock k of a frame (R305): the MSB of each slot first; with d = 1 the LSB of the previous
frame's last slot in bit clock 0. `prev` and `cur` hold the slots as sent, lane × 32 + slot; none where the lane is released. -/
def laneBit (s : State) (cfg : Word) (prev cur : List (Option Word)) (lane k : Nat) : Option Bool :=
  let w := slotWidth s
  let d := dataDelay cfg
  let at_ (l : List (Option Word)) (q : Nat) : Option Bool :=
    (l.getD (lane * 32 + q / w) none).map fun x => x.getLsbD (w - 1 - q % w)
  if k < d then at_ prev (frameBits s cfg - 1) else at_ cur (k - d)

/-- A slot as received, from the bits of its lane in its frame and in bit clock 0 of the next (R305): the MSB first. -/
def slotOfBits (s : State) (cfg : Word) (bits : List Bool) (slot : Nat) : Nat :=
  ((bits.drop (dataDelay cfg + slot * slotWidth s)).take (slotWidth s)).foldl (fun a b => 2 * a + b2n b) 0

/-- The group delay of the ASRC in µs (R320): 1.0 ms, or 0.3 ms with ASRC_MODE 1; it adds to the path latency of R29. -/
def asrcDelayUs (p : Fin 12) (cfg : Word) : Nat := if flag cfg (if isAes p then 1 else 14) then 300 else 1000

/-- The passband of the ASRC in 1/1000 of the lower of the two rates, and its stopband attenuation in dB (R320). -/
def asrcBand (p : Fin 12) (cfg : Word) : Nat × Nat := if flag cfg (if isAes p then 1 else 14) then (417, 100) else (454, 120)

/-- OUT_IDLE (R311). -/
def outIdle (cfg : Word) : Bool := flag cfg 13

/-- Input slots of a port: two lanes of 32, or two subframes. -/
def portSlots (p : Fin 12) : Nat := if isAes p then 2 else 64

/-- Class 0x2 or 0x3 endpoint of a slot (R35). -/
def slotEp (p : Fin 12) (i : Nat) : Nat := if isAes p then ep 3 (2 * aesOf p + i) else ep 2 (p.val * 64 + i)

/-! ### Masks (R311–R313) -/

/-- The masks in force at an output or input position. -/
def masksAt (x : Port) (out : Bool) (pos : Nat) : Vector Word 4 :=
  x.commits.foldl (fun m c => if (if out then c.outPos else c.inPos) ≤ pos then c.masks else m) x.active

/-- A slot is enabled at a position: input lanes have masks 0 and 1, output lanes 2 and 3; subframes are always enabled. -/
def slotOn (p : Fin 12) (x : Port) (out : Bool) (i pos : Nat) : Bool :=
  isAes p || ((vgetD (masksAt x out pos) ((if out then 2 else 0) + i / 32) 0).getLsbD (i % 32))

/-- Drop the commits whose positions have both passed, keeping the last one's masks as active. -/
def pruneCommits (x : Port) (pos : Nat) : Port :=
  let old := x.commits.filter fun c => decide (c.outPos < pos) && decide (c.inPos < pos)
  { x with active := (old.getLast?.map (·.masks)).getD x.active,
           commits := x.commits.filter fun c => !(decide (c.outPos < pos) && decide (c.inPos < pos)) }

/-- Write shadow masks (R311): bit m of WRITE replaces mask m. -/
def writeMasks (m : Vector Word 4) (write : BitVec 4) (l : List Word) : Vector Word 4 :=
  vgen 4 fun i => if write.getLsbD i.val then l.getD i.val 0 else m[i]

/-- A commit (R311, R312): the written shadows become active from the given positions; on a stopped port at the next start. -/
def commitMasks (p : Fin 8) (write : BitVec 4) (l : List Word) (outPos inPos : Nat) (s : State) : State :=
  portMod (serialPort p) (fun x =>
    let sh := writeMasks x.shadow write l
    match x.state with
    | .stopped | .armed => { x with shadow := sh }
    | _ => { x with shadow := sh, commits := x.commits ++ [{ outPos := outPos, inPos := inPos, masks := sh }] }) s

/-- A commit inside a tick, at acceptance (R312): the frame from which it applies is a free value among the frames that can
follow: after the frame in progress, which on a slave may still be the one before this tick's first (DESIGN CHOICE, log 80). -/
def commitNow (p : Fin 8) (write : BitVec 4) (l : List Word) (s : State) : State :=
  let f := freshFree 8 s
  let g := freshFree 1 f.2
  if portRole (serialPort p) s.ports.port[serialPort p].cfg = 0 then
    let pos := spt s * now s + 1 + f.1 % (spt s + 1)
    commitMasks p write l pos (pos + 1) g.2
  else
    let pos := spt s * now s + f.1 % (spt s + 2)
    commitMasks p write l pos (pos + 1 + g.1) g.2

/-- A commit at the opening of the tick kerf before tick N (R312): on a master from positions S × N and S × N + 1; on a slave
by its own frames, whose place is a free value. -/
def commitAt (p : Fin 8) (write : BitVec 4) (l : List Word) (n : Nat) (s : State) : State :=
  let pos := spt s * n
  if portRole (serialPort p) s.ports.port[serialPort p].cfg = 0 then commitMasks p write l pos (pos + 1) s
  else
    let f := freshFree 8 s
    let g := freshFree 1 f.2
    let o := pos - 1 + f.1 % 3
    commitMasks p write l o (o + 1 + g.1) g.2

/-! ### ASRC channels (R320) -/

/-- ASRC channels that a set of masks needs on a port. -/
def asrcNeed (p : Fin 12) (cfg : Word) (m : Vector Word 4) : Nat :=
  if portRole p cfg ≠ 2 then 0
  else if isAes p then 2
  else m.toList.foldl (fun a w => a + popCount 32 w.toNat) 0

/-- Channels allocated on the other ports. -/
def asrcOthers (s : State) (p : Fin 12) : Nat :=
  ((fins 12).filter fun q => decide (q ≠ p)).foldl (fun a q => a + s.ports.port[q].asrc) 0

/-- Channels allocated. -/
def asrcUse (s : State) : Nat := s.ports.port.toList.foldl (fun a x => a + x.asrc) 0

/-! ### Starting and stopping (R314–R316) -/

/-- PRECLK of a port as it stands (R314, R329). -/
def preclkOf (s : State) (p : Fin 12) : Nat := if isAes p then 64 else regFld s (Reg.portSeq p) 15 0

/-- Begin a start at this boundary (R314). -/
def beginPort (p : Fin 12) (group : Option Nat) (preclk : Nat) (s : State) : State :=
  let cfg := regGet s (portCfgReg p)
  portMod p (fun x =>
    { x with state := .starting, cfg := cfg, seq := if isAes p then 0 else regGet s (Reg.portSeq p), startAt := now s,
             preclk := preclk, group := group, armed := none, fireAt := none, dataOn := false, dataFrom := 0,
             clkPresent := x.clkPresent || decide (portRole p cfg = 0),
             rate := if portRole p cfg = 0 then BitVec.ofNat 32 (fs s * 1000) else x.rate, ratio := 0, rates := [], postLeft := 0,
             fsyncHeld := none, frameAlign := false, dllLock := false, asrcLock := false,
             ready := false, rateFault := false, rateRun := 0, glitches := 0, active := x.shadow, commits := [],
             inBuf := [], conceal := List.replicate (portSlots p) Conceal.reset, outFade := none, lostOut := [],
             zCount := 0, offGrid := false }) s

/-- The earliest boundary for data on: N + ceil(PRECLK / S). -/
def dataEarliest (s : State) (x : Port) : Nat := x.startAt + ceilDiv x.preclk (spt s)

/-- A port enters STOPPED (R316): its ASRC channels are freed, and a master holds BCLK low and FSYNC at the level of its last bit
clock. -/
def enterStopped (p : Fin 12) (s : State) : State :=
  portMod p (fun x =>
    { x with state := .stopped, clkPresent := x.clkPresent && decide (portRole p x.cfg ≠ 0),
             rate := if portRole p x.cfg = 0 then 0 else x.rate, armed := none, fireAt := none, group := none, dataOn := false, ready := false, postLeft := 0,
             fsyncHeld := if !isAes p && decide (portRole p x.cfg = 0) then some (fsyncLevel s x.cfg (frameBits s x.cfg - 1)) else none,
             frameAlign := false, dllLock := false, asrcLock := false, inBuf := [], commits := [],
             active := masksAt x true (spt s * now s), asrc := 0, outFade := none }) s

/-- Stop at once without POSTCLK (R457, R460, R332). -/
def stopAtOnce (p : Fin 12) (s : State) : State :=
  match s.ports.port[p].armed with
  | some (t, _) => complete t St.aborted 0 (enterStopped p s)
  | none => enterStopped p s

/-- Start trigger k fires (R315): the armed ports start at the first boundary whose schedule is still open. -/
def fireTrigger (k : Nat) (s : State) : State :=
  let f (x : Port) : Port :=
    match x.armed, x.fireAt with
    | some (_, t), none => if t.val = k then { x with fireAt := some (openTick s) } else x
    | _, _ => x
  let g (x : Port) : Port :=
    { x with waits := x.waits.map fun w => if w.2.1.val = k ∧ w.2.2.isNone then (w.1, w.2.1, some (openTick s)) else w }
  { s with ports := { s.ports with port := vmap (fun x => g (f x)) s.ports.port } }

/-- A fired start of this boundary. -/
def firedNow (s : State) (n : Option Nat) : Bool := n.elim false fun n => decide (n ≤ now s)

/-- The triggered starts of a port that were accepted while it was not STOPPED and whose trigger has fired for this boundary
(R315, R326): the first of them starts a port that is STOPPED now, every other is answered with PORT_STATE. -/
def wakeWaits (p : Fin 12) (s0 : State) : State :=
  let due := s0.ports.port[p].waits.filter fun w => firedNow s0 w.2.2
  due.foldl (fun s w =>
      let x := s.ports.port[p]
      if fenced s (.port p) then complete w.1 St.fenced 0 s
      else if x.state = .stopped then
        portMod p (fun x => { x with state := .armed, armed := some (w.1, w.2.1), fireAt := w.2.2 }) s
      else complete w.1 0x40 0 s)
    (portMod p (fun x => { x with waits := x.waits.filter fun w => !firedNow s0 w.2.2 }) s0)

/-- Start the ports whose trigger has fired for this boundary (R315): one group per trigger, with the largest PRECLK. -/
def startGroups (s1 : State) : State :=
  let s0 := (fins 12).foldl (fun s p => wakeWaits p s) s1
  (List.range 4).foldl (fun s k =>
    let mem := (fins 12).filter fun p => match s.ports.port[p].armed with
      | some (_, t) => decide (t.val = k) && firedNow s s.ports.port[p].fireAt
      | none => false
    let pre := mem.foldl (fun a p => max a (preclkOf s p)) 0
    mem.foldl (fun s p =>
      let t := s.ports.port[p].armed
      let s1 := if fenced s (.port p) then enterStopped p s else beginPort p (some (now s * 4 + k)) pre s
      match t with
      | some (t, _) => complete t (if fenced s (.port p) then St.fenced else St.ok) 0 s1
      | none => s1) s) s0

/-- Every port of a port's start group is ready (R315). -/
def groupReady (s : State) (p : Fin 12) : Bool :=
  match s.ports.port[p].group with
  | none => s.ports.port[p].ready
  | some g => (fins 12).all fun q =>
      !(decide (s.ports.port[q].group = some g) && decide (s.ports.port[q].state = .starting)) || s.ports.port[q].ready

/-- Data on, and recovery, at this boundary (R314, R315, R319). -/
def turnOn (s0 : State) : State :=
  let go := (fins 12).filter fun p =>
    let x := s0.ports.port[p]
    decide (x.state = .starting) && decide (dataEarliest s0 x ≤ now s0) && groupReady s0 p
  let back := (fins 12).filter fun p => decide (s0.ports.port[p].state = .fault) && s0.ports.port[p].ready
  let s1 := go.foldl (fun s p =>
    report 0x0502 (portByte p) (leBytes 8 (now s))
      (portMod p (fun x => { x with state := .running, dataOn := true, dataFrom := now s, dataTick := now s, group := none }) s)) s0
  back.foldl (fun s p => portMod p (fun x =>
    { x with state := .running, dataOn := true, dataFrom := now s, outFade := if isAes p then none else some 0,
             offGrid := x.offGrid && decide (portRole p x.cfg ≠ 0),
             conceal := x.conceal.map fun c => { c with bad := 0, fade := some (0, 0) } }) s) s1

/-- Inputs and outputs treated as under a stop (R318): the port is in FAULT and must acquire its frames again. A port that is
still starting only loses its readiness. -/
def portFault (p : Fin 12) (s : State) : State :=
  portMod p (fun x =>
    let y := { x with ready := false, frameAlign := false, dllLock := false, asrcLock := false, glitches := 0,
                      cs := vmap (fun (b : AesBlock) => { b with bits := none }) x.cs,
                      user := vmap (fun (b : AesBlock) => { b with bits := none }) x.user }
    if x.state = .running then { y with state := .fault } else y) s

/-! ### Inputs at a boundary (R310, R313, R318) -/

/-- One sample position of one input slot: its sample, whether it is good, and the slot's concealment after it. -/
def inPosition (x : Port) (on : Bool) (slot n : Nat) (e : Option PortIn) (c : Conceal) : Sample × Bool × Conceal :=
  if !on then (0, false, Conceal.reset)
  else match e with
    | some (.frame l) =>
      match l.getD slot (none, false) with
      | (some v, ok) =>
        let r := c.take 0 1 n [v]
        (r.1.headD 0, ok, r.2)
      | (none, _) => (c.last, false, c)
    | some .spall => (c.last, false, c)
    | none =>
      if x.state = .fault then
        let r := c.lose 0 1 n
        (r.1.headD 0, false, r.2)
      else (c.last, false, c)

/-- The S positions of one slot, from position `pos` on. -/
def inSlot (p : Fin 12) (x : Port) (slot n : Nat) : Nat → Nat → Conceal → List Sample × Bool × Conceal
  | 0, _, c => ([], true, c)
  | k + 1, pos, c =>
    let r := inPosition x (slotOn p x false slot pos) slot n (mapGet x.inBuf pos) c
    let q := inSlot p x slot n k (pos + 1) r.2.2
    (r.1 :: q.1, r.2.1 && q.2.1, q.2.2)

/-- An asynchronous port's slot: the ASRC's output samples are free values (R320, R321; DESIGN CHOICE, log 81). -/
def asrcSamples : Nat → State → List Sample × State
  | 0, s => ([], s)
  | k + 1, s =>
    let f := freshFree 32 s
    let r := asrcSamples k f.2
    (BitVec.ofNat 32 f.1 :: r.1, r.2)

/-- Put a source block. -/
def putSource (e : Nat) (b : Blk) (s : State) : State := { s with router := { s.router with store := mapPut s.router.store e b } }

/-- What a port received for a position spoils no sample of a slot: no spalled frame or subframe, and no V = 1 (R318, R323). -/
def inGood (x : Port) (slot pos : Nat) : Bool :=
  match mapGet x.inBuf pos with
  | some (.frame l) => let v := l.getD slot (some 0, true); v.1.isSome && v.2
  | some .spall => false
  | none => true

/-- One slot handed over. -/
def handSlot (p : Fin 12) (pos n : Nat) (s : State) (i : Nat) : State :=
  let x := s.ports.port[p]
  let c := x.conceal.getD i Conceal.reset
  let wasOn := (List.range (spt s)).any fun k => slotOn p x false i (pos + k)
  if !wasOn then portMod p (fun x => { x with conceal := x.conceal.set i Conceal.reset }) s
  else if portRole p x.cfg = 2 ∧ x.state = .running then
    let r := asrcSamples (spt s) s
    let ok := (List.range (spt s)).all fun k => slotOn p x false i (pos + k) && inGood x i (pos + k)
    let fade := c.take 0 (spt s) n r.1
    putSource (slotEp p i) { samples := fade.1, valid := ok, ramp := false }
      (portMod p (fun x => { x with conceal := x.conceal.set i fade.2 }) r.2)
  else
    let r := inSlot p x i n (spt s) pos c
    putSource (slotEp p i) { samples := r.1, valid := r.2.1 && decide (x.state = .running), ramp := false }
      (portMod p (fun x => { x with conceal := x.conceal.set i r.2.2 }) s)

/-- The input samples of the tick that ended are handed over (R310): ports whose data is on; all others read zero, flagged
invalid (R314, R316). -/
def portInputs (s0 : State) : State :=
  let keep := s0.router.store.filter fun e => decide (e.1 / 4096 ≠ 2) && decide (e.1 / 4096 ≠ 3)
  let s1 : State := { s0 with router := { s0.router with store := keep } }
  let pos := spt s0 * (now s0 - 1)
  let n := rampSamples (fs s0) (spt s0) 1
  (fins 12).foldl (fun s p =>
    let x := s.ports.port[p]
    let live : Bool := (decide (x.state = PortRun.running) || decide (x.state = PortRun.fault)) && x.dataOn &&
      decide (x.dataFrom < now s)
    let s2 := if live then (List.range (portSlots p)).foldl (handSlot p pos n) s else s
    portMod p (fun x => { x with inBuf := x.inBuf.filter fun e => decide (pos + spt s0 ≤ e.1) }) s2) s1

/-! ### Outputs over the tick that ended (R310–R323) -/

/-- The value a destination plays in the tick: a direct-path channel's output where one holds it, else the delivered value. -/
def playValue (s : State) (before : Vector Direct 64) (dest : Nat) : Blk :=
  match (fins 64).find? fun n => match before[n].ends with | some e => decide (e.2.toNat = dest) | none => false with
  | some n => s.router.directs[n].out
  | none => deliveredBlk s dest

/-- This node drives a port's data-out lanes (R219): it is no twin, or it is the driving one and does not stand aside (R459). -/
def twinDrives (s : State) (p : Fin 12) : Bool :=
  match vget? s.fabric.twins p.val with
  | some t => decide (t.role = 0) || (t.driving && !s.sump.aside)
  | none => true

/-- The fade-in factor of an output at sample i of the tick (R319). -/
def outFactor (x : Port) (n i : Nat) : Nat := match x.outFade with | none => 2 ^ 30 | some j => riseFactor 0 (j + i + 1) n

/-- What a serial output slot does at sample i of the tick (R311–R316, R318): none while the lane is released, else whether it
carries data or zero. A slave without a clock releases its lanes while it stops. -/
def outMode (s : State) (p : Fin 12) (i slot : Nat) : Option Bool :=
  let x := s.ports.port[p]
  let k := now s - 1
  let pos := spt s * k + i
  let idle : Option Bool := if outIdle x.cfg then some false else none
  if !twinDrives s p then none
  else match x.state with
    | .stopped | .armed => if decide (portRole p x.cfg = 0) && outIdle x.cfg then some false else none
    | st =>
      if (st = .fault ∨ st = .stopping) ∧ !x.clkPresent ∧ portRole p x.cfg ≠ 0 then none
      else if !slotOn p x true slot pos then idle
      else if x.lostOut.contains pos then none
      else
        some (decide (st = .running) && x.dataOn && decide (x.dataFrom ≤ k) && slotOn p x true slot (pos - 1))

/-- A serial output slot at sample i of the tick (R306): the upper W bits of the value it plays. -/
def outSlot (s : State) (before : Vector Direct 64) (p : Fin 12) (n i slot : Nat) : Option Word :=
  (outMode s p i slot).map fun data =>
    if data then (factored ((playValue s before (slotEp p slot)).samples.getD i 0) (outFactor s.ports.port[p] n i)) >>> (32 - slotWidth s)
    else 0

/-- The frames of an asynchronous port (R309, R320): where a slot carries data, what the ASRC puts out is a free value (DESIGN
CHOICE, log 81). -/
def asrcOut (p : Fin 12) (i : Nat) : List Nat → State → List (Option Word) × State
  | [], s => ([], s)
  | slot :: l, s =>
    let f := freshFree (slotWidth s) s
    let r := match outMode s p i slot with
      | some true => (some (BitVec.ofNat 32 f.1), f.2)
      | some false => (some 0, s)
      | none => (none, s)
    let q := asrcOut p i l r.2
    (r.1 :: q.1, q.2)

/-- The frames a serial port sends in the tick that ended. -/
def sendFrames (before : Vector Direct 64) (p : Fin 12) (n : Nat) (s : State) : State :=
  if portRole p s.ports.port[p].cfg = 2 then
    (List.range (spt s)).foldl (fun s i =>
      let r := asrcOut p i (List.range 64) s
      portMod p (fun x => { x with sent := x.sent ++ [r.1] }) r.2) (portMod p (fun x => { x with sent := [] }) s)
  else
    portMod p (fun x => { x with sent := (List.range (spt s)).map fun i => (List.range 64).map (outSlot s before p n i) }) s

/-- The CRCC of a channel-status block (R324): polynomial 0x1D reflected, initial value 0xFF, no final exclusive-or. -/
def aesCrc (block : List Byte) : Byte := BitVec.ofNat 8 (crcResult 8 true false (crcFeedAll 8 0x1D true 0xFF (block.take 23)))

/-- The channel-status block a transmitter sends (R324). -/
def txStatusBlock (cfg : Word) (b : AesBlock) : List Byte :=
  let raw := b.tx.getD ((if flag cfg 3 then 0 else 1) :: List.replicate 23 0)
  if flag cfg 2 && !flag cfg 3 && (raw.headD 0).getLsbD 0 then raw.take 23 ++ [aesCrc raw] else raw

/-- Bit k of a 24-byte block (R323). -/
def blockBit (b : List Byte) (k : Nat) : Bool := (b.getD (k / 8) 0).getLsbD (k % 8)

/-- A transmitted subframe (R323): the data word in bits 0–23, V, U, C and P (even parity over time slots 4–31) in bits
24–27. -/
def subframeWord (x : Sample) (v u c : Bool) : Word :=
  let w := x.toNat / 256 + bitAt v 24 + bitAt u 25 + bitAt c 26
  BitVec.ofNat 32 (w + bitAt (oddParity 27 w) 27)

/-- The two subframes of an AES3 transmitter at sample i of the tick, and the frame's place in its block. -/
def outSubframe (s : State) (before : Vector Direct 64) (p : Fin 12) (n i : Nat) (sub : Fin 2) : Option Word :=
  let x := s.ports.port[p]
  let k := now s - 1
  match x.state with
  | .stopped | .armed => none
  | st =>
    if !flag x.cfg 5 then none
    else
      let z := (x.zCount + i) % 192
      let data : Bool := (decide (st = PortRun.running) || decide (st = PortRun.fault)) && x.dataOn && decide (x.dataFrom ≤ k)
      let b := playValue s before (slotEp p sub)
      let v := if data then b.samples.getD i 0 else 0
      some (subframeWord (factored v (outFactor x n i)) (!(data && b.valid)) (blockBit (x.user[sub].tx.getD []) z)
        (blockBit (txStatusBlock x.cfg x.cs[sub]) z))

/-- The block of a subframe after a Z preamble: the waiting block takes over. -/
def AesBlock.atZ (b : AesBlock) : AesBlock :=
  match b.txNext with
  | some n => { b with tx := some n, txNext := none }
  | none => b

/-- One sample position of an AES3 transmitter (R322): at a Z preamble the waiting blocks take over. -/
def aesSend (before : Vector Direct 64) (p : Fin 12) (n : Nat) (s : State) (i : Nat) : State :=
  let x := s.ports.port[p]
  let s1 := if (x.zCount + i) % 192 = 0 ∧ x.state ≠ .stopped ∧ x.state ≠ .armed then
      portMod p (fun x => { x with cs := vmap AesBlock.atZ x.cs, user := vmap AesBlock.atZ x.user }) s
    else s
  portMod p (fun x => { x with sent := x.sent ++ [(fins 2).map (outSubframe s1 before p n i)] }) s1

/-- What the ports sent in the tick that ended (R310): a delivered value is played in the tick after its boundary. -/
def portOutputs (before : Vector Direct 64) (s0 : State) : State :=
  let n := rampSamples (fs s0) (spt s0) 1
  let k := now s0 - 1
  (fins 12).foldl (fun s p =>
    let x := s.ports.port[p]
    let fade : Option Nat := match x.outFade with
      | some j => if x.state = .running ∧ x.dataFrom ≤ k then (if n ≤ j + spt s then none else some (j + spt s)) else x.outFade
      | none => none
    if isAes p then
      let s1 := (List.range (spt s)).foldl (aesSend before p n) (portMod p (fun x => { x with sent := [] }) s)
      portMod p (fun x => { x with outFade := fade, zCount := (x.zCount + spt s) % 192, postLeft := x.postLeft - spt s }) s1
    else
      portMod p (fun x =>
        { pruneCommits x (spt s * now s) with
            outFade := fade, lostOut := x.lostOut.filter fun q => decide (spt s * now s ≤ q),
            postLeft := if portRole p x.cfg = 0 then x.postLeft - spt s else x.postLeft }) (sendFrames before p n s)) s0

end Sys2Proof.Machine
end

