-- ==== Sys2Proof/Machine/PowerOps.lean ====
section
/-!
DEFINITION. Operations of the loudspeaker power stage (R333–R364) that other blocks use: levels and their ramps, channels and
groups, the PS_STARTs that wait, and the hardware mute ramp.
-/
namespace Sys2Proof.Machine

/-! ### Levels (R335) -/

/-- −120.0 dB in 1/65,536 dB, the endpoint that mute counts as in a ramp (R55). -/
def muteLevel : Int := -7864320

/-- The level at step j of the running ramp (R55). -/
def Lev.step (l : Lev) (j : Nat) : Int :=
  l.from_ + ((l.aim.getD muteLevel - l.from_) * j) / (max l.n 1 : Nat)

/-- The level of the last sample that has entered. -/
def Lev.now (l : Lev) : Option Int := if l.n = 0 then l.aim else some (l.step l.j)

/-- The level of the i-th of the next samples (from 0). -/
def Lev.ahead (l : Lev) (i : Nat) : Option Int :=
  if l.n = 0 ∨ l.n < l.j + i + 1 then l.aim else some (l.step (l.j + i + 1))

/-- A ramp of n samples to a level from the present one (R55, R56). -/
def Lev.ramp (l : Lev) (t : Option Int) (n : Nat) : Lev :=
  match n, l.now, t with
  | 0, _, t => Lev.steady t
  | _, none, none => Lev.steady none
  | n, c, t => { from_ := c.getD muteLevel, aim := t, n := n, j := 0 }

/-- A ramp that ends where it stands. -/
def Lev.freeze (l : Lev) : Lev := Lev.steady l.now

/-- After k samples. -/
def Lev.advance (l : Lev) (k : Nat) : Lev := if l.n = 0 then l else if l.n ≤ l.j + k then Lev.steady l.aim else { l with j := l.j + k }

/-- The sum of the three levels; none is mute. -/
def addLevels (a b c : Option Int) : Option Int :=
  match a, b, c with
  | some x, some y, some z => if x + y + z < muteLevel then none else some (x + y + z)
  | _, _, _ => none

/-- The linear gain of a total level (R335, R45). -/
def levelGain : Option Int → Int
  | none => 0
  | some l => gainOfLevel l

/-! ### Channels and groups -/

def psMod (f : PowerStage → PowerStage) (s : State) : State := { s with ps := f s.ps }
def chMod (c : Fin 8) (f : PsCh → PsCh) (s : State) : State := psMod (fun p => { p with ch := vmod p.ch c f }) s
def groupMod (g : Fin 2) (f : PsGroup → PsGroup) (s : State) : State := psMod (fun p => { p with group := vmod p.group g f }) s

/-- The group of a channel and the channels of a group (R333). -/
def groupOf (c : Fin 8) : Fin 2 := ⟨c.val / 4, by omega⟩
def groupChs (g : Fin 2) : List (Fin 8) := (fins 8).filter fun c => decide (groupOf c = g)

/-- A channel plays: its half-bridges are released. -/
def PsCh.playing (x : PsCh) : Bool := decide (x.state = .ramping) || decide (x.state = .running) || decide (x.state = .stopping)

/-- A channel is off (R347). -/
def PsCh.off (x : PsCh) : Bool := decide (x.state = .stopped) || decide (x.state = .fault) || decide (x.state = .latched)

/-- VFS_V clamped to 5–105 V; ILIM clamped to 10–60; PILOT, its frequency in Hz and PILOT_MV (R354, R363). -/
def vfsOf (s : State) (c : Fin 8) : Nat := max 5 (min 105 (regFld s (Reg.psChCfg c) 6 0))
def ilimOf (s : State) (c : Fin 8) : Nat := max 10 (min 60 (regFld s (Reg.psChLim c) 7 0))
def pilotOf (s : State) (c : Fin 8) : Nat := let p := regFld s (Reg.psChCfg c) 10 8; if 4 < p then 0 else p
def pilotHz (s : State) (c : Fin 8) : Nat := match pilotOf s c with | 0 => 0 | k => 3 * k + 3
def pilotMv (s : State) (c : Fin 8) : Nat := max 1 (min 50 (regFld s (Reg.psChCfg c) 21 16))

/-- RAIL_MAX of a group in V (R363). -/
def railMax (s : State) (g : Fin 2) : Nat := max 15 (min 110 (regFld s Reg.psRailMax (8 * g.val + 7) (8 * g.val)))

/-- HEADROOM_V and DECAY_MS (R363). -/
def headroom (s : State) : Nat := max 4 (regFld s Reg.psBoostCfg 4 0)
def decayMs (s : State) : Nat := max 10 (regFld s Reg.psBoostCfg 15 8)

/-- The three fault sources that name a channel (R358). -/
def psSources : List Nat := [Src.psShort, Src.psDc, Src.psDieTemp]

/-- A start ramp has completed without a further fault (R357, R454): the recovering instances of the channel clear. -/
def confirmHealth (c : Fin 8) (s0 : State) : State :=
  psSources.foldl (fun s src =>
    let i := sumpInst s src c
    if i.state = .recovering then
      faultEvent src c 3 (setInst src c { i with state := .clear, lastTick := now s } s)
    else s) s0

/-- Lift the fence of a channel (R457). -/
def unfenceCh (c : Fin 8) (s : State) : State :=
  if fenced s (.channel c) then
    let src := (psSources.find? fun x => decide ((sumpInst s x c).state ≠ .clear)).getD Src.psShort
    faultEvent src c 7
      { s with sump := { s.sump with fences := s.sump.fences.filter fun f => decide (f.1 ≠ FenceUnit.channel c) } }
  else s

/-! ### The waiting PS_STARTs (R346) -/

/-- The result of a channel's start has come. -/
def psResult (c : Fin 8) (st : Nat) (s : State) : State :=
  psMod (fun p => { p with waits := p.waits.map fun w =>
    { w with results := w.results.map fun r => if r.1 = c ∧ r.2.isNone then (r.1, some st) else r } }) s

/-- Complete the commands whose channels have all answered: with the first status that is not OK (R360). -/
def psComplete (s : State) : State :=
  let done := s.ps.waits.filter fun w => w.results.all fun r => r.2.isSome
  done.foldl (fun s w =>
    let bad := w.results.find? fun r => decide (r.2 ≠ some St.ok)
    completeAt w.tick w.ticket ((bad.bind (·.2)).getD (okOf w.ticket)) 0 s)
    (psMod (fun p => { p with waits := p.waits.filter fun w => w.results.any fun r => r.2.isNone }) s)

/-! ### The hardware mute ramp (R359) -/

/-- The frequency in force in kHz (R341). -/
def fswKhz (s : State) : Nat := 1920 + 8 * s.ps.code

/-- The total level of a channel (R335) at the i-th of the next samples (from 0). -/
def PsCh.levelAhead (x : PsCh) (i : Nat) : Option Int := addLevels (x.start.ahead i) (x.budget.ahead i) (x.mute.ahead i)

/-- Trigger the ramp on a channel at an instant of the tick in hand; the channel then enters `next`. L_T is the level of the sample
that has entered last at that instant. A channel that has not been released is off at once. -/
def muteFrom (instant : Nat) (next : PsRun) (pause : PsPause) (s : State) (c : Fin 8) : State :=
  let x := s.ps.ch[c]
  if x.off then s
  else if !x.playing then chMod c (fun x => { x with state := next, pause := pause }) s
  else if x.hw.isSome then chMod c (fun x => { x with pause := pause, hw := x.hw.map fun h => { h with next := next } }) s
  else
    let i := (instant - s.time.refTime) * spt s / tickUnits s
    chMod c (fun x => { x with pause := pause, hw := some { level := x.levelAhead i, at_ := instant, cycles := 10 * fswKhz s, next := next } }) s

/-- Trigger the ramp on a channel between two boundaries: where in the tick is a free value. -/
def muteCh (next : PsRun) (pause : PsPause) (s : State) (c : Fin 8) : State :=
  let f := freshFree 32 s
  muteFrom (s.time.refTime + f.1 % tickUnits s) next pause f.2 c

/-- The ramp on every channel that is not off. -/
def muteAll (next : PsRun) (pause : PsPause) (s : State) : State := (fins 8).foldl (muteCh next pause) s

/-- The ramp on every channel that is not off, triggered at the boundary itself (GLOBAL_RESET). -/
def muteAllNow (next : PsRun) (pause : PsPause) (s : State) : State := (fins 8).foldl (muteFrom s.time.refTime next pause) s

/-- The linear gain of the ramp at a time (R359): that of the switching cycle that holds the instant. -/
def HwMute.gainAt (h : HwMute) (khz t : Nat) : Int :=
  if t < h.at_ then 2 ^ 27
  else
    let c := (t - h.at_) * khz * 1000 / refSecond + 1
    match h.level with
    | none => 0
    | some l =>
      if l ≤ muteLevel ∨ h.cycles < c then 0
      else gainOfLevel ((muteLevel - l) * c / (max h.cycles 1 : Nat))

/-- 10 ms after its trigger the ramp has run: the half-bridges are turned off. -/
def endMutes (s : State) : State :=
  (fins 8).foldl (fun s c =>
    match s.ps.ch[c].hw with
    | some h =>
      if h.at_ + refSecond / 100 ≤ s.time.refTime then
        chMod c (fun x => { x with state := h.next, hw := none, retry := false, start := x.start.freeze }) s
      else s
    | none => s) s

end Sys2Proof.Machine
end

