-- ==== Sys2Proof/Machine/Fence.lean ====
section
/-!
DEFINITION. Fences (R457): what isolates each kind of unit, and the settling of the fences and the HALT latches (R460) that the
faults of a command have raised.
-/
namespace Sys2Proof.Machine

/-- Isolate a fenced unit (R457). -/
def isolate (u : FenceUnit) (s : State) : State :=
  match u with
  | .link n => quarantineLink n s
  | .port n => stopAtOnce n s
  | .eth n => ethDown n s
  | _ => s

/-- Isolate the units fenced since the last settling; isolating one may fence another. -/
def settleN : Nat → State → State
  | 0, s => s
  | k + 1, s =>
    match s.sump.fences.find? fun f => !f.2 with
    | none => s
    | some f =>
      settleN k (isolate f.1 { s with sump := { s.sump with fences := s.sump.fences.map fun g => if g.1 = f.1 then (g.1, true) else g } })

/-- A HALT latch stops the audio engine (R460): the mute ramp runs on every channel, a start that waits for its rail is aborted,
and all ports stop at once. -/
def haltEngine (s : State) : State :=
  let begun := (fins 8).filter fun (c : Fin 8) => decide (s.ps.ch[c].state = .starting)
  let s1 := psComplete (muteAll .stopped .none (begun.foldl (fun s c => psResult c St.aborted s) s))
  (fins 12).foldl (fun s p => stopAtOnce p s) { s1 with sump := { s1.sump with haltDue := false } }

/-- Settle every new fence, the units numbering 48, and a HALT latch; the partners are told what has changed (R181). -/
def settle (s : State) : State :=
  let s1 := settleN 64 s
  tellPartners (if s1.sump.haltDue then haltEngine s1 else s1)

/-- The end of a command's effect: the next state, with its new fences settled. -/
def fin (s : State) : Host.Outcome State Fault Refusal := .next (settle s)

end Sys2Proof.Machine
end

