-- ==== Sys2Proof/Machine/Clock.lean ====
section
/-!
DEFINITION. References, holdover, fabric time and clock synthesis (R228–R263): the candidates and their selection, the DPLL, tick
alignment, the anchor, the PLLs and the pulse outputs.
-/
namespace Sys2Proof.Machine

/-- Change the clock state. -/
def clk (f : Clock → Clock) (s : State) : State := { s with clock := f s.clock }

/-- Change one candidate. -/
def candMod (n : Fin 8) (f : Cand → Cand) (s : State) : State := clk (fun c => { c with cands := vmod c.cands n f }) s

/-! ### Candidates -/

/-- INSTANCE of a candidate slot (R229). -/
def candInstance (s : State) (n : Fin 8) : Nat := regFld s (Reg.refCfg n) 7 4

/-- The instances of a type (R229). -/
def instanceMax : Nat → Nat
  | 1 => 1 | 2 => 4 | 3 => 2 | 4 => 1 | 5 => 1 | 6 => 2 | _ => 0

/-- A slot uses REFIN_B: F10M, or PPS with INSTANCE 0 (R229). -/
def usesRefinB (s : State) (n : Fin 8) : Bool :=
  decide (candType s n = 5) || (decide (candType s n = 6) && decide (candInstance s n = 0))

/-- ENABLE of a slot. -/
def candEnabled (s : State) (n : Fin 8) : Bool := regBit s (Reg.refCfg n) 0

/-- A slot whose setting has an effect (R229). -/
def candActive (s : State) (n : Fin 8) : Bool :=
  let lower := (fins 8).filter fun m => decide (m.val < n.val) && candEnabled s m
  candEnabled s n && decide (candInstance s n < instanceMax (candType s n)) &&
    !(lower.any fun m => decide (candType s m = candType s n) && decide (candInstance s m = candInstance s n)) &&
    !(usesRefinB s n && lower.any (usesRefinB s))

/-- Quality classes of R235: PTP and PPS first. -/
def qualityClass (ty : Nat) : Nat := if ty = 2 ∨ ty = 6 then 0 else 1

/-- QUAL_S and WTR_S (R262). -/
def qualS (s : State) : Nat := max 1 (regFld s Reg.refCtrl 27 24)
def wtrS (s : State) : Nat := regFld s Reg.refCtrl 23 16
def suspectSwitch (s : State) : Bool := regBit s Reg.refCtrl 28

/-- The FAB slot of a follower, whose limits never disqualify it (R236). -/
def fabFollowed (s : State) (n : Fin 8) : Bool := decide (candType s n = 1) && isFollower s

/-- A candidate that the selector may choose by itself (R235). -/
def choosable (s : State) (n : Fin 8) : Bool :=
  let c := s.clock.cands[n]
  decide (c.state = .qualified) && candActive s n && decide (candType s n ≠ 1) && !(c.suspect && suspectSwitch s)

/-- The order of choice of R235, as a number that is least for the best. -/
def choiceRank (s : State) (n : Fin 8) : Nat :=
  regFld s (Reg.refCfg n) 15 8 * 100 + qualityClass (candType s n) * 10 + n.val

/-- The best candidate by R235. -/
def bestCand (s : State) : Option (Fin 8) :=
  ((fins 8).filter (choosable s)).foldl (fun b n =>
    match b with | none => some n | some m => if choiceRank s n < choiceRank s m then some n else b) none

/-- What the selector selects now (R235, R236). -/
def wanted (s : State) : Option (Fin 8) :=
  if isFollower s then (fins 8).find? fun n => candActive s n && decide (candType s n = 1)
  else
    match s.clock.forced with
    | some f => if s.clock.cands[f].state = .qualified then some f else bestCand s
    | none => bestCand s

/-- 60 s of reference history exist (R242, R262). -/
def historyValid (s : State) : Bool := 60 ≤ s.clock.refSecs

/-- 0.1 ppb in the unit of the loop, 10^−21. -/
def ppbTenth : Int := 10 ^ 11

/-- The mean of a list of integers, rounded. -/
def meanI (l : List Int) : Int := roundDiv (l.foldl (· + ·) 0) (max 1 l.length)

/-- The 60 s of reference history that end 2 s before now (R242). -/
def holdWindow (s : State) : List (Int × Int) := (s.clock.refHist.drop 2).take 60

/-- The holdover frequency relative to LOCAL, in 10^−21 (R242, R243): f_avg, the temperature term, and with READY the ageing
term; none of them while no history exists. Which terms act before READY, and the units of TC and AGE (DESIGN CHOICE, log 62). -/
def holdFreq (s : State) : Int :=
  let c := s.clock
  if !historyValid s then 0
  else
    let w := holdWindow s
    let age : Int := if 7 ≤ c.learnSecs / 86400 then
      signed 16 c.ageing.toNat * 10 ^ 10 * ((s.time.refTime - c.holdSince : Nat) : Int) / (86400 * refSecond) else 0
    meanI (w.map (·.1)) * ppbTenth + c.tc * 10 ^ 6 * (c.temp - meanI (w.map (·.2))) + age

/-- A force whose candidate has left QUALIFIED ends (R260). -/
def endForce (s : State) : State :=
  match s.clock.forced with
  | none => s
  | some f =>
    if s.clock.cands[f].state = .qualified then s
    else report 0x0402 f [] (clk (fun c => { c with forced := none }) s)

/-- What the integrator is loaded with at a new selection (R237): the candidate's measured frequency; a follower without a
measured FAB slot holds its frequency (R236). -/
def loadedFreq (s : State) (w : Option (Fin 8)) : Int :=
  match w with
  | some n =>
    if s.clock.cands[n].state = .disabled ∨ s.clock.cands[n].state = .absent then s.clock.integ
    else s.clock.cands[n].ofsLocal * ppbTenth
  | none => s.clock.integ

/-- Revise the selection (R235–R239, R242): a new selection slews from the phase the output has reached; without one a node that
is no follower enters holdover. -/
def reselect (s0 : State) : State :=
  let s := clk (fun c => { c with judged := true }) (endForce s0)
  let w := wanted s
  let f := isFollower s
  if w = s.clock.selected ∧ f = s.clock.selFab then s
  else
    let s1 := sticky Reg.refEventStat 4 (clk (fun c => { c with selected := w, selFab := f, lowUs := 0 }) s)
    if f ∨ w.isSome then
      clk (fun c => { c with dpll := if s.time.aligned then .slew else .tracking, integ := loadedFreq s w }) s1
    else
      raise Src.refHoldover 0 0 (sticky Reg.refEventStat 5
        (clk (fun c => { c with dpll := if historyValid s then .holdover else .freerun, timeFar := false, corr := 0,
                                holdSince := s.time.refTime }) s1))

/-- A candidate leaves QUALIFYING, WAIT_RESTORE or QUALIFIED (R231–R234). -/
def disqualify (n : Fin 8) (st : CandState) (s : State) : State :=
  let was := s.clock.cands[n].state
  let s1 := candMod n (fun c => { c with state := st, left := if st = .qualifying then qualS s else 0, suspect := false }) s
  if was = .qualified ∨ was = .waitRestore then sticky Reg.refEventStat 1 s1 else s1

/-- The slope of the least-squares line through the offsets, newest first, in 0.01 ppb/s (R231). -/
def driftSlope (h : List Int) : Int :=
  let k := h.length
  let ys := h.reverse
  let sx : Int := (List.range k).foldl (fun (a : Int) (x : Nat) => a + (x : Int)) 0
  let sxx : Int := (List.range k).foldl (fun (a : Int) (x : Nat) => a + (x : Int) * x) 0
  let sy : Int := ys.foldl (· + ·) 0
  let sxy : Int := ((List.range k).zip ys).foldl (fun a p => a + (p.1 : Int) * p.2) 0
  let den := (k : Int) * sxx - sx * sx
  if den ≤ 0 then 0 else roundDiv (10 * ((k : Int) * sxy - sx * sy)) den.toNat

/-- Count down a second of QUALIFYING or WAIT_RESTORE (R234, R236). -/
def qualifyStep (s : State) (n : Fin 8) (good : Bool) (c : Cand) : Cand :=
  match c.state with
  | .qualifying =>
    if !good then { c with left := qualS s }
    else if 1 < c.left then { c with left := c.left - 1 }
    else if !c.everQualified || fabFollowed s n || decide (wtrS s = 0) then { c with state := .qualified, left := 0, everQualified := true }
    else { c with state := .waitRestore, left := wtrS s }
  | .waitRestore =>
    if 1 < c.left then { c with left := c.left - 1 } else { c with state := .qualified, left := 0 }
  | _ => c

/-- The PTP instance of an Ethernet port is in SLAVE (R276). -/
def ptpSlave (s : State) (port : Nat) : Bool :=
  match vget? s.net.eth port with
  | some e => regBit s (Reg.ethPtpCfg port) 0 && decide (e.ptpState = 9)
  | none => false

/-- A candidate's signal or message flow is there: for FAB, a live anchor beat on a link (R236); for PTP, an instance in SLAVE
(R276). -/
def candPresent (s : State) (n : Fin 8) (m : CandMeasure) : Bool :=
  if candType s n = 1 then s.clock.upstream.isSome
  else if candType s n = 2 ∧ !ptpSlave s (candInstance s n) then false
  else m.present && !(decide (candType s n = 2) && decide (1000000 < m.servoNs.natAbs))

/-- One second of one candidate (R231, R233, R234). -/
def candSecond (n : Fin 8) (m : CandMeasure) (s : State) : State :=
  let c := s.clock.cands[n]
  if !candActive s n then candMod n (fun c => { Cand.reset with everQualified := c.everQualified }) s
  else if !candPresent s n m then
    if c.state = .disabled ∨ c.state = .absent then
      candMod n (fun c => { c with state := .absent, ofsLocal := 0, ofsOutput := 0, driftRate := 0, history := [], warn := false, drift := false }) s
    else disqualify n .absent (candMod n (fun c => { c with ofsLocal := 0, ofsOutput := 0, driftRate := 0, history := [], warn := false, drift := false }) s)
  else
    let soft := 10 * (regFld s Reg.refFreqLimits 15 0)
    let hard := 10 * (regFld s Reg.refFreqLimits 31 16)
    let hist := (m.ofsLocal :: c.history).take 8
    let rate := driftSlope hist
    let warn : Bool := soft < m.ofsLocal.natAbs
    let drift : Bool := 100 * (regFld s Reg.refDriftLimits 15 0) < rate.natAbs
    let good : Bool := !warn && !(decide (candType s n = 2) && decide (1000 < m.servoNs.natAbs))
    let fresh : Bool := decide (c.state = .disabled) || decide (c.state = .absent)
    let c1 := { c with ofsLocal := m.ofsLocal, ofsOutput := m.ofsOutput, history := hist, driftRate := rate, warn := warn,
                       drift := drift }
    let c2 := if fresh then { c1 with state := .qualifying, left := qualS s } else qualifyStep s n good c1
    let s1 := candMod n (fun _ => c2) s
    let s2 := if warn then raise Src.refWarn n 0 (sticky Reg.refEventStat 0 s1) else s1
    let s3 := if drift then raise Src.refDrift n 0 (sticky Reg.refEventStat 2 s2) else s2
    if decide (hard < m.ofsLocal.natAbs) && !fabFollowed s n && (decide (c2.state = .qualified) || decide (c2.state = .waitRestore))
    then disqualify n .qualifying s3 else s3

/-- The cross-check of the selected candidate (R232). -/
def crossCheck (s : State) : State :=
  let x := 10 * (regFld s Reg.refDriftLimits 31 16)
  let clear := clk (fun c => { c with cands := vmap (fun c => { c with suspect := false }) c.cands }) s
  match s.clock.selected with
  | none => clear
  | some n =>
    let me := s.clock.cands[n].ofsOutput
    let others := ((fins 8).filter fun m => decide (m ≠ n) && decide (s.clock.cands[m].state = .qualified)).map
      fun m => s.clock.cands[m].ofsOutput
    let far := others.filter fun o => decide (x < (o - me).natAbs)
    let bad : Bool := far.mapIdx (fun i o => (far.drop (i + 1)).any fun p => decide ((o - p).natAbs ≤ x)) |>.any id
    if !bad then clear
    else
      let s1 := raise Src.refSuspect n 0 (sticky Reg.refEventStat 3 (candMod n (fun c => { c with suspect := true }) clear))
      if suspectSwitch s && !fabFollowed s n then
        candMod n (fun c => { c with suspect := true }) (disqualify n .qualifying s1)
      else s1

/-- CLASS of this node's claim (R246): what it has selected, or what a follower would select as anchor. -/
def claimClass (s : State) : Nat :=
  match (if isFollower s then bestCand s else s.clock.selected) with
  | some n => qualityClass (candType s n)
  | none => if s.clock.dpll = .holdover then 2 else 3

/-- One second of learning and of reference history while a candidate is selected (R242, R243): what is learned of TC and AGE is
a free value (DESIGN CHOICE, log 62). -/
def learnSecond (s : State) : State :=
  match s.clock.selected with
  | none => s
  | some n =>
    let a := freshFree 16 s
    let t := freshFree 16 a.2
    clk (fun c => { c with ageing := BitVec.ofNat 16 a.1, tc := signed 16 t.1, refSecs := c.refSecs + 1,
                           learnSecs := c.learnSecs + 1,
                           refHist := ((c.cands[n].ofsLocal, c.temp) :: c.refHist).take 62 }) t.2

/-- REF_SECOND (R231–R236, R242, R243, R246): one measurement of every candidate and of the oscillator's temperature; the
estimated time error of a claim of class 0 is a free value (DESIGN CHOICE, log 62). -/
def execRefSecond (m : SecondIn) (s0 : State) : Host.Outcome State Fault Refusal :=
  let s := clk (fun c => { c with temp := m.tempMk }) s0
  let none_ : CandMeasure := { present := false, ofsLocal := 0, ofsOutput := 0, servoNs := 0 }
  let s1 := (fins 8).foldl (fun s n => candSecond n (m.cands.getD n.val none_) s) s
  let s2 := reselect (crossCheck s1)
  let s3 := learnSecond s2
  let e := freshFree 16 s3
  fin (if claimClass s3 = 0 then clk (fun c => { c with timeErr := BitVec.ofNat 16 e.1 }) e.2
       else clk (fun c => { c with timeErr := 0xFFFF }) s3)

/-- REF_INPUT_FAULT (R233): a stop leaves the candidate ABSENT, a glitch or a rate change QUALIFYING. -/
def execRefInputFault (slot : Fin 8) (fault : RefFault) (s : State) : Host.Outcome State Fault Refusal :=
  match s.clock.cands[slot].state with
  | .disabled | .absent => .next s
  | _ => fin (reselect (disqualify slot (match fault with | .stop => .absent | _ => .qualifying) s))

/-- REF_SIGNAL_DETECT (R234). -/
def execRefSignalDetect (slot : Fin 8) (s : State) : Host.Outcome State Fault Refusal :=
  if s.clock.cands[slot].state = .absent ∧ candActive s slot then
    .next (candMod slot (fun c => { c with state := .qualifying, left := qualS s }) s)
  else .next s

/-- Every slot after a change of the slot settings (R229, R234): a slot without effect is DISABLED, one that gains effect is
ABSENT. -/
def refreshCands (s : State) : State :=
  (fins 8).foldl (fun s (n : Fin 8) =>
    if !candActive s n then candMod n (fun c => { Cand.reset with everQualified := c.everQualified }) s
    else if s.clock.cands[n].state = .disabled then candMod n (fun c => { c with state := .absent }) s
    else s) s

/-- A write of REF_CFG_n (R234): ENABLE acts at once; a new TYPE or INSTANCE of an enabled slot starts the slot anew (DESIGN
CHOICE, log 151). -/
def writeRefCfg (n : Fin 8) (value : Word) (s : State) : State :=
  let was := regFld s (Reg.refCfg n) 7 0
  let s1 := regSet (Reg.refCfg n) (value &&& 0xFFFF) s
  let s2 := if regFld s1 (Reg.refCfg n) 7 0 = was then s1
    else candMod n (fun c => { Cand.reset with everQualified := c.everQualified }) s1
  reselect (refreshCands s2)

/-! ### The DPLL -/

/-- SLOPE in units of 10 ns/s (R237, R262). -/
def slope (s : State) : Nat := max 1 (min 1000 (regFld s Reg.refCtrl 9 0))

/-- The loop bandwidth in mHz of a candidate: REF_BW_n within its type's range, or the default (R229). -/
def bandwidth (s : State) (n : Fin 8) : Nat :=
  let b := regFld s (Reg.refBw n) 16 0
  let lim (d lo hi : Nat) : Nat := if b = 0 then d else max lo (min hi b)
  match candType s n with
  | 1 => lim 20000 1000 100000
  | 2 => lim 50 10 1000
  | 3 => lim 2000 500 10000
  | 4 => 2000
  | 5 => 100
  | _ => lim 10 1 100

/-- Fold e into (−P/2, P/2] for P = num/den ns (R230), to whole ns. -/
def foldPhase (e : Int) (num den : Nat) : Int :=
  let x := e * den
  let p : Int := num
  let k := (2 * x + p - 1) / (2 * p)
  roundDiv (x - k * p) den

/-- A follower's FAB phase error in ns: θ of its upstream link (R245). -/
def fabError (s : State) : Int :=
  match s.clock.upstream.bind fun l => s.clock.ofLink[l] with
  | some t => roundDiv t.theta 4000
  | none => s.clock.error

/-- The phase error toward a candidate (R230, R245): θ of the upstream link for FAB; else the measured phase with the input's
offset, folded by the candidate's period. -/
def phaseError (s : State) (n : Fin 8) (phaseNs : Int) : Int :=
  let offA := signed 16 (regFld s Reg.refinCfg 15 0)
  let offB := signed 16 (regFld s Reg.refinCfg 31 16)
  match candType s n with
  | 1 => fabError s
  | 3 => foldPhase (phaseNs - offA) 1000000000 (if candInstance s n = 0 then fs s else 256 * fs s)
  | 4 => foldPhase phaseNs 1000000000 (fs s)
  | 5 => foldPhase (phaseNs - offB) 100 1
  | 6 => foldPhase (phaseNs - offB) 1000000000 1
  | _ => phaseNs

/-- 2π in units of 10^−9. -/
def twoPi : Nat := 6283185307

/-- |e| lies below the slew threshold SLOPE / (2π·BW) (R237), for a bandwidth in mHz. -/
def belowThreshold (s : State) (bw : Nat) (e : Int) : Bool :=
  decide (e.natAbs * bw * twoPi < 10000 * slope s * 1000000000)

/-- What the loop follows and its bandwidth in mHz: FAB on a follower, with the default of its type where no slot is set (R236),
else the selected candidate. -/
def loopBandwidth (s : State) : Option Nat :=
  if isFollower s then some (match s.clock.selected with | some n => bandwidth s n | none => 20000)
  else s.clock.selected.map (bandwidth s)

/-- The output's offset from LOCAL in units of 10^−21. -/
def Clock.outOffset (c : Clock) : Int := c.integ + c.corr

/-- The control word of an offset: in 2^−40 of the VCO frequency, two's complement (R228; DESIGN CHOICE, log 62). -/
def controlWord (f : Int) : Nat := unsign 40 (roundDiv (f * 2 ^ 40) (10 ^ 21))

/-- One step of the second-order loop of damping 1 (R237) over `dt` µs: the correction −2ω·e clamped to ±SLOPE; during a slew
the full SLOPE, the integrator standing still, so that the output differs from the reference by exactly SLOPE. -/
def loopStep (bw lim dt : Nat) (e : Int) (c : Clock) : Clock :=
  if c.dpll = .slew then { c with corr := if 0 < e then -lim else if e < 0 then lim else 0 }
  else { c with corr := clampI (-lim) lim (-(2 * (bw * twoPi : Nat) * e)),
                integ := c.integ - roundDiv ((bw * twoPi : Nat) ^ 2 * e * dt) (10 ^ 18) }

/-- DPLL_STATE after a phase error (R237). -/
def dpllAfter (below : Bool) (low : Nat) : DpllState → DpllState
  | .slew => if below then (if 10000000 ≤ low then .locked else .tracking) else .slew
  | .tracking => if 10000000 ≤ low then .locked else .tracking
  | x => x

/-- A phase error toward what is followed, `dt` µs after the last one (R237, R240). -/
def dpllStep (bw dt : Nat) (carriesTime : Bool) (e : Int) (s : State) : State :=
  let low := if e.natAbs < 100 then s.clock.lowUs + dt else 0
  let far : Bool := carriesTime && decide (1000000 < e.natAbs)
  let s1 := clk (fun c => loopStep bw (slope s * 10 ^ 13) dt e
    { c with error := clampI (-2147483648) 2147483647 e, lowUs := low, dpll := dpllAfter (belowThreshold s bw e) low c.dpll,
             timeFar := far, sinceUs := 0, fabNew := false }) s
  if far && !s.clock.timeFar then raise Src.timeFar 0 0 (sticky Reg.refEventStat 7 s1) else s1

/-- The loop's work of one update (R236–R240, R242, R248): a follower steps only on a newer anchor beat and holds otherwise;
without a reference the output runs at the holdover frequency. -/
def loopUpdate (phaseNs : Int) (s : State) : State :=
  match loopBandwidth s with
  | none => clk (fun c => { c with integ := holdFreq s, corr := 0 }) s
  | some bw =>
    if isFollower s then
      (if s.clock.fabNew then dpllStep bw s.clock.sinceUs true (fabError s) s else s)
    else match s.clock.selected with
      | some n => dpllStep bw s.clock.sinceUs (decide (candType s n = 1) || decide (candType s n = 2)) (phaseError s n phaseNs) s
      | none => s

/-- DPLL_UPDATE (R228): every 10 µs the last word's correction accumulates, and the loop writes the next control word. -/
def execDpllUpdate (phaseNs : Int) (s : State) : Host.Outcome State Fault Refusal :=
  let s1 := loopUpdate phaseNs (clk (fun c => { c with accum := c.accum + c.outOffset, sinceUs := c.sinceUs + 10 }) s)
  fin (clk (fun c => { c with fcw := controlWord c.outOffset }) s1)

/-! ### Tick alignment -/

/-- floor(t × fs / S) for a node time in the unit of refTime (R17). -/
def tickOf (s : State) (units : Nat) : Nat := units / tickUnits s

/-- The period of a pulse FUNCTION and the time it is high, in MEDIA cycles (R254): WCK 1×fs, WCK 256×fs, PPS, TICK; the 50 %
duty of WCK 256×fs (DESIGN CHOICE, log 153). -/
def pulseShape (s : State) (function : Nat) : Nat × Nat :=
  let sample := mediaHz s / fs s
  match function with
  | 1 => (sample, sample / 2)
  | 2 => (sample / 256, sample / 512)
  | 3 => (mediaHz s, mediaHz s / 1000)
  | 4 => (sample * spt s, sample)
  | _ => (1, 0)

/-- Move a count of MEDIA cycles within its period. -/
def shiftCount (period count : Nat) (by_ : Int) : Nat := (((count : Int) + by_) % (max 1 period : Nat)).toNat

/-- The running pulse outputs stay where they are while the grid moves by `ns` under them (R241, R255): against the new grid
their counts are later by that much. -/
def gridMoved (ns : Int) (s : State) : State :=
  clk (fun c => { c with pulses := vmap (fun (p : Pulse) =>
    { p with count := shiftCount (pulseShape s p.running).1 p.count (roundDiv (ns * mediaHz s) 1000000000) }) c.pulses }) s

/-- Load the tick counter (R16, R241): pending timed actions keep their tick numbers, and R23 is applied to them against the
loaded counter; the phase error is gone, the grid having moved by `ns`, and running pulse outputs stay where they are (R255). -/
def loadTick (k : Nat) (ns : Int) (s0 : State) : State :=
  let s := gridMoved ns s0
  let s1 : State := { s with
    time := { s.time with tick := BitVec.ofNat 64 k, aligned := true },
    clock := { s.clock with nodeUnits := k * tickUnits s, error := 0,
                            dpll := if s.clock.selected.isSome ∨ s.clock.selFab then .tracking else s.clock.dpll } }
  { s1 with
    ports := { s1.ports with port := vmap (fun (x : Port) => { x with offGrid := decide (x.state ≠ .stopped) }) s1.ports.port }
    timed := s1.timed.map fun t =>
      if openTick s1 ≤ t.tick then t else { t with tick := openTick s1, ticket := { t.ticket with late := true } } }

/-- The partner's tick number at this boundary: the frame that ends carries the one before it (R181, R241). -/
def partnerTick (s : State) (n : Fin 16) : Nat :=
  let l := s.links[n]
  (l.partner.elim 0 fun b => discN b 0x34 4) * 2 ^ 32 + l.tickLo.toNat + 1

/-- A node that takes its time from a Dorura link loads the tick number when the link reaches ATTACHED (R16, R183). -/
def fabAlign (s : State) : State :=
  if s.time.aligned then s
  else match s.clock.upstream with
    | some n => loadTick (partnerTick s n) (fabError s) s
    | none => s

/-- Load the tick that a node time lies in; the grid moves back by the part of the tick that has passed. -/
def alignAt (units : Nat) (s : State) : State :=
  loadTick (tickOf s units) (-(((units % tickUnits s) * 1000000000 / refSecond : Nat) : Int)) s

/-- Align on the nearest compared edge (R230, R241): the phase error is taken out of the output at once, node time stands. -/
def alignEdge (s : State) : State :=
  loadTick (tickOf s s.clock.nodeUnits) s.clock.error (clk (fun c => { c with accum := c.accum - c.error * 10 ^ 17 }) s)

/-- Node time in the unit of refTime. -/
def unitsOf (t : TimeVal) : Nat := t.sec.toNat * refSecond + (t.ns.toNat * 65536 + t.frac.toNat) * refSecond / (65536 * 1000000000)

/-- TICK_ALIGNMENT (R241): the first candidate qualifies. PTP sets node time; PPS sets the second boundary and keeps the second
count; the other inputs keep node time as it stands; FAB takes the partner's tick. -/
def execTickAlignment (slot : Fin 8) (time : TimeVal) (s : State) : Host.Outcome State Fault Refusal :=
  if s.time.aligned ∨ s.clock.cands[slot].state ≠ .qualified then .next s
  else
    match candType s slot with
    | 1 => .next (fabAlign s)
    | 2 => .next (alignAt (unitsOf time) s)
    | 6 => .next (alignAt ((s.clock.nodeUnits + refSecond / 2) / refSecond * refSecond) s)
    | _ => .next (alignEdge s)

/-- ALIGN_WAIT_S after HOST_READY without a qualified candidate (R241). -/
def alignWaitOver (s : State) : Bool :=
  decide (s.power.stage = .hostReady) && decide (s.power.readyAt + regFld s Reg.refAlignCtrl 7 0 * refSecond ≤ s.time.refTime) &&
    !(fins 8).any fun (n : Fin 8) => decide (s.clock.cands[n].state = .qualified) && candActive s n

/-- ALIGN_WAIT_EXPIRY (R241): the node aligns on LOCAL. -/
def execAlignWaitExpiry (s : State) : Host.Outcome State Fault Refusal :=
  if s.time.aligned ∨ !alignWaitOver s then .next s else .next (alignAt s.clock.nodeUnits s)

/-- TIME_SET (R241, R259, R260): the second count, the sub-second phase kept. -/
def execTimeSet (h : CmdHdr) (seconds : BitVec 64) (s : State) : Host.Outcome State Fault Refusal :=
  fin (untimedCmd h false (fun t s =>
    if s.time.aligned then complete t 0x40 0 s
    else complete t St.ok 0
      (clk (fun c => { c with nodeUnits := seconds.toNat * refSecond + c.nodeUnits % refSecond, timeSet := true }) s)) s)

/-! ### Fabric time and the anchor -/

/-- An anchor entry from a cell (R246); none when it is all 0. -/
def anchorAt (c : Cell) (o : Nat) : Option AnchorEntry :=
  if bodyN c o 8 = 0 then none
  else some
    { priority := BitVec.ofNat 8 (bodyN c o 1), hops := BitVec.ofNat 8 (bodyN c (o + 1) 1),
      timeErr := BitVec.ofNat 16 (bodyN c (o + 2) 2), id := BitVec.ofNat 12 (bodyN c (o + 4) 2),
      cls := BitVec.ofNat 4 (bodyN c (o + 4) 2 / 4096), beat := BitVec.ofNat 8 (bodyN c (o + 6) 1),
      gen := BitVec.ofNat 8 (bodyN c (o + 7) 1) }

/-- A GEN or a BEAT is newer than another: their difference mod 256 lies in 1–127 (R247). -/
def newer8 (g h : Byte) : Bool := decide (1 ≤ (g - h).toNat) && decide ((g - h).toNat ≤ 127)

/-- A TIME_SYNC of the upstream link with a newer beat of the anchor than the link brought before: an update of the FAB loop
(R245, R248). -/
def newerBeat (s : State) (link : Fin 16) (t : LinkTime) : Bool :=
  decide (s.clock.upstream = some link) &&
    match t.anchor with
    | none => false
    | some a => decide (s.clock.anchor.map (·.id) = some a.id) &&
      (match s.clock.ofLink[link].bind LinkTime.anchor with | some b => newer8 a.beat b.beat || decide (a.id ≠ b.id) | none => true)

/-- TIME_SYNC received on a link (R244, R245). -/
def execTimeSync (link : Fin 16) (cell : Cell) (s : State) : Host.Outcome State Fault Refusal :=
  fin (receiveCell link cell (fun s =>
    let own := s.links[link].rxOfs * 125
    let peer := signed 32 (bodyN cell 0x14 4) * 125
    let lagPeer : Int := 2 * bodyN cell 0x18 2
    let lagOwn : Int := 2 * s.links[link].lag
    let asym := signed 16 (regFld s (Reg.fabAsym link) 15 0) * 125
    let t : LinkTime :=
      { theta := own - peer - lagPeer + lagOwn - asym, delay := own + peer - lagOwn - lagPeer + asym,
        flags := BitVec.ofNat 8 (bodyN cell 0x1A 1), anchor := anchorAt cell 0x1C, standby := anchorAt cell 0x24, at_ := now s }
    clk (fun c => { c with ofLink := vset c.ofLink link (some t), fabNew := c.fabNew || newerBeat s link t }) s) s)

/-- A claim's rank: PRIORITY, CLASS, TIME_ERR, node ID; least is best (R246). -/
def AnchorEntry.rank (a : AnchorEntry) : Nat :=
  ((a.priority.toNat * 16 + a.cls.toNat) * 65536 + a.timeErr.toNat) * 4096 + a.id.toNat

/-- The best of a list of claims. -/
def bestClaim : List AnchorEntry → Option AnchorEntry
  | [] => none
  | a :: l => match bestClaim l with
    | none => some a
    | some b => if b.rank < a.rank then some b else some a

/-- This node's own claim (R246): with an ID, once its tick is aligned, and never while it stands aside (R459). -/
def ownClaim (s : State) : Option AnchorEntry :=
  if s.node.id ≠ 0 ∧ s.time.aligned ∧ !s.sump.aside then
    some { priority := BitVec.ofNat 8 (regFld s Reg.anchorCtrl 7 0), hops := 0,
           timeErr := if claimClass s = 0 then s.clock.timeErr else 0xFFFF, id := s.node.id,
           cls := BitVec.ofNat 4 (claimClass s), beat := BitVec.ofNat 8 (now s), gen := s.clock.gen }
  else none

/-- What the links said in the tick that ended, one hop further on (R247); entries of an anchor declared lost count again only
with a newer beat or generation (R248). -/
def heard (s : State) (pick : LinkTime → Option AnchorEntry) : List (Fin 16 × LinkTime × AnchorEntry) :=
  (fins 16).filterMap fun n =>
    match s.clock.ofLink[n] with
    | none => none
    | some t =>
      if now s ≤ t.at_ + 1 ∧ (s.links[n].state = .attached) then
        (pick t).bind fun a =>
          let stale : Bool := match s.clock.lost with
            | some x => decide (a.id = x.id) && decide (a.gen = x.gen) && !newer8 a.beat x.beat
            | none => false
          if a.id = s.node.id ∨ stale then none else some (n, t, { a with hops := a.hops + 1 })
      else none

/-- The newest of the beats of a claimant among entries. -/
def newestBeat (a : AnchorEntry) (l : List AnchorEntry) : AnchorEntry :=
  (l.filter fun b => b.id = a.id).foldl (fun x b => if newer8 b.beat x.beat then { x with beat := b.beat } else x) a

/-- The upstream link for an anchor (R245): the fewest hops, then the lowest index; never a link whose partner takes its time
from this node. -/
def upstreamFor (s : State) (id : BitVec 12) (pick : LinkTime → Option AnchorEntry) : Option (Fin 16 × AnchorEntry) :=
  ((heard s pick).filter fun x => x.2.2.id = id && !x.2.1.flags.getLsbD 2).foldl (fun b x =>
    match b with
    | none => some (x.1, x.2.2)
    | some y => if x.2.2.hops < y.2.hops then some (x.1, x.2.2) else b) none

/-- The full tick of a beat. -/
def beatTick (s : State) (b : Byte) : Nat := now s - (BitVec.ofNat 8 (now s) - b).toNat

/-- The claims of the newest generation: those heard, this node's own while it is the anchor, and the anchor followed so far,
whose beat need not have come in the last tick. -/
def anchorClaims (s : State) : List AnchorEntry :=
  let c := s.clock
  let own := if c.isAnchor then (ownClaim s).toList else []
  let got := (heard s LinkTime.anchor).map (·.2.2)
  let kept := match c.anchor with
    | some a => if c.isAnchor ∨ got.any (fun x => x.id = a.id) ∨ !(fins 16).any (attached s) then [] else [a]
    | none => []
  let all := own ++ got ++ kept
  match all with
  | [] => []
  | a :: l =>
    let g := l.foldl (fun g x => if newer8 x.gen g then x.gen else g) a.gen
    all.filter fun x => x.gen = g

/-- A change of the anchor is shown and reported, and a follower slews to the new anchor's time (R247). -/
def anchorChanged (old : Option AnchorEntry) (s : State) : State :=
  match s.clock.anchor with
  | none => s
  | some a =>
    if old.map (·.id) = some a.id then s
    else report 0x0401 0 (leBytes 2 a.id.toNat ++ [a.gen]) (sticky Reg.refEventStat 6
      (if isFollower s ∧ s.time.aligned then clk (fun c => { c with dpll := .slew, lowUs := 0 }) s else s))

/-- The view of a node at a tick boundary (R247, R248): anchor, standby, upstream link, beats, and for how long its own claim
has ranked better. A node with no ATTACHED link is its own anchor. -/
def anchorView (s : State) : State :=
  let c := s.clock
  let alone : Bool := !(fins 16).any (attached s)
  let own := ownClaim s
  let claims := anchorClaims s
  let got := (heard s LinkTime.anchor).map (·.2.2)
  let best := if alone then own else (bestClaim claims).map fun a => newestBeat a got
  let mine : Bool := alone || (c.isAnchor && (match best with | some a => decide (a.id = s.node.id) | none => true))
  let aid : BitVec 12 := match best with | some a => a.id | none => if mine then s.node.id else 0
  let up := if mine then none else (upstreamFor s aid LinkTime.anchor)
  let best1 := match up, best with
    | some u, some a => some { a with hops := u.2.hops }
    | _, b => b
  let sb := (own.toList ++ got ++ (heard s LinkTime.standby).map (·.2.2)).filter fun a => decide (a.id ≠ aid)
  let standby := (bestClaim sb).map fun a => newestBeat a sb
  let beat := match best1 with | some a => beatTick s a.beat | none => now s
  let freshBeat : Bool := c.beatTick < beat
  let better : Bool := !mine && (match own, best1 with | some o, some a => decide (o.rank < a.rank) | _, _ => false)
  let s1 := clk (fun c => { c with
    anchor := best1, standby := standby, isAnchor := mine,
    isStandby := !mine && (match standby with | some a => decide (a.id = s.node.id) | none => false),
    gen := (match best1 with | some a => a.gen | none => c.gen),
    upstream := if mine then none else (up.map (·.1)).orElse fun _ => c.upstream.filter fun n => attached s n,
    beatTick := if freshBeat then beat else c.beatTick,
    beatLag := if freshBeat && !mine then max 1 (min 3 (now s - beat)) else c.beatLag,
    betterSince := if better then some (c.betterSince.getD s.time.refTime) else none }) s
  reselect (anchorChanged c.anchor s1)

/-- ANCHOR_LOST (R248): the newest anchor beat is BEAT_LAG + 2 ticks old or older. The node follows the standby's time; the
standby itself claims anchorship. -/
def execAnchorLost (s : State) : Host.Outcome State Fault Refusal :=
  let c := s.clock
  if c.isAnchor ∨ now s < c.beatTick + c.beatLag + 2 then .next s
  else match c.anchor with
    | none => .next s
    | some a =>
      let s1 := raise Src.anchorLost 0 0 (clk (fun c => { c with lost := some a }) s)
      if c.isStandby then
        let g := c.gen + 1
        let s2 := clk (fun c => { c with isAnchor := true, isStandby := false, gen := g, upstream := none, betterSince := none,
                                         anchor := (ownClaim s).map fun x => { x with gen := g }, standby := none }) s1
        fin (reselect (anchorChanged c.anchor s2))
      else
        let up := c.standby.bind fun b => (upstreamFor s1 b.id LinkTime.standby).orElse fun _ => upstreamFor s1 b.id LinkTime.anchor
        let s2 := clk (fun c => { c with anchor := c.standby, standby := none, beatTick := now s,
                                         upstream := (up.map (·.1)).orElse fun _ => c.upstream }) s1
        fin (anchorChanged c.anchor s2)

/-- ANCHOR_CLAIM (R247): the own claim has ranked better for WTR_S seconds. -/
def execAnchorClaim (s : State) : Host.Outcome State Fault Refusal :=
  match s.clock.betterSince, ownClaim s with
  | some t, some o =>
    if s.clock.isAnchor ∨ s.time.refTime < t + wtrS s * refSecond then .next s
    else
      let g := s.clock.gen + 1
      let s1 := clk (fun c => { c with isAnchor := true, isStandby := false, gen := g, upstream := none, betterSince := none,
                                       anchor := some { o with gen := g } }) s
      fin (reselect (anchorChanged s.clock.anchor s1))
  | _, _ => .next s

/-! ### Pulse outputs (R254–R256) -/

/-- FUNCTION and OFFSET_NS of PULSE_CFG_m; 5–7 act as 0 (R262). -/
def pulseSetting (s : State) (m : Fin 2) : Nat × Int :=
  let f := regFld s (Reg.pulseCfg m) 2 0
  (if 5 ≤ f then 0 else f, signed 12 (regFld s (Reg.pulseCfg m) 15 4))

/-- The count of a FUNCTION's divider at the last tick boundary in the relation of R254: a PPS counts from the second of node
time, the others from the tick boundary. -/
def gridCount (s : State) (function : Nat) : Nat :=
  if function = 3 then s.clock.nodeUnits % refSecond * mediaHz s / refSecond else 0

/-- The level of an output a number of MEDIA cycles after the last tick boundary, before the delay by OFFSET_NS. -/
def Pulse.levelAt (s : State) (p : Pulse) (k : Nat) : Bool :=
  let x := pulseShape s p.running
  match p.held with
  | some (v, n) => if k < n then v else decide ((p.count + k) % max 1 x.1 < x.2)
  | none => decide ((p.count + k) % max 1 x.1 < x.2)

/-- The MEDIA cycles since the output's last edge, at a count. -/
def sinceEdge (shape : Nat × Nat) (count : Nat) : Nat := if count < shape.2 then count else count - shape.2

/-- The cycles until the first edge of a sequence that lies at least `wait` cycles ahead. -/
def nextEdge (shape : Nat × Nat) (count wait : Nat) : Nat :=
  let c := (count + wait) % max 1 shape.1
  wait + if c = 0 then 0 else if c ≤ shape.2 then shape.2 - c else shape.1 - c

/-- A pulse output takes its setting in the relation of R254, at once. -/
def alignPulse (m : Fin 2) (s : State) : State :=
  let x := pulseSetting s m
  clk (fun c => { c with pulses := vset c.pulses m { running := x.1, offset := x.2, count := gridCount s x.1, held := none } }) s

/-- PULSE_ALIGN reloads the divider of a running output (R256): the present level is held until the first edge of the aligned
sequence that lies at least the shorter nominal level time after the output's last edge. -/
def reloadPulse (m : Fin 2) (s : State) : State :=
  let p := s.clock.pulses[m]
  let x := pulseSetting s m
  let shape := pulseShape s x.1
  let count := gridCount s x.1
  let since := sinceEdge (pulseShape s p.running) p.count
  let n := nextEdge shape count (min shape.2 (shape.1 - shape.2) - since)
  let stays : Bool := decide (x.1 = 0) || (p.held.isNone && decide (x.1 = p.running) && decide (count = p.count))
  let y : Pulse := { running := x.1, offset := x.2, count := count, held := if stays then none else some (p.levelAt s 0, n) }
  clk (fun c => { c with pulses := vset c.pulses m y }) s

/-- Every running output's divider is reset from the grid (R254). -/
def alignPulses (s : State) : State :=
  clk (fun c => { c with pulses := vmap (fun (p : Pulse) => { p with count := gridCount s p.running, held := none }) c.pulses }) s

/-- The MEDIA cycles of a tick pass (R255). -/
def advancePulses (s : State) : State :=
  let k := mediaHz s / fs s * spt s
  clk (fun c => { c with pulses := vmap (fun (p : Pulse) =>
    { p with count := (p.count + k) % max 1 (pulseShape s p.running).1,
             held := p.held.bind fun h => if k < h.2 then some (h.1, h.2 - k) else none }) c.pulses }) s

/-- An output is in the relation of R254 with its present setting (R255, R262). -/
def pulseAligned (s : State) (m : Fin 2) : Bool :=
  let p := s.clock.pulses[m]
  decide (p.running ≠ 0) && p.held.isNone && decide (p.count = gridCount s p.running) &&
    decide ((p.running, p.offset) = pulseSetting s m)

/-! ### PLLs -/

/-- The VCO frequency a PLL is to lock at, in kHz (R249, R473): `step` says whether CORE runs at 1.1 GHz. -/
def vcoKhz (s : State) (step : Bool) (p : Fin 6) : Nat :=
  match p.val with
  | 0 => if step then 4400000 else 4800000
  | 1 => 4800000
  | 2 => 4266667
  | 3 => 13281250
  | 4 => if s.time.rate.val % 2 = 1 then 3932160 else 3612672
  | _ => 4000000

/-- The entries a PLL tries, nearest first, at most three (R250): (entry, band code, frequency). -/
def bandTries (s : State) (p : Fin 6) (f : Nat) : List (Nat × Nat × Nat) :=
  let es := (List.range 32).filterMap fun e =>
    let w := regGet s (Reg.band p e)
    let k := fld w 31 8
    let d := ((f : Int) - k).natAbs
    if k ≠ 0 ∧ 1000 * d ≤ 15 * k then some (d, e, fld w 7 0, k) else none
  ((sortBy (·.1) es).map (·.2)).take 3

/-- Set one PLL. -/
def setPll (p : Fin 6) (x : Pll) (s : State) : State := clk (fun c => { c with plls := vset c.plls p x }) s

/-- The clocks of the master ports stop with the tick; the ports recover by R314 (R319). -/
def stopMasters (s : State) : State :=
  (fins 12).foldl (fun s (p : Fin 12) => if portRole p s.ports.port[p].cfg = 0 then
    portFault p (portMod p (fun x => { x with clkPresent := false, rate := 0 }) s) else s) s

/-- PLL_UNLOCK (R252): the domain of the PLL stops: MEDIA and the ports' masters with the tick, LINK and its links; what the other
domains do waits for the relock (`tickRuns`, `coreRuns`, `dramRuns`, `timeRuns`). -/
def execPllUnlock (pll : Fin 6) (s : State) : Host.Outcome State Fault Refusal :=
  let s1 := raise Src.pllUnlock pll 0 (sticky Reg.clkUnlockStat pll (setPll pll { s.clock.plls[pll] with locked := false } s))
  fin (if pll = 4 then stopMasters s1
    else if pll = 3 then (fins 16).foldl (fun s n => if s.links[n].state = .down then s else linkLost n s) s1
    else s1)

/-- A PLL starts (R250, R251): `fails` entries reach the end of their tuning range first; `measured` is the service core's
measurement after the lock, which goes to the calibration area when it differs from the entry by more than 0.5 %. Answers
whether the PLL has locked. -/
def lockPll (pll : Fin 6) (step : Bool) (fails : Nat) (measured : BitVec 24) (s : State) : Bool × State :=
  match (bandTries s pll (vcoKhz s step pll))[fails]? with
  | none => (false, raise Src.pllBandMiss pll 0 (sticky Reg.clkUnlockStat (8 + pll.val) (setPll pll { s.clock.plls[pll] with locked := false } s)))
  | some (e, band, k) =>
    let s1 := setPll pll { locked := true, band := band } s
    let far : Bool := 5 * k < 1000 * ((measured.toNat : Int) - k).natAbs
    (true, if far then { s1 with flash := { s1.flash with
      cal := mapPut s1.flash.cal (pll.val * 32 + e) (BitVec.ofNat 32 (band + measured.toNat * 256)) } } else s1)

/-- CORE is to run at 1.1 GHz: the plan holds CLOCK_STEP, or an approved step is being carried out (R473). -/
def coreStepped (s : State) : Bool :=
  match s.wear.step with
  | some x => !x.revert
  | none => s.wear.clockStep

/-- A block requests the PLL (R257, R258): SERDES while a link has ENABLE = 1, the others always but in sleep. -/
def pllRequested (s : State) (pll : Fin 6) : Bool :=
  decide (s.power.state = .running) && (decide (pll ≠ 3) || (fins 16).any (linkEnabled s))

/-- What the start of a domain brings: at the MEDIA relock every divider of a running pulse output is reset from the grid
(R254); CORE, once locked with no clock step in hand, drives the tiles again (R473). -/
def domainStarts (pll : Fin 6) (s : State) : State :=
  if pll = 4 then alignPulses s
  else if pll = 0 ∧ s.wear.step.isNone then clk (fun c => { c with onFab := false }) s
  else s

/-- PLL_LOCK (R250, R258): a stopped PLL that a block requests locks, once boot firmware has filled the band tables (R251), and
its domain starts. -/
def execPllLock (pll : Fin 6) (fails : Nat) (measured : BitVec 24) (s : State) : Host.Outcome State Fault Refusal :=
  if s.clock.plls[pll].locked ∨ !pllRequested s pll ∨ (s.power.stage ≠ .verified ∧ s.power.stage ≠ .hostReady) then .next s
  else
    let r := lockPll pll (coreStepped s) fails measured s
    fin (if r.1 then domainStarts pll r.2 else r.2)

/-- PLL_MEAS_START (R251, R261). -/
def startMeasure (value : Word) (s : State) : State :=
  let p := fld value 2 0
  let s1 := regSet Reg.pllMeasCtrl (BitVec.ofNat 32 (p + (if flag value 3 then 0 else regFld s Reg.pllMeasCtrl 31 31 * 2 ^ 31))) s
  if flag value 3 then clk (fun c => { c with measuring := some (if p < 6 then p else 0) }) s1 else s1

/-- PLL_MEAS_DONE (R251). -/
def execPllMeasDone (freqKhz : BitVec 24) (s : State) : Host.Outcome State Fault Refusal :=
  match s.clock.measuring with
  | none => .next s
  | some p =>
    let band := (vgetD s.clock.plls p { locked := false, band := 0 }).band
    .next (regSetFld Reg.pllMeasCtrl 31 31 1 (regSet Reg.pllMeas (BitVec.ofNat 32 (band % 256 + freqKhz.toNat * 256))
      (clk (fun c => { c with measuring := none }) s)))

/-! ### Commands and pulses -/

/-- REF_FORCE (R260). -/
def execRefForce (h : CmdHdr) (tick : BitVec 64) (cand : Byte) (s : State) : Host.Outcome State Fault Refusal :=
  if cand = 0xFF then fin (timedCmd h tick false noRefusal noPre (.refForce none) s)
  else match toFin? 8 cand.toNat with
    | none => fin (badTimed h s)
    | some n => fin (timedCmd h tick false noRefusal noPre (.refForce (some n)) s)

/-- REF_FORCE at its boundary (R259, R260): its status. -/
def applyRefForce (cand : Option (Fin 8)) (s : State) : Nat × State :=
  match cand with
  | none => (St.ok, reselect (clk (fun c => { c with forced := none }) s))
  | some n =>
    let st := s.clock.cands[n].state
    if isFollower s && decide (candType s n ≠ 1) then (0x42, s)
    else if st ≠ .qualified ∧ st ≠ .waitRestore then (0x41, s)
    else (St.ok, reselect (clk (fun c => { c with forced := some n })
      (candMod n (fun c => { c with state := .qualified, left := 0, everQualified := true }) s)))

/-- The code of a candidate's state (R234). -/
def CandState.code : CandState → Nat
  | .disabled => 0 | .absent => 1 | .qualifying => 2 | .waitRestore => 3 | .qualified => 4

/-- The 16 bytes of a slot in REF_QUERY (R260). -/
def candBytes (s : State) (n : Fin 8) : List Byte :=
  let c := s.clock.cands[n]
  leBytes 1 c.state.code ++
    leBytes 1 (b2n c.suspect + bitAt c.warn 1 + bitAt c.drift 2 + bitAt (s.clock.selected = some n) 3 + bitAt (s.clock.forced = some n) 4) ++
    leBytes 2 c.left ++ leBytes 4 (unsign 32 c.ofsLocal) ++ leBytes 4 (unsign 32 c.ofsOutput) ++ leBytes 4 (unsign 32 c.driftRate)

/-- REF_QUERY (R260). -/
def execRefQuery (h : CmdHdr) (resultAddr : BitVec 64) (s : State) : Host.Outcome State Fault Refusal :=
  fin (untimedCmd h (!aligned8 resultAddr) (fun t s => clk (fun c => { c with queries := c.queries ++ [(t, resultAddr)] }) s) s)

/-- Answer the REF_QUERYs at a boundary. -/
def runRefQueries (s : State) : State :=
  s.clock.queries.foldl (fun s q => resultThen q.1 q.2.toNat ((fins 8).flatMap (candBytes s)) St.ok s)
    (clk (fun c => { c with queries := [] }) s)

/-- A write of PULSE_CFG_m (R255): an output that is off is switched on at once; a change of a running output waits for the
next alignment. -/
def writePulseCfg (m : Fin 2) (value : Word) (s : State) : State :=
  let s1 := regSet (Reg.pulseCfg m) (value &&& 0xFFF7) s
  if s.clock.pulses[m].running = 0 then alignPulse m s1 else s1

/-- PULSE_ALIGN (R256, R260). -/
def execPulseAlign (h : CmdHdr) (tick : BitVec 64) (mask : BitVec 10) (s : State) : Host.Outcome State Fault Refusal :=
  fin (timedCmd h tick (decide (mask = 0)) noRefusal noPre (.pulseAlign mask) s)

/-- PULSE_ALIGN at its boundary on the pulse outputs (R256); an output that is off is ignored. -/
def applyPulseAlign (mask : BitVec 10) (s : State) : State :=
  (fins 2).foldl (fun s (m : Fin 2) =>
    if mask.getLsbD m.val && decide (s.clock.pulses[m].running ≠ 0) then reloadPulse m s else s) s

/-! ### Clock domains (R257, R258) -/

/-- The 14 clock domains. -/
inductive Domain where
  | aon | ref | media | time | core | fabric | matrix | periph | dram | link | eth | pcie | pstage | port
  deriving DecidableEq, Repr

/-- When a domain runs (R252, R257): in sleep only AON, REF and the PCIe link do (R258, R496). -/
def domainRuns (s : State) (d : Domain) : Bool :=
  let up : Bool := decide (s.power.state = .running)
  let pll (p : Fin 6) : Bool := s.clock.plls[p].locked
  match d with
  | .aon => true
  | .ref => decide (s.power.state ≠ .off)
  | .media => up && pll 4
  | .time => timeRuns s
  | .core => up && coreRuns s
  | .fabric | .matrix | .periph => up && pll 1
  | .dram => up && pll 2
  | .link => up && pll 3
  | .eth => up && (fins 4).any fun p => decide (ethMode s p ≠ 0)
  | .pcie => decide (s.power.state ≠ .off) && !s.pcie.perst
  | .pstage => timeRuns s && (fins 8).any fun c => !s.ps.ch[c].off
  | .port => up && (fins 12).any fun p => decide (s.ports.port[p].state ≠ PortRun.stopped)

/-! ### Registers that show this state -/

/-- CLK_STAT (R261). -/
def clkStat (s : State) : Word :=
  BitVec.ofNat 32 ((fins 6).foldl (fun a (p : Fin 6) => a + bitAt s.clock.plls[p].locked p.val) 0 + bitAt s.wear.clockStep 8 +
    bitAt (s.time.rate.val % 2 = 0) 9)

/-- The code of DPLL_STATE (R262). -/
def DpllState.code : DpllState → Nat
  | .freerun => 0 | .locked => 1 | .slew => 2 | .holdover => 3 | .tracking => 4

/-- REF_SEL_STAT (R262); NONE reads 0 until the selector has chosen once since the reset (DEDUCED, log 154). -/
def refSelStat (s : State) : Word :=
  let c := s.clock
  BitVec.ofNat 32 (c.dpll.code + (c.selected.elim 0 fun n => n.val * 16) + bitAt (c.judged && c.selected.isNone) 7 + bitAt s.time.aligned 8 +
    bitAt c.forced.isSome 9 + bitAt c.timeFar 10 + bitAt (isFollower s) 11 + (c.upstream.elim 0 fun n => n.val * 4096))

/-- HOLDOVER_STAT (R262). -/
def holdoverStat (s : State) : Word :=
  let d := s.clock.learnSecs / 86400
  BitVec.ofNat 32 (min 255 d + bitAt (historyValid s) 8 + bitAt (7 ≤ d) 9 + s.clock.ageing.toNat * 65536)

/-- ANCHOR_STAT (R262). -/
def anchorStat (s : State) : Word :=
  let c := s.clock
  BitVec.ofNat 32 ((c.anchor.elim 0 fun a => a.id.toNat) + bitAt c.isAnchor 12 + bitAt c.isStandby 13 + c.gen.toNat * 65536 +
    (c.anchor.elim 0 fun a => a.hops.toNat) * 2 ^ 24)

/-- REF_STAT_n and REF_OFFSET_n (R262). -/
def refStat (s : State) (n : Fin 8) : Word :=
  let c := s.clock.cands[n]
  BitVec.ofNat 32 (c.state.code + bitAt c.suspect 3 + bitAt c.warn 4 + bitAt c.drift 5 + min 255 c.left * 256)

def refOffset (s : State) (n : Fin 8) : Word :=
  let c := s.clock.cands[n]
  if c.state = .disabled ∨ c.state = .absent then 0 else BitVec.ofInt 32 c.ofsLocal

/-- PULSE_CFG_m with ALIGNED (R255, R262). -/
def pulseCfgView (s : State) (m : Fin 2) : Word :=
  setFld (regGet s (Reg.pulseCfg m)) 16 16 (b2n (pulseAligned s m))

end Sys2Proof.Machine
end

