-- ==== Sys2Proof/Machine/Link.lean ====
section
/-!
DEFINITION. The Dorura links (R163–R193): training, framing, received slots and cells, discovery and attach, the link commands,
and the work of a tick boundary on the links.
-/
namespace Sys2Proof

/-- The fields of a training marker (R178). -/
def TrainMarker.checkOk (m : TrainMarker) : Bool :=
  decide (m.bytes.length = 7) && decide ((m.bytes.getD 0 0).toNat % 16 = 0xE) &&
    decide (m.bytes.getD 6 0 = Machine.crc8 (m.bytes.take 6))
def TrainMarker.preReq (m : TrainMarker) : BitVec 2 := BitVec.ofNat 2 (m.bytes.getD 1 0).toNat
def TrainMarker.postReq (m : TrainMarker) : BitVec 2 := BitVec.ofNat 2 ((m.bytes.getD 1 0).toNat / 4)
def TrainMarker.preset (m : TrainMarker) : Bool := (m.bytes.getD 1 0).getLsbD 4
def TrainMarker.preStat (m : TrainMarker) : BitVec 2 := BitVec.ofNat 2 (m.bytes.getD 2 0).toNat
def TrainMarker.postStat (m : TrainMarker) : BitVec 2 := BitVec.ofNat 2 ((m.bytes.getD 2 0).toNat / 4)
def TrainMarker.rxReady (m : TrainMarker) : Bool := (m.bytes.getD 3 0).getLsbD 0

end Sys2Proof

namespace Sys2Proof.Machine

/-! ### Training -/

/-- LINK_SIGNAL_DETECT (R177): transitions for 10 µs. -/
def execLinkSignalDetect (link : Fin 16) (s : State) : Host.Outcome State Fault Refusal :=
  fin (startTraining link (linkMod link (fun l => { l with signal := true }) s))

/-- LINK_BLOCK_LOCK (R177): phase 2 ends. -/
def execLinkBlockLock (link : Fin 16) (s : State) : Host.Outcome State Fault Refusal :=
  fin (linkMod link (fun l =>
    if l.state = .training ∧ l.phase = 2 then { l with blockLock := true, phase := 3 } else l) s)

/-- LINK_EQ_COMPLETE (R177): the own eye margin is reached, RX_READY is sent. -/
def execLinkEqComplete (link : Fin 16) (ctle : BitVec 4) (s : State) : Host.Outcome State Fault Refusal :=
  fin (linkMod link (fun l =>
    if l.state = .training ∧ l.phase = 3 then
      let ready : Bool := 2 ≤ l.readySeen
      { l with ctle := ctle, train := { l.train with rxReady := true }, phase := if ready then 4 else 3, handover := ready }
    else l) s)

/-- One requested step of a coefficient (R178): its value and the status that answers; `ok` says whether the new value keeps
the ranges and MAIN. -/
def firStep (req stat : BitVec 2) (v : Nat) (ok : Nat → Bool) : Nat × BitVec 2 :=
  if req = 0 ∨ req = 3 then (v, 0)
  else if stat ≠ 0 then (v, stat)
  else if req = 1 then (if ok (v + 1) then (v + 1, 1) else (v, 3))
  else (if 0 < v then (v - 1, 1) else (v, 2))

/-- The transmitter's answer to the requests in a training marker (R178). -/
def firAnswer (l : Link) (m : TrainMarker) : Link :=
  if m.preset then
    { l with pre := 0, post := 8, train := { l.train with preStat := 1, postStat := 1 } }
  else
    let p := firStep m.preReq l.train.preStat l.pre.toNat fun v => decide (v ≤ 15) && decide (v + l.post.toNat ≤ 40)
    let q := firStep m.postReq l.train.postStat l.post.toNat fun v => decide (v ≤ 31) && decide (p.1 + v ≤ 40)
    { l with pre := BitVec.ofNat 4 p.1, post := BitVec.ofNat 5 q.1, train := { l.train with preStat := p.2, postStat := q.2 } }

/-- The own request after a marker (R178): held until the status answers it, then hold, then the next wish. -/
def nextReq (cur stat wish : BitVec 2) : BitVec 2 :=
  if cur ≠ 0 then (if stat ≠ 0 then 0 else cur) else if stat = 0 then wish else 0

/-- TRAINING_MARKER (R177, R178). -/
def execTrainingMarker (link : Fin 16) (m : TrainMarker) (w : FirWish) (s : State) : Host.Outcome State Fault Refusal :=
  fin (linkMod link (fun l =>
    if l.state = .training ∧ !l.framed ∧ m.checkOk ∧ 3 ≤ l.phase then
      let l1 := firAnswer l m
      let seen := if m.rxReady then l.readySeen + 1 else 0
      let go : Bool := decide (2 ≤ seen) && l.train.rxReady
      { l1 with readySeen := seen, handover := go || l.handover, phase := if go || l.handover then 4 else l1.phase,
                train := { l1.train with preReq := nextReq l.train.preReq m.preStat w.preReq,
                                         postReq := nextReq l.train.postReq m.postStat w.postReq,
                                         preset := w.preset } }
    else l) s)

/-- TRAIN_TIMEOUT in the unit of refTime (R192): in ms, less than 5 acting as 5. -/
def trainLimit (s : State) (n : Fin 16) : Nat := max 5 (regFld s (Reg.linkCtrl n) 15 8) * (refSecond / 1000)

/-- RETRY_WAIT in the unit of refTime (R192): in 10 ms, 0 acting as 1. -/
def retryLimit (s : State) (n : Fin 16) : Nat := max 1 (regFld s (Reg.linkCtrl n) 23 16) * (refSecond / 100)

/-- TRAIN_TIMEOUT (R176, R177). -/
def execTrainTimeout (link : Fin 16) (s : State) : Host.Outcome State Fault Refusal :=
  if s.links[link].state = .training ∧ mayHavePassed s s.links[link].trainAt (trainLimit s link) = true then
    let s1 := sticky (Reg.linkErrStat link) 5 (bumpFld (Reg.linkEvents link) 31 16 1 s)
    fin (linkMod link (fun l => { l with retryWait := true, failAt := s.time.refTime })
      (linkDown link true true (raise Src.linkTrainFail link 0 s1)))
  else .next s

/-- RETRY_WAIT has elapsed since the last failure (R176, R177). -/
def execRetryWait (link : Fin 16) (s : State) : Host.Outcome State Fault Refusal :=
  if s.links[link].retryWait ∧ mayHavePassed s s.links[link].failAt (retryLimit s link) = true then
    fin (startTraining link (linkMod link (fun l => { l with retryWait := false }) s))
  else .next s

/-- RETRAIN_SQUELCH_END (R189). -/
def execRetrainSquelchEnd (link : Fin 16) (s : State) : Host.Outcome State Fault Refusal :=
  if s.links[link].retrain then
    fin (startTraining link (linkMod link (fun l => { l with squelch := false, retrain := false }) s))
  else .next s

/-! ### Loss -/

/-- LINK_SIGNAL_LOSS (R179): loss of signal or of block lock. -/
def execLinkSignalLoss (link : Fin 16) (signalGone : Bool) (s : State) : Host.Outcome State Fault Refusal :=
  let s1 := linkLost link s
  fin (linkMod link (fun l => { l with signal := l.signal && !signalGone, blockLock := false }) s1)

/-- A marker is missing or fails its check (R179): two in a row lose frame alignment. -/
def missMarker (n : Fin 16) (s : State) : State :=
  let l := s.links[n]
  if !l.align then linkMod n (fun l => { l with markerRun := 0 }) s
  else
    let s1 := sticky (Reg.linkErrStat n) 2 (bump (Reg.markerMissCount n) 1 s)
    let s2 := linkMod n (fun l => { l with misses := l.misses + 1, sfBad := true }) s1
    if 2 ≤ l.misses + 1 then linkLost n s2 else s2

/-- MARKER_WINDOW_EXPIRY (R179). -/
def execMarkerWindowExpiry (link : Fin 16) (s : State) : Host.Outcome State Fault Refusal := fin (missMarker link s)

/-- A received marker is a frame marker with a correct CHECK (R167). -/
def markerGood (bs : List Byte) : Bool :=
  decide (bs.length = 7) && decide ((bs.getD 0 0).toNat % 16 = 0xD) && decide (bs.getD 6 0 = crc8 (bs.take 6))

/-- Where a marker arrived, in the unit of `unitNs` counted from tick 0: in the tick in progress. -/
def markerPos (s : State) (m : FrameMarker) : Nat :=
  now s * unitTick s + (ofSixteenth s m.arrival % (unitTick s : Int)).toNat

/-- Two positions lie within two blocks of each other (R177, R179). -/
def withinTwo (s : State) (a b : Nat) : Bool :=
  let w := 2 * 1056 * 16 * fs s
  decide (a ≤ b + w) && decide (b ≤ a + w)

/-- The sub-frame of the partner that a distance between two markers shows: T_tick/16 at one of the rates, in either mode, since
a partner of another format is heard until R182 refuses it (DEDUCED, log 150). -/
def spacingOf (s : State) (d : Nat) : Option Nat :=
  ((fins 6).flatMap fun (r : Fin 6) => [4, 8].map fun k => k * 1000000000 * 425 * fs s / rateHz r).find? (withinTwo s d)

/-- The markers in a row that keep their spacing and SF_INDEX, with this one (R177), and the spacing they keep. -/
def markerRunOf (l : Link) (s : State) (m : FrameMarker) : Nat × Nat :=
  let d := markerPos s m - l.markerAt
  let follows : Bool := decide (l.markerRun ≠ 0) && decide ((m.bytes.getD 0 0).toNat / 16 % 16 = (l.lastSf.val + 1) % 16)
  if !follows then (1, 0)
  else if l.markerRun = 1 then (match spacingOf s d with | some x => (2, x) | none => (1, 0))
  else if withinTwo s d l.spacing then (l.markerRun + 1, l.spacing) else (1, 0)

/-- A marker lies in the window in which the next one is expected (R179). -/
def markerDue (l : Link) (s : State) (m : FrameMarker) : Bool :=
  withinTwo s (markerPos s m) (l.markerAt + (l.misses + 1) * l.spacing)

/-- What a good marker tells the receiver (R167, R194). -/
def Link.hear (l : Link) (s : State) (m : FrameMarker) : Link :=
  let sf := (m.bytes.getD 0 0).toNat / 16
  let fl := m.bytes.getD 5 0
  let l1 := { l with markerAt := markerPos s m, lastSf := ⟨sf % 16, Nat.mod_lt _ (by decide)⟩, misses := 0, sfBad := false,
                     partnerAligned := fl.getLsbD 0, partnerQuarantine := fl.getLsbD 1,
                     partnerDetaching := fl.getLsbD 2 || (l.partnerDetaching && decide (l.state ≠ .down)),
                     tickLo := BitVec.ofNat 32 (ofLe ((m.bytes.drop 1).take 4)) }
  if sf % 16 = 0 then
    { l1 with rxOfs := m.arrival, rxBase := ((now s : Int) - ofSixteenth s m.arrival / (unitTick s : Int)).toNat }
  else l1

/-- FRAME_MARKER (R177, R179): it acquires or keeps frame alignment, and its flags act (R176, R186, R187). On an aligned link a
marker outside the window of the expected one is none, and one whose SF_INDEX is not the expected one is a miss (DEDUCED,
log 150). -/
def execFrameMarker (link : Fin 16) (m : FrameMarker) (s : State) : Host.Outcome State Fault Refusal :=
  let l := s.links[link]
  if !l.framed ∨ (l.align ∧ !markerDue l s m) then .next s
  else if !markerGood m.bytes then fin (missMarker link s)
  else
    let sf := (m.bytes.getD 0 0).toNat / 16 % 16
    if !l.align then
      let run := markerRunOf l s m
      fin (tryDiscovered link (linkMod link (fun l => { (l.hear s m) with markerRun := run.1, spacing := run.2,
                                                                           align := decide (3 ≤ run.1),
                                                                           phase := if 3 ≤ run.1 then 5 else 4 }) s))
    else if sf ≠ (l.lastSf.val + l.misses + 1) % 16 then fin (missMarker link s)
    else
      let s1 := linkMod link (fun l => l.hear s m) s
      if s1.links[link].partnerQuarantine ∧ l.state = .attached then fin (partnerQuarantined link s1)
      else fin (tryDiscovered link s1)

/-! ### Slots -/

/-- SLOT_RECEIVED (R170, R198): the CRC is counted, and the slot's entry forwards or drops it. -/
def execSlotReceived (link : Fin 16) (x : SlotIn) (s : State) : Host.Outcome State Fault Refusal :=
  let l := s.links[link]
  if !l.align then .next s
  else
    let good : Bool := crc8 x.bytes = x.crc
    let s1 := if good then s else
      linkMod link (fun l => { l with berCount := l.berCount + 1 })
        (sticky (Reg.linkErrStat link) 0 (bump (Reg.slotCrcCount link) 1 s))
    if l.state ≠ .attached then fin s1
    else
      let slot : Slot := { samples := (List.range (spt s)).map fun i => BitVec.ofNat 32 (ofLe ((x.bytes.drop (4 * i)).take 4)),
                           flags := x.bytes.getD (4 * spt s) 0, crc := x.crc }
      fin (switchSlot link x.slot slot (good && !l.sfBad && !fenced s (.link link)) s1)

/-- LINK_BER (R187): a second ends; more slot CRC errors than LINK_BER_LIMIT raise LINK_BER. -/
def execLinkBer (link : Fin 16) (s : State) : Host.Outcome State Fault Refusal :=
  if mayHavePassed s s.links[link].berAt refSecond then
    let lim := regFld s (Reg.linkBerLimit link) 15 0
    let n := s.links[link].berCount
    let s1 := linkMod link (fun l => { l with berCount := 0, berAt := s.time.refTime }) s
    fin (if lim ≠ 0 ∧ lim < n then raise Src.linkBer link 0 s1 else s1)
  else .next s

/-! ### Sending -/

/-- Cell positions per sub-frame c (R165). -/
def cellPositions (s : State) : Nat :=
  let p := (roundDiv ((spt s * 3200000000 : Nat) : Int) (fs s)).toNat
  (p - slotBytes s * slotsPerTick s) / 1024

/-- Take up to k cells off the queues by strict class priority (R175). -/
def takeCells : Nat → Link → List Cell × Link
  | 0, l => ([], l)
  | k + 1, l =>
    match l.q0, l.q1, l.q2 with
    | c :: q, _, _ => let r := takeCells k { l with q0 := q }; (c :: r.1, r.2)
    | [], c :: q, _ => let r := takeCells k { l with q1 := q }; (c :: r.1, r.2)
    | [], [], c :: q => let r := takeCells k { l with q2 := q }; (c :: r.1, r.2)
    | [], [], [] => ([], l)

/-- An anchor entry as bytes (R246). -/
def AnchorEntry.bytes (a : AnchorEntry) : List Byte :=
  [a.priority, a.hops] ++ leBytes 2 a.timeErr.toNat ++ leBytes 2 (a.id.toNat + a.cls.toNat * 4096) ++ [a.beat, a.gen]

/-- The entries of this node's TIME_SYNC cells (R246, R248): its own claim with its present beat, or what it has received. -/
def ownBeat (s : State) (mine : Bool) (a : AnchorEntry) : AnchorEntry :=
  if mine then { a with beat := BitVec.ofNat 8 (now s) } else a

/-- The TIME_SYNC body of a link (R244); the marker lag is a free value of 0–2,485 ps. -/
def timeSyncBody (s : State) (n : Fin 16) (lag : Nat) : List Byte :=
  let c := s.clock
  leBytes 4 (unsign 32 s.links[n].rxOfs) ++ leBytes 2 (lag % 2486) ++
    leBytes 1 (b2n c.isAnchor + bitAt c.isStandby 1 + bitAt (isFollower s && decide (c.upstream = some n)) 2) ++ leBytes 1 0 ++
    (c.anchor.elim (List.replicate 8 0) fun a => (ownBeat s c.isAnchor a).bytes) ++
    (c.standby.elim (List.replicate 8 0) fun a => (ownBeat s c.isStandby a).bytes)

/-- A neighbour cell with a body. -/
def neighbourCell (s : State) (ty : Nat) (body : List Byte) : Cell :=
  { ty := BitVec.ofNat 8 ty, mode := 0, hop := 0, hops := 0, src := s.node.id, dst := 0, seq := 0, route := 0,
    body := (body ++ List.replicate (40 - body.length) 0).take 40 }

/-- A LINK_CTRL ATTACH_ACK (R183). -/
def isAck (c : Cell) : Bool := decide (c.ty = 2) && decide (bodyN c 0x14 1 = 2)

/-- What leaves with a sub-frame: a DISCOVER sent (R181); an ATTACH_ACK sent, so that the link attaches at the next boundary
(R183). -/
def Link.sent (l : Link) (s : State) (first : Bool) (body : List Byte) (cells : List Cell) : Link :=
  let l1 := if first then { l with sentBody := discoverFixed body, lastDiscover := now s } else l
  { l1 with attachDue := l.attachDue || (cells.any isAck && decide (l.state = .discovered)) }

/-- SUB_FRAME_START (R165–R172, R175, R181, R186, R187, R244): marker, slots and cells of sub-frame j. A transmitter that is
squelched or not yet in framed mode sends none of it. -/
def execSubFrameStart (link : Fin 16) (j : Fin 16) (s : State) : Host.Outcome State Fault Refusal :=
  let l := s.links[link]
  if !l.framed ∨ l.squelch then .next s
  else
    let quarantine := fenced s (.link link)
    let up : Bool := l.state = .attached && !quarantine && !l.detaching
    let lag := freshFree 16 s
    let timed : Bool := decide (j.val = 1) && (decide (l.state = .attached) || decide (l.state = .discovered)) && !quarantine
    let s1 := if timed then lag.2 else s
    let disc : Bool := decide (j.val = 0) && !l.heard
    let body := discoverBody s link
    let first := (if disc then [neighbourCell s 1 body] else []) ++
      (if timed then [neighbourCell s 0x40 (timeSyncBody s link lag.1)] else [])
    let r := takeCells (cellPositions s - first.length) l
    let line : LineOut :=
      { sf := j, tickLo := BitVec.ofNat 32 (now s), aligned := l.align, quarantine := quarantine, detaching := l.detaching,
        slots := if up then slotsToSend s link j.val else [], cells := first ++ r.1 }
    fin (linkMod link (fun _ => { r.2.sent s disc body r.1 with line := line, lag := if timed then lag.1 % 2486 else l.lag }) s1)

/-! ### Cells -/

/-- CELL_RECEIVED (R172–R175): a cell is checked, a reserved type is counted, and a cell in transit goes on. A cell that is
delivered here has its own command. -/
def execCellReceived (link : Fin 16) (cell : Cell) (crc : Word) (s : State) : Host.Outcome State Fault Refusal :=
  let l := s.links[link]
  if !l.align then .next s
  else if cellCrc cell ≠ crc then fin (sticky (Reg.linkErrStat link) 1 (bump (Reg.cellCrcCount link) 1 s))
  else if cell.ty = 0 then .next s
  else
    match cellClass cell.ty with
    | none => fin (sticky (Reg.linkErrStat link) 4 (cellDrop link s))
    | some _ =>
      if cell.ty.toNat / 4 = 4 then .next s
      else fin (receiveCell link cell id s)

/-- DISCOVER (R181, R182, R184). -/
def execDiscover (link : Fin 16) (cell : Cell) (s : State) : Host.Outcome State Fault Refusal :=
  fin (receiveCell link cell (fun s =>
    let s1 := linkMod link (fun l => { l with partner := some cell.body, heard := true }) s
    let s2 := resolveId (BitVec.ofNat 12 (bodyN cell 0x1C 2)) (bodyN cell 0x14 8) s1
    if s2.links[link].state = .training then tryDiscovered link s2 else runChecks link s2) s)

/-- DISCOVER_SEND (R181): every 1,024 ticks. -/
def execDiscoverSend (link : Fin 16) (s : State) : Host.Outcome State Fault Refusal :=
  let l := s.links[link]
  if l.framed ∧ l.heard ∧ l.lastDiscover + 1024 ≤ now s then fin (sendDiscover link s) else .next s

/-- LINK_CTRL (R183, R186). -/
def execLinkCtrlCell (link : Fin 16) (cell : Cell) (s : State) : Host.Outcome State Fault Refusal :=
  fin (receiveCell link cell (fun s =>
    let l := s.links[link]
    match bodyN cell 0x14 1 with
    | 1 =>
      if (l.state = .discovered ∨ l.state = .attached) ∧ checksPass s link ∧ wouldRequest s link then sendCtrl link 2 0 0 s
      else s
    | 2 =>
      if l.state = .discovered ∧ l.reqOpen ∧ checksPass s link then
        linkMod link (fun l => { l with reqOpen := false, attachDue := true }) s
      else linkMod link (fun l => { l with reqOpen := false }) s
    | 3 => linkMod link (fun l => { l with partnerDetaching := true }) s
    | 4 => linkMod link (fun l => { l with rejected := true, reqOpen := false }) s
    | _ => s) s)

/-- ATTACH_REQ_REPEAT (R183): every 1,024 ticks, while the checks pass. -/
def execAttachReqRepeat (link : Fin 16) (s : State) : Host.Outcome State Fault Refusal :=
  let l := s.links[link]
  if l.state = .discovered ∧ l.reqOpen ∧ checksPass s link ∧ l.lastReq + 1024 ≤ now s then fin (requestAttach link s) else .next s

/-- ID_ANNOUNCE (R174, R184): the ID is noted and a duplicate is resolved. -/
def execIdAnnounce (link : Fin 16) (cell : Cell) (s : State) : Host.Outcome State Fault Refusal :=
  fin (receiveCell link cell (fun s =>
    let id := BitVec.ofNat 12 (bodyN cell 0x1C 2)
    let eui := bodyN cell 0x14 8
    let s1 := if eui ≠ (ownEui s).toNat ∧ id ≠ 0 then
        { s with node := { s.node with announced := mapPut s.node.announced id.toNat (now s) } } else s
    resolveId id eui s1) s)

/-- ID_ANNOUNCE_PERIODIC (R184): every 65,536 ticks. -/
def execIdAnnouncePeriodic (s : State) : Host.Outcome State Fault Refusal :=
  if s.node.periodAt + 65536 ≤ now s then fin (announce { s with node := { s.node with periodAt := now s } }) else .next s

/-! ### Commands -/

/-- LINK_CMD (R189). -/
def execLinkCmd (h : CmdHdr) (a : LinkCmdArgs) (s : State) : Host.Outcome State Fault Refusal :=
  match toFin? 16 a.link.toNat with
  | none => fin (badTimed h s)
  | some _ =>
    let ac := a.action.toNat
    fin (timedCmd h a.tick (!(decide (1 ≤ ac) && decide (ac ≤ 3))) noRefusal noPre (.linkCmd a) s)

/-- LINK_CMD at its boundary (R183, R186, R189): its status. -/
def applyLinkCmd (a : LinkCmdArgs) (s : State) : Nat × State :=
  match toFin? 16 a.link.toNat with
  | none => (St.badArg, s)
  | some n =>
    let l := s.links[n]
    let off := !linkEnabled s n
    match a.action.toNat, l.state with
    | 1, .discovered =>
      if off then (0x41, s)
      else
        let s1 := linkMod n (fun l => { l with wantAttach := true }) s
        (St.ok, if checksPass s n && !l.attachDue then requestAttach n s1 else s1)
    | 1, .down =>
      if off then (0x41, s)
      else if l.detachHold then
        (St.ok, startTraining n (linkMod n (fun l => { l with detachHold := false, squelch := false }) s))
      else (0x40, s)
    | 2, .attached | 2, .discovered =>
      if off then (0x41, s)
      else
        let s1 := linkMod n (fun l => { l with detaching := true, detachAt := some (now s), wantAttach := false,
                                               reqOpen := false, attachDue := false }) (breakEntries n s)
        (St.ok, sendCtrl n 3 0 (now s) s1)
    | 3, .down | 3, .training | 3, .discovered | 3, .attached =>
      if off then (0x41, s)
      else
        let s1 := linkDown n true false s
        (St.ok, linkMod n (fun l => { l with squelch := true, retrain := true, detachHold := false, retryWait := false }) s1)
    | _, _ => if off then (0x41, s) else (0x40, s)

/-- The 64 bytes of a LINK_QUERY (R190). -/
def linkResult (s : State) (n : Fin 16) : List Byte :=
  let l := s.links[n]
  leBytes 1 l.state.code ++
    leBytes 1 (b2n l.formatMismatch + bitAt l.versionMismatch 1 + bitAt l.selfLoop 2 + bitAt l.rejected 3 + bitAt l.detachHold 4) ++
    leBytes 2 (s.node.id.toNat + s.node.idState.toNat * 4096) ++ leBytes 4 0 ++ leBytes 8 (ownEui s).toNat ++
    ((l.partner.getD []) ++ List.replicate 40 0).take 40 ++ leBytes 4 (l.changeTick % 2 ^ 32) ++
    leBytes 2 (regFld s (Reg.linkEvents n) 15 0) ++ leBytes 2 0

/-- LINK_QUERY (R190). -/
def execLinkQuery (h : CmdHdr) (link : Byte) (resultAddr : BitVec 64) (s : State) : Host.Outcome State Fault Refusal :=
  match toFin? 16 link.toNat with
  | none => fin (untimedCmd h true (fun _ s => s) s)
  | some n => fin (untimedCmd h false (fun t s =>
      { s with linkQueries := s.linkQueries ++ [{ ticket := t, link := n, addr := resultAddr }] }) s)

/-- Answer the LINK_QUERYs at a boundary. -/
def runLinkQueries (s : State) : State :=
  s.linkQueries.foldl (fun s q => resultThen q.ticket q.addr.toNat (linkResult s q.link) St.ok s) { s with linkQueries := [] }

/-- EYE_SURVEY (R191): links that are not ATTACHED or DISCOVERED are skipped. -/
def execEyeSurvey (h : CmdHdr) (linkMask : BitVec 16) (s : State) : Host.Outcome State Fault Refusal :=
  fin (untimedCmd h false (fun t s =>
    let named := maskUnits 16 linkMask.toNat
    if named.any fun (n : Fin 16) => s.links[n].survey then complete t 0x43 0 s
    else
      let ls := named.filter fun (n : Fin 16) => decide (s.links[n].state = .attached) || decide (s.links[n].state = .discovered)
      ls.foldl (fun s n => linkMod n (fun l => { l with survey := true }) s)
        { s with surveys := s.surveys ++ [{ ticket := t, links := ls }] }) s)

/-- Write LINK_EYE (R191, R192). -/
def setEye (n : Fin 16) (h v : Byte) (s : State) : State :=
  linkMod n (fun l => { l with eyeAt := some s.time.refTime }) (regSet (Reg.linkEye n) (BitVec.ofNat 32 (h.toNat + v.toNat * 256)) s)

/-- EYE_SURVEY_COMPLETE (R191): the oldest survey ends. -/
def execEyeSurveyComplete (r : List EyeResult) (s : State) : Host.Outcome State Fault Refusal :=
  match s.surveys with
  | [] => .next s
  | v :: rest =>
    let s1 := v.links.foldl (fun s n => linkMod n (fun l => { l with survey := false }) s) { s with surveys := rest }
    let s2 := (r.filter fun x => v.links.contains x.link).foldl (fun s x => setEye x.link x.eyeH x.eyeV s) s1
    fin (complete v.ticket St.ok 0 s2)

/-- NODE_ID_SET (R184, R188, R191). -/
def execNodeIdSet (h : CmdHdr) (id : BitVec 12) (s : State) : Host.Outcome State Fault Refusal :=
  fin (untimedCmd h (decide (id = 0) || decide (id = 0xFFF)) (fun t s =>
    let used := match mapGet s.node.announced id.toNat with | some k => decide (now s < k + 65536) | none => false
    if used then complete t 0x42 0 s else complete t St.ok 0 (takeId id 1 s)) s)

/-- The SERDES PLL stops when the last link is disabled (R257, R258). -/
def serdesIdle (s : State) : State :=
  if (fins 16).any (linkEnabled s) then s
  else { s with clock := { s.clock with plls := vmod s.clock.plls 3 fun p => { p with locked := false } } }

/-- A write of LINK_CTRL (R192): ENABLE 0 takes the link DOWN and squelches its transmitter without a Sump source; ENABLE 1
lets it train. -/
def writeLinkCtrl (n : Fin 16) (v : Word) (s : State) : State :=
  let s1 := regSet (Reg.linkCtrl n) (v &&& 0x00FFFF03) s
  if flag v 0 then
    (if linkEnabled s n then s1
     else startTraining n (linkMod n (fun l => { l with squelch := l.detachHold }) s1))
  else serdesIdle (linkMod n (fun l => { l with squelch := true, retrain := false }) (linkDown n false false s1))

/-! ### At a tick boundary -/

/-- Handover, attach and detach of one link at a boundary (R177, R183, R186). -/
def linkBoundary (n : Fin 16) (s : State) : State :=
  let l := s.links[n]
  if l.state = .training ∧ l.handover then
    linkMod n (fun l => { l with framed := true, handover := false, trained := true, phase := 4 }) s
  else if l.detaching && l.detachAt.elim false (fun k => decide (k + 2 ≤ now s)) then
    linkMod n (fun l => { l with squelch := true, detachHold := true }) (linkDown n false false s)
  else if l.state = .discovered ∧ l.attachDue ∧ checksPass s n then
    let s1 := setLinkState n .attached (linkMod n (fun l => { l with attachDue := false, reqOpen := false, wantAttach := false }) s)
    if s.node.everAttached then s1 else announce { s1 with node := { s1.node with everAttached := true } }
  else if l.partnerDetaching ∧ !l.detaching ∧ (l.state = .attached ∨ l.state = .discovered) then
    linkMod n (fun l => { l with detaching := true, attachDue := false, reqOpen := false }) (breakEntries n s)
  else s

/-- The links at a boundary. -/
def runLinks (s : State) : State := (fins 16).foldl (fun s n => linkBoundary n s) s

end Sys2Proof.Machine
end

