-- ==== Sys2Proof/Machine/Matrix.lean ====
section
/-!
DEFINITION. The bus matrix and the check-value units (chapter "On-Chip Bus Matrix and Check-Value Units"): the device address
map, the regions, the record of errors, the settings applied at SETUP_LOCK, and the units CRC_0 to CRC_7.
-/
namespace Sys2Proof.Machine

/-! ### The device address map and the regions (R409, R417) -/

/-- What an address of the 34-bit device map selects (R409). `never` is a target that COPY and the debug window never reach. -/
inductive DevTarget where
  | periph | scratch | flash | never | none
  deriving DecidableEq, Repr

/-- The target of a device address (R409). -/
def devTarget (a : Nat) : DevTarget :=
  if a < 0x40000 then .periph
  else if 0x10000000 ≤ a ∧ a < 0x10100000 then .scratch
  else if 0x10100000 ≤ a ∧ a < 0x11000000 then .never
  else if 0x20000000 ≤ a ∧ a < 0x24000000 then .flash
  else if 0x100000000 ≤ a ∧ a < 0x300000000 then .never
  else .none

/-- Region k contains a page and is enabled. -/
def inRegion (s : State) (page k : Nat) : Bool :=
  let b := regGet s (Reg.mtxRgnBase k)
  flag b 31 && decide (fld b 21 0 ≤ page) && decide (page ≤ regFld s (Reg.mtxRgnLimit k) 21 0)

/-- May a COPY or the debug window access a device address (R417)? The lowest-numbered enabled region that contains its page
decides; an address that R409 marks "Never", which every address without a target is (DEDUCED, log 138), and an address in no region, are denied. -/
def regionAllows (s : State) (a : Nat) (write : Bool) : Bool :=
  decide (devTarget a ≠ .never) && decide (devTarget a ≠ .none) &&
    match (List.range 8).find? (inRegion s (a / 4096)) with
    | some k => regBit s (Reg.mtxRgnPerm k) (if write then 1 else 0)
    | none => false

/-- The responses of the matrix (R410, R419). -/
inductive Resp where
  | okay | decerr | deny | slverr
  deriving DecidableEq, Repr

/-- RESP of TEST_DBG_STAT and KIND of MTX_ERR_INFO (R424, R534). -/
def Resp.code : Resp → Nat
  | .okay => 0 | .decerr => 1 | .deny => 2 | .slverr => 3

/-- Master numbers (R408). -/
def Master.pcieIn : Nat := 0
def Master.tunnel : Nat := 1
def Master.dma : Nat := 2
def Master.service : Nat := 3
def Master.aoip : Nat := 4
def Master.bench : Nat := 5
def Master.mover (t : Fin 16) : Nat := 6 + t.val

/-- The target classes (R408, R411). -/
inductive MtxTarget where
  | dram | sram | flash | pcieOut | periph
  deriving DecidableEq, Repr

/-- The paths of SPARSE (R411). -/
def sparsePath (m : Nat) : MtxTarget → Bool
  | .dram => m = Master.service || decide (Master.bench ≤ m)
  | .sram => decide (Master.dma ≤ m)
  | .flash => m = Master.dma || m = Master.service
  | .pcieOut => m = Master.tunnel || m = Master.dma
  | .periph => decide (m ≤ Master.service)

/-- A master has a path to a target class in the topology in force (R411, R412). -/
def hasPath (s : State) (m : Nat) (t : MtxTarget) : Bool := !regBit s Reg.mtxStat 0 || sparsePath m t

/-- Record the latest error: address, master, direction and kind, overwriting any earlier record (R419). -/
def recordErr (kind master : Nat) (write : Bool) (addr : Nat) (s : State) : State :=
  regSet Reg.mtxErrInfo (BitVec.ofNat 32 (master % 32 + bitAt write 5 + kind % 4 * 64))
    (regSet Reg.mtxErrAddrHi (BitVec.ofNat 32 (addr / 2 ^ 32 % 4)) (regSet Reg.mtxErrAddrLo (BitVec.ofNat 32 addr) s))

/-- An access that the default target or a target has answered with an error (R419). -/
def matrixError (r : Resp) (master : Nat) (write : Bool) (addr : Nat) (s : State) : State :=
  match r with
  | .okay => s
  | .decerr => raise Src.mtxDecerr 0 addr (sticky Reg.mtxErrStat 0 (bump Reg.mtxDecerrCount 1 (recordErr 1 master write addr s)))
  | .deny => raise Src.mtxDeny 0 addr (sticky Reg.mtxErrStat 1 (bump Reg.mtxDenyCount 1 (recordErr 2 master write addr s)))
  | .slverr => raise Src.mtxSlverr 0 addr (sticky Reg.mtxErrStat 2 (recordErr 3 master write addr s))

/-- How the target that a device address selects answers an access of `size` bytes (R410); the default target answers where
no target is selected, or the master has no path to it (R411, R419). -/
def targetResp (s : State) (master addr size : Nat) (write : Bool) : Resp :=
  match devTarget addr with
  | .periph => if !hasPath s master .periph then .decerr else if size % 4 = 0 ∧ addr % 4 = 0 then .okay else .slverr
  | .scratch => if hasPath s master .sram then .okay else .decerr
  | .flash => if !hasPath s master .flash then .decerr else if write then .slverr else .okay
  | .never => .deny
  | .none => .decerr

/-- How an access is answered that R417 checks (COPY and the debug window): the regions first. -/
def respond (s : State) (master addr size : Nat) (write : Bool) : Resp :=
  if !regionAllows s addr write then .deny else targetResp s master addr size write

/-- SETUP_LOCK puts TOPOLOGY and the slices in force (R412). -/
def applyTopology (s : State) : State := regSet Reg.mtxStat (BitVec.ofNat 32 (regFld s Reg.mtxCtrl 0 0 + 2)) s

/-- A QoS value as it acts: 15 acts as 14 (R408). -/
def qosInForce (q : Nat) : Nat := min 14 q

/-- The QoS of a master's transactions (R408): those that MTX_QOS sets, and the 15 of tick-bound traffic. The DMA engine's is
that of its ring or of its command (R368, R405). -/
def masterQos (s : State) (m : Nat) (ring : Nat) : Nat :=
  if m = Master.pcieIn then qosInForce (regFld s Reg.mtxQos 7 4)
  else if m = Master.tunnel then qosInForce (regFld s Reg.mtxQos 11 8)
  else if m = Master.dma then qosInForce ring
  else if m = Master.service then qosInForce (regFld s Reg.mtxQos 3 0)
  else 15

/-- The request a target grants next (R413): the highest QoS; among equals the master whose number comes next, cyclically, after
the one granted last. Requests are (master, QoS). -/
def grantNext (last : Nat) (reqs : List (Nat × Nat)) : Option (Nat × Nat) :=
  reqs.foldl (fun best r =>
    match best with
    | none => some r
    | some b =>
      if b.2 < r.2 ∨ (b.2 = r.2 ∧ (r.1 + 21 - last) % 22 < (b.1 + 21 - last) % 22) then some r else some b) none

/-! ### Check-value units (R420–R423) -/

/-- W of a unit. -/
def crcWidth (s : State) (u : Nat) : Nat := 8 * 2 ^ regFld s (Reg.crcCfg u) 1 0

/-- A 64-bit value in a pair of registers. -/
def regPair (s : State) (lo hi : Nat) : Nat := (regGet s lo).toNat + (regGet s hi).toNat * 2 ^ 32

/-- Load the running value V: bits of VALUE at or above W stay as written (R420; DEDUCED, log 111). -/
def setCrcValue (u v : Nat) (s : State) : State :=
  let w := crcWidth s u
  let x := regPair s (Reg.crcValueLo u) (Reg.crcValueHi u)
  let y := x / 2 ^ w * 2 ^ w + v % 2 ^ w
  regSet (Reg.crcValueHi u) (BitVec.ofNat 32 (y / 2 ^ 32)) (regSet (Reg.crcValueLo u) (BitVec.ofNat 32 y) s)

/-- START (R420): V ← INIT and COUNT ← 0. -/
def crcStart (u : Nat) (s : State) : State :=
  regSet (Reg.crcCount u) 0 (setCrcValue u (regPair s (Reg.crcInitLo u) (Reg.crcInitHi u)) s)

/-- Feed bytes in order, counting them (R421, R425). -/
def crcFeedUnit (u : Nat) (bytes : List Byte) (s : State) : State :=
  let w := crcWidth s u
  let v := crcFeedAll w (regPair s (Reg.crcPolyLo u) (Reg.crcPolyHi u)) (regBit s (Reg.crcCfg u) 2)
    (regPair s (Reg.crcValueLo u) (Reg.crcValueHi u)) bytes
  bump (Reg.crcCount u) bytes.length (setCrcValue u v s)

/-- A unit of the CH4096's own (R423) after a CRC-32C of `n` bytes whose result is `r`: the settings of R110, V and the count. -/
def crcLeft (u : Nat) (r : Word) (n : Nat) (s : State) : State :=
  let v := BitVec.ofNat 32 (reflectBits 32 (r ^^^ 0xFFFFFFFF).toNat)
  let put (x : Nat × Word) (s : State) : State := regSet x.1 x.2 s
  [(Reg.crcCfg u, 0x1E), (Reg.crcPolyLo u, 0x1EDC6F41), (Reg.crcInitLo u, 0xFFFFFFFF), (Reg.crcValueLo u, v),
   (Reg.crcCount u, BitVec.ofNat 32 (min n 0xFFFFFFFF))].foldr put s

/-- A write to the registers of the units (R421, R423, R425), at offset `off` from 0x7000: none where the register is written
as its access code says. Writes to CRC_4–CRC_7 are ignored. -/
def crcWrite (off : Nat) (value : Word) (s : State) : Option State :=
  let u := off / 0x40
  if 4 ≤ u then some s
  else match off % 0x40 with
    | 0x14 => some (if flag value 0 then crcStart u s else s)
    | 0x28 => some (crcFeedUnit u (leBytes 1 value.toNat) s)
    | 0x2C => some (crcFeedUnit u (leBytes 2 value.toNat) s)
    | 0x30 => some (crcFeedUnit u (leBytes 4 value.toNat) s)
    | _ => none

/-- CRC_RESULT of a unit: r computed from the current V (R420). -/
def crcResultOf (s : State) (u : Nat) : Nat :=
  let c := regGet s (Reg.crcCfg u)
  crcResult (crcWidth s u) (flag c 3) (flag c 4) (regPair s (Reg.crcValueLo u) (Reg.crcValueHi u))

/-- CRC_STAT of a unit the CH4096 itself feeds (R423, R425): HELD, and USE (1 pair digests, 2 confirmations, 3 images). -/
def heldStat (u : Nat) : Word := BitVec.ofNat 32 (2 + 4 * (if u < 6 then 1 else u - 4))

/-- The registers of the units that are not read from the register file: RESULT, and STAT of the units the CH4096 itself
feeds. -/
def crcRead (s : State) (off : Nat) : Option Word :=
  let u := off / 0x40
  match off % 0x40 with
  | 0x20 => some (BitVec.ofNat 32 (crcResultOf s u))
  | 0x24 => some (BitVec.ofNat 32 (crcResultOf s u / 2 ^ 32))
  | 0x34 => if 4 ≤ u then some (heldStat u) else none
  | _ => none

end Sys2Proof.Machine
end

