-- ==== Sys2Proof/Machine/Datapath.lean ====
section
/-!
DEFINITION. The datapath of a DSP tile (R73–R104): the Spindle row, its validity, the operations, the landing of results, and
the running of the tick and background programs over the cycles of a tick.
-/
namespace Sys2Proof.Machine

/-! ### The row -/

/-- A product operation's effect on its accumulator (R90). -/
inductive ProdKind where
  | set | add | sub
  deriving DecidableEq, Repr

/-- The operations of R90; a product carries whether its second operand is a memory word, QA and QB. -/
inductive TOp where
  | nop | mov | movi | movil | laneid
  | add | sub | neg | abs | min | max
  | and | or | xor | andn | sel
  | cmpgt | cmpge | cmpeq
  | shl | shlv | norm | lanerot
  | prod (k : ProdKind) (mem qa qb : Bool)
  | accld | accclr | sta | mulq
  | ld | st | stam
  | inval | outval
  | pseti | psetl | padd
  deriving DecidableEq, Repr

/-- The operation of an OP code; none where it is unassigned (R90). -/
def topOf (c : Nat) : Option TOp :=
  if 0x20 ≤ c ∧ c < 0x40 then
    let q : Bool × Bool × Bool := (bitOf c 4, bitOf c 2, bitOf c 3)
    match c % 4 with
    | 0 => some (.prod .set q.1 q.2.1 q.2.2)
    | 1 => some (.prod .add q.1 q.2.1 q.2.2)
    | 2 => some (.prod .sub q.1 q.2.1 q.2.2)
    | _ => none
  else match c with
    | 0x00 => some .nop | 0x01 => some .mov | 0x02 => some .movi | 0x03 => some .movil | 0x04 => some .laneid
    | 0x08 => some .add | 0x09 => some .sub | 0x0A => some .neg | 0x0B => some .abs | 0x0C => some .min | 0x0D => some .max
    | 0x10 => some .and | 0x11 => some .or | 0x12 => some .xor | 0x13 => some .andn | 0x14 => some .sel
    | 0x18 => some .cmpgt | 0x19 => some .cmpge | 0x1A => some .cmpeq
    | 0x1C => some .shl | 0x1D => some .shlv | 0x1E => some .norm | 0x1F => some .lanerot
    | 0x40 => some .accld | 0x41 => some .accclr | 0x44 => some .sta | 0x45 => some .mulq
    | 0x48 => some .ld | 0x49 => some .st | 0x4A => some .stam
    | 0x52 => some .inval | 0x53 => some .outval
    | 0x58 => some .pseti | 0x59 => some .psetl | 0x5A => some .padd
    | _ => none

/-- Latency in cycles (R90); NOP has none. -/
def TOp.latency : TOp → Nat
  | .nop => 0
  | .add | .sub | .neg | .abs | .min | .max | .shl | .shlv | .norm | .lanerot | .sta | .stam => 2
  | .prod _ true _ _ => 7
  | .prod _ false _ _ | .accld | .accclr | .mulq => 4
  | .ld => 3
  | _ => 1

/-- The operation writes V[DST]. -/
def TOp.usesDst : TOp → Bool
  | .nop | .prod .. | .accld | .accclr | .st | .stam | .outval | .pseti | .psetl | .padd => false
  | _ => true

/-- The operation reads V[SA]. -/
def TOp.usesSa : TOp → Bool
  | .nop | .movi | .movil | .laneid | .accclr | .sta | .ld | .stam | .inval | .pseti | .psetl | .padd => false
  | _ => true

/-- The operation reads V[SB]. -/
def TOp.usesSb : TOp → Bool
  | .add | .sub | .min | .max | .and | .or | .xor | .andn | .sel | .cmpgt | .cmpge | .cmpeq | .shlv | .mulq => true
  | .prod _ mem _ _ => !mem
  | _ => false

/-- The operation names an accumulator. -/
def TOp.usesAcc : TOp → Bool
  | .prod .. | .accld | .accclr | .sta | .stam => true
  | _ => false

/-- The operation uses SHIFT. -/
def TOp.usesShift : TOp → Bool
  | .sta | .stam | .mulq => true
  | _ => false

/-- The operation accesses data memory. -/
def TOp.usesMem : TOp → Bool
  | .ld | .st | .stam => true
  | .prod _ mem _ _ => mem
  | _ => false

/-- The operation writes a pointer. -/
def TOp.isPtr : TOp → Bool
  | .pseti | .psetl | .padd => true
  | _ => false

/-- The operation uses IMM16. -/
def TOp.usesImm : TOp → Bool
  | .movi | .movil | .shl | .lanerot | .inval | .outval | .pseti | .psetl | .padd => true
  | _ => false

/-- GATHER is allowed for LD and MACM (R81, R85). -/
def TOp.mayGather : TOp → Bool
  | .ld => true
  | .prod .add true _ _ => true
  | _ => false

/-- Field [hi:lo] of a row (R80). -/
def rowFld (w : BitVec 128) (hi lo : Nat) : Nat := bitsOf w.toNat hi lo

/-- Bit i of a row. -/
def rowBit (w : BitVec 128) (i : Nat) : Bool := w.getLsbD i

/-- The parity of a row is correct (R84). -/
def rowParity (w : BitVec 128) : Bool := oddParity 128 w.toNat

/-- The NOP row that fills a page (R112). -/
def nopRow : BitVec 128 := BitVec.ofNat 128 (2 ^ 127)

/-- A row is valid (R85). -/
def rowValid (compat : Bool) (w : BitVec 128) : Bool :=
  match topOf (rowFld w 7 0) with
  | none => false
  | some o =>
    let mode := rowFld w 66 64
    let xen := rowBit w 119
    let usesC : Bool := o = .sel || decide (mode = 2) || xen
    decide (mode ≤ 2) && (mode ≠ 2 || o.mayGather) &&
    decide (rowFld w 47 42 = 0) && decide (rowFld w 71 70 = 0) && decide (rowFld w 126 123 = 0) && !rowBit w 99 &&
    (rowBit w 98 || decide (rowFld w 111 96 = 0)) &&
    rowParity w &&
    (!xen || compat || decide (rowFld w 117 112 ≤ 31)) &&
    (o.usesDst || decide ((if o.isPtr then rowFld w 13 11 else rowFld w 13 8) = 0)) &&
    (o.usesSa || (decide (rowFld w 19 14 = 0) && !rowBit w 35)) &&
    (o.usesSb || decide (rowFld w 25 20 = 0)) &&
    (usesC || decide (rowFld w 31 26 = 0)) &&
    (o.usesAcc || decide (rowFld w 34 32 = 0)) &&
    (o.usesShift || decide (rowFld w 39 36 = 0)) &&
    (o.usesMem || decide (rowFld w 63 48 = 0)) &&
    (o.usesMem || o.isPtr || decide (rowFld w 71 64 = 0)) &&
    (o.usesImm || decide (rowFld w 95 80 = 0))

/-- The longest latency of a row's operation and its XFER IN (R117). -/
def rowLatency (w : BitVec 128) : Nat :=
  max ((topOf (rowFld w 7 0)).elim 0 TOp.latency) (if rowBit w 119 && !rowBit w 118 then 1 else 0)

/-- The row's channels of XFER: the enabled lanes k (R80, R91). -/
def rowLanes (w : BitVec 128) : List Nat := (List.range 32).filter fun k => !rowBit w (72 + k / 4)

/-! ### Registers, pointers and memory addressing -/

/-- Word of a data memory is 0 until written (DESIGN CHOICE, log 31). -/
def dmemRead (m : List (Nat × Word)) (a : Nat) : Word := mapGetD 0 m (a % 2 ^ 19)
def dmemWrite (m : List (Nat × Word)) (a : Nat) (v : Word) : List (Nat × Word) := mapPutD 0 m (a % 2 ^ 19) v

/-- The physical register of a logical one (R79). -/
def physReg (rbase r : Nat) : Nat := if r < 32 then r else 32 + (r - 32 + rbase) % 32

/-- V[r] of lane k, through the window base in force. -/
def Bank.vreg (b : Bank) (r k : Nat) : Word := mapGetD 0 b.v (physReg b.rbase r * 32 + k)

/-- A[i] of lane k. -/
def Bank.acc (b : Bank) (i k : Nat) : BitVec 72 := mapGetD 0 b.a (i * 32 + k)

/-- wrap(x) of a pointer (R96). -/
def Ptr.wrap (p : Ptr) (x : Int) : Nat :=
  if p.len = 0 then (x % (2 ^ 19 : Int)).toNat
  else (((p.start : Int) + (x - p.start) % (p.len : Int)) % (2 ^ 19 : Int)).toNat

/-- What a row reads in its issue cycle: its bank, the other bank, data memory, the input buffer and its validity, the bank. -/
structure RowCtx where
  me : Bank
  other : Bank
  mem : List (Nat × Word)
  input : List (Nat × Word)
  inInvalid : BitVec 256
  isB : Bool
  deriving DecidableEq, Repr

/-- The SA operand of lane k (R100). -/
def RowCtx.sa (x : RowCtx) (w : BitVec 128) (k : Nat) : Word :=
  (if rowBit w 35 then x.other else x.me).vreg (rowFld w 19 14) k
def RowCtx.sb (x : RowCtx) (w : BitVec 128) (k : Nat) : Word := x.me.vreg (rowFld w 25 20) k
def RowCtx.sc (x : RowCtx) (w : BitVec 128) (k : Nat) : Word := x.me.vreg (rowFld w 31 26) k

/-- The pointer a row names. -/
def RowCtx.ptr (x : RowCtx) (w : BitVec 128) : Ptr := vgetD x.me.p (rowFld w 69 67) Ptr.reset

/-- The word that lane k accesses (R96). -/
def RowCtx.addr (x : RowCtx) (w : BitVec 128) (k : Nat) : Nat :=
  let p := x.ptr w
  let base : Int := (p.cur + rowFld w 63 48 : Nat)
  match rowFld w 66 64 with
  | 0 => p.wrap (base + (k : Int))
  | 2 => p.wrap (base + (((x.sc w k).toNat % 2 ^ 19 : Nat) : Int))
  | _ => p.wrap base

/-- The memory word of lane k. -/
def RowCtx.load (x : RowCtx) (w : BitVec 128) (k : Nat) : Word := dmemRead x.mem (x.addr w k)

/-- SHIFT of a row, −8 to +7. -/
def rowShift (w : BitVec 128) : Int := signed 4 (rowFld w 39 36)

/-! ### Arithmetic -/

/-- A store of R94: floor(a × 2^SHIFT / 2^31), saturated. -/
def storeAcc (a : Int) (shift : Int) : Word × Bool := sat32 (a * 2 ^ (shift + 8).toNat / 2 ^ 39)

/-- V × 2^n, n from −32 to 31, an arithmetic shift for n < 0 (R90). -/
def shiftSat (v : Word) (n : Int) : Word × Bool := sat32 (v.toInt * 2 ^ (n + 32).toNat / 2 ^ 32)

/-- NORM: leading bits equal to the sign bit, minus 1. -/
def normOf (v : Word) : Word :=
  let x := if v.msb then (~~~ v).toNat else v.toNat
  BitVec.ofNat 32 (31 - (if x = 0 then 0 else Nat.log2 x + 1))

/-- A mask: all ones or all zeros. -/
def maskOf (b : Bool) : Word := if b then 0xFFFFFFFF else 0

/-- The exact product aligned into Q10.62 (R92). -/
def product (a b : Word) (qa qb : Bool) : Int := a.toInt * b.toInt * 2 ^ (2 * (b2n qa + b2n qb))

/-- The vector result of lane k and whether it saturated (R90). -/
def vecResult (x : RowCtx) (w : BitVec 128) (o : TOp) (k : Nat) : Word × Bool :=
  let a := x.sa w k
  let b := x.sb w k
  let imm := rowFld w 95 80
  match o with
  | .mov => (a, false)
  | .movi => (BitVec.ofNat 32 (imm * 2 ^ 16), false)
  | .movil => (BitVec.ofNat 32 ((x.me.vreg (rowFld w 13 8) k).toNat / 2 ^ 16 * 2 ^ 16 + imm), false)
  | .laneid => (BitVec.ofNat 32 k, false)
  | .add => sat32 (a.toInt + b.toInt)
  | .sub => sat32 (a.toInt - b.toInt)
  | .neg => sat32 (-a.toInt)
  | .abs => sat32 (a.toInt.natAbs : Int)
  | .min => (if a.toInt ≤ b.toInt then a else b, false)
  | .max => (if a.toInt ≤ b.toInt then b else a, false)
  | .and => (a &&& b, false)
  | .or => (a ||| b, false)
  | .xor => (a ^^^ b, false)
  | .andn => (a &&& ~~~ b, false)
  | .sel => ((a &&& x.sc w k) ||| (b &&& ~~~ x.sc w k), false)
  | .cmpgt => (maskOf (decide (b.toInt < a.toInt)), false)
  | .cmpge => (maskOf (decide (b.toInt ≤ a.toInt)), false)
  | .cmpeq => (maskOf (decide (a = b)), false)
  | .shl => shiftSat a (signed 6 imm)
  | .shlv => shiftSat a (signed 6 b.toNat)
  | .norm => (normOf a, false)
  | .lanerot => (x.sa w ((k + imm % 32) % 32), false)
  | .sta => storeAcc (x.me.acc (rowFld w 34 32) k).toInt (rowShift w)
  | .mulq => storeAcc (a.toInt * b.toInt) (rowShift w)
  | .ld => (x.load w k, false)
  | .inval => (maskOf (!(x.inInvalid.getLsbD (imm % 8 * 32 + k))), false)
  | _ => (0, false)

/-- A store's words: in BCAST mode that of the lowest enabled lane alone (R95, R96). -/
def storeWords (w : BitVec 128) (addr : Nat → Nat) (val : Nat → Word × Bool) : Land :=
  let lanes := if rowFld w 66 64 = 1 then (rowLanes w).take 1 else rowLanes w
  .mem (lanes.map fun k => (addr k, (val k).1)) (lanes.filter fun k => (val k).2).length

/-- The pointer after a pointer operation (R90). -/
def ptrResult (p : Ptr) (o : TOp) (imm : Nat) : Ptr :=
  match o with
  | .pseti => { start := imm * 8, len := 0, cur := imm * 8 }
  | .psetl => { p with len := imm * 32 }
  | .padd => { p with cur := p.wrap ((p.cur : Int) + signed 16 imm) }
  | _ => p

/-- The results of a row's operation, landing after its latency. -/
def opFlights (x : RowCtx) (w : BitVec 128) (o : TOp) : List Flight :=
  let lanes := rowLanes w
  let acc (v : Nat → Int) : List (Nat × BitVec 72) :=
    lanes.map fun k => (rowFld w 34 32 * 32 + k, BitVec.ofInt 72 (v k))
  let at_ (l : Land) : List Flight := [{ left := o.latency, land := l }]
  match o with
  | .nop => []
  | .prod kind mem qa qb =>
    let p (k : Nat) : Int := product (x.sa w k) (if mem then x.load w k else x.sb w k) qa qb
    at_ (match kind with
      | .set => .accSet (acc p)
      | .add => .accAdd (acc p)
      | .sub => .accAdd (acc fun k => -p k))
  | .accld => at_ (.accSet (acc fun k => (x.sa w k).toInt * 2 ^ 31))
  | .accclr => at_ (.accSet (acc fun _ => 0))
  | .st => at_ (storeWords w (x.addr w) fun k => (x.sa w k, false))
  | .stam => at_ (storeWords w (x.addr w) fun k => storeAcc (x.me.acc (rowFld w 34 32) k).toInt (rowShift w))
  | .outval => if x.isB then [] else
      at_ (.outValid (lanes.map fun k => (rowFld w 95 80 % 8 * 32 + k, decide (x.sa w k ≠ 0))))
  | .pseti | .psetl | .padd =>
    match toFin? 8 (rowFld w 69 67) with
    | some i => at_ (.ptr i (ptrResult x.me.p[i] o (rowFld w 95 80)))
    | none => []
  | _ =>
    let r := physReg x.me.rbase (rowFld w 13 8)
    at_ (.vec (lanes.map fun k => (r * 32 + k, (vecResult x w o k).1)) (lanes.filter fun k => (vecResult x w o k).2).length)

/-- The XFER of a row (R82): an IN lands as a latency-1 result, an OUT at the end of the issue cycle, in bank T alone. -/
def xferFlights (x : RowCtx) (w : BitVec 128) : List Flight :=
  let i := rowFld w 117 112
  let r := rowFld w 31 26
  if !rowBit w 119 then []
  else if rowBit w 118 then
    (if x.isB then [] else [{ left := 1, land := .out ((rowLanes w).map fun k => (i * 32 + k, x.me.vreg r k)) }])
  else [{ left := 1, land := .vec ((rowLanes w).map fun k => (physReg x.me.rbase r * 32 + k, mapGetD 0 x.input (i * 32 + k))) 0 }]

/-- All results of a row in the order in which they apply (R88). -/
def rowFlights (x : RowCtx) (w : BitVec 128) : List Flight :=
  xferFlights x w ++ (match topOf (rowFld w 7 0) with | some o => opFlights x w o | none => [])

/-! ### Landing -/

/-- The running of a tick: the tile, the saturations, wraps and parity errors so far, the MARK cycle, the latest landing. -/
structure Run where
  tile : Tile
  sats : Nat
  wraps : Nat
  parities : Nat
  mark : Option Nat
  endBad : Bool
  deriving DecidableEq, Repr

/-- The bank that runs. -/
def Run.bank (r : Run) (isB : Bool) : Bank := if isB then r.tile.bankB else r.tile.bankT

/-- Replace the bank that runs. -/
def Run.setBank (r : Run) (isB : Bool) (b : Bank) : Run :=
  { r with tile := if isB then { r.tile with bankB := b } else { r.tile with bankT := b } }

/-- The add stage of one accumulator element (R89, R93): the sum modulo 2^72, and whether it wrapped. -/
def accAdd (old v : BitVec 72) : BitVec 72 × Bool :=
  (old + v, decide ((old + v).toInt ≠ old.toInt + v.toInt))

/-- One result lands (R87–R89, R95). -/
def landOne (isB : Bool) (r : Run) (l : Land) : Run :=
  let b := r.bank isB
  match l with
  | .vec vals n => { r.setBank isB { b with v := vals.foldl (fun m e => mapPutD 0 m e.1 e.2) b.v } with sats := r.sats + n }
  | .accSet vals => r.setBank isB { b with a := vals.foldl (fun m e => mapPutD 0 m e.1 e.2) b.a }
  | .accAdd vals =>
    let wraps := (vals.filter fun e => (accAdd (mapGetD 0 b.a e.1) e.2).2).length
    { r.setBank isB { b with a := vals.foldl (fun m e => mapPutD 0 m e.1 (accAdd (mapGetD 0 m e.1) e.2).1) b.a } with
      wraps := r.wraps + wraps }
  | .mem vals n =>
    { r with tile := { r.tile with mem := vals.foldl (fun m e => dmemWrite m e.1 e.2) r.tile.mem }, sats := r.sats + n }
  | .out vals => { r with tile := { r.tile with work := vals.foldl (fun m e => mapPutD 0 m e.1 e.2) r.tile.work } }
  | .outValid vals =>
    { r with tile := { r.tile with workInvalid := vals.foldl (fun (m : BitVec 256) e =>
        let bit := BitVec.ofNat 256 (2 ^ e.1)
        if e.2 then m &&& ~~~ bit else m ||| bit) r.tile.workInvalid } }
  | .ptr p x => r.setBank isB { b with p := vset b.p p x }

/-- The end of a cycle of a bank: the results due land in issue order; the others come one cycle nearer. -/
def landCycle (isB : Bool) (r : Run) : Run :=
  let b := r.bank isB
  let due := b.flights.filter fun f => f.left ≤ 1
  let rest := (b.flights.filter fun f => 1 < f.left).map fun f => { f with left := f.left - 1 }
  due.foldl (fun r f => landOne isB r f.land) (r.setBank isB { b with flights := rest })

/-! ### Issue -/

/-- The row of a page; every row without an image row is the NOP row (R112). -/
def Page.row (p : Page) (r : Nat) : BitVec 128 := mapGetD nopRow p.rows r

/-- The next row and the counters after a row (R114). The REM of a reload value 0, which bank T can meet when it runs on past a
corrupted END_TICK row, is taken as 0 (DESIGN CHOICE, log 144). -/
def nextRow (w : BitVec 128) (r : Nat) (reload : List Nat) (ctr : Vector (Option Nat) 4) : Nat × Vector (Option Nat) 4 :=
  if rowBit w 98 then
    let c := rowFld w 97 96
    let rem := (vgetD ctr c none).getD (reload.getD c 0 - 1)
    if 0 < rem then ((r + 32768 - rowFld w 111 100) % 32768, vsetN ctr c (some (rem - 1)))
    else ((r + 1) % 32768, vsetN ctr c none)
  else ((r + 1) % 32768, ctr)

/-- The window base after a row (R79). -/
def rotBase (w : BitVec 128) (rbase : Nat) : Nat :=
  (rbase + match rowFld w 41 40 with | 0 => 0 | 1 => 1 | 2 => 2 | _ => 4) % 32

/-- Issue the row at the program counter of a bank (R86); a row with a parity error is a NOP (R101). -/
def issueRow (isB : Bool) (pg : Page) (r : Run) : Run :=
  let b := r.bank isB
  let w := pg.row b.pc
  if rowParity w then
    let x : RowCtx := { me := b, other := r.bank (!isB), mem := r.tile.mem, input := r.tile.input,
                        inInvalid := r.tile.inInvalid, isB := isB }
    let nx := nextRow w b.pc (if isB then pg.bReload else pg.tReload) b.ctr
    r.setBank isB { b with flights := b.flights ++ rowFlights x w, rbase := rotBase w b.rbase, pc := nx.1, ctr := nx.2 }
  else { r.setBank isB { b with pc := (b.pc + 1) % 32768 } with parities := r.parities + 1 }

/-- Which events stop the tile in the cycle in which they happen, because their fault fences it (R102). -/
structure RunStop where
  sat : Bool
  wrap : Bool
  parity : Bool
  deriving DecidableEq, Repr

/-- The tile has been fenced by an event of this run. -/
def Run.stopped (r : Run) (f : RunStop) : Bool :=
  (f.sat && decide (0 < r.sats)) || (f.wrap && decide (0 < r.wraps)) || (f.parity && decide (0 < r.parities))

/-- How a tick program ended: with its count; cut at C − 1; or stopped by a fence. -/
inductive TickEnd where
  | done (count : Nat) | cut | fenced
  deriving DecidableEq, Repr

/-- Drain bank T from cycle c on: `n` more cycles are left before the cut. -/
def drain (f : RunStop) : Nat → Nat → Run → TickEnd × Run
  | 0, c, r => (if r.tile.bankT.flights = [] then .done (c + 1) else .cut, r)
  | n + 1, c, r =>
    if r.tile.bankT.flights = [] then (.done (c + 1), r)
    else
      let r1 := landCycle false r
      if r1.stopped f then (.fenced, r1) else drain f n (c + 1) r1

/-- Run bank T: `n` cycles are left up to C − 1, `c` is the cycle last done (R97, R99, R101). -/
def runT (f : RunStop) (pg : Page) : Nat → Nat → Run → TickEnd × Run
  | 0, _, r => (.cut, r)
  | n + 1, c, r =>
    let pc := r.tile.bankT.pc
    let w := pg.row pc
    let ok := rowParity w
    let r1 := landCycle false (issueRow false pg r)
    let r2 := { r1 with mark := if ok && rowBit w 122 then some (c + 1) else r1.mark,
                        endBad := r1.endBad || (!ok && decide (pg.tickProg.map (·.2) = some pc)) }
    if r2.stopped f then (.fenced, r2)
    else if ok && rowBit w 120 then drain f n (c + 1) r2
    else runT f pg n (c + 1) r2

/-- Run bank B for at most `n` cycles; answers the cycles issued (R98, R101, R113). -/
def runB (f : RunStop) (pg : Page) (entry : Nat) : Nat → Nat → Run → Nat × Run
  | 0, c, r => (c, r)
  | n + 1, c, r =>
    let w := pg.row r.tile.bankB.pc
    let ok := rowParity w
    let last : Bool := ok && rowBit w 120
    let r0 := landCycle true (issueRow true pg r)
    let r1 := if last then r0.setBank true { r0.tile.bankB with pc := entry } else r0
    if r1.stopped f || last || (ok && rowBit w 121) then (c + 1, r1) else runB f pg entry n (c + 1) r1

end Sys2Proof.Machine
end

