-- ==== Sys2Proof/Machine/Spindle.lean ====
section
/-!
DEFINITION. Table images (R108–R118, R536): the checks of a load in their order, and the tick-program count.
-/
namespace Sys2Proof.Machine

/-- An n-byte field of an image. -/
def imgFld (img : Array Byte) (off n : Nat) : Nat := ofLe ((List.range n).map fun i => img.getD (off + i) 0)

/-- A section table entry (R109). -/
structure Section where
  ty : Nat
  reserved : Nat
  offset : Nat
  length : Nat
  base : Nat
  deriving DecidableEq, Repr

/-- Entry i of the section table. -/
def imgSection (img : Array Byte) (i : Nat) : Section :=
  let o := 0x80 + 16 * i
  { ty := imgFld img o 2, reserved := imgFld img (o + 2) 2, offset := imgFld img (o + 4) 4, length := imgFld img (o + 8) 4,
    base := imgFld img (o + 12) 4 }

/-- The section table. -/
def imgSections (img : Array Byte) : List Section := (List.range (imgFld img 0x70 2)).map (imgSection img)

/-- The program whose entry and last row stand at two header offsets; 0xFFFF: none (R108). -/
def imgProg (img : Array Byte) (off : Nat) : Option (Nat × Nat) :=
  if imgFld img off 2 = 0xFFFF then none else some (imgFld img off 2, imgFld img (off + 2) 2)

/-- The four reload values at a header offset. -/
def imgReload (img : Array Byte) (off : Nat) : List Nat := (List.range 4).map fun c => imgFld img (off + 2 * c) 2

/-- The offset of each offending header field (R536). -/
def headerBad (img : Array Byte) (ilen : Nat) : List Nat :=
  let rc := imgFld img 0x10 2
  let sc := imgFld img 0x70 2
  let t := imgProg img 0x12
  let b := imgProg img 0x16
  let off (bad : Bool) (o : Nat) : List Nat := if bad then [o] else []
  off (decide (imgFld img 0x06 2 / 64 ≠ 0)) 0x06 ++
  off (decide (rc = 0) || decide (32768 < rc)) 0x10 ++
  off ((t = none && b = none) || t.elim false fun p => decide (p.2 < p.1)) 0x12 ++
  off (t.elim false fun p => decide (rc ≤ p.2)) 0x14 ++
  off (b.elim false fun p => decide (p.2 < p.1) || t.elim false fun q => decide (q.1 ≤ p.2) && decide (p.1 ≤ q.2)) 0x16 ++
  off (b.elim false fun p => decide (rc ≤ p.2)) 0x18 ++
  off (decide (imgFld img 0x1A 2 ≠ 0)) 0x1A ++
  off (t = none && decide (imgFld img 0x50 32 ≠ 0)) 0x50 ++
  off (decide (sc = 0) || decide (64 < sc) || decide (ilen < 0x80 + 16 * sc) ||
    !((imgSections img).any fun x => decide (x.ty = 1))) 0x70 ++
  off (decide (imgFld img 0x72 2 ≠ 0)) 0x72 ++
  off (decide (imgFld img 0x78 8 ≠ 0)) 0x78

/-- The offset of each offending field of section entry i, given the entries before it (R536). -/
def sectionBad (rc tableEnd ilen : Nat) (before : List Section) (i : Nat) (x : Section) : List Nat :=
  let o := 0x80 + 16 * i
  let off (bad : Bool) (d : Nat) : List Nat := if bad then [o + d] else []
  let isData : Bool := x.ty = 1 || x.ty = 2
  let bytes := if x.ty = 1 then x.length else 4 * x.length
  let params := (before.filter fun y => y.ty = 4).foldl (fun a y => a + y.length) 0
  off (decide (x.ty = 0) || decide (4 < x.ty) || (decide (x.ty = 1) && before.any fun y => decide (y.ty = 1))) 0 ++
  off (decide (x.reserved ≠ 0)) 2 ++
  off (if isData then decide (x.offset % 16 ≠ 0) || decide (x.offset < tableEnd) || decide (ilen < x.offset + bytes)
    else decide (x.offset ≠ 0)) 4 ++
  off (if x.ty = 1 then decide (x.length ≠ 16 * rc)
    else decide (x.length = 0) || (decide (x.ty = 4) && decide (params ≤ 81920) && decide (81920 < params + x.length))) 8 ++
  off (if x.ty = 1 then decide (x.base ≠ 0) else decide (524288 < x.base + x.length)) 12

/-- All offending section fields. -/
def sectionsBad (rc tableEnd ilen : Nat) : List Section → Nat → List Section → List Nat
  | _, _, [] => []
  | before, i, x :: l => sectionBad rc tableEnd ilen before i x ++ sectionsBad rc tableEnd ilen (before ++ [x]) (i + 1) l

/-- The smallest of a list of numbers. -/
def minOf : List Nat → Option Nat
  | [] => none
  | x :: l => some (l.foldl min x)

/-- Order 4 of R111: the lowest offset of an offending field. -/
def layoutBad (img : Array Byte) (ilen : Nat) : Option Nat :=
  let sc := imgFld img 0x70 2
  let tail := if sc ≤ 64 ∧ 0x80 + 16 * sc ≤ ilen then
      sectionsBad (imgFld img 0x10 2) (0x80 + 16 * sc) ilen [] 0 (imgSections img) else []
  minOf (headerBad img ilen ++ tail)

/-- Row r of the ROWS section (R109). -/
def imgRows (img : Array Byte) (off rc : Nat) : Array (BitVec 128) :=
  ((List.range rc).map fun r => BitVec.ofNat 128 (imgFld img (off + 16 * r) 16)).toArray

/-- The repeat ranges of the rows: first row (as an integer), closing row, counter (R114). -/
def repRanges (rows : Array (BitVec 128)) : List (Int × Nat × Nat) :=
  (List.range rows.size).filterMap fun r =>
    let w := rows.getD r nopRow
    if rowBit w 98 then some ((r : Int) - rowFld w 111 100, r, rowFld w 97 96) else none

/-- A range breaks a rule of R115: outside every program, a reload value of 0, crossing a range that closes at a lower row, or
nested in a range that uses the same counter. -/
def rangeBad (progs : List ((Nat × Nat) × List Nat)) (ranges : List (Int × Nat × Nat)) (x : Int × Nat × Nat) : Bool :=
  (match progs.find? fun p => decide ((p.1.1 : Int) ≤ x.1) && decide (x.2.1 ≤ p.1.2) with
    | none => true
    | some p => p.2.getD x.2.2 0 = 0) ||
  ranges.any fun y =>
    (decide (y.2.1 < x.2.1) && decide (x.1 ≤ (y.2.1 : Int)) && decide (y.1 < x.1)) ||
    (decide (x.2.1 < y.2.1) && decide (y.1 ≤ x.1) && decide (y.2.2 = x.2.2))

/-- A row breaks order 6 of R111. -/
def rowBad (spt : Nat) (inMap outMap : Nat) (progs : List ((Nat × Nat) × List Nat)) (ranges : List (Int × Nat × Nat))
    (r : Nat) (w : BitVec 128) : Bool :=
  let isLast : Bool := progs.any fun p => decide (p.1.2 = r)
  let inside : Bool := progs.any fun p => decide (p.1.1 ≤ r) && decide (r ≤ p.1.2)
  let map := if rowBit w 118 then outMap else inMap
  (isLast && (!rowBit w 120 || ranges.any fun x => decide (x.1 ≤ (r : Int)) && decide (r ≤ x.2.1))) ||
  (inside && !isLast && rowBit w 120) ||
  (rowBit w 119 && (rowLanes w).any fun k => !bitOf map (rowFld w 117 112 / spt * 32 + k)) ||
  (ranges.any fun x => decide (x.2.1 = r) && rangeBad progs ranges x)

/-- The header offset of the first non-zero reload value of a counter that closes no range of its bank's program (R115). -/
def reloadBad (ranges : List (Int × Nat × Nat)) (prog : Option (Nat × Nat)) (reload : List Nat) (off : Nat) : Option Nat :=
  let used (c : Nat) : Bool := prog.elim false fun p =>
    ranges.any fun x => decide (x.2.2 = c) && decide (p.1 ≤ x.2.1) && decide (x.2.1 ≤ p.2)
  (((List.range 4).filter fun c => decide (reload.getD c 0 ≠ 0) && !used c).map fun c => off + 2 * c).head?

/-- Order 6 of R111: the command-specific field of the first failure; rows come before the reload values (DESIGN CHOICE,
log 147). -/
def structureBad (img : Array Byte) (rows : Array (BitVec 128)) (spt : Nat) : Option Nat :=
  let t := imgProg img 0x12
  let b := imgProg img 0x16
  let progs := (t.map fun p => (p, imgReload img 0x20)).toList ++ (b.map fun p => (p, imgReload img 0x28)).toList
  let ranges := repRanges rows
  let inMap := imgFld img 0x30 32
  let outMap := imgFld img 0x50 32
  match (List.range rows.size).find? fun r => rowBad spt inMap outMap progs ranges r (rows.getD r nopRow) with
  | some r => some (0x80000000 + r)
  | none =>
    match reloadBad ranges t (imgReload img 0x20) 0x20 with
    | some o => some o
    | none => reloadBad ranges b (imgReload img 0x28) 0x28

/-- Rows issued from row `lo` to row `hi`, counting every repetition (R117); `fuel` exceeds the rows of the segment. -/
def issueCount (rows : Array (BitVec 128)) (reload : List Nat) : Nat → Nat → Nat → Nat
  | 0, _, _ => 0
  | fuel + 1, lo, hi =>
    if hi < lo then 0 else
    let w := rows.getD hi nopRow
    let st := if rowBit w 98 then hi - rowFld w 111 100 else hi
    let n := if rowBit w 98 then max 1 (reload.getD (rowFld w 97 96) 0) else 1
    let body := (if st < hi then issueCount rows reload fuel st (hi - 1) else 0) + 1
    n * body + (if lo < st then issueCount rows reload fuel lo (st - 1) else 0)

/-- The last `need` rows issued from row `lo` to row `hi`, in issue order. -/
def issueTail (rows : Array (BitVec 128)) (reload : List Nat) : Nat → Nat → Nat → Nat → List Nat
  | 0, _, _, _ => []
  | fuel + 1, lo, hi, need =>
    if hi < lo ∨ need = 0 then [] else
    let w := rows.getD hi nopRow
    let st := if rowBit w 98 then hi - rowFld w 111 100 else hi
    let n := if rowBit w 98 then max 1 (reload.getD (rowFld w 97 96) 0) else 1
    let body := (if st < hi then issueTail rows reload fuel st (hi - 1) (need - 1) else []) ++ [hi]
    let reps := (List.replicate (min n need) body).flatten
    let part := reps.drop (reps.length - need)
    (if lo < st then issueTail rows reload fuel lo (st - 1) (need - part.length) else []) ++ part

/-- The tick-program count of R117. -/
def tickCount (rows : Array (BitVec 128)) (reload : List Nat) (p : Nat × Nat) : Nat :=
  let fuel := p.2 - p.1 + 1
  let e := issueCount rows reload fuel p.1 p.2
  let tail := (issueTail rows reload fuel p.1 p.2 7).reverse
  let d := (tail.mapIdx fun i r => rowLatency (rows.getD r nopRow) - 1 - i).foldl max 0
  e + d + 1

/-- CORE clock of the tiles: 1.2 GHz, or 1.1 GHz with the clock step in force (R104, R473). -/
def tileHz (s : State) : Nat := if s.wear.clockStep then 1100000000 else 1200000000

/-- The clock a load is checked against (R118, R473): while a clock step is pending, both deadlines must hold, and the slower
clock's is the stricter one. -/
def loadHz (s : State) : Nat :=
  if (match s.wear.step with | some x => !x.revert | none => false) then 1100000000 else tileHz s

/-- The deadline D of a number of cycles (R117). -/
def deadline (c : Nat) : Nat := 92 * c / 100

/-- Words of an INIT section. -/
def initWords (img : Array Byte) (x : Section) : List Word :=
  (List.range x.length).map fun i => BitVec.ofNat 32 (imgFld img (x.offset + 4 * i) 4)

/-- The lowest word that the INIT regions share with a footprint (order 7 of R111). -/
def initClash (secs : List Section) (footprint : List (Nat × Nat)) : Option Nat :=
  minOf ((secs.filter fun x => x.ty = 2).flatMap fun x =>
    footprint.filterMap fun f =>
      let lo := max x.base f.1
      if lo < x.base + x.length ∧ lo < f.1 + f.2 then some lo else none)

/-- What a load finds: a refusal with its status and command-specific field, or a page with the words to initialize. -/
inductive ImageCheckResult where
  | bad (status specific : Nat)
  | good (pg : Page) (init : List (Nat × List Word))
  deriving DecidableEq, Repr

/-- The page of an image whose checks have passed. -/
def pageOf (img : Array Byte) (rows : Array (BitVec 128)) (count : Nat) : Page :=
  let secs := imgSections img
  { rows := (rows.toList.mapIdx fun i w => (i, w)).filter fun e => e.2 ≠ nopRow, rowCount := rows.size,
    tickProg := imgProg img 0x12, bgProg := imgProg img 0x16, tReload := imgReload img 0x20, bReload := imgReload img 0x28,
    inMap := BitVec.ofNat 256 (imgFld img 0x30 32), outMap := BitVec.ofNat 256 (imgFld img 0x50 32),
    clearT := bitOf (imgFld img 6 2) 4, clearB := bitOf (imgFld img 6 2) 5,
    params := (secs.filter fun x => x.ty = 4).map fun x => (x.base, x.length),
    footprint := (secs.filter fun x => x.ty ≠ 1).map fun x => (x.base, x.length), count := count,
    buildId := BitVec.ofNat 32 (imgFld img 0x74 4) }

/-- The bytes over which the CRC-32C of an image is computed (R110). -/
def imageCrcBytes (bytes : List Byte) : List Byte := bytes.take 12 ++ [0, 0, 0, 0] ++ bytes.drop 16

/-- The nine checks of R111 on an image, in their order. A non-zero TICK_CYCLES without a tick program fails at order 8, whose
command-specific field is then 0 (DESIGN CHOICE, log 148). -/
def checkImage (s : State) (active : Option Page) (length : Nat) (bytes : List Byte) : ImageCheckResult :=
  let img := bytes.toArray
  if length < 128 ∨ 0x300000 < length ∨ imgFld img 8 4 ≠ length ∨ imgFld img 0 4 ≠ 0x4C4E5053 ∨ imgFld img 4 2 ≠ 1 then
    .bad 0x40 0
  else
    let crc := (crc32c (imageCrcBytes bytes)).toNat
    if crc ≠ imgFld img 12 4 then .bad 0x40 crc
    else if bitOf (imgFld img 6 2) 0 ≠ s.power.compat ∨ bitsOf (imgFld img 6 2) 3 1 ≠ s.time.rate.val then
      .bad 0x41 (imgFld img 6 2)
    else match layoutBad img length with
    | some o => .bad 0x40 o
    | none =>
      let secs := imgSections img
      let rows := imgRows img ((secs.find? fun x => x.ty = 1).elim 0 Section.offset) (imgFld img 0x10 2)
      match (List.range rows.size).find? fun r => !rowValid s.power.compat (rows.getD r nopRow) with
      | some r => .bad 0x40 (0x80000000 + r)
      | none =>
      match structureBad img rows (spt s) with
      | some x => .bad 0x40 x
      | none =>
      match initClash secs (active.elim [] Page.footprint) with
      | some a => .bad 0x43 a
      | none =>
        let count := (imgProg img 0x12).elim 0 (tickCount rows (imgReload img 0x20))
        if count ≠ imgFld img 0x1C 4 then .bad 0x40 count
        else if deadline (coreCycles s (loadHz s)) < count then .bad 0x42 count
        else .good (pageOf img rows count) ((secs.filter fun x => x.ty = 2).map fun x => (x.base, initWords img x))

end Sys2Proof.Machine
end

