-- ==== Sys2Proof/Machine/Tile.lean ====
section
/-!
DEFINITION. The tiles at a tick boundary and within a tick, and their commands (R73–R107, R121–R135): handover and gather,
page swaps, parameter writes, ramp units, loads and queries.
-/
namespace Sys2Proof.Machine

/-- Change one tile. -/
def tileMod (n : Fin 16) (f : Tile → Tile) (s : State) : State := { s with tiles := vmod s.tiles n f }

/-- The other page (R123). -/
def standby (t : Tile) : Fin 2 := if t.active = 0 then 1 else 0

/-- The active page's image. -/
def Tile.page (t : Tile) : Option Page := t.pages[t.active]

/-- The standby page's image. -/
def Tile.standbyPage (t : Tile) : Option Page := t.pages[standby t]

/-- Empty the standby page. -/
def Tile.emptyStandby (t : Tile) : Tile := { t with pages := vset t.pages (standby t) none }

/-- Block base of a tile's registers (R105). -/
def tileReg (n : Fin 16) (off : Nat) : Nat := 0x14000 + 0x1000 * n.val + off

/-! ### Faults of a tile's run -/

/-- Raising this source now would fence its unit (R452, R457). -/
def wouldFence (s : State) (src inst : Nat) : Bool :=
  decide (4 ≤ severity s src) && decide ((sumpInst s src inst).state ≠ .latched) && decide (s.power.state ≠ .sleep)

/-- The events that fence tile n in the cycle in which they happen (R95, R101, R102). -/
def runStop (s : State) (n : Fin 16) : RunStop :=
  { sat := wouldFence s Src.tileSat n && !regBit s (tileReg n 0x00C) 0,
    wrap := wouldFence s Src.tileAccWrap n && !regBit s (tileReg n 0x00C) 1,
    parity := wouldFence s Src.tileParity n }

/-- Raise a source k times. -/
def raiseTimes (src inst : Nat) : Nat → State → State
  | 0, s => s
  | k + 1, s => raiseTimes src inst k (raise src inst 0 s)

/-- Count the events of a run and raise their faults (R93, R95, R101). -/
def countRun (n : Fin 16) (r : Run) (s : State) : State :=
  let f := tileReg n 0x00C
  let s1 := countSticky (tileReg n 0x010) f 0 Src.tileSat n r.sats s
  let s2 := countSticky (tileReg n 0x014) f 1 Src.tileAccWrap n r.wraps s1
  if r.parities = 0 then s2 else raiseTimes Src.tileParity n r.parities (sticky f 2 (bump (tileReg n 0x018) r.parities s2))

/-! ### Within a tick -/

/-- The tick ends as an overrun (R76, R119): the committed copy is handed over again, every channel invalid. -/
def overrun (n : Fin 16) (s : State) : State :=
  let c := coreCycles s (tileHz s)
  raise Src.tileOverrun n 0 (tileMod n (fun t =>
    { t with handValid := 0, cutDue := false, sum := { t.sum with count := some c, bg := 0, overran := true },
             bankT := { t.bankT with flights := [] } }) s)

/-- The registers of a tile show the tick that has ended (R105, R119). -/
def showTick (n : Fin 16) (s : State) : State :=
  let x := s.tiles[n].sum
  let s1 := match x.count with
    | none => s
    | some c => regMod (tileReg n 0x020) (fun w => setFld w 17 0 (max (fld w 17 0) c)) (regSetFld (tileReg n 0x01C) 17 0 c s)
  let s2 := match x.mark with
    | some m => regSet (tileReg n 0x028) (BitVec.ofNat 32 (m + 2 ^ 31)) s1
    | none => regSetFld (tileReg n 0x028) 31 31 0 s1
  tileMod n (fun t => { t with overrunLast := x.overran }) (regSetFld (tileReg n 0x024) 17 0 x.bg s2)

/-- A tile at the opening of a tick (R75, R76, R97): the input buffer filled from the router values by IN_MAP, the working
copy set to the committed one, bank T's window base and counters reset. -/
def Tile.open (t : Tile) (spt : Nat) (n : Nat) (inputs : List (Nat × Blk)) : Tile :=
  let inMap := t.page.elim 0 Page.inMap
  let mine := inputs.filter fun e => e.1 / 256 = 0x50 + n && inMap.getLsbD (e.1 % 256)
  let words := mine.flatMap fun e =>
    e.2.samples.mapIdx fun i x => ((e.1 % 256 / 32 * spt + i) * 32 + e.1 % 32, x)
  { t with input := words.foldl (fun m e => mapPutD 0 m e.1 e.2) [],
           inInvalid := (mine.filter fun e => !e.2.valid).foldl (fun m e => m ||| BitVec.ofNat 256 (2 ^ (e.1 % 256))) 0,
           work := t.comm, workInvalid := 0, handMap := t.page.elim 0 Page.outMap, handValid := 0,
           bankT := { t.bankT with rbase := 0, ctr := Vector.replicate 4 none, flights := [],
                                   pc := (t.page.bind Page.tickProg).elim 0 (·.1) } }

/-- The end of a tick program within its deadline: the working copy becomes the committed copy (R76). -/
def Tile.commit (t : Tile) : Tile := { t with comm := t.work, handValid := ~~~ t.workInvalid }

/-- Run the tick program of a tile (R97–R101); a page without one commits the unchanged working copy. -/
def runTick (f : RunStop) (c : Nat) (t : Tile) : TickEnd × Run :=
  let r : Run := { tile := t, sats := 0, wraps := 0, parities := 0, mark := none, endBad := false }
  match t.page with
  | none => (.done 0, r)
  | some pg => match pg.tickProg with
    | none => (.done 0, r)
    | some _ => runT f pg (c - 1) 0 r

/-- Run the background program in the cycles that remain after a count (R97, R113). -/
def runBack (f : RunStop) (c count : Nat) (r : Run) : Nat × Run :=
  match r.tile.page.bind fun pg => pg.bgProg.map fun b => (pg, b.1) with
  | none => (0, r)
  | some x => runB f x.1 x.2 (c - 1 - count) 0 r

/-- A tile's tick (R86, R97–R102, R119), run whole at its opening; its registers show it when it has ended. -/
def runTile (inputs : List (Nat × Blk)) (n : Fin 16) (s : State) : State :=
  let t0 := s.tiles[n].open (spt s) n inputs
  if fenced s (.tile n) then
    tileMod n (fun t => { t with input := t0.input, inInvalid := t0.inInvalid, handMap := 0, handValid := 0,
                                 sum := TickSum.none }) s
  else
    let c := coreCycles s (tileHz s)
    let f := runStop s n
    let e := runTick f c t0
    let sum : TickSum := { TickSum.none with mark := e.2.mark }
    let put (x : TickSum) (r : Run) (s : State) : State := countRun n r (tileMod n (fun _ => { r.tile with sum := x }) s)
    match e.1 with
    | .fenced => put sum { e.2 with tile := { e.2.tile with handMap := 0, bankT := { e.2.tile.bankT with flights := [] } } } s
    | .cut => put sum { e.2 with tile := { e.2.tile with cutDue := true } } s
    | .done count =>
      if e.2.endBad || decide (deadline c < count) then overrun n (put sum e.2 s)
      else
        let r0 := { e.2 with tile := e.2.tile.commit }
        let b := if regBit s (tileReg n 0x008) 0 then runBack f c count r0 else (0, r0)
        put { sum with count := some count, bg := b.1 } b.2 s

/-- Run all tiles. -/
def runTiles (inputs : List (Nat × Blk)) (s : State) : State := (fins 16).foldl (fun s n => runTile inputs n s) s

/-- Tick programs still running at C − 1 are cut there (R99); at the latest the boundary finds them cut. The tick has ended. -/
def cutTiles (s : State) : State :=
  (fins 16).foldl (fun s (n : Fin 16) => showTick n (if s.tiles[n].cutDue then overrun n s else s)) s

/-- A bit of a table row goes bad after its load (R101; log 145). -/
def upsetRow (s : State) (u : RowUpset) : State :=
  tileMod u.tile (fun t => { t with pages := vmod t.pages u.page (fun p => p.map fun (g : Page) =>
    if u.row.toNat < g.rowCount then
      { g with rows := mapPutD nopRow g.rows u.row.toNat (g.row u.row.toNat ^^^ BitVec.ofNat 128 (2 ^ u.bit.toNat)) }
    else g) }) s

/-- The block of output channel c at the handover (R76). -/
def Tile.outBlk (t : Tile) (spt c : Nat) : Blk :=
  { samples := (List.range spt).map fun i => mapGetD 0 t.comm ((c / 32 * spt + i) * 32 + c % 32),
    valid := t.handValid.getLsbD c, ramp := false }

/-- Hand over the tile outputs of the tick that ends as class 0x5 sources; channels outside OUT_MAP read zero, flagged invalid
(R76, R120). -/
def handTiles (s : State) : State :=
  let outs := (fins 16).flatMap fun (n : Fin 16) =>
    ((List.range 256).filter fun c => s.tiles[n].handMap.getLsbD c).map fun c =>
      (ep 5 (n.val * 256 + c), s.tiles[n].outBlk (spt s) c)
  let keep := s.router.store.filter fun e => e.1 / 4096 ≠ 5
  { s with router := { s.router with store := outs.foldl (fun m e => mapPut m e.1 e.2) keep } }

/-! ### Page swaps -/

/-- Steps 1–4 of R125 on one tile. -/
def Tile.swap (t : Tile) : Tile :=
  let t1 := { t with active := standby t }
  let clear (on : Bool) (b : Bank) : Bank := if on then { b with v := [], a := [], p := Vector.replicate 8 Ptr.reset } else b
  let pg := t1.page
  let b := { t.bankB with flights := [], ctr := Vector.replicate 4 none, rbase := 0,
                          pc := (pg.bind Page.bgProg).elim 0 (·.1) }
  { t1 with bankT := clear (pg.elim false Page.clearT) t.bankT, bankB := clear (pg.elim false Page.clearB) b }

/-- TILE_SWAP at its boundary (R126), on the tiles it still acts on: its status. -/
def applySwap (tiles : List (Fin 16)) (s : State) : Nat × State :=
  if tiles.any fun n => fenced s (.tile n) then (0x48, s)
  else if tiles.any fun (n : Fin 16) => s.tiles[n].standbyPage = none then (0x45, s)
  else (St.ok, tiles.foldl (fun s n => tileMod n Tile.swap s) s)

/-- A swap is pending for a tile (R123, R124): a TILE_SWAP, or a PROGRAM_SWAP of a global operation (R221). -/
def swapPending (s : State) (n : Fin 16) : Bool :=
  (s.timed.any fun t => match t.act with | .tileSwap m => m.getLsbD n | _ => false) ||
    s.fabric.ops.any fun o => o.execs && decide (o.kind = 5) && decide (now s < o.tick) && bitOf (ofLe (o.arg.take 2)) n

/-! ### Parameters and ramp units -/

/-- A parameter word: inside a PARAM region of the active or the standby page (R127). -/
def Tile.isParam (t : Tile) (a : Nat) : Bool :=
  t.pages.toList.any fun p => p.elim false fun pg => pg.params.any fun r => decide (r.1 ≤ a) && decide (a < r.1 + r.2)

/-- The words of a word set (R131). -/
def WordSet.words (w : WordSet) (spt : Nat) : List Nat :=
  (List.range spt).map fun i => (w.waddr + (if w.stride then 32 * i else i)) % 2 ^ 19

/-- A word is bound to a ramp unit other than `except_` (R134). -/
def Tile.rampBound (t : Tile) (spt : Nat) (except_ : Option Nat) (a : Nat) : Bool :=
  (List.range 64).any fun u => decide (some u ≠ except_) &&
    match (vgetD t.units u RampUnit.reset).bound with
    | some w => (w.words spt).contains a
    | none => false

/-- A word is a limit word of a bound power-stage channel (R352). -/
def limitBound (s : State) (n : Fin 16) (a : Nat) : Bool :=
  s.limits.toList.any fun b => match b with
    | some x => x.tile = n && decide (x.waddr ≤ a) && decide (a < x.waddr + 8)
    | none => false

/-- Write one data-memory word of a tile. -/
def writeWord (n : Fin 16) (a : Nat) (v : Word) (s : State) : State :=
  tileMod n (fun t => { t with mem := dmemWrite t.mem a v }) s

/-- PARAM_WRITE at its boundary (R128, R134, R352): its status; `words` are those no later command has won. -/
def applyParams (n : Fin 16) (words : List (Nat × Word)) (s : State) : Nat × State :=
  if !(words.all fun w => s.tiles[n].isParam w.1) then (0x46, s)
  else if words.any fun w => s.tiles[n].rampBound (spt s) none w.1 then (0x47, s)
  else if words.any fun w => limitBound s n w.1 then (St.protected_, s)
  else (St.ok, words.foldl (fun s w => writeWord n w.1 w.2 s) s)

/-- The word set a RAMP_SET names. -/
def rampSet (a : RampSetArgs) : WordSet := { waddr := a.waddr.toNat, stride := a.stride, q29 := a.q29 }

/-- A ramp that has done its steps ends: the unit writes its target at this boundary and is idle (R133). -/
def RampUnit.finish (x : RampUnit) : RampUnit :=
  if x.gain.n ≠ 0 ∧ x.gain.n ≤ x.gain.j then { x with gain := { x.gain with start := 0, n := 0, j := 0 }, due := true } else x

/-- RAMP_SET at its boundary (R133, R134, R352): its status. A ramp that ends at this boundary has left the unit at its target. -/
def applyRampSet (n : Fin 16) (u : Fin 64) (a : RampSetArgs) (ms : Nat) (s : State) : Nat × State :=
  let t := s.tiles[n]
  let x := t.units[u].finish
  let w := rampSet a
  let ws := w.words (spt s)
  let put (y : RampUnit) : State := tileMod n (fun t => { t with units := vset t.units u y }) s
  if fenced s (.tile n) then (0x48, s)
  else if a.release then (St.ok, put RampUnit.reset)
  else if !(ws.all t.isParam) then (0x46, s)
  else if ws.any fun i => t.rampBound (spt s) (some u) i then (0x47, s)
  else if ws.any fun i => limitBound s n i then (St.protected_, s)
  else
    let same : Bool := match x.bound with | some b => b.waddr = w.waddr && b.stride = w.stride | none => false
    let from_ := if same then x.gain else Gain.ofWord a.from_
    let g := from_.rampTo a.target (rampSamples (fs s) (spt s) ms)
    (St.ok, put { bound := some w, gain := g, due := decide (g.n = 0) })

/-- The check of the existing bindings at a boundary (R134): a unit whose word set has lost a PARAM region is unbound. -/
def checkUnits (n : Fin 16) (s : State) : State :=
  let check (t : Tile) (x : RampUnit) : RampUnit :=
    match x.bound with
    | some w => if (w.words (spt s)).all t.isParam then x.finish else RampUnit.reset
    | none => x
  tileMod n (fun t => { t with units := vmap (check t) t.units }) s

/-- A limit-word binding whose words have left the PARAM regions ends (R353). -/
def checkLimits (s : State) : State :=
  let keep (x : LimitBind) : Bool := (List.range 8).all fun i => s.tiles[x.tile].isParam (x.waddr + i)
  { s with limits := vmap (fun (b : Option LimitBind) => b.bind fun x => if keep x then b else none) s.limits }

/-- A level as a gain word value of a ramp unit (R133). -/
def rampWord (q29 inv : Bool) (lv : Option Int) : Word :=
  match lv with
  | none => 0
  | some l =>
    let g := if q29 then expLevel 29 l else min (expLevel 31 l) (2 ^ 31 - 1)
    BitVec.ofInt 32 (if inv then -g else g)

/-- The words a unit writes at a boundary, and the unit after it (R133). -/
def RampUnit.step (spt : Nat) (x : RampUnit) : List (Nat × Word) × RampUnit :=
  match x.bound with
  | none => ([], x)
  | some w =>
    let ws := w.words spt
    if x.gain.n ≠ 0 then
      (ws.mapIdx fun i a =>
        let j := x.gain.j + i + 1
        (a, rampWord w.q29 x.gain.inv (some (x.gain.levelAt j))),
       { x with gain := { x.gain with j := x.gain.j + spt }, due := false })
    else if x.due then
      (ws.map fun a => (a, rampWord w.q29 x.gain.inv (x.gain.target.map (256 * ·))), { x with due := false })
    else ([], x)

/-- Write the ramp-unit words of a tile (R129 order 3); a fenced tile's units write nothing (R134). -/
def writeRamps (n : Fin 16) (s : State) : State :=
  if fenced s (.tile n) then s
  else
    tileMod n (fun t =>
      let r := t.units.toList.map (RampUnit.step (spt s))
      { t with mem := (r.flatMap (·.1)).foldl (fun m e => dmemWrite m e.1 e.2) t.mem,
               units := vmap (fun x => (RampUnit.step (spt s) x).2) t.units }) s

/-- One 16-byte record of RAMP_QUERY (R135); the level and target of an unbound unit are free values. -/
def rampRecord (x : RampUnit) (s : State) : List Byte × State :=
  match x.bound with
  | none =>
    let l := freshFree 32 s
    let t := freshFree 16 l.2
    let f := freshFree 3 t.2
    (leBytes 4 0 ++ leBytes 4 l.1 ++ leBytes 4 0 ++ leBytes 2 t.1 ++ leBytes 1 0 ++ leBytes 1 f.1, f.2)
  | some w =>
    let lv : Nat := match x.gain.current with | none => 0x80000000 | some l => unsign 32 l
    let tg : Nat := match x.gain.target with | none => 0x8000 | some l => unsign 16 l
    (leBytes 4 w.waddr ++ leBytes 4 lv ++ leBytes 4 (x.gain.n - x.gain.j) ++ leBytes 2 tg ++
      leBytes 1 (if x.gain.n ≠ 0 then 2 else 1) ++
      leBytes 1 (bitAt w.q29 0 + bitAt w.stride 1 + bitAt x.gain.inv 2), s)

/-- The 64 records of a tile. -/
def rampRecords : List RampUnit → State → List Byte × State
  | [], s => ([], s)
  | x :: l, s =>
    let r := rampRecord x s
    let q := rampRecords l r.2
    (r.1 ++ q.1, q.2)

/-- Answer the RAMP_QUERYs at a boundary (R135). -/
def runRampQueries (n : Fin 16) (s : State) : State :=
  s.tiles[n].queries.foldl (fun s q =>
    let r := rampRecords s.tiles[n].units.toList s
    resultThen q.1 q.2.toNat r.1 St.ok r.2) (tileMod n (fun t => { t with queries := [] }) s)

/-- Take the DMEM_READ copies of a boundary and answer them (R129 order 4, R130). -/
def runDmemReads (n : Fin 16) (s : State) : State :=
  s.tiles[n].reads.foldl (fun s q =>
    resultThen q.ticket q.addr.toNat
      ((List.range q.count).flatMap fun i => leBytes 4 (dmemRead s.tiles[n].mem (q.waddr + i)).toNat) St.ok s)
    (tileMod n (fun t => { t with reads := [] }) s)

/-! ### The commands -/

/-- TILE_CUT (R99, R119): the tick program of a tile reaches cycle C − 1. -/
def execTileCut (tile : Fin 16) (s : State) : Host.Outcome State Fault Refusal :=
  .next (if s.tiles[tile].cutDue then overrun tile s else s)

/-- PAGE_BUSY for a load or a clear (R122). -/
def pageBusy (s : State) (n : Fin 16) : Bool := swapPending s n || s.tiles[n].load.isSome

/-- The bytes that a load reads: those of its LENGTH, or none where no image is as long. -/
def imageBytes (length : Nat) : Nat := if length ≤ 0x300000 then length else 0

/-- TILE_LOAD (R123): the standby page is emptied and the image is being read. -/
def execTileLoad (h : CmdHdr) (a : TileLoadArgs) (s : State) : Host.Outcome State Fault Refusal :=
  match toFin? 16 a.tile.toNat with
  | none => .next (untimedCmd h true (fun _ s => s) s)
  | some n => .next (untimedCmd h (!aligned8 a.addr) (fun t s =>
      if pageBusy s n then complete t 0x44 0 s
      else
        let s1 := tileMod n Tile.emptyStandby s
        if dmaHalted s then complete t St.busError 0 s
        else tileMod n (fun x => { x with load := some { ticket := t, addr := a.addr, length := a.length.toNat } })
          (hostReadReq a.addr.toNat (imageBytes a.length.toNat) s1)) s)

/-- TILE_LOAD_COMPLETE (R111, R112, R123): the image has been read; it is checked, its rows and INIT regions are written; CRC_7
computes its check value (R423). While
data of it is on its way through the tunnel it has not been read. -/
def execTileLoadComplete (tile : Fin 16) (s : State) : Host.Outcome State Fault Refusal :=
  match s.tiles[tile].load with
  | none => .next s
  | some l =>
    let n := imageBytes l.length
    let s2 := tileMod tile (fun t => { t with load := none }) s
    if dmaHalted s then .next (complete l.ticket St.busError 0 s2)
    else if readWaits (.dma 32) l.addr.toNat n s then .next s
    else
      let bytes := hostRead s l.addr.toNat n
      let s2 := crcLeft 7 (crc32c (imageCrcBytes bytes)) (imageCrcBytes bytes).length s2
      match checkImage s s.tiles[tile].page l.length bytes with
      | .bad st sp => .next (complete l.ticket st sp s2)
      | .good pg init =>
        let s3 := tileMod tile (fun t =>
          { t with pages := vset t.pages (standby t) (some pg),
                   mem := init.foldl (fun m e => mapPutList 0 m e.1 e.2) t.mem }) s2
        .next (complete l.ticket St.ok pg.count s3)

/-- TILE_CLEAR (R124). -/
def execTileClear (h : CmdHdr) (tile : Byte) (s : State) : Host.Outcome State Fault Refusal :=
  match toFin? 16 tile.toNat with
  | none => .next (untimedCmd h true (fun _ s => s) s)
  | some n => .next (untimedCmd h false (fun t s =>
      if pageBusy s n then complete t 0x44 0 s else complete t St.ok 0 (tileMod n Tile.emptyStandby s)) s)

/-- TILE_SWAP (R125). -/
def execTileSwap (h : CmdHdr) (tick : BitVec 64) (mask : BitVec 16) (s : State) : Host.Outcome State Fault Refusal :=
  .next (timedCmd h tick (decide (mask = 0))
    (fun s =>
      let ns := maskUnits 16 mask.toNat
      if ns.any fun (n : Fin 16) => s.tiles[n].load.isSome then some (0x44, 0)
      else if ns.any fun (n : Fin 16) => s.tiles[n].standbyPage = none then some (0x45, 0) else none)
    noPre (.tileSwap mask) s)

/-- The words of a PARAM_WRITE, their values given as bytes (R128). -/
def paramWords (a : ParamWriteArgs) (bytes : List Byte) : List (Nat × Word) :=
  (List.range a.count.toNat).map fun i =>
    ((a.waddr.toNat + (if a.stride then 32 * i else i)) % 2 ^ 19, BitVec.ofNat 32 (ofLe ((bytes.drop (4 * i)).take 4)))

/-- The fields of a PARAM_WRITE break R128. -/
def paramBad (a : ParamWriteArgs) : Bool :=
  let n := a.count.toNat
  decide (n = 0) ||
  (if a.inline_ then decide (8 < n) || decide (ofLe (a.data.drop (4 * n)) ≠ 0)
   else decide (16 < n) || decide (ofLe (a.data.drop 8) ≠ 0) || decide (ofLe (a.data.take 8) % 4 ≠ 0))

/-- PARAM_WRITE (R128, R134): words that stand in host memory are read before it is accepted. -/
def execParamWrite (h : CmdHdr) (a : ParamWriteArgs) (s : State) : Host.Outcome State Fault Refusal :=
  match toFin? 16 a.tile.toNat with
  | none => .next (badTimed h s)
  | some n =>
    let s1 := hostStores h.stores s
    let addr := ofLe (a.data.take 8)
    if !paramBad a && !a.inline_ && dmaHalted s then .next (busTimed h s)
    else
      let ws := paramWords a (if a.inline_ then a.data else hostRead s1 addr (4 * a.count.toNat))
      .next (timedCmd h a.tick (paramBad a)
        (fun s => if ws.all fun w => s.tiles[n].isParam w.1 then none else some (0x46, 0))
        noPre (.paramWrite n ws) s)

/-- The fields of a RAMP_SET break R132: levels above the format's limit, or a misaligned word address. -/
def rampBad (s : State) (a : RampSetArgs) : Bool :=
  let lim : Int := if a.q29 then 0x0C00 else 0
  let above (g : Word) : Bool := !gainWordValid g || (levelOf g).elim false fun l => decide (lim < l)
  !a.release && (above a.target || above a.from_ || (rampField s 10000 a.rampMs).isNone ||
    (!a.stride && decide (a.waddr.toNat % spt s ≠ 0)))

/-- RAMP_SET (R132–R134). -/
def execRampSet (h : CmdHdr) (a : RampSetArgs) (s : State) : Host.Outcome State Fault Refusal :=
  match toFin? 16 a.tile.toNat, toFin? 64 a.unit.toNat with
  | some n, some u =>
    .next (timedCmd h a.tick (rampBad s a)
      (fun s =>
        if fenced s (.tile n) then some (0x48, 0)
        else if a.release || (((rampSet a).words (spt s)).all s.tiles[n].isParam) then none else some (0x46, 0))
      noPre (.rampSet n u a ((rampField s 10000 a.rampMs).getD 0)) s)
  | _, _ => .next (badTimed h s)

/-- DMEM_READ (R130). -/
def execDmemRead (h : CmdHdr) (a : DmemReadArgs) (s : State) : Host.Outcome State Fault Refusal :=
  match toFin? 16 a.tile.toNat with
  | none => .next (untimedCmd h true (fun _ s => s) s)
  | some n =>
    let c := a.count.toNat
    .next (untimedCmd h (decide (c = 0) || decide (256 < c) || decide (a.resultAddr.toNat % 4 ≠ 0)) (fun t s =>
      tileMod n (fun x => { x with reads := x.reads ++
        [{ ticket := t, waddr := a.waddr.toNat, count := c, addr := a.resultAddr }] }) s) s)

/-- RAMP_QUERY (R135). -/
def execRampQuery (h : CmdHdr) (tile : Byte) (resultAddr : BitVec 64) (s : State) : Host.Outcome State Fault Refusal :=
  match toFin? 16 tile.toNat with
  | none => .next (untimedCmd h true (fun _ s => s) s)
  | some n => .next (untimedCmd h false (fun t s =>
      tileMod n (fun x => { x with queries := x.queries ++ [(t, resultAddr)] }) s) s)

/-- TILE_STAT (R105). -/
def tileStat (s : State) (n : Fin 16) : Word :=
  let t := s.tiles[n]
  BitVec.ofNat 32 (t.active.val + bitAt (t.page.bind Page.tickProg).isSome 1 + bitAt (t.page.bind Page.bgProg).isSome 2 +
    bitAt (fenced s (.tile n)) 3 + bitAt s.wear.clockStep 4 + bitAt t.overrunLast 5)

end Sys2Proof.Machine
end

