-- ==== Sys2Proof/Machine/Power.lean ====
section
/-!
DEFINITION. The loudspeaker power stage (R333–R364): the gain stage and the playing of ticks, rails, starting and stopping,
available power and budgets, limit words, protection, the hardware mute ramp and the commands.
-/
namespace Sys2Proof.Machine

/-! ### The gain stage over the tick that ended (R334–R336) -/

/-- The block that enters the gain stage in the tick: a direct-path channel's samples where one feeds the channel, else the tick
held at its start; none while the tick stands still. -/
def enterBlk (s : State) (before : Vector Direct 64) (c : Fin 8) : Blk :=
  match (fins 64).find? fun n => match before[n].ends with | some e => decide (e.2.toNat = ep 8 c) | none => false with
  | some n => s.router.directs[n].out
  | none => s.ps.ch[c].enter

/-- The pilot tone p of R339 in Q1.31 of VFS at a phase in 1/fs of a turn, behind the start and mute gains (R346, R354). -/
def pilotSample (s : State) (c : Fin 8) (phase : Nat) (gain : Int) : Int :=
  let v := sineSample (phase % fs s * 2 ^ 32 / fs s) * (pilotMv s c : Int) / ((100 * s.ps.ch[c].vfs : Nat) : Int)
  if pilotHz s c = 0 then 0 else (scaleSample (BitVec.ofInt 32 v) gain).1.toInt

/-- Play one tick of a channel: an invalid or missing tick is replaced (R336), the three gains act (R335), and the pilot tone is
added (R339). -/
def playCh (b : Option Blk) (s0 : State) (c : Fin 8) : State :=
  let x := s0.ps.ch[c]
  if !x.playing then chMod c (fun x => { x with out := [], drive := [] }) s0
  else
    let n := rampSamples (fs s0) (spt s0) 1
    let good : Bool := match b with | some b => b.valid | none => false
    let r := match b with
      | some b => if b.valid then x.conceal.take 1 (spt s0) n (b.samples ++ List.replicate (spt s0 - b.samples.length) 0)
        else x.conceal.lose 1 (spt s0) n
      | none => x.conceal.lose 1 (spt s0) n
    let y := r.1.mapIdx fun i v => (scaleSample v (levelGain (x.levelAhead i))).1
    let xs := y.mapIdx fun i v =>
      v.toInt + pilotSample s0 c (x.pilot + i * pilotHz s0 c) (levelGain (addLevels (x.start.ahead i) (some 0) (x.mute.ahead i)))
    let start := x.start.advance (spt s0)
    let mute := x.mute.advance (spt s0)
    let s1 := chMod c (fun x => { x with out := y, conceal := r.2, start := start, budget := x.budget.advance (spt s0),
                                         mute := mute, invalid := if good then x.invalid else satN 32 (x.invalid + 1),
                                         pilot := (x.pilot + spt s0 * pilotHz s0 c) % fs s0,
                                         drive := x.drive.drop (x.drive.length - spt s0) ++ xs }) s0
    let s2 := if good then s1 else countSticky Reg.psInvalidCount Reg.psErrStat 1 Src.psInvalidIn 0 1 s1
    if x.state = .ramping ∧ start.n = 0 then
      let s3 := chMod c (fun x => { x with state := .running, retry := false, fault := if x.retry then 0 else x.fault }) s2
      confirmHealth c s3
    else if x.state = .stopping ∧ mute.n = 0 then chMod c (fun x => { x with state := .stopped }) s2
    else s2

/-- The budget gains of the samples of the tick that ended, which R350 divides by. -/
def noteGains (s : State) (c : Fin 8) : State :=
  chMod c (fun x => { x with gains := ((List.range (spt s)).map (fun i => levelGain (x.budget.ahead i)) :: x.gains).take 2 }) s

/-- The power stage over the tick that ended; while the PSTAGE domain stands still (R252) it puts out nothing. -/
def psPlay (before : Vector Direct 64) (s0 : State) : State :=
  let s := (fins 8).foldl noteGains s0
  if timeRuns s then endMutes ((fins 8).foldl (fun s c => playCh (some (enterBlk s before c)) s c) s)
  else (fins 8).foldl (fun s c => chMod c (fun x => { x with out := [], drive := [] }) s) s

/-- The tick delivered at this boundary is held for one tick (R334). -/
def psShift (s : State) : State :=
  (fins 8).foldl (fun s (c : Fin 8) =>
    let b := deliveredBlk s (ep 8 c)
    chMod c (fun x => { x with enter := x.held, held := b }) s) s

/-- PSTAGE_TICK_STEP (R336): a tick-length step of the PSTAGE clock while the tick stands still; the time itself counts on in REF
(R252). -/
def execPstageTickStep (s : State) : Host.Outcome State Fault Refusal :=
  if s.clock.plls[(4 : Fin 6)].locked ∨ !timeRuns s then .next s
  else fin (endMutes ((fins 8).foldl (fun s c => playCh none s c) s))

/-! ### Rails at a boundary (R343, R344) -/

/-- 1 V in the unit of a group's target. -/
def volt : Nat := 2 ^ 64

/-- A direct-path channel feeds a group (R33). -/
def directFed (s : State) (g : Fin 2) : Bool :=
  (fins 64).any fun n => match s.router.directs[n].ends with
    | some e => (groupChs g).any fun c => decide (e.2.toNat = ep 8 c)
    | none => false

/-- The magnitude of a sample. -/
def absSample (x : Sample) : Nat := x.toInt.natAbs

/-- E_K of a group from the ticks just delivered. -/
def envelope (s : State) (g : Fin 2) : Nat :=
  ((groupChs g).filter fun (c : Fin 8) =>
      decide (s.ps.ch[c].state = .running) || decide (s.ps.ch[c].state = .ramping) || decide (s.ps.ch[c].state = .starting)).foldl
    (fun (a : Nat) (c : Fin 8) =>
      let p := (deliveredBlk s (ep 8 c)).samples.foldl (fun m v => max m (absSample v)) 0
      let pilot := if pilotOf s c = 0 then 0 else pilotMv s c * volt / 100
      max a (p * s.ps.ch[c].vfs * (volt / 2 ^ 31) + pilot)) 0

/-- The factor e^(−T_tick / DECAY_MS) times 2^256. -/
def decayFactor (s : State) : Nat := fxOne * fxOne / fxExp (spt s * 1000 * fxOne / (fs s * decayMs s))

/-- Target, tracking, READY and the direct-path hold of a group at a boundary, with its measured rail. -/
def railStep (rail : Nat) (s : State) (g : Fin 2) : State :=
  let x := s.ps.group[g]
  let feeding := directFed s g
  let held : Bool := feeding || x.direct
  let t := if held then railMax s g * volt else min (railMax s g * volt) (max (15 * volt) (envelope s g + headroom s * volt))
  let r := if x.on then min (railMax s g * volt) (t + (x.target - t) * decayFactor s / fxOne) else 0
  let near : Bool := decide (((rail : Int) * volt - 10 * (r : Int)).natAbs ≤ 20 * volt)
  groupMod g (fun y =>
    { y with target := r, actual := rail, ready := x.on && near, up := x.on && (x.up || near), direct := held,
             onAt := if (groupChs g).all fun c => s.ps.ch[c].off then y.onAt else s.time.refTime,
             directAt := if feeding then s.time.refTime else y.directAt }) s

/-- Release the channels that wait for a READY rail, or at once where the converter already runs (R346): the start gain ramps from mute over 100 ms. -/
def releaseCh (s : State) (c : Fin 8) : State :=
  if s.ps.ch[c].state = .starting ∧ s.ps.group[groupOf c].up then
    psResult c St.ok (chMod c (fun x =>
      { x with state := .ramping, start := (Lev.steady none).ramp (some 0) (rampSamples (fs s) (spt s) 100),
               conceal := Conceal.reset, pilot := Config.pilotPhase s.time.refTime c.val % fs s }) s)
  else s

/-- Begin the start of a channel (R346): its converter starts; the start gain stands at mute, and the mute gain, but in a retry
(R357), at 0 dB. -/
def startCh (c : Fin 8) (retry : Bool) (s : State) : State :=
  let s1 := chMod c (fun x =>
    { x with state := .starting, start := Lev.steady none, mute := if retry then x.mute else Lev.steady (some 0),
             fault := if retry then x.fault else 0, retry := retry, retryDue := false,
             retryWait := false, pause := .none, hw := none, startAt := s.time.refTime }) s
  groupMod (groupOf c) (fun g => { g with on := true }) (unfenceCh c s1)

/-- Retries that are due begin (R357). -/
def startRetries (s : State) : State :=
  (fins 8).foldl (fun s c => if s.ps.ch[c].retryDue && decide (s.ps.ch[c].state = .fault) then startCh c true s else s) s

/-- The budget ramps set since the last boundary begin (R54, R351), from the present levels. -/
def budgetsBegin (s : State) (c : Fin 8) : State :=
  chMod c (fun x => match x.aimed with | some r => { x with budget := x.budget.ramp r.1 r.2, aimed := none } | none => x) s

/-- The power stage at a boundary, after its actions and the delivery of the tick. -/
def psBoundary (m : TickIn) (s : State) : State :=
  let s1 := railStep m.rail1.toNat (railStep m.rail0.toNat (startRetries ((fins 8).foldl budgetsBegin s)) 0) 1
  psComplete ((fins 8).foldl releaseCh s1)

/-- A fault has fenced the channel (R356); one that waits for its supply (R345) is not fenced. -/
def PsCh.cut (x : PsCh) : Bool := (decide (x.state = .fault) && decide (x.pause = .none)) || decide (x.state = .latched)

/-- The tick that sense source i hands over (R337): that of a fenced channel reads zero, flagged invalid. -/
def senseBlk (m : TickIn) (s : State) (i : Nat) : Blk :=
  let c : Fin 8 := ⟨i % 8, Nat.mod_lt _ (by decide)⟩
  if s.ps.ch[c].cut then zeroBlk s false
  else { samples := (List.range (spt s)).map fun k => m.sense.getD (i * spt s + k) 0, valid := true, ramp := false }

/-- v × i of one sample divided by the square of the budget gain (R350), in 4,096 W / 2^62. -/
def rawProduct (v i gain : Int) : Int := if gain = 0 then Config.powerAtMute (v * i) else v * i * 2 ^ 54 / (gain * gain)

/-- One sample of voltage and current, n samples into the demodulation at a frequency (R354). -/
def PsDemod.add (d : PsDemod) (rate hz : Nat) (v i : Int) : PsDemod :=
  let p := d.n * hz % rate * 2 ^ 32 / rate
  let co := sineSample (p + 2 ^ 30)
  let si := sineSample p
  { vRe := d.vRe + v * co, vIm := d.vIm - v * si, iRe := d.iRe + i * co, iIm := d.iIm - i * si, n := d.n + 1 }

/-- What a channel's sensed tick adds to its power (R350) and to its demodulation (R354). The tick played a boundary before the one
that has just ended. -/
def measureCh (m : TickIn) (s : State) (c : Fin 8) : State :=
  let v := (senseBlk m s c.val).samples
  let i := (senseBlk m s (8 + c.val)).samples
  chMod c (fun x =>
    let g := x.gains.getD 1 []
    { x with
      powers := (((List.range (spt s)).foldl (fun (a : Int) k =>
        a + rawProduct (v.getD k 0).toInt (i.getD k 0).toInt (g.getD k (2 ^ 27))) 0) :: x.powers).take (fs s / spt s),
      demod := if pilotHz s c = 0 then x.demod else
        (List.range (spt s)).foldl (fun d k => d.add (fs s) (pilotHz s c) (v.getD k 0).toInt (i.getD k 0).toInt) x.demod }) s

/-- The sense sources hand over their ticks (R337). -/
def psSense (m : TickIn) (s : State) : State :=
  (List.range 16).foldl (fun s i =>
    { s with router := { s.router with store := mapPut s.router.store (ep 8 i) (senseBlk m s i) } })
    ((fins 8).foldl (measureCh m) s)

/-- M_c in mW (R350): the mean over the last second; a mean below 0 counts as 0 (DEDUCED, log 159). -/
def rawPower (s : State) (x : PsCh) : Nat := (x.powers.foldl (· + ·) 0 * 4096000 / ((fs s * 2 ^ 62 : Nat) : Int)).toNat

/-! ### The modulator (R339) -/

/-- d_A = 0.5 + x · (VFS / 2) / V_rail in 2^−32, from x in Q1.31, VFS in V and the rail in 0.1 V; a free value at a rail of 0. -/
def dutyA (x : Int) (vfs rail : Nat) : Int :=
  if rail = 0 then Config.dutyNoRail x vfs else 2 ^ 31 + 10 * x * (vfs : Int) / (rail : Int)

/-- d_A lies outside 0.02–0.98. -/
def dutyOut (d : Int) : Bool := decide (100 * d < 2 * 2 ^ 32) || decide (98 * 2 ^ 32 < 100 * d)

/-- The duties of the two half-bridges: d_A clamped to 0.02–0.98, and d_B = 1 − d_A. -/
def duties (d : Int) : Int × Int :=
  let a := max (2 * 2 ^ 32 / 100) (min (98 * 2 ^ 32 / 100) d)
  (a, 2 ^ 32 - a)

/-- d_A of the switching cycles that began in the tick that ended, before the clamp: x from the interpolator, behind the hardware
mute ramp (R359), against the group's rail as last measured. -/
def tickDuties (s : State) (c : Fin 8) : List Int :=
  let x := s.ps.ch[c]
  let t0 := s.time.refTime - tickUnits s
  let n := s.time.refTime * fswKhz s * 1000 / refSecond - t0 * fswKhz s * 1000 / refSecond
  if x.drive = [] then []
  else (List.range n).map fun k =>
    let v := Config.interpolate x.drive k n
    let g := match x.hw with | some h => h.gainAt (fswKhz s) (t0 + k * tickUnits s / n) | none => 2 ^ 27
    dutyA (v * g / 2 ^ 27) x.vfs s.ps.group[groupOf c].actual

/-- The clamped cycles of the tick that ended are counted (R339). -/
def psClips (s : State) : State :=
  countSticky Reg.psClipCount Reg.psErrStat 0 Src.psClip 0
    ((fins 8).foldl (fun a c => a + ((tickDuties s c).filter dutyOut).length) 0) s

/-- 1 ms in the unit of refTime. -/
def psMs : Nat := refSecond / 1000

/-- CONVERTER_STOP (R347): the channels of the group have been off for 50 ms. -/
def execConverterStop (group : Fin 2) (s : State) : Host.Outcome State Fault Refusal :=
  if ((groupChs group).all fun c => s.ps.ch[c].off) ∧ mayHavePassed s s.ps.group[group].onAt (50 * psMs) = true then
    .next (groupMod group (fun g => { g with on := false, ready := false, up := false, target := 0 }) s)
  else .next s

/-- DIRECT_TRACKING_RESUME (R33): 50 ms after the last direct-path channel of the group. -/
def execDirectTrackingResume (group : Fin 2) (s : State) : Host.Outcome State Fault Refusal :=
  if directFed s group ∨ mayHavePassed s s.ps.group[group].directAt (50 * psMs) = false then .next s else .next (groupMod group (fun g => { g with direct := false }) s)

/-- A PS_START waits for the channel. -/
def startAwaited (s : State) (c : Fin 8) : Bool := s.ps.waits.any fun w => w.results.any fun r => decide (r.1 = c) && r.2.isNone

/-- PS_START_TIMEOUT (R346), 20 ms after the start; a channel that has gone to FAULT since its start is no exception (DEDUCED, log 162). -/
def execPsStartTimeout (ch : Fin 8) (s : State) : Host.Outcome State Fault Refusal :=
  if (s.ps.ch[ch].state = .starting ∨ (s.ps.ch[ch].state = .fault ∧ startAwaited s ch = true)) ∧
      mayHavePassed s s.ps.ch[ch].startAt (20 * psMs) = true then
    fin (psComplete (psResult ch St.timeout (chMod ch (fun x =>
      { x with state := .stopped, retry := false, retryDue := false, retryWait := false, pause := .none }) s)))
  else .next s

/-! ### Commands (R341, R346–R348, R351, R352, R360–R362) -/

/-- PS_START (R346). -/
def execPsStart (h : CmdHdr) (tick : BitVec 64) (mask : Byte) (s : State) : Host.Outcome State Fault Refusal :=
  fin (timedCmd h tick (decide (mask = 0)) noRefusal noPre (.psStart mask.toNat) s)

/-- PS_STOP (R347, R361). -/
def execPsStop (h : CmdHdr) (tick : BitVec 64) (mask : Byte) (rampMs : BitVec 16) (s : State) : Host.Outcome State Fault Refusal :=
  let ms := if rampMs.toNat = 0xFFFF then 10 else rampMs.toNat
  fin (timedCmd h tick (decide (mask = 0) || decide (1000 < ms)) noRefusal noPre (.psStop mask.toNat ms) s)

/-- PS_START on one channel (R348): its status if it does not start. -/
def startOne (s : State) (c : Fin 8) : Option Nat :=
  match s.ps.ch[c].state with
  | .stopped => if s.ps.sustained = 0 then some 0x44 else none
  | .latched => some 0x41
  | _ => some 0x40

/-- PS_START at its boundary (R346, R348), which takes up VFS_V (R363): the channels that a later command for the tick has won count as OK (R20). -/
def applyPsStart (t : Ticket) (mask : Nat) (skip : Fin 8 → Bool) (s : State) : State :=
  let chs := maskUnits 8 mask
  let res := chs.map fun c => (c, if skip c then some St.ok else startOne s c)
  let s1 := (res.filter fun r => r.2.isNone).foldl (fun s r =>
    startCh r.1 false (chMod r.1 (fun x => { x with vfs := vfsOf s r.1 }) s)) s
  psMod (fun p => { p with waits := p.waits ++ [{ ticket := t, tick := now s1, results := res }] }) s1

/-- PS_STOP on one channel (R347, R348): the status and the effect; a PS_START that waits for the channel ends with ABORTED, in FAULT
too (DEDUCED, log 162). -/
def stopOne (ms : Nat) (c : Fin 8) (s : State) : Nat × State :=
  let n := rampSamples (fs s) (spt s) ms
  let x := s.ps.ch[c]
  match x.state with
  | .stopped | .latched => (0x40, s)
  | .starting => (St.ok, psResult c St.aborted (chMod c (fun x => { x with state := .stopped, retry := false }) s))
  | .fault => (St.ok, psResult c St.aborted <| chMod c (fun x => { x with state := .stopped, retry := false, retryDue := false, retryWait := false, pause := .none }) s)
  | _ =>
    (St.ok, chMod c (fun x =>
      { x with state := if n = 0 then .stopped else .stopping, start := x.start.freeze, mute := x.mute.ramp none n, retry := false }) s)

/-- PS_STOP at its boundary: the first status that is not OK, and the channels that act (R360). -/
def applyPsStop (mask ms : Nat) (skip : Fin 8 → Bool) (s : State) : Nat × State :=
  ((maskUnits 8 mask).filter fun c => !skip c).foldl (fun a c =>
    let r := stopOne ms c a.2
    (if a.1 = St.ok then r.1 else a.1, r.2)) (St.ok, s)

/-- PS_BUDGET (R351, R361). -/
def execPsBudget (h : CmdHdr) (a : PsBudgetArgs) (s : State) : Host.Outcome State Fault Refusal :=
  let at_ := if a.attack.toNat = 0xFFFF then 20 else a.attack.toNat
  let rl := if a.release.toNat = 0xFFFF then 500 else a.release.toNat
  let bad : Bool := decide (7 < a.ch.toNat) || decide (1250 < a.watts.toNat) || decide (at_ = 0) || decide (1000 < at_) ||
    decide (rl < 10) || decide (10000 < rl)
  fin (timedCmd h a.tick bad noRefusal noPre (.psBudget ⟨a.ch.toNat % 8, Nat.mod_lt _ (by decide)⟩ a.watts.toNat at_ rl) s)

/-- PS_BUDGET at its boundary. -/
def applyPsBudget (c : Fin 8) (w at_ rl : Nat) (s : State) : State :=
  chMod c (fun x => { x with watts := w, attack := at_, release := rl }) s

/-- Enabled protected frequencies in kHz (R341). -/
def protectedFreqs (s : State) : List Nat :=
  (List.range 16).filterMap fun k => if regBit s (Reg.psPfreq k) 31 then some (regFld s (Reg.psPfreq k) 15 0) else none

/-- The smallest margin of a code in kHz (R341); 0xFFFF with no protected frequency. -/
def margin (s : State) (code : Nat) : Nat :=
  (protectedFreqs s).foldl (fun (a : Nat) (f : Nat) => (List.range 15).foldl (fun (a : Nat) (k : Nat) =>
    min a ((((k + 1) * (1920 + 8 * code) : Nat) : Int) - (f : Int)).natAbs) a) 0xFFFF

/-- PS_FREQ_SET (R341, R361). -/
def execPsFreqSet (h : CmdHdr) (a : PsFreqArgs) (s : State) : Host.Outcome State Fault Refusal :=
  let bad : Bool := decide (a.pref.toNat < a.min.toNat) || decide (a.max.toNat < a.pref.toNat) || decide (80 < a.max.toNat)
  fin (timedCmd h a.tick bad noRefusal noPre (.psFreq a.pref.toNat a.min.toNat a.max.toNat) s)

/-- The codes MIN..MAX by their distance from PREF, ties to the lower. -/
def codeOrder (pref lo hi : Nat) : List Nat :=
  (List.range 81).flatMap fun d =>
    (if d ≤ pref ∧ lo ≤ pref - d then [pref - d] else []) ++ (if d ≠ 0 ∧ pref + d ≤ hi then [pref + d] else [])

/-- PS_FREQ_SET at its boundary (R341, R342): status, completion field and effect. -/
def applyPsFreq (pref lo hi : Nat) (s : State) : Nat × Nat × State :=
  let pick := (codeOrder pref lo hi).find? fun k => decide (20 ≤ margin s k)
  let code := pick.getD s.ps.code
  (if pick.isSome then St.ok else 0x42, code + margin s code * 65536, psMod (fun p => { p with code := code }) s)

/-- PS_FSW_STAT (R363). -/
def psFswStat (s : State) : Word :=
  let m := margin s s.ps.code
  BitVec.ofNat 32 (s.ps.code + bitAt (decide (m < 20)) 7 + m * 65536)

/-- PS_MODEL (R352): bind or unbind at acceptance. -/
def execPsModel (h : CmdHdr) (a : PsModelArgs) (s : State) : Host.Outcome State Fault Refusal :=
  let look (s : State) : Nat := ceilDiv (fs s) (2000 * spt s)
  let bad : Bool := decide (7 < a.ch.toNat) || (decide (15 < a.tile.toNat) && decide (a.tile.toNat ≠ 0xFF)) ||
    (decide (a.lookahead.toNat ≠ 0) && decide (a.lookahead.toNat ≠ look s)) || decide (a.waddr.toNat % 8 ≠ 0)
  fin (untimedCmd h bad (fun t s =>
    let c : Fin 8 := ⟨a.ch.toNat % 8, Nat.mod_lt _ (by decide)⟩
    if a.tile.toNat = 0xFF then
      complete t St.ok 0 { (chMod c (fun x => { x with lookahead := 0 }) s) with limits := vset s.limits c none }
    else
      let n : Fin 16 := ⟨a.tile.toNat % 16, Nat.mod_lt _ (by decide)⟩
      let ws := (List.range 8).map fun i => a.waddr.toNat + i
      let free : State := { s with limits := vset s.limits c none }
      if !(ws.all s.tiles[n].isParam) || (ws.any fun w => s.tiles[n].rampBound (spt s) none w || limitBound free n w) ||
          fenced s (.tile n) then complete t 0x43 0 s
      else
        complete t St.ok 0
          { (chMod c (fun x => { x with lookahead := a.lookahead.toNat }) s) with
              limits := vset s.limits c (some { tile := n, waddr := a.waddr.toNat }) }) s)

/-- floor(num / den × 2^31), saturated to 32 bits (R352). -/
def scaled31 (num : Int) (den : Nat) : Word := (sat32 (num * 2 ^ 31 / (den : Int))).1

/-- The eight limit words of a channel (R352). -/
def limitWords (s : State) (c : Fin 8) : List Word :=
  let x := s.ps.ch[c]
  let lim := regGet s (Reg.psChLim c)
  [scaled31 (fld lim 19 8) 6400, scaled31 x.re 64000, scaled31 x.tvc 5120, scaled31 (fld lim 31 24) 512, scaled31 x.vfs 128,
   scaled31 (ilimOf s c) 64, if x.state = .ramping ∨ x.state = .running then 0xFFFFFFFF else 0,
   rampWord false false x.budget.now]

/-- Write the limit words of every bound channel at a boundary (R352, R353): not while the tile is fenced. -/
def writeLimits (s : State) : State :=
  (fins 8).foldl (fun s c =>
    match s.limits[c] with
    | some b => if fenced s (.tile b.tile) then s
      else ((limitWords s c).mapIdx fun i w => (b.waddr + i, w)).foldl (fun s e => writeWord b.tile e.1 e.2 s) s
    | none => s) s

/-- PS_QUERY (R362). -/
def execPsQuery (h : CmdHdr) (ch : Byte) (resultAddr : BitVec 64) (s : State) : Host.Outcome State Fault Refusal :=
  fin (untimedCmd h (decide (7 < ch.toNat) || !aligned8 resultAddr) (fun t s =>
    psMod (fun p => { p with queries := p.queries ++ [(t, ⟨ch.toNat % 8, Nat.mod_lt _ (by decide)⟩, resultAddr)] }) s) s)

/-- Recoveries of a channel in the last 60 s (R362). -/
def psRecoveries (s : State) (c : Fin 8) : Nat :=
  psSources.foldl (fun a src => a + ((sumpInst s src c).window.filter fun t => s.time.refTime < t + 60 * refSecond).length) 0

/-- The code of a channel state (R363). -/
def PsRun.code : PsRun → Nat
  | .stopped => 0 | .starting => 1 | .ramping => 2 | .running => 3 | .stopping => 4 | .fault => 5 | .latched => 6

/-- A level in PS_QUERY (R362). -/
def levelWord (l : Lev) : Nat := match l.now with | none => 0x80000000 | some x => unsign 32 x

/-- A rail in 0.1 V. -/
def deciVolts (x : Nat) : Nat := 10 * x / volt

/-- The 64 bytes of PS_QUERY (R362). -/
def psBytes (s : State) (c : Fin 8) : List Byte :=
  let x := s.ps.ch[c]
  let g := s.ps.group[groupOf c]
  leBytes 1 x.state.code ++ leBytes 1 x.fault ++ leBytes 1 (min 255 (psRecoveries s c)) ++
    leBytes 1 (bitAt s.limits[c].isSome 0 + bitAt x.openLoad 1 + bitAt x.vcTemp 2) ++ leBytes 2 (deciVolts g.target) ++
    leBytes 2 g.actual ++ leBytes 4 x.raw ++ leBytes 4 x.allowed ++ leBytes 4 (levelWord x.start) ++
    leBytes 4 (levelWord x.budget) ++ leBytes 4 (levelWord x.mute) ++ leBytes 2 x.re ++ leBytes 2 (unsign 16 x.tvc) ++
    leBytes 4 (regGet s (Reg.psChIlimCount c)).toNat ++ leBytes 4 x.invalid ++ leBytes 8 x.faultTick ++ leBytes 1 x.lookahead ++
    leBytes 15 0

/-- Answer the PS_QUERYs at a boundary. -/
def runPsQueries (s : State) : State :=
  s.ps.queries.foldl (fun s q => resultThen q.1 q.2.2.toNat (psBytes s q.2.1) St.ok s) (psMod (fun p => { p with queries := [] }) s)

/-! ### Available power and budgets (R349–R351) -/

/-- W × k_T × k_V × k_A to the nearest watt, k_V as a fraction (R349). -/
def availWatts (s : State) (w t kvNum kvDen : Nat) : Nat :=
  (roundDiv ((w * (min 550 (1250 - t)) * kvNum * s.wear.ka : Nat) : Int) (550 * kvDen * 64)).toNat

/-- S and P from the measured supply (R349). -/
def availPower (s : State) (m : PowerMeasure) : Nat × Nat :=
  let t := (max 0 (signed 16 m.tcase.toNat)).toNat
  (availWatts s 1600 t 1 1, availWatts s 2400 t (min 4400 m.pvin.toNat) 4400)

/-- λ of R350 as a fraction: the channels (M, B) in mW whose raw power lies below their share keep it. -/
def shareLambda (total : Nat) (l : List (Nat × Nat)) : Nat → Nat × Nat → Nat × Nat
  | 0, x => x
  | k + 1, x =>
    let low := l.filter fun c => decide (c.1 * x.2 ≤ c.2 * x.1)
    let high := l.filter fun c => !decide (c.1 * x.2 ≤ c.2 * x.1)
    let den := high.foldl (fun a c => a + c.2) 0
    if den = 0 then x
    else
      let y := (total - low.foldl (fun a c => a + c.1) 0, den)
      if y = x then x else shareLambda total l k y

/-- A_c of each sharing channel (M, B) in mW (R350). -/
def shares (total : Nat) (l : List (Nat × Nat)) : List Nat :=
  if l.foldl (fun a c => a + min c.1 c.2) 0 ≤ total then l.map (·.2)
  else
    let lam := shareLambda total l 9 (0, 1)
    l.map fun c => c.2 * lam.1 / max lam.2 1

/-- The greatest level t ≤ 0 in 1/256 dB with 10^(t/2560) ≤ a/m, found by bisection (R350). -/
def powerLevel (a m : Nat) : Nat → Int → Int → Int
  | 0, lo, _ => lo
  | k + 1, lo, hi =>
    let mid := (lo + hi + 1) / 2
    if expLevel 120 (512 * mid) * (m : Int) ≤ (a : Int) * 2 ^ 120 then powerLevel a m k mid hi else powerLevel a m k lo (mid - 1)

/-- The budget target in 1/256 dB; none is mute (R350), lowered by 3 dB for each step of a sag (R344). -/
def budgetTarget (a m sag : Nat) : Option Int :=
  let t : Option Int := if a = 0 then none else if m ≤ a then some 0 else some (powerLevel a m 16 (-30720) 0)
  t.map fun x => max (-30720) (x - 768 * sag)

/-- Move a channel's budget gain toward its target (R351): a new ramp only when the target has moved by more than 0.1 dB. It begins
at the next boundary (R54). -/
def budgetRamp (c : Fin 8) (t : Option Int) (s : State) : State :=
  chMod c (fun x =>
    let goal := t.map (256 * ·)
    let moved : Bool := match (match x.aimed with | some r => r.1 | none => x.budget.aim), goal with
      | some a, some b => decide (655360 < 100 * (a - b).natAbs)
      | none, none => false
      | _, _ => true
    if !moved then x
    else
      let below : Bool := match goal, x.budget.now with
        | none, _ => true
        | some _, none => false
        | some g, some l => decide (g < l)
      { x with aimed := some (goal, rampSamples (fs s) (spt s) (if below then x.attack else x.release)) }) s

/-- A group's rail holds again: it does not lie more than 4 V below R_K (R344). -/
def railHolds (g : PsGroup) : Bool := decide (10 * g.target ≤ (g.actual + 40) * volt)

/-- The PVIN power limits of the two converters in mW (R344): together P / 0.9, in proportion to the allowed powers of their
channels. -/
def railLimits (s : State) (allowed : Fin 2 → Nat) (g : Fin 2) : Nat :=
  let all := 1000 * s.ps.peak * 10 / 9
  let sum := allowed 0 + allowed 1
  if sum = 0 then (if g = 0 then Config.idleShare all % (all + 1) else all - Config.idleShare all % (all + 1))
  else all * allowed g / sum

/-- Share the power and set the budget targets and the PVIN limits. -/
def allocate (s : State) : State :=
  let take := (fins 8).filter fun c => decide (s.ps.ch[c].state = .running) || decide (s.ps.ch[c].state = .ramping)
  let a := shares (1000 * s.ps.sustained) (take.map fun c => (s.ps.ch[c].raw, 1000 * s.ps.ch[c].watts))
  let sum (g : Fin 2) : Nat := ((take.zip a).filter fun z => decide (groupOf z.1 = g)).foldl (fun b z => b + z.2) 0
  let s1 := psMod (fun p =>
    { p with ch := vmap (fun (x : PsCh) => { x with allowed := 0 }) p.ch,
             group := vmapIdx (fun g (x : PsGroup) =>
               { x with sag := if railHolds x then 0 else x.sag, limit := railLimits s sum g }) p.group }) s
  (take.zip a).foldl (fun s z =>
    let x : PsCh := s.ps.ch[z.1]
    budgetRamp z.1 (budgetTarget z.2 x.raw (if x.state = .running then s.ps.group[groupOf z.1].sag else 0))
      (chMod z.1 (fun x => { x with allowed := z.2 }) s)) s1

/-- POWER_ALLOCATE (R349–R351): every millisecond. -/
def execPowerAllocate (m : PowerMeasure) (s : State) : Host.Outcome State Fault Refusal :=
  let a := availPower s m
  .next (allocate (psMod (fun p =>
    { p with pvin := m.pvin, tcase := m.tcase, sustained := a.1, peak := a.2,
             ch := vmap (fun (x : PsCh) => { x with raw := rawPower s x }) p.ch }) s))

/-- The real part of the ratio of the demodulated voltage and current in mΩ (R354), whose unit is 128 V / 32 A; none where it has no
value of 16 bits. -/
def PsDemod.ratio (d : PsDemod) : Option Nat :=
  let den := d.iRe * d.iRe + d.iIm * d.iIm
  let r := roundDiv (4000 * (d.vRe * d.iRe + d.vIm * d.iIm)) den.toNat
  if den = 0 ∨ r < 0 ∨ 65535 < r then none else some r.toNat

/-- RE_EST in mΩ (R338, R354): the estimate, held within ±1 % of the ratio; where there is no ratio, the estimate alone
(DEDUCED, log 160). -/
def PsDemod.ohms (d : PsDemod) (re : BitVec 16) : BitVec 16 :=
  match d.ratio with
  | some r => BitVec.ofNat 16 (min 65535 (max (ceilDiv (99 * r) 100) (min (101 * r / 100) re.toNat)))
  | none => re

/-- The demodulated pilot current, 2/n of the sum, lies below a / b of so many µA. -/
def PsDemod.below (d : PsDemod) (a b microAmps : Nat) : Bool :=
  decide ((d.iRe * d.iRe + d.iIm * d.iIm).toNat * (64000000 * b) ^ 2 < (a * microAmps * d.n * 2 ^ 62) ^ 2)

/-- The pilot current lies below PILOT_MV / 200 Ω, mv × 50 µA (R354): its estimate where that lies within 1 % of the demodulated
current, else the demodulated current itself (DEDUCED, log 160). -/
def PsDemod.weakAt (d : PsDemod) (mv microAmps : Nat) : Bool :=
  if d.below 100 99 microAmps && !d.below 100 101 microAmps then decide (microAmps < 50 * mv) else d.below 1 1 (50 * mv)

/-- TVC in 0.1 °C from RE_EST, rounded down (R354); RE_REF = 0 leaves it. -/
def coilTemp (s : State) (c : Fin 8) (re : Nat) : Int :=
  let th := regGet s (Reg.psChTherm c)
  let ref := fld th 15 0
  let al : Nat := if regBit s (Reg.psChCfg c) 11 then 403 else 393
  if ref = 0 then s.ps.ch[c].tvc else 10 * signed 8 (fld th 23 16) + ((re : Int) - ref) * 1000000 / ((ref * al : Nat) : Int)

/-- PILOT_ESTIMATE (R338, R354): RE_EST and the coil temperature from what has been demodulated since the last estimate. -/
def execPilotEstimate (ch : Fin 8) (re : BitVec 16) (microAmps : Nat) (s : State) : Host.Outcome State Fault Refusal :=
  let d := s.ps.ch[ch].demod
  if pilotOf s ch = 0 ∨ s.ps.ch[ch].playing = false ∨ d.n = 0 then .next (chMod ch (fun x => { x with demod := PsDemod.reset }) s)
  else
    let est := (d.ohms re).toNat
    let tvc := coilTemp s ch est
    let weak := if d.weakAt (pilotMv s ch) microAmps then s.ps.ch[ch].weak + 1 else 0
    let hot : Bool := decide (regFld s (Reg.psChTherm ch) 15 0 ≠ 0) && decide (10 * (regFld s (Reg.psChLim ch) 31 24 : Int) ≤ tvc)
    let opened : Bool := decide (3 ≤ weak)
    let s1 := chMod ch (fun x =>
      { x with re := est, tvc := tvc, weak := weak, openLoad := opened, vcTemp := hot, demod := PsDemod.reset }) s
    let s2 := if hot then raise Src.psVcTemp ch 0 (sticky Reg.psErrStat 6 s1) else s1
    fin (if opened then raise Src.psOpenLoad ch 0 (sticky Reg.psErrStat 5 s2) else s2)

/-! ### Protection (R355–R358, R345) -/

/-- ILIM_TRIP (R355). -/
def execIlimTrip (ch : Fin 8) (s : State) : Host.Outcome State Fault Refusal :=
  if s.ps.ch[ch].playing then .next (bump (Reg.psChIlimCount ch) 1 s) else .next s

/-- Fence a channel (R356): both half-bridges off, the fault recorded and raised; it is LATCHED when the Sump latches it. -/
def faultCh (ch : Fin 8) (code src bit : Nat) (s : State) : State :=
  let s1 := chMod ch (fun x =>
    { x with state := .fault, fault := code, faultTick := now s, hw := none, retry := false, retryDue := false,
             retryWait := false, pause := .none, start := x.start.freeze }) s
  let s2 := raise src ch code (sticky Reg.psErrStat bit s1)
  if (sumpInst s2 src ch).state = .latched then chMod ch (fun x => { x with state := .latched }) s2 else s2

/-- FAULT code of a short (R363). -/
def shortCode : ShortClass → Nat
  | .load => 1 | .gnd => 2 | .rail => 3

/-- SHORT_CIRCUIT (R356). -/
def execShortCircuit (ch : Fin 8) (cls : ShortClass) (s : State) : Host.Outcome State Fault Refusal :=
  if s.ps.ch[ch].playing then fin (faultCh ch (shortCode cls) Src.psShort 8 s) else .next s

/-- PS_DC (R358). -/
def execPsDc (ch : Fin 8) (s : State) : Host.Outcome State Fault Refusal :=
  if s.ps.ch[ch].playing then fin (faultCh ch 4 Src.psDc 9 s) else .next s

/-- PS_DIE_TEMP (R358): a channel that is off stays in its state (DESIGN CHOICE, log 163), and the fault is raised all the same. -/
def execPsDieTemp (ch : Fin 8) (s : State) : Host.Outcome State Fault Refusal :=
  fin (chMod ch (fun x => { x with hot := true })
    (if s.ps.ch[ch].off then raise Src.psDieTemp ch 5 (sticky Reg.psErrStat 7 s) else faultCh ch 5 Src.psDieTemp 7 s))

/-- The fault source of a FAULT code. -/
def faultSource (code : Nat) : Nat := if code = 4 then Src.psDc else if code = 5 then Src.psDieTemp else Src.psShort

/-- PS_RETRY (R357): after the quiet period the channel retries at the next boundary; a hot junction holds the retry of a DIE_TEMP
fault (R358). -/
def execPsRetry (ch : Fin 8) (s : State) : Host.Outcome State Fault Refusal :=
  let x := s.ps.ch[ch]
  if x.state = .fault ∧ x.pause = .none ∧ (sumpInst s (faultSource x.fault) ch).state ≠ .active then
    .next (chMod ch (fun x => if x.hot = true ∧ x.fault = 5 then { x with retryWait := true } else { x with retryDue := true }) s)
  else .next s

/-- DIE_TEMP_RECOVER (R358). -/
def execDieTempRecover (ch : Fin 8) (s : State) : Host.Outcome State Fault Refusal :=
  .next (chMod ch (fun x => { x with hot := false, retryDue := x.retryDue || x.retryWait, retryWait := false }) s)

/-- PS_RAIL_OV (R345, R358). -/
def execPsRailOv (group : Fin 2) (s : State) : Host.Outcome State Fault Refusal :=
  fin (raise Src.psRailOv group 0 (sticky Reg.psErrStat 3 ((groupChs group).foldl (muteCh .fault .railOv) s)))

/-- Channels in FAULT that wait for a supply restart by R346. -/
def restart (p : PsPause) (l : List (Fin 8)) (s : State) : State :=
  l.foldl (fun s c =>
    if s.ps.ch[c].state = .fault ∧ s.ps.ch[c].pause = p then startCh c false s else s) s

/-- CLAMP_IDLE_RESTART (R358). -/
def execClampIdleRestart (group : Fin 2) (s : State) : Host.Outcome State Fault Refusal :=
  fin (restart .railOv (groupChs group) s)

/-- PS_PVIN_LOW (R345). -/
def execPsPvinLow (s : State) : Host.Outcome State Fault Refusal :=
  let s1 := muteAll .fault .pvinLow s
  let s2 := psMod (fun p => { p with group := vmap (fun (g : PsGroup) => { g with on := false, ready := false, up := false, target := 0 }) p.group }) s1
  fin (raise Src.psPvinLow 0 0 (sticky Reg.psErrStat 2 s2))

/-- PVIN_RESTORED (R345). -/
def execPvinRestored (s : State) : Host.Outcome State Fault Refusal := fin (restart .pvinLow (fins 8) s)

/-- PS_RAIL_SAG (R344): the running channels' budget targets fall by a further 3 dB with the attack ramp. -/
def execPsRailSag (group : Fin 2) (s : State) : Host.Outcome State Fault Refusal :=
  if !s.ps.group[group].on then .next s
  else
    let s1 := raise Src.psRailSag group 0 (sticky Reg.psErrStat 4 (groupMod group (fun g => { g with sag := g.sag + 1 }) s))
    fin (((groupChs group).filter fun c => decide (s1.ps.ch[c].state = .running)).foldl (fun s c =>
      let x := s.ps.ch[c]
      budgetRamp c (budgetTarget x.allowed x.raw s.ps.group[group].sag) s) s1)

/-! ### Registers (R363) -/

def psSupply (s : State) : Word := BitVec.ofNat 32 (s.ps.pvin.toNat + s.ps.tcase.toNat * 65536)
def psAvail (s : State) : Word := BitVec.ofNat 32 (s.ps.sustained + s.ps.peak * 65536)

def psRail (s : State) (g : Fin 2) : Word :=
  let x := s.ps.group[g]
  BitVec.ofNat 32 (min 4095 (deciVolts x.target) + min 4095 x.actual * 65536 + bitAt x.on 28 + bitAt x.ready 29)

def psChStat (s : State) (c : Fin 8) : Word :=
  let x := s.ps.ch[c]
  let l : Nat := match x.budget.now with | none => 0x8000 | some v => unsign 16 (v / 256)
  BitVec.ofNat 32 (x.state.code + x.fault * 16 + bitAt s.limits[c].isSome 7 + min 255 (psRecoveries s c) * 256 + l * 65536)

def psChPower (s : State) (c : Fin 8) : Word :=
  BitVec.ofNat 32 (min 65535 (s.ps.ch[c].raw / 1000) + min 65535 (s.ps.ch[c].allowed / 1000) * 65536)

def psChRe (s : State) (c : Fin 8) : Word := BitVec.ofNat 32 (s.ps.ch[c].re % 65536 + unsign 16 s.ps.ch[c].tvc * 65536)

def psChBudget (s : State) (c : Fin 8) : Word := BitVec.ofNat 32 s.ps.ch[c].watts

end Sys2Proof.Machine
end

