-- ==== Sys2Proof/Machine/Sump.lean ====
section
/-!
DEFINITION. The Sump's own commands and its registers (R454–R464, R475): the quiet period, SUMP_QUERY, SUMP_CLEAR, standing
aside, and what SUMP_STAT and SUMP_SUM_s show.
-/
namespace Sys2Proof.Machine

/-- The instance of a source is held fenced and waits for the host's release (R458). -/
def heldForRelease (s : State) (src inst : Nat) : Bool :=
  match fenceUnit src inst with
  | some u => hostReleased u && fenced s u
  | none => false

/-- The sources whose unit retries, and whose health the unit itself confirms (R454): those of a power-stage channel. -/
def retries (src : Nat) : Bool := psSources.any (· = src)

/-- FAULT_QUIET_EXPIRY (R454): once the QUIET of the last raise (R456) has passed since it, ACTIVE goes to RECOVERING, and on to CLEAR at once unless the unit retries. -/
def execFaultQuietExpiry (source inst : Byte) (s : State) : Host.Outcome State Fault Refusal :=
  let src := source.toNat
  let n := inst.toNat
  let i := sumpInst s src n
  if i.state ≠ .active ∨ heldForRelease s src n ∨ !mayHavePassed s i.quietFrom i.quiet then .next s
  else
    let i1 := { i with state := .recovering, recoveries := satN 16 (i.recoveries + 1),
                       window := (s.time.refTime :: i.window).take 15, lastTick := now s, sev := severity s src }
    let s1 := faultEvent src n 2 (setInst src n i1 s)
    if retries src then .next s1
    else .next (faultEvent src n 3 (setInst src n { i1 with state := .clear } s1))

/-- The code of a state (R454). -/
def FaultState.code : FaultState → Nat
  | .clear => 0 | .active => 1 | .recovering => 2 | .latched => 3

/-- The record of an instance (R463). -/
def sumpRecord (s : State) (src n : Nat) : List Byte :=
  let i := sumpInst s src n
  let f := match fenceUnit src n with | some u => fenced s u | none => false
  leBytes 1 i.state.code ++ leBytes 1 (instSev s src n) ++ leBytes 1 (bitAt f 0 + bitAt (heldForRelease s src n) 1) ++
    leBytes 1 (inWindow s src n) ++ leBytes 2 i.recoveries ++ leBytes 2 i.raises ++ leBytes 8 i.lastTick

/-- SUMP_QUERY (R463). -/
def execSumpQuery (h : CmdHdr) (a : SumpQueryArgs) (s : State) : Host.Outcome State Fault Refusal :=
  let src := a.source.toNat
  let n := (sumpSource src).elim 0 fun x => x.instances
  let count := a.countM1.toNat + 1
  fin (untimedCmd h (decide (n < a.first.toNat + count) || !aligned8 a.resultAddr) (fun t s =>
    resultThen t a.resultAddr.toNat ((List.range count).flatMap fun k => sumpRecord s src (a.first.toNat + k)) St.ok s) s)

/-! ### SUMP_CLEAR (R455, R458, R463) -/

/-- Clear the latch of one instance: its window record is emptied; a power-stage channel is left STOPPED (R357). A HALT latch
is left as it is. -/
def clearLatch (src : Nat) (s : State) (n : Nat) : State :=
  let i := sumpInst s src n
  if i.state ≠ .latched ∨ i.sev = 6 then s
  else
    let s1 := faultEvent src n 5 (setInst src n { i with state := .clear, window := [], lastTick := now s, sev := 0 } s)
    match fenceUnit src n with
    | some (.channel c) =>
      unfenceCh c (chMod c (fun x => if x.state = .latched then { x with state := .stopped, retry := false, retryDue := false,
                                                                         retryWait := false, pause := .none } else x) s1)
    | _ => s1

/-- An instance that names a unit is LATCHED. -/
def unitLatched (s : State) (u : FenceUnit) : Bool :=
  s.sump.insts.any fun e => decide (e.2.state = .latched) && decide (fenceUnit (e.1 / 256) (e.1 % 256) = some u)

/-- QUIET of the ACTIVE instances that name a unit starts (R458). -/
def startQuiet (u : FenceUnit) (s : State) : State :=
  { s with sump := { s.sump with insts := s.sump.insts.map fun e =>
      if e.2.state = .active ∧ fenceUnit (e.1 / 256) (e.1 % 256) = some u then (e.1, { e.2 with quietFrom := s.time.refTime }) else e } }

/-- Lift the fence of a unit (R457, R458): a link goes DOWN and trains; every other unit resumes by its own rules. -/
def releaseUnit (src n : Nat) (u : FenceUnit) (s : State) : State :=
  let s1 := faultEvent src n 7 (startQuiet u
    { s with sump := { s.sump with fences := s.sump.fences.filter fun f => decide (f.1 ≠ u) } })
  match u with
  | .link l => startTraining l (linkDown l true true s1)
  | _ => s1

/-- Release the unit of one instance; the flag says that a latch refuses it (R458). -/
def releaseOne (src : Nat) (x : Bool × State) (n : Nat) : Bool × State :=
  match fenceUnit src n with
  | some u =>
    if !hostReleased u ∨ !fenced x.2 u ∨ ((sumpInst x.2 src n).state = .latched ∧ (sumpInst x.2 src n).sev = 6) then x
    else if unitLatched x.2 u then (true, x.2)
    else (x.1, releaseUnit src n u x.2)
  | none => x

/-- SUMP_CLEAR (R463). -/
def execSumpClear (h : CmdHdr) (a : SumpClearArgs) (s : State) : Host.Outcome State Fault Refusal :=
  let src := a.source.toNat
  let n := (sumpSource src).elim 0 fun x => x.instances
  let all := bitOf a.action.toNat 2
  let bad : Bool := decide (n = 0) || decide (a.action.toNat = 0) || decide (8 ≤ a.action.toNat) ||
    (!all && decide (n ≤ a.inst.toNat))
  fin (untimedCmd h bad (fun t s =>
    let names := if all then List.range n else [a.inst.toNat]
    let halted := names.any fun k => decide ((sumpInst s src k).state = .latched) && decide ((sumpInst s src k).sev = 6)
    let s1 := if bitOf a.action.toNat 0 then names.foldl (clearLatch src) s else s
    let r := if bitOf a.action.toNat 1 then names.foldl (releaseOne src) (false, s1) else (false, s1)
    complete t (if halted then St.protected_ else if r.1 then 0x40 else St.ok) 0 r.2) s)

/-! ### Standing aside and the pins (R459–R461) -/

/-- An instance is LATCHED at FAILOVER or HALT (R459, R460). -/
def failoverLatched (s : State) : Bool :=
  s.sump.halted || s.sump.insts.any fun e => decide (e.2.state = .latched) && decide (5 ≤ e.2.sev)

/-- Evaluate standing aside at a boundary (R459). -/
def standAside (s : State) : State := { s with sump := { s.sump with aside := failoverLatched s } }

/-- The severity of an instance that is not CLEAR, by its key. -/
def liveSeverity (s : State) (e : Nat × SumpInst) : Nat := if e.2.state = .clear then 0 else severity s (e.1 / 256)

/-- Is FAULT_N asserted (R461)? From the start of a reset until boot has loaded the Sump configuration, and while an instance
at or above FAULT_PIN_LEVEL is not CLEAR. -/
def faultPin (s : State) : Bool :=
  let l := min 6 (regFld s Reg.sumpCtrl 2 0)
  decide (s.power.stage ≠ .hostReady) || (decide (l ≠ 0) && s.sump.insts.any fun e => decide (l ≤ liveSeverity s e))

/-- The level of the FAULT_N pin (R461): low when asserted in native mode, high when asserted in forerunner mode. -/
def faultLevel (s : State) : Bool := if s.power.compat then faultPin s else !faultPin s

/-- SUMP_STAT (R475). -/
def sumpStat (s : State) : Word :=
  let latched := (s.sump.insts.filter fun e => decide (e.2.state = .latched)).length
  BitVec.ofNat 32 (bitAt (faultPin s) 0 + bitAt (s.sump.insts.any fun e => decide (3 ≤ liveSeverity s e)) 1 +
    bitAt (!s.sump.fences.isEmpty) 2 + bitAt s.sump.aside 3 + bitAt s.sump.halted 4 +
    (s.sump.insts.foldl (fun m e => max m (liveSeverity s e)) 0) * 256 + satN 16 latched * 65536)

/-- SUMP_SUM_s (R475). -/
def sumpSum (s : State) (src : Nat) : Word :=
  let l := s.sump.insts.filter fun e => decide (e.1 / 256 = src)
  let f := (List.range ((sumpSource src).elim 0 fun x => x.instances)).any fun n =>
    match fenceUnit src n with | some u => fenced s u && decide ((sumpInst s src n).state ≠ .clear) | none => false
  BitVec.ofNat 32 (satN 8 (l.filter fun e => decide (e.2.state ≠ .clear)).length +
    satN 8 (l.filter fun e => decide (e.2.state = .latched)).length * 256 + bitAt f 16)

/-- A severity in force has changed by a write (R456): the target request is re-evaluated against it. -/
def severityChanged (src old : Nat) (s : State) : State :=
  if old < severity s src ∧ (s.sump.insts.any fun e => decide (e.1 / 256 = src) && decide (e.2.state ≠ .clear)) then
    (fins 2).foldl (fun s (n : Fin 2) =>
      let l := min 6 (regFld s (Reg.mbCtrl n) 22 20)
      if l ≠ 0 ∧ old < l ∧ l ≤ severity s src then regSetFld (Reg.mbTgtReq n) 0 0 1 s else s) s
  else s

end Sys2Proof.Machine
end

