-- ==== Sys2Proof/Machine/Age.lean ====
section
/-!
DEFINITION. Ageing (R470–R474, R477): the monitors, the supply adjustment, proposals, AGE_DECIDE and the clock step.
-/
namespace Sys2Proof.Machine

def wearMod (f : Wear → Wear) (s : State) : State := { s with wear := f s.wear }

/-- The tick programs that are loaded, in either page of any tile, meet the deadline at a clock (R117, R473). -/
def programsMeet (s : State) (hz : Nat) : Bool :=
  let d := deadline (coreCycles s hz)
  s.tiles.toList.all fun t => t.pages.toList.all fun p =>
    match p with | some p => p.tickProg.isNone || decide (p.count ≤ d) | none => true

/-- A proposal of a kind (and target) is pending. -/
def proposalPending (s : State) (kind target : Nat) : Bool :=
  s.wear.proposals.any fun p => decide (p.kind = kind) && (decide (kind ≠ 1) || decide (p.target = target))

/-- Make a proposal and report it (R472); at most one per kind, and per link for LINK_REEQ. -/
def proposeAge (kind target value : Nat) (s : State) : State :=
  if proposalPending s kind target then s
  else
    let id := s.wear.nextId + 1
    report 0x0F30 kind (leBytes 2 id.toNat ++ leBytes 2 target ++ leBytes 2 value)
      (wearMod (fun w => { w with nextId := id, proposals := w.proposals ++
        [{ id := id, kind := kind, target := target, value := BitVec.ofNat 16 value }] }) s)

/-- Propose a clock step, or raise AGE_MARGIN_LOW while a loaded tick program would miss its deadline (R472). -/
def proposeStep (s : State) : State :=
  if s.wear.clockStep then s
  else if programsMeet s 1100000000 then proposeAge 4 0 1100 s
  else raise Src.ageMarginLow 0 0 s

/-- AGE_VDD_ADJUST (R470, R471): the worst replica margin; at most one step in 10 s, within ±50 mV. -/
def execAgeVddAdjust (worstPs : BitVec 16) (s : State) : Host.Outcome State Fault Refusal :=
  let m := worstPs.toNat
  let s1 := wearMod (fun w => { w with marginPs := m }) s
  let may : Bool := regBit s Reg.ageCtrl 0 &&
    (match s.wear.lastAdjust with | some t => decide (t + 10 * refSecond ≤ s.time.refTime) | none => true)
  let step (d : Int) : State := wearMod (fun w => { w with vddSteps := w.vddSteps + d, lastAdjust := some s.time.refTime }) s1
  if m < 40 then
    if 10 ≤ s.wear.vddSteps then fin (proposeStep (raise Src.ageVddLimit 0 0 s1))
    else if may then .next (step 1) else .next s1
  else if 80 < m ∧ may ∧ -10 < s.wear.vddSteps then .next (step (-1))
  else .next s1

/-- One surveyed eye (R470): its result is recorded, and a low eye proposes LINK_REEQ. -/
def surveyEye (s : State) (e : Fin 16 × Byte × Byte × BitVec 4 × BitVec 5) : State :=
  let s1 := wearMod (fun w => { w with eyes := vset w.eyes e.1 e.2.1 }) (setEye e.1 e.2.1 e.2.2.1 s)
  if e.2.1.toNat < 32 ∨ e.2.2.1.toNat < 12 then proposeAge 1 e.1.val (e.2.2.2.1.toNat + e.2.2.2.2.toNat * 256) s1 else s1

/-- The retention margin × 10 (R470): below 4, DRAM_REFRESH doubles, up to ×4. -/
def surveyRetention (r : BitVec 16) (s : State) : State :=
  let s1 := wearMod (fun w => { w with retention := r }) s
  if r.toNat < 40 ∧ s.wear.refresh.val < 2 then proposeAge 2 0 (if s.wear.refresh = 0 then 2 else 4) s1 else s1

/-- AGE_SURVEY (R470): the weekly evaluation of monitors 1 to 5. -/
def execAgeSurvey (r : SurveyResult) (s : State) : Host.Outcome State Fault Refusal :=
  let s1 := if regBit s Reg.ageCtrl 1 then
      (r.eyes.filter fun e => decide (s.links[e.1].state = .attached) || decide (s.links[e.1].state = .discovered)).foldl surveyEye s
    else s
  let s2 := match r.retention with
    | some m => if regBit s Reg.ageCtrl 2 then surveyRetention m s1 else s1
    | none => s1
  let s3 := wearMod (fun w => { w with ron := r.ron.foldl (fun v e => vset v e.1 e.2) w.ron,
                                       boost := r.boost.foldl (fun v e => vset v e.1 e.2) w.boost }) s2
  let worn : Bool := (r.ron.any fun e => decide (20 < e.2.toNat)) || (r.boost.any fun e => decide (25 < e.2.toNat))
  let s4 := if worn then proposeAge 3 0 (32 + r.derate.toNat % 32) s3 else s3
  fin (if 1000 < (signed 16 s.clock.ageing.toNat).natAbs then raise Src.ageMarginLow 4 0 s4 else s4)

/-- The plan of AGE_QUERY and AGE_PLAN (R474). -/
def planByte (s : State) : Nat := s.wear.refresh.val + bitAt s.wear.clockStep 2

/-- Bit k − 1: a proposal of kind k is pending. -/
def pendingKinds (s : State) : Nat := (List.range 4).foldl (fun a k => a + bitAt (s.wear.proposals.any fun p => decide (p.kind = k + 1)) k) 0

/-- The bytes of AGE_QUERY (R474). -/
def ageBytes (s : State) : List Byte :=
  let w := s.wear
  let recs := ((w.proposals.take 4).flatMap fun p => leBytes 2 p.id.toNat ++ leBytes 1 p.kind ++ leBytes 1 p.target ++ leBytes 2 p.value.toNat)
  leBytes 1 (unsign 8 w.vddSteps) ++ leBytes 1 (planByte s) ++ leBytes 1 w.ka ++ leBytes 1 (pendingKinds s) ++
    leBytes 2 w.marginPs ++ leBytes 2 w.retention.toNat ++ w.eyes.toList ++ w.ron.toList ++ w.boost.toList ++
    leBytes 2 s.clock.ageing.toNat ++ leBytes 4 w.days.toNat ++ (recs ++ List.replicate (24 - recs.length) 0)

/-- AGE_QUERY (R474). -/
def execAgeQuery (h : CmdHdr) (resultAddr : BitVec 64) (s : State) : Host.Outcome State Fault Refusal :=
  fin (untimedCmd h false (fun t s => resultThen t resultAddr.toNat (ageBytes s) St.ok s) s)

/-! ### AGE_DECIDE and the clock step (R473) -/

/-- The proposal an AGE_DECIDE names. -/
def namedProposal (s : State) (a : AgeDecideArgs) : Option Proposal := s.wear.proposals.find? fun p => p.id = a.id

/-- A kind stands in the applied plan. -/
def inPlan (s : State) (kind : Nat) : Bool :=
  match kind with
  | 1 => !s.wear.oldFir.isEmpty
  | 2 => decide (s.wear.refresh ≠ 0)
  | 3 => decide (s.wear.ka ≠ 64)
  | 4 => s.wear.clockStep
  | _ => false

/-- The command approves a clock step. -/
def approvesStep (s : State) (a : AgeDecideArgs) : Bool :=
  decide (a.action.toNat = 1) && (match namedProposal s a with | some p => decide (p.kind = 4) | none => false)

/-- Refusals at acceptance (R462, R473): no such proposal or plan item, or a clock step that would break a deadline. -/
def ageRefuse (a : AgeDecideArgs) (s : State) : Option (Nat × Nat) :=
  if a.action.toNat = 3 then (if inPlan s a.kind.toNat then none else some (0x41, 0))
  else match namedProposal s a with
    | none => some (0x41, 0)
    | some p => if p.kind = 4 ∧ a.action.toNat = 1 ∧ !programsMeet s 1100000000 then some (0x42, 0) else none

/-- The first boundary that lies at least 1 ms after the present tick. -/
def stepTick (s : State) : Nat := now s + ticksOfUs s 1000 + 1

/-- AGE_DECIDE (R473). A clock step is carried out no earlier than 1 ms after acceptance. KIND with approve or reject is ignored,
whatever it is (DESIGN CHOICE, log 139). -/
def execAgeDecide (h : CmdHdr) (a : AgeDecideArgs) (s : State) : Host.Outcome State Fault Refusal :=
  let bad : Bool := decide (a.action.toNat = 0) || decide (3 < a.action.toNat) ||
    (decide (a.action.toNat = 3) && (decide (a.kind.toNat = 0) || decide (4 < a.kind.toNat)))
  let step := approvesStep s a
  let early : Bool := step && decide (a.tick.toNat < stepTick s)
  let tick : BitVec 64 := if early then BitVec.ofNat 64 (stepTick s) else a.tick
  let s1 := timedCmd h tick bad (ageRefuse a) (fun n t s =>
    if approvesStep s a then wearMod (fun w => { w with step := some { ticket := t, at_ := n, onFab := false, revert := false } }) s
    else s) (.ageDecide a) s
  if early ∧ a.tick.toNat ≠ 0 then
    .next { s1 with timed := s1.timed.map fun x => if x.act = .ageDecide a ∧ x.tick = stepTick s then
      { x with ticket := { x.ticket with late := true } } else x }
  else .next s1

/-- The tiles switch to the FAB VCO ÷ 4, and the CORE PLL relocks at another frequency (R473). -/
def coreOff (s : State) : State :=
  clk (fun c => { c with plls := vmod c.plls 0 (fun p => { p with locked := false }), onFab := true }) s

/-- The first boundary after the acceptance of a clock step (R473): the tiles run from FAB ÷ 4, and the CORE PLL starts to
relock at 4.4 GHz. -/
def stepBegins (s : State) : State :=
  match s.wear.step with
  | some x =>
    if x.onFab then s
    else coreOff
      (wearMod (fun w => { w with step := some { x with onFab := true } }) s)
  | none => s

/-- Drop a proposal. -/
def dropProposal (id : BitVec 16) (s : State) : State :=
  wearMod (fun w => { w with proposals := w.proposals.filter fun p => decide (p.id ≠ id) }) s

/-- The CORE PLL has to relock at 4.8 GHz; the tiles stay on FAB ÷ 4. -/
def stepGivesUp (s : State) : State :=
  coreOff (wearMod (fun w => { w with step := none }) s)

/-- Set the transmit FIRs of links. -/
def setFirs (l : List (Nat × (BitVec 4 × BitVec 5))) (s : State) : State :=
  l.foldl (fun s e =>
    match toFin? 16 e.1 with
    | some n => linkMod n (fun l => { l with pre := e.2.1, post := e.2.2 }) s
    | none => s) s

/-- Boundary N of an approved proposal (R472, R473): its status and effect. -/
def applyApprove (t : Ticket) (p : Proposal) (s : State) : Nat × State :=
  let s1 := dropProposal p.id s
  match p.kind with
  | 1 =>
    let n : Fin 16 := ⟨p.target % 16, Nat.mod_lt _ (by decide)⟩
    let old := (s.links[n].pre, s.links[n].post)
    let pre := BitVec.ofNat 4 p.value.toNat
    let post := BitVec.ofNat 5 (p.value.toNat / 256)
    (okOf t, linkMod n (fun l => { l with pre := pre, post := post })
      (wearMod (fun w => { w with oldFir := if (mapGet w.oldFir n).isSome then w.oldFir else mapPut w.oldFir n old,
                                  newFir := mapPut w.newFir n (pre, post) }) s1))
  | 2 => (okOf t, wearMod (fun w => { w with refresh := if p.value = 2 then 1 else 2 }) s1)
  | 3 => (okOf t, wearMod (fun w => { w with ka := p.value.toNat }) s1)
  | _ =>
    if !s.clock.plls[(0 : Fin 6)].locked then (St.timeout, stepGivesUp s1)
    else if !programsMeet s 1100000000 then (0x42, raise Src.ageMarginLow 0 0 (stepGivesUp s1))
    else (okOf t, clk (fun c => { c with onFab := false }) (wearMod (fun w => { w with step := none, clockStep := true }) s1))

/-- Boundary N of a revert (R473): the kind leaves the plan, and its setting returns to the one before it. -/
def applyRevert (t : Ticket) (kind : Nat) (s : State) : Nat × State :=
  if !inPlan s kind then (0x41, s)
  else match kind with
    | 1 => (okOf t, wearMod (fun w => { w with oldFir := [], newFir := [] }) (setFirs s.wear.oldFir s))
    | 2 => (okOf t, wearMod (fun w => { w with refresh := 0 }) s)
    | 3 => (okOf t, wearMod (fun w => { w with ka := 64 }) s)
    | _ => (okOf t, coreOff
        (wearMod (fun w => { w with clockStep := false }) s))

/-- AGE_DECIDE at its boundary. -/
def applyAgeDecide (t : Ticket) (a : AgeDecideArgs) (s : State) : Nat × State :=
  if a.action.toNat = 3 then applyRevert t a.kind.toNat s
  else match namedProposal s a with
    | none => (0x41, s)
    | some p => if a.action.toNat = 2 then (okOf t, dropProposal p.id s) else applyApprove t p s

/-! ### Registers (R477) -/

def ageVdd (s : State) : Word := BitVec.ofNat 32 (unsign 8 s.wear.vddSteps + s.wear.marginPs % 65536 * 256)
def agePlan (s : State) : Word := BitVec.ofNat 32 (planByte s + s.wear.ka * 256)
def agePending (s : State) : Word :=
  BitVec.ofNat 32 (pendingKinds s + ((List.range 16).foldl (fun a n => a + bitAt (proposalPending s 1 n) n) 0) * 65536)

end Sys2Proof.Machine
end

