-- ==== Sys2Proof/Machine/Aoip.lean ====
section
/-!
DEFINITION. The AoIP engine (R284–R300): receive streams with their rings, transmit streams, the AM824 channel status and the
AoIP commands.
-/
namespace Sys2Proof.Machine

/-! ### Formats -/

/-- Bytes per sample of a FORMAT (R285). -/
def formatBytes : Nat → Nat
  | 0 => 2 | 1 => 3 | _ => 4

/-- Payload bytes of a packet (R286). -/
def payloadBytes (s : State) (format channels ptime : Nat) : Nat := channels * packetSamples s ptime * formatBytes format

/-- A received sample in Q1.31 with its AM824 label byte (R285, R295; PRESUMED, log 77). -/
def sampleIn (format : Nat) (b : List Byte) : Sample × Byte :=
  match format with
  | 0 => (BitVec.ofNat 32 (ofBe b * 65536), 0)
  | 1 => (BitVec.ofNat 32 (ofBe b * 256), 0)
  | _ => (BitVec.ofNat 32 (ofBe (b.drop 1) * 256), b.headD 0)

/-- V, C and the block-start flag of an AM824 label byte (PRESUMED, log 77). -/
def amV (l : Byte) : Bool := l.getLsbD 0
def amC (l : Byte) : Bool := l.getLsbD 2
def amB (l : Byte) : Bool := l.getLsbD 5

/-- A sent sample (R285): truncated, most significant byte first. -/
def sampleOut (format : Nat) (x : Sample) : List Byte :=
  match format with
  | 0 => (leBytes 2 (x.toNat / 65536)).reverse
  | _ => (leBytes 3 (x.toNat / 256)).reverse

/-- An AM824 subframe as sent (R295): V, U = 0, C and P (even parity over the data word and V, U, C, P), the frame-start flag on
the first subframe of a pair and the block-start flag. -/
def amOut (x : Sample) (v c first block : Bool) : List Byte :=
  let p := oddParity 24 (x.toNat / 256) != (v != c)
  let label := bitAt v 0 + bitAt c 2 + bitAt p 3 + bitAt first 4 + bitAt block 5
  leBytes 1 label ++ sampleOut 2 x

/-! ### Streams -/

/-- The smallest power of two at least n among 2^(20 − k) … 2^20. -/
def pow2Up (n : Nat) : Nat → Nat
  | 0 => 2 ^ 20
  | k + 1 => if n ≤ 2 ^ (20 - (k + 1)) then 2 ^ (20 - (k + 1)) else pow2Up n k

/-- R of a receive stream (R289). -/
def ringSize (s : State) (a : AoipRxArgs) : Nat :=
  pow2Up (a.linkOffset.toNat + 2 * packetSamples s a.ptime.toNat + 2 * spt s) 20

/-- Words of the receive store a stream holds (R289). -/
def rxWords (s : State) (a : AoipRxArgs) : Nat := a.channels.toNat * ringSize s a

/-- Channels of the AoIP maps (R284). -/
def aoipMap (s : State) : Nat := byBand s 2048 1024 512

/-- A multicast IPv4 address. -/
def multicast (ip : Word) : Bool := ip.toNat / 2 ^ 28 = 14

/-- The legs of a stream: (port, destination, UDP port) (R291, R292). -/
def rxLegs (a : AoipRxArgs) : List (Fin 4 × Word × BitVec 16) :=
  (a.portA.toFin, a.dstIp, a.udpPort) :: (if a.legB then [(a.portB.toFin, a.dstIpB, a.udpPortB)] else [])
def txPorts (a : AoipTxArgs) : List (Fin 4) := a.portA.toFin :: (if a.dup then [a.portB.toFin] else [])

/-- Enabled receive streams other than one. -/
def rxOthers (s : State) (n : Nat) : List AoipRx := (s.net.rx.filter fun e => decide (e.1 ≠ n) && e.2.on).map (·.2)

/-- Two ranges of channels overlap. -/
def overlaps (a n b m : Nat) : Bool := decide (a < b + m) && decide (b < a + n)

/-- A fresh stream. -/
def AoipRx.fresh (a : AoipRxArgs) : AoipRx :=
  { on := true, cfg := a, ring := [], packets := 0, lost := 0, late := 0, early := 0, dup := 0, marginMin := none, rtpLast := 0,
    lastSeq := none, gaps := [], conceal := List.replicate a.channels.toNat Conceal.reset, lastMissing := none, cs := [] }

/-- Change a receive stream. -/
def rxMod (n : Nat) (f : AoipRx → AoipRx) (s : State) : State := netMod (fun x => { x with rx := mapModify x.rx n f }) s

/-- IGMPv3 reports or leaves for the multicast legs of a stream (R291). -/
def igmpLegs (a : AoipRxArgs) (join : Bool) (s : State) : State :=
  (rxLegs a).foldl (fun s l => if multicast l.2.1 then launch l.1 (.igmp l.2.1 a.srcIp join) s else s) s

/-! ### Receiving a packet (R287–R292) -/

/-- The sample data of a packet (R285): its CSRC list and header extension are skipped. -/
def rtpData (p : RtpIn) : List Byte :=
  let b := p.payload.drop (4 * p.csrc.toNat)
  if p.ext then b.drop (4 + 4 * ofBe ((b.drop 2).take 2)) else b

/-- A packet belongs to a stream's leg (R291). -/
def rxMatches (a : AoipRxArgs) (port : Fin 4) (p : RtpIn) : Bool :=
  ((rxLegs a).any fun l => decide (l.1 = port) && decide (l.2.1 = p.dstIp) && decide (l.2.2 = p.udpPort)) &&
    (decide (a.srcIp = 0) || decide (a.srcIp = p.srcIp)) && (!a.ssrcMatch || decide (a.ssrc = p.ssrc)) &&
    (decide (a.pt = 0xFF) || decide (a.pt.toNat = p.pt.toNat))

/-- The enabled stream a packet belongs to. -/
def rxStreamOf (s : State) (port : Fin 4) (p : RtpIn) : Option (Nat × AoipRx) :=
  s.net.rx.find? fun e => e.2.on && rxMatches e.2.cfg port p

/-- The samples of a packet by sample position (R285): interleaved by channel. -/
def rtpSamples (a : AoipRxArgs) (ts : Nat) (payload : List Byte) : Nat → List RtpSample
  | 0 => []
  | k + 1 =>
    let w := formatBytes a.format.toNat
    let c := (List.range a.channels.toNat).map fun i => sampleIn a.format.toNat ((payload.drop (i * w)).take w)
    { ts := ts % 2 ^ 32, data := c.map (·.1), labels := c.map (·.2) } ::
      rtpSamples a (ts + 1) (payload.drop (a.channels.toNat * w)) k

/-- Sequence numbers (R288, R292): a packet that arrives fills its gap; a jump ahead opens one for every number skipped, which
counts as LOST when the boundary that would hand it over has come. -/
def trackSeq (x : AoipRx) (seq : BitVec 16) (boundary : Nat) : AoipRx :=
  let gaps := x.gaps.filter fun g => g.1 ≠ seq
  match x.lastSeq with
  | none => { x with lastSeq := some seq, gaps := gaps }
  | some l =>
    let d := (seq - l).toNat
    if d = 0 ∨ 32768 ≤ d then { x with gaps := gaps }
    else { x with lastSeq := some seq,
                  gaps := gaps ++ (List.range (d - 1)).map fun i => (l + BitVec.ofNat 16 (i + 1), boundary) }

/-- AOIP_PACKET_RECEIVED (R268, R285, R288–R292). A packet of another length than its stream's setting is discarded (DESIGN CHOICE, log 76). -/
def execAoipPacketReceived (port : Fin 4) (p : RtpIn) (s0 : State) : Host.Outcome State Fault Refusal :=
  let s := passBuffer port (p.payload.length + 58) s0
  match rxStreamOf s0 port p with
  | none => .next s0
  | some (n, x) =>
    let a := x.cfg
    let k := packetSamples s a.ptime.toNat
    let data := rtpData p
    if decide (s0.power.state ≠ .running) || !s0.net.eth[port].up || fenced s0 (.eth port) then .next s0
    else if bufferFull s0 port (p.payload.length + 58) then fin (rxDrop port s0)
    else if data.length ≠ payloadBytes s a.format.toNat a.channels.toNat a.ptime.toNat then .next s
    else
      let r := ringSize s a
      let here := spt s * now s
      let d := signed 32 (unsign 32 ((p.ts.toNat : Int) + a.linkOffset.toNat - here))
      let first : Int := here + d
      let boundary : Int := first / (spt s : Int)
      let spare : Int := (boundary - now s) * (spt s * 1000000000 : Nat) - (p.sinceNs + 2000 : Nat) * (fs s : Int)
      let y := trackSeq x p.seq boundary.toNat
      let put (z : AoipRx) (s : State) : State := rxMod n (fun _ => z) s
      if (mapGet x.ring (p.ts.toNat % r)).any fun e => e.ts = p.ts.toNat then
        .next (put { y with dup := satN 32 (y.dup + 1) } s)
      else if spare < 0 then fin (sticky Reg.aoipErrStat 0 (put { y with late := satN 32 (y.late + 1) } s))
      else if (here : Int) + r ≤ first + k - 1 then
        fin (sticky Reg.aoipErrStat 1 (put { y with early := satN 32 (y.early + 1) } s))
      else
        let ns := (spare / (fs s : Int)).toNat
        let ring := (rtpSamples a p.ts.toNat data k).foldl (fun m e => mapPut m (e.ts % r) e) y.ring
        .next (put { y with ring := ring, packets := satN 32 (y.packets + 1),
                            marginMin := some (match y.marginMin with | none => ns | some m => min m ns) } s)

/-! ### Handover at a boundary (R287, R293, R294) -/

/-- Channel status of a pair: one more C bit (R295). -/
def CsPair.next (c : CsPair) (block bit : Bool) : CsPair :=
  let bits := if block then some [bit] else c.bits.map fun l => l ++ [bit]
  match bits with
  | some l =>
    if l.length = 192 then
      { bits := none, block := (List.range 24).map fun i =>
          BitVec.ofNat 8 ((List.range 8).foldl (fun a j => a + bitAt (l.getD (8 * i + j) false) j) 0) }
    else { c with bits := some l }
  | none => c

/-- The pairs' channel status after one sample position; a missing sample breaks the blocks in progress. -/
def csStep (a : AoipRxArgs) (m : List (Nat × CsPair)) (e : Option RtpSample) : List (Nat × CsPair) :=
  if a.format ≠ 2 then m
  else match e with
    | none => m.map fun c => (c.1, { c.2 with bits := none })
    | some e => (List.range ((a.channels.toNat + 1) / 2)).foldl (fun m i =>
        let l := e.labels.getD (2 * i) 0
        mapPut m i (((mapGet m i).getD { bits := none, block := [] }).next (amB l) (amC l))) m

/-- One sample position of a stream: the channels' samples, whether each is good, and the stream after it. -/
def rxPosition (s : State) (n : Nat) (x : AoipRx) (pos : Nat) : List (Sample × Bool) × AoipRx :=
  let r := ringSize s x.cfg
  let ts := unsign 32 ((pos : Int) - x.cfg.linkOffset.toNat)
  let hold := rampSamples (fs s) (spt s) 1
  let e := (mapGet x.ring (ts % r)).filter fun e => e.ts = ts
  let v := x.conceal.mapIdx fun i c =>
    match e with
    | some d =>
      let y := d.data.getD i 0
      let t := c.take hold 1 n [y]
      (t.1.headD 0, !(x.cfg.format = 2 && x.cfg.vValid && amV (d.labels.getD i 0)), { t.2 with last := y })
    | none =>
      let t := c.lose hold 1 n
      (t.1.headD 0, false, t.2)
  (v.map fun z => (z.1, z.2.1),
    { x with conceal := v.map (·.2.2), rtpLast := ts, cs := csStep x.cfg x.cs e,
             lastMissing := x.lastMissing })

/-- The S positions of a tick. -/
def rxTick (s : State) (n : Nat) : Nat → Nat → AoipRx → List (List (Sample × Bool)) × Bool × AoipRx
  | 0, _, x => ([], false, x)
  | k + 1, pos, x =>
    let ts := unsign 32 ((pos : Int) - x.cfg.linkOffset.toNat)
    let miss : Bool := ((mapGet x.ring (ts % ringSize s x.cfg)).filter fun e => e.ts = ts).isNone
    let r := rxPosition s n x pos
    let q := rxTick s n k (pos + 1) r.2
    (r.1 :: q.1, miss || q.2.1, q.2.2)

/-- Gaps whose boundary has come count as LOST; ring samples far behind the position handed over are dropped. -/
def rxSettle (s : State) (x : AoipRx) : Nat × AoipRx :=
  let gone := x.gaps.filter fun g => g.2 ≤ now s
  let r := ringSize s x.cfg
  (gone.length, { x with lost := satN 32 (x.lost + gone.length), gaps := x.gaps.filter fun g => now s < g.2,
                         ring := x.ring.filter fun e => (x.rtpLast + 2 ^ 32 - e.2.ts) % 2 ^ 32 < r ∨
                           2 ^ 31 ≤ (x.rtpLast + 2 ^ 32 - e.2.ts) % 2 ^ 32 })

/-- One enabled receive stream at a boundary. -/
def runRx (s : State) (n : Nat) : State :=
  match mapGet s.net.rx n with
  | none => s
  | some x =>
    if !x.on then s
    else
      let r := rxTick s (rampSamples (fs s) (spt s) 1) (spt s) (spt s * now s) x
      let g := rxSettle s r.2.2
      let fresh : Bool := match x.lastMissing with | some t => decide (t + refSecond ≤ s.time.refTime) | none => true
      let y := if r.2.1 then { g.2 with lastMissing := some s.time.refTime } else g.2
      let s1 := rxMod n (fun _ => y) s
      let s2 := (List.range x.cfg.channels.toNat).foldl (fun s i =>
        let col := r.1.map fun l => l.getD i (0, false)
        putSource (ep 4 (x.cfg.firstCh.toNat + i)) { samples := col.map (·.1), valid := col.all (·.2), ramp := false } s) s1
      let s3 := if g.1 = 0 then s2 else sticky Reg.aoipErrStat 2 s2
      if r.2.1 && fresh then raise Src.aoipRxLoss n 0 s3 else s3

/-- The receive streams at a boundary: class 0x4 sources. -/
def runAoipRx (s : State) : State :=
  let keep := s.router.store.filter fun e => e.1 / 4096 ≠ 4
  (s.net.rx.map (·.1)).foldl runRx { s with router := { s.router with store := keep } }

/-! ### Transmitting (R295, R296) -/

/-- The bytes of one sample position of a packet. -/
def txPosition (x : AoipTx) (count : Nat) (l : List (Sample × Bool)) : List Byte :=
  let f := x.cfg.format.toNat
  (l.mapIdx fun i v =>
    if f = 2 then
      let raw := (mapGet x.cs (i / 2)).getD (List.replicate 24 0)
      let block := raw.take 23 ++ [aesCrc raw]
      amOut v.1 (!v.2) (blockBit block (count % 192)) (decide (i % 2 = 0)) (decide (count % 192 = 0))
    else sampleOut f v.1).flatten

/-- At a block start at a sample position, the channel status that waits for it takes over (R300). -/
def AoipTx.blockStart (pos : Nat) (x : AoipTx) : AoipTx :=
  { x with cs := (x.csNext.filter fun e => decide (e.2.1 ≤ pos)).foldl (fun m e => mapPut m e.1 e.2.2) x.cs,
           csNext := x.csNext.filter fun e => decide (pos < e.2.1) }

/-- The bytes of a packet's positions from a sample position on. -/
def txPayload (pos : Nat) : List (List (Sample × Bool)) → AoipTx → List Byte × AoipTx
  | [], x => ([], x)
  | l :: ls, x =>
    let y := if x.count % 192 = 0 then x.blockStart pos else x
    let b := txPosition y y.count l
    let r := txPayload (pos + 1) ls { y with count := y.count + 1 }
    (b ++ r.1, r.2)

/-- The addresses and header fields of a stream's packets on a leg (R297, R299): a DST_MAC of 0 is derived from the multicast
address. -/
def txHead (s : State) (a : AoipTxArgs) (legB : Bool) : RtpHead :=
  let p := if legB then a.portB.toFin else a.portA.toFin
  let ip := if legB then a.dstIpB else a.dstIp
  { dstMac := if a.dstMac = 0 then BitVec.ofNat 48 (0x01005E000000 + ip.toNat % 2 ^ 23) else a.dstMac,
    srcMac := BitVec.ofNat 48 (regFld s (Reg.ethMacHi p) 15 0 * 2 ^ 32 + (regGet s (Reg.ethMacLo p)).toNat),
    tag := if a.vlan.getLsbD 15 then some (BitVec.ofNat 15 a.vlan.toNat) else none, dstIp := ip, srcIp := regGet s (Reg.ethIpv4 p),
    ttl := a.ttl, dscp := a.dscp, udpPort := a.udpPort, pt := BitVec.ofNat 7 a.pt.toNat, ssrc := a.ssrc }

/-- One delivered sample position of a transmit stream (R296). -/
def txStep (n : Nat) (i : Nat) (s : State) : State :=
  match mapGet s.net.tx n with
  | none => s
  | some x =>
    let pos := spt s * now s + i
    let k := packetSamples s x.cfg.ptime.toNat
    let here := (List.range x.cfg.channels.toNat).map fun c =>
      let b := deliveredBlk s (ep 4 (x.cfg.firstCh.toNat + c))
      (b.samples.getD i 0, b.valid)
    let buf := if pos % k = 0 then some [here] else x.buf.map fun l => l ++ [here]
    match buf with
    | none => s
    | some l =>
      if l.length < k then txMod n (fun x => { x with buf := buf }) s
      else
        let r := txPayload (pos + 1 - k) l x
        let ts := unsign 32 ((pos : Int) + 1 - k - x.cfg.tsAdj.toInt)
        let p : AoipOut := { stream := n, legB := false, due := now s, head := txHead s x.cfg false, seq := x.seq, ts := ts, payload := r.1 }
        let s1 := txMod n (fun _ => { r.2 with buf := none, seq := x.seq + 1 }) s
        if s.sump.aside || s.sump.halted then s1
        else
          let s2 := launch x.cfg.portA.toFin (.aoip p) s1
          if x.cfg.dup then launch x.cfg.portB.toFin (.aoip { p with legB := true, head := txHead s x.cfg true }) s2 else s2

/-- The transmit streams at a boundary, after its values have been delivered: in ascending stream order (R296), nothing while
the node stands aside (R459). -/
def runAoipTx (s : State) : State :=
  (s.net.tx.map (·.1)).foldl (fun s n =>
    if ((mapGet s.net.tx n).map (·.on)).getD false then (List.range (spt s)).foldl (fun s i => txStep n i s) s else s) s

/-! ### Commands (R298–R300) -/

/-- FIELDS shared by both settings are in range. -/
def streamBad (s : State) (format channels firstCh ptime : Nat) : Bool :=
  decide (format = 3) || decide (3 < ptime) ||
    decide (aoipMap s < firstCh + channels)

/-- A port is off for a stream (R298). -/
def portOff (s : State) (p : Fin 4) : Bool := decide (ethMode s p = 0) || decide (regGet s (Reg.ethIpv4 p) = 0)

/-- Refusals of an enabling command at acceptance (R286, R298). -/
def streamRefusal (s : State) (format channels ptime : Nat) (ports : List (Fin 4)) : Option (Nat × Nat) :=
  if channels = 0 ∨ 64 < channels ∨ 1440 < payloadBytes s format channels ptime then some (0x61, 0)
  else if ports.any (portOff s) then some (0x62, 0)
  else none

/-- AOIP_RX_SET (R287, R299). -/
def execAoipRxSet (h : CmdHdr) (a : AoipRxArgs) (s : State) : Host.Outcome State Fault Refusal :=
  let k := packetSamples s a.ptime.toNat
  let bad : Bool := a.enable &&
    (streamBad s a.format.toNat a.channels.toNat a.firstCh.toNat a.ptime.toNat ||
      !(decide (a.pt = 0xFF) || (decide (96 ≤ a.pt.toNat) && decide (a.pt.toNat ≤ 127))) ||
      decide (a.linkOffset.toNat < k + spt s) || decide (32768 < a.linkOffset.toNat))
  fin (timedCmd h a.tick bad
    (fun s => if a.enable then streamRefusal s a.format.toNat a.channels.toNat a.ptime.toNat ((rxLegs a).map (·.1)) else none)
    noPre (.aoipRx a.stream.toFin a) s)

/-- AOIP_RX_SET at its boundary (R289, R291, R299): a conflict with an enabled stream, an over-full store, or the setting. -/
def applyAoipRx (n : Fin 256) (a : AoipRxArgs) (s : State) : Nat × State :=
  let old := (mapGet s.net.rx n).filter (·.on)
  if !a.enable then
    match old with
    | none => (St.ok, s)
    | some x => (St.ok, igmpLegs x.cfg false (rxMod n (fun x => { x with on := false, ring := [], gaps := [] }) s))
  else
    let others := rxOthers s n
    let clash := others.any fun x =>
      overlaps a.firstCh.toNat a.channels.toNat x.cfg.firstCh.toNat x.cfg.channels.toNat ||
        (rxLegs a).any fun l => (rxLegs x.cfg).any fun m => decide (l = m)
    if clash then (0x60, s)
    else if 1048576 < others.foldl (fun w x => w + rxWords s x.cfg) (rxWords s a) then (St.refusedQuota, s)
    else
      let s1 := match old with | some x => igmpLegs x.cfg false s | none => s
      let y : AoipRx := match old with
        | none => AoipRx.fresh a
        | some x =>
          let same : Bool := decide (x.cfg.channels = a.channels) && decide (x.cfg.format = a.format)
          let r := ringSize s a
          { x with cfg := a,
                   ring := if same then (x.ring.map (·.2)).foldl (fun m e => mapPut m (e.ts % r) e) [] else [],
                   conceal := (List.range a.channels.toNat).map fun i => x.conceal.getD i Conceal.reset }
      (St.ok, igmpLegs a true (netMod (fun e => { e with rx := mapPut e.rx n y }) s1))

/-- The line load of a transmit stream on a port in bits per second, times P (R297). -/
def txLoad (s : State) (a : AoipTxArgs) : Nat × Nat :=
  let k := packetSamples s a.ptime.toNat
  (((payloadBytes s a.format.toNat a.channels.toNat a.ptime.toNat + 82) * 8) * fs s, k)

/-- The transmit streams of a port fit within 80 % of its line rate (R297): the sum of load/P over the packets' legs, over a common denominator. -/
def txFits (s : State) (p : Fin 4) (l : List AoipTxArgs) : Bool :=
  let use := l.flatMap fun a => ((txPorts a).filter fun q => decide (q = p)).map fun _ => txLoad s a
  let den := use.foldl (fun d x => d * x.2 / Nat.gcd d x.2) 1
  decide (use.foldl (fun a x => a + x.1 * (den / x.2)) 0 ≤ 800000 * lineMbps (ethMode s p) * den)

/-- AOIP_TX_SET (R299). -/
def execAoipTxSet (h : CmdHdr) (a : AoipTxArgs) (s : State) : Host.Outcome State Fault Refusal :=
  let bad : Bool := a.enable &&
    (streamBad s a.format.toNat a.channels.toNat a.firstCh.toNat a.ptime.toNat ||
      !(decide (96 ≤ a.pt.toNat) && decide (a.pt.toNat ≤ 127)) || (!multicast a.dstIp && decide (a.dstMac = 0)))
  fin (timedCmd h a.tick bad
    (fun s => if a.enable then streamRefusal s a.format.toNat a.channels.toNat a.ptime.toNat (txPorts a) else none)
    noPre (.aoipTx a.stream.toFin a) s)

/-- AOIP_TX_SET at its boundary (R296, R297): the sequence number starts at a free value. -/
def applyAoipTx (n : Fin 256) (a : AoipTxArgs) (s : State) : Nat × State :=
  let old := (mapGet s.net.tx n).filter (·.on)
  if !a.enable then (St.ok, txMod n (fun x => { x with on := false, buf := none }) s)
  else
    let all := a :: ((s.net.tx.filter fun e => decide (e.1 ≠ n.val) && e.2.on).map (·.2.cfg))
    if (txPorts a).any fun p => !txFits s p all then (St.refusedBudget, s)
    else
      let q := freshFree 16 s
      match old with
      | some x => (St.ok, txMod n (fun _ => { x with cfg := a, buf := if x.cfg.channels = a.channels ∧ x.cfg.ptime = a.ptime then x.buf else none }) s)
      | none =>
        let keep := (mapGet s.net.tx n).elim [] fun x => x.cs
        let y : AoipTx := { on := true, cfg := a, seq := BitVec.ofNat 16 q.1, sent := 0, late := 0, rtpLast := 0, buf := none,
                            count := 0, cs := keep, csNext := [] }
        (St.ok, netMod (fun e => { e with tx := mapPut e.tx n y }) q.2)

/-- AOIP_CS_SET (R300). -/
def execAoipCsSet (h : CmdHdr) (tick : BitVec 64) (stream pair : Byte) (block : List Byte) (s : State) :
    Host.Outcome State Fault Refusal :=
  let am : Bool := ((mapGet s.net.tx stream.toNat).map fun x => decide (x.cfg.format = 2)).getD false
  fin (timedCmd h tick (!am || decide (31 < pair.toNat) || decide (block.length ≠ 24)) noRefusal noPre
    (.aoipCs stream.toFin pair.toNat block) s)

/-- AOIP_CS_SET at its boundary: the block waits for the first block start at or after it. -/
def applyAoipCs (n : Fin 256) (pair : Nat) (block : List Byte) (s : State) : State :=
  txMod n (fun x => { x with csNext := x.csNext ++ [(pair, spt s * now s, block)] }) s

/-- AOIP_QUERY (R300). -/
def execAoipQuery (h : CmdHdr) (dir stream csPair : Byte) (resultAddr : BitVec 64) (s : State) :
    Host.Outcome State Fault Refusal :=
  fin (untimedCmd h (decide (1 < dir.toNat) || decide (31 < csPair.toNat)) (fun t s =>
    netMod (fun e => { e with queries := e.queries ++
      [{ ticket := t, tx := decide (dir.toNat = 1), stream := stream.toFin, pair := csPair.toNat, addr := resultAddr }] }) s) s)

/-- A loss phase runs (R294). -/
def AoipRx.losing (x : AoipRx) : Bool := x.conceal.any fun c => decide (c.bad ≠ 0)

/-- The 64 bytes of an AOIP_QUERY (R300); MARGIN_MIN is a free value while no packet has been accepted since the last query. -/
def queryBytes (s : State) (q : AoipQuery) : List Byte × State :=
  let f := freshFree 32 s
  let tail : List Byte := leBytes 1 q.pair ++ leBytes 7 0
  if q.tx then
    match mapGet s.net.tx q.stream with
    | none => (leBytes 56 0 ++ tail, s)
    | some x => (leBytes 1 (b2n x.on) ++ leBytes 3 0 ++ leBytes 4 x.sent ++ leBytes 4 0 ++ leBytes 4 x.late ++ leBytes 12 0 ++
        leBytes 4 x.rtpLast ++ leBytes 24 0 ++ tail, s)
  else
    match mapGet s.net.rx q.stream with
    | none => (leBytes 24 0 ++ leBytes 4 f.1 ++ leBytes 28 0 ++ tail, f.2)
    | some x =>
      let cs := if x.cfg.format = 2 then ((mapGet x.cs q.pair).map (·.block)).getD [] else []
      (leBytes 1 (if x.on then (if x.losing then 2 else 1) else 0) ++ leBytes 3 0 ++ leBytes 4 x.packets ++ leBytes 4 x.lost ++
        leBytes 4 x.late ++ leBytes 4 x.early ++ leBytes 4 x.dup ++ leBytes 4 (x.marginMin.getD f.1) ++ leBytes 4 x.rtpLast ++
        (cs ++ List.replicate (24 - cs.length) 0) ++ tail, if x.marginMin.isNone then f.2 else s)

/-- Answer the AOIP_QUERYs at a boundary; MARGIN_MIN starts again. -/
def runAoipQueries (s : State) : State :=
  s.net.queries.foldl (fun s q =>
    let b := queryBytes s q
    let s1 := if q.tx then b.2 else rxMod q.stream (fun x => { x with marginMin := none }) b.2
    resultThen q.ticket q.addr.toNat b.1 St.ok s1) (netMod (fun e => { e with queries := [] }) s)

/-- AOIP_USE (R303). -/
def aoipUse (s : State) : Word :=
  let on := s.net.rx.filter fun e => e.2.on
  BitVec.ofNat 32 (on.length + ceilDiv (on.foldl (fun a e => a + rxWords s e.2.cfg) 0) 1024 * 65536)

end Sys2Proof.Machine
end

