-- ==== Sys2Proof/Machine/Bench.lean ====
section
/-!
DEFINITION. The benches (R136–R162): allocation, delay lines, clips, capture rings, snapshots, DRAM errors, and the bench
engine's work at a tick boundary.
-/
namespace Sys2Proof.Machine

/-! ### Granules and extents -/

/-- The bench of a number. -/
def benchOf (s : State) (b : Nat) : Option Bench := mapGet s.mem.benches b

def setBench (b : Nat) (x : Bench) (s : State) : State := { s with mem := { s.mem with benches := mapPut s.mem.benches b x } }

/-- The object of a handle. -/
def objOf (s : State) (h : Nat) : Option BObj := mapGet s.mem.objs h

def setObj (h : Nat) (o : BObj) (s : State) : State := { s with mem := { s.mem with objs := mapPut s.mem.objs h o } }

/-- Extents in use in a granule. -/
def granuleUsed (g : List (Nat × Nat)) : Nat := g.foldl (fun a e => a + e.2) 0

/-- Granules mapped to all benches. -/
def mappedAll (s : State) : Nat := s.mem.benches.foldl (fun a e => a + e.2.granules.length) 0

/-- The sum of all quotas (R139). -/
def quotaSum (s : State) : Nat := s.mem.benches.foldl (fun a e => a + e.2.quota) 0

/-- Free extents of the partly used granules of a bench. -/
def Bench.spare (b : Bench) : Nat := b.granules.foldl (fun a g => a + (16 - granuleUsed g)) 0

/-- Granules that an allocation would newly map (R137). -/
def Bench.newGranules (b : Bench) (extents : Nat) : Nat := ceilDiv (extents - b.spare) 16

/-- Put one extent of an object into granule i. -/
def addExtent (h i : Nat) (gs : List (List (Nat × Nat))) : List (List (Nat × Nat)) :=
  gs.mapIdx fun k g => if k = i then mapPut g h ((mapGet g h).getD 0 + 1) else g

/-- Map new granules for the extents that no partly used granule takes. -/
def mapNew (h extents : Nat) : List (List (Nat × Nat)) :=
  (List.range (ceilDiv extents 16)).map fun i => [(h, min 16 (extents - 16 * i))]

/-- Allocate extents (R137): those of the partly used granules first, in an order that the spec leaves open (a free value
where there is a choice). -/
def allocExtents (h : Nat) : Nat → Nat → List (List (Nat × Nat)) → List (List (Nat × Nat)) × Nat
  | 0, f, gs => (gs, f)
  | n + 1, f, gs =>
    let open_ := (List.range gs.length).filter fun i => decide (granuleUsed (gs.getD i []) < 16)
    match open_ with
    | [] => (gs ++ mapNew h (n + 1), f)
    | [i] => allocExtents h n f (addExtent h i gs)
    | _ => allocExtents h n (f + 1) (addExtent h (open_.getD (Config.freeValue f % open_.length) 0) gs)

/-- Free every extent of an object; a granule that none occupies any more returns to the free pool (R137). -/
def freeExtents (h : Nat) (gs : List (List (Nat × Nat))) : List (List (Nat × Nat)) :=
  (gs.map fun g => mapErase g h).filter fun g => g ≠ []

/-! ### Objects -/

/-- The size of an object's contents in words (R142). -/
def BObj.wordCount (o : BObj) : Nat :=
  match o.kind with
  | .snap => o.size
  | _ => o.chans * o.size

/-- A bench channel is bound (R142). -/
def chanBound (s : State) (c : Nat) : Bool :=
  s.mem.objs.any fun e => decide (e.2.chan ≤ c) && decide (c < e.2.chan + e.2.chans)

/-- An object's TYPE (R142). -/
def ObjKind.code : ObjKind → Nat
  | .line .. => 1 | .clip .. => 2 | .ring .. => 3 | .snap => 4

/-- STATE of BENCH_QUERY (R157). -/
def ObjKind.state : ObjKind → Nat
  | .line _ _ fade next => if next.isSome then 2 else if fade.isSome then 1 else 0
  | .clip _ _ _ playing _ => b2n playing
  | .ring _ action isDone _ => if isDone then 3 else if action = 0 then 0 else 1
  | .snap => 0

/-- Free an object at a boundary (R144): a deferred change completes with ABORTED. -/
def freeObj (h : Nat) (s : State) : State :=
  match objOf s h with
  | none => s
  | some o =>
    let s1 := { s with mem := { s.mem with
      objs := mapErase s.mem.objs h,
      benches := mapModify s.mem.benches o.bench.val fun b => { b with granules := freeExtents h b.granules } } }
    match o.kind with
    | .line _ _ _ (some nx) => complete nx.ticket St.aborted 0 s1
    | _ => s1

/-! ### At a boundary -/

/-- The crossfades, gains and clips after the tick that ended (R148–R151). -/
def ObjKind.advance (spt : Nat) : ObjKind → ObjKind
  | .line d hist (some f) next =>
    if f.n ≤ f.j + spt then .line f.delay hist none next else .line d hist (some { f with j := f.j + spt }) next
  | .clip pos loop g playing stopping =>
    let g1 := g.advance spt
    if stopping ∧ g1.n = 0 then .clip pos loop Gain.mute false false else .clip pos loop g1 playing stopping
  | k => k

/-- Advance all objects by one tick. -/
def advanceBenches (s : State) : State :=
  { s with mem := { s.mem with objs := s.mem.objs.map fun e => (e.1, { e.2 with kind := e.2.kind.advance (spt s) }) } }

/-- Start a change of delay (R148): a crossfade, or a jump where MODE or the ramp says so. -/
def startDelay (xfade power : Bool) (delay n : Nat) (hist : List (Sample × Bool)) (old : Nat) : ObjKind :=
  if xfade ∧ n ≠ 0 then .line old hist (some { delay := delay, power := power, n := n, j := 0 }) none
  else .line delay hist none none

/-- DELAY_SET at its boundary (R148, R149); none: the change is deferred and its command completes later, or it has lost to a
deferred change accepted after it and has completed. -/
def applyDelay (h : Nat) (t : Ticket) (xfade power : Bool) (delay ms : Nat) (s : State) : Option Nat × State :=
  match objOf s h with
  | none => (some 0x41, s)
  | some o =>
    match o.kind with
    | .line d hist fade next =>
      let n := rampSamples (fs s) (spt s) ms
      let drop (s : State) : State := match next with | some nx => complete nx.ticket St.ok 0 s | none => s
      if xfade ∧ n ≠ 0 ∧ next.any (fun nx => decide (t.order < nx.ticket.order)) then (none, complete t St.ok 0 s)
      else if xfade ∧ n ≠ 0 ∧ fade.isSome then
        (none, setObj h { o with kind := .line d hist fade (some { ticket := t, delay := delay, power := power, ms := ms }) } (drop s))
      else (some St.ok, setObj h { o with kind := startDelay xfade power delay n hist d } (drop s))
    | _ => (some 0x46, s)

/-- Deferred changes whose crossfade has ended start (R149); their records carry the tick. -/
def startDeferred (s : State) : State :=
  s.mem.objs.foldl (fun s e => match e.2.kind with
    | .line d hist none (some nx) =>
      complete nx.ticket (okOf nx.ticket) (now s % 2 ^ 32)
        (setObj e.1 { e.2 with kind := startDelay true nx.power nx.delay (rampSamples (fs s) (spt s) nx.ms) hist d } s)
    | _ => s) s

/-- PLAY_START at its boundary (R150). -/
def applyPlayStart (h : Nat) (loop : Option Nat) (start : Nat) (gain : Word) (ms : Nat) (s : State) : Nat × State :=
  match objOf s h with
  | none => (0x41, s)
  | some o =>
    match o.kind with
    | .clip _ _ g playing _ =>
      let from_ := if playing then g else Gain.mute
      (St.ok, setObj h { o with kind := .clip start loop (from_.rampTo gain (rampSamples (fs s) (spt s) ms)) true false } s)
    | _ => (0x46, s)

/-- PLAY_STOP at its boundary (R151). -/
def applyPlayStop (h ms : Nat) (s : State) : Nat × State :=
  match objOf s h with
  | none => (0x41, s)
  | some o =>
    match o.kind with
    | .clip pos loop g true _ =>
      let g1 := g.rampTo g.muteWord (rampSamples (fs s) (spt s) ms)
      (St.ok, setObj h { o with kind := if g1.n = 0 then .clip pos loop Gain.mute false false else .clip pos loop g1 true true } s)
    | .clip .. => (St.ok, s)
    | _ => (0x46, s)

/-- CAPTURE_CTRL at its boundary (R152). -/
def applyCapture (h action start : Nat) (s : State) : Nat × State :=
  match objOf s h with
  | none => (0x41, s)
  | some o =>
    match o.kind with
    | .ring pos _ isDone inv =>
      if action = 3 then (St.ok, setObj h { o with kind := .ring pos 0 isDone inv } s)
      else (St.ok, setObj h { o with kind := .ring start action false inv } s)
    | _ => (0x46, s)

/-- The words of one snapshot item (R154). -/
def snapWords (i : SnapItem) (s : State) : List Word × State :=
  if i.ramps then
    let r := rampRecords s.tiles[i.tile].units.toList s
    ((List.range 256).map fun k => BitVec.ofNat 32 (ofLe ((r.1.drop (4 * k)).take 4)), r.2)
  else ((List.range i.count).map fun k => dmemRead s.tiles[i.tile].mem (i.waddr + k), s)

/-- The words of all items, one after another. -/
def snapAll : List SnapItem → State → List Word × State
  | [], s => ([], s)
  | i :: l, s =>
    let r := snapWords i s
    let q := snapAll l r.2
    (r.1 ++ q.1, q.2)

/-- SNAP_TAKE at its boundary (R154). -/
def applySnap (h : Nat) (items : List SnapItem) (s : State) : Nat × State :=
  match objOf s h with
  | none => (0x41, s)
  | some o =>
    match o.kind with
    | .snap =>
      let r := snapAll items s
      if o.size < r.1.length then (St.badArg, s)
      else (St.ok, setObj h { o with words := mapPutList 0 o.words 0 r.1 } r.2)
    | _ => (0x46, s)

/-- Count an error of the DRAM and record its place (R159). -/
def dramError (e : DramError) (s : State) : State :=
  let s1 := regSet Reg.dramErrAddr (BitVec.ofNat 32 (e.addr.toNat + bitAt e.uncorrectable 31)) s
  let s2 := regSet Reg.dramErrWhere (match e.place with
    | .bench n => BitVec.ofNat 32 n.val | .system => 0x40 | .unmapped => 0x80) s1
  let inst := match e.place with | .bench n => n.val | .system => 64 | .unmapped => 65
  if e.uncorrectable then raise Src.dramUe inst (64 * e.addr.toNat) (sticky Reg.dramEccStat 1 (bump Reg.dramUeCount 1 s2))
  else sticky Reg.dramEccStat 0 (bump Reg.dramCeCount 1 s2)

/-- An error that a read of the bench engine meets (R159): the matrix answers an uncorrectable word with SLVERR (R410, R419). -/
def benchError (e : DramError) (s : State) : State :=
  let s1 := dramError e s
  if e.uncorrectable then matrixError .slverr Master.bench false (0x100000000 + 64 * e.addr.toNat) s1 else s1

/-- Sample s of a head of an object's channel was lost to an uncorrectable word (R159). -/
def sampleLost (errs : List TickDramError) (h c : Nat) (newHead : Bool) (i : Nat) : Bool :=
  errs.any fun e => e.err.uncorrectable && e.handle.toNat = h && e.chan.toNat = c && e.newHead = newHead && bitOf e.samples.toNat i

/-- Factors of a crossfade at step j: outgoing and incoming (R57, R148). -/
def LineFade.factors (f : LineFade) (j : Nat) : Nat × Nat :=
  if f.power then (cosLaw j f.n, sinLaw j f.n) else (2 ^ 30 * (f.n - j) / f.n, 2 ^ 30 * j / f.n)

/-- One output sample of a delay line: value, valid, saturated (R145, R146, R148). -/
def lineSample (errs : List TickDramError) (h spt delay : Nat) (hist : List (Sample × Bool)) (fade : Option LineFade) (i : Nat) :
    Sample × Bool × Bool :=
  let rd (d : Nat) (new : Bool) : Int × Bool :=
    if sampleLost errs h 0 new i then (0, false)
    else let x := hist.getD (spt - 1 - i + d) (0, true); (x.1.toInt, x.2)
  match fade with
  | none => let x := rd delay false; (BitVec.ofInt 32 x.1, x.2, false)
  | some f =>
    let k := f.factors (f.j + i + 1)
    let a := rd delay false
    let b := rd f.delay true
    let y := sat32 ((a.1 * (k.1 : Int) + b.1 * (k.2 : Int)) / 2 ^ 30)
    (y.1, (a.2 || k.1 = 0) && (b.2 || k.2 = 0), y.2)

/-- The play positions of a clip over a tick, none once it has ended, and the position after (R150). -/
def playPositions (size : Nat) (loop : Option Nat) : Nat → Nat → List (Option Nat) × Nat
  | 0, pos => ([], pos)
  | n + 1, pos =>
    if size ≤ pos then let r := playPositions size loop n pos; (none :: r.1, r.2)
    else
      let nx := if pos + 1 = size then loop.getD size else pos + 1
      let r := playPositions size loop n nx
      (some pos :: r.1, r.2)

/-- One channel's tick of a playing clip: its block and the saturated samples (R150). -/
def clipBlk (errs : List TickDramError) (h : Nat) (o : BObj) (g : Gain) (pos : List (Option Nat)) (c : Nat) : Blk × Nat :=
  let v := pos.mapIdx fun i p => match p with
    | none => ((0 : Sample), false)
    | some k => if sampleLost errs h c false i then (0, false)
        else scaleSample (mapGetD 0 o.words (k * o.chans + c)) (g.linAt (g.j + i + 1))
  ({ samples := v.map (·.1), valid := !((List.range pos.length).any fun i => sampleLost errs h c false i), ramp := false },
   (v.filter (·.2)).length)

/-- Store a tick of a capture ring: positions written and the state after (R152). -/
def captureSteps (size action : Nat) : Nat → Nat → List (Option Nat) × Nat × Bool
  | 0, pos => ([], pos, false)
  | n + 1, pos =>
    if size ≤ pos then let r := captureSteps size action n pos; (none :: r.1, r.2.1, true)
    else
      let nx := if pos + 1 = size ∧ action = 1 then 0 else pos + 1
      let r := captureSteps size action n nx
      (some pos :: r.1, r.2.1, r.2.2 || (action = 2 && decide (pos + 1 = size)))

/-- Put a block into the sources handed over. -/
def putBenchSource (e : Nat) (b : Blk) (s : State) : State :=
  { s with router := { s.router with store := mapPut s.router.store e b } }

/-- Count saturated bench samples (R148, R150). -/
def benchSat (n : Nat) (s : State) : State := countFlag Reg.benchSatCount Reg.dramEccStat 2 n s

/-- One object's work at a boundary: it takes the delivered values and hands over its sources (R143, R145, R150, R152). -/
def runObj (errs : List TickDramError) (h : Nat) (o : BObj) (s : State) : State :=
  match o.kind with
  | .line d hist fade next =>
    let x := deliveredBlk s (ep 6 o.chan)
    let hist1 := ((x.samples.map fun v => (v, x.valid)).reverse ++ hist).take (o.size + 2 * spt s)
    let y := (List.range (spt s)).map (lineSample errs h (spt s) d hist1 fade)
    benchSat (y.filter (·.2.2)).length
      (putBenchSource (ep 6 o.chan) { samples := y.map (·.1), valid := y.all (·.2.1), ramp := false }
        (setObj h { o with kind := .line d hist1 fade next } s))
  | .clip pos loop g true stopping =>
    let p := playPositions o.size loop (spt s) pos
    let outs := (List.range o.chans).map fun c => (c, clipBlk errs h o g p.1 c)
    let k := if o.size ≤ p.2 then ObjKind.clip p.2 loop Gain.mute false false else .clip p.2 loop g true stopping
    benchSat (outs.foldl (fun a x => a + x.2.2) 0)
      (outs.foldl (fun s x => putBenchSource (ep 6 (o.chan + x.1)) x.2.1 s) (setObj h { o with kind := k } s))
  | .clip .. => (List.range o.chans).foldl (fun s c => putBenchSource (ep 6 (o.chan + c)) (zeroBlk s true) s) s
  | .ring pos action isDone inv =>
    if action = 0 then s
    else
      let r := captureSteps o.size action (spt s) pos
      let bs := (List.range o.chans).map fun c => deliveredBlk s (ep 6 (o.chan + c))
      let stores := (r.1.mapIdx fun i p => (i, p)).flatMap fun e => match e.2 with
        | none => []
        | some k => bs.mapIdx fun c b => (k * o.chans + c, b.samples.getD e.1 0)
      let inv1 := if bs.all (·.valid) then inv else satN 32 (inv + 1)
      setObj h { o with words := stores.foldl (fun m e => mapPutD 0 m e.1 e.2) o.words,
                        kind := if r.2.2 then .ring r.2.1 0 true inv1 else .ring r.2.1 action isDone inv1 } s
  | .snap => s

/-- The bench engine at a boundary: errors counted, every object's tick (R143). -/
def runBenches (errs : List TickDramError) (s : State) : State :=
  let s1 := errs.foldl (fun s e => benchError e.err s) s
  let keep := s1.router.store.filter fun e => e.1 / 4096 ≠ 6
  s1.mem.objs.foldl (fun s e => runObj errs e.1 e.2 s) { s1 with router := { s1.router with store := keep } }

/-- OVER_QUOTA clears at the boundary at which the mapped granules are within the quota (R140); BENCH_MAPPED (R161). -/
def benchRegs (s : State) : State :=
  let bs := s.mem.benches.map fun e => (e.1, { e.2 with overQuota := e.2.overQuota && decide (e.2.quota < e.2.granules.length) })
  regSet Reg.benchMapped (BitVec.ofNat 32 (mappedAll s)) { s with mem := { s.mem with benches := bs } }

/-- BENCH_OVER_LO and BENCH_OVER_HI (R161). -/
def benchOver (s : State) (lo : Nat) : Word :=
  BitVec.ofNat 32 ((List.range 32).foldl (fun a i =>
    a + (match benchOf s (lo + i) with | some b => bitAt b.overQuota i | none => 0)) 0)

/-- The object part of a BENCH_QUERY result (R157). -/
def objResult (o : BObj) : List Byte :=
  let r : Nat × Nat × Nat := match o.kind with
    | .line d _ fade next =>
      (d, match next, fade with | some nx, _ => nx.delay | none, some f => f.delay | none, none => 0, 0)
    | .clip pos _ _ _ _ => (pos, 0, 0)
    | .ring pos _ _ inv => (pos, 0, inv)
    | .snap => (0, 0, 0)
  leBytes 1 o.kind.code ++ leBytes 1 o.kind.state ++ leBytes 2 o.chan ++ leBytes 4 r.1 ++ leBytes 4 r.2.1 ++ leBytes 4 r.2.2

/-- Answer the BENCH_QUERYs at a boundary (R157). -/
def runBenchQueries (s : State) : State :=
  s.mem.queries.foldl (fun s q =>
    match benchOf s q.bench.val with
    | none => complete q.ticket 0x40 0 s
    | some b =>
      let mine := s.mem.objs.filter fun e => e.2.bench = q.bench
      let head := leBytes 4 b.quota ++ leBytes 4 b.granules.length ++
        leBytes 4 (mine.foldl (fun a e => a + e.2.extents) 0) ++ leBytes 2 mine.length ++ leBytes 2 (b2n b.overQuota)
      if q.handle = 0 then resultThen q.ticket q.addr.toNat (head ++ List.replicate 48 0) St.ok s
      else match mine.find? fun e => e.1 = q.handle with
      | none => complete q.ticket 0x41 0 s
      | some e => resultThen q.ticket q.addr.toNat (head ++ objResult e.2 ++ List.replicate 32 0) St.ok s)
    { s with mem := { s.mem with queries := [] } }

/-! ### The commands -/

/-- The checks of BENCH and QUOTA (R156). -/
def benchArgs (bench : Byte) (quota : Word) : Bool :=
  decide (bench.toNat < 64) && decide (1 ≤ quota.toNat) && decide (quota.toNat ≤ 7936)

/-- BENCH_CREATE (R139). -/
def execBenchCreate (h : CmdHdr) (bench : Byte) (quota : Word) (s : State) : Host.Outcome State Fault Refusal :=
  .next (untimedCmd h (!benchArgs bench quota) (fun t s =>
    if (benchOf s bench.toNat).isSome then complete t St.badArg 0 s
    else if 7936 < quotaSum s + quota.toNat then complete t St.refusedQuota 0 s
    else complete t St.ok 0 (setBench bench.toNat { quota := quota.toNat, granules := [], overQuota := false } s)) s)

/-- BENCH_QUOTA (R139, R140). -/
def execBenchQuota (h : CmdHdr) (bench : Byte) (quota : Word) (s : State) : Host.Outcome State Fault Refusal :=
  .next (untimedCmd h (!benchArgs bench quota) (fun t s =>
    match benchOf s bench.toNat with
    | none => complete t 0x40 0 s
    | some b =>
      let q := quota.toNat
      if b.quota < q ∧ 7936 < quotaSum s - b.quota + q then complete t St.refusedQuota 0 s
      else complete t St.ok 0 (setBench bench.toNat { b with quota := q, overQuota := b.overQuota || decide (q < b.granules.length) } s)) s)

/-- BENCH_DELETE (R141). -/
def execBenchDelete (h : CmdHdr) (bench : Byte) (s : State) : Host.Outcome State Fault Refusal :=
  .next (untimedCmd h (decide (64 ≤ bench.toNat)) (fun t s =>
    if (benchOf s bench.toNat).isNone then complete t 0x40 0 s
    else if s.mem.objs.any fun e => e.2.bench.val = bench.toNat then complete t 0x43 0 s
    else complete t St.ok 0 { s with mem := { s.mem with benches := mapErase s.mem.benches bench.toNat } }) s)

/-- Extents of a new object (R142). -/
def objExtents (s : State) (a : ObjAllocArgs) : Nat :=
  let bytes := match a.ty.toNat with
    | 1 => 4 * (a.size.toNat + 2 * spt s)
    | 4 => 4 * a.size.toNat
    | _ => 4 * a.channels.toNat * a.size.toNat
  ceilDiv bytes 65536

/-- The fields of an OBJ_ALLOC break R142 or R156. -/
def allocBad (s : State) (a : ObjAllocArgs) : Bool :=
  let n := a.channels.toNat
  decide (64 ≤ a.bench.toNat) || decide (65535 < objExtents s a) ||
  match a.ty.toNat with
  | 1 => decide (n ≠ 1) || decide (240000 < a.size.toNat)
  | 2 | 3 => decide (n = 0) || decide (64 < n) || decide (a.size = 0)
  | 4 => decide (n ≠ 0) || decide (a.channel ≠ 0) || decide (a.size = 0)
  | _ => true

/-- What a new object of a TYPE is (R145). -/
def newKind (ty : Nat) : ObjKind :=
  match ty with
  | 1 => .line 0 [] none none
  | 2 => .clip 0 none Gain.mute false false
  | 3 => .ring 0 0 false 0
  | _ => .snap

/-- OBJ_ALLOC (R137, R139–R142). Which unused handle it answers the spec leaves open: a free value. -/
def execObjAlloc (h : CmdHdr) (a : ObjAllocArgs) (s : State) : Host.Outcome State Fault Refusal :=
  .next (untimedCmd h (allocBad s a) (fun t s =>
    match toFin? 64 a.bench.toNat, benchOf s a.bench.toNat with
    | some bn, some b =>
      let e := objExtents s a
      let c := a.channel.toNat
      let n := a.channels.toNat
      if decide (n ≠ 0) && (decide (4096 < c + n) || (List.range n).any fun i => chanBound s (c + i)) then complete t 0x42 0 s
      else if 8192 ≤ s.mem.objs.length ∨ b.quota < b.granules.length ∨ b.quota < b.granules.length + b.newGranules e ∨
          7936 < mappedAll s + b.newGranules e then complete t St.refusedQuota 0 s
      else
        let unused := ((List.range 8192).map (· + 1)).filter fun k => (objOf s k).isNone
        let hd := unused.getD (Config.freeValue s.free % unused.length) 1
        let g := allocExtents hd e (s.free + 1) b.granules
        let o : BObj := { bench := bn, kind := newKind a.ty.toNat, chan := c, chans := n, size := a.size.toNat, extents := e,
                          words := [] }
        complete t St.ok (hd + e * 65536) (setObj hd o (setBench bn.val { b with granules := g.1 } { s with free := g.2 }))
    | _, _ => complete t 0x40 0 s) s)

/-- The refusal of a timed command that needs an object of a TYPE (R155). -/
def needObj (hd : BitVec 16) (ty : Nat) (range : BObj → Bool) (s : State) : Option (Nat × Nat) :=
  match objOf s hd.toNat with
  | none => some (0x41, 0)
  | some o => if o.kind.code ≠ ty then some (0x46, 0) else if range o then none else some (St.badArg, 0)

/-- OBJ_FREE (R144). -/
def execObjFree (h : CmdHdr) (tick : BitVec 64) (handle : BitVec 16) (s : State) : Host.Outcome State Fault Refusal :=
  .next (timedCmd h tick false (fun s => if (objOf s handle.toNat).isSome then none else some (0x41, 0)) noPre
    (.objFree handle.toNat) s)

/-- DELAY_SET (R148, R149). -/
def execDelaySet (h : CmdHdr) (a : DelaySetArgs) (s : State) : Host.Outcome State Fault Refusal :=
  match (if a.law.toNat < 4 then lawField s (BitVec.ofNat 2 a.law.toNat) else none), rampField s 1000 a.rampMs with
  | some p, some ms =>
    .next (timedCmd h a.tick (decide (1 < a.mode.toNat)) (needObj a.handle 1 fun o => decide (a.delay.toNat ≤ o.size)) noPre
      (.delaySet a.handle.toNat (a.mode = 1) p a.delay.toNat ms) s)
  | _, _ => .next (badTimed h s)

/-- PLAY_START (R150). -/
def execPlayStart (h : CmdHdr) (a : PlayStartArgs) (s : State) : Host.Outcome State Fault Refusal :=
  match rampField s 1000 a.rampMs with
  | some ms =>
    .next (timedCmd h a.tick (!gainWordValid a.gain)
      (needObj a.handle 2 fun o => decide (a.startFrame.toNat < o.size) && decide (a.loopStart.toNat < o.size)) noPre
      (.playStart a.handle.toNat (if a.loop then some a.loopStart.toNat else none) a.startFrame.toNat a.gain ms) s)
  | none => .next (badTimed h s)

/-- PLAY_STOP (R151). -/
def execPlayStop (h : CmdHdr) (tick : BitVec 64) (handle rampMs : BitVec 16) (s : State) : Host.Outcome State Fault Refusal :=
  match rampField s 1000 rampMs with
  | some ms => .next (timedCmd h tick false (needObj handle 2 fun _ => true) noPre (.playStop handle.toNat ms) s)
  | none => .next (badTimed h s)

/-- CAPTURE_CTRL (R152). -/
def execCaptureCtrl (h : CmdHdr) (a : CaptureCtrlArgs) (s : State) : Host.Outcome State Fault Refusal :=
  let act := a.action.toNat
  .next (timedCmd h a.tick (decide (act = 0) || decide (3 < act))
    (needObj a.handle 3 fun o => act = 3 || decide (a.startFrame.toNat < o.size)) noPre
    (.captureCtrl a.handle.toNat act a.startFrame.toNat) s)

/-- The fields of a BENCH_WRITE or BENCH_READ break R156. -/
def dataBad (a : BenchDataArgs) : Bool :=
  let l := a.length.toNat
  decide (a.offset.toNat % 4 ≠ 0) || decide (a.addr.toNat % 4 ≠ 0) || decide (l < 4) || decide (16777216 < l) || decide (l % 4 ≠ 0)

/-- The object of a BENCH_WRITE or BENCH_READ, or the status that refuses it (R153, R156). -/
def dataObj (s : State) (a : BenchDataArgs) : Nat ⊕ BObj :=
  match objOf s a.handle.toNat with
  | none => .inl 0x41
  | some o =>
    if o.kind.code = 1 then .inl 0x46
    else if 4 * o.wordCount < a.offset.toNat + a.length.toNat then .inl St.badArg else .inr o

/-- A clip that plays or a ring that captures (R153). -/
def ObjKind.busy : ObjKind → Bool
  | .clip _ _ _ playing _ => playing
  | .ring _ action _ _ => action ≠ 0
  | _ => false

/-- BENCH_WRITE (R153). -/
def execBenchWrite (h : CmdHdr) (a : BenchDataArgs) (s : State) : Host.Outcome State Fault Refusal :=
  .next (untimedCmd h (dataBad a) (fun t s =>
    match dataObj s a with
    | .inl st => complete t st 0 s
    | .inr o =>
      if o.kind.busy then complete t 0x44 0 s
      else if dmaHalted s then complete t St.busError 0 s
      else
        let n := a.length.toNat
        let bs := hostRead s a.addr.toNat n
        let ws := (List.range (n / 4)).map fun i => BitVec.ofNat 32 (ofLe ((bs.drop (4 * i)).take 4))
        complete t St.ok 0 (setObj a.handle.toNat { o with words := mapPutList 0 o.words (a.offset.toNat / 4) ws } s)) s)

/-- BENCH_READ (R153, R159): an uncorrectable word is returned as zero. -/
def execBenchRead (h : CmdHdr) (a : BenchDataArgs) (errors : List ReadDramError) (s : State) :
    Host.Outcome State Fault Refusal :=
  .next (untimedCmd h (dataBad a) (fun t s =>
    match dataObj s a with
    | .inl st => complete t st 0 s
    | .inr o =>
      if dmaHalted s then complete t St.busError 0 s
      else
        let s1 := errors.foldl (fun s e => benchError e.err s) s
        let lost := errors.filter fun e => e.err.uncorrectable
        let word (i : Nat) : Nat :=
          if lost.any fun e => e.offset / 8 = 4 * i / 8 then 0 else (mapGetD 0 o.words i).toNat
        let first := a.offset.toNat / 4
        let bytes := (List.range (a.length.toNat / 4)).flatMap fun i => leBytes 4 (word (first + i))
        let r := match minOf (lost.map fun e => e.offset) with
          | none => (St.ok, 0)
          | some off => (0x45, off)
        resultWith none t a.addr.toNat bytes r.1 r.2 s1) s)

/-- One item of a SNAP_TAKE list from its bytes (R154). -/
def snapItem (b : List Byte) : Option SnapItem :=
  let f (o n : Nat) : Nat := ofLe ((b.drop o).take n)
  match toFin? 16 (f 1 1) with
  | none => none
  | some t =>
    if f 2 2 ≠ 0 ∨ f 12 4 ≠ 0 then none
    else if f 0 1 = 1 ∧ f 4 4 < 2 ^ 19 then some { ramps := false, tile := t, waddr := f 4 4, count := f 8 4 }
    else if f 0 1 = 2 ∧ f 4 4 = 0 ∧ f 8 4 = 256 then some { ramps := true, tile := t, waddr := 0, count := 256 }
    else none

/-- The item list in host memory. -/
def snapList (s : State) (addr : Nat) : Nat → Option (List SnapItem)
  | 0 => some []
  | n + 1 => match snapItem (hostRead s addr 16), snapList s (addr + 16) n with
    | some i, some l => some (i :: l)
    | _, _ => none

/-- The refusals of a SNAP_TAKE (R154, R155): the object, then the item list, which is read before acceptance. -/
def snapRefusal (a : SnapTakeArgs) (list : Option (List SnapItem)) (s : State) : Option (Nat × Nat) :=
  match needObj a.handle 4 (fun _ => true) s with
  | some r => some r
  | none =>
    if dmaHalted s then some (St.busError, 0)
    else
      match list with
      | none => some (St.badArg, 0)
      | some l => needObj a.handle 4 (fun o => decide (l.foldl (fun x i => x + i.count) 0 ≤ o.size)) s

/-- SNAP_TAKE (R154). -/
def execSnapTake (h : CmdHdr) (a : SnapTakeArgs) (s : State) : Host.Outcome State Fault Refusal :=
  let n := a.count.toNat
  let list := snapList (hostStores h.stores s) a.addr.toNat n
  .next (timedCmd h a.tick (decide (n = 0) || decide (256 < n) || !aligned8 a.addr) (snapRefusal a list)
    noPre (.snapTake a.handle.toNat (list.getD [])) s)

/-- BENCH_QUERY (R157): its values are taken at the next boundary. -/
def execBenchQuery (h : CmdHdr) (bench : Byte) (handle : BitVec 16) (resultAddr : BitVec 64) (s : State) :
    Host.Outcome State Fault Refusal :=
  .next (untimedCmd h (decide (64 ≤ bench.toNat) || !aligned8 resultAddr) (fun t s =>
    match toFin? 64 bench.toNat, benchOf s bench.toNat with
    | some b, some _ =>
      let known : Bool := handle = 0 || (objOf s handle.toNat).elim false fun o => o.bench = b
      if known then
        { s with mem := { s.mem with queries := s.mem.queries ++
            [{ ticket := t, bench := b, handle := handle.toNat, addr := resultAddr }] } }
      else complete t 0x41 0 s
    | _, _ => complete t 0x40 0 s) s)

/-- SCRUB (R160): a stretch of the scrubber's pass, the errors it met and the progress it has reached; at 100 % the pass is
complete and the next begins. -/
def execScrub (errors : List DramError) (percent : BitVec 7) (s : State) : Host.Outcome State Fault Refusal :=
  if !regBit s Reg.scrubCtrl 0 || s.power.state ≠ .running then .next s
  else
    let s1 := errors.foldl (fun s e => dramError e s) s
    if percent.toNat < 100 then .next (regSetFld Reg.scrubStat 30 24 percent.toNat s1)
    else .next (regSetFld Reg.scrubStat 30 24 0 (bumpFld Reg.scrubStat 15 0 1 s1))

end Sys2Proof.Machine
end

