-- ==== Sys2Proof/Machine/Ports.lean ====
section
/-!
DEFINITION. The commands and events of the serial audio ports and AES3 transceivers (R309–R328).
-/
namespace Sys2Proof.Machine

/-! ### Commands (R314–R316, R326, R327) -/

/-- The port that a PORT byte names; none where it names none. -/
def portOf (x : PortSel) : Option (Fin 12) := if x.aes then toFin? 12 (if x.index.toNat < 4 then 8 + x.index.toNat else 12) else toFin? 12 x.index.toNat

/-- Refusals of a start or of new masks at acceptance (R320). -/
def asrcFull (s : State) (p : Fin 12) (need : Nat) : Option (Nat × Nat) := if 256 < asrcOthers s p + need then some (0x41, 0) else none

/-- Allocate ASRC channels to a port. -/
def setAsrc (p : Fin 12) (n : Nat) (s : State) : State := portMod p (fun x => { x with asrc := n }) s

/-- The shadow masks a port will have when the PORT_SLOTS that wait for their ticks have committed (R320). -/
def pendingMasks (s : State) (p : Fin 12) : Vector Word 4 :=
  s.timed.foldl (fun m t => match t.act with
    | .portSlots q w l => if serialPort q = p then writeMasks m w l else m
    | _ => m) s.ports.port[p].shadow

/-- PORT_START (R314, R315, R320, R326): at its tick, or armed on a trigger from acceptance; one for a port that is not STOPPED
waits for its trigger too, since its state is judged at the boundary at which it would take effect. -/
def execPortStart (h : CmdHdr) (tick : BitVec 64) (port : PortSel) (trigger : Byte) (s0 : State) : Host.Outcome State Fault Refusal :=
  match portOf port with
  | none => fin (badTimed h s0)
  | some p =>
    if 4 < trigger.toNat ∨ (trigger ≠ 0 ∧ tick ≠ 0) then fin (badTimed h s0)
    else
      let need (s : State) : Nat := asrcNeed p (regGet s (portCfgReg p)) (pendingMasks s p)
      if trigger = 0 then
        fin (timedCmd h tick false (fun s => asrcFull s p (need s))
          (fun _ _ s => if s.ports.port[p].state = .stopped then setAsrc p (need s) s else s) (.portStart p) s0)
      else
        let s := hostStores h.stores s0
        if takeable h.ring h.ordered true s then
          let a := accept h s
          if h.reservedSet then fin (complete a.1 St.badArg 0 a.2)
          else if fenced a.2 (.port p) then fin (complete a.1 St.fenced 0 a.2)
          else if a.2.ports.port[p].state ≠ .stopped then
            fin (portMod p (fun x => { x with waits := x.waits ++
              [(a.1, ⟨(trigger.toNat - 1) % 4, Nat.mod_lt _ (by decide)⟩, none)] }) a.2)
          else match asrcFull a.2 p (need a.2) with
            | some r => fin (complete a.1 r.1 r.2 a.2)
            | none => fin (setAsrc p (need a.2) (portMod p (fun x =>
                { x with state := .armed, armed := some (a.1, ⟨(trigger.toNat - 1) % 4, Nat.mod_lt _ (by decide)⟩), fireAt := none }) a.2))
        else .next s

/-- PORT_START at its boundary (R314, R326). -/
def applyPortStart (p : Fin 12) (s : State) : Nat × State :=
  if s.ports.port[p].state ≠ .stopped then (if fenced s (.port p) then St.fenced else 0x40, s)
  else if fenced s (.port p) then (St.fenced, setAsrc p 0 s)
  else (St.ok, beginPort p none (preclkOf s p) s)

/-- PORT_STOP (R316). -/
def execPortStop (h : CmdHdr) (tick : BitVec 64) (port : PortSel) (s : State) : Host.Outcome State Fault Refusal :=
  match portOf port with
  | none => fin (badTimed h s)
  | some p => fin (timedCmd h tick false noRefusal noPre (.portStop p) s)

/-- PORT_STOP at its boundary (R316): a STOPPED port refuses it, an ARMED one is disarmed, a slave without a clock stops at
once; every other runs its POSTCLK frames. -/
def applyPortStop (p : Fin 12) (s : State) : Nat × State :=
  let x := s.ports.port[p]
  match x.state with
  | .stopped => (0x40, s)
  | .armed => (St.ok, stopAtOnce p s)
  | .stopping => (St.ok, s)
  | _ =>
    if !isAes p && decide (portRole p x.cfg ≠ 0) && !x.clkPresent then (St.ok, enterStopped p s)
    else (St.ok, portMod p (fun x => { x with state := .stopping, postLeft := if isAes p then 64 else fld x.seq 31 16, dataOn := false, ready := false, group := none, outFade := none }) s)

/-- The POSTCLK frames of a port have run or end in this tick (R316): a master's and a transmitter's come at fs, a slave's with
its clock. -/
def postclkOver (s : State) (p : Fin 12) : Bool :=
  let x := s.ports.port[p]
  if isAes p || decide (portRole p x.cfg = 0) then decide (x.postLeft ≤ spt s) else decide (x.postLeft = 0)

/-- POSTCLK_END (R316). -/
def execPostclkEnd (port : Fin 12) (s : State) : Host.Outcome State Fault Refusal :=
  if s.ports.port[port].state = .stopping ∧ postclkOver s port then fin (enterStopped port s) else .next s

/-- Bits of a mask at or above the lane's slot count. -/
def maskBad (s : State) (p : Fin 8) (a : PortSlotsArgs) : Bool :=
  let n := portSlotCount s (regGet s (Reg.portCfg p))
  (List.range 4).any fun m => a.write.getLsbD m && decide (2 ^ n ≤ (a.masks.getD m 0).toNat)

/-- The masks a port would have with a command's writes. -/
def plannedMasks (s : State) (p : Fin 8) (a : PortSlotsArgs) : Vector Word 4 :=
  writeMasks (pendingMasks s (serialPort p)) a.write a.masks

/-- A port has channels of the ASRC (R320): from the acceptance of its start until it is STOPPED. -/
def holdsAsrc (s : State) (p : Fin 8) : Bool :=
  decide (s.ports.port[serialPort p].state ≠ .stopped) || s.timed.any fun t => decide (t.act = .portStart (serialPort p))

/-- The configuration a port runs with, or will start with (R329). -/
def startCfg (s : State) (p : Fin 8) : Word :=
  match s.ports.port[serialPort p].state with
  | .stopped | .armed => regGet s (Reg.portCfg p)
  | _ => s.ports.port[serialPort p].cfg

/-- PORT_SLOTS (R311, R312, R320, R327). -/
def execPortSlots (h : CmdHdr) (a : PortSlotsArgs) (s : State) : Host.Outcome State Fault Refusal :=
  let p : Fin 8 := a.port.index.toFin
  let bad : Bool := a.port.aes || maskBad s p a || (a.immediate && decide (a.tick ≠ 0)) || decide (a.masks.length ≠ 4)
  let need (s : State) : Nat := if holdsAsrc s p then asrcNeed (serialPort p) (startCfg s p) (plannedMasks s p a) else 0
  let take (s : State) : State := if holdsAsrc s p then setAsrc (serialPort p) (need s) s else s
  if a.immediate then
    fin (untimedCmd h bad (fun t s =>
      match asrcFull s (serialPort p) (need s) with
      | some r => complete t r.1 r.2 s
      | none => complete t St.ok 0 (commitNow p a.write a.masks (take s))) s)
  else
    fin (timedCmd h a.tick bad (fun s => asrcFull s (serialPort p) (need s)) (fun _ _ s => take s)
      (.portSlots p a.write a.masks) s)

/-- Does an action name a serial port as its object (R20)? -/
def namesPort (p : Fin 8) : Action → Bool
  | .portSlots q _ _ | .roleSet q _ => q = p
  | .portStart q | .portStop q => decide (q.val = p.val)
  | _ => false

/-- The commits of a tick's PORT_SLOTS at the opening of the tick kerf before it (R312): of the commands for that tick that name
one port the last accepted counts (R20). -/
def commitsAtKerf (s : State) : State :=
  let n := now s + 1
  (fins 8).foldl (fun s p =>
    match (s.timed.filter fun t => decide (t.tick = n) && namesPort p t.act).getLast? with
    | some t => (match t.act with | .portSlots _ w m => commitAt p w m n s | _ => s)
    | none => s) s

/-! ### Events -/

/-- PORT_READY (R314, R319): the port has acquired its frames and locked, its DLL at the phase just measured (R253), its ASRC with a
ratio within 0.25–4 (R320); after a rate fault only once the rate has stayed in range (R318). -/
def execPortReady (port : Fin 12) (rate ratio : Word) (s : State) : Host.Outcome State Fault Refusal :=
  let x := s.ports.port[port]
  let r := portRole port x.cfg
  if (x.state = .starting ∨ x.state = .fault) ∧ !x.rateFault ∧ (r ≠ 2 ∨ (2 ^ 26 ≤ ratio.toNat ∧ ratio.toNat ≤ 2 ^ 30 ∧
      (!isAes port ∨ rate.toNat ≤ 192000000))) then
    .next (portMod port (fun x =>
      { x with ready := true, clkPresent := true, frameAlign := true, dllLock := decide (r ≠ 2), asrcLock := decide (r = 2),
               rate := rate, ratio := if r = 2 then ratio else 0, glitches := 0, lockPhase := x.phase }) s)
  else .next s

/-- A starting port is not ready some time after N + ceil(PRECLK / S). -/
def startLate (s : State) (x : Port) (us : Nat) : Bool :=
  decide (x.state = .starting) && !x.ready && decide (dataEarliest s x + ticksOfUs s us ≤ now s)

/-- PORT_START_TIMEOUT (R314): 1 s. -/
def execPortStartTimeout (port : Fin 12) (s : State) : Host.Outcome State Fault Refusal :=
  let x := s.ports.port[port]
  if startLate s x 1000000 then fin (raise Src.portClkLost port 0 s) else .next s

/-- START_SPLIT (R315): after 100 ms the port leaves its group. -/
def execStartSplit (port : Fin 12) (s : State) : Host.Outcome State Fault Refusal :=
  let x := s.ports.port[port]
  if startLate s x 100000 ∧ x.group.isSome then
    let s1 := portMod port (fun x => { x with group := none }) s
    .next (if isAes port then s1 else sticky (Reg.portErrStat port) 4 s1)
  else .next s

/-- The error register of a port: CLK_LOST 0, SPALL 1, RESYNC 2, RATE 3 (R329, R330). -/
def portErrReg (p : Fin 12) : Nat := if isAes p then Reg.aesErrStat (aesOf p) else Reg.portErrStat p

/-- Count spalled frames or samples (R318, R329, R330). -/
def countSpall (p : Fin 12) (n : Nat) (s : State) : State :=
  sticky (portErrReg p) 1
    (if isAes p then bumpFld (Reg.aesErrCount (aesOf p)) 15 0 n s else bump (Reg.portSpallCount p) n s)

/-- PORT_CLOCK_STOP (R316–R318, R329): the clock of a slave, a receiver or a port that is not running. A serial slave that is
stopping then releases its lanes at once. -/
def execPortClockStop (port : Fin 12) (s : State) : Host.Outcome State Fault Refusal :=
  let x := s.ports.port[port]
  let idle : Bool := decide (x.state = .stopped) || decide (x.state = .armed)
  if !x.clkPresent ∨ (portRole port x.cfg = 0 ∧ !idle) then .next s
  else
    let s1 := portMod port (fun x => { x with clkPresent := false, rate := 0, rates := [] }) s
    if idle then .next s1
    else if x.state = .stopping ∧ !isAes port then fin (enterStopped port s1)
    else if x.state = .running ∨ x.state = .fault then
      fin (raise Src.portClkLost port 0 (sticky (portErrReg port) 0
        (portMod port (fun x => { x with clkLosses := satN 32 (x.clkLosses + 1) }) (portFault port s1))))
    else .next (portFault port s1)

/-- A resynchronization (R318): three glitches or a slip. -/
def resync (p : Fin 12) (s : State) : State :=
  raise Src.portResync p 0 (sticky (portErrReg p) 2
    (portMod p (fun x => { x with resyncs := satN 32 (x.resyncs + 1) }) (portFault p s)))

/-- The rate of a port that is off (R317, R318): a synchronous port after 8 frames, an asynchronous one at once. -/
def rateStep (p : Fin 12) (off : Bool) (s : State) : State :=
  let x := s.ports.port[p]
  if x.rateFault then
    let k := if off then 0 else x.rateRun + 1
    let done : Bool := !off && (decide (portRole p x.cfg = 2) || decide (8 ≤ k))
    portMod p (fun x => { x with rateRun := if done then 0 else k, rateFault := !done }) s
  else if !off then portMod p (fun x => { x with rateRun := 0 }) s
  else
    let k := x.rateRun + 1
    if portRole p x.cfg = 2 ∨ 8 ≤ k then
      if x.state = .running then
        raise Src.portRate p 0 (sticky (portErrReg p) 3 (portFault p (portMod p (fun x => { x with rateFault := true, rateRun := 0 }) s)))
      else portMod p (fun x => { x with ready := false, rateFault := true, rateRun := 0 }) s
    else portMod p (fun x => { x with rateRun := k }) s

/-- A received serial slot (R306). -/
def slotIn (s : State) (w : Word) : Sample := w <<< (32 - slotWidth s)

/-- A received subframe (R323): its 24-bit data word, none on a parity error; V makes it invalid unless V_IGNORE. -/
def subframeIn (cfg : Word) (w : Word) : Option Sample × Bool :=
  if oddParity 28 w.toNat then (none, false)
  else (some (BitVec.ofNat 32 (fld w 23 0 * 256)), flag cfg 4 || !flag w 24)

/-- One more bit of a received block (R323): after the 192nd it is complete. -/
def AesBlock.rx (b : AesBlock) (z bit : Bool) : AesBlock × Option (List Byte) :=
  let bits := if z then some [bit] else b.bits.map fun l => l ++ [bit]
  match bits with
  | some l =>
    if l.length = 192 then
      ({ b with bits := none }, some ((List.range 24).map fun i =>
        BitVec.ofNat 8 ((List.range 8).foldl (fun a j => a + bitAt (l.getD (8 * i + j) false) j) 0)))
    else ({ b with bits := some l }, none)
  | none => (b, none)

/-- The channel-status and user bits of a good AES3 frame. -/
def aesBits (p : Fin 12) (f : PortFrameIn) (s : State) : State :=
  (fins 2).foldl (fun s (b : Fin 2) =>
    let w := f.slots.getD b.val 0
    let c := s.ports.port[p].cs[b].rx f.z (flag w 26)
    let u := s.ports.port[p].user[b].rx f.z (flag w 25)
    portMod p (fun x =>
      { x with cs := vset x.cs b (match c.2 with | some l => { c.1 with ready := some l } | none => c.1),
               user := vset x.user b (match u.2 with | some l => { u.1 with good := some l } | none => u.1) }) s) s

/-- The slots of a good frame (R306, R323). -/
def frameSlots (s : State) (p : Fin 12) (f : PortFrameIn) : List (Option Sample × Bool) :=
  if isAes p then (List.range 2).map fun i => subframeIn s.ports.port[p].cfg (f.slots.getD i 0)
  else f.slots.map fun w => (some (slotIn s w), true)

/-- A good frame before data is on is kept for the position it carries (R314). -/
def keepFrame (p : Fin 12) (pos : Nat) (f : PortFrameIn) (s : State) : State :=
  portMod p (fun x => { x with inBuf := mapPut x.inBuf pos (.frame (frameSlots s p f)) }) s

/-- A good frame at its position (R306, R310, R323). -/
def goodFrame (p : Fin 12) (pos : Nat) (f : PortFrameIn) (s : State) : State :=
  let slots := frameSlots s p f
  let bad := if isAes p then (slots.filter fun v => v.1.isNone).length else 0
  let s1 := portMod p (fun x => { x with inBuf := mapPut x.inBuf pos (.frame slots), glitches := 0 }) s
  let s2 := if isAes p then aesBits p f s1 else s1
  if bad = 0 then s2
  else countSpall p bad (sticky (Reg.aesErrStat (aesOf p)) 4
    (portMod p (fun x => { x with parityErrs := satN 32 (x.parityErrs + bad) }) s2))

/-- A glitch (R318): a spall, or a resynchronization at the third in a row. -/
def glitch (p : Fin 12) (pos : Nat) (onGrid : Bool) (s : State) : State :=
  let x := s.ports.port[p]
  if 2 ≤ x.glitches then resync p (countSpall p (if isAes p then 2 else 1) s)
  else
    countSpall p (if isAes p then 2 else 1) (portMod p (fun x =>
      { x with glitches := x.glitches + 1, inBuf := mapPut x.inBuf pos .spall,
               lostOut := if isAes p then x.lostOut else x.lostOut ++ [pos - (if onGrid then 1 else 2)],
               cs := vmap (fun (b : AesBlock) => { b with bits := none }) x.cs,
               user := vmap (fun (b : AesBlock) => { b with bits := none }) x.user }) s)

/-- The rate of a port is off (R317): more than 1 % from fs on a synchronous one; outside the ASRC's range, or a step of more
than 1 % over 8 frames, on an asynchronous one. -/
def rateOff (s : State) (p : Fin 12) (x : Port) (rate : Nat) : Bool :=
  let f := 1000 * fs s
  if portRole p x.cfg = 2 then
    decide (4 * rate < f) || decide (4 * f < rate) || (isAes p && decide (192000000 < rate)) ||
      (match x.rates[7]? with | some (r : Nat) => decide (r < 100 * ((rate : Int) - (r : Int)).natAbs) | none => false)
  else decide (f < 100 * ((rate : Int) - f).natAbs)

/-- The DLL's measured phase has moved by more than 1/4 sample from its value at lock (R253). -/
def slipped (s : State) (x : Port) : Bool := x.dllLock && decide (16 * (mediaHz s / fs s) < (x.phase - x.lockPhase).natAbs)

/-- PORT_FRAME (R253, R306, R310, R314, R316–R318, R323, R329): the clock that every port sees; checks of slaves and receivers; the
samples of a port whose data is on, or which is ready and may turn it on at the next boundary. -/
def execPortFrame (port : Fin 12) (f : PortFrameIn) (s : State) : Host.Outcome State Fault Refusal :=
  let x := s.ports.port[port]
  let pos := spt s * now s + f.ahead.val
  let slave : Bool := decide (portRole port x.cfg ≠ 0)
  let s1 := portMod port (fun x =>
    { x with clkPresent := true, rate := f.rate, phase := f.phase, rates := (f.rate.toNat :: x.rates).take 8 }) s
  match x.state with
  | .stopped | .armed => .next s1
  | .stopping => .next (portMod port (fun x => { x with postLeft := if slave && !isAes port then x.postLeft - 1 else x.postLeft }) s1)
  | st =>
    let s2 := if slave then rateStep port (rateOff s port x f.rate.toNat) s1 else s1
    let bad : Bool := slave && (f.bad || decide (f.bits ≠ portFrameBits s port x.cfg))
    if slave && decide (portRole port x.cfg = 1) && slipped s2 s2.ports.port[port] then
      fin (resync port (raise Src.dllSlip port 0 s2))
    else if s2.ports.port[port].state ≠ .running ∨ st ≠ .running then
      fin (if s2.ports.port[port].ready && !bad then keepFrame port pos f s2 else s2)
    else if bad then fin (glitch port pos f.onGrid s2)
    else fin (goodFrame port pos f s2)

/-- AES_CS_BLOCK (R324): the complete block of a subframe is checked, kept or discarded; a change is reported. -/
def execAesCsBlock (aes : Fin 4) (subframe : Fin 2) (s : State) : Host.Outcome State Fault Refusal :=
  let p := aesPort aes
  let b := s.ports.port[p].cs[subframe]
  match b.ready with
  | none => .next s
  | some l =>
    let s1 := portMod p (fun x => { x with cs := vset x.cs subframe { b with ready := none } }) s
    if (l.headD 0).getLsbD 0 && decide (aesCrc l ≠ l.getD 23 0) then
      fin (raise Src.aesCsCrc aes 0 (sticky (Reg.aesErrStat aes) 5 (bumpFld (Reg.aesErrCount aes) 31 16 1 s1)))
    else
      let s2 := portMod p (fun x => { x with cs := vset x.cs subframe { b with ready := none, good := some l } }) s1
      match b.good with
      | some g => if g = l then .next s2 else fin (report 0x0503 aes [BitVec.ofNat 8 subframe] (sticky (Reg.aesErrStat aes) 6 s2))
      | none => .next s2

/-- AES_CS_SET (R324, R327). -/
def execAesCsSet (h : CmdHdr) (a : AesCsSetArgs) (s : State) : Host.Outcome State Fault Refusal :=
  let bad : Bool := !a.port.aes || decide (3 < a.port.index.toNat) || decide (a.block.length ≠ 24)
  fin (timedCmd h a.tick bad noRefusal noPre
    (.aesCs ⟨a.port.index.toNat % 4, Nat.mod_lt _ (by decide)⟩ a.subframe.toFin a.user a.block) s)

/-- AES_CS_SET at its boundary: the block waits for the next Z preamble. -/
def applyAesCs (n : Fin 4) (sub : Fin 2) (user : Bool) (block : List Byte) (s : State) : State :=
  portMod (aesPort n) (fun x =>
    if user then { x with user := vmod x.user sub fun b => { b with txNext := some block } }
    else { x with cs := vmod x.cs sub fun b => { b with txNext := some block } }) s

/-- PULSE_ALIGN on the frame sync of a running master (R256): where the grid has moved since its start, the frame that is
stretched is spalled (DEDUCED, log 85). -/
def alignFrameSync (p : Fin 8) (s : State) : State :=
  let q := serialPort p
  let x := s.ports.port[q]
  if portRole q x.cfg = 0 ∧ x.state = .running ∧ x.offGrid then
    countSpall q 1 (portMod q (fun x => { x with offGrid := false, inBuf := mapPut x.inBuf (spt s * now s) .spall }) s)
  else s

/-! ### Queries and registers (R328–R331) -/

/-- The code of a port state (R328). -/
def PortRun.code : PortRun → Nat
  | .stopped => 0 | .starting => 1 | .running => 2 | .fault => 3 | .stopping => 4 | .armed => 5

/-- Bits 4–8 of PORT_STAT and the FLAGS of PORT_QUERY. -/
def twinDriving (s : State) (p : Fin 12) : Bool :=
  match vget? s.fabric.twins p.val with
  | some t => decide (t.role ≠ 0) && t.driving && !s.sump.aside
  | none => false

/-- A 24-byte block, zero while there is none. -/
def blockBytes (b : Option (List Byte)) : List Byte := b.getD (List.replicate 24 0)

/-- CS_PRO of a subframe (R328). -/
def csPro (x : Port) (i : Fin 2) : Bool := ((blockBytes x.cs[i].good).headD 0).getLsbD 0

/-- The result of PORT_QUERY or AES_QUERY (R328). -/
def portBytes (s : State) (p : Fin 12) : List Byte :=
  let x := s.ports.port[p]
  if isAes p then
    blockBytes x.cs[0].good ++ blockBytes x.cs[1].good ++ blockBytes x.user[0].good ++ blockBytes x.user[1].good ++
      leBytes 1 x.state.code ++
      leBytes 1 (bitAt x.dataOn 0 + bitAt x.frameAlign 1 + bitAt (csPro x 0) 2 + bitAt (csPro x 1) 3 + bitAt x.asrcLock 4) ++
      leBytes 2 0 ++ leBytes 4 x.rate.toNat ++ leBytes 4 (regFld s (Reg.aesErrCount (aesOf p)) 15 0) ++
      leBytes 4 (regFld s (Reg.aesErrCount (aesOf p)) 31 16) ++ leBytes 4 x.parityErrs ++ leBytes 12 0
  else
    leBytes 1 x.state.code ++
      leBytes 1 (bitAt x.dataOn 0 + bitAt x.frameAlign 1 + bitAt x.dllLock 2 + bitAt x.asrcLock 3 + bitAt (twinDriving s p) 4) ++
      leBytes 2 0 ++ leBytes 4 x.rate.toNat ++ leBytes 4 x.ratio.toNat ++ leBytes 4 (regGet s (Reg.portSpallCount p)).toNat ++
      leBytes 4 x.clkLosses ++ leBytes 4 x.resyncs ++
      ((masksAt x true (spt s * now s)).toList.flatMap fun m => leBytes 4 m.toNat) ++ leBytes 8 x.dataTick ++ leBytes 16 0

/-- A query waits for the next boundary. -/
def portQuery (h : CmdHdr) (p : Option (Fin 12)) (resultAddr : BitVec 64) (s : State) : Host.Outcome State Fault Refusal :=
  fin (untimedCmd h (p.isNone || !aligned8 resultAddr) (fun t s =>
    match p with
    | some p => { s with ports := { s.ports with queries := s.ports.queries ++ [{ ticket := t, port := p, addr := resultAddr }] } }
    | none => s) s)

/-- PORT_QUERY (R327, R328): a serial port. -/
def execPortQuery (h : CmdHdr) (port : PortSel) (resultAddr : BitVec 64) (s : State) : Host.Outcome State Fault Refusal :=
  portQuery h (if port.aes then none else portOf port) resultAddr s

/-- AES_QUERY (R327, R328). -/
def execAesQuery (h : CmdHdr) (port : PortSel) (resultAddr : BitVec 64) (s : State) : Host.Outcome State Fault Refusal :=
  portQuery h (if port.aes then portOf port else none) resultAddr s

/-- Answer the port queries at a boundary. -/
def runPortQueries (s : State) : State :=
  s.ports.queries.foldl (fun s q => resultThen q.ticket q.addr.toNat (portBytes s q.port) St.ok s)
    { s with ports := { s.ports with queries := [] } }

/-- PORT_STAT, AES_STAT and PORT_MASK_m (R329, R330). -/
def portStat (s : State) (p : Fin 12) : Word :=
  let x := s.ports.port[p]
  if isAes p then
    BitVec.ofNat 32 (x.state.code + bitAt x.dataOn 3 + bitAt x.frameAlign 4 + bitAt (csPro x 0) 5 + bitAt x.asrcLock 6)
  else
    BitVec.ofNat 32 (x.state.code + bitAt x.dataOn 3 + bitAt x.clkPresent 4 + bitAt x.frameAlign 5 + bitAt x.dllLock 6 +
      bitAt x.asrcLock 7 + bitAt (twinDriving s p) 8)

def portMaskView (s : State) (p : Fin 12) (m : Fin 4) : Word := (masksAt s.ports.port[p] true (spt s * now s))[m]

end Sys2Proof.Machine
end

