-- ==== Sys2Proof/Machine/Prot.lean ====
section
/-!
DEFINITION. Two-party protection (R465–R469, R476): requester classes, proposals, confirmations, refusals, and the committed
values in the configuration store.
-/
namespace Sys2Proof.Machine

/-- The requester class of an access path (R466); 3 = none. -/
def pathClass : AccessPath → Nat
  | .bar0 => 0 | .tunnelReg => 1 | .mb1 => 2 | .dma => 3 | .mb0 => 3

/-- The reasons of a refusal (R468, R476). -/
def Refuse.directWrite : Nat := 4
def Refuse.busy : Nat := 5
def Refuse.sameClass : Nat := 6
def Refuse.crcMismatch : Nat := 7
def Refuse.noProposal : Nat := 8
def Refuse.timeout : Nat := 9
def Refuse.noClass : Nat := 10

def protMod (f : Prot → Prot) (s : State) : State := { s with prot := f s.prot }

/-- Record a refusal (R468): counted, kept in PROT_LAST_REFUSE, raised with the class as its instance and with that record as its DETAIL. `word` is the offset ÷ 4
of a DIRECT_WRITE. -/
def refuse (cls reason word : Nat) (s : State) : State :=
  let last := BitVec.ofNat 32 (cls % 4 + reason * 16 + word * 65536)
  raise Src.protRefused (cls % 4) last.toNat
    (regSet Reg.protLastRefuse last
      (bump Reg.protRefuseCount 1 (protMod (fun p => { p with lastResult := reason }) s)))

/-- Word `j` (0 OFS, 1 VAL, 2 MASK) of item k. -/
def protItem (s : State) (k j : Nat) : Word := regGet s (Reg.protItemOfs k + 4 * j)

/-- The bits two-party protection alone changes in the register at an offset (R465); 0 where there are none. -/
def rwpMask (off : Nat) : Word := (regRow off).elim 0 fun r => r.rwp

/-- Does item k pass the check of a PROPOSE (R467)? -/
def itemOk (s : State) (k : Nat) : Bool :=
  let off := (protItem s k 0).toNat
  let m := rwpMask off
  decide (off % 4 = 0) && decide (m ≠ 0) && decide (protItem s k 2 &&& ~~~ m = 0) &&
    decide (protItem s k 1 &&& ~~~ (protItem s k 2) = 0)

/-- The bytes a confirmation is computed over: the items, then the nonce (R467). -/
def proposalBytes (s : State) : List Byte :=
  ((List.range s.prot.count).flatMap fun k => leBytes 4 (protItem s k 0).toNat ++ leBytes 4 (protItem s k 1).toNat ++
    leBytes 4 (protItem s k 2).toNat) ++ leBytes 4 s.prot.nonce.toNat

/-- End the proposal: STATE returns to IDLE and the nonce reads 0. -/
def endProposal (s : State) : State := protMod (fun p => { p with proposed := false, nonce := 0, count := 0 }) s

/-- Write one protected register under its mask: (old AND NOT MASK) OR VAL. -/
def applyItem (s : State) (k : Nat) : State :=
  let off := (protItem s k 0).toNat
  let src := (off - 0x8400) / 4
  let old := severity s src
  let s1 := regSet off ((regGet s off &&& ~~~ (protItem s k 2)) ||| protItem s k 1) s
  if 0x8400 ≤ off ∧ off < 0x8800 then severityChanged src old s1 else s1

/-- The protected values in force that differ from the reset values, as the store keeps them (R465). -/
def rwpInForce (s : State) : Regs :=
  s.regs.filterMap fun e =>
    let m := rwpMask e.1
    if m = 0 ∨ e.2 &&& m = regReset e.1 &&& m then none else some (e.1, e.2 &&& m)

/-- Both copies of the configuration store. -/
def storeMod (f : StoreCopy → StoreCopy) (s : State) : State := { s with flash := { s.flash with copies := vmap f s.flash.copies } }

/-- A PROPOSE (R467); its nonce is a new non-zero value of the entropy source, a free value. -/
def propose (cls count : Nat) (s : State) : State :=
  if cls = 3 then refuse 3 Refuse.noClass 0 s
  else if s.prot.proposed then refuse cls Refuse.busy 0 s
  else if count = 0 ∨ 16 < count ∨ !(List.range count).all (itemOk s) then protMod (fun p => { p with lastResult := 2 }) s
  else
    let f := freshFree 32 s
    protMod (fun p => { p with proposed := true, classA := ⟨cls % 4, Nat.mod_lt _ (by decide)⟩, count := count,
                               nonce := BitVec.ofNat 32 (f.1 % (2 ^ 32 - 1) + 1), proposedAt := s.time.refTime }) f.2

/-- A WITHDRAW (R468). -/
def withdraw (cls : Nat) (s : State) : State :=
  if cls = 3 then refuse 3 Refuse.noClass 0 s
  else if !s.prot.proposed then refuse cls Refuse.noProposal 0 s
  else if s.prot.classA.val ≠ cls then refuse cls Refuse.busy 0 s
  else protMod (fun p => { p with lastResult := 3 }) (endProposal s)

/-- Commit the proposal (R467, R469): every item at once, then the store write begins. -/
def commitProposal (s : State) : State :=
  let s1 := (List.range s.prot.count).foldl applyItem s
  protMod (fun p => { p with lastResult := 1, commitSeq := satN 16 (p.commitSeq + 1), storeBusy := true }) (endProposal s1)

/-- A write of PROT_CONFIRM (R467, R468): CRC_6 computes the check (R423). -/
def protConfirm (cls : Nat) (value : Word) (s : State) : State :=
  if cls = 3 then refuse 3 Refuse.noClass 0 s
  else if !s.prot.proposed then refuse cls Refuse.noProposal 0 s
  else if s.prot.classA.val = cls then refuse cls Refuse.sameClass 0 s
  else
    let r := crc32c (proposalBytes s)
    let s1 := crcLeft 6 r (proposalBytes s).length s
    if value = r then commitProposal s1 else refuse cls Refuse.crcMismatch 0 (endProposal s1)

/-- A write of PROT_CMD (R476). -/
def protCmd (cls : Nat) (value : Word) (s : State) : State :=
  match fld value 1 0 with
  | 1 => propose cls (fld value 12 8) s
  | 2 => withdraw cls s
  | _ => if cls = 3 then refuse 3 Refuse.noClass 0 s else s

/-- A write of an item register (R467, R468). -/
def protItemWrite (cls off : Nat) (value : Word) (s : State) : State :=
  if cls = 3 then refuse 3 Refuse.noClass 0 s
  else if s.prot.proposed then refuse cls Refuse.busy 0 s
  else regSet off value s

/-- PROT_TIMEOUT (R468): 10 s without a matching confirmation. -/
def execProtTimeout (s : State) : Host.Outcome State Fault Refusal :=
  if s.prot.proposed ∧ mayHavePassed s s.prot.proposedAt (10 * refSecond) = true then
    fin (refuse s.prot.classA.val Refuse.timeout 0 (endProposal s))
  else .next s

/-- PROT_STORE_DONE (R469): the committed values stand in both copies. -/
def execProtStoreDone (s : State) : Host.Outcome State Fault Refusal :=
  if s.prot.storeBusy then
    .next (storeMod (fun c => { c with rwp := rwpInForce s, commitSeq := BitVec.ofNat 16 s.prot.commitSeq })
      (protMod (fun p => { p with storeBusy := false }) s))
  else .next s

/-- SECONDS_LEFT (R476): the whole seconds that have begun. -/
def secondsLeft (s : State) : Nat :=
  if s.prot.proposed then ceilDiv (s.prot.proposedAt + 10 * refSecond - s.time.refTime) refSecond else 0

/-- PROT_STAT (R476). -/
def protStat (s : State) : Word :=
  BitVec.ofNat 32 (bitAt s.prot.proposed 0 + bitAt s.prot.storeBusy 1 + s.prot.classA.val * 4 + s.prot.lastResult * 16 +
    secondsLeft s * 256 + s.prot.commitSeq * 65536)

end Sys2Proof.Machine
end

