-- ==== Sys2Proof/Machine/TimeCmp.lean ====
section
/-!
DEFINITION. Time comparators, EVT pins and capture inputs (R279–R283).
-/
namespace Sys2Proof.Machine

/-! ### EVT pins (R279, R302) -/

/-- OUT_EN of an EVT pin. -/
def evtOut (s : State) (k : Fin 4) : Bool := regBit s Reg.timeEvtCfg k

/-- A pin after its pulse, at a time. -/
def EvtPin.settle (p : EvtPin) (t : Nat) : EvtPin :=
  match p.fall with
  | some f => if f ≤ t then { p with high := false, fall := none } else p
  | none => p

/-- Change a pin. -/
def evtMod (k : Fin 4) (f : EvtPin → EvtPin) (s : State) : State := netMod (fun n => { n with evt := vmod n.evt k f }) s

/-- A comparator drives a pin at a time (R279, R280): of two drives at one instant the higher-numbered unit sets the level; a
pulse on a pin that a pulse already holds high extends it. -/
def driveEvt (unit : Fin 32) (action pulse : Nat) (k : Fin 4) (t : Nat) (s : State) : State :=
  if !evtOut s k then s
  else
    evtMod k (fun p0 =>
      let p := p0.settle t
      let overruled : Bool := match p.last with | some (t1, u) => decide (t1 = t) && decide (unit.val < u) | none => false
      if overruled then p
      else
        match action with
        | 2 => { high := true, fall := none, last := some (t, unit) }
        | 3 => { high := false, fall := none, last := some (t, unit) }
        | _ =>
          let e := t + pulse * 65536
          { high := true, fall := some (match p.fall with | some f => max f e | none => e), last := some (t, unit) }) s

/-- A write of TIME_EVT_CFG (R302): a pin that becomes an output begins at its IDLE level. -/
def writeEvtCfg (value : Word) (s : State) : State :=
  let s1 := regSet Reg.timeEvtCfg (value &&& 0xFF) s
  (fins 4).foldl (fun s1 k =>
    if evtOut s1 k && !evtOut s k then evtMod k (fun _ => { high := flag value (4 + k.val), fall := none, last := none }) s1
    else s1) s1

/-- The pins at a boundary. -/
def runEvt (s : State) : State :=
  netMod (fun n => { n with evt := vmap (fun (p : EvtPin) => p.settle (boundaryTime s)) n.evt }) s

/-! ### Comparators -/

/-- Change a comparator. -/
def cmpMod (u : Fin 32) (c : Comparator) (s : State) : State := netMod (fun n => { n with cmps := vset n.cmps u c }) s

/-- A comparator fires at a time (R279). -/
def cmpFire (u : Fin 32) (t : Nat) (s : State) : State :=
  let c := s.net.cmps[u]
  let k : Fin 4 := ⟨c.arg % 4, Nat.mod_lt _ (by decide)⟩
  let s1 := match c.action with
    | 2 | 3 | 4 => driveEvt u c.action c.pulse k t s
    | 5 => fireTrigger c.arg s
    | _ => s
  if c.report then report 0x0403 u (timeBytes t) s1 else s1

/-- The fire of a unit that is due in the tick in progress, while the TIME domain runs (R257). -/
def cmpDue (s : State) (u : Fin 32) : Option Nat :=
  if timeRuns s then s.net.cmps[u].next.filter fun t => decide (t < boundaryTime s + tickSpan s) else none

/-- CMP_FIRE (R279, R280): the unit's pending fire, at its node time; a periodic unit waits for its next one. -/
def execCmpFire (unit : Fin 32) (s : State) : Host.Outcome State Fault Refusal :=
  let c := s.net.cmps[unit]
  match cmpDue s unit with
  | none => .next s
  | some t =>
    fin (cmpFire unit t (cmpMod unit { c with next := if c.period = 0 then none else some (t + c.period) } s))

/-- The fields of CMP_SET are in range (R273, R280). -/
def cmpBad (a : CmpSetArgs) : Bool :=
  let act := a.action.toNat
  decide (31 < a.unit.toNat) || decide (5 < act) || !timeOk a.time ||
    (if 2 ≤ act then decide (3 < a.arg.toNat) else decide (a.arg ≠ 0)) ||
    (if act = 4 then decide (a.pulseNs.toNat < 10) || decide (1000000000 < a.pulseNs.toNat) else decide (a.pulseNs ≠ 0)) ||
    (if a.periodic then decide (a.period.toNat < 65536000) else decide (a.period ≠ 0))

/-- CMP_SET (R280): it takes effect at acceptance. -/
def execCmpSet (h : CmdHdr) (a : CmpSetArgs) (s : State) : Host.Outcome State Fault Refusal :=
  fin (untimedCmd h (cmpBad a) (fun t s =>
    let u : Fin 32 := ⟨a.unit.toNat % 32, Nat.mod_lt _ (by decide)⟩
    let act := a.action.toNat
    let k : Fin 4 := ⟨a.arg.toNat % 4, Nat.mod_lt _ (by decide)⟩
    if 2 ≤ act ∧ act ≤ 4 ∧ !evtOut s k then complete t 0x43 0 s
    else if act = 0 then complete t St.ok 0 (cmpMod u Comparator.off s)
    else
      let n := nodeNow s
      let first := timeOf a.time
      let c : Comparator := { action := act, arg := a.arg.toNat, report := a.report, pulse := a.pulseNs.toNat,
                              period := if a.periodic then a.period.toNat else 0, next := none }
      if a.periodic then
        let p := a.period.toNat
        let next := if n.1 < first then first else first + ((n.1 - first) / p + 1) * p
        complete t St.ok 0 (cmpMod u { c with next := some next } n.2)
      else if n.1 < first then complete t St.ok 0 (cmpMod u { c with next := some first } n.2)
      else complete t St.okLate 0 (cmpFire u n.1 (cmpMod u c n.2))) s)

/-- TIME_CMP_ACTIVE (R302). -/
def cmpActive (s : State) : Word :=
  BitVec.ofNat 32 ((fins 32).foldl (fun a (u : Fin 32) => a + bitAt s.net.cmps[u].next.isSome u.val) 0)

/-! ### Captures (R281, R282) -/

/-- SOURCE of a capture unit. -/
def capSource (s : State) (u : Fin 16) : Nat := regFld s (Reg.timeCapCfg u) 13 8

/-- A source that captures: EVT inputs, PPS, port and AES3 frames, link markers. -/
def capSourceOk (s : State) (src : Nat) : Bool :=
  (match toFin? 4 src with | some k => !evtOut s k | none => false) || decide (src = 4) ||
    (decide (8 ≤ src) && decide (src ≤ 19)) || (decide (32 ≤ src) && decide (src ≤ 47))

/-- EDGE selects an edge of a contact source (R281, R302). -/
def capEdge (s : State) (u : Fin 16) (src : Nat) (rising : Bool) : Bool :=
  let e := regFld s (Reg.timeCapCfg u) 2 1
  if 4 < src then true
  else if e = 3 then true else if e = 2 then !rising else rising

/-- One unit takes an edge, or loses it within 100 ns of its previous capture (R281). -/
def captureOne (u : Fin 16) (t : Nat) (s : State) : State :=
  let c := s.net.caps[u]
  let close : Bool := match c.time with | some t0 => decide (t < t0 + 100 * 65536) | none => false
  if close then sticky Reg.timeCapStat u s
  else
    let s1 := netMod (fun n => { n with caps := vset n.caps u { time := some t, count := satN 32 (c.count + 1) } }) s
    if regBit s (Reg.timeCapCfg u) 3 then report 0x0404 u (timeBytes t) s1 else s1

/-- CAPTURE_EDGE (R228, R281): every enabled unit that selects the edge, while the TIME domain runs (R257). -/
def execCaptureEdge (source : BitVec 6) (rising : Bool) (time : TimeVal) (s : State) : Host.Outcome State Fault Refusal :=
  if timeRuns s ∧ capSourceOk s source.toNat then
    fin (((fins 16).filter fun (u : Fin 16) => regBit s (Reg.timeCapCfg u) 0 && decide (capSource s u = source.toNat) &&
      capEdge s u source.toNat rising).foldl (fun s u => captureOne u (toNode s (timeOf time)) s) s)
  else .next s

/-- TIME_QUERY (R282): NOW and its tick, every unit's latest capture and count. -/
def execTimeQuery (h : CmdHdr) (resultAddr : BitVec 64) (s : State) : Host.Outcome State Fault Refusal :=
  fin (untimedCmd h (!aligned8 resultAddr) (fun t s =>
    let n := nodeNow s
    let caps := n.2.net.caps.toList
    resultThen t resultAddr.toNat
      (timeBytes n.1 ++ leBytes 8 (now n.2) ++ leBytes 8 0 ++ (caps.flatMap fun c => timeBytes (c.time.getD 0)) ++
        (caps.flatMap fun c => leBytes 4 c.count)) St.ok n.2) s)

end Sys2Proof.Machine
end

