-- ==== Sys2Proof/Machine/Boot.lean ====
section
/-!
DEFINITION. Resets, boot, the flash and its commands, and sleep (chapter "Power States, Boot, Images and Resets", R479–R501,
R513, R528).
-/
namespace Sys2Proof.Machine

def powerMod (f : Power → Power) (s : State) : State := { s with power := f s.power }
def flashMod (f : Flash → Flash) (s : State) : State := { s with flash := f s.flash }
def slotMod (x : Fin 2) (f : SlotInfo → SlotInfo) (s : State) : State := flashMod (fun l => { l with slots := vmod l.slots x f }) s

/-! ### The pointer logs (R488) -/

/-- A pointer entry. -/
def ptrWord (slot : Fin 2) (seq : Nat) : Word :=
  let v := slot.val + seq % 2 ^ 23 * 2
  BitVec.ofNat 32 (v + (crc8 (leBytes 3 v)).toNat * 2 ^ 24)

/-- An entry whose CRC is correct; an erased word is none. -/
def ptrOk (w : Word) : Bool := decide (w ≠ 0xFFFFFFFF) && decide (fld w 31 24 = (crc8 (leBytes 3 w.toNat)).toNat)

/-- The entry of a log with the highest SEQ. -/
def latestOf (l : List Word) : Option Word :=
  (l.filter ptrOk).foldl (fun b w => match b with
    | some x => if fld x 23 1 < fld w 23 1 then some w else some x
    | none => some w) none

/-- The entry the boot ROM takes across both copies. -/
def latestPtr (s : State) : Option Word := latestOf (s.flash.copies.toList.flatMap StoreCopy.log)

/-- The slot an entry names; slot A with no entry. -/
def ptrSlot (w : Option Word) : Fin 2 := if w.elim 0 (fun x => fld x 0 0) = 1 then 1 else 0

/-- SEQ of the latest entry. -/
def ptrSeq (s : State) : Nat := (latestPtr s).elim 0 fun w => fld w 23 1

/-- Write an entry into the log of one copy; a full log is erased first and takes the other copy's latest entry. -/
def appendPtr (other : Option Word) (w : Word) (c : StoreCopy) : StoreCopy :=
  if c.log.length < 1024 then { c with log := c.log ++ [w] }
  else match other with
    | some x => { c with log := if x = w then [w] else [x, w] }
    | none => { c with log := [w] }

/-- Write an entry to copy 0. -/
def writePtr0 (w : Word) (s : State) : State :=
  flashMod (fun l => { l with copies := vmod l.copies 0 (appendPtr (latestOf l.copies[(1 : Fin 2)].log) w) }) s

/-- Write an entry to copy 1. -/
def writePtr1 (w : Word) (s : State) : State :=
  flashMod (fun l => { l with copies := vmod l.copies 1 (appendPtr (latestOf l.copies[(0 : Fin 2)].log) w) }) s

/-! ### Resets (R478, R484, R501, R528) -/

/-- Strength of a reset cause (R484): the three warm causes are equal. -/
def ResetCause.strength : ResetCause → Nat
  | .powerOn => 4 | .brownOut => 3 | .pin => 2 | .warmRequest => 1 | .globalReset => 1 | .watchdog => 1

/-- RESET_CAUSE of BOOT_STAT: the strongest reset since the last HOST_READY. -/
def strongest (s : State) (c : ResetCause) : ResetCause :=
  if s.power.stage = .hostReady ∨ s.power.cause.strength < c.strength then c else s.power.cause

/-- The registers that hold module data (R528). -/
def moduleRegs (s : State) : Regs := s.regs.filter fun e => decide (e.1 = Reg.glbRev) || decide (e.1 = Reg.glbEuiLo) || decide (e.1 = Reg.glbEuiHi)

/-- What a reset leaves of a commit (R492): in step 5 the entry in copy 0 may already be whole, which is a free value; the slot
then counts as programmed. -/
def cutCommit (s : State) : State :=
  match s.flash.commit with
  | none => s
  | some c =>
    let s1 := flashMod (fun l => { l with commit := none }) s
    if c.step = 5 then
      let f := freshFree 1 s1
      if f.1 = 1 then
        slotMod c.slot (fun _ => { state := .valid, svn := c.svn, version := BitVec.ofNat 16 c.version.toNat, crc := c.crc })
          (writePtr0 (ptrWord c.slot (ptrSeq s1 + 1)) f.2)
      else f.2
    else s1

/-- The media rate of a reset (R530): a warm reset takes RATE of GLB_MEDIA_RATE, a cold one the store's rate, 3 where there is
none. -/
def resetRate (s : State) (cold : Bool) : Nat :=
  if cold then (s.flash.copies[(0 : Fin 2)].rate).elim 3 Fin.val else regFld s Reg.glbMediaRate 2 0

/-- The rate code as a Fin; a code above 5 cannot be held (R529). -/
def rateCode (n : Nat) : Fin 6 := ⟨n % 6, Nat.mod_lt _ (by decide)⟩

/-- A reset takes hold (R484): everything but the queue, the hosts' memories, the flash, the wear record and the module data
returns to its reset value. A warm reset keeps COMPAT, the PCIe link and the REF time. -/
def resetTo (cold : Bool) (cause : ResetCause) (s0 : State) : State :=
  let s := cutCommit s0
  let rate := resetRate s cold
  let z := State.reset
  { z with
      pending := s.pending, free := s.free, localMem := s.localMem, tunMem := s.tunMem,
      regs := regPut (moduleRegs s) Reg.glbMediaRate (BitVec.ofNat 32 rate),
      flash := { s.flash with writes := [] },
      wear := { s.wear with proposals := [], step := none, lastAdjust := if cold then none else s.wear.lastAdjust },
      power := { s.power with stage := .rom, fallback := false, cause := strongest s cause, sleepPlan := none, warmAsked := none,
                              opt3v3 := false, state := .running },
      time := { z.time with rate := rateCode rate, refTime := if cold then 0 else s.time.refTime },
      clock := { z.clock with ageing := s.clock.ageing, learnSecs := s.clock.learnSecs, tc := s.clock.tc,
                              timeSet := !cold && s.clock.timeSet,
                              nodeUnits := if cold then 0 else s.clock.nodeUnits },
      pcie := if cold then { z.pcie with perst := s.pcie.perst } else s.pcie }

/-- Remember a fault that the next boot raises (R498). -/
def bootFault (src inst : Nat) (s : State) : State :=
  powerMod (fun p => { p with bootFaults := if p.bootFaults.any (· = (src, inst)) then p.bootFaults else p.bootFaults ++ [(src, inst)] }) s

/-- POWER_ON (R479, R480, R482): a cold start. It carries COMPAT as sampled, and whether PVIN had been absent, which makes it a
power-on reset. A module that is too hot keeps its rails off (R513). -/
def execPowerOn (compat pvinAbsent : Bool) (s : State) : Host.Outcome State Fault Refusal :=
  let cause := if pvinAbsent ∨ s.power.state ≠ .off then ResetCause.powerOn else s.power.cause
  if s.power.tooHot then .next (powerMod (fun p => { p with unpowered := false }) s)
  else .next (powerMod (fun p => { p with state := .running, compat := compat, unpowered := false }) (resetTo true cause s))

/-- The module is held off after a cold reset: outputs released, every block at its reset values. -/
def coldOff (cause : ResetCause) (s : State) : State := powerMod (fun p => { p with state := .off }) (resetTo true cause s)

/-- PIN_RESET (R479, R484). -/
def execPinReset (s : State) : Host.Outcome State Fault Refusal := .next (coldOff .pin s)

/-- BROWN_OUT (R479, R498): until PVIN is above 32.0 V again. -/
def execBrownOut (s : State) : Host.Outcome State Fault Refusal :=
  .next (powerMod (fun p => { p with unpowered := true }) (bootFault Src.resetBrownout 0 (coldOff .brownOut s)))

/-- OVER_TEMPERATURE (R513): a brown-out, with the rails held off until the module has cooled. -/
def execOverTemperature (s : State) : Host.Outcome State Fault Refusal :=
  .next (powerMod (fun p => { p with tooHot := true }) (bootFault Src.resetBrownout 0 (coldOff .brownOut s)))

/-- OVER_TEMPERATURE_RECOVER (R513): a cold start, provided PVIN is above 32.0 V. -/
def execOverTemperatureRecover (compat : Bool) (s : State) : Host.Outcome State Fault Refusal :=
  if s.power.tooHot ∧ s.power.state = .off ∧ s.power.unpowered = false then
    .next (powerMod (fun p => { p with state := .running, compat := compat, tooHot := false }) (resetTo true .brownOut s))
  else .next (powerMod (fun p => { p with tooHot := false }) s)

/-- A warm reset is requested (R359, R484): the mute ramp runs, and further requests merge into it. -/
def requestWarm (cause : ResetCause) (s : State) : State :=
  if s.power.warmAsked.isSome then s
  else powerMod (fun p => { p with warmAsked := some cause, warmAt := s.time.refTime }) (muteAll .stopped .none s)

/-- WARM_RESET (R359, R484): the requested warm reset takes hold, once every channel is off or 12 ms have passed. -/
def execWarmReset (s : State) : Host.Outcome State Fault Refusal :=
  match s.power.warmAsked with
  | some c =>
    if (fins 8).all (fun c => s.ps.ch[c].off) ∨ mayHavePassed s s.power.warmAt (refSecond * 12 / 1000) = true then .next (resetTo false c s)
    else .next s
  | none => .next s

/-- A second watchdog in a row before HOST_READY marks the chosen slot INVALID (R486). -/
def markChosen (s : State) : State := slotMod (ptrSlot (latestPtr s)) (fun x => { x with state := .invalid }) s

/-- WATCHDOG (R486): a warm reset; before HOST_READY it takes hold at once. -/
def execWatchdog (s : State) : Host.Outcome State Fault Refusal :=
  let s1 := bootFault Src.resetWatchdog 0 s
  if s.power.state = .off then .next s
  else if s.power.stage = .hostReady then .next (requestWarm .watchdog s1)
  else
    let s2 := powerMod (fun p => { p with watchdogs := p.watchdogs + 1 }) (resetTo false .watchdog s1)
    .next (if 2 ≤ s2.power.watchdogs then markChosen s2 else s2)

/-! ### Boot (R480, R489, R492) -/

/-- A field of an image header, little-endian; SVN, IMAGE_LEN and VERSION (R489). -/
def imgField (c : ImageCheck) (off n : Nat) : Nat := ofLe ((c.header.drop off).take n)
def imgSvn (c : ImageCheck) : Byte := BitVec.ofNat 8 (imgField c 7 1)
def imgLen (c : ImageCheck) : Nat := imgField c 8 4
def imgVersion (c : ImageCheck) : Word := BitVec.ofNat 32 (imgField c 12 4)

/-- MAGIC, FORMAT_VER and IMAGE_LEN are correct (R489). -/
def headerOk (c : ImageCheck) : Bool :=
  decide (imgField c 0 4 = 0x49485243) && decide (imgField c 4 2 = 1) && decide (imgLen c % 4096 = 0) && decide (8192 ≤ imgLen c) &&
    decide (imgLen c ≤ 24 * 2 ^ 20)

/-- KB_MAGIC and KEY_LEN of the key block are correct (R489). -/
def keyBlockOk (c : ImageCheck) : Bool :=
  decide (ofLe (c.keyBlock.take 4) = 0x4B594B43) && decide (ofLe ((c.keyBlock.drop 4).take 2) = 97)

/-- The image verifies (R489); KEY_INDEX above 3 names no fuse slot. -/
def imageVerifies (c : ImageCheck) (minSvn : Byte) : Bool :=
  !c.empty && headerOk c && keyBlockOk c && decide (imgField c 6 1 ≤ 3) && c.keyHashOk && c.signatureOk && c.digestOk &&
    decide (minSvn.toNat ≤ (imgSvn c).toNat)

/-- What SLOT_x_INFO and SLOT_x_CRC show of a checked image (R500). -/
def slotFound (st : SlotState) (c : ImageCheck) : SlotInfo :=
  if st = .valid then { state := .valid, svn := imgSvn c, version := BitVec.ofNat 16 (imgVersion c).toNat, crc := c.crc }
  else { state := st, svn := 0, version := 0, crc := 0 }

/-- The other slot. -/
def otherSlot (x : Fin 2) : Fin 2 := if x = 0 then 1 else 0

/-- A slot boots: it is not marked INVALID or WRITING, and its image verifies. -/
def slotBoots (s : State) (x : Fin 2) (c : ImageCheck) : Bool :=
  decide (s.flash.slots[x].state ≠ .invalid) && decide (s.flash.slots[x].state ≠ .writing) && imageVerifies c s.flash.minSvn

/-- A copy of the store that lacks the latest pointer entry gets it, and CFG_COPY_BAD follows (R492). -/
def repairCopies (s : State) : State :=
  match latestPtr s with
  | none => s
  | some w =>
    let s1 := if latestOf s.flash.copies[(0 : Fin 2)].log = some w then s else bootFault Src.cfgCopyBad 0 (writePtr0 w s)
    if latestOf s1.flash.copies[(1 : Fin 2)].log = some w then s1 else bootFault Src.cfgCopyBad 1 (writePtr1 w s1)

/-- Boot firmware fills the band tables from the calibration area (R251). -/
def fillBands (s : State) : State :=
  (List.range 6).foldl (fun s p => (List.range 32).foldl (fun s e =>
    regSet (Reg.band p e) ((mapGet s.flash.cal (p * 32 + e)).getD (Config.calibration p e)) s) s) s

/-- A slot found WRITING at boot is INVALID (R492). -/
def settleWriting (s : State) : State :=
  (fins 2).foldl (fun s (x : Fin 2) =>
    if s.flash.slots[x].state = .writing then slotMod x (fun _ => { state := .invalid, svn := 0, version := 0, crc := 0 }) s else s) s

/-- Firmware starts from a slot. -/
def bootFrom (x : Fin 2) (fallback : Bool) (c : ImageCheck) (s : State) : State :=
  let s1 := slotMod x (fun _ => slotFound .valid c) (settleWriting s)
  fillBands (repairCopies (powerMod (fun p => { p with stage := .verified, slot := x, fallback := fallback }) s1))

/-- IMAGE_VERIFIED (R489): what the boot ROM finds in slot A and in slot B; it boots the chosen one, or falls back. -/
def execImageVerified (a b : ImageCheck) (s : State) : Host.Outcome State Fault Refusal :=
  if s.power.stage ≠ .rom ∨ s.power.state ≠ .running then .next s
  else
    let x := ptrSlot (latestPtr s)
    let y := otherSlot x
    let chk (z : Fin 2) : ImageCheck := if z = 0 then a else b
    if slotBoots s x (chk x) then .next (bootFrom x false (chk x) s)
    else
      let s1 := slotMod x (fun _ => slotFound .invalid (chk x)) s
      if slotBoots s1 y (chk y) then .next (bootFault Src.bootFallback x (bootFrom y true (chk y) s1))
      else .next (powerMod (fun p => { p with stage := .romHalt })
        (slotMod y (fun _ => slotFound .invalid (chk y)) s1))

/-- Load the protected values and fields from the configuration store (R465, R469). -/
def loadRwp (s : State) : State :=
  let c := s.flash.copies[(0 : Fin 2)]
  protMod (fun p => { p with commitSeq := c.commitSeq.toNat })
    (c.rwp.foldl (fun s e => regSet e.1 ((regGet s e.1 &&& ~~~ rwpMask e.1) ||| (e.2 &&& rwpMask e.1)) s) s)

/-- The preferred node ID is claimed (R184, R494). -/
def claimId (s : State) : State :=
  let id := s.flash.copies[(0 : Fin 2)].prefId
  if id = 0 then s else { s with node := { s.node with id := id, idState := 0 } }

/-- The current that OPT_3V3 supplies to a load, in mA (R510): above 10 A it folds back to 2 A, for as long as the overload
lasts. -/
def opticsCurrent (s : State) (load : Nat) : Nat := if s.power.opt3v3 then if 10000 < load then 2000 else load else 0

/-- Node time starts at the epoch at HOST_READY, unless TIME_SET has given it a value (R241). -/
def startTime (s : State) : State :=
  if s.clock.timeSet ∨ s.time.aligned then s else clk (fun c => { c with nodeUnits := 0 }) s

/-- HOST_READY (R480, R487, R498): the ageing plan has been applied again (R474), and OPT_3V3 is on from here (R510). -/
def execHostReady (s : State) : Host.Outcome State Fault Refusal :=
  if s.power.stage ≠ .verified ∨ s.power.state ≠ .running then .next s
  else
    let ready := powerMod (fun p =>
      { p with stage := .hostReady, watchdogs := 0, bootFaults := [], opt3v3 := true, readyAt := s.time.refTime }) s
    let s1 := setFirs s.wear.newFir (claimId (loadRwp (startTime ready)))
    let s2 := (fins 16).foldl (fun s n => startTraining n (linkMod n (fun l => { l with squelch := !linkEnabled s n }) s)) s1
    fin (s.power.bootFaults.foldl (fun s f => raise f.1 f.2 0 s) s2)

/-- CRC_7 after the check of a flash image (R423). -/
def crcImage (c : ImageCheck) (s : State) : State := if c.empty then s else crcLeft 7 c.crc (imgLen c) s

/-- SLOT_CHECK (R489): the slot that was not booted, against its header and digest. -/
def execSlotCheck (c : ImageCheck) (s : State) : Host.Outcome State Fault Refusal :=
  if s.power.stage ≠ .hostReady ∨ s.flash.commit.isSome then .next s
  else
    let y := otherSlot s.power.slot
    let ok := headerOk c && c.digestOk
    let st : SlotState := if c.empty then .empty else if ok then .valid else .invalid
    .next (slotMod y (fun _ => slotFound st c) (crcImage c s))

/-! ### Image commit (R490, R491), IMG_SELECT, CFG_SET, STORE -/

/-- PROT_IMG_AUTH is ARMED for a slot. -/
def armedFor (s : State) (slot : Nat) : Bool := regBit s Reg.protImgAuth 0 && decide (regFld s Reg.protImgAuth 1 1 = slot)

/-- Consume the authorization (R490): ARMED is cleared, in the register and in what any later boot reloads. -/
def consumeAuth (s : State) : State :=
  let s1 := regSetFld Reg.protImgAuth 0 0 0 s
  let v := regGet s1 Reg.protImgAuth
  protMod (fun p => { p with storeBusy := true })
    (storeMod (fun c => { c with rwp := if v = 0 then mapErase c.rwp Reg.protImgAuth else mapPut c.rwp Reg.protImgAuth v }) s1)

/-- IMG_COMMIT (R490). -/
def execImgCommit (h : CmdHdr) (a : ImgCommitArgs) (s : State) : Host.Outcome State Fault Refusal :=
  fin (untimedCmd h (decide (1 < a.slot.toNat) || !aligned8 a.addr) (fun t s =>
    if s.flash.commit.isSome then complete t 0x54 0 s
    else if s.power.slot.val = a.slot.toNat then complete t 0x53 0 s
    else if !armedFor s a.slot.toNat then complete t 0x50 0 s
    else if dmaHalted s then complete t St.busError 0 s
    else
      let c : Commit := { ticket := t, slot := if a.slot.toNat = 1 then 1 else 0, svnLock := a.svnLock, length := a.length.toNat,
                          addr := a.addr, step := 1, copy0 := false, svn := 0, version := 0, crc := regGet s Reg.protImgCrc }
      flashMod (fun l => { l with commit := some c }) (consumeAuth s)) s)

/-- A commit ends. -/
def endCommit (c : Commit) (status specific : Nat) (s : State) : State :=
  complete c.ticket status specific (flashMod (fun l => { l with commit := none }) s)

/-- FLASH_FAIL: raised at once (R498); in steps 2 to 4 the slot is left INVALID (R491). -/
def flashFail (c : Commit) (s : State) : State :=
  let s1 := if c.step = 5 then s else slotMod c.slot (fun x => { x with state := .invalid, svn := 0, version := 0, crc := 0 }) s
  raise Src.flashFail 0 0 (endCommit c 0x55 0 s1)

/-- The next step of a commit. -/
def nextStep (c : Commit) (s : State) : State := flashMod (fun l => { l with commit := some { c with step := c.step + 1 } }) s

/-- Step 5 (R491): the pointer entry in both copies, the slot VALID, the fused minimum raised where SVN_LOCK asks for it. -/
def flip (c : Commit) (s : State) : State :=
  let seq := ptrSeq s + 1
  let w := ptrWord c.slot seq
  let s1 := slotMod c.slot (fun _ => { state := .valid, svn := c.svn, version := BitVec.ofNat 16 c.version.toNat, crc := c.crc })
    (writePtr1 w (writePtr0 w s))
  let s2 := if c.svnLock ∧ s.flash.minSvn.toNat < c.svn.toNat ∧ s.flash.raisesLeft ≠ 0 then
      flashMod (fun l => { l with minSvn := c.svn, raisesLeft := l.raisesLeft - 1 }) s1 else s1
  endCommit c St.ok (seq % 2 ^ 23) s2

/-- IMG_COMMIT_STEP_DONE (R491). -/
def execImgCommitStepDone (e : StepEnd) (s : State) : Host.Outcome State Fault Refusal :=
  match s.flash.commit with
  | none => .next s
  | some c =>
    let s := if e.ok ∧ (c.step = 1 ∨ c.step = 4) then crcImage e.check s else s
    match c.step with
    | 1 =>
      if !e.ok then fin (endCommit c St.busError 0 s)
      else if e.check.crc ≠ c.crc then fin (endCommit c 0x51 0 s)
      else if !imageVerifies e.check s.flash.minSvn then fin (endCommit c 0x52 0 s)
      else fin (nextStep { c with svn := imgSvn e.check, version := imgVersion e.check }
        (slotMod c.slot (fun x => { x with state := .writing, svn := 0, version := 0, crc := 0 }) s))
    | 4 =>
      if !e.ok ∨ e.check.crc ≠ c.crc ∨ !imageVerifies e.check s.flash.minSvn then fin (flashFail c s) else fin (nextStep c s)
    | 5 => if e.ok then fin (flip c s) else fin (flashFail c s)
    | _ => if e.ok then fin (nextStep c s) else fin (flashFail c s)

/-- A store write begins; STORE_WRITE_DONE ends it. -/
def beginStore (k : StoreKind) (t : Option Ticket) (v : Nat) (s : State) : State :=
  flashMod (fun l => { l with writes := l.writes ++ [{ kind := k, ticket := t, value := v }] }) s

/-- IMG_SELECT (R493). -/
def execImgSelect (h : CmdHdr) (slot : Byte) (s : State) : Host.Outcome State Fault Refusal :=
  fin (untimedCmd h (decide (1 < slot.toNat)) (fun t s =>
    let x : Fin 2 := if slot.toNat = 1 then 1 else 0
    if !armedFor s slot.toNat ∨ regGet s Reg.protImgCrc ≠ s.flash.slots[x].crc then complete t 0x50 0 s
    else if s.flash.slots[x].state ≠ .valid then complete t 0x57 0 s
    else if s.flash.commit.isSome then complete t 0x54 0 s
    else beginStore .imgSelect (some t) slot.toNat (consumeAuth s)) s)

/-- CFG_SET (R494). -/
def execCfgSet (h : CmdHdr) (prefId : BitVec 12) (s : State) : Host.Outcome State Fault Refusal :=
  fin (untimedCmd h (decide (4094 < prefId.toNat)) (fun t s => beginStore .prefId (some t) prefId.toNat s) s)

/-- What a store write puts into both copies. -/
def storeEffect (x : StoreWrite) (s : State) : Nat × State :=
  match x.kind with
  | .mediaRate => (0, storeMod (fun c => { c with rate := some (rateCode x.value) }) s)
  | .prefId => (0, storeMod (fun c => { c with prefId := BitVec.ofNat 12 x.value }) s)
  | .imgSelect =>
    let seq := ptrSeq s + 1
    let w := ptrWord (if x.value = 1 then 1 else 0) seq
    (seq % 2 ^ 23, writePtr1 w (writePtr0 w s))

/-- STORE_WRITE_DONE (R493, R494, R530): the oldest write of its kind reaches both copies. -/
def execStoreWriteDone (kind : StoreKind) (s : State) : Host.Outcome State Fault Refusal :=
  match s.flash.writes.find? fun x => x.kind = kind with
  | none => .next s
  | some x =>
    let r := storeEffect x (flashMod (fun l => { l with writes := l.writes.erase x }) s)
    fin (match x.ticket with | some t => complete t St.ok r.1 r.2 | none => r.2)

/-! ### Sleep (R495–R497) -/

/-- SLEEP (R495). -/
def execSleep (h : CmdHdr) (a : SleepArgs) (s : State) : Host.Outcome State Fault Refusal :=
  let m := a.wakeMask.toNat
  let bad : Bool := decide (m = 0) || ((fins 4).any fun k => bitOf m (3 + k.val) && evtOut s k) || !timeOk a.wakeTime ||
    (!bitOf m 7 && decide (timeOf a.wakeTime ≠ 0))
  fin (timedCmd h a.tick bad noRefusal noPre (.sleep a) s)

/-- The activities that keep a node awake (R495). A path reservation in progress, a deferred delay change and a global operation
that waits are pending timed actions as in R25. -/
def sleepBusy (s : State) : Bool :=
  (fins 8).any (fun c => !s.ps.ch[c].off) || (fins 12).any (fun p => decide (s.ports.port[p].state ≠ PortRun.stopped)) ||
    s.net.rx.any (fun e => e.2.on) || s.net.tx.any (fun e => e.2.on) ||
    s.dma.toList.any (fun d => decide (d.state = .running) || decide (d.state = .stopping)) || s.flash.commit.isSome ||
    s.timed.any (fun x => decide (now s < x.tick)) || s.fabric.paths.any (fun p => p.reserving) || decide (deferredDelays s ≠ 0) ||
    s.fabric.ops.any (fun o => o.execs && decide (now s < o.tick))

/-- SLEEP at boundary N (R495, R496): its status; the links begin to detach. -/
def applySleep (a : SleepArgs) (s : State) : Nat × State :=
  if sleepBusy s then (0x56, s)
  else
    let s1 := (fins 16).foldl (fun s (n : Fin 16) =>
      if s.links[n].state = .attached ∨ s.links[n].state = .discovered then
        (applyLinkCmd { tick := 0, link := BitVec.ofNat 8 n.val, action := 2 } s).2 else s) s
    (St.ok, powerMod (fun p => { p with sleepPlan := some { at_ := now s, mask := a.wakeMask, time := a.wakeTime } }) s1)

/-- A wake (R497). -/
def wake (source : Fin 8) (s : State) : State :=
  let s1 := powerMod (fun p => { p with state := .running, sleepPlan := none }) s
  let s2 := (fins 16).foldl (fun s n =>
    startTraining n (linkMod n (fun l => { l with detachHold := false, squelch := !linkEnabled s n }) s)) s1
  report 0x0F02 0 (leBytes 8 source.val ++ leBytes 8 (now s)) s2

/-- A wake source, if the sleeping node has it enabled. -/
def wakeBy (source : Fin 8) (s : State) : State :=
  if s.power.state = .sleep ∧ (s.power.sleepPlan.elim 0 fun p => p.mask.toNat / 2 ^ source.val) % 2 = 1 then wake source s else s

/-- WAKE_TIME may have come in the tick in hand (R495). -/
def wakeTimeCome (s : State) : Bool := s.power.sleepPlan.elim false fun p => decide (timeOf p.time < boundaryTime s + tickSpan s)

/-- SLEEP_WAKE (R497); the timer wakes no earlier than WAKE_TIME. -/
def execSleepWake (source : Fin 8) (s : State) : Host.Outcome State Fault Refusal :=
  if source = 7 ∧ wakeTimeCome s = false then .next s else fin (wakeBy source s)

/-- Boundary N + 2 (R496): the link transmitters are squelched. -/
def squelchLinks (s : State) : State :=
  (fins 16).foldl (fun s n => linkMod n (fun l => { l with squelch := true, retrain := false }) s) s

/-- Boundary N + 3 (R496): the PLLs stop, and with the SERDES any link that has not detached goes DOWN (DEDUCED, log 120). -/
def stopClocks (s : State) : State :=
  powerMod (fun x => { x with state := .sleep })
    (clk (fun c => { c with plls := vmap (fun (x : Pll) => { x with locked := false }) c.plls, onFab := false })
      ((fins 16).foldl (fun s n => linkDown n false false s) s))

/-- The boundaries N + 2 and N + 3 (R496): the links are squelched; then the node sleeps, or wakes at once when its wake time has
passed. -/
def enterSleep (s : State) : State :=
  match s.power.sleepPlan with
  | some p =>
    if s.power.state = .running ∧ p.at_ + 3 ≤ now s then
      let s1 := stopClocks (squelchLinks s)
      if bitOf p.mask.toNat 7 ∧ timeOf p.time ≤ boundaryTime s then wake 7 s1 else s1
    else if s.power.state = .running ∧ p.at_ + 2 ≤ now s then squelchLinks s
    else s
  | none => s

/-! ### Registers (R500, R529) -/

/-- The code of BOOT_STAT.STAGE. -/
def Stage.code : Stage → Nat
  | .rom => 0 | .verified => 1 | .hostReady => 2 | .romHalt => 7

/-- The code of RESET_CAUSE. -/
def ResetCause.code : ResetCause → Nat
  | .powerOn => 1 | .brownOut => 2 | .pin => 3 | .warmRequest => 4 | .globalReset => 5 | .watchdog => 6

/-- The code of SLOT_x_INFO.STATE. -/
def SlotState.code : SlotState → Nat
  | .empty => 0 | .valid => 1 | .invalid => 2 | .writing => 3

def bootStat (s : State) : Word :=
  BitVec.ofNat 32 (s.power.stage.code + s.power.slot.val * 8 + bitAt s.power.fallback 4 + s.power.cause.code * 256)

def slotInfo (s : State) (x : Fin 2) : Word :=
  let i := s.flash.slots[x]
  BitVec.ofNat 32 (i.state.code + i.svn.toNat * 256 + i.version.toNat * 65536)

def cfgPtr (s : State) : Word :=
  let l := latestPtr s
  let has (c : Fin 2) : Bool := decide (l ≠ none) && decide (latestOf s.flash.copies[c].log = l)
  BitVec.ofNat 32 ((ptrSlot l).val + ptrSeq s * 2 + bitAt (has 0) 24 + bitAt (has 1) 25)

def flashProgress (s : State) : Word :=
  BitVec.ofNat 32 (s.flash.commit.elim 0 fun c => c.step + min 100 (Config.flashPercent s.time.refTime) * 256)

def svnFuse (s : State) : Word := BitVec.ofNat 32 (s.flash.minSvn.toNat + s.flash.raisesLeft.toNat * 256)

def glbMode (s : State) : Word := BitVec.ofNat 32 (bitAt s.power.compat 0 + s.time.rate.val * 2 + spt s * 256)

def glbMediaRate (s : State) : Word :=
  setFld (regGet s Reg.glbMediaRate) 9 9 (b2n (s.flash.writes.any fun x => decide (x.kind = .mediaRate)))

def glbUptime (s : State) : Word := BitVec.ofNat 32 (satN 32 (s.time.refTime / refSecond))

/-! ### Writes of the GLOBAL block (R529–R531) -/

/-- A write of GLB_MEDIA_RATE: RATE while the setup window is open, then STORE. -/
def writeMediaRate (value : Word) (s : State) : State :=
  let r := fld value 2 0
  let s1 := if locked s ∨ 6 ≤ r then s else regSet Reg.glbMediaRate (BitVec.ofNat 32 r) s
  if flag value 8 then beginStore .mediaRate none (regFld s1 Reg.glbMediaRate 2 0) s1 else s1

/-- A write of GLB_RESET. -/
def writeReset (value : Word) (s : State) : State :=
  if flag value 0 ∧ fld value 15 8 = 0xA5 then requestWarm .warmRequest s else s

/-- A write of GLB_LOCK: SETUP_LOCK closes the window and puts the matrix settings in force (R412, R527). -/
def writeLock (apply : State → State) (value : Word) (s : State) : State :=
  if flag value 0 ∧ !locked s then apply (regSet Reg.glbLock 1 s) else s

/-- A read of GLB_TICK_LO: the high half is captured for the reading path (R531). -/
def captureTick (path : AccessPath) (s : State) : State :=
  let hi : Word := BitVec.ofNat 32 (now s / 2 ^ 32)
  match path with
  | .bar0 => { s with time := { s.time with capBar0 := hi } }
  | .tunnelReg => { s with time := { s.time with capTunnel := hi } }
  | .mb1 => { s with time := { s.time with capMb1 := hi } }
  | .dma => { s with time := { s.time with capDma := hi } }
  | .mb0 => { s with time := { s.time with capMb0 := hi } }

/-- The capture of a path. -/
def capturedHi (s : State) : AccessPath → Word
  | .bar0 => s.time.capBar0
  | .tunnelReg => s.time.capTunnel
  | .mb1 => s.time.capMb1
  | .dma => s.time.capDma
  | .mb0 => s.time.capMb0

end Sys2Proof.Machine
end

