-- ==== Sys2Proof/Machine/Host.lean ====
section
/-!
DEFINITION. The rings of a node and their owner (chapter "Host Control: Rings, Doorbells and DMA", R366–R383, R404): the
directory, changes of owner, failures of the ring fetcher, and the writing of events and interrupts at a boundary.
-/
namespace Sys2Proof.Machine

def hifMod (f : HostIf → HostIf) (s : State) : State := { s with hif := f s.hif }

/-! ### The directory (R367–R369) -/

/-- Where the owner's host control area lies. -/
def hcaOf (s : State) : Nat :=
  if hifMode s = 2 then s.hif.owner.elim 0 fun o => o.hca.toNat
  else (regGet s Reg.hifHcaLo).toNat + (regGet s Reg.hifHcaHi).toNat * 2 ^ 32

/-- A value of a directory entry. -/
def entN (e : List Byte) (off n : Nat) : Nat := ofLe ((e.drop off).take n)

/-- SIZE in range: 4–12. -/
def sizeOk (e : List Byte) : Bool := 4 ≤ entN e 8 1 ∧ entN e 8 1 ≤ 12

/-- A command ring's entry is sound (R368, R369): its base and its CQ byte also where the ring is unused. -/
def cmdEntryOk (e : List Byte) : Bool :=
  (decide (entN e 8 1 = 0) || sizeOk e) && decide (entN e 0 8 % 64 = 0) && decide (entN e 9 1 ≤ 3) && decide (entN e 10 6 = 0)

/-- The entry of a CQ, of the EQ or of the DCQ is sound. -/
def queueEntryOk (e : List Byte) : Bool :=
  sizeOk e && decide (entN e 0 8 % 64 = 0) && !bitOf (entN e 9 1) 6 && decide (entN e 10 6 = 0)

/-- A DMA ring's entry is sound but for overlaps. -/
def dmaEntryOk (e : List Byte) : Bool :=
  let mode := entN e 9 1
  let lead := entN e 12 1
  (decide (entN e 8 1 = 0) || sizeOk e) && decide (entN e 0 8 % 32 = 0) && decide (mode ≤ 4) &&
    decide (entN e 13 1 < 16) && decide (entN e 14 2 = 0) &&
    (if mode = 2 ∨ mode = 3 then decide (entN e 10 1 + entN e 11 1 + 1 ≤ 256) else decide (entN e 10 2 = 0)) &&
    (if mode = 3 then decide (lead = 0 ∨ (2 ≤ lead ∧ lead ≤ 16)) else decide (lead = 0))

/-- Two AUDIO_OUT ranges overlap. -/
def rangesOverlap (a b : List Byte) : Bool :=
  decide (entN a 9 1 = 3 ∧ entN b 9 1 = 3 ∧ entN a 10 1 ≤ entN b 10 1 + entN b 11 1 ∧ entN b 10 1 ≤ entN a 10 1 + entN a 11 1)

/-- The directory as read: the bytes 0x100–0x3FF of the HCA, and the entry at an HCA offset. -/
def dirEntry (d : List Byte) (off : Nat) : List Byte := (d.drop (off - 0x100)).take 16

/-- The HCA offset of the first refused entry (R369). -/
def dirRefused (d : List Byte) : Option Nat :=
  let cmds := (List.range 8).map fun r => (0x100 + 16 * r, cmdEntryOk (dirEntry d (0x100 + 16 * r)))
  let qs := (List.range 6).map fun q => (0x180 + 16 * q, queueEntryOk (dirEntry d (0x180 + 16 * q)))
  let dmas := (List.range 32).map fun i =>
    let e := dirEntry d (0x200 + 16 * i)
    (0x200 + 16 * i, dmaEntryOk e && (List.range i).all fun j => !rangesOverlap (dirEntry d (0x200 + 16 * j)) e)
  ((cmds ++ qs ++ dmas).find? fun x => !x.2).map (·.1)

/-- A queue as its entry gives it. -/
def queueEntry (e : List Byte) : RecQueue :=
  { RecQueue.reset with base := BitVec.ofNat 64 (entN e 0 8), log2 := entN e 8 1, vector := BitVec.ofNat 6 (entN e 9 1),
                        irqEn := bitOf (entN e 9 1) 7 }

/-- A command ring as its entry gives it, with the commands that still await their record. -/
def cmdEntry (e : List Byte) (outstanding : Nat) : CmdRing :=
  { base := BitVec.ofNat 64 (entN e 0 8), log2 := entN e 8 1, cq := ⟨entN e 9 1 % 4, Nat.mod_lt _ (by decide)⟩,
    head := 0, tail := 0, outstanding := outstanding }

/-- A DMA channel as its entry gives it; its state stays, and what it had begun on the old ring is dropped. -/
def dmaEntry (e : List Byte) (c : DmaCh) : DmaCh :=
  { base := BitVec.ofNat 64 (entN e 0 8), log2 := entN e 8 1, mode := entN e 9 1, first := entN e 10 1, count := entN e 11 1 + 1,
    lead := max 2 (entN e 12 1), qos := min 14 (entN e 13 1), head := 0, tail := 0, state := c.state, cur := none, blocks := [], under := false }

/-- Reserve entries of every completion queue for commands accepted before the last takeover (R386), as far as they go. -/
def reserveOld (s : State) : State :=
  hifMod (fun h => { h with cqs := vmap (fun (q : RecQueue) =>
    let k := min q.oldDue q.free
    { q with old := q.old + k, reserved := q.reserved + k, oldDue := q.oldDue - k }) h.cqs }) s

/-- Write the records that wait for an entry (R386), oldest first. -/
def writeWaiting (s : State) : State :=
  s.hif.waiting.foldl (fun s w =>
    let cq := s.hif.rings[w.ring].cq
    if s.hif.cqs[cq].old = 0 then hifMod (fun h => { h with waiting := h.waiting ++ [w] }) s
    else postRec w.ring w.bytes w.irq (ringDone w.ring (unreserve cq true s)))
    (hifMod (fun h => { h with waiting := [] }) s)

/-- The commands accepted earlier whose records go to queue q of a new directory. -/
def oldOf (rings : Vector CmdRing 8) (q : Fin 4) : Nat :=
  rings.toList.foldl (fun a r => if r.cq = q then a + r.outstanding else a) 0

/-- Read the directory from the owner's HCA (R369): heads and tails 0, phases 1, polling from the next boundary; or DIR_BAD. -/
def readDirectory (s : State) : State :=
  let d := hostRead s (hcaOf s + 0x100) 0x300
  let s0 := hifMod (fun h => { h with ringsStopped := false, stopTry := none, tunnelLost := false, dirBad := false, dirOffset := 0,
                                      dirWait := false, dirOk := false, polling := false, startPoll := false }) s
  match dirRefused d with
  | some off => hifMod (fun h => { h with dirBad := true, dirOffset := off }) s0
  | none =>
    let rings := vgen 8 fun (r : Fin 8) => cmdEntry (dirEntry d (0x100 + 16 * r.val)) s.hif.rings[r].outstanding
    let cqs := vgen 4 fun (q : Fin 4) => { queueEntry (dirEntry d (0x180 + 16 * q.val)) with oldDue := oldOf rings q }
    let s1 := hifMod (fun h => { h with dirOk := true, startPoll := true, rings := rings, cqs := cqs,
                                        eq := queueEntry (dirEntry d 0x1C0), dcq := queueEntry (dirEntry d 0x1D0) }) s0
    writeWaiting (reserveOld { s1 with dma := vmapIdx (fun (i : Fin 32) c => dmaEntry (dirEntry d (0x200 + 16 * i.val)) c) s1.dma })

/-! ### The owner (R366) -/

/-- A STOP or ABORT completes when every channel it names is STOPPED (R401). -/
def dmaSettle (s : State) : State :=
  let isDone (w : DmaWait) : Bool := (setBits 32 w.mask).all fun d => decide ((vgetD s.dma d DmaCh.reset).state = .stopped)
  (s.dmaWait.filter isDone).foldl (fun s w => completeAt w.tick w.ticket (okOf w.ticket) 0 s)
    { s with dmaWait := s.dmaWait.filter fun w => !isDone w }

/-- Every running DMA channel stops without writing records (R366). -/
def dmaDrop (s : State) : State :=
  dmaSettle { s with dma := vmap (fun (c : DmaCh) =>
    { c with state := if c.state = .halted then .halted else .stopped, cur := none, blocks := [], under := false }) s.dma }

/-- The effects of losing an owner (R366). `moves` is what the DMA channels had moved up to their next burst boundary. -/
def dropOwner (moves : State → State) (s : State) : State :=
  let s0 := moves s
  let s1 := s0.tun.results.foldl (fun s _ => recordLost s) (s0.hif.waiting.foldl (fun s _ => recordLost s) s0)
  let s2 := dmaDrop (hifMod (fun h => { h with
    polling := false, startPoll := false, dirOk := false, dirWait := false, stopTry := none, owner := none, claim := none,
    epoch := h.epoch + 1, again := false, events := [], eventsNow := [], waiting := [],
    rings := vmap (fun (r : CmdRing) => { r with outstanding := 0 }) h.rings,
    irqs := vmap (fun (i : IrqSource) => { i with due := false }) h.irqs }) s1)
  { s2 with tun := { s2.tun with unacked := [], unissued := [], come := [], results := [] } }

/-- A write of HIF_CTRL (R366): MODE takes effect at once. -/
def writeMode (moves : State → State) (value : Word) (s : State) : State :=
  let old := hifMode s
  let s1 := regSetFld Reg.hifCtrl 1 0 (fld value 1 0) s
  let new := hifMode s1
  if old = new then s1
  else
    let s2 := if old ≠ 0 then dropOwner (fun s => moves (regSetFld Reg.hifCtrl 1 0 old s)) s else s
    let s3 := regSetFld Reg.hifCtrl 1 0 (fld value 1 0) s2
    if new = 1 then readDirectory s3 else s3

/-! ### Failures of the ring fetcher (R404) -/

/-- An access of the ring fetcher fails: fetching stops, the address is recorded and one RINGS_STOPPED event is due. -/
def stopRings (cause addr : Nat) (eventFails : Bool) (s : State) : State :=
  if s.hif.ringsStopped then s
  else
    let s1 := hifMod (fun h => { h with polling := false, startPoll := false, ringsStopped := true, stopTry := some eventFails }) s
    let s2 := regSet Reg.hifErrAddrLo (BitVec.ofNat 32 addr) (regSet Reg.hifErrAddrHi (BitVec.ofNat 32 (addr / 2 ^ 32)) s1)
    report 0x0F11 0 (leBytes 8 cause ++ leBytes 8 addr) (raise Src.hostBusErr 0 addr (sticky Reg.hifErrStat 0 s2))

/-- RINGS_STOPPED (R404): an access of the ring fetcher has failed; without an owner there is none. -/
def execRingsStopped (cause : BitVec 4) (addr : BitVec 64) (eventWriteFails : Bool) (s : State) :
    Host.Outcome State Fault Refusal :=
  if hifMode s = 0 then .next s else fin (stopRings cause.toNat addr.toNat eventWriteFails s)

/-! ### Events and interrupts at a boundary (R378–R380, R383) -/

/-- An event is discarded and counted (R379, R404). -/
def loseEvent (s : State) : State :=
  sticky Reg.hifErrStat 1 (bump Reg.hifEqLostCount 1 (hifMod (fun h => { h with eqLostPending := h.eqLostPending + 1 }) s))

/-- Write one event record (R378). -/
def postEvent (e : Event) (s : State) : State :=
  let bytes := leBytes 2 e.ty.toNat ++ [0, e.index] ++ leBytes 4 (now s) ++ (e.data ++ List.replicate (24 - e.data.length) 0).take 24
  callIrq 4 (writeRec 4 32 2 bytes s)

/-- One event of a boundary: ordinary events keep one entry in reserve (R379). -/
def putEvent (e : Event) (s : State) : State := if 2 ≤ s.hif.eq.free then postEvent e s else loseEvent s

/-- The order of events of one boundary: TYPE, then INDEX, then occurrence (R379). -/
def eventOrder (l : List Event) : List Event := sortBy (fun e => e.ty.toNat * 256 + e.index.toNat) l

/-- The events reported at a boundary: the first `n`, which arose before it, and those of its global operations (R380); what else
arises at a boundary is reported at the next one (R464). Without a directory they are discarded, or wait while one is on its way; while the rings
are stopped all but the one RINGS_STOPPED event are lost (R404). -/
def flushEvents (n : Nat) (s : State) : State :=
  let evs := eventOrder (s.hif.events.take n ++ s.hif.eventsNow)
  let s0 := hifMod (fun h => { h with events := h.events.drop n, eventsNow := [] }) s
  if s.hif.dirWait then s
  else if s.hif.ringsStopped then
    evs.foldl (fun s e =>
      match s.hif.stopTry with
      | some fails =>
        if e.ty = 0x0F11 then
          let s1 := hifMod (fun h => { h with stopTry := none }) s
          if s1.hif.dirOk && !fails && decide (1 ≤ s1.hif.eq.free) then postEvent e s1 else loseEvent s1
        else loseEvent s
      | none => loseEvent s) s0
  else if !s.hif.dirOk then s0
  else
    let s1 := if 0 < s0.hif.eqLostPending ∧ 2 ≤ s0.hif.eq.free then
        postEvent { ty := 0x0F10, index := 0, data := leBytes 4 (min s0.hif.eqLostPending (2 ^ 32 - 1)) }
          (regSet Reg.hifEqLostCount 0 (hifMod (fun h => { h with eqLostPending := 0 }) s0))
      else s0
    evs.foldl (fun s e => putEvent e s) s1

/-- The interrupts that calls of the last tick have left for this boundary (R383). -/
def raiseDue (s : State) : State :=
  (fins 6).foldl (fun s (i : Fin 6) =>
    let due := s.hif.irqs[i].due
    let s1 := hifMod (fun h => { h with irqs := vset h.irqs i { raised := due, due := false } }) s
    if due then raiseVector (queueOf s i).vector s1 else s1) s

end Sys2Proof.Machine
end

