-- ==== Sys2Proof/Machine/Eth.lean ====
section
/-!
DEFINITION. The Ethernet ports (R264–R278): the link, receive classification and queues, PAUSE, the transparent clock and the
PTP instances.
-/
namespace Sys2Proof.Machine

/-! ### The link -/

/-- ETH_LINK_DOWN (R265). A fenced port raises nothing (R457). -/
def execEthLinkDown (port : Fin 4) (s : State) : Host.Outcome State Fault Refusal :=
  if s.net.eth[port].up then fin (raise Src.ethLinkDown port 0 (ethDown port s)) else .next s

/-- ETH_LINK_UP (R264, R265): FEC_LOCK in MODE 3 with FEC, AN_DONE and the resolved pause in MODE 1 with AN. -/
def execEthLinkUp (port : Fin 4) (fecLock anPause : Bool) (s : State) : Host.Outcome State Fault Refusal :=
  let m := ethMode s port
  if m = 0 ∨ s.net.eth[port].up ∨ fenced s (.eth port) then .next s
  else
    let fec : Bool := decide (m = 3) && regBit s (Reg.ethCtrl port) 3
    let an : Bool := decide (m = 1) && regBit s (Reg.ethCtrl port) 4
    fin (report 0x0501 port [1] (ethMod port (fun e =>
      { e with up := true, blockLock := true, fecLock := fec && fecLock, anDone := an, anPause := an && anPause }) s))

/-- A write of ETH_CTRL takes the port down (R265). -/
def writeEthCtrl (port : Fin 4) (value : Word) (s : State) : State :=
  let s1 := regSet (Reg.ethCtrl port) (value &&& 0x3FFF001F) s
  if s.net.eth[port].up then raise Src.ethLinkDown port 0 (ethDown port s1) else s1

/-! ### Classification (R266, R267) -/

/-- The bytes of a frame from an offset, as a big-endian number. -/
def frameN (b : List Byte) (off n : Nat) : Nat := ofBe ((b.drop off).take n)

/-- The offset of the EtherType after any 802.1Q tags. -/
def etypeAt (b : List Byte) : Nat → Nat → Nat
  | 0, off => off
  | k + 1, off => if frameN b off 2 = 0x8100 then etypeAt b k (off + 4) else off

/-- What classification sees of a frame: its first tag, its EtherType and the offset of what follows, and for IPv4 whether it is
a fragment other than the first, whether it is unfragmented, its protocol, and the UDP destination port and payload offset. -/
structure FrameView where
  tag : Option (Nat × Nat)
  etype : Nat
  body : Nat
  ipv4 : Bool
  laterFragment : Bool
  whole : Bool
  proto : Nat
  udpPort : Nat
  payload : Nat
  deriving DecidableEq, Repr

def frameView (b : List Byte) : FrameView :=
  let e := etypeAt b b.length 12
  let tci := frameN b 14 2
  let body := e + 2
  let ip : Bool := decide (frameN b e 2 = 0x0800)
  let frag := frameN b (body + 6) 2
  let udp := body + 4 * (frameN b body 1 % 16)
  { tag := if e = 12 then none else some (tci % 4096, tci / 8192), etype := frameN b e 2, body := body, ipv4 := ip,
    laterFragment := ip && decide (frag % 8192 ≠ 0), whole := ip && decide (frag % 16384 = 0),
    proto := if ip then frameN b (body + 9) 1 else 0, udpPort := frameN b (udp + 2) 2, payload := udp + 8 }

/-- A UDP datagram over IPv4, its first fragment included. -/
def FrameView.udp (v : FrameView) : Bool := v.ipv4 && decide (v.proto = 17) && !v.laterFragment

/-- Step 2 of R266: a PTP message. -/
def FrameView.ptp (v : FrameView) : Bool :=
  decide (v.etype = 0x88F7) || (v.udp && (decide (v.udpPort = 319) || decide (v.udpPort = 320)))

/-- The RTP packet in a UDP frame (R285, R291). -/
def frameRtp (b : List Byte) (v : FrameView) : RtpIn :=
  let o := v.payload
  { dstIp := BitVec.ofNat 32 (frameN b (v.body + 16) 4), udpPort := BitVec.ofNat 16 v.udpPort,
    srcIp := BitVec.ofNat 32 (frameN b (v.body + 12) 4), ssrc := BitVec.ofNat 32 (frameN b (o + 8) 4),
    pt := BitVec.ofNat 7 (frameN b (o + 1) 1), seq := BitVec.ofNat 16 (frameN b (o + 2) 2),
    ts := BitVec.ofNat 32 (frameN b (o + 4) 4), csrc := BitVec.ofNat 4 (frameN b o 1), ext := bitOf (frameN b o 1) 4,
    payload := (b.drop (o + 12)).take (frameN b (o - 4) 2 - 20), sinceNs := 0 }

/-- A filter matches a frame (R267). -/
def filterMatches (s : State) (p : Fin 4) (f : Fin 64) (b : List Byte) (v : FrameView) : Bool :=
  let c := regGet s (Reg.ethFiltCtrl p f)
  let hi := regGet s (Reg.ethFiltDmacHi p f)
  let dmac := fld hi 15 0 * 2 ^ 32 + (regGet s (Reg.ethFiltDmacLo p f)).toNat
  flag c 0 &&
    (!flag c 1 || (v.tag.elim false fun t => decide (t.1 = fld c 27 16))) &&
    (!flag c 2 || (v.tag.elim false fun t => decide (t.2 = fld c 14 12))) &&
    (!flag c 3 || decide (v.etype = fld hi 31 16)) &&
    (!flag c 4 || decide (frameN b 0 6 = dmac)) &&
    (!flag c 5 || (v.udp && v.whole && decide (v.udpPort = regFld s (Reg.ethFiltUdp p f) 15 0)))

/-- Steps 5 and 6 of R266: the queue of the first matching filter with its timestamp, else queue 15. -/
def steer (s : State) (p : Fin 4) (f : EthFrame) (v : FrameView) : RxFrame :=
  let hit := if v.laterFragment then none else (fins 64).find? fun k => filterMatches s p k f.bytes v
  match hit with
  | none => { queue := 15, bytes := f.bytes, time := none }
  | some k =>
    let c := regGet s (Reg.ethFiltCtrl p k)
    { queue := ⟨fld c 11 8 % 16, Nat.mod_lt _ (by decide)⟩, bytes := f.bytes,
      time := if flag c 6 then some (rxStamp s p f.time) else none }

/-- The service core answers an IGMP query with the reports of the streams' multicast legs on the port (R291). -/
def answerIgmp (p : Fin 4) (s : State) : State :=
  (s.net.rx.filter fun e => e.2.on).foldl (fun s e =>
    (rxLegs e.2.cfg).foldl (fun s l =>
      if l.1 = p ∧ multicast l.2.1 then launch p (.igmp l.2.1 e.2.cfg.srcIp true) s else s) s) s

/-- A port takes frames: its ETH domain runs (R257), its link is up and no fence holds it. -/
def ethRuns (s : State) (p : Fin 4) : Bool :=
  decide (s.power.state = .running) && s.net.eth[p].up && !fenced s (.eth p)

/-- ETH_FRAME_RECEIVED (R264, R266–R268). The effect of a MAC control frame, a PTP message and an RTP packet at its destination
is that of the commands PAUSE_RECEIVED, PTP_MESSAGE and AOIP_PACKET_RECEIVED. -/
def execEthFrameReceived (port : Fin 4) (f : EthFrame) (s : State) : Host.Outcome State Fault Refusal :=
  if !ethRuns s port then .next s
  else
    let n := frameLen f.bytes
    if !f.fcsOk || decide (n < 64) || decide (maxFrame s port < n) then fin (rxDrop port s)
    else
      let v := frameView f.bytes
      if v.etype = 0x8808 then .next s
      else if v.ptp && !v.laterFragment && regBit s (Reg.ethPtpCfg port) 0 then .next s
      else if v.etype = 0x0806 ∧ regGet s (Reg.ethIpv4 port) ≠ 0 ∧
          frameN f.bytes (v.body + 24) 4 = (regGet s (Reg.ethIpv4 port)).toNat then
        fin (if bufferFull s port n then rxDrop port s else passBuffer port n s)
      else if v.ipv4 && !v.laterFragment && decide (v.proto = 2) then
        let ihl := 4 * (frameN f.bytes v.body 1 % 16)
        fin (if bufferFull s port n then rxDrop port s
          else if frameN f.bytes (v.body + ihl) 1 = 0x11 then answerIgmp port (passBuffer port n s) else passBuffer port n s)
      else if v.udp && (rxStreamOf s port (frameRtp f.bytes v)).isSome then .next s
      else fin (enqueueRx port (steer s port f v) s)

/-! ### PAUSE (R269–R271) -/

/-- PAUSE_RECEIVED (R270, R271). -/
def execPauseReceived (port : Fin 4) (quanta : BitVec 16) (s : State) : Host.Outcome State Fault Refusal :=
  if !ethRuns s port then .next s
  else if !(pauseEnables s port).2 || pauseStuck s port then fin (bump (Reg.ethPauseIgnCount port) 1 s)
  else if quanta = 0 then fin (if s.net.eth[port].paused then resumePort port s else s)
  else .next (ethMod port (fun e =>
    { e with paused := true, pauseSince := if e.paused then e.pauseSince else s.time.refTime,
             pauseEnds := s.time.refTime + quantaUnits s port quanta.toNat }) s)

/-- PAUSE_EXPIRY (R270): the quanta of the last PAUSE have passed. -/
def execPauseExpiry (port : Fin 4) (s : State) : Host.Outcome State Fault Refusal :=
  if s.net.eth[port].paused ∧ mayHavePassed s s.net.eth[port].pauseEnds 0 = true then fin (resumePort port s) else .next s

/-- WD_MS in the unit of refTime; 0 acts as 1 (R301). -/
def watchdogUnits (s : State) (p : Fin 4) : Nat := max 1 (regFld s (Reg.ethPauseCfg p) 31 24) * (refSecond / 1000)

/-- PAUSE_WATCHDOG (R271): the port has been paused for WD_MS. -/
def execPauseWatchdog (port : Fin 4) (s : State) : Host.Outcome State Fault Refusal :=
  if s.net.eth[port].paused ∧ mayHavePassed s s.net.eth[port].pauseSince (watchdogUnits s port) = true then
    fin (raise Src.ethPauseStuck port 0 (sticky (Reg.ethPauseStat port) 0 (resumePort port s)))
  else .next s

/-- PAUSE_REFRESH (R269): half the QUANTA time has passed since the last PAUSE. -/
def execPauseRefresh (port : Fin 4) (s : State) : Host.Outcome State Fault Refusal :=
  if s.net.eth[port].pausing && (pauseEnables s port).1 && decide (pauseLow s port < bufBytes s.net.eth[port].rx * 100) &&
      mayHavePassed s s.net.eth[port].pauseSent (quantaUnits s port (pauseQuanta s port) / 2) then
    .next (sendPause port (pauseQuanta s port) s)
  else .next s

/-- PAUSE_STUCK written with 1 (R271, R301). -/
def writePauseStat (port : Fin 4) (value : Word) (s : State) : State :=
  if flag value 0 then regSet (Reg.ethPauseIgnCount port) 0 (regSet (Reg.ethPauseStat port) 0 s) else s

/-! ### PTP (R272–R278) -/

def ptpOn (s : State) (p : Fin 4) : Bool := regBit s (Reg.ethPtpCfg p) 0
def tcOn (s : State) (p : Fin 4) : Bool := regBit s (Reg.ethPtpCfg p) 1

/-- PROFILE; 3 acts as 0 (R301). -/
def ptpProfile (s : State) (p : Fin 4) : Nat := let x := regFld s (Reg.ethPtpCfg p) 5 4; if x = 3 then 0 else x

/-- The instance's domain; out of range acts as the profile's default (R277, R301). -/
def ptpDomain (s : State) (p : Fin 4) : Nat :=
  let d := regFld s (Reg.ethPtpCfg p) 15 8
  match ptpProfile s p with
  | 0 => d
  | 1 => if 127 < d then 127 else d
  | _ => if 127 < d then 0 else d

/-- The instance's transport (R277). -/
def ptpL2 (s : State) (p : Fin 4) : Bool := decide (ptpProfile s p = 0) && regBit s (Reg.ethPtpCfg p) 2

/-- The message intervals in force (R277): logSync, logAnnounce, logMinDelayReq, each as the nearest limit. -/
def ptpIntervals (s : State) (p : Fin 4) : Int × Int × Int :=
  let c := regGet s (Reg.ethPtpCfg p)
  let y := signed 4 (fld c 19 16)
  let a := signed 4 (fld c 23 20)
  let d := signed 4 (fld c 27 24)
  match ptpProfile s p with
  | 0 => (clampI (-1) 1 y, clampI 0 4 a, clampI 0 5 d)
  | 1 => let y1 := clampI (-7) (-1) y; (y1, clampI (-3) 1 a, clampI y1 (y1 + 5) d)
  | _ => (clampI (-4) 1 y, clampI 0 4 a, clampI (-3) 5 d)

/-- A message interval 2^x s in the unit of refTime. -/
def logInterval (x : Int) : Nat := if 0 ≤ x then refSecond * 2 ^ x.toNat else refSecond / 2 ^ (-x).toNat

/-- What carries the instance's own messages (R277). -/
def ptpHead (s : State) (p : Fin 4) (interval : Int) : PtpHead :=
  let v := regGet s (Reg.ethMgmtVlan p)
  let l2 := ptpL2 s p
  { l2 := l2, dstMac := if l2 then 0x011B19000000 else 0x01005E000181, dstIp := if l2 then 0 else 0xE0000181,
    srcIp := if l2 then 0 else regGet s (Reg.ethIpv4 p), ttl := if l2 then 0 else 1,
    tag := if flag v 15 then some (BitVec.ofNat 15 v.toNat) else none, domain := BitVec.ofNat 8 (ptpDomain s p), interval := interval }

/-- The VLAN in which the port's PTP messages travel (R277). -/
def ptpVlan (s : State) (p : Fin 4) : Option (BitVec 12) :=
  let v := regGet s (Reg.ethMgmtVlan p)
  if flag v 15 then some (BitVec.ofNat 12 (fld v 11 0)) else none

/-- clockIdentity of an instance (R278). -/
def clockIdentity (s : State) (p : Fin 4) : BitVec 64 := BitVec.ofNat 64 ((ownEui s).toNat / 4 * 4 + p.val)

/-- What the upstream partner says in its DISCOVER that its time comes from (R181), if it is the anchor itself. -/
def anchorSource (s : State) : Option Nat :=
  match s.clock.upstream, s.clock.anchor with
  | some n, some a =>
    if s.links[n].partner.isSome ∧ peerId s.links[n] = a.id then s.links[n].partner.map fun b => discN b 0x24 1 else none
  | _, _ => none

/-- Announce: the node's state (R278). A follower takes the anchor's source from the DISCOVER of a partner that is the anchor;
further away it does not know it: a free value (DESIGN CHOICE, log 74). -/
def announceOf (s : State) (p : Fin 4) : PtpOut × State :=
  let prio := regGet s (Reg.ethPtpPrio p)
  let mk (c a v t : Nat) : PtpOut := .announce c a v t (fld prio 7 0) (fld prio 15 8) (clockIdentity s p)
  let cls0 : Bool := match s.clock.anchor with | some a => decide (a.cls = 0) | none => false
  if s.clock.dpll = .locked && cls0 then
    if s.clock.isAnchor then
      let t := match s.clock.selected with | some n => if candType s n = 6 then 0x20 else 0x40 | none => 0x40
      (mk 6 0x21 0x4E5D t, s)
    else match anchorSource s with
      | some x => (mk 6 0x21 0x4E5D (if x = 6 then 0x20 else 0x40), s)
      | none =>
        let f := freshFree 1 s
        (mk 6 0x21 0x4E5D (if f.1 = 0 then 0x20 else 0x40), f.2)
  else if s.clock.dpll = .holdover then
    (mk (if 7 ≤ s.clock.learnSecs / 86400 then 7 else 52) 0xFE 0xFFFF 0xA0, s)
  else (mk 248 0xFE 0xFFFF 0xA0, s)

/-- The transparent clock forwards a message to every other member whose link is up (R274, R275). -/
def tcForward (port : Fin 4) (m : PtpMsg) (s : State) : State :=
  (fins 4).foldl (fun s q =>
    if q ≠ port ∧ tcOn s q ∧ s.net.eth[q].up then
      bump (Reg.ethTcFwdCount q) 1 (launch q (.ptp none (.forwarded m (rxStamp s port m.time))) s)
    else s) s

/-- SLAVE_ONLY of an instance. -/
def slaveOnly (s : State) (p : Fin 4) : Bool := regBit s (Reg.ethPtpCfg p) 3

/-- The portState that the best-master algorithm reaches (R276): SLAVE_ONLY keeps the instance out of PRE_MASTER and MASTER. -/
def ptpStateOf (s : State) (p : Fin 4) (x : BitVec 4) : BitVec 4 :=
  if x = 0 ∨ 9 < x.toNat then s.net.eth[p].ptpState
  else if slaveOnly s p && (decide (x = 5) || decide (x = 6)) then 4 else x

/-- A SLAVE sends Delay_Req after a Sync, once in each interval of 2^logMinDelayReq s (R276; when, DESIGN CHOICE, log 155). -/
def sendDelayReq (port : Fin 4) (s : State) : State :=
  let e := s.net.eth[port]
  let due : Bool := match e.delayReqAt with
    | some t => decide (t + logInterval (ptpIntervals s port).2.2 ≤ s.time.refTime)
    | none => true
  if e.ptpState = 9 ∧ due then
    launch port (.ptp (some (ptpHead s port (ptpIntervals s port).2.2)) (.delayReq e.reqSeq))
      (ethMod port (fun e => { e with delayReqAt := some s.time.refTime, reqSeq := e.reqSeq + 1 }) s)
  else s

/-- A message at the port's instance (R272, R273, R276, R278). -/
def ptpInstance (port : Fin 4) (m : PtpMsg) (s : State) : State :=
  if m.kind = .announce ∧ !m.ptpTimescale then ethMod port (fun e => { e with arb := true }) s
  else
    let st := ptpStateOf s port m.portState
    let s1 := ethMod port (fun e => { e with
      ptpState := st, utc := if m.kind = .announce then m.utcOffset else e.utc,
      announceAt := if m.kind = .announce then s.time.refTime else e.announceAt,
      masterTime := if m.kind = .sync ∨ m.kind = .followUp then some (ptpTimeIn m) else e.masterTime,
      rxTime := some (rxStamp s port m.time) }) s
    if m.kind = .delayReq ∧ s.net.eth[port].ptpState = 6 then
      launch port (.ptp (some (ptpHead s port (ptpIntervals s port).2.2))
        (.delayResp m.requester m.sequence (ptpTime (rxStamp s port m.time)))) s1
    else if m.kind = .sync then sendDelayReq port s1
    else s1

/-- PTP_MESSAGE (R268, R274–R278): the transparent clock, and the port's instance for its own domain, transport and VLAN. In the
receive buffer it counts as a shortest frame (DESIGN CHOICE, log 156). -/
def execPtpMessage (port : Fin 4) (m : PtpMsg) (s : State) : Host.Outcome State Fault Refusal :=
  if !ethRuns s port then .next s
  else if m.kind = .pdelay then fin (if ptpOn s port || tcOn s port then rxDrop port s else s)
  else if bufferFull s port 64 then fin (rxDrop port s)
  else
    let s0 := passBuffer port 64 s
    let s1 := if tcOn s port then tcForward port m s0 else s0
    let mine : Bool := ptpOn s port && decide (m.domain.toNat = ptpDomain s port) && decide (m.l2 = ptpL2 s port) &&
      decide (m.vlan = ptpVlan s port)
    fin (if mine then ptpInstance port m s1 else s1)

/-- PTP_MASTER_SEND (R278): Sync or Announce of an instance in MASTER. -/
def execPtpMasterSend (port : Fin 4) (announce : Bool) (s : State) : Host.Outcome State Fault Refusal :=
  if ptpOn s port && decide (s.net.eth[port].ptpState = 6) then
    if announce then
      let a := announceOf s port
      fin (launch port (.ptp (some (ptpHead s port (ptpIntervals s port).2.1)) a.1) a.2)
    else fin (launch port (.ptp (some (ptpHead s port (ptpIntervals s port).1)) (.sync none)) s)
  else .next s

/-- After a write of ETH_PTP_CFG: an instance that is switched on begins in INITIALIZING, one that is switched off ends, and with
SLAVE_ONLY it leaves PRE_MASTER and MASTER for LISTENING (R276). -/
def ptpCfgWritten (port : Fin 4) (was : Bool) (s : State) : State :=
  if was ≠ ptpOn s port then
    ethMod port (fun e => { e with ptpState := 1, arb := false, utc := 0, masterTime := none, delayReqAt := none, announceAt := s.time.refTime }) s
  else if slaveOnly s port ∧ (s.net.eth[port].ptpState = 5 ∨ s.net.eth[port].ptpState = 6) then
    ethMod port (fun e => { e with ptpState := 4, announceAt := s.time.refTime }) s
  else s

/-- An instance at a tick boundary (R276, R277): with the link up it begins to listen; three announce intervals without an
Announce make it MASTER, or with SLAVE_ONLY leave it LISTENING (PRESUMED, log 155). -/
def ptpBoundary (p : Fin 4) (s : State) : State :=
  let e := s.net.eth[p]
  if !ptpOn s p ∨ !e.up then s
  else if e.ptpState = 1 then ethMod p (fun e => { e with ptpState := 4, announceAt := s.time.refTime }) s
  else if (e.ptpState = 4 ∨ 7 ≤ e.ptpState.toNat) ∧ e.announceAt + 3 * logInterval (ptpIntervals s p).2.1 ≤ s.time.refTime then
    ethMod p (fun e => { e with ptpState := if slaveOnly s p then 4 else 6, announceAt := s.time.refTime }) s
  else s

/-! ### Boundary and views -/

/-- A PAUSE toward the partner that has not been refreshed lapses (R269, R301). -/
def pauseLapse (p : Fin 4) (s : State) : State :=
  if s.net.eth[p].pausing ∧ s.net.eth[p].pauseUntil ≤ boundaryTime s then ethMod p (fun e => { e with pausing := false }) s else s

/-- The ports at a boundary: what was sent belongs to the tick that ended; packets of a paused port that are too late are
discarded (R270), a PAUSE sent may have lapsed, and the PTP instances count their announce receipt timeout. -/
def runEth (s : State) : State :=
  (fins 4).foldl (fun s p => ptpBoundary p (pauseLapse p (dropLate p (ethMod p (fun e => { e with sent := [] }) s)))) s

/-- ETH_STAT (R301). -/
def ethStat (s : State) (p : Fin 4) : Word :=
  let e := s.net.eth[p]
  BitVec.ofNat 32 (bitAt e.up 0 + bitAt e.blockLock 1 + bitAt e.fecLock 2 + bitAt e.anDone 3 + bitAt e.paused 4 + bitAt e.pausing 5 +
    bufBytes e.rx / 1024 * 65536)

/-- ETH_PTP_STAT (R301). -/
def ethPtpStat (s : State) (p : Fin 4) : Word :=
  let e := s.net.eth[p]
  if ptpOn s p then BitVec.ofNat 32 (e.ptpState.toNat + bitAt e.arb 4 + e.utc.toNat * 65536) else 0

end Sys2Proof.Machine
end

