-- ==== Sys2Proof/Machine/RegView.lean ====
section
/-!
DEFINITION. What a read of BAR0 returns (R6, R481, R496, R524–R526, R531): the register file, and the registers that show state
held elsewhere.
-/
namespace Sys2Proof.Machine

/-- ROUTER_CAP (R66), FSW_CAP (R226) and AOIP_CAP (R303). -/
def routerCap (s : State) : Word := BitVec.ofNat 32 (0x40000000 + byBand s 0x2000 0x1000 0x0800)
def fswCap (s : State) : Word := BitVec.ofNat 32 (0x80000 + byBand s 0x3800 0x1C00 0x0E00)

/-- LINK_STAT (R192). -/
def linkStat (s : State) (n : Fin 16) : Word :=
  let l := s.links[n]
  BitVec.ofNat 32 (l.state.code + bitAt l.signal 3 + bitAt l.blockLock 4 + bitAt l.align 5 + bitAt l.partnerAligned 6 +
    bitAt l.formatMismatch 7 + bitAt l.versionMismatch 8 + bitAt l.selfLoop 9 + peerLink l * 4096 + (peerId l).toNat * 65536)

/-- LINK_TXEQ (R192). -/
def linkTxeq (s : State) (n : Fin 16) : Word :=
  let l := s.links[n]
  if l.trained then
    BitVec.ofNat 32 (l.pre.toNat + l.post.toNat * 256 + (64 - l.pre.toNat - l.post.toNat) * 65536 + l.ctle.toNat * 2 ^ 24)
  else BitVec.ofNat 32 (l.pre.toNat + l.post.toNat * 256 + l.ctle.toNat * 2 ^ 24)

/-- LINK_EYE (R192): AGE_DAYS counts from the survey. -/
def linkEye (s : State) (n : Fin 16) : Word :=
  let age := s.links[n].eyeAt.elim 0 fun t => satN 16 ((s.time.refTime - t) / (86400 * refSecond))
  setFld (regGet s (Reg.linkEye n)) 31 16 age

/-- FSW_PAIR_STAT (R226). -/
def fswPairStat (s : State) : Word :=
  match s.fabric.pair with
  | none => 0
  | some p => BitVec.ofNat 32 (p.partner.toNat + bitAt (decide (p.since ≤ now s)) 12 + bitAt (decide (p.compareFrom ≤ now s)) 13)

/-- FSW_RXOFS_n in ns (R194, R226). -/
def fswRxofs (s : State) (n : Fin 16) : Word :=
  if attached s n then BitVec.ofInt 32 (s.links[n].rxOfs / 16) else 0

/-- HIF_STAT, HIF_OWNER and HIF_ACCEPT (R405). -/
def hifStat (s : State) : Word :=
  let h := s.hif
  BitVec.ofNat 32 (bitAt (h.polling || h.startPoll) 0 + bitAt h.dirBad 1 + bitAt h.ringsStopped 2 + bitAt h.tunnelLost 3 + h.dirOffset * 256)

def hifOwner (s : State) : Word :=
  match s.hif.owner with
  | none => 0
  | some o => BitVec.ofNat 32 (o.id.toNat + o.gen.toNat * 65536 + 2 ^ 24)

/-- ACCEPT_SEQ of the last descriptor taken; 0 before the first. -/
def hifAccept (s : State) : Word :=
  BitVec.ofNat 32 ((if s.hif.accepted = 0 then 0 else (s.hif.accepted - 1) % 65536) + timedHeld s % 8192 * 65536)

/-- The code of a DMA channel state (R401). -/
def DmaState.code : DmaState → Nat
  | .stopped => 0 | .running => 1 | .stopping => 2 | .halted => 3

/-- DMA_STATE_LO and DMA_STATE_HI (R406). -/
def dmaStates (s : State) (lo : Nat) : Word :=
  BitVec.ofNat 32 ((List.range 16).foldl (fun a d =>
    a + (vgetD s.dma (lo + d) DmaCh.reset).state.code * 4 ^ d) 0)

/-- MB_CTRL: REQ_MODE reads 1 in forerunner mode (R442). -/
def mbCtrl (s : State) (n : Fin 2) : Word :=
  if s.power.compat then regGet s (Reg.mbCtrl n) ||| 0x800 else regGet s (Reg.mbCtrl n)

/-- This module holds MB_ALERT_n low (R441). -/
def alertHeld (s : State) (n : Fin 2) : Bool :=
  flag (mbCtrl s n) 11 && regBit s (Reg.mbTgtReq n) 0 && !regBit s (Reg.mbTgtReq n) 2

/-- MB_STAT (R448). -/
def mbStat (s : State) (n : Fin 2) : Word :=
  let b := s.mb[n]
  let st : Nat := if b.rst ≠ .none then 5 else if b.stuck then 4
    else if (b.cur.elim false fun c => decide (c.phase = .running)) then 2 else if b.tgt.isSome then 3 else if b.others then 1 else 0
  BitVec.ofNat 32 (st + bitAt b.scl 3 + bitAt b.sda 4 + bitAt (b.alertIn || alertHeld s n) 5)

/-- TEST_DBG_STAT (R534). -/
def testStat (s : State) : Word := BitVec.ofNat 32 (bitAt s.test.dbg.isSome 0 + s.test.resp * 2)

/-- Unit i of an array of registers at a block base. -/
def unitOf (n : Nat) (off base stride : Nat) : Option (Fin n) := if off < base then none else toFin? n ((off - base) / stride)

/-- Registers of the GLOBAL to FLASH blocks that show state held elsewhere, on a path. -/
def lowView (path : AccessPath) (s : State) (off : Nat) : Option Word :=
  match off with
  | 0x10 => some (glbMode s)
  | 0x14 => some (glbMediaRate s)
  | 0x20 => some (BitVec.ofNat 32 (now s))
  | 0x24 => some (capturedHi s path)
  | 0x28 => some (glbUptime s)
  | 0x1000 => some (clkStat s)
  | 0x200C => some (refSelStat s)
  | 0x2010 => some (BitVec.ofInt 32 (clampI (-2147483648) 2147483647 s.clock.error))
  | 0x2014 => some (holdoverStat s)
  | 0x201C => some (anchorStat s)
  | 0x20C0 => some (pulseCfgView s 0)
  | 0x20C4 => some (pulseCfgView s 1)
  | 0x3004 => some (cmpActive s)
  | 0x4004 => some (hifStat s)
  | 0x4010 => some (hifOwner s)
  | 0x4030 => some (hifAccept s)
  | 0x4038 => some (BitVec.ofNat 32 s.tun.bridges.length)
  | 0x5000 => some (dmaStates s 0)
  | 0x5004 => some (dmaStates s 16)
  | 0x8004 => some (sumpStat s)
  | 0x9000 => some (protStat s)
  | 0x9008 => some s.prot.nonce
  | 0x9010 => some (BitVec.ofNat 32 (pathClass path))
  | 0xA004 => some (ageVdd s)
  | 0xA008 => some (agePlan s)
  | 0xA00C => some (agePending s)
  | 0xB000 => some (mbCtrl s 0)
  | 0xB100 => some (mbCtrl s 1)
  | 0xB00C => some (mbStat s 0)
  | 0xB10C => some (mbStat s 1)
  | 0xC000 => some (bootStat s)
  | 0xC004 => some (slotInfo s 0)
  | 0xC008 => some (slotInfo s 1)
  | 0xC00C => some s.flash.slots[(0 : Fin 2)].crc
  | 0xC010 => some s.flash.slots[(1 : Fin 2)].crc
  | 0xC014 => some (cfgPtr s)
  | 0xC018 => some (flashProgress s)
  | 0xC01C => some (svnFuse s)
  | _ => none

/-- Registers of the larger arrays below 0x1_0000: reference slots, check-value units, source summaries. -/
def lowArray (s : State) (off : Nat) : Option Word :=
  if 0x2048 ≤ off ∧ off < 0x20C0 then
    (unitOf 8 off 0x2040 16).bind fun n => if off % 16 = 8 then some (refStat s n) else if off % 16 = 12 then some (refOffset s n) else none
  else if 0x7000 ≤ off ∧ off < 0x7200 then crcRead s (off - 0x7000)
  else if 0x8800 ≤ off ∧ off < 0x8C00 ∧ off % 4 = 0 then some (sumpSum s ((off - 0x8800) / 4))
  else none

/-- Registers of a link. -/
def linkView (s : State) (n : Fin 16) (o : Nat) : Option Word :=
  match o with
  | 0x04 => some (linkStat s n)
  | 0x08 => some (BitVec.ofNat 32 (peerEui s.links[n]))
  | 0x0C => some (BitVec.ofNat 32 (peerEui s.links[n] / 2 ^ 32))
  | 0x10 => some (linkTxeq s n)
  | 0x14 => some (linkEye s n)
  | _ => none

/-- Registers of a serial port (0–7) or AES3 port (8–11). -/
def portView (s : State) (p : Fin 12) (o : Nat) : Option Word :=
  if isAes p then
    (match o with | 0x04 => some (portStat s p) | 0x10 => some s.ports.port[p].rate | _ => none)
  else if 0x20 ≤ o ∧ o < 0x30 ∧ o % 4 = 0 then (toFin? 4 ((o - 0x20) / 4)).map (portMaskView s p)
  else match o with
    | 0x08 => some (portStat s p)
    | 0x14 => some s.ports.port[p].rate
    | _ => none

/-- Registers of a power-stage channel. -/
def chView (s : State) (c : Fin 8) (o : Nat) : Option Word :=
  match o with
  | 0x0C => some (psChStat s c)
  | 0x10 => some (psChPower s c)
  | 0x14 => some (psChRe s c)
  | 0x18 => some (psChBudget s c)
  | _ => none

/-- Registers of the audio blocks, 0x1_0000 and above, that show state held elsewhere. -/
def highView (s : State) (off : Nat) : Option Word :=
  if 0x14000 ≤ off ∧ off < 0x24000 then
    (unitOf 16 off 0x14000 0x1000).bind fun n =>
      if off % 0x1000 = 0 then some (BitVec.ofNat 32 (0x22000 + n.val)) else if off % 0x1000 = 4 then some (tileStat s n) else none
  else if 0x28000 ≤ off ∧ off < 0x2C000 then (unitOf 16 off 0x28000 0x400).bind fun n => linkView s n (off % 0x400)
  else if 0x2C040 ≤ off ∧ off < 0x2C080 ∧ off % 4 = 0 then (unitOf 16 off 0x2C040 4).map (fswRxofs s)
  else if 0x30000 ≤ off ∧ off < 0x34000 then
    (unitOf 4 off 0x30000 0x1000).bind fun p =>
      if off % 0x1000 = 4 then some (ethStat s p) else if off % 0x1000 = 0x3C then some (ethPtpStat s p) else none
  else if 0x36000 ≤ off ∧ off < 0x38000 then (unitOf 8 off 0x36000 0x400).bind fun p => portView s ⟨p.val, by omega⟩ (off % 0x400)
  else if 0x38000 ≤ off ∧ off < 0x39000 then (unitOf 4 off 0x38000 0x400).bind fun p => portView s ⟨8 + p.val, by omega⟩ (off % 0x400)
  else if 0x3A100 ≤ off ∧ off < 0x3A300 then (unitOf 8 off 0x3A100 0x40).bind fun c => chView s c (off % 0x40)
  else match off with
    | 0x10008 => some (routerCap s)
    | 0x10020 => some (directActive s 0)
    | 0x10024 => some (directActive s 32)
    | 0x24008 => some (benchOver s 0)
    | 0x2400C => some (benchOver s 32)
    | 0x2C004 => some (fswCap s)
    | 0x2C024 => some (fswPairStat s)
    | 0x34004 => some (aoipUse s)
    | 0x39004 => some (BitVec.ofNat 32 (asrcUse s))
    | 0x3A000 => some (psFswStat s)
    | 0x3A00C => some (psSupply s)
    | 0x3A010 => some (psAvail s)
    | 0x3A014 => some (psRail s 0)
    | 0x3A018 => some (psRail s 1)
    | 0x3E010 => some (testStat s)
    | _ => none

/-- The value of the register at an offset on a path; 0 at a reserved offset (R524). -/
def regView (path : AccessPath) (s : State) (off : Nat) : Word :=
  if (regRow off).isNone then 0
  else
    let v := if off < 0x10000 then (lowView path s off).orElse fun _ => lowArray s off else highView s off
    v.getD (regGet s off)

/-- Setup registers answer (R481, R496): from HOST_READY on, and not in sleep. -/
def regsOpen (s : State) : Bool := decide (s.power.stage = .hostReady) && decide (s.power.state = .running)

/-- A read on a path (R481, R496): before HOST_READY only BOOT_STAT reads its value; in sleep every read returns 0. -/
def busRead (path : AccessPath) (s : State) (off : Nat) : Word :=
  if regsOpen s then regView path s off
  else if s.power.state ≠ .sleep ∧ off = Reg.bootStat then bootStat s else 0

/-- The effect of a read: the capture of R531 alone. -/
def afterRead (path : AccessPath) (off : Nat) (s : State) : State :=
  if regsOpen s ∧ off = Reg.glbTickLo then captureTick path s else s

end Sys2Proof.Machine
end

