-- ==== Sys2Proof/Machine/RegWrite.lean ====
section
/-!
DEFINITION. Writes of BAR0 (R6, R525–R527): the access codes field by field, the counters that a W1C flag clears, and the
registers whose write does more than store.
-/
namespace Sys2Proof.Machine

/-- A counter that a W1C flag clears: the flag's bit, the counter's register and its field. -/
abbrev FlagCount := Nat × Nat × Nat × Nat

/-- A whole counter register. -/
def whole (bit reg : Nat) : FlagCount := (bit, reg, 31, 0)

/-- The counters that the W1C flags of the register at an offset clear. -/
def flagCounts (off : Nat) : List FlagCount :=
  if off = Reg.routerSatStat then [whole 0 Reg.routerSatCount, whole 1 Reg.directSatCount]
  else if 0x14000 ≤ off ∧ off < 0x24000 then
    let n := (off - 0x14000) / 0x1000
    (if off = Reg.tileFlags n then
      [whole 0 (Reg.tileSatCount n), whole 1 (Reg.tileWrapCount n), whole 2 (Reg.tileParityCount n), whole 3 (Reg.tileCycMax n)]
    else [])
  else if off = Reg.dramEccStat then [whole 0 Reg.dramCeCount, whole 1 Reg.dramUeCount, whole 2 Reg.benchSatCount]
  else if 0x28000 ≤ off ∧ off < 0x2C000 then
    let n := (off - 0x28000) / 0x400
    (if off = Reg.linkErrStat n then
      [whole 0 (Reg.slotCrcCount n), whole 1 (Reg.cellCrcCount n), whole 2 (Reg.markerMissCount n), whole 3 (Reg.cellDropCount n),
        (3, Reg.linkErrStat n, 4, 4), (5, Reg.linkEvents n, 31, 16)]
    else [])
  else if off = Reg.fswSelStat then
    [whole 0 Reg.fswBTicks, whole 1 Reg.fswHoldTicks, whole 2 Reg.fswGenOldCount, whole 3 Reg.fswDivergeCount,
      whole 4 Reg.fswDigestMissCount]
  else if 0x36000 ≤ off ∧ off < 0x38000 then
    let n := (off - 0x36000) / 0x400
    (if off = Reg.portErrStat n then [whole 1 (Reg.portSpallCount n), whole 5 (Reg.portTwinCount n)] else [])
  else if 0x38000 ≤ off ∧ off < 0x39000 then
    let n := (off - 0x38000) / 0x400
    (if off = Reg.aesErrStat n then [(1, Reg.aesErrCount n, 15, 0), (5, Reg.aesErrCount n, 31, 16)] else [])
  else if off = Reg.psErrStat then
    [whole 0 Reg.psClipCount, whole 1 Reg.psInvalidCount] ++ (List.range 8).map fun c => whole 8 (Reg.psChIlimCount c)
  else if off = Reg.hifErrStat then [whole 1 Reg.hifEqLostCount, whole 2 Reg.hifRecordLostCount]
  else if off = Reg.dmaErrStat then [whole 1 Reg.dmaUnderrunCount, whole 2 Reg.dmaOverrunCount]
  else if off = Reg.mtxErrStat then [whole 0 Reg.mtxDecerrCount, whole 1 Reg.mtxDenyCount]
  else if off = Reg.mbErrStat 0 then [(0, Reg.mbCounts 0, 15, 0), (1, Reg.mbCounts 0, 31, 16), whole 1 (Reg.mbArbInfo 0)]
  else if off = Reg.mbErrStat 1 then [(0, Reg.mbCounts 1, 15, 0), (1, Reg.mbCounts 1, 31, 16), whole 1 (Reg.mbArbInfo 1)]
  else []

/-- Clear the counters of the flags that are written with 1. -/
def clearCounts (off : Nat) (v : Word) (s : State) : State :=
  (flagCounts off).foldl (fun s x => if flag v x.1 then regSetFld x.2.1 x.2.2.1 x.2.2.2 0 s else s) s

/-- The value a register takes from a write under the access codes of its fields (R525): RW fields always, RWL fields until
SETUP_LOCK, W1C flags cleared by ones; RO, RWP and WO fields take nothing. -/
def storedValue (r : RegRow) (isLocked : Bool) (old v : Word) : Word :=
  let wm := r.rw ||| (if isLocked then 0 else r.rwl)
  ((old &&& ~~~ wm) ||| (v &&& wm)) &&& ~~~ (v &&& r.w1c)

/-- A write of a register that only stores (R525), with the DIRECT_WRITE refusal of changed RWP bits. -/
def plainWrite (r : RegRow) (path : AccessPath) (off : Nat) (v : Word) (s : State) : State :=
  let old := regGet s off
  let s1 := clearCounts off v (regSet off (storedValue r (locked s) old v) s)
  if (v ^^^ old) &&& r.rwp = 0 then s1 else refuse (pathClass path) Refuse.directWrite (off / 4) s1

/-- A write of a PROT register (R466–R468, R476). -/
def protWrite (path : AccessPath) (off : Nat) (v : Word) (s : State) : State :=
  let cls := pathClass path
  if cls = 3 then refuse 3 Refuse.noClass 0 s
  else if off = Reg.protCmd then protCmd cls v s
  else if off = Reg.protConfirm then protConfirm cls v s
  else if 0x9100 ≤ off then protItemWrite cls off v s
  else match regRow off with
    | some r => plainWrite r path off v s
    | none => s

/-- A write of TEST_DBG_CTRL (R532): through BAR0 or TUNNEL_REG, before the lock and while no access runs; READ goes before
WRITE. -/
def writeDbgCtrl (path : AccessPath) (v : Word) (s : State) : State :=
  if locked s ∨ s.test.dbg.isSome ∨ (path ≠ .bar0 ∧ path ≠ .tunnelReg) ∨ fld v 1 0 = 0 then s
  else
    let addr := (regGet s Reg.testDbgAddrLo).toNat + fld (regGet s Reg.testDbgAddrHi) 1 0 * 2 ^ 32
    { s with test := { s.test with dbg := some { allowed := regionAllows s addr (!flag v 0), write := !flag v 0, path := path, addr := addr, data := regGet s Reg.testDbgData } } }

/-- Clear the trace: every entry and NEXT read 0 (R533). -/
def clearTrace (s : State) : State :=
  let inTrace (off : Nat) : Bool := 0x3E200 ≤ off ∧ off < 0x40000
  regSetFld Reg.testTraceCtrl 26 16 0 { s with regs := s.regs.filter fun e => !inTrace e.1 }

/-- A write of TEST_TRACE_CTRL (R533). -/
def writeTraceCtrl (v : Word) (s : State) : State :=
  let s1 := regSetFld Reg.testTraceCtrl 0 0 (fld v 0 0) s
  if flag v 0 ∧ !regBit s Reg.testTraceCtrl 0 then clearTrace s1 else s1

/-- A write of MB_TGT_REQ (R438, R448): PENDING written 1 clears it and SERVED, then SET sets it. -/
def writeTgtReq (n : Nat) (v : Word) (s : State) : State :=
  let s1 := if flag v 0 then regSetFld (Reg.mbTgtReq n) 0 0 0 (regSetFld (Reg.mbTgtReq n) 2 2 0 s) else s
  if flag v 1 then regSetFld (Reg.mbTgtReq n) 0 0 1 s1 else s1

/-- The registers below 0x1_0000 whose write does more than store. -/
def lowWrite (mode : Word → State → State) (off : Nat) (v : Word) (s : State) : Option State :=
  match off with
  | 0x14 => some (writeMediaRate v s)
  | 0x18 => some (writeReset v s)
  | 0x1C => some (writeLock applyTopology v s)
  | 0x1008 => some (startMeasure v s)
  | 0x20C0 => some (writePulseCfg 0 v s)
  | 0x20C4 => some (writePulseCfg 1 v s)
  | 0x3000 => some (writeEvtCfg v s)
  | 0x4000 => some (mode v s)
  | 0xB01C => some (writeTgtReq 0 v s)
  | 0xB11C => some (writeTgtReq 1 v s)
  | 0xD000 => some (writeMeterCtrl v s)
  | _ =>
    if 0x7000 ≤ off ∧ off < 0x7200 then crcWrite (off - 0x7000) v s
    else if 0x2040 ≤ off ∧ off < 0x20C0 ∧ off % 16 = 0 then (toFin? 8 ((off - 0x2040) / 16)).map fun n => writeRefCfg n v s
    else if 0xD400 ≤ off ∧ off < 0xE400 then (toFin? 1024 ((off - 0xD400) / 4)).map fun e => writeMeterSrc e v s
    else none

/-- The registers of 0x1_0000 and above whose write does more than store. -/
def highWrite (path : AccessPath) (off : Nat) (v : Word) (s : State) : Option State :=
  if 0x28000 ≤ off ∧ off < 0x2C000 ∧ off % 0x400 = 0 then (toFin? 16 ((off - 0x28000) / 0x400)).map fun n => writeLinkCtrl n v s
  else if 0x30000 ≤ off ∧ off < 0x34000 then
    (toFin? 4 ((off - 0x30000) / 0x1000)).bind fun p =>
      if off % 0x1000 = 0 then some (if locked s then s else writeEthCtrl p v s)
      else if off % 0x1000 = 0x28 then some (writePauseStat p v s)
      else if off % 0x1000 = 0x30 then (regRow off).map fun r => ptpCfgWritten p (ptpOn s p) (plainWrite r path off v s)
      else none
  else if off = Reg.testDbgCtrl then some (writeDbgCtrl path v s)
  else if off = Reg.testTraceCtrl then some (writeTraceCtrl v s)
  else none

/-- A write of a defined register. A severity that is written may raise the service level (R475, R448); BUS_ERR of DMA_ERR_STAT
stays while a channel is HALTED (R406). `mode` is the write of HIF_CTRL. -/
def regWrite (mode : Word → State → State) (path : AccessPath) (off : Nat) (v : Word) (s : State) : State :=
  match regRow off with
  | none => s
  | some r =>
    if 0x9000 ≤ off ∧ off < 0xA000 then protWrite path off v s
    else if 0x8400 ≤ off ∧ off < 0x8800 then
      let src := (off - 0x8400) / 4
      severityChanged src (severity s src) (plainWrite r path off v s)
    else if off = Reg.dmaErrStat then plainWrite r path off (if dmaHalted s then v &&& ~~~ 1 else v) s
    else
      let special := if off < 0x10000 then lowWrite mode off v s else highWrite path off v s
      special.getD (plainWrite r path off v s)

/-- A write on a path (R481, R496, R526): nothing before HOST_READY or in sleep; MB_0 never writes. -/
def pathWrite (mode : Word → State → State) (path : AccessPath) (off : Nat) (v : Word) (s : State) : State :=
  if path = .mb0 ∨ !regsOpen s then s else regWrite mode path off v s

end Sys2Proof.Machine
end

