-- ==== Sys2Proof/Machine/Dma.lean ====
section
/-!
DEFINITION. The DMA engine (chapter "Host Control: Rings, Doorbells and DMA", R392–R403): descriptors, COPY over the device
bus, audio blocks, received frames, DMA_CTRL and the halt. A channel's transfer is one effect at its end; where an ABORT or a
halt meets a COPY in progress, how many bursts it has moved is a free value.
-/
namespace Sys2Proof.Machine

def dmaMod (d : Fin 32) (f : DmaCh → DmaCh) (s : State) : State := { s with dma := vmod s.dma d f }

/-! ### Descriptors and records -/

/-- Bytes of an audio block (R398). -/
def dmaBlockSize (s : State) (c : DmaCh) : Nat := 40 + 4 * spt s * c.count

/-- A descriptor's bytes as the channel reads them (R393). -/
def dmaParse (s : State) (c : DmaCh) (b : List Byte) : DmaDesc :=
  let n (off k : Nat) : Nat := ofLe ((b.drop off).take k)
  let len := n 4 4
  let copy := decide (c.mode = 1)
  let lenOk : Bool :=
    if c.mode = 1 then decide (1 ≤ len) else if c.mode = 4 then decide (80 ≤ len) else decide (0 < len ∧ len % dmaBlockSize s c = 0)
  { own := bitOf (n 0 1) 0, irq := bitOf (n 0 1) 1, tag := BitVec.ofNat 16 (n 2 2), length := len,
    hostAddr := BitVec.ofNat 64 (n 8 8), devAddr := BitVec.ofNat 64 (n 16 8), toHost := bitOf (n 24 4) 0,
    badArg := !lenOk || decide (2 ^ 24 < len) || decide (4 ≤ n 0 1) || decide (n 1 1 ≠ 0) || decide (n 28 4 ≠ 0) ||
      (if copy then decide (2 ≤ n 24 4) else decide (n 16 8 ≠ 0 ∨ n 24 4 ≠ 0)) }

/-- The host address of a channel's descriptor i. -/
def dmaDescAddr (c : DmaCh) (i : Nat) : Nat := c.base.toNat + 32 * i

/-- The read-back of the last device address that a COPY wrote (R397), which R417 does not check; a register is read as a word. -/
def deviceReadBack (a : Nat) (s : State) : State := if devTarget a = .periph then afterRead .dma (a / 4 * 4) s else s

/-- The read-back of the last address that a descriptor wrote (R397): through the host's path, or through the matrix. -/
def dmaReadBack (d : Fin 32) (c : DmaCur) (s : State) : State :=
  if c.done = 0 then s
  else if s.dma[d].mode = 2 ∨ s.dma[d].mode = 4 ∨ c.desc.toHost then useRead (.dma d) (c.desc.hostAddr.toNat + (c.done - 1)) 1 s
  else if s.dma[d].mode = 1 then deviceReadBack (c.desc.devAddr.toNat + (c.done - 1)) s
  else s

/-- End a begun descriptor: the read-back, OWN = 0, and its record (R394, R395, R397). -/
def dmaRecord (d : Fin 32) (c : DmaCur) (status flags residue : Nat) (s : State) : State :=
  let a := dmaDescAddr s.dma[d] c.index
  let s1 := dmaReadBack d c s
  let own := (hostRead s a 1).headD 0 &&& 0xFE
  let s2 := useWrite (.dma d) a [own] s1
  let s3 := hifMod (fun h => { h with dcq := { h.dcq with reserved := h.dcq.reserved - 1 } }) s2
  let tick := if s.dma[d].mode = 2 ∨ s.dma[d].mode = 3 then c.firstTick.getD (now s) else now s
  let bytes := leBytes 2 c.desc.tag.toNat ++ leBytes 1 status ++ leBytes 1 (flags + bitAt c.trunc 2 + bitAt s.dma[d].under 3) ++ leBytes 1 d.val ++ [0] ++
    leBytes 2 c.index ++ leBytes 4 residue ++ leBytes 4 tick
  let s4 := writeRec 5 16 3 bytes (dmaMod d (fun c => { c with under := false }) s3)
  if c.desc.irq || decide (status ≠ St.ok) then callIrq 5 s4 else s4

/-- The descriptor at a channel's head, if it may be begun (R395): the channel runs, the engine is not halted, the head has not
reached the tail, a DCQ entry is free, and the host owns it no more. -/
def dmaNext (d : Fin 32) (s : State) : Option DmaCur :=
  let c := s.dma[d]
  if c.state ≠ .running ∨ c.cur.isSome ∨ dmaHalted s ∨ c.head = c.tail ∨ c.log2 = 0 ∨ c.mode = 0 ∨ s.hif.dcq.free = 0 then none
  else
    let x := dmaParse s c (hostRead s (dmaDescAddr c c.head) 32)
    if x.own then some { desc := x, index := c.head, done := 0, firstTick := none, trunc := false } else none

/-- Over the tunnel the descriptor at the head of a channel is asked for while the node does not know it as owned (R389). -/
def dmaFetch (d : Fin 32) (s : State) : State :=
  let c := s.dma[d]
  let a := dmaDescAddr c c.head
  if hifMode s ≠ 2 ∨ c.state ≠ .running ∨ dmaHalted s ∨ c.head = c.tail ∨ c.log2 = 0 ∨ c.mode = 0 ∨ readWaits (.dma d) a 32 s then s
  else if (dmaParse s c (hostRead s a 32)).own then s
  else useRead (.dma d) a 32 s

/-- Take the descriptor at the head: a DCQ entry is reserved and the head advances. Over the tunnel the data that a COPY toward
the device moves is asked for. -/
def dmaTake (d : Fin 32) (x : DmaDesc) (s : State) : State :=
  let s1 := if s.dma[d].mode = 1 ∧ !x.toHost ∧ !x.badArg then useRead (.dma d) x.hostAddr.toNat x.length s else s
  dmaMod d (fun c => { c with head := (c.head + 1) % 2 ^ c.log2 })
    (hifMod (fun h => { h with dcq := { h.dcq with reserved := h.dcq.reserved + 1 } }) s1)

/-- Begin the next descriptor of an audio or COPY channel; malformed ones complete with BAD_ARG and the next is tried (R393). -/
def dmaBegin (d : Fin 32) : Nat → State → State
  | 0, s => s
  | fuel + 1, s =>
    match dmaNext d s with
    | none => dmaFetch d s
    | some x =>
      let s1 := dmaTake d x.desc s
      if x.desc.badArg then dmaBegin d fuel (dmaRecord d x St.badArg 0 x.desc.length s1)
      else dmaMod d (fun c => { c with cur := some x }) s1

/-- A STOPPING channel with nothing begun is STOPPED (R401). -/
def dmaRest (d : Fin 32) (s : State) : State :=
  let c := s.dma[d]
  if c.state = .stopping ∧ c.cur.isNone ∧ c.blocks.isEmpty then dmaSettle (dmaMod d (fun c => { c with state := .stopped }) s) else s

/-! ### The device side (R396, R409, R410, R417) -/

/-- The accesses of a device-side range (R396): each the largest of 64, 8, 4, 2 and 1 bytes that is aligned and fits. -/
def bursts : Nat → Nat → Nat → List (Nat × Nat)
  | 0, _, _ => []
  | fuel + 1, a, n =>
    if n = 0 then []
    else
      let k := if a % 64 = 0 ∧ 64 ≤ n then 64 else if a % 8 = 0 ∧ 8 ≤ n then 8 else if a % 4 = 0 ∧ 4 ≤ n then 4
        else if a % 2 = 0 ∧ 2 ≤ n then 2 else 1
      (a, k) :: bursts fuel (a + k) (n - k)

/-- A byte of the flash (R488): the pointer log of each copy of the configuration store; an erased word ends a log. -/
def flashByte (s : State) (off : Nat) : Byte :=
  let inLog (c : Fin 2) : Option Byte :=
    let i := off - (0x3000000 + 0x400000 * c.val)
    if 0x3000000 + 0x400000 * c.val ≤ off ∧ i < 4096 then
      some ((leBytes 4 (s.flash.copies[c].log.getD (i / 4) 0xFFFFFFFF).toNat).getD (i % 4) 0)
    else none
  ((inLog 0).orElse fun _ => inLog 1).getD (Config.flashByte off (now s))

/-- Read device memory: registers in words, the scratch SRAM, the flash. -/
def devRead (path : AccessPath) (a n : Nat) (s : State) : List Byte × State :=
  match devTarget a with
  | .periph =>
    (List.range (n / 4)).foldl (fun (r : List Byte × State) i =>
      (r.1 ++ leBytes 4 (busRead path r.2 (a + 4 * i)).toNat, afterRead path (a + 4 * i) r.2)) ([], s)
  | .scratch => (memRead s.scratch a n, s)
  | _ => ((List.range n).map fun i => flashByte s (a + i - 0x20000000), s)

/-- Write device memory. -/
def devWrite (mode : Word → State → State) (path : AccessPath) (a : Nat) (bs : List Byte) (s : State) : State :=
  match devTarget a with
  | .periph => (List.range (bs.length / 4)).foldl (fun s i =>
      pathWrite mode path (a + 4 * i) (BitVec.ofNat 32 (ofLe ((bs.drop (4 * i)).take 4))) s) s
  | .scratch => { s with scratch := memWrite s.scratch a bs }
  | _ => s

/-- HIF_CTRL as a COPY writes it: the channel itself stops with the others, its own bursts ended. -/
def dmaMode (v : Word) (s : State) : State := writeMode id v s

/-- Run bursts of a COPY on its device side: the bytes read toward the host, how far it came, and the response and address of a
failing access. -/
def deviceMove (x : DmaDesc) : List (Nat × Nat) → State → List Byte × Nat × Option (Resp × Nat) × State
  | [], s => ([], 0, none, s)
  | (a, k) :: rest, s =>
    match respond s Master.dma a k (!x.toHost) with
    | .okay =>
      let r := if x.toHost then devRead .dma a k s
        else ([], devWrite dmaMode .dma a (hostRead s (x.hostAddr.toNat + (a - x.devAddr.toNat)) k) s)
      let q := deviceMove x rest r.2
      (r.1 ++ q.1, k + q.2.1, q.2.2.1, q.2.2.2)
    | e => ([], 0, some (e, a), matrixError e Master.dma (!x.toHost) a s)

/-- Run bursts of a COPY from its first byte not yet moved; the bytes read are written to the host together, so that over the
tunnel only the last cell is short (R396). -/
def dmaMove (d : Fin 32) (x : DmaDesc) (l : List (Nat × Nat)) (s : State) : Nat × Option (Resp × Nat) × State :=
  let r := deviceMove x l s
  let at_ := l.head?.elim 0 fun b => x.hostAddr.toNat + (b.1 - x.devAddr.toNat)
  (r.2.1, r.2.2.1, if r.1 = [] then r.2.2.2 else useWrite (.dma d) at_ r.1 r.2.2.2)

/-- The bursts of a COPY that are still to run. -/
def dmaLeft (x : DmaCur) : List (Nat × Nat) :=
  bursts (x.desc.length - x.done) (x.desc.devAddr.toNat + x.done) (x.desc.length - x.done)

/-- The data that a COPY toward the device moves is still on its way through the tunnel. -/
def copyWaits (d : Fin 32) (x : DmaCur) (s : State) : Bool :=
  !x.desc.toHost && readWaits (.dma d) x.desc.hostAddr.toNat x.desc.length s

/-- Bursts that a COPY in progress has moved up to the burst boundary at which it stops: a free value (DESIGN CHOICE, log 106). The
descriptor with the bytes moved, and whether every burst ran. -/
def dmaPartial (d : Fin 32) (x : DmaCur) (s : State) : DmaCur × Option (Resp × Nat) × State :=
  let l := dmaLeft x
  let f := freshFree 32 s
  let r := dmaMove d x.desc (l.take (if copyWaits d x s then 0 else f.1 % (l.length + 1))) f.2
  ({ x with done := x.done + r.1 }, r.2.1, r.2.2)

/-- What a COPY in progress has moved when its owner goes (R366). -/
def dmaMoves (s : State) : State :=
  (fins 32).foldl (fun s (d : Fin 32) =>
    match s.dma[d].cur with
    | some x => if s.dma[d].mode = 1 then (dmaPartial d x s).2.2 else s
    | none => s) s

/-- HIF_CTRL written by a path other than DMA. -/
def setMode (v : Word) (s : State) : State := writeMode dmaMoves v s

/-- A write of BAR0 on a path (R526). -/
def busWrite (path : AccessPath) (off : Nat) (v : Word) (s : State) : State := pathWrite setMode path off v s

/-! ### The halt (R403) -/

/-- The cause code of a matrix response; a denial is answered with DECERR (R419). -/
def Resp.cause : Resp → Nat
  | .slverr => 2
  | _ => 1

/-- One channel at a halt: what it has begun ends with BUS_ERROR; `lost` loses its record. -/
def haltCh (lost moved : Bool) (d : Fin 32) (s : State) : State :=
  let c := s.dma[d]
  let blocks := c.blocks.filterMap fun b => b.last
  let r : List DmaCur × State :=
    match c.cur with
    | none => (blocks, s)
    | some x => if c.mode = 1 ∧ !moved then (let p := dmaPartial d x s; (blocks ++ [p.1], p.2.2)) else (blocks ++ [x], s)
  let s1 := if lost then hifMod (fun h => { h with dcq := { h.dcq with reserved := h.dcq.reserved - r.1.length } }) r.2
    else r.1.foldl (fun s x => dmaRecord d x St.busError 0 (x.desc.length - x.done) s) r.2
  dmaMod d (fun c => { c with state := .halted, cur := none, blocks := [], under := false }) s1

/-- The commands in progress on the command channel: an image being read for a tile or for the flash, and results on their way
to the host (R403). -/
def haltCommands (s : State) : State :=
  let s0 := failResults s
  let s := match s0.flash.commit with
    | some c => if c.step = 1 then endCommit c St.busError 0 s0 else s0
    | none => s0
  (fins 16).foldl (fun s (n : Fin 16) =>
    match s.tiles[n].load with
    | none => s
    | some l => complete l.ticket St.busError 0 { s with tiles := vmod s.tiles n fun x => { x with load := none } }) s

/-- The engine halts (R403): the first error is recorded, every begun descriptor ends with BUS_ERROR and every channel is
HALTED. `ch` met the error (32: the command channel); `moved` says that its COPY has already run up to the error; `dcqFails`
loses its record. -/
def dmaHalt (ch cause : Nat) (hostSide : Bool) (addr : Nat) (moved dcqFails : Bool) (s : State) : State :=
  if dmaHalted s then s
  else
    let info := ch + (if dcqFails then 7 else cause) * 256 + bitAt hostSide 12
    let s1 := regSet Reg.dmaErrAddrLo (BitVec.ofNat 32 addr) (regSet Reg.dmaErrAddrHi (BitVec.ofNat 32 (addr / 2 ^ 32))
      (regSet Reg.dmaErrInfo (BitVec.ofNat 32 info) (sticky Reg.dmaErrStat 0 s)))
    let s2 := (fins 32).foldl (fun s (d : Fin 32) => haltCh (dcqFails && decide (d.val = ch)) (moved && decide (d.val = ch)) d s) s1
    report 0x0F14 ch (leBytes 8 (if dcqFails then 7 else cause) ++ leBytes 8 addr) (raise Src.dmaBusErr 0 addr (haltCommands s2))

/-! ### Commands and events -/

/-- DMA_DESCRIPTOR_BEGIN (R395): the channel begins the descriptor at its head; ETH_RX once a frame waits for it (R400). -/
def execDmaDescriptorBegin (ch : Fin 32) (stores : List HostStore) (s0 : State) : Host.Outcome State Fault Refusal :=
  let s := hostStores stores s0
  let c := s.dma[ch]
  if c.mode = 4 then
    match dmaNext ch s with
    | none => .next (dmaFetch ch s)
    | some x =>
      if x.desc.badArg then fin (dmaRest ch (dmaRecord ch x St.badArg 0 x.desc.length (dmaTake ch x.desc s)))
      else match frameFor s ch with
        | none => .next s
        | some f =>
          let bytes := (match f.2.time with | some t => timeBytes t | none => List.replicate 16 0) ++ f.2.bytes
          let cut := bytes.take x.desc.length
          let s1 := useWrite (.dma ch) x.desc.hostAddr.toNat cut (takeFrame f.1 f.2 (dmaTake ch x.desc s))
          let y := { x with done := cut.length, trunc := decide (cut.length < bytes.length) }
          fin (dmaMod ch (fun c => { c with cur := some y }) s1)
  else fin (dmaBegin ch 1 s)

/-- End the descriptor in progress of a channel with OK (R394, R397). -/
def dmaEnd (d : Fin 32) (x : DmaCur) (flags : Nat) (s : State) : State :=
  let residue := if x.trunc then 0 else x.desc.length - x.done
  dmaRest d (dmaRecord d x St.ok flags residue (dmaMod d (fun c => { c with cur := none }) s))

/-- DMA_DESCRIPTOR_COMPLETE (R397): the descriptor in progress ends. An audio descriptor ends when its last block has moved. -/
def execDmaDescriptorComplete (ch : Fin 32) (s : State) : Host.Outcome State Fault Refusal :=
  match s.dma[ch].cur with
  | none => .next s
  | some x =>
    if s.dma[ch].mode = 1 ∧ copyWaits ch x s then .next s
    else if s.dma[ch].mode = 1 then
      let r := dmaMove ch x.desc (dmaLeft x) s
      let y := { x with done := x.done + r.1 }
      match r.2.1 with
      | none => fin (dmaEnd ch y 0 r.2.2)
      | some e => fin (dmaHalt ch e.1.cause false e.2 true false (dmaMod ch (fun c => { c with cur := some y }) r.2.2))
    else if s.dma[ch].mode = 4 then fin (dmaEnd ch x 0 s)
    else if s.dma[ch].mode = 2 ∧ x.desc.length ≤ x.done then fin (dmaEnd ch x 0 s)
    else .next s

/-- The matrix response that a CAUSE of the device side stands for (R403, R419): a DECERR or an SLVERR. -/
def causeResp (e : DmaError) : Resp :=
  if e.hostSide then .okay else if e.cause.toNat = 1 then .decerr else if e.cause.toNat = 2 then .slverr else .okay

/-- The failing access of a channel was a write: its descriptor in progress moves toward the device. -/
def errorWrites (s : State) (ch : Nat) : Bool :=
  (vget? s.dma ch).any fun c => decide (c.mode = 1) && c.cur.any fun x => !x.desc.toHost

/-- DMA_BUS_ERROR (R403): an error of the matrix is recorded there too (R419). -/
def execDmaBusError (e : DmaError) (s : State) : Host.Outcome State Fault Refusal :=
  let s1 := matrixError (causeResp e) Master.dma (errorWrites s e.channel.val) e.addr.toNat s
  fin (dmaHalt e.channel.val e.cause.toNat e.hostSide e.addr.toNat false e.dcqWriteFails s1)

/-- ABORT of one channel (R402). -/
def abortCh (d : Fin 32) (s : State) : State :=
  let c := s.dma[d]
  let s1 := (c.blocks.filterMap fun b => b.last).foldl (fun s x => dmaRecord d x St.ok 2 0 s) s
  let stop (s : State) : State := dmaMod d (fun c => { c with state := .stopped, cur := none, blocks := [], under := false }) s
  match c.cur with
  | none => stop s1
  | some x =>
    let ended (y : DmaCur) (s : State) : State :=
      if y.desc.length ≤ y.done then stop (dmaRecord d y St.ok 2 0 s)
      else stop (dmaRecord d y St.aborted 0 (y.desc.length - y.done) s)
    if c.mode = 4 then stop (dmaRecord d x St.ok 2 0 s1)
    else if c.mode = 1 then
      let r := dmaPartial d x s1
      match r.2.1 with
      | none => ended r.1 r.2.2
      | some e => dmaHalt d e.1.cause false e.2 true false (dmaMod d (fun c => { c with cur := some r.1 }) r.2.2)
    else ended x s1

/-- DMA_CTRL (R391). -/
def execDmaCtrl (h : CmdHdr) (a : DmaCtrlArgs) (s : State) : Host.Outcome State Fault Refusal :=
  fin (timedCmd h a.tick (decide (a.chMask = 0 ∨ a.action = 0 ∨ 4 < a.action.toNat)) noRefusal noPre (.dmaCtrl a) s)

/-- The states an ACTION of DMA_CTRL is allowed in (R401). -/
def dmaAllows (action : Nat) : DmaState → Bool
  | .stopped => action ≠ 2
  | .running => action = 2 ∨ action = 3
  | .stopping => action = 2 ∨ action = 3
  | .halted => action = 4

/-- DMA_CTRL at its boundary (R401); `skip` names the channels that a later latched DMA_CTRL has superseded (R20). -/
def applyDma (t : Ticket) (a : DmaCtrlArgs) (skip : Fin 32 → Bool) (s : State) : State :=
  let chs := (maskUnits 32 a.chMask.toNat).filter fun d => !skip d
  if !chs.all (fun d => dmaAllows a.action.toNat s.dma[d].state) then complete t 0x60 0 s
  else
    match a.action.toNat with
    | 1 => complete t (okOf t) 0 (chs.foldl (fun s d => dmaMod d (fun c => { c with state := .running }) s) s)
    | 4 => complete t (okOf t) 0 (dmaSettle (chs.foldl (fun s d => dmaMod d (fun c => { c with state := .stopped }) s) s))
    | 2 =>
      let s1 := chs.foldl (fun s d => dmaMod d (fun c => { c with state := .stopping }) s) s
      let s2 := { s1 with dmaWait := s1.dmaWait ++
        [{ ticket := t, mask := chs.foldl (fun m d => m + 2 ^ d.val) 0, tick := now s }] }
      dmaSettle (chs.foldl (fun s d => dmaRest d s) s2)
    | _ => complete t (okOf t) 0 (dmaSettle (chs.foldl (fun s d => abortCh d s) s))

/-! ### Audio blocks at a boundary (R398, R399) -/

/-- The class 0x7 sources of an AUDIO_OUT block. -/
def blockSources (s : State) (c : DmaCh) (b : List Byte) : List (Nat × Blk) :=
  (List.range c.count).map fun i =>
    let sample (k : Nat) : Sample := BitVec.ofNat 32 (ofLe ((b.drop (0x28 + 4 * (spt s * i + k))).take 4))
    (ep 7 (c.first + i), { samples := (List.range (spt s)).map sample, valid := bitOf (ofLe ((b.drop (8 + i / 8)).take 1)) (i % 8),
                           ramp := false })

/-- Hand over the AUDIO_OUT blocks of this boundary (R398): every other class 0x7 source reads zero flagged invalid, and so do
those of a channel whose block is not fully read by now (R399): one that `late` names, or whose data is still on its way through
the tunnel. The record of a descriptor follows its last block (R397). -/
def dmaHandover (late : List (Fin 32)) (s0 : State) : State :=
  let s := { s0 with router := { s0.router with store := s0.router.store.filter fun e => decide (e.1 / 4096 ≠ 7) } }
  (fins 32).foldl (fun s (d : Fin 32) =>
    match s.dma[d].blocks with
    | [] => s
    | b :: rest =>
      if b.at_ ≠ now s then s
      else
        let n := b.bytes.length
        let s1 :=
          if d ∈ late ∨ readWaits (.dma d) b.addr n s then
            countFlag Reg.dmaUnderrunCount Reg.dmaErrStat 1 1 (dmaMod d (fun c => { c with blocks := rest, under := true }) s)
          else
            (blockSources s s.dma[d] (if hifMode s = 2 then hostRead s b.addr n else b.bytes)).foldl
              (fun s x => putSource x.1 x.2 s) (dmaMod d (fun c => { c with blocks := rest }) s)
        match b.last with
        | some x => dmaRest d (dmaRecord d x St.ok 0 0 s1)
        | none => s1) s

/-- The audio block of boundary K for AUDIO_IN: the values delivered to its class 0x7 destinations. -/
def deliveredBlock (s : State) (c : DmaCh) : List Byte :=
  let blk (i : Nat) : Blk := deliveredBlk s (ep 7 (c.first + i))
  let valid := (List.range c.count).foldl (fun a i => a + bitAt (blk i).valid i) 0
  leBytes 8 (now s) ++ leBytes 32 valid ++ (List.range c.count).flatMap fun i =>
    (List.range (spt s)).flatMap fun k => leBytes 4 (((blk i).samples.getD k 0).toNat)

/-- One AUDIO_IN channel at a boundary (R398, R399). -/
def runAudioIn (d : Fin 32) (s0 : State) : State :=
  let s1 := match s0.dma[d].cur with
    | some x => if x.desc.length ≤ x.done then dmaEnd d x 0 s0 else s0
    | none => s0
  let s := if s1.dma[d].cur.isNone then dmaBegin d 4096 s1 else s1
  match s.dma[d].cur with
  | some x =>
    let b := deliveredBlock s s.dma[d]
    dmaMod d (fun c => { c with cur := some { x with done := x.done + b.length, firstTick := x.firstTick.orElse fun _ => some (now s) } })
      (useWrite (.dma d) (x.desc.hostAddr.toNat + x.done) b s)
  | none => if s.dma[d].state = .running then countFlag Reg.dmaOverrunCount Reg.dmaErrStat 2 1 s else s

/-- One AUDIO_OUT channel at a boundary: the block for the boundary LEAD ticks ahead is read (R398, R399). -/
def runAudioOut (d : Fin 32) (s0 : State) : State :=
  let s := dmaFetch d (if s0.dma[d].cur.isNone then dmaBegin d 4096 s0 else s0)
  match s.dma[d].cur with
  | some x =>
    let n := dmaBlockSize s s.dma[d]
    let a := x.desc.hostAddr.toNat + x.done
    let at_ := now s + s.dma[d].lead
    let y := { x with done := x.done + n, firstTick := x.firstTick.orElse fun _ => some at_ }
    let ends := decide (x.desc.length ≤ y.done)
    dmaMod d (fun c => { c with cur := if ends then none else some y,
                                blocks := c.blocks ++ [{ at_ := at_, addr := a, bytes := hostRead s a n, last := if ends then some y else none }] })
      (useRead (.dma d) a n s)
  | none => if s.dma[d].state = .running then countFlag Reg.dmaUnderrunCount Reg.dmaErrStat 1 1 s else s

/-- The audio channels at a boundary. -/
def runDmaAudio (s : State) : State :=
  if dmaHalted s then s
  else (fins 32).foldl (fun s (d : Fin 32) =>
    let c := s.dma[d]
    if c.state = .stopped ∨ c.state = .halted then s
    else if c.mode = 2 then runAudioIn d s
    else if c.mode = 3 then runAudioOut d s else s) s

end Sys2Proof.Machine
end

