-- ==== Sys2Proof/Machine/Fabric.lean ====
section
/-!
DEFINITION. Paths and pairing (R199–R217): the path cells and commands, the switch reads, the pairing of two nodes and its
digests.
-/
namespace Sys2Proof.Machine

/-! ### Path cells -/

/-- The body of a path cell (R201). -/
structure PathBody where
  addCh : BitVec 12
  copy : Bool
  gen : BitVec 2
  result : Nat
  dropCh : BitVec 12
  tap : Byte
  failHop : Nat
  limit : Nat
  acc : Nat
  tickLo : BitVec 32
  slots : List Nat
  ret : Nat
  deriving DecidableEq, Repr

/-- A path body as bytes. -/
def PathBody.bytes (b : PathBody) : List Byte :=
  leBytes 2 b.addCh.toNat ++ leBytes 1 (b2n b.copy + b.gen.toNat * 2) ++ leBytes 1 b.result ++ leBytes 2 b.dropCh.toNat ++
    [b.tap] ++ leBytes 1 b.failHop ++ leBytes 4 b.limit ++ leBytes 4 b.acc ++ leBytes 4 b.tickLo.toNat ++
    (b.slots.take 8).flatMap (leBytes 2) ++ List.replicate (16 - 2 * (b.slots.take 8).length) 0 ++ leBytes 4 b.ret

/-- The body of a received path cell. -/
def pathBody (c : Cell) : PathBody :=
  { addCh := BitVec.ofNat 12 (bodyN c 0x14 2), copy := bitOf (bodyN c 0x16 1) 0, gen := BitVec.ofNat 2 (bodyN c 0x16 1 / 2),
    result := bodyN c 0x17 1, dropCh := BitVec.ofNat 12 (bodyN c 0x18 2), tap := BitVec.ofNat 8 (bodyN c 0x1A 1),
    failHop := bodyN c 0x1B 1, limit := bodyN c 0x1C 4, acc := bodyN c 0x20 4, tickLo := BitVec.ofNat 32 (bodyN c 0x24 4),
    slots := (List.range 8).map fun h => bodyN c (0x28 + 2 * h) 2 % 16384, ret := bodyN c 0x38 4 }

/-- Queue a path cell of a source on a link (R201: SRC_ID is the source's ID). -/
def queuePath (ty : Nat) (src dst : BitVec 12) (hops : Nat) (route : BitVec 64) (b : PathBody) (s : State) : State :=
  let q := takeSeq s
  let out := routeEntry route 0
  let c : Cell := { ty := BitVec.ofNat 8 ty, mode := 1, hop := 1, hops := BitVec.ofNat 8 hops, src := src, dst := dst, seq := q.1,
                    route := route, body := (b.bytes ++ List.replicate 40 0).take 40 }
  if attached q.2 out then queueCell out c q.2 else cellDrop out q.2

/-- Send the PATH_REPLY back along the first h entries of RET_LINKS, taken in reverse order (R203). -/
def sendReply (src : BitVec 12) (h : Nat) (b : PathBody) (s : State) : State :=
  queuePath 0x11 src src h (reverseRoute h (BitVec.ofNat 64 b.ret)) b s

/-- The answer of a node to a PATH_SET (R202). -/
inductive PathAnswer where
  | forward (b : PathBody) (out : Fin 16) (e : SwEntry)
  | arrived (b : PathBody) (e : SwEntry)
  | refuse (b : PathBody)
  deriving DecidableEq, Repr

/-- What the node reached by hop h does with a PATH_SET (R202): `ofs` is RX_OFFSET of the arrival link in the unit of
`unitNs`; the entry it marks tentative forwards, drops or both. -/
def pathAt (s : State) (src : BitVec 12) (hops : Nat) (route : BitVec 64) (h : Nat) (ofs : Int) (b : PathBody) : PathAnswer :=
  let u : Int := unitNs s
  let lim : Int := b.limit * u
  let inSlot := b.slots.getD (h - 1) 0
  let dep : Int := depUnits s inSlot
  let l := nsUp s (b.acc * u + ofs + 500 * u)
  let e : SwEntry :=
    { fwd := none, drop := false, copy := b.copy, state := .tentative, srcId := src, addCh := b.addCh, dropCh := b.dropCh,
      carry := false, since := now s, freeAt := 0, steps := (roundDiv (b.acc * u - dep) (unitTick s)).toNat,
      late := dropTicks s l }
  let taken := dropTaken s b.dropCh src b.addCh b.copy
  let no (st : Nat) : PathAnswer := .refuse { b with result := st, failHop := h }
  if h = hops then
    if lim < l * u then no St.noPath
    else if taken then no 0x46
    else .arrived { b with acc := l } { e with drop := true }
  else
    let o := routeEntry route h
    let t := if h = 0 then 1000 * u else b.acc * u + ofs + 1000 * u
    let tap : Bool := decide (1 ≤ h) && bitOf b.tap.toNat h
    if !attached s o then no St.noPath
    else match chooseSlot s o t with
      | none => no St.noPath
      | some (i, d) =>
        if lim < d + 500 * u then no St.noPath
        else if tap && taken then no 0x46
        else .forward { b with slots := b.slots.set h i, acc := nsNearest s d } o
          { e with fwd := some (o, i), drop := tap }

/-- Nibble h of RET_LINKS set to a link. -/
def setRet (ret h : Nat) (n : Fin 16) : Nat := ret - (ret / 16 ^ h % 16) * 16 ^ h + n.val * 16 ^ h

/-- A source-routed path cell is for this node to act on (R174, R202): its route goes on here, or ends here under this node's
ID. -/
def pathCellHere (s : State) (n : Fin 16) (c : Cell) : Bool :=
  acceptsCell s n c.ty.toNat && decide (c.mode = 1) &&
    (decide (c.hop.toNat < c.hops.toNat) || (decide (c.hop = c.hops) && decide (c.dst = s.node.id)))

/-- A path cell that is not for this node is discarded and counted (R174). -/
def pathCellDrop (n : Fin 16) (c : Cell) (s : State) : State := if acceptsCell s n c.ty.toNat then cellDrop n s else s

/-- PATH_SET received on a link (R202, R203, R205). -/
def execPathSet (link : Fin 16) (cell : Cell) (s : State) : Host.Outcome State Fault Refusal :=
  if !pathCellHere s link cell then fin (pathCellDrop link cell s)
  else
    let h := cell.hop.toNat
    let b0 := pathBody cell
    let b := { b0 with ret := setRet b0.ret (h - 1) link }
    let key := slotKey link (b.slots.getD (h - 1) 0)
    match pathAt s cell.src cell.hops.toNat cell.route h (ofSixteenth s s.links[link].rxOfs) b with
    | .refuse r => fin (sendReply cell.src h r s)
    | .arrived r e =>
      fin (sendReply cell.src h r (fab (fun f => { f with incoming := mapPut f.incoming key { e with state := .active } }) s))
    | .forward r o e =>
      let s1 := fab (fun f => { f with incoming := mapPut f.incoming key e }) s
      fin (queueCell o { cell with hop := cell.hop + 1, body := (r.bytes ++ List.replicate 40 0).take 40 } s1)

/-- The largest drop point that the reserved copies of an add channel have been told (R213). -/
def toldPoint (s : State) (addCh : BitVec 12) (except_ : Bool) : Option Nat :=
  (s.fabric.paths.find? fun p => decide (p.addCh = addCh) && decide (p.copy ≠ except_) && !p.reserving).map
    fun p => dropTicks s p.latency

/-- The source receives the answer to its reservation (R203, R209, R213). -/
def pathAnswered (b : PathBody) (bytes : List Byte) (s : State) : State :=
  match pathRec s b.addCh b.copy with
  | none => s
  | some p =>
    if !p.reserving then s
    else if b.result = 0 then
      let w := (schedule p.tickField s).getD (openTick s, true)
      let moved := match toldPoint s b.addCh b.copy with | some d => decide (d < dropTicks s b.acc) | none => false
      let s1 := setPath b.addCh b.copy (fun p => { p with reserving := false, latency := b.acc, reply := bytes }) s
      let s2 := if moved then fab (fun f => { f with newGen := addKey b.addCh false :: addKey b.addCh true :: f.newGen }) s1 else s1
      hold w.1 p.ticket w.2 (.pathActivate b.addCh b.copy) s2
    else
      let s1 := removePath b.addCh b.copy (freeAdd (addKey b.addCh b.copy) s)
      if p.resultAddr = 0 then complete p.ticket b.result 0 s1
      else resultThen p.ticket p.resultAddr.toNat bytes b.result s1

/-- PATH_REPLY received on a link (R203): the tentative entry that forwards to that link becomes active or is freed; at the
source the command goes on. -/
def execPathReply (link : Fin 16) (cell : Cell) (s : State) : Host.Outcome State Fault Refusal :=
  if !pathCellHere s link cell then fin (pathCellDrop link cell s)
  else
    let b := pathBody cell
    if cell.hop = cell.hops then fin (pathAnswered b cell.body s)
    else
      let mine := s.fabric.incoming.filter fun e =>
        e.2.ofPath cell.src b.addCh b.copy && e.2.toLink link && decide (e.2.state = .tentative)
      let s1 := mine.foldl (fun s e =>
        if b.result = 0 then fab (fun f => { f with incoming := mapPut f.incoming e.1 { e.2 with state := .active } }) s
        else freeIncoming e.1 s) s
      fin (forwardCell cell s1)

/-- The full tick number nearest to now with given low 32 bits. -/
def fullTick (s : State) (lo : BitVec 32) : Nat :=
  let d := (lo - BitVec.ofNat 32 (now s)).toInt
  ((now s : Int) + d).toNat

/-- PATH_CLEAR received on a link (R204, R207): the node's entry goes at the first kerf after both the cell's arrival and the
start of tick N; a tentative one goes at once. -/
def execPathClear (link : Fin 16) (cell : Cell) (s : State) : Host.Outcome State Fault Refusal :=
  if !pathCellHere s link cell then fin (pathCellDrop link cell s)
  else
    let b := pathBody cell
    let mine := s.fabric.incoming.filter fun e =>
      decide (e.1 / 16384 = link.val) && e.2.ofPath cell.src b.addCh b.copy
    let s1 := mine.foldl (fun s e => releaseIncoming e.1 (max (now s + 1) (fullTick s b.tickLo)) s) s
    fin (if cell.hop = cell.hops then s1 else forwardCell cell s1)

/-- PATH_BROKEN received on a link (R208): the entry goes and the cell goes on in its direction. -/
def execPathBroken (link : Fin 16) (cell : Cell) (s : State) : Host.Outcome State Fault Refusal :=
  fin (receiveCell link cell (fun s =>
    let b := pathBody cell
    let own := (s.fabric.add.filter fun e => e.2.ofPath cell.src b.addCh b.copy && e.2.toLink link)
    let up := s.fabric.incoming.filter fun e => e.2.ofPath cell.src b.addCh b.copy && e.2.toLink link
    let down := s.fabric.incoming.filter fun e =>
      e.2.ofPath cell.src b.addCh b.copy && decide (e.1 / 16384 = link.val)
    let s1 := own.foldl (fun s _ => losePath b.addCh b.copy s) s
    let s2 := up.foldl (fun s e =>
      sendOneHop ⟨e.1 / 16384 % 16, Nat.mod_lt _ (by decide)⟩ 0x13 cell.src cell.body (releaseIncoming e.1 (now s + 1) s)) s1
    down.foldl (fun s e =>
      let s3 := releaseIncoming e.1 (now s + 1) s
      match e.2.fwd with | some o => sendOneHop o.1 0x13 cell.src cell.body s3 | none => s3) s2) s)

/-! ### Path commands -/

/-- An add or drop channel exists (R35). -/
def channelExists (s : State) (c : BitVec 12) : Bool := indexExists s 1 c.toNat

/-- The fields of a PATH_RESERVE break R200. -/
def reserveBad (s : State) (a : PathReserveArgs) : Bool :=
  let n := a.hops.toNat
  !(channelExists s a.addCh && channelExists s a.dropCh && decide (1 ≤ n) && decide (n ≤ 8) &&
    decide (a.route.toNat / 16 ^ n = 0) && decide (a.limitNs.toNat * unitNs s ≤ 4 * unitTick s) &&
    !bitOf a.tapMask.toNat 0 && decide (a.tapMask.toNat / 2 ^ n = 0) && aligned8 a.resultAddr)

/-- PATH_RESERVE at acceptance (R200–R205, R209). -/
def reservePath (a : PathReserveArgs) (t : Ticket) (s : State) : State :=
  if (pathRec s a.addCh a.copy).isSome then complete t 0x44 0 s
  else if a.resultAddr ≠ 0 ∧ dmaHalted s then complete t St.busError 0 s
  else if regFld s Reg.fswBudget 16 0 < slotsHeld s + a.hops.toNat then complete t St.refusedBudget 0 s
  else
    let route := BitVec.ofNat 64 a.route.toNat
    let b : PathBody :=
      { addCh := a.addCh, copy := a.copy, gen := a.gen, result := 0, dropCh := a.dropCh, tap := a.tapMask, failHop := 0,
        limit := if a.limitNs = 0 then tickNs s else a.limitNs.toNat, acc := 0,
        tickLo := BitVec.ofNat 32 (if a.tick = 0 then openTick s else a.tick.toNat), slots := List.replicate 8 0, ret := 0 }
    let p : PathRec :=
      { src := s.node.id, addCh := a.addCh, copy := a.copy, gen := a.gen, hops := a.hops.toNat, dst := a.dst, route := a.route,
        ticket := t, tickField := a.tick, resultAddr := a.resultAddr, reserving := true, live := false, latency := 0,
        reply := [], sent := now s }
    let s1 := updateUse (fab (fun f => { f with paths := f.paths ++ [p] }) s)
    match pathAt s s.node.id a.hops.toNat route 0 0 b with
    | .forward r _ e =>
      queuePath 0x10 s.node.id a.dst a.hops.toNat route r
        (fab (fun f => { f with add := mapPut f.add (addKey a.addCh a.copy) e }) s1)
    | .arrived r _ | .refuse r => pathAnswered r r.bytes s1

/-- PATH_RESERVE (R200): its tick may not lie more than 2^32 ahead (R23); while 64 reservations are in progress its descriptor
is not taken (R205). -/
def execPathReserve (h : CmdHdr) (a : PathReserveArgs) (s0 : State) : Host.Outcome State Fault Refusal :=
  let s := hostStores h.stores s0
  if takeable h.ring h.ordered true s && decide ((s.fabric.paths.filter fun p => p.reserving).length < 64) then
    let x := accept h s
    if h.reservedSet || reserveBad s a || (schedule a.tick s).isNone then fin (complete x.1 St.badArg 0 x.2)
    else fin (reservePath a x.1 x.2)
  else .next s

/-- The body of a PATH_CLEAR that this node sends now for a path of its own (R204, R207). -/
def clearBody (p : PathRec) (s : State) : PathBody :=
  { addCh := p.addCh, copy := p.copy, gen := p.gen, result := 0, dropCh := 0, tap := 0, failHop := 0, limit := 0, acc := 0,
    tickLo := BitVec.ofNat 32 (now s), slots := List.replicate 8 0, ret := 0 }

/-- Give up a path of this node: its add entry is freed and a PATH_CLEAR sent along its route (R204, R207). -/
def clearPath (p : PathRec) (s : State) : State :=
  queuePath 0x12 p.src p.dst p.hops (BitVec.ofNat 64 p.route.toNat) (clearBody p s)
    (removePath p.addCh p.copy (freeAdd (addKey p.addCh p.copy) s))

/-- The activation of a reserved path at its tick (R203): the command completes with L. One whose answer cannot be written while
the DMA engine is halted has no effect (R377, R403): the reservation is given up. -/
def applyActivate (t : Ticket) (addCh : BitVec 12) (copy : Bool) (s : State) : State :=
  match pathRec s addCh copy, mapGet s.fabric.add (addKey addCh copy) with
  | some p, some e =>
    if p.resultAddr ≠ 0 ∧ dmaHalted s then complete t St.busError 0 (clearPath p s)
    else
      let s1 := setPath addCh copy (fun p => { p with live := true })
        (fab (fun f => { f with add := mapPut f.add (addKey addCh copy) { e with state := .active } }) s)
      if p.resultAddr = 0 then complete t (okOf t) p.latency s1
      else resultWith (some (now s)) t p.resultAddr.toNat (p.reply.take 40) (okOf t) p.latency s1
  | _, _ => complete t 0x45 0 s

/-- PATH_RESERVE_TIMEOUT (R204): 16 ticks without a reply; before that the reservation waits on. -/
def execPathReserveTimeout (addCh : BitVec 12) (copy : Bool) (s : State) : Host.Outcome State Fault Refusal :=
  match pathRec s addCh copy with
  | none => .next s
  | some p =>
    if p.reserving ∧ p.sent + 16 ≤ now s then fin (complete p.ticket St.timeout 0 (clearPath p s)) else .next s

/-- TENTATIVE_EXPIRY (R204): 32 ticks without confirmation; before that the entry stays. -/
def execTentativeExpiry (link : Fin 16) (slot : BitVec 14) (s : State) : Host.Outcome State Fault Refusal :=
  match mapGet s.fabric.incoming (slotKey link slot.toNat) with
  | some e =>
    if e.state = .tentative ∧ e.since + 32 ≤ now s then fin (freeIncoming (slotKey link slot.toNat) s) else .next s
  | none => .next s

/-- PATH_RELEASE (R207). -/
def execPathRelease (h : CmdHdr) (tick : BitVec 64) (addCh : BitVec 12) (copy : Bool) (s : State) :
    Host.Outcome State Fault Refusal :=
  fin (timedCmd h tick (!channelExists s addCh)
    (fun s => if (pathRec s addCh copy).isSome then none else some (0x45, 0)) noPre (.pathRelease addCh copy) s)

/-- PATH_RELEASE at its boundary N (R207): its status. -/
def applyRelease (addCh : BitVec 12) (copy : Bool) (s : State) : Nat × State :=
  match pathRec s addCh copy with
  | none => (0x45, s)
  | some p =>
    if p.reserving then (0x45, s) else (St.ok, clearPath p s)

/-- PATH_QUERY (R199): the state of a path, in a layout the spec leaves open (DESIGN CHOICE, log 54). -/
def execPathQuery (h : CmdHdr) (addCh : BitVec 12) (copy : Bool) (resultAddr : BitVec 64) (s : State) :
    Host.Outcome State Fault Refusal :=
  fin (untimedCmd h (!channelExists s addCh) (fun t s =>
    match pathRec s addCh copy with
    | none => complete t 0x45 0 s
    | some p =>
      resultThen t resultAddr.toNat
        (Config.pathQueryBytes p.hops p.latency (if p.reserving then 1 else if p.live then 3 else 2)) St.ok s) s)

/-- The code of an entry's state (R197). -/
def EntryState.code : EntryState → Nat
  | .tentative => 1 | .active => 2 | .releasing => 3

/-- A switch entry as SWITCH_READ returns it (R197); a free entry is all 0. -/
def entryBytes (e : Option SwEntry) : List Byte :=
  match e with
  | none => List.replicate 12 0
  | some e =>
    let o := e.fwd.elim 0 fun x => x.2 + x.1.val * 2 ^ 14
    leBytes 4 (o + bitAt e.fwd.isSome 18 + bitAt e.drop 19 + bitAt e.copy 20 + e.state.code * 2 ^ 21) ++
      leBytes 2 e.srcId.toNat ++ leBytes 2 e.addCh.toNat ++ leBytes 2 (if e.drop then e.dropCh.toNat else 0) ++ leBytes 2 0

/-- SWITCH_READ (R197). -/
def execSwitchRead (h : CmdHdr) (a : SwitchReadArgs) (s : State) : Host.Outcome State Fault Refusal :=
  let size := match a.table with | .incoming _ => slotsPerTick s | .add => 8192
  fin (untimedCmd h (decide (a.count = 0) || decide (size < a.first + a.count)) (fun t s =>
    let get (i : Nat) : Option SwEntry := match a.table with
      | .incoming l => mapGet s.fabric.incoming (slotKey l i)
      | .add => mapGet s.fabric.add i
    resultThen t a.resultAddr.toNat ((List.range a.count).flatMap fun i => entryBytes (get (a.first + i))) St.ok s) s)

/-! ### Pairing -/

/-- The group list of a PAIR_SET in host memory (R214); none when an entry is invalid. -/
def groupList (s : State) (addr : Nat) : Nat → Option (List (Nat × Nat))
  | 0 => some []
  | n + 1 =>
    let w := ofLe (hostRead s addr 4)
    let first := w % 4096
    let count := w / 4096 % 8192
    if w / 2 ^ 25 = 0 ∧ 1 ≤ count ∧ count ≤ 4096 ∧ indexExists s 1 (first + count - 1) then
      (groupList s (addr + 4) n).map fun l => (first, count) :: l
    else none

/-- The node is paired with another partner than the named one (R214). -/
def otherPartner (s : State) (id : BitVec 12) : Bool :=
  match s.fabric.pair with | some p => decide (id ≠ 0) && decide (p.partner ≠ id) | none => false

/-- PAIR_SET (R214): the group list is read before the command is accepted. -/
def execPairSet (h : CmdHdr) (a : PairSetArgs) (s : State) : Host.Outcome State Fault Refusal :=
  let s1 := hostStores h.stores s
  let off : Bool := a.partner = 0
  let shape : Bool := off || (decide (a.partner ≠ 0xFFF) && decide (1 ≤ a.hops.toNat) && decide (a.hops.toNat ≤ 16) &&
    decide (1 ≤ a.groups.toNat) && decide (a.groups.toNat ≤ 16) && !otherPartner s a.partner)
  if shape && !off && dmaHalted s then fin (busTimed h s)
  else
    match (if !shape then none else if off then some [] else groupList s1 a.groupAddr.toNat a.groups.toNat) with
    | none => fin (badTimed h s)
    | some l => fin (timedCmd h a.tick false noRefusal noPre (.pairSet a l) s)

/-- PAIR_SET at its boundary (R214): its status. -/
def applyPairSet (a : PairSetArgs) (l : List (Nat × Nat)) (s : State) : Nat × State :=
  if otherPartner s a.partner then (St.badArg, s)
  else if a.partner = 0 then (St.ok, fab (fun f => { f with pair := none }) s)
  else
    let p : Pair :=
      { partner := a.partner, hops := a.hops.toNat, route := a.route, groups := l, since := now s,
        compareFrom := a.compareFrom.toNat, own := [], theirs := [], misses := 0, matched := false, lastCell := now s }
    (St.ok, fab (fun f => { f with pair := some p }) s)

/-- The digest of a group at this boundary (R215). -/
def groupDigest (s : State) (g : Nat × Nat) : Word :=
  crc32c ((List.range g.2).flatMap fun i =>
    let b := deliveredBlk s (ep 1 (g.1 + i))
    (b.samples.flatMap fun x => leBytes 4 x.toNat) ++ leBytes 1 (b2n b.valid + bitAt b.ramp 1))

/-- PAIR_DIVERGE stands ACTIVE at this node. -/
def divergeActive (s : State) : Bool := (sumpInst s Src.pairDiverge 0).state = .active

/-- Put a cell at the head of its class: the first class-1 position of the frame (R216). -/
def queueFirst (n : Fin 16) (c : Cell) (s : State) : State :=
  if attached s n then
    (if s.links[n].q1.length < classLimit 1 then linkMod n (fun l => { l with q1 := c :: l.q1 }) s
     else raise Src.cellOverflow n 0 (cellDrop n s))
  else cellDrop n s

/-- One PAIR_DIGEST cell, with the groups from `base` on (R216); bit 1 of its STATE also shows a node that stands aside
(R459). -/
def sendDigest (p : Pair) (base : Nat) (ds : List Word) (s : State) : State :=
  let part := (ds.drop base).take 8
  let q := takeSeq s
  let body := leBytes 4 (now s) ++ leBytes 2 base ++ leBytes 1 (2 ^ part.length - 1) ++
    leBytes 1 (b2n (decide (s.sump.fences ≠ [])) + bitAt (divergeActive s || s.sump.aside) 1) ++ part.flatMap (fun d => leBytes 4 d.toNat)
  let c : Cell := { ty := 0x30, mode := 1, hop := 1, hops := BitVec.ofNat 8 p.hops, src := s.node.id, dst := p.partner,
                    seq := q.1, route := p.route, body := (body ++ List.replicate 40 0).take 40 }
  queueFirst (routeEntry p.route 0) c q.2

/-- How many ticks after M + 1 the digests of M are compared (R216). -/
def compareDelay (s : State) (hops : Nat) : Nat :=
  if hops ≤ 4 then 0 else ceilDiv (hops * (unitTick s / 16 + 1200 * unitNs s)) (unitTick s) - 1

/-- The comparison of R216 for tick M. -/
def comparePair (p : Pair) (m : Nat) (s : State) : State :=
  let mine := (mapGet p.own m).getD []
  let theirs := (mapGet p.theirs m).getD []
  let missing := (List.range p.groups.length).any fun g => (mapGet theirs g).isNone
  let put (q : Pair) (s : State) : State := fab (fun f => { f with pair := some q }) s
  if missing then
    let s1 := countFlag Reg.fswDigestMissCount Reg.fswSelStat 4 1 (put { p with misses := p.misses + 1 } s)
    if 3 ≤ p.misses + 1 then raise Src.pairLost 0 0 s1 else s1
  else
    let bad := (List.range p.groups.length).filter fun g => mapGet theirs g ≠ mine[g]?
    if bad = [] then put { p with misses := 0, matched := true } s
    else
      let mask := bad.foldl (fun a g => a + 2 ^ g) 0
      let s1 := countFlag Reg.fswDivergeCount Reg.fswSelStat 3 1
        (regSet Reg.fswDivergeTick (BitVec.ofNat 32 m) (put { p with misses := 0, matched := false } s))
      report 0x0304 0 (leBytes 8 m ++ leBytes 2 mask) (raise Src.pairDiverge 0 mask s1)

/-- The pairing at a boundary: the digests of the values handed over now are kept and sent, and those due are compared
(R215, R216). CRC_4 and CRC_5 compute them, the groups in turn (R423; log 112). -/
def runPair (s : State) : State :=
  match s.fabric.pair with
  | none => s
  | some p =>
    let ds := p.groups.map (groupDigest s)
    let keep (k : Nat) : Bool := now s < k + 16
    let p1 := { p with own := mapPut (p.own.filter fun e => keep e.1) (now s) ds, theirs := p.theirs.filter fun e => keep e.1 }
    let s0 := fab (fun f => { f with pair := some p1 }) s
    let s1 := (ds.zip p.groups).zipIdx.foldl (fun s x => crcLeft (4 + x.2 % 2) x.1.1 (x.1.2.2 * (4 * spt s + 1)) s) s0
    let s2 := if 8 < ds.length then sendDigest p1 0 ds (sendDigest p1 8 ds s1) else sendDigest p1 0 ds s1
    let back := 1 + compareDelay s p.hops
    let m := now s - back
    if back ≤ now s ∧ p.since ≤ m ∧ p.compareFrom ≤ m then comparePair p1 m s2 else s2

/-- PAIR_DIGEST (R216): the partner's digests of tick M. -/
def execPairDigest (link : Fin 16) (cell : Cell) (s : State) : Host.Outcome State Fault Refusal :=
  fin (receiveCell link cell (fun s =>
    match s.fabric.pair with
    | none => s
    | some p =>
      if cell.src ≠ p.partner then s
      else
        let m := fullTick s (BitVec.ofNat 32 (bodyN cell 0x14 4))
        let base := bodyN cell 0x18 2
        let mask := bodyN cell 0x1A 1
        let old := (mapGet p.theirs m).getD []
        let new := (setBits 8 mask).foldl (fun l b => mapPut l (base + b) (BitVec.ofNat 32 (bodyN cell (0x1C + 4 * b) 4))) old
        fab (fun f => { f with pair := some { p with theirs := mapPut p.theirs m new, lastCell := now s } }) s) s)

end Sys2Proof.Machine
end

