-- ==== Sys2Proof/Machine/Global.lean ====
section
/-!
DEFINITION. Port twins and global operations (R218–R225, R325): ROLE_SET, takeovers of a twin bus, the flood tree of a global
operation, its execution at its tick, and the warm reset that follows a GLOBAL_RESET.
-/
namespace Sys2Proof.Machine

/-! ### Port twins (R218, R219, R325) -/

/-- A port can be a twin: the node is paired and the port has ROLE 1 (R219, R325). -/
def twinAllowed (s : State) (p : Fin 8) : Bool :=
  s.fabric.pair.isSome && decide (portRole ⟨p.val, by omega⟩ (regGet s (Reg.portCfg p)) = 1)

/-- ROLE_SET (R219). -/
def execRoleSet (h : CmdHdr) (tick : BitVec 64) (port role : Byte) (s : State) : Host.Outcome State Fault Refusal :=
  match toFin? 8 port.toNat with
  | none => .next (badTimed h s)
  | some p =>
    .next (timedCmd h tick (decide (2 < role.toNat)) (fun s => if twinAllowed s p then none else some (St.badArg, 0)) noPre
      (.roleSet p role.toNat) s)

/-- ROLE_SET at its boundary: the primary drives, the standby listens. -/
def applyRole (p : Fin 8) (role : Nat) (s : State) : Nat × State :=
  if twinAllowed s p then
    (St.ok, fab (fun f => { f with twins := vset f.twins p { role := role, driving := decide (role = 1) } }) s)
  else (St.badArg, s)

/-- A TWIN event names the tick and the frame concerned (R325, R380): kind 1 overlap, 2 takeover. -/
def twinEvent (p : Fin 8) (kind position : Nat) (s : State) : State :=
  report 0x0504 p (leBytes 1 kind ++ List.replicate 7 0 ++ leBytes 8 (now s) ++ leBytes 1 position)
    (sticky (Reg.portErrStat p) 5 s)

/-- The standby may take over: its last compared digest matched and PAIR_DIVERGE is not active (R219). -/
def mayTakeOver (s : State) : Bool := (s.fabric.pair.elim false fun p => p.matched) && !divergeActive s

/-- The standby takes over the drive of the bus. -/
def takeOver (p : Fin 8) (position : Nat) (s : State) : State :=
  twinEvent p 2 position (bumpFld (Reg.portTwinCount p) 31 16 1
    (fab (fun f => { f with twins := vmod f.twins p fun t => { t with driving := true } }) s))

/-- TWIN_READBACK_MISMATCH (R219): two consecutive bits read back differ from the node's own. A driver releases its lanes and
counts the overlap; the standby takes over. -/
def execTwinReadbackMismatch (port : Fin 8) (position : Byte) (s : State) : Host.Outcome State Fault Refusal :=
  let t := s.fabric.twins[port]
  if t.role = 0 then .next s
  else if t.driving then
    .next (twinEvent port 1 position.toNat (bumpFld (Reg.portTwinCount port) 15 0 1
      (fab (fun f => { f with twins := vmod f.twins port fun t => { t with driving := false } }) s)))
  else if t.role = 2 ∧ mayTakeOver s then .next (takeOver port position.toNat s)
  else .next s

/-- No PAIR_DIGEST has come from the partner in 2 ticks (R218). -/
def digestSilent (s : State) : Bool := s.fabric.pair.elim false fun p => decide (p.lastCell + 2 ≤ now s)

/-- TWIN_DIGEST_TAKEOVER (R218): no PAIR_DIGEST from the partner in 2 ticks; the standby drives from the next port frame. -/
def execTwinDigestTakeover (port : Fin 8) (s : State) : Host.Outcome State Fault Refusal :=
  let t := s.fabric.twins[port]
  if t.role = 2 ∧ !t.driving ∧ mayTakeOver s ∧ digestSilent s then .next (takeOver port 0 s) else .next s

/-! ### Global operations: acceptance and the flood (R222–R224) -/

/-- DIAMETER; 0 and values above 16 act as 16 (R226). -/
def diameter (s : State) : Nat := let d := regFld s Reg.fswCtrl 4 0; if d = 0 ∨ 16 < d then 16 else d

/-- The lead of a global operation in ticks (R223). -/
def globalLead (s : State) : Nat :=
  ceilDiv (diameter s * (unitTick s / 16 + 1200 * unitNs s) + unitTick s) (unitTick s)

/-- This node participates (R221). -/
def participates (s : State) (groups : Word) : Bool := decide (regGet s Reg.fswGroups &&& groups ≠ 0)

/-- The most global operations a node holds (R223). -/
def globalMax : Nat := 16

/-- The body of a GLOBAL_OP cell (R222). -/
def globalBody (opNo : BitVec 16) (a : GlobalOpArgs) : List Byte :=
  leBytes 2 opNo.toNat ++ [a.kind, 0] ++ leBytes 8 a.tick.toNat ++ leBytes 4 a.groups.toNat ++
    (a.arg ++ List.replicate 24 0).take 24

def Totals.zero : Totals := { executed := 0, late := 0, refused := 0, lost := 0 }

/-- GLOBAL_OP (R222, R223): refused without its lead or with 16 operations pending, else numbered, held and flooded; a node
at ID 0 originates no flood (R185). -/
def execGlobalOp (h : CmdHdr) (a : GlobalOpArgs) (s : State) : Host.Outcome State Fault Refusal :=
  let bad : Bool := decide (a.kind.toNat = 0) || decide (5 < a.kind.toNat) || decide (a.groups = 0) || decide (a.tick = 0) ||
    decide (now s + 2 ^ 32 < a.tick.toNat)
  fin (takenCmd true h bad (fun t s =>
    if dmaHalted s then complete t St.busError 0 s
    else if a.tick.toNat < now s + globalLead s then complete t 0x40 0 s
    else if globalMax ≤ s.fabric.ops.length then complete t 0x41 0 s
    else
      let no := s.fabric.opNo
      let op : GlobalOp :=
        { orig := s.node.id, opNo := no, order := t.order, kind := a.kind.toNat, tick := a.tick.toNat, groups := a.groups, arg := a.arg,
          parent := none, children := [], reported := [], totals := Totals.zero, execs := participates s a.groups,
          writing := false, ready := false, command := some (t, a.resultAddr) }
      let s1 := fab (fun f => { f with opNo := no + 1, ops := f.ops ++ [op] }) s
      if s1.node.id = 0 then s1 else sendFlood 0x20 (diameter s1) (globalBody no a) s1) s)

/-- GLOBAL_ARM (R222): the list is read and checked as SNAP_TAKE does (R154), and held for its set. -/
def execGlobalArm (h : CmdHdr) (a : GlobalArmArgs) (s : State) : Host.Outcome State Fault Refusal :=
  let n := a.count.toNat
  let bad : Bool := decide (n = 0) || decide (256 < n) || !aligned8 a.addr
  match toFin? 4 a.set.toNat with
  | none => fin (untimedCmd h true (fun _ s => s) s)
  | some k =>
    fin (untimedCmd h bad (fun t s =>
      if dmaHalted s then complete t St.busError 0 s
      else match snapList s a.addr.toNat n with
        | none => complete t St.badArg 0 s
        | some l =>
          match needObj a.handle 4 (fun o => decide (l.foldl (fun x i => x + i.count) 0 ≤ o.size)) s with
          | some (st, sp) => complete t st sp s
          | none =>
            complete t St.ok 0 (fab (fun f => { f with armed := vset f.armed k (some (a.handle.toNat, l)) }) s)) s)

/-- Is an operation the one an ADOPT or a DONE names? -/
def GlobalOp.named (o : GlobalOp) (orig : BitVec 12) (opNo : BitVec 16) : Bool := o.orig = orig && decide (o.opNo = opNo)

/-- Change the operation of a name. -/
def setOp (orig : BitVec 12) (opNo : BitVec 16) (f : GlobalOp → GlobalOp) (s : State) : State :=
  fab (fun b => { b with ops := b.ops.map fun o => if o.named orig opNo then f o else o }) s

/-- The operation of a name. -/
def opNamed (s : State) (orig : BitVec 12) (opNo : BitVec 16) : Option GlobalOp := s.fabric.ops.find? fun o => o.named orig opNo

/-- A node's name for an operation in an ADOPT or DONE body (R224, R225). -/
def opName (o : GlobalOp) : List Byte := leBytes 2 o.orig.toNat ++ leBytes 2 o.opNo.toNat

/-- The report of an operation leaves the node (R225): a DONE cell to the parent, or at the originator the totals and the
completion of the command. -/
def sendDone (o : GlobalOp) (s0 : State) : State :=
  let s := fab (fun b => { b with ops := b.ops.filter fun x => !x.named o.orig o.opNo }) s0
  let t := o.totals
  let body := leBytes 4 t.executed ++ leBytes 4 t.late ++ leBytes 4 t.refused ++ leBytes 4 t.lost
  let s1 := match o.parent with
    | some l => sendOneHop l 0x22 s.node.id (opName o ++ body) s
    | none => s
  match o.command with
  | none => s1
  | some (c, addr) =>
    resultThen c addr.toNat body (if t.late = 0 ∧ t.refused = 0 ∧ t.lost = 0 then St.ok else 0x42) s1

/-- Send the report once the boundary N has passed, the node's own report is ready and every child has reported (R225). -/
def tryDone (orig : BitVec 12) (opNo : BitVec 16) (s : State) : State :=
  match opNamed s orig opNo with
  | none => s
  | some o =>
    if decide (o.tick ≤ now s) && o.ready && o.children.all (fun l => o.reported.contains l) then sendDone o s else s

/-- GLOBAL_OP_CELL (R223, R224): adopted and held; forwarded only while 16 are pending; LATE when the schedule for N has
closed. -/
def execGlobalOpCell (link : Fin 16) (cell : Cell) (s : State) : Host.Outcome State Fault Refusal :=
  fin (receiveCell link cell (fun s =>
    if globalMax ≤ s.fabric.ops.length then raise Src.globalOverflow 0 0 s
    else
      let groups := BitVec.ofNat 32 (bodyN cell 0x20 4)
      let tick := bodyN cell 0x18 8
      let part := participates s groups
      let late : Bool := decide (tick < openTick s)
      let o : GlobalOp :=
        { orig := cell.src, opNo := BitVec.ofNat 16 (bodyN cell 0x14 2), order := s.hif.order, kind := bodyN cell 0x16 1,
          tick := tick, groups := groups, arg := (cell.body.drop 16).take 24, parent := some link, children := [], reported := [],
          totals := { Totals.zero with late := b2n (late && part) }, execs := part && !late, writing := false, ready := late, command := none }
      let s1 := sendOneHop link 0x21 s.node.id (opName o)
        (fab (fun f => { f with ops := f.ops ++ [o] }) { s with hif := { s.hif with order := s.hif.order + 1 } })
      let s2 := if late then raise Src.globalLate 0 0 s1 else s1
      tryDone o.orig o.opNo s2) s)

/-- ADOPT (R224): the node at the other end of the link is a child, if the cell comes before boundary N. -/
def execAdopt (link : Fin 16) (cell : Cell) (s : State) : Host.Outcome State Fault Refusal :=
  fin (receiveCell link cell (fun s =>
    setOp (BitVec.ofNat 12 (bodyN cell 0x14 2)) (BitVec.ofNat 16 (bodyN cell 0x16 2)) (fun o =>
      if now s < o.tick ∧ !o.children.contains link then { o with children := o.children ++ [link] } else o) s) s)

/-- DONE (R225): a child's totals. -/
def execDoneCell (link : Fin 16) (cell : Cell) (s : State) : Host.Outcome State Fault Refusal :=
  fin (receiveCell link cell (fun s =>
    let orig := BitVec.ofNat 12 (bodyN cell 0x14 2)
    let no := BitVec.ofNat 16 (bodyN cell 0x16 2)
    let add (a n : Nat) : Nat := satN 32 (a + n)
    tryDone orig no (setOp orig no (fun o =>
      if o.children.contains link ∧ !o.reported.contains link then
        { o with reported := o.reported ++ [link],
                 totals := { executed := add o.totals.executed (bodyN cell 0x18 4), late := add o.totals.late (bodyN cell 0x1C 4),
                             refused := add o.totals.refused (bodyN cell 0x20 4), lost := add o.totals.lost (bodyN cell 0x24 4) } }
      else o) s)) s)

/-- DONE_TIMEOUT (R225): four ticks after N, the children that have not reported are lost; before that there is no timeout. -/
def execDoneTimeout (orig : BitVec 12) (opNo : BitVec 16) (s : State) : Host.Outcome State Fault Refusal :=
  match opNamed s orig opNo with
  | none => .next s
  | some o =>
    if now s < o.tick + 4 then .next s else
    let missing := (o.children.filter fun l => !o.reported.contains l).length
    fin (sendDone { o with totals := { o.totals with lost := satN 32 (o.totals.lost + missing) } } s)

/-! ### Execution at N (R221) -/

/-- How one node ends an operation. -/
inductive GlobalEnd where
  | executed | late | refused | waits
  deriving DecidableEq, Repr

/-- Count an end and note whether the report is ready. -/
def GlobalOp.end_ (o : GlobalOp) (e : GlobalEnd) : GlobalOp :=
  match e with
  | .executed => { o with ready := true, totals := { o.totals with executed := o.totals.executed + 1 } }
  | .late => { o with ready := true, totals := { o.totals with late := o.totals.late + 1 } }
  | .refused => { o with ready := true, totals := { o.totals with refused := o.totals.refused + 1 } }
  | .waits => o

/-- The operations that execute at this boundary, in ascending order of originator and number (R221). -/
def globalsNow (s : State) : List GlobalOp :=
  sortBy (fun o => o.orig.toNat * 65536 + o.opNo.toNat) (s.fabric.ops.filter fun o => decide (o.tick = now s) && o.execs)

/-- The tiles a PROGRAM_SWAP names. -/
def GlobalOp.tiles (o : GlobalOp) : List (Fin 16) := if o.kind = 5 then maskUnits 16 (ofLe (o.arg.take 2)) else []

/-- The objects of a global operation in the sense of R20: the tiles of a PROGRAM_SWAP, the object of an armed SNAPSHOT. -/
def globalObjs (s : State) (o : GlobalOp) : List Obj :=
  if o.kind = 3 then ((toFin? 4 (ofLe (o.arg.take 1))).bind fun k => s.fabric.armed[k]).toList.map fun x => .obj x.1
  else o.tiles.map fun n => .tile n.val

/-- PROGRAM_SWAP (R125, R126, R221) on the tiles that no other swap of the same boundary has won (R20). -/
def programSwap (o : GlobalOp) (won : Obj → Bool) (s : State) : GlobalEnd × State :=
  if o.tiles = [] ∨ o.tiles.any (fun (n : Fin 16) => s.tiles[n].load.isSome) then (.refused, s)
  else
    let r := applySwap (o.tiles.filter fun n => !won (.tile n.val)) s
    (if r.1 = St.ok then .executed else .refused, r.2)

/-- Every operation but a SNAPSHOT takes effect; `lateBefore`: a timed action for an earlier tick ran late since the last
BARRIER. -/
def runGlobal (lateBefore : Bool) (won : Obj → Bool) (o : GlobalOp) (s : State) : GlobalEnd × State :=
  match o.kind with
  | 1 => (.executed, reportNow 0x0701 0 o.arg s)
  | 2 => (if lateBefore then .late else .executed, reportNow 0x0702 0 (o.arg.take 4) s)
  | 3 => (.waits, s)
  | 4 => (.executed, fab (fun f => { f with resetAt := some (now s + ticksOfUs s 12000) }) (muteAllNow .stopped .none s))
  | 5 => programSwap o won s
  | _ => (.refused, s)

/-- Run a list of operations in order, each with the objects that later operations and actions have won. -/
def runGlobalList (lateBefore : Bool) : List (GlobalOp × List Obj) → State → State
  | [], s => s
  | (o, w) :: l, s =>
    let r := runGlobal lateBefore (fun x => w.contains x) o s
    let s1 := setOp o.orig o.opNo (fun x => x.end_ r.1) r.2
    -- a GLOBAL_RESET is reported at N (R225)
    let s2 := if o.kind = 4 then (match opNamed s1 o.orig o.opNo with | some x => sendDone x s1 | none => s1) else s1
    runGlobalList lateBefore l s2

/-- The GLOBAL_RESETs that this node has originated and takes no part in complete at N like the others (R225). -/
def resetsDone (s : State) : State :=
  (s.fabric.ops.filter fun o => decide (o.kind = 4) && decide (o.tick = now s) && !o.execs && o.command.isSome).foldl
    (fun s o => sendDone o s) s

/-- The global operations of this boundary but for SNAPSHOT; a BARRIER starts a new span for late actions. -/
def runGlobals (lateBefore : Bool) (l : List (GlobalOp × List Obj)) (s : State) : State :=
  let barrier := l.any fun o => decide (o.1.kind = 2)
  let s1 := if barrier then s else fab (fun f => { f with lateSinceBarrier := f.lateSinceBarrier || lateBefore }) s
  resetsDone (runGlobalList lateBefore l s1)

/-- This node's host is the originator's (R221): it is the originator, or the originator owns its rings through the tunnel. -/
def originatorHost (s : State) (o : GlobalOp) : Bool :=
  if o.orig = s.node.id then decide (hifMode s ≠ 0)
  else decide (hifMode s = 2) && (s.hif.owner.elim false fun w => decide (w.id = o.orig))

/-- The number under which the requests that write an operation's snapshot data stand. -/
def GlobalOp.use (o : GlobalOp) : TunUse := .snap (o.orig.toNat * 65536 + o.opNo.toNat)

/-- SNAPSHOT (R154, R221): the armed set is taken, and the object written to ADDR + node ID × STRIDE; the report waits for the
data. One whose object a later action has won is not taken, and counts as executed (R20). -/
def runSnapshot (o : GlobalOp) (won : Obj → Bool) (s : State) : GlobalEnd × State :=
  match (toFin? 4 (ofLe (o.arg.take 1))).bind fun k => s.fabric.armed[k] with
  | none => (.refused, s)
  | some (hd, items) =>
    if won (.obj hd) then (.executed, s) else
    let r := applySnap hd items s
    if r.1 ≠ St.ok ∨ !originatorHost s o ∨ dmaHalted s then (.refused, r.2)
    else
      match objOf r.2 hd with
      | none => (.refused, r.2)
      | some x =>
        let addr := (ofLe ((o.arg.drop 8).take 8) + s.node.id.toNat * ofLe ((o.arg.drop 4).take 4)) % 2 ^ 64
        let bytes := (mapGetList 0 x.words 0 x.size).flatMap fun w => leBytes 4 w.toNat
        (.waits, setOp o.orig o.opNo (fun x => { x with writing := true }) (useWrite o.use addr bytes r.2))

/-- The SNAPSHOTs of this boundary, at order 4 of R129. -/
def runSnapshots (l : List (GlobalOp × List Obj)) (s : State) : State :=
  (l.filter fun o => decide (o.1.kind = 3)).foldl (fun s o =>
    let r := runSnapshot o.1 (fun x => o.2.contains x) s
    setOp o.1.orig o.1.opNo (fun x => x.end_ r.1) r.2) s

/-- The data of an operation's snapshot has been written: no request for it is outstanding (R221, R387). -/
def snapWritten (s : State) (o : GlobalOp) : Bool :=
  o.writing && !(s.tun.unacked.any fun r => decide (r.use = o.use)) && !(s.tun.unissued.any fun x => decide (x.2 = o.use))

/-- The snapshots whose data has been written are executed, and their report goes out when every child has reported (R225). -/
def settleSnapshots (s : State) : State :=
  (s.fabric.ops.filter (snapWritten s)).foldl (fun s o =>
    tryDone o.orig o.opNo (setOp o.orig o.opNo (fun x => { x.end_ .executed with writing := false }) s)) s

/-- The reports that this boundary makes ready (R225): nodes that do not participate report nothing of their own. -/
def reportGlobals (s0 : State) : State :=
  let s := settleSnapshots s0
  s.fabric.ops.foldl (fun s o =>
    tryDone o.orig o.opNo (if o.tick = now s ∧ !o.execs then setOp o.orig o.opNo (fun x => { x with ready := true }) s else s)) s

/-- GLOBAL_RESET_WARM (R221): the warm reset that follows a GLOBAL_RESET, from its tick on. -/
def execGlobalResetWarm (s : State) : Host.Outcome State Fault Refusal :=
  if s.fabric.resetAt.any (fun t => decide (t ≤ now s)) then .next (resetTo false .globalReset s) else .next s

end Sys2Proof.Machine
end

