-- ==== Sys2Proof/Machine/Mb.lean ====
section
/-!
DEFINITION. The two-wire buses (chapter "Two-Wire Management Buses"): controller transactions with arbitration and retries, the
target role, requests, hung buses and MB_RST_n. A command carries what the wires show at the byte or transaction it stands for.
-/
namespace Sys2Proof.Machine

def mbMod (n : Fin 2) (f : MbBus → MbBus) (s : State) : State := { s with mb := vmod s.mb n f }

/-- TGT_ADDR of a bus, and whether the target role is on (R427): TGT_EN, and no excluded address. -/
def tgtAddr (s : State) (n : Fin 2) : Nat := regFld s (Reg.mbCtrl n) 10 4
def excludedAddr (a : Nat) : Bool := a ≤ 7 ∨ a = 0x0C ∨ 0x78 ≤ a
def tgtOn (s : State) (n : Fin 2) : Bool := regBit s (Reg.mbCtrl n) 1 && !excludedAddr (tgtAddr s n)

/-- The path a bus's accesses take (R526). -/
def mbPath (n : Fin 2) : AccessPath := if n.val = 0 then .mb0 else .mb1

/-- A request of this module that has not been served (R438). -/
def reqOpen (s : State) (n : Fin 2) : Bool := regBit s (Reg.mbTgtReq n) 0 && !regBit s (Reg.mbTgtReq n) 2

/-- SERVED is set. -/
def setServed (n : Fin 2) (s : State) : State := regSetFld (Reg.mbTgtReq n) 2 2 1 s

/-- Report MB_REQUEST (R447): the requester's address, and whether it used the alert line. -/
def reportRequest (n : Fin 2) (byte : Byte) (alert : Bool) (s : State) : State :=
  report 0x0F20 n.val [BitVec.ofNat 8 (byte.toNat / 2), BitVec.ofNat 8 (b2n alert)] s

/-! ### The target role (R434–R437) -/

/-- An address byte carries the module's own address. -/
def addressed (s : State) (n : Fin 2) (byte : Byte) : Bool := tgtOn s n && decide (byte.toNat / 2 = tgtAddr s n)

/-- A target transaction begins. -/
def beginTarget (n : Fin 2) (byte : Byte) (s : State) : State :=
  mbMod n (fun b => { b with tgt := some { read := byte.getLsbD 0, bytes := [], nacked := false, word := 0, sent := 0 }, ack := true }) s

/-- A NACK of a sleeping or booting node, or within 1 ms of the one that woke it. -/
def nackAddress (n : Fin 2) (s : State) : State := mbMod n (fun b => { b with ack := false }) s

/-- 1 ms in the unit of refTime. -/
def mbMs : Nat := refSecond / 1000

/-- MB_TARGET_ADDRESS (R434, R437, R481): another device's START and address byte. -/
def execMbTargetAddress (bus : Fin 2) (byte : Byte) (s0 : State) : Host.Outcome State Fault Refusal :=
  let s := mbMod bus (fun b => { b with free := false, others := true, tgt := none, ack := false }) s0
  if !addressed s bus byte then .next s
  else if s.power.state = .sleep then
    let s1 := wakeBy (if bus.val = 0 then 1 else 2) (nackAddress bus s)
    fin (if s1.power.state = .running then mbMod bus (fun b => { b with wakeNack := some s.time.refTime }) s1 else s1)
  else if !regsOpen s ∨ s.mb[bus].wakeNack.elim false (fun t => decide (s.time.refTime < t + mbMs)) then .next (nackAddress bus s)
  else .next (beginTarget bus byte s)

/-- The offset that three committed bytes spell, if it obeys R434. -/
def offsetOf (b : List Byte) : Option Nat :=
  let o := ofLe (b.take 3)
  if o % 4 = 0 ∧ o < 0x40000 then some o else none

/-- A committed byte of a write (R434, R435): the next state of the transaction, or a NACK. -/
def commitByte (n : Fin 2) (t : MbTgt) (byte : Byte) (s : State) : State :=
  let bytes := t.bytes ++ [byte]
  let k := bytes.length
  let nack (s : State) : State := mbMod n (fun b => { b with ack := false, tgt := some { t with nacked := true } }) s
  let ok (s : State) : State := mbMod n (fun b => { b with ack := true, tgt := some { t with bytes := bytes } }) s
  if k < 3 then ok s
  else if k = 3 then
    match offsetOf bytes with
    | some o => mbMod n (fun b => { b with ptr := o }) (ok s)
    | none => nack s
  else if n.val = 0 ∨ 0x3FFFC < s.mb[n].ptr then nack s
  else if (k - 3) % 4 = 0 then
    mbMod n (fun b => { b with ptr := b.ptr + 4 })
      (busWrite .mb1 s.mb[n].ptr (BitVec.ofNat 32 (ofLe (bytes.drop (k - 4)))) (ok s))
  else ok s

/-- MB_TARGET_BYTE (R434, R435). -/
def execMbTargetByte (bus : Fin 2) (byte : Byte) (s : State) : Host.Outcome State Fault Refusal :=
  match s.mb[bus].tgt with
  | some t => if t.read ∨ t.nacked then .next (mbMod bus (fun b => { b with ack := false }) s) else fin (commitByte bus t byte s)
  | none => .next s

/-- MB_TARGET_READ_BYTE (R434): a word is read at its first byte; the pointer advances after its fourth. -/
def execMbTargetReadByte (bus : Fin 2) (s : State) : Host.Outcome State Fault Refusal :=
  match s.mb[bus].tgt with
  | none => .next s
  | some t =>
    if !t.read then .next s
    else
      let i := t.sent % 4
      let p := s.mb[bus].ptr
      let w := if i = 0 then busRead (mbPath bus) s p else t.word
      let s1 := if i = 0 then afterRead (mbPath bus) p s else s
      .next (mbMod bus (fun b => { b with
        tgt := some { t with word := w, sent := t.sent + 1 }, sent := BitVec.ofNat 8 (w.toNat / 256 ^ i),
        ptr := if i = 3 then p + 4 else p }) s1)

/-- A target transaction ends (R435): an incomplete word is discarded and flagged. -/
def endTarget (n : Fin 2) (s : State) : State :=
  match s.mb[n].tgt with
  | none => s
  | some t =>
    let s1 := if !t.read ∧ 3 < t.bytes.length ∧ (t.bytes.length - 3) % 4 ≠ 0 then sticky (Reg.mbErrStat n) 4 s else s
    mbMod n (fun b => { b with tgt := none }) s1

/-- MB_STOP (R435, R436): a STOP or repeated START; inside a byte or an acknowledge slot it is a bus error. -/
def execMbStop (bus : Fin 2) (repeated inByte : Bool) (s : State) : Host.Outcome State Fault Refusal :=
  let s1 := if s.mb[bus].tgt.isSome ∧ inByte then sticky (Reg.mbErrStat bus) 0 (bumpFld (Reg.mbCounts bus) 15 0 1 s) else s
  .next (mbMod bus (fun b => { b with others := repeated, free := false }) (endTarget bus s1))

/-! ### Controller transactions (R431–R433) -/

/-- CMD_SPECIFIC of MB_XFER (R446). -/
def mbSpecific (acked got arb : Nat) : Nat := acked % 256 + got % 256 * 256 + arb % 4 * 65536

/-- The command in progress ends. -/
def endXfer (n : Fin 2) (c : MbCur) (status acked got : Nat) (s : State) : State :=
  complete c.ticket status (mbSpecific acked got c.arb) (mbMod n (fun b => { b with cur := none, free := false }) s)

/-- A loss of arbitration is recorded (R432). -/
def recordLoss (n : Fin 2) (byte bit : Nat) (s : State) : State :=
  sticky (Reg.mbErrStat n) 1 (regSet (Reg.mbArbInfo n) (BitVec.ofNat 32 (byte % 256 + bit % 16 * 256))
    (bumpFld (Reg.mbCounts n) 31 16 1 s))

/-- What follows a loss in the address byte (R433, R440): the module is addressed itself, or serves the byte as a request. -/
def afterLoss (n : Fin 2) (byte : Nat) (header : Byte) (s0 : State) : State :=
  let s := mbMod n (fun b => { b with free := false, others := true }) s0
  if byte ≠ 0 then s
  else if addressed s n header then beginTarget n header s
  else if header.getLsbD 0 ∧ header ≠ 0x19 ∧ regBit s (Reg.mbCtrl n) 12 then
    reportRequest n header false (mbMod n (fun b => { b with ack := true }) s)
  else s

/-- An address byte is not acknowledged (R431). -/
def addressNacked (n : Fin 2) (c : MbCur) (acked : Nat) (s : State) : State :=
  if c.nacks < regFld s (Reg.mbCtrl n) 19 18 then
    mbMod n (fun b => { b with cur := some { c with nacks := c.nacks + 1, phase := .nackWait }, free := false, nackAt := s.time.refTime }) s
  else endXfer n c 0x70 acked 0 s

/-- The bytes a controller read; the released bus reads as ones. -/
def readBytes (n : Nat) (data : List Byte) : List Byte := (data ++ List.replicate (n - data.length) 0xFF).take n

/-- One attempt of the transaction in progress, with what the wires answer (R431, R432). -/
def runXfer (n : Fin 2) (c : MbCur) (w : MbWire) (s : State) : State :=
  let wl := c.args.wlen.toNat
  let rl := c.args.rlen.toNat
  match w with
  | .hang => mbMod n (fun b => { b with cur := some { c with phase := .running }, free := false }) s
  | .lost byte bit header =>
    let s1 := afterLoss n byte.toNat header (recordLoss n byte.toNat bit.val s)
    if c.arb < regFld s (Reg.mbCtrl n) 17 16 then
      mbMod n (fun b => { b with cur := some { c with arb := c.arb + 1, phase := .waitFree } }) s1
    else endXfer n c 0x72 (min (byte.toNat - 1) wl) 0 s1
  | .answer addrAck writeAcks readAck data =>
    if !addrAck then addressNacked n c 0 s
    else if writeAcks < wl then endXfer n c 0x71 writeAcks 0 s
    else if rl = 0 then endXfer n c St.ok wl 0 s
    else if wl ≠ 0 ∧ !readAck then addressNacked n c wl s
    else
      let a := c.args.resultAddr.toNat
      if dmaHalted s then endXfer n c St.busError wl rl s
      else resultWith none c.ticket a (readBytes rl data) St.ok (mbSpecific wl rl c.arb)
        (mbMod n (fun b => { b with cur := none, free := false }) s)

/-- Start the next commands of a bus in acceptance order (R431): a disabled controller answers MB_DISABLED, an MB_RESET drives
MB_RST_n, an MB_XFER begins if the bus is free, with what the wires answer. -/
def mbPump (n : Fin 2) : Nat → Option MbWire → State → State
  | 0, _, s => s
  | fuel + 1, w, s =>
    if s.mb[n].cur.isSome ∨ s.mb[n].rst ≠ .none then s
    else
      match s.mb[n].queue with
      | [] => s
      | .reset t :: rest =>
        mbMod n (fun b => { b with queue := rest, rst := .command t, rstAt := s.time.refTime, free := false }) s
      | .xfer t a since :: rest =>
        let s1 := mbMod n (fun b => { b with queue := rest }) s
        if !regBit s (Reg.mbCtrl n) 0 then mbPump n fuel w (complete t 0x74 0 s1)
        else if a.rlen ≠ 0 ∧ dmaHalted s then mbPump n fuel w (complete t St.busError 0 s1)
        else
          let c : MbCur := { ticket := t, args := a, since := since, arb := 0, nacks := 0, phase := .waitFree }
          let s2 := mbMod n (fun b => { b with cur := some c }) s1
          if s.mb[n].free then
            match w with
            | some x => mbPump n fuel none (runXfer n c x s2)
            | none => s2
          else s2

/-- Start what can start: the queue holds at most as many commands as were accepted. -/
def mbNext (n : Fin 2) (w : Option MbWire) (s : State) : State := mbPump n (s.mb[n].queue.length + 1) w s

/-- MB_XFER is malformed (R446): an address that R427 excludes, but for the Alert Response Address. -/
def xferBad (a : MbXferArgs) : Bool :=
  decide (1 < a.bus.toNat) || decide (0x80 ≤ a.addr.toNat) || (excludedAddr a.addr.toNat && decide (a.addr ≠ 0x0C)) ||
    decide (24 < a.wlen.toNat) || (a.wdata.drop a.wlen.toNat).any fun b => b ≠ 0

/-- The bus a BUS byte names. -/
def busOf (b : Byte) : Fin 2 := if b.toNat = 1 then 1 else 0

/-- MB_XFER (R431), with what the wires answer if it begins at once. -/
def mbXferWith (h : CmdHdr) (a : MbXferArgs) (w : Option MbWire) (s : State) : State :=
  untimedCmd h (xferBad a) (fun t s =>
    mbNext (busOf a.bus) w (mbMod (busOf a.bus) (fun b => { b with queue := b.queue ++ [.xfer t a s.time.refTime] }) s)) s

def execMbXfer (h : CmdHdr) (a : MbXferArgs) (w : MbWire) (s : State) : Host.Outcome State Fault Refusal :=
  fin (mbXferWith h a (some w) s)

/-- MB_RESET (R444). -/
def execMbReset (h : CmdHdr) (bus : Byte) (s : State) : Host.Outcome State Fault Refusal :=
  fin (untimedCmd h (decide (1 < bus.toNat)) (fun t s =>
    mbNext (busOf bus) none (mbMod (busOf bus) (fun b => { b with queue := b.queue ++ [.reset t] }) s)) s)

/-- Run the transaction that waited, then what follows it. -/
def resumeXfer (n : Fin 2) (c : MbCur) (w : MbWire) (s : State) : State := mbNext n none (runXfer n c w s)

/-- MB_ADDR_NACK_RETRY (R431): 1.2 ms after the STOP the transaction is repeated. -/
def execMbAddrNackRetry (bus : Fin 2) (w : MbWire) (s : State) : Host.Outcome State Fault Refusal :=
  match s.mb[bus].cur with
  | none => .next s
  | some c =>
    if c.phase ≠ .nackWait ∨ !mayHavePassed s s.mb[bus].nackAt (mbMs * 12 / 10) then .next s
    else if s.mb[bus].others ∨ s.mb[bus].stuck ∨ s.mb[bus].rst ≠ .none then
      .next (mbMod bus (fun b => { b with cur := some { c with phase := .waitFree } }) s)
    else fin (resumeXfer bus c w s)

/-- MB_BUS_FREE (R428, R432): SCL and SDA have been high for T_LOW cycles; a waiting transaction begins. While MB_RST_n is low
the bus does not count as free (R444). -/
def execMbBusFree (bus : Fin 2) (w : MbWire) (s : State) : Host.Outcome State Fault Refusal :=
  if s.mb[bus].rst ≠ .none then .next s
  else
    let s1 := mbMod bus (fun b => { b with scl := true, sda := true, free := true, others := false, stuck := false, tgt := none }) s
    match s1.mb[bus].cur with
    | some c => if c.phase = .waitFree then fin (resumeXfer bus c w s1) else .next s1
    | none => fin (mbNext bus (some w) s1)

/-- 100 ms may have passed since the acceptance of a transaction (R431). -/
def waitedLong (s : State) (since : Nat) : Bool := mayHavePassed s since (100 * mbMs)

/-- A waiting command is the MB_XFER of a number. -/
def MbCmd.isXfer (seq : BitVec 16) : MbCmd → Bool
  | .xfer t _ _ => decide (t.seq = seq)
  | .reset _ => false

/-- MB_XFER_TIMEOUT (R431): a transaction that has waited for its bus for 100 ms completes with TIMEOUT. -/
def execMbXferTimeout (bus : Fin 2) (seq : BitVec 16) (s : State) : Host.Outcome State Fault Refusal :=
  match s.mb[bus].cur.filter fun c => decide (c.ticket.seq = seq) && decide (c.phase = .waitFree) with
  | some c =>
    if waitedLong s c.since then
      fin (mbNext bus none (complete c.ticket St.timeout (mbSpecific 0 0 c.arb) (mbMod bus (fun b => { b with cur := none }) s)))
    else .next s
  | none =>
    match s.mb[bus].queue.find? (MbCmd.isXfer seq) with
    | some (.xfer t _ since) =>
      if waitedLong s since then
        fin (complete t St.timeout 0 (mbMod bus (fun b => { b with queue := b.queue.filter fun x => !MbCmd.isXfer seq x }) s))
      else .next s
    | _ => .next s

/-! ### Hung buses and MB_RST_n (R443, R444) -/

/-- The command in progress ends with a status and no retry. -/
def abandonXfer (n : Fin 2) (status : Nat) (s : State) : State :=
  match s.mb[n].cur with
  | some c => endXfer n c status 0 0 s
  | none => s

/-- A bus is stuck: flagged and raised. -/
def markStuck (n : Fin 2) (s : State) : State :=
  raise Src.mbStuck n 0 (sticky (Reg.mbErrStat n) 2 (mbMod n (fun b => { b with stuck := true, free := false }) s))

/-- MB_STUCK (R443). SCL_TIMEOUT 0 disables the check. -/
def execMbStuck (bus : Fin 2) (sclLow : Bool) (s : State) : Host.Outcome State Fault Refusal :=
  if regFld s (Reg.mbCtrl bus) 31 24 = 0 ∨ s.mb[bus].stuck then .next s
  else
    let s1 := abandonXfer bus St.timeout (markStuck bus (mbMod bus (fun b => { b with scl := !sclLow, sda := sclLow && b.sda }) s))
    let auto := regBit s (Reg.mbCtrl bus) 14 && decide (s.mb[bus].rst = .none)
    fin (mbNext bus none (if auto then mbMod bus (fun b => { b with rst := .stuck, rstAt := s.time.refTime }) s1 else s1))

/-- The cause an MB_BUS_RESET event carries (R447). -/
def MbRst.cause : MbRst → Nat
  | .stuck => 1 | .command _ => 2 | .none => 3 | .other => 3

/-- MB_RST_RECEIVED (R444): MB_RST_n has been low for 10 µs. -/
def execMbRstReceived (bus : Fin 2) (s : State) : Host.Outcome State Fault Refusal :=
  let cause := s.mb[bus].rst.cause
  let s1 := mbMod bus (fun b => { b with rst := if b.rst = .none then .other else b.rst, free := false, others := false, stuck := false })
    (endTarget bus s)
  fin (report 0x0F21 bus.val (leBytes 1 cause) (sticky (Reg.mbErrStat bus) 3 (abandonXfer bus 0x73 s1)))

/-- How long MB_RST_n is driven low (R444): RST_US × 10 µs, 0 acting as 1, in the unit of refTime. -/
def rstUnits (s : State) (n : Fin 2) : Nat := max 1 (regFld s (Reg.mbTimingB n) 31 24) * refSecond / 100000

/-- MB_RST_DRIVE_END (R444): MB_RST_n rises again, when this module drives it after its time; an MB_RESET completes. -/
def execMbRstDriveEnd (bus : Fin 2) (s : State) : Host.Outcome State Fault Refusal :=
  let s1 := mbMod bus (fun b => { b with rst := .none, riseAt := some s.time.refTime }) s
  let ended := mayHavePassed s s.mb[bus].rstAt (rstUnits s bus)
  match s.mb[bus].rst with
  | .none => .next s
  | .other => fin (mbNext bus none s1)
  | .command t => if ended then fin (mbNext bus none (complete t St.ok 0 s1)) else .next s
  | .stuck => if ended then fin (mbNext bus none s1) else .next s

/-- MB_RST_RELEASE_CHECK (R444): 1 ms after the rise, a bus that is not free is stuck again, with no further automatic reset. -/
def execMbRstReleaseCheck (bus : Fin 2) (scl sda : Bool) (s : State) : Host.Outcome State Fault Refusal :=
  if s.mb[bus].rst ≠ .none ∨ s.mb[bus].riseAt.elim true (fun t => !mayHavePassed s t mbMs) = true then .next s
  else
    let s1 := mbMod bus (fun b => { b with scl := scl, sda := sda, riseAt := none }) s
    if scl && sda then .next s1 else fin (markStuck bus s1)

/-! ### Target requests and their service (R438–R441) -/

/-- No transaction of this module uses the bus, and the bus is free. -/
def busIdle (s : State) (n : Fin 2) : Bool := s.mb[n].free && s.mb[n].cur.isNone && s.mb[n].tgt.isNone

/-- 10 ms have passed since a pause began, if one runs. -/
def pauseOver (s : State) (t : Option Nat) : Bool := t.elim true fun x => mayHavePassed s x (10 * mbMs)

/-- The module may send an in-band request header (R438): 10 ms after one that went unserved. -/
def canRequest (s : State) (n : Fin 2) : Bool :=
  regsOpen s && pauseOver s s.mb[n].reqPause && tgtOn s n && !flag (mbCtrl s n) 11 && reqOpen s n && busIdle s n

/-- MB_TARGET_REQUEST (R438): the header is acknowledged (SERVED), not acknowledged, or loses arbitration. -/
def execMbTargetRequest (bus : Fin 2) (e : MbHeaderEnd) (s : State) : Host.Outcome State Fault Refusal :=
  if !canRequest s bus then .next s
  else
    let s1 := mbMod bus (fun b => { b with free := false, others := decide (e = .lost), sent := BitVec.ofNat 8 (tgtAddr s bus * 2 + 1) }) s
    .next (if e = .acked then setServed bus s1 else s1)

/-- MB_REQUEST_UNSERVED (R438): nobody clocked the header within 1 ms. -/
def execMbRequestUnserved (bus : Fin 2) (s : State) : Host.Outcome State Fault Refusal :=
  if canRequest s bus then
    .next (sticky (Reg.mbErrStat bus) 5 (mbMod bus (fun b => { b with reqPause := some s.time.refTime }) s))
  else .next s

/-- This module may act as controller beside MB_XFER, with a bit of MB_CTRL set. -/
def canServe (s : State) (n : Fin 2) (bit : Nat) : Bool :=
  regsOpen s && regBit s (Reg.mbCtrl n) 0 && regBit s (Reg.mbCtrl n) bit && s.mb[n].cur.isNone && s.mb[n].tgt.isNone

/-- MB_SERVE_INBAND (R439): the header that this controller has clocked. -/
def execMbServeInband (bus : Fin 2) (header : Byte) (s : State) : Host.Outcome State Fault Refusal :=
  if !canServe s bus 12 then .next s
  else
    let s1 := mbMod bus (fun b => { b with free := false, ack := false }) s
    if addressed s bus header then .next (beginTarget bus header s1)
    else if header.getLsbD 0 then .next (reportRequest bus header false (mbMod bus (fun b => { b with ack := true }) s1))
    else .next s1

/-- MB_ALERT_SERVE (R441): at most 8 reads of the Alert Response Address in a row, the next 10 ms later if the line is still low; one
event per byte received. -/
def execMbAlertServe (bus : Fin 2) (bytes : List Byte) (lineLow : Bool) (s : State) : Host.Outcome State Fault Refusal :=
  if !(canServe s bus 13 && s.mb[bus].free && pauseOver s s.mb[bus].alertPause) then .next s
  else .next ((bytes.take 8).foldl (fun s b => reportRequest bus b true s)
    (mbMod bus (fun b => { b with free := false, alertIn := lineLow,
                                  alertPause := if lineLow && decide (8 ≤ bytes.length) then some s.time.refTime else none }) s))

/-- MB_ARA_READ (R441): this module answers with its address while it holds MB_ALERT_n; if it wins it is served. -/
def execMbAraRead (bus : Fin 2) (wins : Bool) (s : State) : Host.Outcome State Fault Refusal :=
  if !(regsOpen s && alertHeld s bus) then .next s
  else
    let s1 := mbMod bus (fun b => { b with free := false, others := true, sent := BitVec.ofNat 8 (tgtAddr s bus * 2) }) s
    .next (if wins then setServed bus s1 else s1)

end Sys2Proof.Machine
end

