-- ==== Sys2Proof/Machine/Descriptor.lean ====
section
/-!
DEFINITION. Command descriptors as they stand in a ring (R370): the common header, and the layout of every command of the
opcode tables. A bit outside the fields of its layout is reserved and must be 0 (R9).
-/
namespace Sys2Proof.Machine

/-- A field of a descriptor: its offset and its size in bytes; multi-byte fields are little-endian (R5). -/
def desc (d : List Byte) (off n : Nat) : Nat := ofLe ((d.drop off).take n)

/-- The bits of a descriptor byte that a layout uses: whole bytes as (offset, size), partial bytes as (offset, mask). -/
def usedBits (spans parts : List (Nat × Nat)) (i : Nat) : Nat :=
  if spans.any fun s => decide (s.1 ≤ i) && decide (i < s.1 + s.2) then 0xFF
  else ((parts.find? fun p => p.1 = i).map (·.2)).getD 0

/-- The header's fields: OPCODE, FLAGS [2:0] and TAG (R370). -/
def headerSpans : List (Nat × Nat) := [(0, 2), (4, 2)]

/-- Does a descriptor set a reserved bit (R9)? -/
def reservedBits (d : List Byte) (spans parts : List (Nat × Nat)) : Bool :=
  (List.range 64).any fun i =>
    decide (((d.getD i 0) &&& BitVec.ofNat 8 (255 - usedBits (headerSpans ++ spans) ((2, 7) :: parts) i)) ≠ 0)

/-- A time value (R273). -/
def descTime (d : List Byte) (off : Nat) : TimeVal :=
  { sec := BitVec.ofNat 64 (desc d off 8), ns := BitVec.ofNat 32 (desc d (off + 8) 4), frac := BitVec.ofNat 16 (desc d (off + 12) 2) }

/-- The header of the descriptor at an index of a ring. -/
def descHeader (ring : Fin 8) (index : Nat) (d : List Byte) (reserved : Bool) : CmdHdr :=
  { ring := ring, index := BitVec.ofNat 12 index, tag := BitVec.ofNat 16 (desc d 4 2), irq := bitOf (desc d 2 1) 1,
    ordered := bitOf (desc d 2 1) 2, reservedSet := reserved, stores := [] }

section Layouts

variable (d : List Byte) (mk : List (Nat × Nat) → List (Nat × Nat) → CmdHdr)

/-- TICK (R23). -/
def dTick : BitVec 64 := BitVec.ofNat 64 (desc d 0x10 8)
def d8 (off : Nat) : Byte := BitVec.ofNat 8 (desc d off 1)
def d16 (off : Nat) : BitVec 16 := BitVec.ofNat 16 (desc d off 2)
def d32 (off : Nat) : Word := BitVec.ofNat 32 (desc d off 4)
def d64 (off : Nat) : BitVec 64 := BitVec.ofNat 64 (desc d off 8)
def dBytes (off n : Nat) : List Byte := (d.drop off).take n

/-- The PORT byte (R327): bits 3 and 7:5 are reserved. -/
def dPort : PortSel := { aes := bitOf (desc d 0x18 1) 4, index := BitVec.ofNat 3 (desc d 0x18 1) }

/-- The layouts of the router range (R47–R63). -/
def routerDesc (op : Nat) : Option Instr :=
  match op with
  | 0x0001 => some (.routeSet (mk [(0x10, 11), (0x1C, 8)] [(0x1B, 3)])
      { tick := dTick d, dest := d16 d 0x18, input := d8 d 0x1A, law := BitVec.ofNat 2 (desc d 0x1B 1), source := d16 d 0x1C,
        rampMs := d16 d 0x1E, gain := d32 d 0x20 })
  | 0x0002 => some (.gainSet (mk [(0x10, 11), (0x1C, 6)] [])
      { tick := dTick d, dest := d16 d 0x18, input := d8 d 0x1A, gain := d32 d 0x1C, rampMs := d16 d 0x20 })
  | 0x0003 => some (.routeClear (mk [(0x10, 10), (0x1C, 2)] [(0x1B, 3)])
      { tick := dTick d, dest := d16 d 0x18, law := BitVec.ofNat 2 (desc d 0x1B 1), rampMs := d16 d 0x1C })
  | 0x0004 => some (.routeBatch (mk [(0x10, 19)] [])
      { tick := dTick d, addr := d64 d 0x18, count := d16 d 0x20, version := d8 d 0x22 })
  | 0x0005 => some (.routeQuery (mk [(0x18, 2), (0x20, 8)] []) (d16 d 0x18) (d64 d 0x20))
  | 0x0010 => some (.directSet (mk [(0x10, 9), (0x1A, 10)] [])
      { tick := dTick d, channel := d8 d 0x18, source := d16 d 0x1A, dest := d16 d 0x1C, rampMs := d16 d 0x1E, gain := d32 d 0x20 })
  | 0x0020 => some (.testgenSet (mk [(0x10, 10), (0x1C, 12)] [])
      { tick := dTick d, gen := d8 d 0x18, wave := d8 d 0x19, level := d32 d 0x1C, freq := d32 d 0x20, seed := d32 d 0x24 })
  | _ => none

/-- The layouts of the tile range (R123–R135). -/
def tileDesc (op : Nat) : Option Instr :=
  match op with
  | 0x0101 => some (.tileLoad (mk [(0x18, 13)] []) { addr := d64 d 0x18, length := d32 d 0x20, tile := d8 d 0x24 })
  | 0x0102 => some (.tileClear (mk [(0x18, 1)] []) (d8 d 0x18))
  | 0x0103 => some (.tileSwap (mk [(0x10, 10)] []) (dTick d) (d16 d 0x18))
  | 0x0104 => some (.paramWrite (mk [(0x10, 10), (0x1C, 2), (0x20, 32)] [(0x1A, 3), (0x1E, 7)])
      { tick := dTick d, tile := d8 d 0x18, count := d8 d 0x19, inline_ := bitOf (desc d 0x1A 1) 0,
        stride := bitOf (desc d 0x1A 1) 1, waddr := BitVec.ofNat 19 (desc d 0x1C 4), data := dBytes d 0x20 32 })
  | 0x0105 => some (.rampSet (mk [(0x10, 10), (0x1C, 2), (0x20, 10)] [(0x1A, 7), (0x1E, 7)])
      { tick := dTick d, tile := d8 d 0x18, unit := d8 d 0x19, q29 := bitOf (desc d 0x1A 1) 0, stride := bitOf (desc d 0x1A 1) 1,
        release := bitOf (desc d 0x1A 1) 2, waddr := BitVec.ofNat 19 (desc d 0x1C 4), target := d32 d 0x20, from_ := d32 d 0x24,
        rampMs := d16 d 0x28 })
  | 0x0106 => some (.dmemRead (mk [(0x18, 1), (0x1A, 4), (0x20, 8)] [(0x1E, 7)])
      { tile := d8 d 0x18, count := d16 d 0x1A, waddr := BitVec.ofNat 19 (desc d 0x1C 4), resultAddr := d64 d 0x20 })
  | 0x0107 => some (.rampQuery (mk [(0x18, 1), (0x20, 8)] []) (d8 d 0x18) (d64 d 0x20))
  | _ => none

/-- The layouts of the bench range (R156). -/
def benchDesc (op : Nat) : Option Instr :=
  match op with
  | 0x0201 => some (.benchCreate (mk [(0x18, 1), (0x1C, 4)] []) (d8 d 0x18) (d32 d 0x1C))
  | 0x0202 => some (.benchQuota (mk [(0x18, 1), (0x1C, 4)] []) (d8 d 0x18) (d32 d 0x1C))
  | 0x0203 => some (.benchDelete (mk [(0x18, 1)] []) (d8 d 0x18))
  | 0x0204 => some (.objAlloc (mk [(0x18, 5), (0x20, 4)] [])
      { bench := d8 d 0x18, ty := d8 d 0x19, channel := d16 d 0x1A, channels := d8 d 0x1C, size := d32 d 0x20 })
  | 0x0205 => some (.objFree (mk [(0x10, 10)] []) (dTick d) (d16 d 0x18))
  | 0x0206 => some (.delaySet (mk [(0x10, 18)] [])
      { tick := dTick d, handle := d16 d 0x18, mode := d8 d 0x1A, law := d8 d 0x1B, delay := d32 d 0x1C, rampMs := d16 d 0x20 })
  | 0x0207 => some (.playStart (mk [(0x10, 10), (0x1C, 14)] [(0x1A, 1)])
      { tick := dTick d, handle := d16 d 0x18, loop := bitOf (desc d 0x1A 1) 0, startFrame := d32 d 0x1C, loopStart := d32 d 0x20,
        gain := d32 d 0x24, rampMs := d16 d 0x28 })
  | 0x0208 => some (.playStop (mk [(0x10, 12)] []) (dTick d) (d16 d 0x18) (d16 d 0x1A))
  | 0x0209 => some (.captureCtrl (mk [(0x10, 11), (0x1C, 4)] [])
      { tick := dTick d, handle := d16 d 0x18, action := d8 d 0x1A, startFrame := d32 d 0x1C })
  | 0x020A => some (.benchWrite (mk [(0x18, 2), (0x1C, 16)] [])
      { handle := d16 d 0x18, offset := d32 d 0x1C, addr := d64 d 0x20, length := d32 d 0x28 })
  | 0x020B => some (.benchRead (mk [(0x18, 2), (0x1C, 16)] [])
      { handle := d16 d 0x18, offset := d32 d 0x1C, addr := d64 d 0x20, length := d32 d 0x28 } [])
  | 0x020C => some (.snapTake (mk [(0x10, 12), (0x20, 8)] [])
      { tick := dTick d, handle := d16 d 0x18, count := d16 d 0x1A, addr := d64 d 0x20 })
  | 0x020D => some (.benchQuery (mk [(0x18, 1), (0x1A, 2), (0x20, 8)] []) (d8 d 0x18) (d16 d 0x1A) (d64 d 0x20))
  | _ => none

/-- The layouts of the link and fabric range (R189–R219) and of the global operations (R222). -/
def fabricDesc (op : Nat) : Option Instr :=
  match op with
  | 0x0301 => some (.linkCmd (mk [(0x10, 10)] []) { tick := dTick d, link := d8 d 0x18, action := d8 d 0x19 })
  | 0x0302 => some (.linkQuery (mk [(0x18, 1), (0x20, 8)] []) (d8 d 0x18) (d64 d 0x20))
  | 0x0303 => some (.eyeSurvey (mk [(0x18, 2)] []) (d16 d 0x18))
  | 0x0304 => some (.nodeIdSet (mk [(0x18, 1)] [(0x19, 15)]) (BitVec.ofNat 12 (desc d 0x18 2)))
  | 0x0305 => some (.pathReserve (mk [(0x10, 9), (0x1A, 1), (0x1C, 1), (0x1E, 1), (0x20, 9), (0x30, 8)]
        [(0x19, 15), (0x1B, 15), (0x1D, 15), (0x1F, 7)])
      { tick := dTick d, addCh := BitVec.ofNat 12 (desc d 0x18 2), dropCh := BitVec.ofNat 12 (desc d 0x1A 2),
        dst := BitVec.ofNat 12 (desc d 0x1C 2), hops := d8 d 0x1E, copy := bitOf (desc d 0x1F 1) 0,
        gen := BitVec.ofNat 2 (desc d 0x1F 1 / 2), route := d32 d 0x20, limitNs := d32 d 0x24, tapMask := d8 d 0x28,
        resultAddr := d64 d 0x30 })
  | 0x0306 => some (.pathRelease (mk [(0x10, 9)] [(0x19, 15), (0x1A, 1)]) (dTick d) (BitVec.ofNat 12 (desc d 0x18 2))
      (bitOf (desc d 0x1A 1) 0))
  | 0x0307 =>
      let f := Config.pathQueryFields d
      some (.pathQuery (mk [(0x10, 48)] []) (BitVec.ofNat 12 f.1) f.2.1 (BitVec.ofNat 64 f.2.2))
  | 0x0308 =>
      let f := Config.switchReadFields d
      some (.switchRead (mk [(0x10, 48)] [])
        { table := if h : f.1 < 16 then .incoming ⟨f.1, h⟩ else .add, first := f.2.1, count := f.2.2.1,
          resultAddr := BitVec.ofNat 64 f.2.2.2 })
  | 0x0309 => some (.pairSet (mk [(0x10, 9), (0x1A, 2), (0x20, 24)] [(0x19, 15)])
      { tick := dTick d, partner := BitVec.ofNat 12 (desc d 0x18 2), hops := d8 d 0x1A, groups := d8 d 0x1B, route := d64 d 0x20,
        compareFrom := d64 d 0x28, groupAddr := d64 d 0x30 })
  | 0x030A => some (.roleSet (mk [(0x10, 10)] []) (dTick d) (d8 d 0x18) (d8 d 0x19))
  | 0x0701 => some (.globalArm (mk [(0x18, 1), (0x1A, 4), (0x20, 8)] [])
      { set := d8 d 0x18, handle := d16 d 0x1A, count := d16 d 0x1C, addr := d64 d 0x20 })
  | 0x0702 => some (.globalOp (mk [(0x10, 9), (0x1C, 36)] [])
      { tick := dTick d, kind := d8 d 0x18, groups := d32 d 0x1C, arg := dBytes d 0x20 24, resultAddr := d64 d 0x38 })
  | _ => none

/-- The layouts of the clock and time range (R260, R280, R282). -/
def clockDesc (op : Nat) : Option Instr :=
  match op with
  | 0x0401 => some (.refForce (mk [(0x10, 9)] []) (dTick d) (d8 d 0x18))
  | 0x0402 => some (.refQuery (mk [(0x20, 8)] []) (d64 d 0x20))
  | 0x0403 => some (.pulseAlign (mk [(0x10, 9)] [(0x19, 3)]) (dTick d) (BitVec.ofNat 10 (desc d 0x18 2)))
  | 0x0404 => some (.timeSet (mk [(0x18, 8)] []) (d64 d 0x18))
  | 0x0405 => some (.cmpSet (mk [(0x18, 3), (0x1C, 18), (0x30, 8)] [(0x1B, 3)])
      { unit := d8 d 0x18, action := d8 d 0x19, arg := d8 d 0x1A, periodic := bitOf (desc d 0x1B 1) 0,
        report := bitOf (desc d 0x1B 1) 1, pulseNs := d32 d 0x1C, time := descTime d 0x20, period := d64 d 0x30 })
  | 0x0406 => some (.timeQuery (mk [(0x20, 8)] []) (d64 d 0x20))
  | _ => none

/-- The layouts of the port range (R327) and of the AoIP commands (R299, R300); IP and MAC addresses are stored most
significant byte first. -/
def portDesc (op : Nat) : Option Instr :=
  match op with
  | 0x0501 => some (.portStart (mk [(0x10, 8), (0x19, 1)] [(0x18, 0x17)]) (dTick d) (dPort d) (d8 d 0x19))
  | 0x0502 => some (.portStop (mk [(0x10, 8)] [(0x18, 0x17)]) (dTick d) (dPort d))
  | 0x0503 => some (.portSlots (mk [(0x10, 8), (0x1C, 16)] [(0x18, 0x17), (0x19, 0x1F)])
      { tick := dTick d, port := dPort d, immediate := bitOf (desc d 0x19 1) 0, write := BitVec.ofNat 4 (desc d 0x19 1 / 2),
        masks := [d32 d 0x1C, d32 d 0x20, d32 d 0x24, d32 d 0x28] })
  | 0x0504 => some (.portQuery (mk [(0x20, 8)] [(0x18, 0x17)]) (dPort d) (d64 d 0x20))
  | 0x0505 => some (.aesCsSet (mk [(0x10, 8), (0x20, 24)] [(0x18, 0x17), (0x19, 3)])
      { tick := dTick d, port := dPort d, subframe := BitVec.ofNat 1 (desc d 0x19 1), user := bitOf (desc d 0x19 1) 1,
        block := dBytes d 0x20 24 })
  | 0x0506 => some (.aesQuery (mk [(0x20, 8)] [(0x18, 0x17)]) (dPort d) (d64 d 0x20))
  | 0x0581 => some (.aoipRxSet (mk [(0x10, 9), (0x1B, 27)] [(0x19, 0x1F), (0x1A, 7), (0x36, 3)])
      { tick := dTick d, stream := d8 d 0x18, portA := BitVec.ofNat 2 (desc d 0x19 1), portB := BitVec.ofNat 2 (desc d 0x19 1 / 4),
        legB := bitOf (desc d 0x19 1) 4, format := BitVec.ofNat 2 (desc d 0x1A 1), enable := bitOf (desc d 0x1A 1) 2,
        channels := d8 d 0x1B, firstCh := d16 d 0x1C, ptime := d8 d 0x1E, pt := d8 d 0x1F,
        dstIp := BitVec.ofNat 32 (ofBe (dBytes d 0x20 4)), dstIpB := BitVec.ofNat 32 (ofBe (dBytes d 0x24 4)),
        udpPort := d16 d 0x28, udpPortB := d16 d 0x2A, srcIp := BitVec.ofNat 32 (ofBe (dBytes d 0x2C 4)), ssrc := d32 d 0x30,
        linkOffset := d16 d 0x34, ssrcMatch := bitOf (desc d 0x36 1) 0, vValid := bitOf (desc d 0x36 1) 1 })
  | 0x0582 => some (.aoipTxSet (mk [(0x10, 9), (0x1B, 15), (0x2B, 17)] [(0x19, 0x1F), (0x1A, 7), (0x2A, 0x3F)])
      { tick := dTick d, stream := d8 d 0x18, portA := BitVec.ofNat 2 (desc d 0x19 1), portB := BitVec.ofNat 2 (desc d 0x19 1 / 4),
        dup := bitOf (desc d 0x19 1) 4, format := BitVec.ofNat 2 (desc d 0x1A 1), enable := bitOf (desc d 0x1A 1) 2,
        channels := d8 d 0x1B, firstCh := d16 d 0x1C, ptime := d8 d 0x1E, pt := d8 d 0x1F,
        dstIp := BitVec.ofNat 32 (ofBe (dBytes d 0x20 4)), dstIpB := BitVec.ofNat 32 (ofBe (dBytes d 0x24 4)),
        udpPort := d16 d 0x28, dscp := BitVec.ofNat 6 (desc d 0x2A 1), ttl := d8 d 0x2B, ssrc := d32 d 0x2C,
        dstMac := BitVec.ofNat 48 (ofBe (dBytes d 0x30 6)), vlan := d16 d 0x36, tsAdj := d32 d 0x38 })
  | 0x0583 => some (.aoipQuery (mk [(0x18, 3), (0x20, 8)] []) (d8 d 0x18) (d8 d 0x19) (d8 d 0x1A) (d64 d 0x20))
  | 0x0584 => some (.aoipCsSet (mk [(0x10, 10), (0x20, 24)] []) (dTick d) (d8 d 0x18) (d8 d 0x19) (dBytes d 0x20 24))
  | _ => none

/-- The layouts of the power-stage range (R361). -/
def powerDesc (op : Nat) : Option Instr :=
  match op with
  | 0x0601 => some (.psStart (mk [(0x10, 9)] []) (dTick d) (d8 d 0x18))
  | 0x0602 => some (.psStop (mk [(0x10, 9), (0x1A, 2)] []) (dTick d) (d8 d 0x18) (d16 d 0x1A))
  | 0x0603 => some (.psBudget (mk [(0x10, 9), (0x1A, 6)] [])
      { tick := dTick d, ch := d8 d 0x18, watts := d16 d 0x1A, attack := d16 d 0x1C, release := d16 d 0x1E })
  | 0x0604 => some (.psFreqSet (mk [(0x10, 11)] []) { tick := dTick d, pref := d8 d 0x18, min := d8 d 0x19, max := d8 d 0x1A })
  | 0x0605 => some (.psModel (mk [(0x18, 3), (0x1C, 2)] [(0x1E, 7)])
      { ch := d8 d 0x18, tile := d8 d 0x19, lookahead := d8 d 0x1A, waddr := BitVec.ofNat 19 (desc d 0x1C 4) })
  | 0x0606 => some (.psQuery (mk [(0x18, 1), (0x20, 8)] []) (d8 d 0x18) (d64 d 0x20))
  | _ => none

/-- The layouts of the system range (R391, R446, R463, R473, R474, R490–R495). -/
def systemDesc (op : Nat) : Option Instr :=
  match op with
  | 0x0F01 => some (.imgCommit (mk [(0x18, 1), (0x1C, 12)] [(0x19, 1)])
      { slot := d8 d 0x18, svnLock := bitOf (desc d 0x19 1) 0, length := d32 d 0x1C, addr := d64 d 0x20 })
  | 0x0F02 => some (.imgSelect (mk [(0x18, 1)] []) (d8 d 0x18))
  | 0x0F03 => some (.cfgSet (mk [(0x18, 1)] [(0x19, 15)]) (BitVec.ofNat 12 (desc d 0x18 2)))
  | 0x0F04 => some (.sleep (mk [(0x10, 9), (0x20, 14)] []) { tick := dTick d, wakeMask := d8 d 0x18, wakeTime := descTime d 0x20 })
  | 0x0F10 => some (.tunnelClaim (mk [(0x18, 1), (0x1A, 2), (0x1C, 28)] [(0x19, 15)])
      { target := BitVec.ofNat 12 (desc d 0x18 2), hops := d8 d 0x1A, gen := d8 d 0x1B, winPages := d32 d 0x1C,
        route := d64 d 0x20, hca := d64 d 0x28, winBase := d64 d 0x30 })
  | 0x0F11 =>
      let w := bitOf (desc d 0x1B 1) 0
      some (.tunnelReg (mk [(0x18, 1), (0x1A, 1), (0x1C, 4), (0x20, if w then 32 else 8)] [(0x19, 15), (0x1B, 1)])
        { target := BitVec.ofNat 12 (desc d 0x18 2), count := d8 d 0x1A, write := w, offset := d32 d 0x1C,
          data := (List.range 8).map fun i => d32 d (0x20 + 4 * i), resultAddr := d64 d 0x20 })
  | 0x0F12 => some (.tunnelDrop (mk [(0x18, 1)] [(0x19, 15)]) (BitVec.ofNat 12 (desc d 0x18 2)))
  | 0x0F13 => some (.dmaCtrl (mk [(0x10, 13)] []) { tick := dTick d, chMask := d32 d 0x18, action := d8 d 0x1C })
  | 0x0F20 => some (.mbXfer (mk [(0x18, 4), (0x20, 32)] [])
      { bus := d8 d 0x18, addr := d8 d 0x19, wlen := d8 d 0x1A, rlen := d8 d 0x1B, wdata := dBytes d 0x20 24,
        resultAddr := d64 d 0x38 } .hang)
  | 0x0F21 => some (.mbReset (mk [(0x18, 1)] []) (d8 d 0x18))
  | 0x0F30 => some (.sumpQuery (mk [(0x18, 1), (0x1A, 2), (0x20, 8)] [])
      { source := d8 d 0x18, first := d8 d 0x1A, countM1 := d8 d 0x1B, resultAddr := d64 d 0x20 })
  | 0x0F31 => some (.sumpClear (mk [(0x18, 3)] []) { source := d8 d 0x18, inst := d8 d 0x19, action := d8 d 0x1A })
  | 0x0F32 => some (.ageQuery (mk [(0x20, 8)] []) (d64 d 0x20))
  | 0x0F33 => some (.ageDecide (mk [(0x10, 12)] []) { tick := dTick d, id := d16 d 0x18, action := d8 d 0x1A, kind := d8 d 0x1B })
  | _ => none

end Layouts

/-- The command a descriptor spells; none for an opcode that no chapter assigns (R9). -/
def descriptor (ring : Fin 8) (index : Nat) (d : List Byte) : Option Instr :=
  let mk := fun spans parts => descHeader ring index d (reservedBits d spans parts)
  let op := desc d 0 2
  match op / 256 with
  | 0 => routerDesc d mk op
  | 1 => tileDesc d mk op
  | 2 => benchDesc d mk op
  | 3 => fabricDesc d mk op
  | 4 => clockDesc d mk op
  | 5 => portDesc d mk op
  | 6 => powerDesc d mk op
  | 7 => fabricDesc d mk op
  | 15 => systemDesc d mk op
  | _ => none

end Sys2Proof.Machine
end

