-- ==== Sys2Proof/Machine/Tunnel.lean ====
section
/-!
DEFINITION. The control tunnel (chapter "Host Control: Rings, Doorbells and DMA", R384–R391): the target side, whose rings a
remote host owns, and the server side, which bridges to this node's PCIe host.
-/
namespace Sys2Proof.Machine

def tunMod (f : Tunnel → Tunnel) (s : State) : State := { s with tun := f s.tun }

/-! ### The target: claims and takeover (R385, R386) -/

/-- An enabled allowlist entry names an EUI-64, or none is enabled (R385). -/
def claimAllowed (s : State) (eui : Nat) : Bool :=
  let en := setBits 8 (regFld s Reg.tunAllowEn 7 0)
  en.isEmpty || en.any fun k =>
    decide ((regGet s (Reg.tunAllowLo k)).toNat + (regGet s (Reg.tunAllowHi k)).toNat * 2 ^ 32 = eui)

/-- The owner a claim is judged against: an accepted one that has not bound yet, else the bound one. -/
def ownerOf (s : State) : Option Owner := s.hif.claim.orElse fun _ => s.hif.owner

/-- Answer a claim along the return route it has recorded. -/
def answerClaim (o : Owner) (result : Nat) (s : State) : State :=
  sendRouted 0x56 o.id o.hops (reverseRoute o.hops o.retLinks) [o.gen, BitVec.ofNat 8 result] s

/-- A claim is accepted (R386): fetching stops, nothing more goes to the previous owner, which is told of a new one. -/
def acceptClaim (o : Owner) (s : State) : State :=
  let s1 := match s.hif.owner with
    | some p =>
      if p.eui ≠ o.eui then
        sendRouted 0x58 p.id p.hops (reverseRoute p.hops p.retLinks) ([o.gen, 0] ++ leBytes 2 o.id.toNat) s
      else s
    | none => s
  answerClaim o St.ok (hifMod (fun h => { h with polling := false, startPoll := false, dirWait := true, claim := some o }) s1)

/-- A claim that has reached its target (R385). -/
def handleClaim (o : Owner) (s : State) : State :=
  if hifMode s ≠ 2 ∨ !claimAllowed s o.eui.toNat then answerClaim o St.protected_ s
  else match ownerOf s with
    | none => acceptClaim o s
    | some p =>
      if newer8 p.gen o.gen ∨ (p.gen = o.gen ∧ p.eui ≠ o.eui) then s else acceptClaim o s

/-- TUN_CLAIM (R385): every node it passes records its link; the target refuses, ignores or accepts it. -/
def execTunClaim (link : Fin 16) (cell : Cell) (s : State) : Host.Outcome State Fault Refusal :=
  if !pathCellHere s link cell then fin (pathCellDrop link cell s)
  else
    let ret := setRet (bodyN cell 0x28 8) (cell.hop.toNat - 1) link
    if cell.hop.toNat < cell.hops.toNat then
      fin (forwardCell { cell with body := cell.body.take 20 ++ leBytes 8 ret ++ cell.body.drop 28 } s)
    else
      fin (handleClaim { id := cell.src, gen := BitVec.ofNat 8 (bodyN cell 0x14 1), eui := BitVec.ofNat 64 (bodyN cell 0x18 8),
                         hca := BitVec.ofNat 64 (bodyN cell 0x20 8), retLinks := BitVec.ofNat 64 ret, hops := cell.hops.toNat,
                         link := link } s)

/-- The first tick boundary after acceptance (R386): the target binds to the new owner, XID is 0 and the directory is read from
the new HCA. What the owner's host memory holds is not known until it has been read. -/
def bindOwner (s : State) : State :=
  match s.hif.claim with
  | none => s
  | some o =>
    let s1 := hifMod (fun h => { h with owner := some o, claim := none, takeover := h.takeover + 1 }) s
    let s2 := tunMod (fun t => { t with xid := 0, unacked := [], unissued := [], lastAck := now s, come := [] }) (failResults s1)
    useRead .dir (o.hca.toNat + 0x100) 0x300 (hifMod (fun h => { h with again := false }) { s2 with tunMem := [] })

/-! ### The target: answers (R387–R389) -/

/-- An access over the tunnel has failed (R389): the ring fetcher stops by R404, the DMA engine halts by R403. -/
def tunFail (u : TunUse) (addr : Nat) (s : State) : State :=
  match u with
  | .dma ch => dmaHalt ch 5 true addr false false s
  | .dcq ch => dmaHalt ch 5 true addr false true s
  | .result _ => dmaHalt 32 5 true addr false false s
  | .snap _ => dmaHalt 32 5 true addr false false s
  | .fetch | .dir => stopRings 5 addr false s

/-- The address of a request. -/
def TunReqKind.addr : TunReqKind → Nat
  | .write a _ => a.toNat
  | .read a _ => a.toNat
  | .irq _ => 0

/-- A cell comes from the bound owner with its generation (R386). -/
def fromOwner (s : State) (c : Cell) (gen : Nat) : Bool :=
  s.hif.owner.elim false fun o => decide (o.id = c.src) && decide (o.gen.toNat = gen)

/-- TUN_DATA delivered (R387): the next bytes of a read that is not completed; the directory is read once it is whole, and
`fetched` goes on with any other read that is. -/
def takeData (fetched : TunUse → Nat → Nat → State → State) (c : Cell) (s : State) : State :=
  if !fromOwner s c (bodyN c 0x19 1) then s
  else
    match s.tun.unacked.find? fun r => decide (r.xid.toNat = bodyN c 0x14 2) with
    | none => s
    | some r =>
      match r.kind with
      | .read a len =>
        if len ≤ r.got ∨ bodyN c 0x16 2 ≠ r.got then s
        else if bodyN c 0x1A 1 ≠ 0 then
          tunFail r.use a.toNat (tunMod (fun t => { t with unacked := t.unacked.map fun q => if q.xid = r.xid then { q with got := len } else q }) s)
        else
          let bs := (c.body.drop 8).take (min (bodyN c 0x18 1) (len - r.got))
          let got := r.got + bs.length
          let s1 := { s with tunMem := memWrite s.tunMem (a.toNat + r.got) bs }
          let s2 := tunMod (fun t => { t with unacked := t.unacked.map fun q => if q.xid = r.xid then { q with got := got } else q }) s1
          if got < len then s2
          else
            match r.use with
            | .dir => readDirectory s2
            | .result k => resultCome k s2
            | u => fetched u a.toNat len s2
      | _ => s

/-- Resend every unacknowledged request in order (R387). -/
def resendAll (s : State) : State :=
  if s.tun.unacked.isEmpty then s
  else
    let s1 := s.tun.unacked.foldl (fun s r => tunSend r s) s
    sticky Reg.hifErrStat 3 (tunMod (fun t => { t with unacked := t.unacked.map fun r => { r with sent := now s } }) s1)

/-- Issue the requests that were held back, as far as 512 allow (R387). -/
def issueHeld (s : State) : State :=
  s.tun.unissued.foldl (fun s x => tunIssue x.2 x.1 s) (tunMod (fun t => { t with unissued := [] }) s)

/-- TUN_ACK delivered (R387): requests before XID_NEXT are freed; one that frees nothing while requests are out shows a gap. -/
def takeAck (c : Cell) (s : State) : State :=
  if !fromOwner s c (bodyN c 0x16 1) then s
  else
    let next := BitVec.ofNat 16 (bodyN c 0x14 2)
    let bad := if bodyN c 0x17 1 = St.busError then s.tun.unacked.find? fun r => decide (r.xid.toNat = bodyN c 0x18 2) else none
    let k := match s.tun.unacked with
      | [] => 0
      | r :: _ => (next - r.xid).toNat
    let s1 := tunMod (fun t => { t with lastAck := now s }) s
    let s2 := if k = 0 then resendAll s1
      else if k ≤ s.tun.unacked.length then issueHeld (tunMod (fun t => { t with unacked := t.unacked.drop k }) s1) else s1
    match bad with
    | some r => tunFail r.use r.kind.addr s2
    | none => s2

/-- RESEND_TICKS, where 0 acts as 1, and LOST_MS in ticks (R405). -/
def resendTicks (s : State) : Nat := max 1 (regFld s Reg.hifTunCfg 23 16)
def lostTicks (s : State) : Nat := ticksOfUs s (1000 * max 1 (regFld s Reg.hifTunCfg 15 0))

/-- TUN_RESEND (R387): the oldest request has waited RESEND_TICKS; before that nothing is resent. -/
def execTunResend (s : State) : Host.Outcome State Fault Refusal :=
  if s.hif.owner.isSome ∧ s.tun.unacked.head?.any (fun r => decide (r.sent + resendTicks s ≤ now s)) then fin (resendAll s)
  else .next s

/-- TUNNEL_LOST (R388): nothing has been acknowledged for LOST_MS while requests are outstanding. Fetching stops by R404 and DMA
halts by R403, with cause 6 at the address of the oldest request (DEDUCED, log 102). -/
def execTunnelLost (s : State) : Host.Outcome State Fault Refusal :=
  if s.hif.owner.isNone ∨ s.tun.unacked.isEmpty ∨ s.hif.tunnelLost ∨ now s < s.tun.lastAck + lostTicks s then .next s
  else
    let a := s.tun.unacked.head?.elim 0 fun r => r.kind.addr
    let s1 := raise Src.tunnelLost 0 0 (hifMod (fun h => { h with tunnelLost := true }) s)
    fin (dmaHalt 32 6 true a false false (stopRings 6 a false s1))

/-- The register access of a TUN_REG (R391): as a BAR0 access by the owner; the data of a read. -/
def tunRegAccess (write : Bool) (off : Nat) (data : List Word) : Nat → State → List Word × State
  | 0, s => ([], s)
  | n + 1, s =>
    if write then
      let r := tunRegAccess write (off + 4) (data.drop 1) n (busWrite .tunnelReg off (data.headD 0) s)
      (data.headD 0 :: r.1, r.2)
    else
      let v := busRead .tunnelReg s off
      let r := tunRegAccess write (off + 4) [] n (afterRead .tunnelReg off s)
      (v :: r.1, r.2)

/-- A COUNT and OFFSET of a register access are in range. -/
def regSpanOk (count off : Nat) : Bool := decide (1 ≤ count ∧ count ≤ 8 ∧ off % 4 = 0 ∧ off + 4 * count ≤ 0x40000)

/-- TUN_REG delivered (R391): the owner's access is performed and answered. -/
def serveReg (c : Cell) (s : State) : State :=
  match s.hif.owner with
  | none => s
  | some o =>
    if !fromOwner s c (bodyN c 0x14 1) then s
    else
      let count := bodyN c 0x16 1
      let off := bodyN c 0x18 4
      let data := (List.range 8).map fun i => BitVec.ofNat 32 (bodyN c (0x1C + 4 * i) 4)
      let ok := regSpanOk count off
      let r := if ok then tunRegAccess (bitOf (bodyN c 0x15 1) 0) off data count s else ([], s)
      sendRouted 0x5A o.id o.hops (reverseRoute o.hops o.retLinks)
        ([o.gen, BitVec.ofNat 8 (if ok then St.ok else St.badArg)] ++ leBytes 1 count ++ leBytes 1 (bodyN c 0x17 1) ++ leBytes 4 off ++
          r.1.flatMap fun w => leBytes 4 w.toNat) r.2

/-- TUN_REG. -/
def execTunReg (link : Fin 16) (cell : Cell) (s : State) : Host.Outcome State Fault Refusal :=
  fin (receiveCell link cell (serveReg cell) s)

/-! ### The server (R387, R390, R391) -/

/-- The bridge entry of a target. -/
def bridgeOf (s : State) (target : BitVec 12) : Option Bridge := mapGet s.tun.bridges target.toNat

def setBridge (target : BitVec 12) (b : Bridge) (s : State) : State :=
  tunMod (fun t => { t with bridges := mapPut t.bridges target.toNat b }) s

def dropBridge (target : BitVec 12) (s : State) : State := tunMod (fun t => { t with bridges := mapErase t.bridges target.toNat }) s

/-- Send an acknowledgement (R387): XID_NEXT, and the first write outside the window since the last one. -/
def sendAck (target : BitVec 12) (b : Bridge) (s : State) : State :=
  sendRouted 0x54 target b.hops b.route (leBytes 2 b.xidNext.toNat ++ [b.gen] ++
    leBytes 1 (if b.err.isSome then St.busError else 0) ++ leBytes 2 (b.err.elim 0 fun x => x.toNat))
    (setBridge target { b with executed := false, err := none } s)

/-- The acknowledgements of a tick (R387). -/
def runAcks (s : State) : State :=
  s.tun.bridges.foldl (fun s e => if e.2.executed then sendAck (BitVec.ofNat 12 e.1) e.2 s else s) s

/-- An address range lies in a bridge entry's window (R391). -/
def inWindowOf (b : Bridge) (a n : Nat) : Bool :=
  decide (b.winBase.toNat ≤ a ∧ a + n ≤ b.winBase.toNat + b.winPages * 4096)

/-- A request of a target with an XID and GEN (R387): executed in XID order, anything else discarded and answered at once; the
cells of a target without a bridge entry are discarded. -/
def serveReq (c : Cell) (xid gen : Nat) (run : Bridge → State → Bridge × State) (s : State) : State :=
  match bridgeOf s c.src with
  | none => s
  | some b =>
    if xid = b.xidNext.toNat ∧ gen = b.gen.toNat then
      let r := run b s
      setBridge c.src { r.1 with xidNext := b.xidNext + 1, executed := true } r.2
    else sendAck c.src b s

/-- A write in host memory, inside the window. -/
def serveWrite (c : Cell) (b : Bridge) (s : State) : Bridge × State :=
  let bs := (c.body.drop 12).take (min 28 (bodyN c 0x1C 1))
  if inWindowOf b (bodyN c 0x14 8) bs.length then (b, { s with localMem := memWrite s.localMem (bodyN c 0x14 8) bs })
  else ({ b with err := b.err.orElse fun _ => some (BitVec.ofNat 16 (bodyN c 0x1E 2)) }, s)

/-- TUN_WRITE. -/
def execTunWrite (link : Fin 16) (cell : Cell) (s : State) : Host.Outcome State Fault Refusal :=
  fin (receiveCell link cell (serveReq cell (bodyN cell 0x1E 2) (bodyN cell 0x1D 1) (serveWrite cell)) s)

/-- The TUN_DATA cells of a read, 32 bytes each. -/
def dataCells (xid : Nat) (gen : Byte) (bs : List Byte) : List (List Byte) :=
  (List.range (ceilDiv bs.length 32)).map fun i =>
    let part := (bs.drop (32 * i)).take 32
    leBytes 2 xid ++ leBytes 2 (32 * i) ++ leBytes 1 part.length ++ [gen, 0, 0] ++ part

/-- A read of host memory, answered with TUN_DATA; outside the window with STATUS BUS_ERROR. -/
def serveRead (c : Cell) (b : Bridge) (s : State) : Bridge × State :=
  let a := bodyN c 0x14 8
  let n := min 4096 (bodyN c 0x1C 2)
  let xid := bodyN c 0x1E 2
  if inWindowOf b a n then
    (b, (dataCells xid b.gen (memRead s.localMem a n)).foldl (fun s x => sendRouted 0x52 c.src b.hops b.route x s) s)
  else (b, sendRouted 0x52 c.src b.hops b.route (leBytes 2 xid ++ [0, 0, 0, b.gen, BitVec.ofNat 8 St.busError]) s)

/-- TUN_READ. -/
def execTunRead (link : Fin 16) (cell : Cell) (s : State) : Host.Outcome State Fault Refusal :=
  fin (receiveCell link cell (serveReq cell (bodyN cell 0x1E 2) (bodyN cell 0x20 1) (serveRead cell)) s)

/-- TUN_IRQ (R383): the server raises its own MSI-X vector of that number. -/
def execTunIrq (link : Fin 16) (cell : Cell) (s : State) : Host.Outcome State Fault Refusal :=
  fin (receiveCell link cell (serveReq cell (bodyN cell 0x16 2) (bodyN cell 0x15 1) fun b s => (b, msixRaise (bodyN cell 0x14 1 % 64) s)) s)

/-- TUNNEL_CLAIM is malformed (R391). -/
def claimBad (a : TunnelClaimArgs) : Bool :=
  decide (a.hops = 0 ∨ 16 < a.hops.toNat) || decide (a.winPages = 0) || decide (a.hca.toNat % 4096 ≠ 0) ||
    decide (a.winBase.toNat % 4096 ≠ 0) ||
    decide (a.hca.toNat < a.winBase.toNat ∨ a.winBase.toNat + a.winPages.toNat * 4096 ≤ a.hca.toNat)

/-- A TUNNEL_CLAIM whose entry is replaced or dropped before its answer is withdrawn. -/
def withdrawClaim (target : BitVec 12) (s : State) : State :=
  match (bridgeOf s target).bind fun b => b.claim with
  | some t => complete t St.aborted 0 s
  | none => s

/-- TUNNEL_CLAIM (R391): the bridge entry is installed or replaced and TUN_CLAIM is sent. -/
def execTunnelClaim (h : CmdHdr) (a : TunnelClaimArgs) (s : State) : Host.Outcome State Fault Refusal :=
  fin (untimedCmd h (claimBad a) (fun t s =>
    if (bridgeOf s a.target).isNone ∧ 1024 ≤ s.tun.bridges.length then complete t 0x61 0 s
    else
      let b : Bridge := { hops := a.hops.toNat, gen := a.gen, winPages := a.winPages.toNat, route := a.route, hca := a.hca,
                          winBase := a.winBase, xidNext := 0, executed := false, err := none, claim := some t, claimAt := now s }
      sendRouted 0x55 a.target a.hops.toNat a.route ([a.gen, 0, 0, 0] ++ leBytes 8 (ownEui s).toNat ++ leBytes 8 a.hca.toNat)
        (setBridge a.target b (withdrawClaim a.target s))) s)

/-- TUN_CLAIM_ACK delivered: the TUNNEL_CLAIM completes with RESULT (R391). -/
def claimAcked (c : Cell) (s : State) : State :=
  match bridgeOf s c.src with
  | none => s
  | some b =>
    match b.claim with
    | some t => if bodyN c 0x14 1 = b.gen.toNat then complete t (bodyN c 0x15 1) 0 (setBridge c.src { b with claim := none } s) else s
    | none => s

/-- TUN_CLAIM_ACK. -/
def execTunClaimAck (link : Fin 16) (cell : Cell) (s : State) : Host.Outcome State Fault Refusal :=
  fin (receiveCell link cell (claimAcked cell) s)

/-- TUNNEL_CLAIM_TIMEOUT (R391): no answer within 16 ticks; the entry is removed. -/
def execTunnelClaimTimeout (target : BitVec 12) (s : State) : Host.Outcome State Fault Refusal :=
  match bridgeOf s target with
  | some b =>
    match b.claim with
    | some t => if b.claimAt + 16 ≤ now s then fin (complete t St.timeout 0 (dropBridge target s)) else .next s
    | none => .next s
  | none => .next s

/-- TUN_YIELD (R386): the bridge entry goes and this node's host learns of the new owner. -/
def execTunYield (link : Fin 16) (cell : Cell) (s : State) : Host.Outcome State Fault Refusal :=
  fin (receiveCell link cell (fun s =>
    if (bridgeOf s cell.src).isNone then s
    else report 0x0F12 0 (leBytes 2 (bodyN cell 0x16 2 % 4096) ++ leBytes 1 (bodyN cell 0x14 1))
      (dropBridge cell.src (withdrawClaim cell.src s))) s)

/-- TUNNEL_DROP (R391). -/
def execTunnelDrop (h : CmdHdr) (target : BitVec 12) (s : State) : Host.Outcome State Fault Refusal :=
  fin (untimedCmd h false (fun t s =>
    if (bridgeOf s target).isNone then complete t 0x62 0 s
    else complete t St.ok 0 (dropBridge target (withdrawClaim target s))) s)

/-- TUNNEL_REG (R391): a register access is sent to the target. -/
def execTunnelReg (h : CmdHdr) (a : TunnelRegArgs) (s : State) : Host.Outcome State Fault Refusal :=
  fin (untimedCmd h (!regSpanOk a.count.toNat a.offset.toNat) (fun t s =>
    match bridgeOf s a.target with
    | none => complete t 0x62 0 s
    | some b =>
      if !a.write && dmaHalted s then complete t St.busError 0 s
      else
        let w : TunRegWait := { ticket := t, target := a.target, rseq := s.tun.rseq, write := a.write, count := a.count.toNat,
                                resultAddr := a.resultAddr, sent := now s }
        let data := if a.write then (a.data.take a.count.toNat).flatMap fun x => leBytes 4 x.toNat else []
        sendRouted 0x59 a.target b.hops b.route
          ([b.gen, BitVec.ofNat 8 (b2n a.write), a.count, s.tun.rseq] ++ leBytes 4 a.offset.toNat ++ data)
          (tunMod (fun x => { x with rseq := x.rseq + 1, regWaits := x.regWaits ++ [w] }) s)) s)

/-- A waiting register access. -/
def regWaitOf (s : State) (target : BitVec 12) (rseq : Nat) : Option TunRegWait :=
  s.tun.regWaits.find? fun w => decide (w.target = target) && decide (w.rseq.toNat = rseq)

def dropRegWait (w : TunRegWait) (s : State) : State := tunMod (fun t => { t with regWaits := t.regWaits.erase w }) s

/-- TUN_REG_RESP delivered: the TUNNEL_REG completes with STATUS; a read's data goes to RESULT_ADDR first (R391). -/
def regAnswered (c : Cell) (s : State) : State :=
  match bridgeOf s c.src with
  | none => s
  | some b =>
    match regWaitOf s c.src (bodyN c 0x17 1) with
    | none => s
    | some w =>
      if bodyN c 0x14 1 ≠ b.gen.toNat then s
      else
        let st := bodyN c 0x15 1
        let s1 := dropRegWait w s
        if w.write ∨ st ≠ 0 then complete w.ticket st 0 s1
        else resultThen w.ticket w.resultAddr.toNat ((c.body.drop 8).take (4 * w.count)) St.ok s1

/-- TUN_REG_RESP. -/
def execTunRegResp (link : Fin 16) (cell : Cell) (s : State) : Host.Outcome State Fault Refusal :=
  fin (receiveCell link cell (regAnswered cell) s)

/-- TUNNEL_REG_TIMEOUT (R391): no response within 16 ticks. -/
def execTunnelRegTimeout (target : BitVec 12) (rseq : Byte) (s : State) : Host.Outcome State Fault Refusal :=
  match regWaitOf s target rseq.toNat with
  | some w => if w.sent + 16 ≤ now s then fin (complete w.ticket St.timeout 0 (dropRegWait w s)) else .next s
  | none => .next s

/-- REMOTE_WAKE_WRITE (R389): a TUN_WAKE to the target that [11:0] names, if it has a bridge entry. -/
def execRemoteWakeWrite (value : Word) (s : State) : Host.Outcome State Fault Refusal :=
  let target := BitVec.ofNat 12 value.toNat
  match bridgeOf s target with
  | some b => if s.power.state = .running then fin (sendRouted 0x57 target b.hops b.route [b.gen] s) else .next s
  | none => .next s

end Sys2Proof.Machine
end

