-- ==== Sys2Proof/Machine/Poll.lean ====
section
/-!
DEFINITION. Poll rounds (R371, R372, R381): the doorbell block, the descriptors taken from the rings in cyclic order, and what
starts a round.
-/
namespace Sys2Proof.Machine

/-- The state a meaning answers. -/
def afterOf (o : Host.Outcome State Fault Refusal) (s : State) : State :=
  match o with
  | .next t => t
  | _ => s

/-- Run a command taken from a ring: the meaning of its row. An MB_XFER waits for its bus, and a BENCH_READ meets no DRAM error
(DEDUCED, log 17). -/
def runHost (i : Instr) (s : State) : State :=
  match i with
  | .routeSet h a => afterOf (execRouteSet h a s) s
  | .gainSet h a => afterOf (execGainSet h a s) s
  | .routeClear h a => afterOf (execRouteClear h a s) s
  | .routeBatch h a => afterOf (execRouteBatch h a s) s
  | .routeQuery h dest resultAddr => afterOf (execRouteQuery h dest resultAddr s) s
  | .directSet h a => afterOf (execDirectSet h a s) s
  | .testgenSet h a => afterOf (execTestgenSet h a s) s
  | .tileLoad h a => afterOf (execTileLoad h a s) s
  | .tileClear h tile => afterOf (execTileClear h tile s) s
  | .tileSwap h tick mask => afterOf (execTileSwap h tick mask s) s
  | .paramWrite h a => afterOf (execParamWrite h a s) s
  | .rampSet h a => afterOf (execRampSet h a s) s
  | .dmemRead h a => afterOf (execDmemRead h a s) s
  | .rampQuery h tile resultAddr => afterOf (execRampQuery h tile resultAddr s) s
  | .benchCreate h bench quota => afterOf (execBenchCreate h bench quota s) s
  | .benchQuota h bench quota => afterOf (execBenchQuota h bench quota s) s
  | .benchDelete h bench => afterOf (execBenchDelete h bench s) s
  | .objAlloc h a => afterOf (execObjAlloc h a s) s
  | .objFree h tick handle => afterOf (execObjFree h tick handle s) s
  | .delaySet h a => afterOf (execDelaySet h a s) s
  | .playStart h a => afterOf (execPlayStart h a s) s
  | .playStop h tick handle rampMs => afterOf (execPlayStop h tick handle rampMs s) s
  | .captureCtrl h a => afterOf (execCaptureCtrl h a s) s
  | .benchWrite h a => afterOf (execBenchWrite h a s) s
  | .benchRead h a errors => afterOf (execBenchRead h a errors s) s
  | .snapTake h a => afterOf (execSnapTake h a s) s
  | .benchQuery h bench handle resultAddr => afterOf (execBenchQuery h bench handle resultAddr s) s
  | .linkCmd h a => afterOf (execLinkCmd h a s) s
  | .linkQuery h link resultAddr => afterOf (execLinkQuery h link resultAddr s) s
  | .eyeSurvey h linkMask => afterOf (execEyeSurvey h linkMask s) s
  | .nodeIdSet h id => afterOf (execNodeIdSet h id s) s
  | .pathReserve h a => afterOf (execPathReserve h a s) s
  | .pathRelease h tick addCh copy => afterOf (execPathRelease h tick addCh copy s) s
  | .pathQuery h addCh copy resultAddr => afterOf (execPathQuery h addCh copy resultAddr s) s
  | .switchRead h a => afterOf (execSwitchRead h a s) s
  | .pairSet h a => afterOf (execPairSet h a s) s
  | .roleSet h tick port role => afterOf (execRoleSet h tick port role s) s
  | .globalArm h a => afterOf (execGlobalArm h a s) s
  | .globalOp h a => afterOf (execGlobalOp h a s) s
  | .refForce h tick cand => afterOf (execRefForce h tick cand s) s
  | .refQuery h resultAddr => afterOf (execRefQuery h resultAddr s) s
  | .pulseAlign h tick mask => afterOf (execPulseAlign h tick mask s) s
  | .timeSet h seconds => afterOf (execTimeSet h seconds s) s
  | .cmpSet h a => afterOf (execCmpSet h a s) s
  | .timeQuery h resultAddr => afterOf (execTimeQuery h resultAddr s) s
  | .aoipRxSet h a => afterOf (execAoipRxSet h a s) s
  | .aoipTxSet h a => afterOf (execAoipTxSet h a s) s
  | .aoipQuery h dir stream csPair resultAddr => afterOf (execAoipQuery h dir stream csPair resultAddr s) s
  | .aoipCsSet h tick stream pair block => afterOf (execAoipCsSet h tick stream pair block s) s
  | .portStart h tick port trigger => afterOf (execPortStart h tick port trigger s) s
  | .portStop h tick port => afterOf (execPortStop h tick port s) s
  | .portSlots h a => afterOf (execPortSlots h a s) s
  | .portQuery h port resultAddr => afterOf (execPortQuery h port resultAddr s) s
  | .aesCsSet h a => afterOf (execAesCsSet h a s) s
  | .aesQuery h port resultAddr => afterOf (execAesQuery h port resultAddr s) s
  | .psStart h tick mask => afterOf (execPsStart h tick mask s) s
  | .psStop h tick mask rampMs => afterOf (execPsStop h tick mask rampMs s) s
  | .psBudget h a => afterOf (execPsBudget h a s) s
  | .psFreqSet h a => afterOf (execPsFreqSet h a s) s
  | .psModel h a => afterOf (execPsModel h a s) s
  | .psQuery h ch resultAddr => afterOf (execPsQuery h ch resultAddr s) s
  | .tunnelClaim h a => afterOf (execTunnelClaim h a s) s
  | .tunnelReg h a => afterOf (execTunnelReg h a s) s
  | .tunnelDrop h target => afterOf (execTunnelDrop h target s) s
  | .dmaCtrl h a => afterOf (execDmaCtrl h a s) s
  | .mbXfer h a _ => settle (mbXferWith h a none s)
  | .mbReset h bus => afterOf (execMbReset h bus s) s
  | .sumpQuery h a => afterOf (execSumpQuery h a s) s
  | .sumpClear h a => afterOf (execSumpClear h a s) s
  | .ageQuery h resultAddr => afterOf (execAgeQuery h resultAddr s) s
  | .ageDecide h a => afterOf (execAgeDecide h a s) s
  | .imgCommit h a => afterOf (execImgCommit h a s) s
  | .imgSelect h slot => afterOf (execImgSelect h slot s) s
  | .cfgSet h prefId => afterOf (execCfgSet h prefId s) s
  | .sleep h a => afterOf (execSleep h a s) s
  | _ => s

/-- The doorbell block as it has been read (R367): tails of the command and DMA rings and heads of the queues, each modulo its
size. -/
def readDoorbell (s1 : State) : State :=
  let d := hostRead s1 (hcaOf s1) 0xC0
  let idx (off log2 : Nat) : Nat := ofLe ((d.drop off).take 4) % 4096 % 2 ^ log2
  let s2 := hifMod (fun h => { h with
    rings := vmapIdx (fun (r : Fin 8) (x : CmdRing) => { x with tail := idx (4 * r.val) x.log2 }) h.rings,
    cqs := vmapIdx (fun (q : Fin 4) (x : RecQueue) => { x with head := idx (0x20 + 4 * q.val) x.log2 }) h.cqs,
    eq := { h.eq with head := idx 0x30 h.eq.log2 }, dcq := { h.dcq with head := idx 0x34 h.dcq.log2 } }) s1
  writeWaiting (reserveOld { s2 with
    dma := vmapIdx (fun (c : Fin 32) (x : DmaCh) => { x with tail := idx (0x40 + 4 * c.val) x.log2 }) s2.dma })

/-- The reads of a range over the tunnel, of at most 4,096 bytes each (R396). -/
def pieces (addr n : Nat) : List (Nat × Nat) := (List.range (ceilDiv n 4096)).map fun i => (addr + 4096 * i, min 4096 (n - 4096 * i))

/-- What a command reads in host memory before it is accepted (R51, R128, R153, R154, R214, R222); nothing while the DMA engine
is halted (R403). -/
def dataOf (s : State) (i : Instr) : List (Nat × Nat) :=
  if dmaHalted s then []
  else match i with
    | .routeBatch _ a => if aligned8 a.addr ∧ a.count.toNat ≤ 4096 then pieces a.addr.toNat (a.count.toNat * if s.power.compat then 8 else 16) else []
    | .paramWrite _ a => if paramBad a ∨ a.inline_ then [] else pieces (ofLe (a.data.take 8)) (4 * a.count.toNat)
    | .benchWrite _ a => if dataBad a then [] else pieces a.addr.toNat a.length.toNat
    | .snapTake _ a => if aligned8 a.addr ∧ a.count.toNat ≤ 256 then pieces a.addr.toNat (16 * a.count.toNat) else []
    | .globalArm _ a => if aligned8 a.addr ∧ a.count.toNat ≤ 256 then pieces a.addr.toNat (16 * a.count.toNat) else []
    | .pairSet _ a => if a.partner = 0 ∨ 16 < a.groups.toNat then [] else pieces a.groupAddr.toNat (4 * a.groups.toNat)
    | _ => []

/-- The address of the descriptor at the head of a ring. -/
def headAddr (x : CmdRing) : Nat := x.base.toNat + 64 * x.head

/-- What the descriptor at the head of a ring reads and the tunnel must bring (R389); a PCIe owner's memory is read at once. -/
def headData (s : State) (r : Fin 8) : List (Nat × Nat) :=
  let x := s.hif.rings[r]
  let d := hostRead s (headAddr x) 64
  if hifMode s ≠ 2 ∨ x.log2 = 0 ∨ x.head = x.tail ∨ !bitOf (desc d 2 1) 0 then []
  else (descriptor r x.head d).elim [] (dataOf s)

/-- Take the next descriptor of a ring, if it can be taken (R371, R372): OWN is given back, the head advances, and the command
runs. None where the ring is unused or empty, its descriptor not yet written, its data not yet come, or not to be taken now. -/
def takeNext (r : Fin 8) (s0 : State) : Option State :=
  let x := s0.hif.rings[r]
  let need := headData s0 r
  if x.log2 = 0 ∨ x.head = x.tail ∨ !need.all (fun p => s0.tun.come.contains p) then none
  else
    let s := tunMod (fun t => { t with come := t.come.filter fun p => !need.contains p }) s0
    let addr := headAddr x
    let d := hostRead s addr 64
    let run (s : State) : State :=
      match descriptor r x.head d with
      | some i => runHost i s
      | none => untimedCmd (descHeader r x.head d true) true (fun _ s => s) s
    if !bitOf (desc d 2 1) 0 ∨ (run s).hif.accepted = s.hif.accepted then none
    else
      let s1 := useWrite .fetch (addr + 2) [(d.getD 2 0) &&& 0xFE] s
      some (run (hifMod (fun h => { h with rings := vmod h.rings r fun y => { y with head := (y.head + 1) % 2 ^ y.log2 } }) s1))

/-- One visit of every ring, from ring 0 upward; did any give a descriptor? -/
def visitRings (s : State) : Bool × State :=
  (fins 8).foldl (fun (a : Bool × State) (r : Fin 8) =>
    match takeNext r a.2 with
    | some t => (true, t)
    | none => a) (false, s)

/-- Visit the rings until none has a descriptor that can be taken. -/
def acceptAll : Nat → State → State
  | 0, s => s
  | k + 1, s => let a := visitRings s; if a.1 then acceptAll k a.2 else a.2

/-- The descriptors between the heads and the tails: no round takes more. -/
def waitingDescriptors (s : State) : Nat :=
  s.hif.rings.toList.foldl (fun a r => a + (r.tail + 2 ^ r.log2 - r.head) % 2 ^ r.log2) 0

/-- Ask for the data of the descriptor at the head of a ring, once. -/
def askData (r : Fin 8) (s : State) : State :=
  (headData s r).foldl (fun s p => if s.tun.come.contains p || readWaits (.dma 32) p.1 p.2 s then s else hostReadReq p.1 p.2 s) s

/-- Take what can be taken with what is known of the owner's memory. -/
def takeKnown (s : State) : State := (fins 8).foldl (fun s r => askData r s) (acceptAll (waitingDescriptors s + 1) s)

/-- Over the tunnel, ask for the descriptors of a ring from its head up to its tail, at most 16 in an access (R371, R389). -/
def fetchRing (r : Fin 8) (s : State) : State :=
  let x := s.hif.rings[r]
  let n := min 16 (min (2 ^ x.log2 - x.head) ((x.tail + 2 ^ x.log2 - x.head) % 2 ^ x.log2))
  if x.log2 = 0 ∨ n = 0 ∨ readWaits .fetch (headAddr x) (64 * n) s then s else useRead .fetch (headAddr x) (64 * n) s

/-- A read over the tunnel is whole (R371, R389): the doorbell block leads to the descriptors, descriptors to what can be taken
and to the next ones of their ring, and the data of a waiting descriptor to its taking. -/
def tunFetched (u : TunUse) (addr len : Nat) (s : State) : State :=
  if !s.hif.polling ∨ s.power.state ≠ .running then s
  else
    match u with
    | .fetch =>
      if addr = hcaOf s ∧ len = 0xC0 then
        (fins 32).foldl (fun s d => dmaFetch d s) ((fins 8).foldl (fun s r => fetchRing r s) (takeKnown (readDoorbell s)))
      else
        (fins 8).foldl (fun s (r : Fin 8) =>
          let x := s.hif.rings[r]
          if x.base.toNat ≤ addr ∧ addr < x.base.toNat + 64 * 2 ^ x.log2 ∧ (headAddr x < addr ∨ addr + len ≤ headAddr x) then fetchRing r s else s)
          (takeKnown s)
    | .dma 32 =>
      if (fins 8).any (fun r => (headData s r).contains (addr, len)) then
        takeKnown (tunMod (fun t => { t with come := t.come ++ [(addr, len)] }) s)
      else s
    | _ => s

/-- A round runs over the tunnel (R381): the doorbell block, descriptors, or the data of one at the head of a ring are on their
way. -/
def roundRuns (s : State) : Bool :=
  let out (u : TunUse) (k : TunReqKind) (got : Nat) : Bool := match k with
    | .read _ len => decide (u = .fetch) && decide (got < len)
    | _ => false
  decide (hifMode s = 2) && ((s.tun.unacked.any fun r => out r.use r.kind r.got) || (s.tun.unissued.any fun x => out x.2 x.1 0) ||
    (fins 8).any fun r => (headData s r).any fun p => readWaits (.dma 32) p.1 p.2 s)

/-- A poll round (R381). Over the tunnel it asks for the doorbell block (R389; DEDUCED, log 100). Over PCIe it fails while
PCIE_PERST_N holds the endpoint in reset (R404, R519); whether with an error or a timeout is a free value (DESIGN CHOICE, log 3). -/
def pollOnce (s : State) : State :=
  if !s.hif.polling ∨ s.power.state ≠ .running then s
  else if hifMode s = 1 ∧ s.pcie.perst then
    let f := freshFree 1 s
    stopRings (3 + f.1) (hcaOf s) true f.2
  else if hifMode s = 2 then
    (if roundRuns s then s else useRead .fetch (hcaOf s) 0xC0 s)
  else
    let s1 := readDoorbell s
    acceptAll (waitingDescriptors s1 + 1) s1

/-- A further round follows directly after the one that runs, where a wake has asked for it (R381). -/
def roundAgain (s : State) : State :=
  if s.hif.again ∧ !roundRuns s then pollOnce (hifMod (fun h => { h with again := false }) s) else s

/-- A wake starts a round at once, or a further one after the round that runs (R381). -/
def wakeRound (s : State) : State :=
  if roundRuns s then hifMod (fun h => { h with again := true }) s else pollOnce s

/-- TUN_DATA (R387). -/
def execTunData (link : Fin 16) (cell : Cell) (s : State) : Host.Outcome State Fault Refusal :=
  fin (receiveCell link cell (fun s => roundAgain (takeData tunFetched cell s)) s)

/-- POLL_ROUND (R381): the round of this tick. -/
def execPollRound (stores : List HostStore) (s : State) : Host.Outcome State Fault Refusal :=
  fin (hifMod (fun h => { h with polledThisTick := true }) (pollOnce (hostStores stores s)))

/-- WAKE_WRITE (R381, R495): a write to WAKE in BAR2 starts a round at once, and in sleep is wake source 0; while the endpoint
is in reset no write reaches it (R519). -/
def execWakeWrite (stores : List HostStore) (s0 : State) : Host.Outcome State Fault Refusal :=
  let s := hostStores stores s0
  if s.pcie.perst then .next s
  else if s.power.state = .sleep then fin (wakeBy 0 s) else fin (wakeRound s)

/-- TUN_ACK (R387): the snapshots whose data has then been written are reported (R225). -/
def execTunAck (link : Fin 16) (cell : Cell) (s : State) : Host.Outcome State Fault Refusal :=
  fin (receiveCell link cell (fun s => settleSnapshots (takeAck cell s)) s)

/-- TUN_WAKE (R381): the owner starts a round at once. -/
def execTunWake (link : Fin 16) (cell : Cell) (s : State) : Host.Outcome State Fault Refusal :=
  fin (receiveCell link cell (fun s => if fromOwner s cell (bodyN cell 0x14 1) then wakeRound s else s) s)

/-- PCIE_PERST (R519): while the contact is low the endpoint is held in reset and its configuration stands at its defaults. -/
def execPciePerst (low : Bool) (s : State) : Host.Outcome State Fault Refusal :=
  .next { s with pcie := if low then { Pcie.reset with perst := true } else { s.pcie with perst := false } }

end Sys2Proof.Machine
end

