-- ==== Sys2Proof/Machine/RegCmds.lean ====
section
/-!
DEFINITION. The register accesses that are commands of their own (chapter "Setup Register Space" and the chapters whose blocks
they belong to). Each is a write or a read of BAR0 on its path, under the access codes of R525.
-/
namespace Sys2Proof.Machine

/-- A register write as a command. -/
def writeCmd (path : AccessPath) (off : Nat) (v : Word) (s : State) : Host.Outcome State Fault Refusal := fin (busWrite path off v s)

/-- REGISTER_WRITE (R524, R525). -/
def execRegisterWrite (path : AccessPath) (offset : BitVec 18) (value : Word) (s : State) : Host.Outcome State Fault Refusal :=
  writeCmd path offset.toNat value s

/-- CRC_START (R420): CRC_CTRL_u. -/
def execCrcStart (path : AccessPath) (unit : Fin 8) (value : Word) (s : State) : Host.Outcome State Fault Refusal :=
  writeCmd path (Reg.crcCtrl unit) value s

/-- CRC_DATA_B, CRC_DATA_H and CRC_DATA_W (R421): 1, 2 or 4 bytes are fed. -/
def execCrcDataB (path : AccessPath) (unit : Fin 8) (value : Word) (s : State) : Host.Outcome State Fault Refusal :=
  writeCmd path (Reg.crcDataB unit) value s
def execCrcDataH (path : AccessPath) (unit : Fin 8) (value : Word) (s : State) : Host.Outcome State Fault Refusal :=
  writeCmd path (Reg.crcDataH unit) value s
def execCrcDataW (path : AccessPath) (unit : Fin 8) (value : Word) (s : State) : Host.Outcome State Fault Refusal :=
  writeCmd path (Reg.crcDataW unit) value s

/-- METER_CLEAR and METER_SRC_WRITE (R70). -/
def execMeterClear (path : AccessPath) (value : Word) (s : State) : Host.Outcome State Fault Refusal :=
  writeCmd path Reg.meterCtrl value s
def execMeterSrcWrite (path : AccessPath) (e : Fin 1024) (value : Word) (s : State) : Host.Outcome State Fault Refusal :=
  writeCmd path (Reg.meterSrc e) value s

/-- LINK_ENABLE_WRITE (R192). -/
def execLinkEnableWrite (path : AccessPath) (link : Fin 16) (value : Word) (s : State) : Host.Outcome State Fault Refusal :=
  writeCmd path (Reg.linkCtrl link) value s

/-- PLL_MEAS_START (R251). -/
def execPllMeasStart (path : AccessPath) (value : Word) (s : State) : Host.Outcome State Fault Refusal :=
  writeCmd path Reg.pllMeasCtrl value s

/-- PULSE_CFG_WRITE (R255). -/
def execPulseCfgWrite (path : AccessPath) (m : Fin 2) (value : Word) (s : State) : Host.Outcome State Fault Refusal :=
  writeCmd path (Reg.pulseCfg m) value s

/-- ETH_CTRL_WRITE (R265). -/
def execEthCtrlWrite (path : AccessPath) (port : Fin 4) (value : Word) (s : State) : Host.Outcome State Fault Refusal :=
  writeCmd path (Reg.ethCtrl port) value s

/-- PAUSE_STUCK_CLEAR (R271). -/
def execPauseStuckClear (path : AccessPath) (port : Fin 4) (value : Word) (s : State) : Host.Outcome State Fault Refusal :=
  writeCmd path (Reg.ethPauseStat port) value s

/-- PS_PFREQ_WRITE (R341): PS_FSW_STAT shows the margin and CONFLICT of the frequencies then protected. -/
def execPsPfreqWrite (path : AccessPath) (k : Fin 16) (value : Word) (s : State) : Host.Outcome State Fault Refusal :=
  writeCmd path (Reg.psPfreq k) value s

/-- HIF_MODE_WRITE (R366), with the stores of the host that are visible before it. -/
def execHifModeWrite (path : AccessPath) (value : Word) (stores : List HostStore) (s : State) : Host.Outcome State Fault Refusal :=
  writeCmd path Reg.hifCtrl value
    (stores.foldl (fun s x => if x.bar2 then bar2Store x.addr.toNat x.bytes s
      else { s with localMem := memWrite s.localMem x.addr.toNat x.bytes }) s)

/-- WARM (R529): GLB_RESET. -/
def execWarmWrite (path : AccessPath) (value : Word) (s : State) : Host.Outcome State Fault Refusal :=
  writeCmd path Reg.glbReset value s

/-- SETUP_LOCK (R527): GLB_LOCK. -/
def execSetupLock (path : AccessPath) (value : Word) (s : State) : Host.Outcome State Fault Refusal :=
  writeCmd path Reg.glbLock value s

/-- STORE (R530): GLB_MEDIA_RATE. -/
def execStoreRate (path : AccessPath) (value : Word) (s : State) : Host.Outcome State Fault Refusal :=
  writeCmd path Reg.glbMediaRate value s

/-- GLB_TICK_LO_READ (R531): the read captures the high half for its path. -/
def execGlbTickLoRead (path : AccessPath) (s : State) : Host.Outcome State Fault Refusal := .next (afterRead path Reg.glbTickLo s)

/-- PROPOSE and WITHDRAW (R467, R468): PROT_CMD. -/
def execPropose (path : AccessPath) (value : Word) (s : State) : Host.Outcome State Fault Refusal :=
  writeCmd path Reg.protCmd value s
def execWithdraw (path : AccessPath) (value : Word) (s : State) : Host.Outcome State Fault Refusal :=
  writeCmd path Reg.protCmd value s

/-- PROT_CONFIRM (R467). -/
def execProtConfirm (path : AccessPath) (value : Word) (s : State) : Host.Outcome State Fault Refusal :=
  writeCmd path Reg.protConfirm value s

/-- MB_TGT_REQ_SET and MB_TGT_REQ_CLEAR (R438). -/
def execMbTgtReqSet (path : AccessPath) (bus : Fin 2) (value : Word) (s : State) : Host.Outcome State Fault Refusal :=
  writeCmd path (Reg.mbTgtReq bus) value s
def execMbTgtReqClear (path : AccessPath) (bus : Fin 2) (value : Word) (s : State) : Host.Outcome State Fault Refusal :=
  writeCmd path (Reg.mbTgtReq bus) value s

/-- TEST_DBG_READ and TEST_DBG_WRITE (R532). -/
def execTestDbgRead (path : AccessPath) (value : Word) (s : State) : Host.Outcome State Fault Refusal :=
  writeCmd path Reg.testDbgCtrl value s
def execTestDbgWrite (path : AccessPath) (value : Word) (s : State) : Host.Outcome State Fault Refusal :=
  writeCmd path Reg.testDbgCtrl value s

/-- TRACE_ENABLE (R533). -/
def execTraceEnable (path : AccessPath) (value : Word) (s : State) : Host.Outcome State Fault Refusal :=
  writeCmd path Reg.testTraceCtrl value s

/-- The window access ends with a response; a read leaves its data in TEST_DBG_DATA, 0 on an error. -/
def endWindow (r : Resp) (s : State) : State := { s with test := { s.test with dbg := none, resp := r.code } }

/-- TEST_DBG_DONE (R532): the window access, checked as a COPY is when it began (R418), is performed as the master of the path that started it, and
its error recorded by R419. An uncorrectable word answers SLVERR. -/
def execTestDbgDone (slvErr : Bool) (s : State) : Host.Outcome State Fault Refusal :=
  match s.test.dbg with
  | none => .next s
  | some a =>
    let master := if a.path = .bar0 then Master.pcieIn else Master.tunnel
    let r0 := if a.allowed then targetResp s master a.addr 4 a.write else .deny
    let r := if r0 = .okay ∧ slvErr then Resp.slverr else r0
    if r = .okay then
      if a.write then fin (devWrite setMode a.path a.addr (leBytes 4 a.data.toNat) (endWindow r s))
      else
        let x := devRead a.path a.addr 4 (endWindow r s)
        fin (regSet Reg.testDbgData (BitVec.ofNat 32 (ofLe x.1)) x.2)
    else
      let s1 := matrixError r master a.write a.addr (endWindow r s)
      fin (if a.write then s1 else regSet Reg.testDbgData 0 s1)

end Sys2Proof.Machine
end

