-- ==== Sys2Proof/Machine/Tick.lean ====
section
/-!
DEFINITION. The tick (R13–R25): the opening of the tick kerf, the latched actions and what wins among them (R20), the order of
data-memory writes (R129), and everything that happens at a tick boundary.
-/
namespace Sys2Proof.Machine

/-! ### What latched actions act on (R20) -/

/-- The objects of an action, as the chapters' command tables name them. -/
def objsOf (s : State) : Action → List Obj
  | .dmaCtrl a => (maskUnits 32 a.chMask.toNat).map fun d => .dmaCh d.val
  | .ageDecide a => [.ageKind (if a.action.toNat = 3 then a.kind.toNat else (namedProposal s a).elim 0 Proposal.kind)]
  | .sleep _ => [.node]
  | .linkCmd a => [.link a.link.toNat]
  | .routeSet a => [.input a.dest.toNat a.input.val]
  | .gainSet d i _ _ => [.input d.toNat i.val]
  | .routeClear d _ _ => (List.range 4).map (.input d.toNat)
  | .routeBatch l => l.map fun a => .input a.dest.toNat a.input.val
  | .directSet c .. => [.direct c.val]
  | .testgenSet g _ => [.gen g.val]
  | .tileSwap m => (maskUnits 16 m.toNat).map fun n => .tile n.val
  | .paramWrite n l => l.map fun w => .word n.val w.1
  | .objFree h | .delaySet h .. | .playStart h .. | .playStop h _ | .captureCtrl h .. | .snapTake h _ => [.obj h]
  | .rampSet n u .. => [.ramp n.val u.val]
  | .pathActivate a c | .pathRelease a c => [.path a.toNat c]
  | .pairSet .. => [.pairing]
  | .roleSet p _ => [.port p.val]
  | .refForce _ => [.selector]
  | .pulseAlign m => ((List.range 10).filter fun i => m.getLsbD i).map .pulse
  | .aoipRx n _ => [.stream false n.val]
  | .aoipTx n _ => [.stream true n.val]
  | .aoipCs n p _ => [.pair n.val p]
  | .portStart p | .portStop p => [.port p.val]
  | .portSlots p .. => [.port p.val]
  | .psStart m | .psStop m _ => (maskUnits 8 m).map fun c => .psChannel c.val
  | .psBudget c .. => [.budget c.val]
  | .psFreq .. => [.freqSelector]
  | .aesCs n f u _ => [.aesBlock n.val f.val u]

/-- Actions in the order of their acceptance (R20). -/
def acceptOrder (l : List Timed) : List Timed := sortBy (fun t => t.ticket.order) l

/-- For each object of the global operations of a boundary, the acceptance of the last of them in their order (R221). -/
def lastWins : List (Obj × Nat) → List (Obj × Nat)
  | [] => []
  | x :: l => if l.any fun y => decide (y.1 = x.1) then lastWins l else x :: lastWins l

def globalWins (s : State) (g : List GlobalOp) : List (Obj × Nat) :=
  lastWins (g.flatMap fun o => (globalObjs s o).map fun x => (x, o.order))

/-- The latched actions in acceptance order, each with the objects that actions accepted later act on; of the global operations
on an object the last in their own order stands against the host's actions (DESIGN CHOICE, log 59). -/
def withLater (s : State) (g : List (Obj × Nat)) : List Timed → List (Timed × List Obj)
  | [] => []
  | t :: l => (t, (l.flatMap fun u => objsOf s u.act) ++ ((g.filter fun x => decide (t.ticket.order < x.2)).map (·.1))) ::
      withLater s g l

/-- The global operations of a boundary in their order, each with the objects that later ones and host actions accepted later
act on. -/
def globalsLater (s : State) (l : List Timed) : List GlobalOp → List (GlobalOp × List Obj)
  | [] => []
  | o :: g => (o, (g.flatMap (globalObjs s)) ++
      ((l.filter fun t => decide (o.order < t.ticket.order)).flatMap fun t => objsOf s t.act)) :: globalsLater s l g

/-! ### One latched action at its boundary -/

/-- The record of an action: OK or OK_LATE where it took effect, else its status. -/
def finish (t : Ticket) (r : Nat × State) : State := complete t (if r.1 = St.ok then okOf t else r.1) 0 r.2

/-- PULSE_ALIGN (R256): bits 0 and 1 the pulse outputs, 2–9 the frame syncs. -/
def applyAlign (m : BitVec 10) (s : State) : State :=
  (fins 8).foldl (fun s p => if m.getLsbD (2 + p.val) then alignFrameSync p s else s) (applyPulseAlign m s)

/-- AGE_DECIDE; a clock step that its boundary does not carry out gives up (R473). -/
def finishAge (t : Ticket) (r : Nat × State) : State :=
  let left : Bool := match r.2.wear.step with | some x => decide (x.ticket = t) | none => false
  complete t r.1 0 (if left then stepGivesUp r.2 else r.2)

/-- The effect and the record of a latched action; `won`: what later actions have won from it. -/
def applyAction (t : Ticket) (won : Obj → Bool) (act : Action) (s : State) : State :=
  match act with
  | .dmaCtrl a => applyDma t a (fun d => won (.dmaCh d.val)) s
  | .ageDecide a => finishAge t (applyAgeDecide t a s)
  | .sleep a => finish t (applySleep a s)
  | .linkCmd a => finish t (applyLinkCmd a s)
  | .routeSet a => let r := applyRoute a s; finish t (if r.1 then St.ok else 0x41, r.2)
  | .gainSet d i g ms => let r := applyGain d.toNat i g ms s; finish t (if r.1 then St.ok else St.badArg, r.2)
  | .routeClear d p ms => finish t (St.ok, applyClear d.toNat p ms (fun i => won (.input d.toNat i)) s)
  | .routeBatch l =>
    let r := applyBatch (fun d i => won (.input d i)) 0 l s
    (match r.1 with
      | some k => complete t 0x41 k r.2
      | none => finish t (St.ok, r.2))
  | .directSet c a b g ms => let r := applyDirect c a b g ms s; finish t (r.1.getD St.ok, r.2)
  | .testgenSet g a => finish t (St.ok, applyTestgen g a s)
  | .tileSwap m => finish t (applySwap ((maskUnits 16 m.toNat).filter fun n => !won (.tile n.val)) s)
  | .paramWrite n l => finish t (applyParams n (l.filter fun w => !won (.word n.val w.1)) s)
  | .objFree h =>
    (match objOf s h with
      | none => complete t 0x41 0 s
      | some _ => finish t (St.ok, freeObj h s))
  | .delaySet h x p d ms =>
    let r := applyDelay h t x p d ms s
    (match r.1 with
      | some st => finish t (st, r.2)
      | none => r.2)
  | .playStart h l b g ms => finish t (applyPlayStart h l b g ms s)
  | .playStop h ms => finish t (applyPlayStop h ms s)
  | .captureCtrl h a b => finish t (applyCapture h a b s)
  | .snapTake h l => finish t (applySnap h l s)
  | .rampSet n u a ms => finish t (applyRampSet n u a ms s)
  | .pathActivate a c => applyActivate t a c s
  | .pathRelease a c => finish t (applyRelease a c s)
  | .pairSet a l => finish t (applyPairSet a l s)
  | .roleSet p r => finish t (applyRole p r s)
  | .refForce c => finish t (applyRefForce c s)
  | .pulseAlign m => finish t (St.ok, applyAlign m s)
  | .aoipRx n a => finish t (applyAoipRx n a s)
  | .aoipTx n a => finish t (applyAoipTx n a s)
  | .aoipCs n p b => finish t (St.ok, applyAoipCs n p b s)
  | .portStart p => finish t (applyPortStart p s)
  | .portStop p => finish t (applyPortStop p s)
  | .portSlots .. => finish t (St.ok, s)
  | .psStart m => psComplete (applyPsStart t m (fun c => won (.psChannel c.val)) s)
  | .psStop m ms => finish t (applyPsStop m ms (fun c => won (.psChannel c.val)) s)
  | .psBudget c w a r => finish t (St.ok, applyPsBudget c w a r s)
  | .psFreq p lo hi =>
    let r := applyPsFreq p lo hi s
    complete t (if r.1 = St.ok then okOf t else r.1) r.2.1 r.2.2
  | .aesCs n f u b => finish t (St.ok, applyAesCs n f u b s)

/-- An action all of whose objects later actions have won never takes effect and completes with OK (R20). A clock step among
them gives up. -/
def applyLatched (x : Timed × List Obj) (s : State) : State :=
  let os := objsOf s x.1.act
  if os ≠ [] ∧ os.all (fun o => x.2.contains o) then
    (match x.1.act with
      | .ageDecide _ => finishAge x.1.ticket (St.ok, s)
      | _ => complete x.1.ticket St.ok 0 s)
  else applyAction x.1.ticket (fun o => x.2.contains o) x.1.act s

/-- Where an action stands in the order of a boundary (R129): swaps, then binding changes, then PARAM_WRITEs, then copies; a
node that goes to sleep does so last. -/
def Action.order : Action → Nat
  | .tileSwap _ => 1
  | .rampSet .. => 2
  | .paramWrite .. => 3
  | .snapTake .. => 4
  | .sleep _ => 5
  | _ => 0

/-- The latched actions of one place in the order, in acceptance order. -/
def runOrder (k : Nat) (l : List (Timed × List Obj)) (s : State) : State :=
  (l.filter fun x => decide (x.1.act.order = k)).foldl (fun s x => applyLatched x s) s

/-! ### The tick that ends -/

/-- The opening of the tick kerf (R18): the schedule of the next tick closes; the port masks latched for it commit (R312). -/
def openKerf (s : State) : State :=
  let s1 := commitsAtKerf s
  { s1 with time := { s1.time with kerf := true } }

/-- TICK_KERF_OPEN (R18, R19). -/
def execTickKerfOpen (s : State) : Host.Outcome State Fault Refusal :=
  if s.power.state = .running ∧ !s.time.kerf then fin (openKerf s) else .next s

/-- The largest TILE_CYC_LAST of the tiles that ran a tick program in the tick, and the lowest tile that reached it (R534). -/
def traceCycles (s : State) : Nat × Nat :=
  let ran := (fins 16).filter fun (n : Fin 16) => (s.tiles[n].page.bind Page.tickProg).isSome && !fenced s (.tile n)
  ran.foldl (fun a n => let c := regFld s (tileReg n 0x01C) 17 0; if a.1 < c then (c, n.val) else a)
    (0, (ran.head?.elim 0 Fin.val))

/-- The trace record of the tick that ends (R533). -/
def traceRecord (s : State) : State :=
  if regBit s Reg.testTraceCtrl 0 then
    let e := regFld s Reg.testTraceCtrl 26 16
    let c := traceCycles s
    let late := s.tiles.toList.any Tile.overrunLast
    let w := c.1 + c.2 * 2 ^ 18 + bitAt late 22 + bitAt (!s.hif.polledThisTick) 23 + (now s % 256) * 2 ^ 24
    regSetFld Reg.testTraceCtrl 26 16 ((e + 1) % 1920) (regSet (Reg.testTrace e) (BitVec.ofNat 32 w) s)
  else s

/-- The counter advances by one (R16), and with it the time elapsed and node time; the wear record counts days (R470). -/
def countTick (s : State) : State :=
  let t := s.time.refTime + tickUnits s
  let day := 86400 * refSecond
  { s with
    time := { s.time with tick := s.time.tick + 1, kerf := false, refTime := t },
    clock := { s.clock with nodeUnits := s.clock.nodeUnits + tickUnits s },
    wear := { s.wear with days := s.wear.days + BitVec.ofNat 32 (t / day - s.time.refTime / day) },
    hif := { s.hif with polledThisTick := false } }

/-- The tick that ends: late tick programs are cut, its trace record is written, and the counter advances. -/
def endTick (s : State) : State :=
  advancePulses (countTick (traceRecord (cutTiles (if s.time.kerf then s else openKerf s))))

/-! ### The tick that begins -/

/-- Polling begins at the first boundary after the directory has been read (R369). -/
def beginPolling (s : State) : State :=
  if s.hif.startPoll then hifMod (fun h => { h with polling := true, startPoll := false }) s else s

/-- What takes hold before the latched actions: a clock step's first boundary, standing aside, a new owner, polling. -/
def beginTick (s : State) : State :=
  let s1 := standAside (stepBegins s)
  beginPolling (if s1.hif.claim.isSome then bindOwner s1 else s1)

/-- The samples of the tick that ended leave: ports are read, the direct path sends, ports and power stage play what was
delivered a tick ago; then the values of the last router pass are delivered (R34). -/
def deliver (s : State) : State :=
  let s1 := portInputs s
  let before := s1.router.directs
  let s2 := psPlay before (portOutputs before (runDirects s1))
  psShift { s2 with router := { s2.router with delivered := s2.router.inFlight } }

/-- The sources of the tick that ended are handed over to the router (R38), and fades, clips and delays have advanced. -/
def handOver (m : TickIn) (s : State) : State :=
  let s1 := runAoipRx (runDrops (advanceBenches (advanceRoutes s)))
  psClips (psSense m (dmaHandover m.late (handTiles s1)))

/-- The bench engine's tick (R143); a halted engine (R460), or one whose DRAM domain stands still (R252), drives nothing. -/
def benchTick (m : TickIn) (s : State) : State :=
  if s.sump.halted ∨ !dramRuns s then { s with router := { s.router with store := s.router.store.filter fun e => e.1 / 4096 ≠ 6 } }
  else runBenches m.dram s

/-- The tiles' tick; halted tiles (R460), and tiles whose CORE domain stands still (R252), run nothing, and their outputs read
zero, flagged invalid. -/
def tileTick (inputs : List (Nat × Blk)) (s : State) : State :=
  if s.sump.halted ∨ !coreRuns s then
    { s with tiles := vmap (fun (t : Tile) => { t with handMap := 0, handValid := 0, sum := TickSum.none }) s.tiles }
  else runTiles inputs s

/-- The writes to data memory in their order (R129; the RAMP_SETs before the check that unbinds units, DESIGN CHOICE, log 149), and the global operations, whose swaps are page swaps (R125). -/
def dataWrites (late : Bool) (l : List (Timed × List Obj)) (g : List (GlobalOp × List Obj)) (s : State) : State :=
  let s1 := runOrder 2 l (runGlobals late g (runOrder 1 l s))
  let s2 := checkLimits ((fins 16).foldl (fun s n => checkUnits n s) s1)
  let s3 := writeLimits ((fins 16).foldl (fun s n => writeRamps n s) (runOrder 3 l s2))
  let s4 := (fins 16).foldl (fun s n => runRampQueries n (runDmemReads n s)) s3
  runSnapshots g (runOrder 4 l s4)

/-- The queries answered from the state of the boundary. -/
def answerQueries (s : State) : State :=
  runPsQueries (runPortQueries (runAoipQueries (runRefQueries (runLinkQueries s))))

/-- The actions latched for the tick take effect, the rest of the boundary's work follows; `n`: how many events arose before it. -/
def startTick (m : TickIn) (n : Nat) (s0 : State) : State :=
  let late := s0.fabric.lateSinceBarrier
  let due := acceptOrder (s0.timed.filter fun t => decide (t.tick ≤ now s0))
  let ops := globalsNow s0
  let l := withLater s0 (globalWins s0 ops) due
  let g := globalsLater s0 due ops
  let s1 : State := { s0 with timed := s0.timed.filter (fun t => decide (now s0 < t.tick)),
                              fabric := { s0.fabric with lateSinceBarrier := false } }
  let s2 := routerUse (freeRoutes (runOrder 0 l s1))
  let s3 := switchKerf (psBoundary m (turnOn (startGroups (startDeferred s2))))
  let s4 := runMeters (runGens (benchTick m (runBenchQueries (benchRegs s3))))
  let r := routerPass s4
  let s5 := runPair (addSlots (s4.sump.aside || s4.sump.halted) (runRouteQueries r.2))
  let s6 := tileTick r.1 (dataWrites late l g s5)
  let s7 := runLinks (fabAlign (anchorView (runEvt s6)))
  let s8 := reportGlobals (runAcks (answerQueries (runDmaAudio s7)))
  enterSleep (flushEvents n (runOrder 5 l s8))

/-- A tick boundary of a running node. -/
def runBoundary (m : TickIn) (s : State) : State :=
  let s0 := endTick (raiseDue (m.upsets.foldl upsetRow s))
  startTick m s0.hif.events.length (runAoipTx (runEth (handOver m (deliver (beginTick s0)))))

/-- TICK_BOUNDARY (R19). While the MEDIA or the FAB PLL is unlocked (R252), and in sleep (R496), the counter and node time advance in
REF and nothing else happens; a node that is off has no tick. -/
def execTickBoundary (m : TickIn) (s : State) : Host.Outcome State Fault Refusal :=
  match s.power.state with
  | .running => if tickRuns s then fin (runBoundary m s) else .next (countTick s)
  | .sleep => .next (countTick s)
  | .off => .next s

end Sys2Proof.Machine
end

