-- ==== Sys2Proof/Machine/Dispatch.lean ====
section
/-!
DEFINITION. The dispatch: one arm per command, each a direct call of the command's meaning.
-/
namespace Sys2Proof.Machine

/-- The effect of a command on the machine, the queue of waiting commands apart. -/
def exec (i : Instr) (s : State) : Host.Outcome State Fault Refusal :=
  match i with
  | .tickBoundary m => Sys2Proof.Machine.execTickBoundary m s
  | .tickKerfOpen => Sys2Proof.Machine.execTickKerfOpen s
  | .tileCut tile => Sys2Proof.Machine.execTileCut tile s
  | .subFrameStart link j => Sys2Proof.Machine.execSubFrameStart link j s
  | .pollRound stores => Sys2Proof.Machine.execPollRound stores s
  | .routeSet h a => Sys2Proof.Machine.execRouteSet h a s
  | .gainSet h a => Sys2Proof.Machine.execGainSet h a s
  | .routeClear h a => Sys2Proof.Machine.execRouteClear h a s
  | .routeBatch h a => Sys2Proof.Machine.execRouteBatch h a s
  | .routeQuery h dest resultAddr => Sys2Proof.Machine.execRouteQuery h dest resultAddr s
  | .directSet h a => Sys2Proof.Machine.execDirectSet h a s
  | .testgenSet h a => Sys2Proof.Machine.execTestgenSet h a s
  | .tileLoad h a => Sys2Proof.Machine.execTileLoad h a s
  | .tileLoadComplete tile => Sys2Proof.Machine.execTileLoadComplete tile s
  | .tileClear h tile => Sys2Proof.Machine.execTileClear h tile s
  | .tileSwap h tick mask => Sys2Proof.Machine.execTileSwap h tick mask s
  | .paramWrite h a => Sys2Proof.Machine.execParamWrite h a s
  | .rampSet h a => Sys2Proof.Machine.execRampSet h a s
  | .dmemRead h a => Sys2Proof.Machine.execDmemRead h a s
  | .rampQuery h tile resultAddr => Sys2Proof.Machine.execRampQuery h tile resultAddr s
  | .benchCreate h bench quota => Sys2Proof.Machine.execBenchCreate h bench quota s
  | .benchQuota h bench quota => Sys2Proof.Machine.execBenchQuota h bench quota s
  | .benchDelete h bench => Sys2Proof.Machine.execBenchDelete h bench s
  | .objAlloc h a => Sys2Proof.Machine.execObjAlloc h a s
  | .objFree h tick handle => Sys2Proof.Machine.execObjFree h tick handle s
  | .delaySet h a => Sys2Proof.Machine.execDelaySet h a s
  | .playStart h a => Sys2Proof.Machine.execPlayStart h a s
  | .playStop h tick handle rampMs => Sys2Proof.Machine.execPlayStop h tick handle rampMs s
  | .captureCtrl h a => Sys2Proof.Machine.execCaptureCtrl h a s
  | .benchWrite h a => Sys2Proof.Machine.execBenchWrite h a s
  | .benchRead h a errors => Sys2Proof.Machine.execBenchRead h a errors s
  | .snapTake h a => Sys2Proof.Machine.execSnapTake h a s
  | .benchQuery h bench handle resultAddr => Sys2Proof.Machine.execBenchQuery h bench handle resultAddr s
  | .scrub errors percent => Sys2Proof.Machine.execScrub errors percent s
  | .linkCmd h a => Sys2Proof.Machine.execLinkCmd h a s
  | .linkQuery h link resultAddr => Sys2Proof.Machine.execLinkQuery h link resultAddr s
  | .eyeSurvey h linkMask => Sys2Proof.Machine.execEyeSurvey h linkMask s
  | .eyeSurveyComplete r => Sys2Proof.Machine.execEyeSurveyComplete r s
  | .nodeIdSet h id => Sys2Proof.Machine.execNodeIdSet h id s
  | .linkSignalDetect link => Sys2Proof.Machine.execLinkSignalDetect link s
  | .linkBlockLock link => Sys2Proof.Machine.execLinkBlockLock link s
  | .linkEqComplete link ctle => Sys2Proof.Machine.execLinkEqComplete link ctle s
  | .trainingMarker link m w => Sys2Proof.Machine.execTrainingMarker link m w s
  | .frameMarker link m => Sys2Proof.Machine.execFrameMarker link m s
  | .markerWindowExpiry link => Sys2Proof.Machine.execMarkerWindowExpiry link s
  | .linkSignalLoss link signalGone => Sys2Proof.Machine.execLinkSignalLoss link signalGone s
  | .trainTimeout link => Sys2Proof.Machine.execTrainTimeout link s
  | .retryWait link => Sys2Proof.Machine.execRetryWait link s
  | .slotReceived link x => Sys2Proof.Machine.execSlotReceived link x s
  | .discover link cell => Sys2Proof.Machine.execDiscover link cell s
  | .discoverSend link => Sys2Proof.Machine.execDiscoverSend link s
  | .linkCtrlCell link cell => Sys2Proof.Machine.execLinkCtrlCell link cell s
  | .attachReqRepeat link => Sys2Proof.Machine.execAttachReqRepeat link s
  | .idAnnounce link cell => Sys2Proof.Machine.execIdAnnounce link cell s
  | .idAnnouncePeriodic => Sys2Proof.Machine.execIdAnnouncePeriodic s
  | .linkBer link => Sys2Proof.Machine.execLinkBer link s
  | .pathReserve h a => Sys2Proof.Machine.execPathReserve h a s
  | .pathSet link cell => Sys2Proof.Machine.execPathSet link cell s
  | .pathReply link cell => Sys2Proof.Machine.execPathReply link cell s
  | .pathReserveTimeout addCh copy => Sys2Proof.Machine.execPathReserveTimeout addCh copy s
  | .tentativeExpiry link slot => Sys2Proof.Machine.execTentativeExpiry link slot s
  | .pathRelease h tick addCh copy => Sys2Proof.Machine.execPathRelease h tick addCh copy s
  | .pathClear link cell => Sys2Proof.Machine.execPathClear link cell s
  | .pathBroken link cell => Sys2Proof.Machine.execPathBroken link cell s
  | .pathQuery h addCh copy resultAddr => Sys2Proof.Machine.execPathQuery h addCh copy resultAddr s
  | .switchRead h a => Sys2Proof.Machine.execSwitchRead h a s
  | .pairSet h a => Sys2Proof.Machine.execPairSet h a s
  | .pairDigest link cell => Sys2Proof.Machine.execPairDigest link cell s
  | .roleSet h tick port role => Sys2Proof.Machine.execRoleSet h tick port role s
  | .twinReadbackMismatch port position => Sys2Proof.Machine.execTwinReadbackMismatch port position s
  | .twinDigestTakeover port => Sys2Proof.Machine.execTwinDigestTakeover port s
  | .globalArm h a => Sys2Proof.Machine.execGlobalArm h a s
  | .globalOp h a => Sys2Proof.Machine.execGlobalOp h a s
  | .globalOpCell link cell => Sys2Proof.Machine.execGlobalOpCell link cell s
  | .adopt link cell => Sys2Proof.Machine.execAdopt link cell s
  | .doneCell link cell => Sys2Proof.Machine.execDoneCell link cell s
  | .doneTimeout orig opNo => Sys2Proof.Machine.execDoneTimeout orig opNo s
  | .globalResetWarm => Sys2Proof.Machine.execGlobalResetWarm s
  | .timeSync link cell => Sys2Proof.Machine.execTimeSync link cell s
  | .anchorLost => Sys2Proof.Machine.execAnchorLost s
  | .anchorClaim => Sys2Proof.Machine.execAnchorClaim s
  | .dpllUpdate phaseNs => Sys2Proof.Machine.execDpllUpdate phaseNs s
  | .refSecond m => Sys2Proof.Machine.execRefSecond m s
  | .refInputFault slot fault => Sys2Proof.Machine.execRefInputFault slot fault s
  | .tickAlignment slot time => Sys2Proof.Machine.execTickAlignment slot time s
  | .alignWaitExpiry => Sys2Proof.Machine.execAlignWaitExpiry s
  | .pllUnlock pll => Sys2Proof.Machine.execPllUnlock pll s
  | .pllLock pll fails measured => Sys2Proof.Machine.execPllLock pll fails measured s
  | .pllMeasStart path value => Sys2Proof.Machine.execPllMeasStart path value s
  | .pllMeasDone freqKhz => Sys2Proof.Machine.execPllMeasDone freqKhz s
  | .refForce h tick cand => Sys2Proof.Machine.execRefForce h tick cand s
  | .refQuery h resultAddr => Sys2Proof.Machine.execRefQuery h resultAddr s
  | .pulseAlign h tick mask => Sys2Proof.Machine.execPulseAlign h tick mask s
  | .timeSet h seconds => Sys2Proof.Machine.execTimeSet h seconds s
  | .pulseCfgWrite path m value => Sys2Proof.Machine.execPulseCfgWrite path m value s
  | .cmpSet h a => Sys2Proof.Machine.execCmpSet h a s
  | .cmpFire unit => Sys2Proof.Machine.execCmpFire unit s
  | .captureEdge source rising time => Sys2Proof.Machine.execCaptureEdge source rising time s
  | .timeQuery h resultAddr => Sys2Proof.Machine.execTimeQuery h resultAddr s
  | .ethCtrlWrite path port value => Sys2Proof.Machine.execEthCtrlWrite path port value s
  | .ethLinkDown port => Sys2Proof.Machine.execEthLinkDown port s
  | .ethFrameReceived port f => Sys2Proof.Machine.execEthFrameReceived port f s
  | .pauseReceived port quanta => Sys2Proof.Machine.execPauseReceived port quanta s
  | .pauseExpiry port => Sys2Proof.Machine.execPauseExpiry port s
  | .pauseWatchdog port => Sys2Proof.Machine.execPauseWatchdog port s
  | .pauseStuckClear path port value => Sys2Proof.Machine.execPauseStuckClear path port value s
  | .pauseRefresh port => Sys2Proof.Machine.execPauseRefresh port s
  | .ptpMessage port m => Sys2Proof.Machine.execPtpMessage port m s
  | .ptpMasterSend port announce => Sys2Proof.Machine.execPtpMasterSend port announce s
  | .aoipPacketReceived port p => Sys2Proof.Machine.execAoipPacketReceived port p s
  | .aoipRxSet h a => Sys2Proof.Machine.execAoipRxSet h a s
  | .aoipTxSet h a => Sys2Proof.Machine.execAoipTxSet h a s
  | .aoipQuery h dir stream csPair resultAddr => Sys2Proof.Machine.execAoipQuery h dir stream csPair resultAddr s
  | .aoipCsSet h tick stream pair block => Sys2Proof.Machine.execAoipCsSet h tick stream pair block s
  | .portStart h tick port trigger => Sys2Proof.Machine.execPortStart h tick port trigger s
  | .portReady port rate ratio => Sys2Proof.Machine.execPortReady port rate ratio s
  | .portStartTimeout port => Sys2Proof.Machine.execPortStartTimeout port s
  | .startSplit port => Sys2Proof.Machine.execStartSplit port s
  | .portStop h tick port => Sys2Proof.Machine.execPortStop h tick port s
  | .postclkEnd port => Sys2Proof.Machine.execPostclkEnd port s
  | .portSlots h a => Sys2Proof.Machine.execPortSlots h a s
  | .portFrame port f => Sys2Proof.Machine.execPortFrame port f s
  | .portClockStop port => Sys2Proof.Machine.execPortClockStop port s
  | .portQuery h port resultAddr => Sys2Proof.Machine.execPortQuery h port resultAddr s
  | .aesCsSet h a => Sys2Proof.Machine.execAesCsSet h a s
  | .aesQuery h port resultAddr => Sys2Proof.Machine.execAesQuery h port resultAddr s
  | .aesCsBlock aes subframe => Sys2Proof.Machine.execAesCsBlock aes subframe s
  | .psStart h tick mask => Sys2Proof.Machine.execPsStart h tick mask s
  | .psStartTimeout ch => Sys2Proof.Machine.execPsStartTimeout ch s
  | .psStop h tick mask rampMs => Sys2Proof.Machine.execPsStop h tick mask rampMs s
  | .converterStop group => Sys2Proof.Machine.execConverterStop group s
  | .psBudget h a => Sys2Proof.Machine.execPsBudget h a s
  | .psFreqSet h a => Sys2Proof.Machine.execPsFreqSet h a s
  | .psPfreqWrite path k value => Sys2Proof.Machine.execPsPfreqWrite path k value s
  | .psModel h a => Sys2Proof.Machine.execPsModel h a s
  | .psQuery h ch resultAddr => Sys2Proof.Machine.execPsQuery h ch resultAddr s
  | .powerAllocate m => Sys2Proof.Machine.execPowerAllocate m s
  | .pilotEstimate ch re microAmps => Sys2Proof.Machine.execPilotEstimate ch re microAmps s
  | .ilimTrip ch => Sys2Proof.Machine.execIlimTrip ch s
  | .shortCircuit ch cls => Sys2Proof.Machine.execShortCircuit ch cls s
  | .psRetry ch => Sys2Proof.Machine.execPsRetry ch s
  | .psDc ch => Sys2Proof.Machine.execPsDc ch s
  | .psDieTemp ch => Sys2Proof.Machine.execPsDieTemp ch s
  | .psRailOv group => Sys2Proof.Machine.execPsRailOv group s
  | .psPvinLow => Sys2Proof.Machine.execPsPvinLow s
  | .pvinRestored => Sys2Proof.Machine.execPvinRestored s
  | .psRailSag group => Sys2Proof.Machine.execPsRailSag group s
  | .directTrackingResume group => Sys2Proof.Machine.execDirectTrackingResume group s
  | .hifModeWrite path value stores => Sys2Proof.Machine.execHifModeWrite path value stores s
  | .wakeWrite stores => Sys2Proof.Machine.execWakeWrite stores s
  | .remoteWakeWrite value => Sys2Proof.Machine.execRemoteWakeWrite value s
  | .tunnelClaim h a => Sys2Proof.Machine.execTunnelClaim h a s
  | .tunnelClaimTimeout target => Sys2Proof.Machine.execTunnelClaimTimeout target s
  | .tunnelReg h a => Sys2Proof.Machine.execTunnelReg h a s
  | .tunnelDrop h target => Sys2Proof.Machine.execTunnelDrop h target s
  | .tunClaim link cell => Sys2Proof.Machine.execTunClaim link cell s
  | .tunClaimAck link cell => Sys2Proof.Machine.execTunClaimAck link cell s
  | .tunYield link cell => Sys2Proof.Machine.execTunYield link cell s
  | .tunWrite link cell => Sys2Proof.Machine.execTunWrite link cell s
  | .tunRead link cell => Sys2Proof.Machine.execTunRead link cell s
  | .tunData link cell => Sys2Proof.Machine.execTunData link cell s
  | .tunIrq link cell => Sys2Proof.Machine.execTunIrq link cell s
  | .tunAck link cell => Sys2Proof.Machine.execTunAck link cell s
  | .tunWake link cell => Sys2Proof.Machine.execTunWake link cell s
  | .tunReg link cell => Sys2Proof.Machine.execTunReg link cell s
  | .tunRegResp link cell => Sys2Proof.Machine.execTunRegResp link cell s
  | .tunResend => Sys2Proof.Machine.execTunResend s
  | .tunnelLost => Sys2Proof.Machine.execTunnelLost s
  | .dmaCtrl h a => Sys2Proof.Machine.execDmaCtrl h a s
  | .dmaDescriptorBegin ch stores => Sys2Proof.Machine.execDmaDescriptorBegin ch stores s
  | .dmaDescriptorComplete ch => Sys2Proof.Machine.execDmaDescriptorComplete ch s
  | .dmaBusError e => Sys2Proof.Machine.execDmaBusError e s
  | .ringsStopped cause addr eventWriteFails => Sys2Proof.Machine.execRingsStopped cause addr eventWriteFails s
  | .pciePerst low => Sys2Proof.Machine.execPciePerst low s
  | .crcStart path unit value => Sys2Proof.Machine.execCrcStart path unit value s
  | .crcDataB path unit value => Sys2Proof.Machine.execCrcDataB path unit value s
  | .crcDataH path unit value => Sys2Proof.Machine.execCrcDataH path unit value s
  | .crcDataW path unit value => Sys2Proof.Machine.execCrcDataW path unit value s
  | .mbXfer h a w => Sys2Proof.Machine.execMbXfer h a w s
  | .mbAddrNackRetry bus w => Sys2Proof.Machine.execMbAddrNackRetry bus w s
  | .mbReset h bus => Sys2Proof.Machine.execMbReset h bus s
  | .mbTargetAddress bus byte => Sys2Proof.Machine.execMbTargetAddress bus byte s
  | .mbTargetByte bus byte => Sys2Proof.Machine.execMbTargetByte bus byte s
  | .mbTargetReadByte bus => Sys2Proof.Machine.execMbTargetReadByte bus s
  | .mbStop bus repeated inByte => Sys2Proof.Machine.execMbStop bus repeated inByte s
  | .mbStuck bus sclLow => Sys2Proof.Machine.execMbStuck bus sclLow s
  | .mbRstReceived bus => Sys2Proof.Machine.execMbRstReceived bus s
  | .mbRstReleaseCheck bus scl sda => Sys2Proof.Machine.execMbRstReleaseCheck bus scl sda s
  | .mbTargetRequest bus e => Sys2Proof.Machine.execMbTargetRequest bus e s
  | .mbRequestUnserved bus => Sys2Proof.Machine.execMbRequestUnserved bus s
  | .mbServeInband bus header => Sys2Proof.Machine.execMbServeInband bus header s
  | .mbAlertServe bus bytes lineLow => Sys2Proof.Machine.execMbAlertServe bus bytes lineLow s
  | .mbAraRead bus wins => Sys2Proof.Machine.execMbAraRead bus wins s
  | .mbTgtReqSet path bus value => Sys2Proof.Machine.execMbTgtReqSet path bus value s
  | .mbTgtReqClear path bus value => Sys2Proof.Machine.execMbTgtReqClear path bus value s
  | .faultQuietExpiry source inst => Sys2Proof.Machine.execFaultQuietExpiry source inst s
  | .sumpQuery h a => Sys2Proof.Machine.execSumpQuery h a s
  | .sumpClear h a => Sys2Proof.Machine.execSumpClear h a s
  | .propose path value => Sys2Proof.Machine.execPropose path value s
  | .withdraw path value => Sys2Proof.Machine.execWithdraw path value s
  | .protConfirm path value => Sys2Proof.Machine.execProtConfirm path value s
  | .protTimeout => Sys2Proof.Machine.execProtTimeout s
  | .protStoreDone => Sys2Proof.Machine.execProtStoreDone s
  | .ageQuery h resultAddr => Sys2Proof.Machine.execAgeQuery h resultAddr s
  | .ageDecide h a => Sys2Proof.Machine.execAgeDecide h a s
  | .ageVddAdjust worstPs => Sys2Proof.Machine.execAgeVddAdjust worstPs s
  | .ageSurvey r => Sys2Proof.Machine.execAgeSurvey r s
  | .powerOn compat pvinAbsent => Sys2Proof.Machine.execPowerOn compat pvinAbsent s
  | .pinReset => Sys2Proof.Machine.execPinReset s
  | .brownOut => Sys2Proof.Machine.execBrownOut s
  | .overTemperature => Sys2Proof.Machine.execOverTemperature s
  | .overTemperatureRecover compat => Sys2Proof.Machine.execOverTemperatureRecover compat s
  | .imageVerified a b => Sys2Proof.Machine.execImageVerified a b s
  | .hostReady => Sys2Proof.Machine.execHostReady s
  | .slotCheck c => Sys2Proof.Machine.execSlotCheck c s
  | .warmWrite path value => Sys2Proof.Machine.execWarmWrite path value s
  | .warmReset => Sys2Proof.Machine.execWarmReset s
  | .watchdog => Sys2Proof.Machine.execWatchdog s
  | .setupLock path value => Sys2Proof.Machine.execSetupLock path value s
  | .storeRate path value => Sys2Proof.Machine.execStoreRate path value s
  | .glbTickLoRead path => Sys2Proof.Machine.execGlbTickLoRead path s
  | .imgCommit h a => Sys2Proof.Machine.execImgCommit h a s
  | .imgCommitStepDone e => Sys2Proof.Machine.execImgCommitStepDone e s
  | .imgSelect h slot => Sys2Proof.Machine.execImgSelect h slot s
  | .cfgSet h prefId => Sys2Proof.Machine.execCfgSet h prefId s
  | .sleep h a => Sys2Proof.Machine.execSleep h a s
  | .sleepWake source => Sys2Proof.Machine.execSleepWake source s
  | .meterClear path value => Sys2Proof.Machine.execMeterClear path value s
  | .meterSrcWrite path e value => Sys2Proof.Machine.execMeterSrcWrite path e value s
  | .linkEnableWrite path link value => Sys2Proof.Machine.execLinkEnableWrite path link value s
  | .testDbgRead path value => Sys2Proof.Machine.execTestDbgRead path value s
  | .testDbgWrite path value => Sys2Proof.Machine.execTestDbgWrite path value s
  | .testDbgDone slvErr => Sys2Proof.Machine.execTestDbgDone slvErr s
  | .traceEnable path value => Sys2Proof.Machine.execTraceEnable path value s
  | .registerWrite path offset value => Sys2Proof.Machine.execRegisterWrite path offset value s
  | .refSignalDetect slot => Sys2Proof.Machine.execRefSignalDetect slot s
  | .ethLinkUp port fecLock anPause => Sys2Proof.Machine.execEthLinkUp port fecLock anPause s
  | .cellReceived link cell crc => Sys2Proof.Machine.execCellReceived link cell crc s
  | .pstageTickStep => Sys2Proof.Machine.execPstageTickStep s
  | .clampIdleRestart group => Sys2Proof.Machine.execClampIdleRestart group s
  | .dieTempRecover ch => Sys2Proof.Machine.execDieTempRecover ch s
  | .tunnelRegTimeout target rseq => Sys2Proof.Machine.execTunnelRegTimeout target rseq s
  | .mbBusFree bus w => Sys2Proof.Machine.execMbBusFree bus w s
  | .mbXferTimeout bus seq => Sys2Proof.Machine.execMbXferTimeout bus seq s
  | .mbRstDriveEnd bus => Sys2Proof.Machine.execMbRstDriveEnd bus s
  | .storeWriteDone kind => Sys2Proof.Machine.execStoreWriteDone kind s
  | .retrainSquelchEnd link => Sys2Proof.Machine.execRetrainSquelchEnd link s

end Sys2Proof.Machine
end

