-- ==== Sys2Proof/Safety.lean ====
section
/-!
DEFINITION. What the statements call a safe machine: a step that neither faults nor is refused, and the conditions on the state
that a step keeps.
-/
namespace Sys2Proof.Machine

/-- The machine does not stop at this step. -/
def Safe (s : State) : Prop := ∃ t, step s = .next t

/-- Both host memories and the scratch SRAM are in their canonical form. -/
def MemoryInv (s : State) : Prop :=
  Memory.wf s.localMem = true ∧ Memory.wf s.tunMem = true ∧ Memory.wf s.scratch = true

/-- No fence has still to be settled, no HALT latch has its stop still to come, and no partner has still to be told of a change
(R181). -/
def Settled (s : State) : Prop :=
  (s.sump.fences.all fun f => f.2) = true ∧ s.sump.haltDue = false ∧ ((fins 16).any (discoverStale s)) = false

/-- The machine once a host command's descriptor has been taken (R371, R372): the host's stores made, ACCEPT_SEQ advanced, and
an entry of its completion queue reserved. -/
def takenState (h : CmdHdr) (s : State) : State := (accept h (hostStores h.stores s)).2

/-- The ticket a taken descriptor's completion record is written with. -/
def ticketOf (h : CmdHdr) (s : State) : Ticket := (accept h (hostStores h.stores s)).1

/-- The descriptor of a host command is taken (R372) and holds no reserved bit that is not 0 (R9). -/
def Taken (h : CmdHdr) (timed : Bool) (s : State) : Prop :=
  takeable h.ring h.ordered timed (hostStores h.stores s) = true ∧ h.reservedSet = false

/-- A received cell that is this node's own (R174): a neighbour cell, or a source-routed one whose route ends here, on a link that
accepts its type. -/
def Delivered (n : Fin 16) (c : Cell) (s : State) : Prop :=
  acceptsCell s n c.ty.toNat = true ∧ (c.mode = 0 ∨ (c.mode = 1 ∧ c.hop = c.hops ∧ c.dst = s.node.id))

/-- A received flood cell that has not been seen (R174), on a link that accepts its type. -/
def FloodFresh (n : Fin 16) (c : Cell) (s : State) : Prop :=
  acceptsCell s n c.ty.toNat = true ∧ c.mode = 2 ∧ floodSeen s c = false

/-- Two register files agree on every unit but one. -/
def AgreeOff {α : Type} {n : Nat} (i : Fin n) (v w : Vector α n) : Prop := ∀ j : Fin n, j ≠ i → v[j] = w[j]

end Sys2Proof.Machine
end

