-- ==== Sys2Proof/Certificates/Slice0/Obligations.lean ====
section
/-!
DEFINITION. The statements about the CH4096 that the provers prove.
-/
open Sys2Proof Sys2Proof.Machine

/-- When command c stands at the front of the queue of waiting commands, a step is exec of c on the machine whose queue is the rest. The queue is the model's own form (DESIGN CHOICE, log 1), not a rule of the spec. What is the model's choice in it, and no rule of the spec, is logged in notes/assumptions: 1 (DESIGN CHOICE). -/
def Obligations.StepRunsFrontCommand : Prop :=
  ∀ (c : Instr) (rest : List Instr) (s : State), s.pending = c :: rest → step s = exec c { s with pending := rest }

/-- A step with an empty queue changes nothing: this is the model's own convention (DESIGN CHOICE, log 1), no rule of the spec. Time passes in TICK_BOUNDARY commands only. What is the model's choice in it, and no rule of the spec, is logged in notes/assumptions: 1 (DESIGN CHOICE), 15 (DESIGN CHOICE). -/
def Obligations.EmptyQueueIdles : Prop :=
  ∀ s : State, s.pending = [] → step s = .next s

/-- For a timed command at tick `now`: a field of 0 executes at the first tick whose schedule is open, with status OK; a field whose tick is still open executes at that tick with OK; a passed field executes at the first open tick with OK_LATE; a field more than 2^32 ticks ahead is not executed, and a taken timed command of that kind completes with BAD_ARG. A tick is passed as soon as the kerf before it has opened: the first open tick is the next one, or the one after it once the kerf of the present tick has opened. OK is status 0, OK_LATE 1, BAD_ARG 4. What is the model's choice in it, and no rule of the spec, is logged in notes/assumptions: 13 (DESIGN CHOICE). -/
def Obligations.TickFieldSchedules : Prop :=
  (∀ (s : State) (f : BitVec 64), f = 0 → schedule f s = some (openTick s, false)) ∧
  (∀ (s : State) (f : BitVec 64), 0 < f.toNat → openTick s ≤ f.toNat → f.toNat ≤ now s + 2 ^ 32 → schedule f s = some (f.toNat, false)) ∧
  (∀ (s : State) (f : BitVec 64), 0 < f.toNat → f.toNat < openTick s → schedule f s = some (openTick s, true)) ∧
  (∀ (s : State) (f : BitVec 64), now s + 2 ^ 32 < f.toNat → schedule f s = none) ∧
  (∀ s : State, openTick s = if s.time.kerf then now s + 2 else now s + 1) ∧
  (∀ t : Ticket, okOf t = if t.late then 1 else 0) ∧
  (∀ (h : CmdHdr) (f : BitVec 64) (refuse : State → Option (Nat × Nat)) (pre : Nat → Ticket → State → State) (act : Action)
      (s : State), Taken h true s → now s + 2 ^ 32 < f.toNat →
    timedCmd h f false refuse pre act s = complete (ticketOf h s) 4 0 (takenState h s))

/-- A taken ROUTE_SET, GAIN_SET, ROUTE_CLEAR, DIRECT_SET or TESTGEN_SET whose fields are valid and which its block does not refuse is held, with its fields, for the tick its tick field is scheduled for; nothing else of the machine changes but the taking of the descriptor and, for a ROUTE_SET with two non-null ends, the allocation of its destination's entry. What is the model's choice in it, and no rule of the spec, is logged in notes/assumptions: 17 (DEDUCED), 18 (DEDUCED). -/
def Obligations.RouterCommandsHeld : Prop :=
  (∀ (h : CmdHdr) (a : RouteSetArgs) (i : Fin 4) (p : Bool) (ms : Nat) (s : State) (n : Nat) (late : Bool), Taken h true s → schedule a.tick s = some (n, late) → a.input.toNat = i.val → lawField s a.law = some p → rampField s 1000 a.rampMs = some ms → dstExists s a.dest = true → (epNull a.source || srcExists s a.source) = true → gainWordValid a.gain = true → routeRefusal [{ dest := a.dest, input := i, source := a.source, power := p, ms := ms, gain := a.gain }] (takenState h s) = none →
    exec (.routeSet h a) s = .next (hold n (ticketOf h s) late (.routeSet { dest := a.dest, input := i, source := a.source, power := p, ms := ms, gain := a.gain }) (if !epNull a.source && !epNull a.dest then allocEntry a.dest.toNat (takenState h s) else takenState h s))) ∧
  (∀ (h : CmdHdr) (a : GainSetArgs) (i : Fin 4) (ms : Nat) (s : State) (n : Nat) (late : Bool), Taken h true s → schedule a.tick s = some (n, late) → a.input.toNat = i.val → rampField s 10000 a.rampMs = some ms → dstExists s a.dest = true → gainWordValid a.gain = true → directOwned (takenState h s) a.dest none = false →
    exec (.gainSet h a) s = .next (hold n (ticketOf h s) late (.gainSet a.dest i a.gain ms) (takenState h s))) ∧
  (∀ (h : CmdHdr) (a : RouteClearArgs) (p : Bool) (ms : Nat) (s : State) (n : Nat) (late : Bool), Taken h true s → schedule a.tick s = some (n, late) → lawField s a.law = some p → rampField s 1000 a.rampMs = some ms → dstExists s a.dest = true →
    exec (.routeClear h a) s = .next (hold n (ticketOf h s) late (.routeClear a.dest p ms) (takenState h s))) ∧
  (∀ (h : CmdHdr) (a : DirectSetArgs) (ch : Fin 64) (ms : Nat) (s : State) (n : Nat) (late : Bool), Taken h true s → schedule a.tick s = some (n, late) → a.channel.toNat = ch.val → rampField s 1000 a.rampMs = some ms → gainWordValid a.gain = true → (epNull a.source = true ∨ (directSource s a.source = true ∧ directDest s a.dest = true ∧ directSync (takenState h s) false a.source = true ∧ directSync (takenState h s) true a.dest = true ∧
      hasEntry (takenState h s) a.dest.toNat = false ∧ directOwned (takenState h s) a.dest (some ch) = false)) →
    exec (.directSet h a) s = .next (hold n (ticketOf h s) late (.directSet ch a.source a.dest a.gain ms) (takenState h s))) ∧
  (∀ (h : CmdHdr) (a : TestgenSetArgs) (g : Fin 16) (s : State) (n : Nat) (late : Bool), Taken h true s → schedule a.tick s = some (n, late) → a.gen.toNat = g.val → a.wave.toNat ≤ 3 → gainWordValid a.level = true → (a.wave.toNat = 1 → 1 ≤ a.freq.toNat ∧ a.freq.toNat ≤ 500 * fs s) → (a.wave.toNat = 2 → a.seed ≠ 0) →
    exec (.testgenSet h a) s = .next (hold n (ticketOf h s) late (.testgenSet g a) (takenState h s)))

/-- A taken ROUTE_BATCH of 1 to 4,096 entries at an 8-byte aligned address, of the version of the mode, whose whole list reads as valid entries and is not refused, is held with that list, and the destinations it newly needs get their entries. A taken ROUTE_QUERY of an existing destination joins the queries answered at the next boundary, and changes nothing else. What is the model's choice in it, and no rule of the spec, is logged in notes/assumptions: 17 (DEDUCED), 20 (DEDUCED), 141 (DESIGN CHOICE). -/
def Obligations.RouteBatchHeldAndQueryQueued : Prop :=
  (∀ (h : CmdHdr) (a : RouteBatchArgs) (l : List RouteAct) (s : State) (n : Nat) (late : Bool), Taken h true s →
    schedule a.tick s = some (n, late) → dmaHalted s = false → aligned8 a.addr = true → 1 ≤ a.count.toNat → a.count.toNat ≤ 4096 →
    (a.version.toNat = if s.power.compat then 1 else 2) →
    batchList (hostStores h.stores s) (!s.power.compat) a.addr.toNat a.count.toNat = some l → routeRefusal l (takenState h s) = none →
    exec (.routeBatch h a) s = .next (hold n (ticketOf h s) late (.routeBatch l)
      ((newDests (takenState h s) l).foldl (fun u d => allocEntry d u) (takenState h s)))) ∧
  (∀ (h : CmdHdr) (dest : BitVec 16) (addr : BitVec 64) (s : State), Taken h false s → dstExists s dest = true →
    exec (.routeQuery h dest addr) s = .next
      { takenState h s with router := { (takenState h s).router with
          queries := (takenState h s).router.queries ++ [{ ticket := ticketOf h s, dest := dest, addr := addr }] } })

/-- At its boundary, with N > 0 samples of ramp: toward a null source every tap of the input falls from the factor it has; toward the source of a tap it holds, that tap rises from its factor with its gain ramping to GAIN while its other taps fall; toward a new source with fewer than four taps held, a new tap rises from factor 0 with GAIN and every other tap of the input falls; with four taps held nothing changes and the command completes with NO_TAP (0x41). The taps of the other inputs stay as they are. What is the model's choice in it, and no rule of the spec, is logged in notes/assumptions: 12 (DEDUCED), 19 (DEDUCED), 21 (DESIGN CHOICE). -/
def Obligations.RouteSetAtItsBoundary : Prop :=
  (∀ (taps : List Tap) (a : RouteAct) (n : Nat), 0 < n → epNull a.source = true → ∃ l, routeChange taps a n = some l ∧
    l = (taps.filter fun t => t.input ≠ a.input) ++ (taps.filter fun t => t.input = a.input).map fun t =>
      { t with f0 := t.factorAt t.j, up := false, power := a.power, n := n, j := 0 }) ∧
  (∀ (taps : List Tap) (a : RouteAct) (n : Nat) (t : Tap) (more : List Tap), 0 < n → epNull a.source = false →
    ((taps.filter fun t => t.input = a.input).filter fun t => t.source = a.source) = t :: more →
    ∃ l, routeChange taps a n = some l ∧ l = (taps.filter fun t => t.input ≠ a.input) ++
      { t with f0 := t.factorAt t.j, up := true, power := a.power, n := n, j := 0, gain := t.gain.rampTo a.gain n } ::
      ((taps.filter fun t => t.input = a.input).filter fun t => t.source ≠ a.source).map fun t =>
        { t with f0 := t.factorAt t.j, up := false, power := a.power, n := n, j := 0 }) ∧
  (∀ (taps : List Tap) (a : RouteAct) (n : Nat), 0 < n → epNull a.source = false →
    (∀ t ∈ taps, t.input = a.input → t.source ≠ a.source) → taps.length < 4 →
    ∃ l, routeChange taps a n = some l ∧ l = (taps.filter fun t => t.input ≠ a.input) ++
      ((taps.filter fun t => t.input = a.input).map fun t =>
        { t with f0 := t.factorAt t.j, up := false, power := a.power, n := n, j := 0 }) ++
      [{ source := a.source, input := a.input, gain := Gain.ofWord a.gain, f0 := 0, up := true, power := a.power, n := n, j := 0 }]) ∧
  (∀ (taps : List Tap) (a : RouteAct) (n : Nat), 0 < n → epNull a.source = false →
    (∀ t ∈ taps, t.input = a.input → t.source ≠ a.source) → 4 ≤ taps.length → routeChange taps a n = none) ∧
  (∀ (t : Ticket) (won : Obj → Bool) (a : RouteAct) (s : State) (l : List Tap), epNull a.dest = false →
    routeChange (routeTaps s a.dest.toNat) a (rampSamples (fs s) (spt s) a.ms) = some l → l ≠ [] →
    applyAction t won (.routeSet a) s = complete t (okOf t) 0 (setTaps a.dest.toNat l s)) ∧
  (∀ (t : Ticket) (won : Obj → Bool) (a : RouteAct) (s : State), epNull a.dest = false →
    routeChange (routeTaps s a.dest.toNat) a (rampSamples (fs s) (spt s) a.ms) = none →
    applyAction t won (.routeSet a) s = complete t 0x41 0 s)

/-- A GAIN_SET ramps the gain of the input's current tap (the rising one, or the steady one) and no other tap, and completes with BAD_ARG where there is none. A ROUTE_CLEAR with a ramp makes every tap of the destination fall, whatever its input. A DIRECT_SET on an inactive channel ramps from mute to GAIN; with the same ends it ramps to GAIN; with other ends it ramps to mute first and keeps the change for the end of that ramp; a null source ramps to mute and releases. A destination that the router or another channel holds gives ENDPOINT_OWNED (0x42). TESTGEN_SET loads its waveform with phase 0 and the LFSR at SEED. What is the model's choice in it, and no rule of the spec, is logged in notes/assumptions: 12 (DEDUCED), 19 (DEDUCED), 21 (DESIGN CHOICE). -/
def Obligations.GainClearDirectAtTheirBoundary : Prop :=
  (∀ (t : Ticket) (won : Obj → Bool) (d : BitVec 16) (i : Fin 4) (g : Word) (ms : Nat) (s : State) (c : Tap),
    currentTap (routeTaps s d.toNat) i = some c → applyAction t won (.gainSet d i g ms) s = complete t (okOf t) 0
      (setTaps d.toNat ((routeTaps s d.toNat).map fun x =>
        if x = c then { x with gain := x.gain.rampTo g (rampSamples (fs s) (spt s) ms) } else x) s)) ∧
  (∀ (t : Ticket) (won : Obj → Bool) (d : BitVec 16) (i : Fin 4) (g : Word) (ms : Nat) (s : State),
    currentTap (routeTaps s d.toNat) i = none → applyAction t won (.gainSet d i g ms) s = complete t 4 0 s) ∧
  (∀ (taps : List Tap) (i : Fin 4), (∀ t ∈ taps, t.input = i → t.n ≠ 0 ∧ t.up = false) → currentTap taps i = none) ∧
  (∀ (t : Ticket) (won : Obj → Bool) (d : BitVec 16) (p : Bool) (ms : Nat) (s : State) (taps : List Tap), (∀ o, won o = false) →
    mapGet s.router.routes d.toNat = some taps → 0 < rampSamples (fs s) (spt s) ms →
    applyAction t won (.routeClear d p ms) s = complete t (okOf t) 0 (setTaps d.toNat (taps.map fun x =>
      { x with f0 := x.factorAt x.j, up := false, power := p, n := rampSamples (fs s) (spt s) ms, j := 0 }) s)) ∧
  (∀ (x : Direct) (a b : BitVec 16) (g : Word) (n : Nat) (y : Blk), x.ends = none → epNull a = false →
    directChange x a b g n y = { x with ends := some (a, b), gain := Gain.mute.rampTo g n, next := none, releasing := false, left := 0, last := y.samples.getLastD 0, lastValid := y.valid }) ∧
  (∀ (x : Direct) (a b : BitVec 16) (g : Word) (n : Nat) (y : Blk), x.ends = some (a, b) → epNull a = false →
    directChange x a b g n y = { x with gain := x.gain.rampTo g n, next := none, releasing := false, left := 0 }) ∧
  (∀ (x : Direct) (e : BitVec 16 × BitVec 16) (a b : BitVec 16) (g : Word) (n : Nat) (y : Blk), x.ends = some e → e ≠ (a, b) →
    epNull a = false → 0 < n → directChange x a b g n y =
      { x with gain := x.gain.rampTo x.gain.muteWord n, next := some { source := a, dest := b, gain := g, n := n }, releasing := false, left := n }) ∧
  (∀ (x : Direct) (e : BitVec 16 × BitVec 16) (a b : BitVec 16) (g : Word) (n : Nat) (y : Blk), x.ends = some e → epNull a = true → 0 < n →
    directChange x a b g n y = { x with gain := x.gain.rampTo x.gain.muteWord n, next := none, releasing := true, left := n }) ∧
  (∀ (t : Ticket) (won : Obj → Bool) (c : Fin 64) (a b : BitVec 16) (g : Word) (ms : Nat) (s : State), epNull a = false →
    (mapGet s.router.routes b.toNat).isSome = true ∨ directOwned s b (some c) = true →
    applyAction t won (.directSet c a b g ms) s = complete t 0x42 0 s) ∧
  (∀ (t : Ticket) (won : Obj → Bool) (c : Fin 64) (a b : BitVec 16) (g : Word) (ms : Nat) (s : State),
    (epNull a = true ∨ ((mapGet s.router.routes b.toNat).isSome = false ∧ directOwned s b (some c) = false)) →
    applyAction t won (.directSet c a b g ms) s = complete t (okOf t) 0
      { s with router := { s.router with
          directs := vset s.router.directs c (directChange s.router.directs[c] a b g (rampSamples (fs s) (spt s) ms) (sourceBlk s a.toNat)) } }) ∧
  (∀ (t : Ticket) (won : Obj → Bool) (g : Fin 16) (a : TestgenSetArgs) (s : State), ∃ x : TestGen,
    applyAction t won (.testgenSet g a) s = complete t (okOf t) 0 { s with router := { s.router with gens := vset s.router.gens g x } } ∧
    x.wave = a.wave.toNat ∧ x.gain = a.level ∧ x.phase = 0 ∧ x.lfsr = a.seed ∧
    (a.wave.toNat = 1 → x.step = BitVec.ofNat 32 (roundDiv (a.freq.toNat * 2 ^ 32 : Nat) (1000 * fs s)).toNat))

/-- A taken TILE_LOAD of a tile with no swap pending and no load running empties the standby page and asks for the image. When the image has been read (over the tunnel, when its data has come) CRC_7 is left with its check value; if it checks, TILE_LOAD_COMPLETE puts it into the standby page, writes its INIT regions into data memory and completes with OK and its count; an image that fails its checks completes with their status and leaves the page empty. TILE_CLEAR empties the standby page and completes with OK. DMEM_READ and RAMP_QUERY join the tile's copies of the next boundary. The other tiles and the rest of the machine stay as they are. What is the model's choice in it, and no rule of the spec, is logged in notes/assumptions: 17 (DEDUCED), 28 (DEDUCED), 30 (DEDUCED), 31 (DESIGN CHOICE), 112 (DESIGN CHOICE), 147 (DESIGN CHOICE), 148 (DESIGN CHOICE). -/
def Obligations.TileLoadsAndQueriesTaken : Prop :=
  (∀ (h : CmdHdr) (a : TileLoadArgs) (n : Fin 16) (s : State), Taken h false s → a.tile.toNat = n.val → aligned8 a.addr = true →
    pageBusy (takenState h s) n = false → dmaHalted (takenState h s) = false →
    exec (.tileLoad h a) s = .next (tileMod n (fun x =>
      { x with load := some { ticket := ticketOf h s, addr := a.addr, length := a.length.toNat } })
      (hostReadReq a.addr.toNat (imageBytes a.length.toNat)
        (tileMod n (fun x => { x with pages := vset x.pages (standby x) none }) (takenState h s))))) ∧
  (∀ (n : Fin 16) (l : TileLoad) (pg : Page) (init : List (Nat × List Word)) (s : State), s.tiles[n].load = some l → dmaHalted s = false →
    l.length ≤ 0x300000 → readWaits (.dma 32) l.addr.toNat l.length s = false →
    checkImage s s.tiles[n].page l.length (hostRead s l.addr.toNat l.length) = .good pg init →
    exec (.tileLoadComplete n) s = .next (complete l.ticket 0 pg.count (tileMod n (fun t =>
      { t with pages := vset t.pages (standby t) (some pg), mem := init.foldl (fun m e => mapPutList 0 m e.1 e.2) t.mem })
      (crcLeft 7 (crc32c (imageCrcBytes (hostRead s l.addr.toNat l.length))) (imageCrcBytes (hostRead s l.addr.toNat l.length)).length
        (tileMod n (fun t => { t with load := none }) s))))) ∧
  (∀ (n : Fin 16) (l : TileLoad) (st sp : Nat) (s : State), s.tiles[n].load = some l → dmaHalted s = false → l.length ≤ 0x300000 →
    readWaits (.dma 32) l.addr.toNat l.length s = false → checkImage s s.tiles[n].page l.length (hostRead s l.addr.toNat l.length) = .bad st sp →
    exec (.tileLoadComplete n) s = .next (complete l.ticket st sp
      (crcLeft 7 (crc32c (imageCrcBytes (hostRead s l.addr.toNat l.length))) (imageCrcBytes (hostRead s l.addr.toNat l.length)).length
        (tileMod n (fun t => { t with load := none }) s)))) ∧
  (∀ (h : CmdHdr) (tile : Byte) (n : Fin 16) (s : State), Taken h false s → tile.toNat = n.val → pageBusy (takenState h s) n = false →
    exec (.tileClear h tile) s = .next (complete (ticketOf h s) 0 0
      (tileMod n (fun x => { x with pages := vset x.pages (standby x) none }) (takenState h s)))) ∧
  (∀ (h : CmdHdr) (tile : Byte) (n : Fin 16) (s : State), Taken h false s → tile.toNat = n.val → pageBusy (takenState h s) n = true →
    exec (.tileClear h tile) s = .next (complete (ticketOf h s) 0x44 0 (takenState h s))) ∧
  (∀ (h : CmdHdr) (a : DmemReadArgs) (n : Fin 16) (s : State), Taken h false s → a.tile.toNat = n.val → 1 ≤ a.count.toNat →
    a.count.toNat ≤ 256 → a.resultAddr.toNat % 4 = 0 →
    exec (.dmemRead h a) s = .next (tileMod n (fun x => { x with reads := x.reads ++ [{ ticket := ticketOf h s, waddr := a.waddr.toNat, count := a.count.toNat, addr := a.resultAddr }] }) (takenState h s))) ∧
  (∀ (h : CmdHdr) (tile : Byte) (addr : BitVec 64) (n : Fin 16) (s : State), Taken h false s → tile.toNat = n.val →
    exec (.rampQuery h tile addr) s =
      .next (tileMod n (fun x => { x with queries := x.queries ++ [(ticketOf h s, addr)] }) (takenState h s)))

/-- A taken TILE_SWAP of a non-zero mask whose tiles have a loaded standby page and no load running, a taken PARAM_WRITE of inline words that all lie in PARAM regions, and a taken RAMP_SET of valid fields on an unfenced tile are held for the tick their tick field is scheduled for; nothing else changes but the taking of the descriptor. A swap is refused with PAGE_BUSY (0x44) while a named tile loads and with PAGE_EMPTY (0x45) when one is empty, and a parameter word outside every PARAM region with NOT_PARAM (0x46). What is the model's choice in it, and no rule of the spec, is logged in notes/assumptions: 17 (DEDUCED), 25 (DEDUCED), 27 (DEDUCED). -/
def Obligations.TileTimedCommandsHeld : Prop :=
  (∀ (h : CmdHdr) (tick : BitVec 64) (mask : BitVec 16) (s : State) (n : Nat) (late : Bool), Taken h true s → schedule tick s = some (n, late) → mask ≠ 0 → (∀ n : Fin 16, n ∈ maskUnits 16 mask.toNat → s.tiles[n].load = none ∧ s.tiles[n].standbyPage ≠ none) →
    exec (.tileSwap h tick mask) s = .next (hold n (ticketOf h s) late (.tileSwap mask) (takenState h s))) ∧
  (∀ (h : CmdHdr) (tick : BitVec 64) (mask : BitVec 16) (k : Fin 16) (s : State) (n : Nat) (late : Bool), Taken h true s →
    schedule tick s = some (n, late) → mask ≠ 0 → k ∈ maskUnits 16 mask.toNat → s.tiles[k].load ≠ none →
    exec (.tileSwap h tick mask) s = .next (complete (ticketOf h s) 0x44 0 (takenState h s))) ∧
  (∀ (h : CmdHdr) (tick : BitVec 64) (mask : BitVec 16) (k : Fin 16) (s : State) (n : Nat) (late : Bool), Taken h true s →
    schedule tick s = some (n, late) → mask ≠ 0 → (∀ j : Fin 16, j ∈ maskUnits 16 mask.toNat → s.tiles[j].load = none) →
    k ∈ maskUnits 16 mask.toNat → s.tiles[k].standbyPage = none →
    exec (.tileSwap h tick mask) s = .next (complete (ticketOf h s) 0x45 0 (takenState h s))) ∧
  (∀ (h : CmdHdr) (a : ParamWriteArgs) (k : Fin 16) (s : State) (n : Nat) (late : Bool), Taken h true s → schedule a.tick s = some (n, late) → a.tile.toNat = k.val → a.inline_ = true → paramBad a = false → (∀ w ∈ paramWords a a.data, s.tiles[k].isParam w.1 = true) →
    exec (.paramWrite h a) s = .next (hold n (ticketOf h s) late (.paramWrite k (paramWords a a.data)) (takenState h s))) ∧
  (∀ (h : CmdHdr) (a : ParamWriteArgs) (k : Fin 16) (s : State) (n : Nat) (late : Bool), Taken h true s →
    schedule a.tick s = some (n, late) → a.tile.toNat = k.val → a.inline_ = true → paramBad a = false →
    (∃ w ∈ paramWords a a.data, s.tiles[k].isParam w.1 = false) →
    exec (.paramWrite h a) s = .next (complete (ticketOf h s) 0x46 0 (takenState h s))) ∧
  (∀ (h : CmdHdr) (a : RampSetArgs) (k : Fin 16) (u : Fin 64) (ms : Nat) (s : State) (n : Nat) (late : Bool), Taken h true s → schedule a.tick s = some (n, late) → a.tile.toNat = k.val → a.unit.toNat = u.val → rampBad s a = false → rampField s 10000 a.rampMs = some ms → fenced s (.tile k) = false → (a.release = true ∨ ∀ w ∈ (rampSet a).words (spt s), s.tiles[k].isParam w = true) →
    exec (.rampSet h a) s = .next (hold n (ticketOf h s) late (.rampSet k u a ms) (takenState h s)))

/-- A TILE_SWAP whose tiles are not fenced and have a loaded standby page toggles ACTIVE_PAGE of each, sets bank B to the new background program with its counters inactive and no result in flight, clears the vectors, accumulators and pointers of a bank whose CLEAR flag the new image has, and leaves data memory and ramp units as they are; otherwise it completes with TILE_FENCED (0x48) or PAGE_EMPTY (0x45) and swaps nothing. A PARAM_WRITE whose words all lie in PARAM regions, are bound to no ramp unit and to no power limit writes each word, and nothing else. A RAMP_SET with RELEASE unbinds its unit. What is the model's choice in it, and no rule of the spec, is logged in notes/assumptions: 22 (DEDUCED), 23 (DEDUCED), 27 (DEDUCED), 149 (DESIGN CHOICE). -/
def Obligations.TileCommandsAtTheirBoundary : Prop :=
  (∀ (t : Tile), t.swap.active = 1 - t.active ∧ t.swap.mem = t.mem ∧ t.swap.units = t.units ∧ t.swap.pages = t.pages ∧
    t.swap.comm = t.comm ∧ t.swap.bankB.flights = [] ∧ t.swap.bankB.ctr = Vector.replicate 4 none ∧ t.swap.bankB.rbase = 0) ∧
  (∀ (t : Tile) (pg : Page), t.standbyPage = some pg → (pg.clearT = true → t.swap.bankT.v = [] ∧ t.swap.bankT.a = [] ∧
      t.swap.bankT.p = Vector.replicate 8 Ptr.reset) ∧ (pg.clearT = false → t.swap.bankT = t.bankT) ∧
    (pg.clearB = false → t.swap.bankB.v = t.bankB.v ∧ t.swap.bankB.a = t.bankB.a ∧ t.swap.bankB.p = t.bankB.p) ∧
    t.swap.bankB.pc = pg.bgProg.elim 0 (·.1)) ∧
  (∀ (l : List (Fin 16)) (s : State), (∀ n ∈ l, fenced s (.tile n) = false ∧ s.tiles[n].standbyPage ≠ none) →
    applySwap l s = (0, l.foldl (fun u n => tileMod n Tile.swap u) s)) ∧
  (∀ (l : List (Fin 16)) (n : Fin 16) (s : State), n ∈ l → fenced s (.tile n) = true → applySwap l s = (0x48, s)) ∧
  (∀ (l : List (Fin 16)) (n : Fin 16) (s : State), (∀ m ∈ l, fenced s (.tile m) = false) → n ∈ l → s.tiles[n].standbyPage = none →
    applySwap l s = (0x45, s)) ∧
  (∀ (n : Fin 16) (l : List (Nat × Word)) (s : State), (∀ w ∈ l, s.tiles[n].isParam w.1 = true ∧
      s.tiles[n].rampBound (spt s) none w.1 = false ∧ limitBound s n w.1 = false) →
    applyParams n l s = (0, l.foldl (fun u w => tileMod n (fun t => { t with mem := dmemWrite t.mem w.1 w.2 }) u) s)) ∧
  (∀ (n : Fin 16) (l : List (Nat × Word)) (w : Nat × Word) (s : State), w ∈ l → s.tiles[n].isParam w.1 = false →
    applyParams n l s = (0x46, s)) ∧
  (∀ (n : Fin 16) (u : Fin 64) (a : RampSetArgs) (ms : Nat) (s : State), fenced s (.tile n) = false → a.release = true →
    applyRampSet n u a ms s = (0, tileMod n (fun t => { t with units := vset t.units u RampUnit.reset }) s))

/-- With fields in range: BENCH_CREATE of a new bench whose quota fits in 7,936 granules with all quotas sets it up with no granule and completes with OK, and with REFUSED_QUOTA (2) where it does not fit. BENCH_QUOTA sets the quota and marks the bench OVER_QUOTA when it holds more granules. BENCH_DELETE removes a bench without objects. OBJ_ALLOC with free channels, a free handle and granules within the quota adds the object in its initial state under an unused handle that is a free value, and completes with the handle and the extents; a bound channel is refused with 0x42, a missing bench with NO_BENCH (0x40). BENCH_QUERY waits for the boundary. What is the model's choice in it, and no rule of the spec, is logged in notes/assumptions: 3 (DESIGN CHOICE), 17 (DEDUCED), 33 (DESIGN CHOICE), 34 (DEDUCED), 35 (DEDUCED). -/
def Obligations.BenchesAndObjectsAllocated : Prop :=
  (∀ (h : CmdHdr) (b : Byte) (q : Word) (s : State), Taken h false s → b.toNat < 64 → 1 ≤ q.toNat → q.toNat ≤ 7936 → benchOf (takenState h s) b.toNat = none → quotaSum (takenState h s) + q.toNat ≤ 7936 →
    exec (.benchCreate h b q) s = .next (complete (ticketOf h s) 0 0 (setBench b.toNat { quota := q.toNat, granules := [], overQuota := false } (takenState h s)))) ∧
  (∀ (h : CmdHdr) (b : Byte) (q : Word) (s : State), Taken h false s → b.toNat < 64 → 1 ≤ q.toNat → q.toNat ≤ 7936 → benchOf (takenState h s) b.toNat = none → 7936 < quotaSum (takenState h s) + q.toNat →
    exec (.benchCreate h b q) s = .next (complete (ticketOf h s) 2 0 (takenState h s))) ∧
  (∀ (h : CmdHdr) (b : Byte) (q : Word) (x : Bench) (s : State), Taken h false s → b.toNat < 64 → 1 ≤ q.toNat → q.toNat ≤ 7936 → benchOf (takenState h s) b.toNat = some x → (q.toNat ≤ x.quota ∨ quotaSum (takenState h s) - x.quota + q.toNat ≤ 7936) →
    exec (.benchQuota h b q) s = .next (complete (ticketOf h s) 0 0 (setBench b.toNat { x with quota := q.toNat, overQuota := x.overQuota || decide (q.toNat < x.granules.length) } (takenState h s)))) ∧
  (∀ (h : CmdHdr) (b : Byte) (x : Bench) (s : State), Taken h false s → b.toNat < 64 → benchOf (takenState h s) b.toNat = some x → (∀ e ∈ s.mem.objs, e.2.bench.val ≠ b.toNat) →
    exec (.benchDelete h b) s = .next (complete (ticketOf h s) 0 0 { (takenState h s) with mem := { s.mem with benches := mapErase s.mem.benches b.toNat } })) ∧
  (∀ (h : CmdHdr) (a : ObjAllocArgs) (bn : Fin 64) (b : Bench) (s : State), Taken h false s → allocBad (takenState h s) a = false →
    a.bench.toNat = bn.val → benchOf s bn.val = some b → a.channel.toNat + a.channels.toNat ≤ 4096 →
    (∀ i, i < a.channels.toNat → chanBound s (a.channel.toNat + i) = false) → s.mem.objs.length < 8192 →
    b.granules.length + b.newGranules (objExtents s a) ≤ b.quota → mappedAll s + b.newGranules (objExtents s a) ≤ 7936 →
    ∃ (hd : Nat) (gs : List (List (Nat × Nat))) (f : Nat),
      exec (.objAlloc h a) s = .next (complete (ticketOf h s) 0 (hd + objExtents s a * 65536)
        (setObj hd { bench := bn, kind := newKind a.ty.toNat, chan := a.channel.toNat, chans := a.channels.toNat, size := a.size.toNat, extents := objExtents s a, words := [] }
          (setBench bn.val { b with granules := gs } { takenState h s with free := f })))) ∧
  (∀ (h : CmdHdr) (a : ObjAllocArgs) (bn : Fin 64) (s : State), Taken h false s → allocBad (takenState h s) a = false → a.bench.toNat = bn.val → benchOf (takenState h s) bn.val = none →
    exec (.objAlloc h a) s = .next (complete (ticketOf h s) 0x40 0 (takenState h s))) ∧
  (∀ (h : CmdHdr) (a : ObjAllocArgs) (bn : Fin 64) (b : Bench) (i : Nat) (s : State), Taken h false s → allocBad (takenState h s) a = false → a.bench.toNat = bn.val → benchOf (takenState h s) bn.val = some b → i < a.channels.toNat → chanBound (takenState h s) (a.channel.toNat + i) = true →
    exec (.objAlloc h a) s = .next (complete (ticketOf h s) 0x42 0 (takenState h s))) ∧
  (∀ (h : CmdHdr) (b : Fin 64) (bench : Byte) (hd : BitVec 16) (addr : BitVec 64) (x : Bench) (s : State), Taken h false s → bench.toNat = b.val → aligned8 addr = true → benchOf (takenState h s) b.val = some x → (hd = 0 ∨ ∃ o, objOf (takenState h s) hd.toNat = some o ∧ o.bench = b) →
    exec (.benchQuery h bench hd addr) s = .next ({ (takenState h s) with mem := { s.mem with queries := s.mem.queries ++ [{ ticket := (ticketOf h s), bench := b, handle := hd.toNat, addr := addr }] } }))

/-- A taken OBJ_FREE of an object, and a taken DELAY_SET, PLAY_START, PLAY_STOP, CAPTURE_CTRL or SNAP_TAKE of an object of the type it needs (delay line 1, clip 2, ring 3, snapshot 4) with fields in range, is held with its fields for the tick its tick field is scheduled for. A missing object is refused with NO_OBJECT (0x41) and an object of another type with WRONG_TYPE (0x46). Nothing else changes but the taking of the descriptor. What is the model's choice in it, and no rule of the spec, is logged in notes/assumptions: 17 (DEDUCED), 34 (DEDUCED), 36 (DEDUCED), 37 (DEDUCED). -/
def Obligations.BenchTimedCommandsHeld : Prop :=
  (∀ (h : CmdHdr) (tick : BitVec 64) (hd : BitVec 16) (o : BObj) (s : State) (n : Nat) (late : Bool), Taken h true s → schedule tick s = some (n, late) → objOf s hd.toNat = some o →
    exec (.objFree h tick hd) s = .next (hold n (ticketOf h s) late (.objFree hd.toNat) (takenState h s))) ∧
  (∀ (h : CmdHdr) (tick : BitVec 64) (hd : BitVec 16) (s : State) (n : Nat) (late : Bool), Taken h true s → schedule tick s = some (n, late) → objOf s hd.toNat = none →
    exec (.objFree h tick hd) s = .next (complete (ticketOf h s) 0x41 0 (takenState h s))) ∧
  (∀ (h : CmdHdr) (a : DelaySetArgs) (o : BObj) (p : Bool) (ms : Nat) (s : State) (n : Nat) (late : Bool), Taken h true s → schedule a.tick s = some (n, late) → objOf s a.handle.toNat = some o → o.kind.code = 1 → a.delay.toNat ≤ o.size → a.law.toNat < 4 → a.mode.toNat ≤ 1 → lawField s (BitVec.ofNat 2 a.law.toNat) = some p → rampField s 1000 a.rampMs = some ms →
    exec (.delaySet h a) s = .next (hold n (ticketOf h s) late (.delaySet a.handle.toNat (decide (a.mode = 1)) p a.delay.toNat ms) (takenState h s))) ∧
  (∀ (h : CmdHdr) (a : DelaySetArgs) (o : BObj) (p : Bool) (ms : Nat) (s : State) (n : Nat) (late : Bool), Taken h true s → schedule a.tick s = some (n, late) → objOf s a.handle.toNat = some o → o.kind.code ≠ 1 → a.law.toNat < 4 → a.mode.toNat ≤ 1 → lawField s (BitVec.ofNat 2 a.law.toNat) = some p → rampField s 1000 a.rampMs = some ms →
    exec (.delaySet h a) s = .next (complete (ticketOf h s) 0x46 0 (takenState h s))) ∧
  (∀ (h : CmdHdr) (a : PlayStartArgs) (o : BObj) (ms : Nat) (s : State) (n : Nat) (late : Bool), Taken h true s → schedule a.tick s = some (n, late) → objOf s a.handle.toNat = some o → o.kind.code = 2 → a.startFrame.toNat < o.size → a.loopStart.toNat < o.size → gainWordValid a.gain = true → rampField s 1000 a.rampMs = some ms →
    exec (.playStart h a) s = .next (hold n (ticketOf h s) late (.playStart a.handle.toNat (if a.loop then some a.loopStart.toNat else none) a.startFrame.toNat a.gain ms) (takenState h s))) ∧
  (∀ (h : CmdHdr) (tick : BitVec 64) (hd r : BitVec 16) (o : BObj) (ms : Nat) (s : State) (n : Nat) (late : Bool), Taken h true s → schedule tick s = some (n, late) → objOf s hd.toNat = some o → o.kind.code = 2 → rampField s 1000 r = some ms →
    exec (.playStop h tick hd r) s = .next (hold n (ticketOf h s) late (.playStop hd.toNat ms) (takenState h s))) ∧
  (∀ (h : CmdHdr) (tick : BitVec 64) (hd r : BitVec 16) (ms : Nat) (s : State) (n : Nat) (late : Bool), Taken h true s → schedule tick s = some (n, late) → objOf s hd.toNat = none → rampField s 1000 r = some ms →
    exec (.playStop h tick hd r) s = .next (complete (ticketOf h s) 0x41 0 (takenState h s))) ∧
  (∀ (h : CmdHdr) (a : CaptureCtrlArgs) (o : BObj) (s : State) (n : Nat) (late : Bool), Taken h true s → schedule a.tick s = some (n, late) → objOf s a.handle.toNat = some o → o.kind.code = 3 → 1 ≤ a.action.toNat → a.action.toNat ≤ 3 → (a.action.toNat = 3 ∨ a.startFrame.toNat < o.size) →
    exec (.captureCtrl h a) s = .next (hold n (ticketOf h s) late (.captureCtrl a.handle.toNat a.action.toNat a.startFrame.toNat) (takenState h s))) ∧
  (∀ (h : CmdHdr) (a : SnapTakeArgs) (o : BObj) (l : List SnapItem) (s : State) (n : Nat) (late : Bool), Taken h true s → schedule a.tick s = some (n, late) → 1 ≤ a.count.toNat → a.count.toNat ≤ 256 → aligned8 a.addr = true → dmaHalted s = false → objOf s a.handle.toNat = some o → o.kind.code = 4 → snapList (hostStores h.stores s) a.addr.toNat a.count.toNat = some l → l.foldl (fun x i => x + i.count) 0 ≤ o.size →
    exec (.snapTake h a) s = .next (hold n (ticketOf h s) late (.snapTake a.handle.toNat l) (takenState h s)))

/-- With fields in range on a clip, ring or snapshot that the range fits: BENCH_WRITE of an object that neither plays nor captures writes the host's words into it and completes with OK (BUSY, 0x44, while it does); BENCH_READ with no DRAM error writes the object's words to the host, reads the last byte back and completes with OK. A stretch of the scrubber counts its errors and shows its progress; at 100 % it counts a pass and starts again. The object's other words stay, and so does everything else. What is the model's choice in it, and no rule of the spec, is logged in notes/assumptions: 17 (DEDUCED), 39 (DEDUCED), 40 (DEDUCED), 171 (DEDUCED). -/
def Obligations.BenchDataMoved : Prop :=
  (∀ (h : CmdHdr) (a : BenchDataArgs) (o : BObj) (s : State), Taken h false s → dataBad a = false → objOf (takenState h s) a.handle.toNat = some o → o.kind.code ≠ 1 → a.offset.toNat + a.length.toNat ≤ 4 * o.wordCount → o.kind.busy = false → dmaHalted (takenState h s) = false →
    exec (.benchWrite h a) s = .next (complete (ticketOf h s) 0 0 (setObj a.handle.toNat
      { o with
        words := mapPutList 0 o.words (a.offset.toNat / 4) ((List.range (a.length.toNat / 4)).map fun i => BitVec.ofNat 32 (ofLe (((hostRead (takenState h s) a.addr.toNat a.length.toNat).drop (4 * i)).take 4))) } (takenState h s)))) ∧
  (∀ (h : CmdHdr) (a : BenchDataArgs) (o : BObj) (s : State), Taken h false s → dataBad a = false → objOf (takenState h s) a.handle.toNat = some o → o.kind.code ≠ 1 → a.offset.toNat + a.length.toNat ≤ 4 * o.wordCount → o.kind.busy = true →
    exec (.benchWrite h a) s = .next (complete (ticketOf h s) 0x44 0 (takenState h s))) ∧
  (∀ (h : CmdHdr) (a : BenchDataArgs) (o : BObj) (s : State), Taken h false s → dataBad a = false → objOf (takenState h s) a.handle.toNat = some o → o.kind.code ≠ 1 → a.offset.toNat + a.length.toNat ≤ 4 * o.wordCount → dmaHalted (takenState h s) = false → hifMode (takenState h s) ≠ 2 →
    exec (.benchRead h a []) s = .next (complete (ticketOf h s) 0 0 (setHostMem (memWrite (hostMem (takenState h s)) a.addr.toNat
      ((List.range (a.length.toNat / 4)).flatMap fun i => leBytes 4 (mapGetD 0 o.words (a.offset.toNat / 4 + i)).toNat)) (takenState h s)))) ∧
  (∀ (h : CmdHdr) (a : BenchDataArgs) (o : BObj) (u : State) (s : State), Taken h false s → dataBad a = false → objOf (takenState h s) a.handle.toNat = some o → o.kind.code ≠ 1 → a.offset.toNat + a.length.toNat ≤ 4 * o.wordCount → dmaHalted (takenState h s) = false → hifMode (takenState h s) = 2 → u = useRead (.result (ticketOf h s).order) (a.addr.toNat + a.length.toNat - 1) 1 (useWrite (.result (ticketOf h s).order) a.addr.toNat ((List.range (a.length.toNat / 4)).flatMap fun i => leBytes 4 (mapGetD 0 o.words (a.offset.toNat / 4 + i)).toNat) (takenState h s)) →
    exec (.benchRead h a []) s = .next ({ u with tun := { u.tun with results := u.tun.results ++ [{ ticket := (ticketOf h s), status := 0, specific := 0, tick := none }] } })) ∧
  (∀ (errors : List DramError) (p : BitVec 7) (s : State), regBit s Reg.scrubCtrl 0 = true → s.power.state = .running → p.toNat < 100 →
    exec (.scrub errors p) s = .next (regSetFld Reg.scrubStat 30 24 p.toNat (errors.foldl (fun u e => dramError e u) s))) ∧
  (∀ (errors : List DramError) (p : BitVec 7) (s : State), regBit s Reg.scrubCtrl 0 = true → s.power.state = .running → 100 ≤ p.toNat →
    exec (.scrub errors p) s = .next (regSetFld Reg.scrubStat 30 24 0 (bumpFld Reg.scrubStat 15 0 1
      (errors.foldl (fun u e => dramError e u) s))))

/-- On an enabled DOWN link that nothing holds back, detected signal, the end of RETRY_WAIT and the end of a RETRAIN squelch start training: the state is TRAINING in phase 2 since the present tick. The end of RETRY_WAIT has no effect before that time since the last failure can have passed, nor the end of a squelch where no RETRAIN is under way. Block lock moves phase 2 to 3. Reaching the own eye margin in phase 3 sends RX_READY. A training marker that fails its CHECK is ignored; a good one counts RX_READY, answers PRESET with PRE 0 and POST 8, and never lets PRE + POST pass 40 (MAIN below 24). Only that link changes, and the host interface by the event that reports a state change. What is the model's choice in it, and no rule of the spec, is logged in notes/assumptions: 9 (DESIGN CHOICE), 43 (DEDUCED), 48 (DESIGN CHOICE), 50 (DEDUCED). -/
def Obligations.LinkTrainingSteps : Prop :=
  (∀ (n : Fin 16) (s : State), s.links[n].state = .down → linkEnabled s n = true → s.links[n].detachHold = false → s.links[n].retryWait = false → s.links[n].squelch = false →
    ∃ u, exec (.linkSignalDetect n) s = .next (settle u) ∧ u.links[n] = { s.links[n] with signal := true, phase := 2, trainAt := s.time.refTime, state := .training, changeTick := now s } ∧
      AgreeOff n u.links s.links ∧
      u = { s with links := u.links, hif := u.hif }) ∧
  (∀ (n : Fin 16) (s : State), s.links[n].state = .down → linkEnabled s n = true → s.links[n].signal = true → s.links[n].detachHold = false → s.links[n].squelch = false → s.links[n].retryWait = true → mayHavePassed s s.links[n].failAt (retryLimit s n) = true →
    ∃ u, exec (.retryWait n) s = .next (settle u) ∧ u.links[n] = { s.links[n] with retryWait := false, phase := 2, trainAt := s.time.refTime, state := .training, changeTick := now s } ∧
      AgreeOff n u.links s.links ∧
      u = { s with links := u.links, hif := u.hif }) ∧
  (∀ (n : Fin 16) (s : State), s.links[n].state = .down → linkEnabled s n = true → s.links[n].signal = true → s.links[n].detachHold = false → s.links[n].retryWait = false → s.links[n].retrain = true →
    ∃ u, exec (.retrainSquelchEnd n) s = .next (settle u) ∧ u.links[n] = { s.links[n] with squelch := false, retrain := false, phase := 2, trainAt := s.time.refTime, state := .training, changeTick := now s } ∧
      AgreeOff n u.links s.links ∧
      u = { s with links := u.links, hif := u.hif }) ∧
  (∀ (n : Fin 16) (s : State), mayHavePassed s s.links[n].failAt (retryLimit s n) = false →
    exec (.retryWait n) s = .next (s)) ∧
  (∀ (n : Fin 16) (s : State), s.links[n].retrain = false →
    exec (.retrainSquelchEnd n) s = .next (s)) ∧
  (∀ (n : Fin 16) (s : State), s.links[n].state = .training → s.links[n].phase = 2 →
    exec (.linkBlockLock n) s = .next (settle { s with links := vset s.links n { s.links[n] with blockLock := true, phase := 3 } })) ∧
  (∀ (n : Fin 16) (c : BitVec 4) (s : State), s.links[n].state = .training → s.links[n].phase = 3 → s.links[n].readySeen < 2 →
    exec (.linkEqComplete n c) s = .next (settle { s with links := vset s.links n { s.links[n] with ctle := c, train := { s.links[n].train with rxReady := true }, phase := 3, handover := false } })) ∧
  (∀ (n : Fin 16) (c : BitVec 4) (s : State), s.links[n].state = .training → s.links[n].phase = 3 → 2 ≤ s.links[n].readySeen →
    exec (.linkEqComplete n c) s = .next (settle { s with links := vset s.links n { s.links[n] with ctle := c, train := { s.links[n].train with rxReady := true }, phase := 4, handover := true } })) ∧
  (∀ (n : Fin 16) (m : TrainMarker) (w : FirWish) (s : State), m.checkOk = false →
    exec (.trainingMarker n m w) s = .next (settle { s with links := vset s.links n s.links[n] })) ∧
  (∀ (n : Fin 16) (m : TrainMarker) (w : FirWish) (s : State), s.links[n].state = .training → s.links[n].framed = false → m.checkOk = true → 3 ≤ s.links[n].phase →
    ∃ u, exec (.trainingMarker n m w) s = .next (settle u) ∧ u.links[n].readySeen = (if m.rxReady then s.links[n].readySeen + 1 else 0) ∧
      (m.preset = true → u.links[n].pre = 0 ∧ u.links[n].post = 8) ∧
      (s.links[n].pre.toNat + s.links[n].post.toNat ≤ 40 → u.links[n].pre.toNat + u.links[n].post.toNat ≤ 40) ∧
      AgreeOff n u.links s.links ∧
      u = { s with links := u.links })

/-- Loss of signal or block lock on a link that is not DOWN and whose partner did not announce its detach takes it DOWN: its framing state is forgotten, the entries that used it are broken, DOWN_COUNT counts it and LINK_DOWN is raised. TRAIN_TIMEOUT after its time in TRAINING counts TRAIN_FAIL, raises LINK_TRAIN_FAIL and takes the link DOWN into RETRY_WAIT. A missing marker on an aligned link counts, makes its sub-frame bad, and the second in a row loses the link. More slot CRC errors in a second than LINK_BER_LIMIT raise LINK_BER, and the count of the second starts again at 0. The node announces its ID 65,536 ticks after it last did so periodically. An open ATTACH_REQ is repeated after 1,024 ticks while the checks pass, and after a DISCOVER has been received the own one is sent again 1,024 ticks after the last. What is the model's choice in it, and no rule of the spec, is logged in notes/assumptions: 9 (DESIGN CHOICE), 43 (DEDUCED), 44 (DEDUCED), 45 (DEDUCED), 46 (DESIGN CHOICE), 164 (DESIGN CHOICE). -/
def Obligations.LinkLossAndTimeouts : Prop :=
  (∀ (n : Fin 16) (gone : Bool) (s : State), s.links[n].state ≠ .down → s.links[n].partnerDetaching = false →
    exec (.linkSignalLoss n gone) s = .next (settle (linkMod n (fun l => { l with signal := l.signal && !gone, blockLock := false })
      (raise Src.linkDown n 0 (bumpFld (Reg.linkEvents n) 15 0 1
        (setLinkState n .down (breakEntries n (linkMod n Link.dropped s)))))))) ∧
  (∀ (n : Fin 16) (s : State), s.links[n].state = .training → mayHavePassed s s.links[n].trainAt (trainLimit s n) = true →
    exec (.trainTimeout n) s = .next (settle (linkMod n (fun l => { l with retryWait := true, failAt := s.time.refTime }) (linkDown n true true
      (raise Src.linkTrainFail n 0 (sticky (Reg.linkErrStat n) 5 (bumpFld (Reg.linkEvents n) 31 16 1 s))))))) ∧
  (∀ (n : Fin 16) (s : State), s.links[n].align = true → s.links[n].misses = 0 →
    exec (.markerWindowExpiry n) s = .next (settle (linkMod n (fun l => { l with misses := l.misses + 1, sfBad := true })
      (sticky (Reg.linkErrStat n) 2 (bump (Reg.markerMissCount n) 1 s))))) ∧
  (∀ (n : Fin 16) (s : State), s.links[n].align = true → 1 ≤ s.links[n].misses →
    exec (.markerWindowExpiry n) s = .next (settle (linkLost n (linkMod n (fun l => { l with misses := l.misses + 1, sfBad := true })
      (sticky (Reg.linkErrStat n) 2 (bump (Reg.markerMissCount n) 1 s)))))) ∧
  (∀ (n : Fin 16) (s : State), mayHavePassed s s.links[n].berAt refSecond = true → regFld s (Reg.linkBerLimit n) 15 0 ≠ 0 → regFld s (Reg.linkBerLimit n) 15 0 < s.links[n].berCount →
    exec (.linkBer n) s = .next (settle (raise Src.linkBer n 0 (linkMod n (fun l => { l with berCount := 0, berAt := s.time.refTime }) s)))) ∧
  (∀ (n : Fin 16) (s : State), mayHavePassed s s.links[n].berAt refSecond = true → s.links[n].berCount ≤ regFld s (Reg.linkBerLimit n) 15 0 →
    exec (.linkBer n) s = .next (settle (linkMod n (fun l => { l with berCount := 0, berAt := s.time.refTime }) s))) ∧
  (∀ (n : Fin 16) (s : State), s.links[n].state = .discovered → s.links[n].reqOpen = true → checksPass s n = true → s.links[n].lastReq + 1024 ≤ now s →
    exec (.attachReqRepeat n) s = .next (settle (sendCtrl n 1 0 0 (linkMod n (fun l => { l with reqOpen := true, lastReq := now s }) s)))) ∧
  (∀ (n : Fin 16) (s : State), s.links[n].framed = true → s.links[n].heard = true → s.links[n].lastDiscover + 1024 ≤ now s →
    exec (.discoverSend n) s = .next (settle (sendNeighbour n 1 (discoverBody s n) (linkMod n (fun l => { l with sentBody := discoverFixed (discoverBody s n), lastDiscover := now s }) s)))) ∧
  (∀  (s : State), s.node.periodAt + 65536 ≤ now s →
    exec (.idAnnouncePeriodic) s = .next (settle (announce { s with node := { s.node with periodAt := now s } })))

/-- On a framed link, a good marker whose index follows the last one's at the spacing of a sub-frame acquires alignment with the third in a row and keeps what it says of the partner; on an aligned link one outside the window of the expected marker is ignored, one in it with a bad CHECK or another index is a miss. A slot with a good CRC on an ATTACHED link goes to its switch entry as valid unless its sub-frame is bad or the link is fenced; a bad CRC is counted. A cell with a bad CRC is counted and discarded, a cell of a reserved type is counted as dropped, and any other is handled by its MODE. A DISCOVER records the partner's data, resolves a duplicate ID and runs the checks; a LINK_CTRL ATTACH_REQ that the node would answer gets an ATTACH_ACK; an ID_ANNOUNCE notes the ID. A framed, unsquelched link sends its sub-frame's marker, slots and cells. What is the model's choice in it, and no rule of the spec, is logged in notes/assumptions: 9 (DESIGN CHOICE), 16 (DEDUCED), 47 (DESIGN CHOICE), 49 (DEDUCED), 51 (DEDUCED), 52 (DEDUCED), 150 (DEDUCED). -/
def Obligations.LinkFramesAndCellsReceived : Prop :=
  (∀ (n : Fin 16) (m : FrameMarker) (s : State), s.links[n].framed = true → s.links[n].align = false → markerGood m.bytes = true → s.links[n].markerRun = 2 → (m.bytes.getD 0 0).toNat / 16 % 16 = (s.links[n].lastSf.val + 1) % 16 → withinTwo s (markerPos s m - s.links[n].markerAt) s.links[n].spacing = true →
    ∃ u, exec (.frameMarker n m) s = .next (settle u) ∧ (∃ v, u = tryDiscovered n v ∧ v.links[n] = { (s.links[n].hear s m) with markerRun := 3, align := true, phase := 5 } ∧ AgreeOff n v.links s.links ∧ v = { s with links := v.links })) ∧
  (∀ (n : Fin 16) (m : FrameMarker) (s : State), s.links[n].framed = true → (s.links[n].align = true → markerDue s.links[n] s m = true) → markerGood m.bytes = false →
    exec (.frameMarker n m) s = .next (settle (missMarker n s))) ∧
  (∀ (n : Fin 16) (m : FrameMarker) (s : State), s.links[n].align = true → markerDue s.links[n] s m = false →
    exec (.frameMarker n m) s = .next s) ∧
  (∀ (n : Fin 16) (m : FrameMarker) (s : State), s.links[n].framed = true → s.links[n].align = true → markerDue s.links[n] s m = true → markerGood m.bytes = true → (m.bytes.getD 0 0).toNat / 16 % 16 ≠ (s.links[n].lastSf.val + s.links[n].misses + 1) % 16 →
    exec (.frameMarker n m) s = .next (settle (missMarker n s))) ∧
  (∀ (n : Fin 16) (m : FrameMarker) (s : State), s.links[n].framed = true → s.links[n].align = true → markerDue s.links[n] s m = true → markerGood m.bytes = true → (m.bytes.getD 0 0).toNat / 16 % 16 = (s.links[n].lastSf.val + s.links[n].misses + 1) % 16 → (m.bytes.getD 5 0).getLsbD 1 = false →
    exec (.frameMarker n m) s = .next (settle (tryDiscovered n (linkMod n (fun l => l.hear s m) s)))) ∧
  (∀ (n : Fin 16) (x : SlotIn) (s : State), s.links[n].align = true → s.links[n].state = .attached → crc8 x.bytes = x.crc →
    exec (.slotReceived n x) s = .next (settle (switchSlot n x.slot
      { samples := (List.range (spt s)).map fun i => BitVec.ofNat 32 (ofLe ((x.bytes.drop (4 * i)).take 4)), flags := x.bytes.getD (4 * spt s) 0, crc := x.crc }
      (!s.links[n].sfBad && !fenced s (.link n)) s))) ∧
  (∀ (n : Fin 16) (x : SlotIn) (s : State), s.links[n].align = true → s.links[n].state ≠ .attached → crc8 x.bytes ≠ x.crc →
    exec (.slotReceived n x) s = .next (settle (linkMod n (fun l => { l with berCount := l.berCount + 1 }) (sticky (Reg.linkErrStat n) 0 (bump (Reg.slotCrcCount n) 1 s))))) ∧
  (∀ (n : Fin 16) (c : Cell) (crc : Word) (s : State), s.links[n].align = true → cellCrc c ≠ crc →
    exec (.cellReceived n c crc) s = .next (settle (sticky (Reg.linkErrStat n) 1 (bump (Reg.cellCrcCount n) 1 s)))) ∧
  (∀ (n : Fin 16) (c : Cell) (crc : Word) (s : State), s.links[n].align = true → cellCrc c = crc → c.ty ≠ 0 → cellClass c.ty = none →
    exec (.cellReceived n c crc) s = .next (settle (sticky (Reg.linkErrStat n) 4 (cellDrop n s)))) ∧
  (∀ (n : Fin 16) (c : Cell) (crc : Word) (k : Nat) (s : State), s.links[n].align = true → cellCrc c = crc → c.ty ≠ 0 → cellClass c.ty = some k → c.ty.toNat / 4 ≠ 4 →
    exec (.cellReceived n c crc) s = .next (settle (receiveCell n c (fun u => u) s))) ∧
  (∀ (n : Fin 16) (c : Cell) (s v : State), Delivered n c s →
    v = resolveId (BitVec.ofNat 12 (bodyN c 0x1C 2)) (bodyN c 0x14 8)
      (linkMod n (fun l => { l with partner := some c.body, heard := true }) s) →
    exec (.discover n c) s = .next (settle (if v.links[n].state = .training then tryDiscovered n v else runChecks n v))) ∧
  (∀ (n : Fin 16) (c : Cell) (s : State), Delivered n c s → bodyN c 0x14 1 = 1 → s.links[n].state = .discovered → checksPass s n = true → wouldRequest s n = true →
    exec (.linkCtrlCell n c) s = .next (settle (sendCtrl n 2 0 0 s))) ∧
  (∀ (n : Fin 16) (c : Cell) (s v : State), FloodFresh n c s → v = markFlood c s → bodyN c 0x14 8 ≠ (ownEui s).toNat →
    BitVec.ofNat 12 (bodyN c 0x1C 2) ≠ 0 →
    exec (.idAnnounce n c) s = .next (settle (forwardFlood n c (resolveId (BitVec.ofNat 12 (bodyN c 0x1C 2)) (bodyN c 0x14 8)
      { v with node := { v.node with announced := mapPut v.node.announced (BitVec.ofNat 12 (bodyN c 0x1C 2)).toNat (now s) } })))) ∧
  (∀ (n : Fin 16) (j : Fin 16) (s : State), s.links[n].framed = true → s.links[n].squelch = false → j.val ≠ 1 →
    ∃ u, exec (.subFrameStart n j) s = .next (settle u) ∧ u.links[n].line.sf = j ∧
      u.links[n].line.tickLo = BitVec.ofNat 32 (now s) ∧
      u.links[n].line.aligned = s.links[n].align ∧
      u.links[n].line.quarantine = fenced s (.link n) ∧
      u.links[n].line.slots = (if s.links[n].state = .attached ∧ fenced s (.link n) = false ∧ s.links[n].detaching = false then slotsToSend s n j.val else []) ∧
      AgreeOff n u.links s.links ∧
      u = { s with links := u.links })

/-- A taken LINK_CMD of ACTION 1 to 3 on a link number below 16 is held for its tick. At its boundary ATTACH of a DISCOVERED enabled link whose checks pass asks the partner to attach; DETACH of an ATTACHED one breaks its entries, tells the partner and marks it detaching; RETRAIN of any link but a quarantined one takes it DOWN with its transmitter squelched; all three answer OK, and a disabled link answers LINK_DISABLED (0x41). A LINK_QUERY waits for the boundary. An EYE_SURVEY marks the named links that are ATTACHED or DISCOVERED, and its end writes LINK_EYE of the surveyed links and completes it. A NODE_ID_SET of an ID that nobody has announced within 65,536 ticks takes it, floods the announcement and completes with OK, else with ID_IN_USE (0x42). What is the model's choice in it, and no rule of the spec, is logged in notes/assumptions: 9 (DESIGN CHOICE), 17 (DEDUCED), 45 (DEDUCED), 49 (DEDUCED). -/
def Obligations.LinkCommandsTakenAndApplied : Prop :=
  (∀ (h : CmdHdr) (a : LinkCmdArgs) (s : State) (n : Nat) (late : Bool), Taken h true s → schedule a.tick s = some (n, late) →
    a.link.toNat < 16 → 1 ≤ a.action.toNat → a.action.toNat ≤ 3 →
    exec (.linkCmd h a) s = .next (settle (hold n (ticketOf h s) late (.linkCmd a) (takenState h s)))) ∧
  (∀ (a : LinkCmdArgs) (n : Fin 16) (s : State), a.link.toNat = n.val → a.action.toNat = 1 → s.links[n].state = .discovered →
    linkEnabled s n = true → checksPass s n = true → s.links[n].attachDue = false →
    applyLinkCmd a s = (0, requestAttach n (linkMod n (fun l => { l with wantAttach := true }) s))) ∧
  (∀ (a : LinkCmdArgs) (n : Fin 16) (s : State), a.link.toNat = n.val → a.action.toNat = 2 → s.links[n].state = .attached →
    linkEnabled s n = true → applyLinkCmd a s = (0, sendCtrl n 3 0 (now s) (linkMod n (fun l =>
      { l with detaching := true, detachAt := some (now s), wantAttach := false, reqOpen := false, attachDue := false })
      (breakEntries n s)))) ∧
  (∀ (a : LinkCmdArgs) (n : Fin 16) (s : State), a.link.toNat = n.val → a.action.toNat = 3 → s.links[n].state ≠ .quarantined →
    linkEnabled s n = true → applyLinkCmd a s = (0, linkMod n (fun l =>
      { l with squelch := true, retrain := true, detachHold := false, retryWait := false }) (linkDown n true false s))) ∧
  (∀ (a : LinkCmdArgs) (n : Fin 16) (s : State), a.link.toNat = n.val → linkEnabled s n = false → s.links[n].state ≠ .quarantined →
    1 ≤ a.action.toNat → a.action.toNat ≤ 3 → applyLinkCmd a s = (0x41, s)) ∧
  (∀ (h : CmdHdr) (link : Byte) (addr : BitVec 64) (n : Fin 16) (s : State), Taken h false s → link.toNat = n.val →
    exec (.linkQuery h link addr) s = .next (settle { (takenState h s) with linkQueries := (takenState h s).linkQueries ++ [{ ticket := (ticketOf h s), link := n, addr := addr }] })) ∧
  (∀ (h : CmdHdr) (m : BitVec 16) (s : State), Taken h false s → (∀ n ∈ maskUnits 16 m.toNat, s.links[n].survey = false) → (∀ n ∈ maskUnits 16 m.toNat, s.links[n].state = .attached ∨ s.links[n].state = .discovered) →
    exec (.eyeSurvey h m) s = .next (settle ((maskUnits 16 m.toNat).foldl (fun u n => linkMod n (fun l => { l with survey := true }) u)
      { (takenState h s) with surveys := (takenState h s).surveys ++ [{ ticket := (ticketOf h s), links := maskUnits 16 m.toNat }] }))) ∧
  (∀ (r : List EyeResult) (v : Survey) (rest : List Survey) (s : State), s.surveys = v :: rest →
    exec (.eyeSurveyComplete r) s = .next (settle (complete v.ticket 0 0
      ((r.filter fun x => v.links.contains x.link).foldl (fun u x => setEye x.link x.eyeH x.eyeV u)
        (v.links.foldl (fun u n => linkMod n (fun l => { l with survey := false }) u) { s with surveys := rest }))))) ∧
  (∀ (h : CmdHdr) (id : BitVec 12) (s : State), Taken h false s → id ≠ 0 → id ≠ 0xFFF → mapGet s.node.announced id.toNat = none →
    exec (.nodeIdSet h id) s = .next (settle (complete (ticketOf h s) 0 0 (takeId id 1 (takenState h s))))) ∧
  (∀ (h : CmdHdr) (id : BitVec 12) (k : Nat) (s : State), Taken h false s → id ≠ 0 → id ≠ 0xFFF → mapGet s.node.announced id.toNat = some k → now s < k + 65536 →
    exec (.nodeIdSet h id) s = .next (settle (complete (ticketOf h s) 0x42 0 (takenState h s))))

/-- A taken PATH_RESERVE with valid fields and fewer than 64 reservations in progress is refused with PATH_BUSY (0x44) when the path exists and with REFUSED_BUDGET (3) when its hops pass the slot budget, and otherwise records the path as being reserved and sends its PATH_SET on the first link under a tentative add entry. A RESULT_ADDR while the engine is halted is refused with BUS_ERROR (8). With no reply in 16 ticks the path is freed, a PATH_CLEAR sent and the command completed with TIMEOUT (9). A PATH_RELEASE of a known path, a PAIR_SET that ends the pairing and a ROLE_SET of an allowed port are held for their tick; an unknown path is PATH_UNKNOWN (0x45). PATH_QUERY and SWITCH_READ write their results to the host. What is the model's choice in it, and no rule of the spec, is logged in notes/assumptions: 9 (DESIGN CHOICE), 17 (DEDUCED), 41 (DEDUCED), 53 (DEDUCED), 54 (DESIGN CHOICE). -/
def Obligations.PathCommandsTaken : Prop :=
  (∀ (h : CmdHdr) (a : PathReserveArgs) (s : State) (w : Nat × Bool), Taken h true s →
    ((hostStores h.stores s).fabric.paths.filter fun p => p.reserving).length < 64 → reserveBad (hostStores h.stores s) a = false →
    schedule a.tick (hostStores h.stores s) = some w →
    exec (.pathReserve h a) s = .next (settle (reservePath a (ticketOf h s) (takenState h s)))) ∧
  (∀ (a : PathReserveArgs) (t : Ticket) (s : State), pathRec s a.addCh a.copy ≠ none → reservePath a t s = complete t 0x44 0 s) ∧
  (∀ (a : PathReserveArgs) (t : Ticket) (s : State), pathRec s a.addCh a.copy = none → a.resultAddr ≠ 0 → dmaHalted s = true →
    reservePath a t s = complete t 8 0 s) ∧
  (∀ (a : PathReserveArgs) (t : Ticket) (s : State), pathRec s a.addCh a.copy = none → (a.resultAddr = 0 ∨ dmaHalted s = false) →
    regFld s Reg.fswBudget 16 0 < slotsHeld s + a.hops.toNat → reservePath a t s = complete t 3 0 s) ∧
  (∀ (a : PathReserveArgs) (t : Ticket) (s : State) (b r : PathBody) (o : Fin 16) (e : SwEntry), pathRec s a.addCh a.copy = none →
    (a.resultAddr = 0 ∨ dmaHalted s = false) → slotsHeld s + a.hops.toNat ≤ regFld s Reg.fswBudget 16 0 →
    b = {
          addCh := a.addCh, copy := a.copy, gen := a.gen, result := 0, dropCh := a.dropCh, tap := a.tapMask, failHop := 0, limit := if a.limitNs = 0 then tickNs s else a.limitNs.toNat, acc := 0, tickLo := BitVec.ofNat 32 (if a.tick = 0 then openTick s else a.tick.toNat), slots := List.replicate 8 0, ret := 0 } →
    pathAt s s.node.id a.hops.toNat (BitVec.ofNat 64 a.route.toNat) 0 0 b = .forward r o e →
    ∃ (p : PathRec) (v : State), p.addCh = a.addCh ∧ p.copy = a.copy ∧ p.reserving = true ∧ p.hops = a.hops.toNat ∧ p.ticket = t ∧
      v = fab (fun f => { f with add := mapPut s.fabric.add (addKey a.addCh a.copy) e })
        (updateUse (fab (fun f => { f with paths := f.paths ++ [p] }) s)) ∧
      reservePath a t s = queuePath 0x10 s.node.id a.dst a.hops.toNat (BitVec.ofNat 64 a.route.toNat) r v) ∧
  (∀ (c : BitVec 12) (copy : Bool) (p : PathRec) (s : State), pathRec s c copy = some p → p.reserving = true →
    p.sent + 16 ≤ now s → ∃ b : PathBody, b.addCh = p.addCh ∧ b.copy = p.copy ∧ b.result = 0 ∧ b.tickLo = BitVec.ofNat 32 (now s) ∧
      exec (.pathReserveTimeout c copy) s = .next (settle (complete p.ticket 9 0
        (queuePath 0x12 p.src p.dst p.hops (BitVec.ofNat 64 p.route.toNat) b
          (removePath p.addCh p.copy (freeAdd (addKey p.addCh p.copy) s)))))) ∧
  (∀ (c : BitVec 12) (copy : Bool) (p : PathRec) (s : State), pathRec s c copy = some p → now s < p.sent + 16 →
    exec (.pathReserveTimeout c copy) s = .next s) ∧
  (∀ (h : CmdHdr) (tick : BitVec 64) (c : BitVec 12) (copy : Bool) (s : State) (n : Nat) (late : Bool), Taken h true s →
    schedule tick s = some (n, late) → channelExists s c = true → pathRec (takenState h s) c copy ≠ none →
    exec (.pathRelease h tick c copy) s = .next (settle (hold n (ticketOf h s) late (.pathRelease c copy) (takenState h s)))) ∧
  (∀ (h : CmdHdr) (c : BitVec 12) (copy : Bool) (addr : BitVec 64) (p : PathRec) (s : State), Taken h false s → channelExists s c = true → pathRec (takenState h s) c copy = some p →
    exec (.pathQuery h c copy addr) s = .next (settle (resultThen (ticketOf h s) addr.toNat (Config.pathQueryBytes p.hops p.latency (if p.reserving then 1 else if p.live then 3 else 2)) 0 (takenState h s)))) ∧
  (∀ (h : CmdHdr) (c : BitVec 12) (copy : Bool) (addr : BitVec 64) (s : State), Taken h false s → channelExists s c = true → pathRec (takenState h s) c copy = none →
    exec (.pathQuery h c copy addr) s = .next (settle (complete (ticketOf h s) 0x45 0 (takenState h s)))) ∧
  (∀ (h : CmdHdr) (a : SwitchReadArgs) (l : Fin 16) (s : State), Taken h false s → a.table = .incoming l → a.count ≠ 0 → a.first + a.count ≤ slotsPerTick s →
    exec (.switchRead h a) s = .next (settle (resultThen (ticketOf h s) a.resultAddr.toNat ((List.range a.count).flatMap fun i => entryBytes (mapGet (takenState h s).fabric.incoming (slotKey l (a.first + i)))) 0 (takenState h s)))) ∧
  (∀ (h : CmdHdr) (a : PairSetArgs) (s : State) (n : Nat) (late : Bool), Taken h true s → schedule a.tick s = some (n, late) → a.partner = 0 →
    exec (.pairSet h a) s = .next (settle (hold n (ticketOf h s) late (.pairSet a []) (takenState h s)))) ∧
  (∀ (h : CmdHdr) (tick : BitVec 64) (port role : Byte) (p : Fin 8) (s : State) (n : Nat) (late : Bool), Taken h true s → schedule tick s = some (n, late) → port.toNat = p.val → role.toNat ≤ 2 → twinAllowed (takenState h s) p = true →
    exec (.roleSet h tick port role) s = .next (hold n (ticketOf h s) late (.roleSet p role.toNat) (takenState h s)))

/-- A PATH_SET for this node notes the arrival link in RET_LINKS and is refused with a reply, answered as arrived under an active dropping entry, or passed on with HOP + 1 under a tentative entry. A PATH_REPLY with RESULT 0 in transit makes the path's tentative entry toward its link active and goes on; at its end it completes the source's reservation. A PATH_CLEAR in transit lets the path's entry of its link go and goes on. A PATH_BROKEN with no entry of its path changes nothing. A PAIR_DIGEST of the partner keeps its digests. A tentative entry that is 32 ticks old is freed. What is the model's choice in it, and no rule of the spec, is logged in notes/assumptions: 9 (DESIGN CHOICE), 16 (DEDUCED), 41 (DEDUCED), 42 (DEDUCED), 46 (DESIGN CHOICE). -/
def Obligations.PathCellsActOnEntries : Prop :=
  (∀ (n : Fin 16) (c : Cell) (s : State) (b r : PathBody), pathCellHere s n c = true →
    b = { pathBody c with ret := setRet (pathBody c).ret (c.hop.toNat - 1) n } →
    pathAt s c.src c.hops.toNat c.route c.hop.toNat (ofSixteenth s s.links[n].rxOfs) b = .refuse r →
    exec (.pathSet n c) s = .next (settle (sendReply c.src c.hop.toNat r s))) ∧
  (∀ (n : Fin 16) (c : Cell) (s : State) (b r : PathBody) (e : SwEntry), pathCellHere s n c = true →
    b = { pathBody c with ret := setRet (pathBody c).ret (c.hop.toNat - 1) n } →
    pathAt s c.src c.hops.toNat c.route c.hop.toNat (ofSixteenth s s.links[n].rxOfs) b = .arrived r e →
    exec (.pathSet n c) s = .next (settle (sendReply c.src c.hop.toNat r (fab (fun f =>
      { f with incoming := mapPut f.incoming (slotKey n (b.slots.getD (c.hop.toNat - 1) 0)) { e with state := .active } }) s)))) ∧
  (∀ (n : Fin 16) (c : Cell) (s : State) (b r : PathBody) (o : Fin 16) (e : SwEntry), pathCellHere s n c = true →
    b = { pathBody c with ret := setRet (pathBody c).ret (c.hop.toNat - 1) n } →
    pathAt s c.src c.hops.toNat c.route c.hop.toNat (ofSixteenth s s.links[n].rxOfs) b = .forward r o e →
    exec (.pathSet n c) s = .next (settle (queueCell o { c with hop := c.hop + 1, body := (r.bytes ++ List.replicate 40 0).take 40 }
      (fab (fun f => { f with incoming := mapPut f.incoming (slotKey n (b.slots.getD (c.hop.toNat - 1) 0)) e }) s)))) ∧
  (∀ (n : Fin 16) (c : Cell) (s : State), pathCellHere s n c = true → c.hop = c.hops →
    exec (.pathReply n c) s = .next (settle (pathAnswered (pathBody c) c.body s))) ∧
  (∀ (n : Fin 16) (c : Cell) (s : State) (k : Nat) (e : SwEntry), pathCellHere s n c = true → c.hop ≠ c.hops → (pathBody c).result = 0 →
    (s.fabric.incoming.filter fun x => x.2.ofPath c.src (pathBody c).addCh (pathBody c).copy && x.2.toLink n &&
      decide (x.2.state = .tentative)) = [(k, e)] →
    exec (.pathReply n c) s = .next (settle (forwardCell c
      (fab (fun f => { f with incoming := mapPut f.incoming k { e with state := .active } }) s)))) ∧
  (∀ (p : PathRec) (b : PathBody) (bytes : List Byte) (s : State) (w : Nat × Bool), pathRec s b.addCh b.copy = some p →
    p.reserving = true → b.result = 0 → schedule p.tickField s = some w → toldPoint s b.addCh b.copy = none →
    pathAnswered b bytes s = hold w.1 p.ticket w.2 (.pathActivate b.addCh b.copy)
      (setPath b.addCh b.copy (fun q => { q with reserving := false, latency := b.acc, reply := bytes }) s)) ∧
  (∀ (n : Fin 16) (c : Cell) (s : State) (k : Nat) (e : SwEntry), pathCellHere s n c = true → c.hop ≠ c.hops →
    (s.fabric.incoming.filter fun x => decide (x.1 / 16384 = n.val) && x.2.ofPath c.src (pathBody c).addCh (pathBody c).copy) = [(k, e)] →
    exec (.pathClear n c) s = .next (settle (forwardCell c
      (releaseIncoming k (max (now s + 1) (fullTick s (pathBody c).tickLo)) s)))) ∧
  (∀ (n : Fin 16) (c : Cell) (s : State) (k : Nat) (e : SwEntry) (o : Fin 16 × Nat), Delivered n c s →
    (s.fabric.add.filter fun x => x.2.ofPath c.src (pathBody c).addCh (pathBody c).copy && x.2.toLink n) = [] →
    (s.fabric.incoming.filter fun x => x.2.ofPath c.src (pathBody c).addCh (pathBody c).copy && x.2.toLink n) = [] →
    (s.fabric.incoming.filter fun x => x.2.ofPath c.src (pathBody c).addCh (pathBody c).copy && decide (x.1 / 16384 = n.val)) = [(k, e)] →
    e.fwd = some o → exec (.pathBroken n c) s = .next (settle (sendOneHop o.1 0x13 c.src c.body (releaseIncoming k (now s + 1) s)))) ∧
  (∀ (n : Fin 16) (c : Cell) (s : State) (p : Pair), Delivered n c s → s.fabric.pair = some p → c.src = p.partner →
    ∃ l : List (Nat × Word), exec (.pairDigest n c) s = .next (settle (fab (fun f =>
        { f with pair := some { p with theirs := mapPut p.theirs (fullTick s (BitVec.ofNat 32 (bodyN c 0x14 4))) l, lastCell := now s } }) s)) ∧
      (∀ b, b < 8 → bitOf (bodyN c 0x1A 1) b = true →
        mapGet l (bodyN c 0x18 2 + b) = some (BitVec.ofNat 32 (bodyN c (0x1C + 4 * b) 4)))) ∧
  (∀ (n : Fin 16) (slot : BitVec 14) (e : SwEntry) (s : State), mapGet s.fabric.incoming (slotKey n slot.toNat) = some e → e.state = .tentative → e.since + 32 ≤ now s →
    exec (.tentativeExpiry n slot) s = .next (settle (freeIncoming (slotKey n slot.toNat) s)))

/-- At its tick a reserved path's add entry becomes active, the path is live and the command completes with its latency. A release at its boundary frees the add entry and the path and sends a PATH_CLEAR. PAIR_SET with PARTNER 0 ends the pairing; with another it starts one with no digest kept. A ROLE_SET of an allowed port makes a primary drive and a standby listen. A driving twin that reads back other bits releases its lanes and counts the overlap; a standby whose last digest matched takes over when the readback or the partner's digests fail. What is the model's choice in it, and no rule of the spec, is logged in notes/assumptions: 51 (DEDUCED), 53 (DEDUCED), 55 (DEDUCED), 61 (DEDUCED). -/
def Obligations.PathActivationReleaseAndTwins : Prop :=
  (∀ (t : Ticket) (c : BitVec 12) (copy : Bool) (p : PathRec) (e : SwEntry) (s : State), pathRec s c copy = some p →
    mapGet s.fabric.add (addKey c copy) = some e → p.resultAddr = 0 →
    applyActivate t c copy s = complete t (okOf t) p.latency (setPath c copy (fun q => { q with live := true })
      (fab (fun f => { f with add := mapPut f.add (addKey c copy) { e with state := .active } }) s))) ∧
  (∀ (c : BitVec 12) (copy : Bool) (p : PathRec) (s : State), pathRec s c copy = some p → p.reserving = false →
    ∃ b : PathBody, b.addCh = p.addCh ∧ b.copy = p.copy ∧ b.tickLo = BitVec.ofNat 32 (now s) ∧ applyRelease c copy s =
      (0, queuePath 0x12 p.src p.dst p.hops (BitVec.ofNat 64 p.route.toNat) b
        (removePath p.addCh p.copy (freeAdd (addKey p.addCh p.copy) s)))) ∧
  (∀ (a : PairSetArgs) (l : List (Nat × Nat)) (s : State), a.partner = 0 →
    applyPairSet a l s = (0, { s with fabric := { s.fabric with pair := none } })) ∧
  (∀ (a : PairSetArgs) (l : List (Nat × Nat)) (s : State), a.partner ≠ 0 → (∀ p, s.fabric.pair = some p → p.partner = a.partner) →
    ∃ p : Pair, applyPairSet a l s = (0, { s with fabric := { s.fabric with pair := some p } }) ∧ p.partner = a.partner ∧ p.groups = l ∧
      p.hops = a.hops.toNat ∧ p.route = a.route ∧ p.since = now s ∧ p.theirs = [] ∧ p.own = []) ∧
  (∀ (p : Fin 8) (role : Nat) (s : State), twinAllowed s p = true → applyRole p role s =
    (0, { s with fabric := { s.fabric with twins := vset s.fabric.twins p { role := role, driving := decide (role = 1) } } })) ∧
  (∀ (p : Fin 8) (pos : Byte) (s : State), s.fabric.twins[p].role ≠ 0 → s.fabric.twins[p].driving = true →
    exec (.twinReadbackMismatch p pos) s = .next (twinEvent p 1 pos.toNat (bumpFld (Reg.portTwinCount p) 15 0 1 (fab (fun f => { f with twins := vmod f.twins p fun t => { t with driving := false } }) s)))) ∧
  (∀ (p : Fin 8) (pos : Byte) (s : State), s.fabric.twins[p].role = 2 → s.fabric.twins[p].driving = false → mayTakeOver s = true →
    exec (.twinReadbackMismatch p pos) s = .next (twinEvent p 2 pos.toNat (bumpFld (Reg.portTwinCount p) 31 16 1 (fab (fun f => { f with twins := vmod f.twins p fun t => { t with driving := true } }) s)))) ∧
  (∀ (p : Fin 8) (s : State), s.fabric.twins[p].role = 2 → s.fabric.twins[p].driving = false → mayTakeOver s = true → digestSilent s = true →
    exec (.twinDigestTakeover p) s = .next (twinEvent p 2 0 (bumpFld (Reg.portTwinCount p) 31 16 1 (fab (fun f => { f with twins := vmod f.twins p fun t => { t with driving := true } }) s))))

/-- A taken GLOBAL_ARM of a valid list for a snapshot object that it fits arms its set and completes with OK. A taken GLOBAL_OP of a known kind is refused with LEAD_SHORT (0x40) when its tick is nearer than the lead and with GLOBAL_BUSY (0x41) when 16 are pending; otherwise it is held under the next number and, at a node with an ID, flooded. A received GLOBAL_OP whose schedule is open is held under its parent link and answered with ADOPT. An ADOPT before its tick adds a child; a DONE adds the child's totals. Four ticks after its tick the children that have not reported are counted as lost and the report leaves. A GLOBAL_OP is a timed command (R25). The warm reset of a GLOBAL_RESET follows at its tick. What is the model's choice in it, and no rule of the spec, is logged in notes/assumptions: 16 (DEDUCED), 17 (DEDUCED), 56 (DEDUCED), 57 (DESIGN CHOICE), 58 (DEDUCED), 59 (DEDUCED), 60 (DEDUCED). -/
def Obligations.GlobalOperationsFloodAndReport : Prop :=
  (∀ (h : CmdHdr) (a : GlobalArmArgs) (k : Fin 4) (l : List SnapItem) (o : BObj) (s : State), Taken h false s → a.set.toNat = k.val → 1 ≤ a.count.toNat → a.count.toNat ≤ 256 → aligned8 a.addr = true → dmaHalted (takenState h s) = false → snapList (takenState h s) a.addr.toNat a.count.toNat = some l → objOf (takenState h s) a.handle.toNat = some o → o.kind.code = 4 → l.foldl (fun x i => x + i.count) 0 ≤ o.size →
    exec (.globalArm h a) s = .next (settle (complete (ticketOf h s) 0 0 (fab (fun f => { f with armed := vset f.armed k (some (a.handle.toNat, l)) }) (takenState h s))))) ∧
  (∀ (h : CmdHdr) (a : GlobalOpArgs) (s : State), Taken h true s → 1 ≤ a.kind.toNat → a.kind.toNat ≤ 5 → a.groups ≠ 0 → a.tick ≠ 0 → a.tick.toNat ≤ now s + 2 ^ 32 → dmaHalted (takenState h s) = false → a.tick.toNat < now (takenState h s) + globalLead (takenState h s) →
    exec (.globalOp h a) s = .next (settle (complete (ticketOf h s) 0x40 0 (takenState h s)))) ∧
  (∀ (h : CmdHdr) (a : GlobalOpArgs) (s : State), Taken h true s → 1 ≤ a.kind.toNat → a.kind.toNat ≤ 5 → a.groups ≠ 0 → a.tick ≠ 0 → a.tick.toNat ≤ now s + 2 ^ 32 → dmaHalted (takenState h s) = false → now (takenState h s) + globalLead (takenState h s) ≤ a.tick.toNat → 16 ≤ (takenState h s).fabric.ops.length →
    exec (.globalOp h a) s = .next (settle (complete (ticketOf h s) 0x41 0 (takenState h s)))) ∧
  (∀ (h : CmdHdr) (a : GlobalOpArgs) (s v : State), Taken h true s → 1 ≤ a.kind.toNat → a.kind.toNat ≤ 5 → a.groups ≠ 0 → a.tick ≠ 0 →
    a.tick.toNat ≤ now s + 2 ^ 32 → dmaHalted (takenState h s) = false → now (takenState h s) + globalLead (takenState h s) ≤ a.tick.toNat → s.fabric.ops.length < 16 →
    v = { takenState h s with fabric := { s.fabric with
          opNo := s.fabric.opNo + 1, ops := s.fabric.ops ++ [{ orig := s.node.id, opNo := s.fabric.opNo, order := (ticketOf h s).order, kind := a.kind.toNat, tick := a.tick.toNat, groups := a.groups, arg := a.arg, parent := none, children := [], reported := [], totals := { executed := 0, late := 0, refused := 0, lost := 0 }, execs := decide (regGet s Reg.fswGroups &&& a.groups ≠ 0), writing := false, ready := false, command := some (ticketOf h s, a.resultAddr) }] } } →
    exec (.globalOp h a) s = .next (settle (if s.node.id = 0 then v else sendFlood 0x20 (diameter v) (globalBody s.fabric.opNo a) v))) ∧
  (∀ (n : Fin 16) (c : Cell) (s v : State), FloodFresh n c s → v = markFlood c s → s.fabric.ops.length < 16 →
    openTick s ≤ bodyN c 0x18 8 → ∃ o : GlobalOp, o.orig = c.src ∧ o.order = v.hif.order ∧ o.opNo = BitVec.ofNat 16 (bodyN c 0x14 2) ∧ o.kind = bodyN c 0x16 1 ∧
      o.tick = bodyN c 0x18 8 ∧ o.parent = some n ∧ o.children = [] ∧ o.ready = false ∧ o.totals.late = 0 ∧
      o.execs = participates v (BitVec.ofNat 32 (bodyN c 0x20 4)) ∧
      exec (.globalOpCell n c) s = .next (settle (forwardFlood n c (tryDone o.orig o.opNo
        (sendOneHop n 0x21 v.node.id (opName o) (fab (fun f => { f with ops := f.ops ++ [o] }) { v with hif := { v.hif with order := v.hif.order + 1 } })))))) ∧
  (∀ (n : Fin 16) (c : Cell) (s : State) (f : GlobalOp → GlobalOp), Delivered n c s → (∀ o : GlobalOp, f o =
      if o.orig = BitVec.ofNat 12 (bodyN c 0x14 2) ∧ o.opNo = BitVec.ofNat 16 (bodyN c 0x16 2) ∧ now s < o.tick ∧ n ∉ o.children
      then { o with children := o.children ++ [n] } else o) →
    exec (.adopt n c) s = .next (settle { s with fabric := { s.fabric with ops := s.fabric.ops.map f } })) ∧
  (∀ (n : Fin 16) (c : Cell) (s : State) (f : GlobalOp → GlobalOp), Delivered n c s → (∀ o : GlobalOp, f o =
      if o.orig = BitVec.ofNat 12 (bodyN c 0x14 2) ∧ o.opNo = BitVec.ofNat 16 (bodyN c 0x16 2) ∧ n ∈ o.children ∧ n ∉ o.reported
      then { o with
             reported := o.reported ++ [n]
             totals := {
               executed := satN 32 (o.totals.executed + bodyN c 0x18 4), late := satN 32 (o.totals.late + bodyN c 0x1C 4), refused := satN 32 (o.totals.refused + bodyN c 0x20 4), lost := satN 32 (o.totals.lost + bodyN c 0x24 4) } }
      else o) →
    exec (.doneCell n c) s = .next (settle (tryDone (BitVec.ofNat 12 (bodyN c 0x14 2)) (BitVec.ofNat 16 (bodyN c 0x16 2))
      { s with fabric := { s.fabric with ops := s.fabric.ops.map f } }))) ∧
  (∀ (orig : BitVec 12) (no : BitVec 16) (o : GlobalOp) (s : State), opNamed s orig no = some o → o.tick + 4 ≤ now s →
    exec (.doneTimeout orig no) s = .next (settle (sendDone { o with totals := { o.totals with lost := satN 32 (o.totals.lost + (o.children.filter fun l => !o.reported.contains l).length) } } s))) ∧
  (∀ (n : Nat) (s : State), s.fabric.resetAt = some n → n ≤ now s →
    exec (.globalResetWarm) s = .next (resetTo false .globalReset s))

/-- At the kerf of a running node the port masks latched for the next tick commit and its schedule closes. A tick program that runs into the last cycle of the tick is cut. At the boundary the latched actions of the tick that begins take effect in a node whose counter is one higher, whose kerf is closed again and whose time has advanced by one tick, before anything else of the tick that begins. In sleep, and while the MEDIA or the FAB PLL is unlocked, the boundary counts and changes nothing but the counters. A node that is off has no tick. What is the model's choice in it, and no rule of the spec, is logged in notes/assumptions: 10 (DEDUCED), 13 (DESIGN CHOICE), 15 (DESIGN CHOICE), 22 (DEDUCED), 23 (DEDUCED), 145 (DESIGN CHOICE), 165 (DEDUCED). -/
def Obligations.TickBoundaryAdvancesTheTick : Prop :=
  (∀ (s : State), s.power.state = .running → s.time.kerf = false →
    exec .tickKerfOpen s = .next (settle { commitsAtKerf s with time := { s.time with kerf := true } })) ∧
  (∀ (n : Fin 16) (s : State), s.tiles[n].cutDue = true → exec (.tileCut n) s = .next (overrun n s)) ∧
  (∀ (m : TickIn) (s : State), s.power.state = .running → tickRuns s = true → ∃ s0 : State,
      exec (.tickBoundary m) s = .next (settle (startTick m s0.hif.events.length (runAoipTx (runEth (handOver m (deliver (beginTick s0))))))) ∧
      s0.time.tick = s.time.tick + 1 ∧ s0.time.kerf = false ∧ s0.time.refTime = s.time.refTime + tickUnits s ∧
      s0.clock.nodeUnits = s.clock.nodeUnits + tickUnits s ∧ s0.timed = s.timed) ∧
  (∀ (m : TickIn) (s : State), (s.power.state = .sleep ∨ (s.power.state = .running ∧ tickRuns s = false)) → ∃ t : State, exec (.tickBoundary m) s = .next t ∧
      t.time.tick = s.time.tick + 1 ∧ t.time.kerf = false ∧ t.time.refTime = s.time.refTime + tickUnits s ∧
      t = { s with time := t.time, clock := { s.clock with nodeUnits := s.clock.nodeUnits + tickUnits s }, wear := { s.wear with days := t.wear.days }, hif := { s.hif with polledThisTick := false } }) ∧
  (∀ (m : TickIn) (s : State), s.power.state = .off → exec (.tickBoundary m) s = .next s)

/-- At a boundary, an action latched for the tick that acts on at least one object, all of whose objects later accepted latched actions act on as well, has no effect and completes with OK. Any other takes its effect with the objects that later actions have won left out; the global operations of the boundary stand among the actions by their acceptance. The actions run in the order of their kind and then in acceptance order: within one place of the order, an action accepted after another runs on the state the other left. What is the model's choice in it, and no rule of the spec, is logged in notes/assumptions: 10 (DEDUCED), 12 (DEDUCED), 59 (DEDUCED). -/
def Obligations.LatchedActionsTakenByObject : Prop :=
  (∀ (x : Timed × List Obj) (s : State), objsOf s x.1.act ≠ [] → (∀ o ∈ objsOf s x.1.act, o ∈ x.2) → (∀ a, x.1.act ≠ .ageDecide a) →
    applyLatched x s = complete x.1.ticket 0 0 s) ∧
  (∀ (x : Timed × List Obj) (s : State) (o : Obj), o ∈ objsOf s x.1.act → o ∉ x.2 →
    applyLatched x s = applyAction x.1.ticket (fun p => x.2.contains p) x.1.act s) ∧
  (∀ (s : State) (g : List (Obj × Nat)) (t : Timed) (l : List Timed), withLater s g (t :: l) =
    (t, (l.flatMap fun u => objsOf s u.act) ++ ((g.filter fun x => decide (t.ticket.order < x.2)).map fun x => x.1)) :: withLater s g l) ∧
  (∀ (s : State) (l : List Timed) (o : GlobalOp) (g : List GlobalOp), globalsLater s l (o :: g) =
    (o, (g.flatMap fun p => globalObjs s p) ++
      ((l.filter fun t => decide (o.order < t.ticket.order)).flatMap fun t => objsOf s t.act)) :: globalsLater s l g) ∧
  (∀ (k : Nat) (l m : List (Timed × List Obj)) (x : Timed × List Obj) (s : State), x.1.act.order = k →
    runOrder k (l ++ x :: m) s = runOrder k m (applyLatched x (runOrder k l s))) ∧
  (∀ (t : Ticket) (won : Obj → Bool) (a : RouteAct) (s : State), (applyRoute a s).1 = true →
    applyAction t won (.routeSet a) s = complete t (if t.late then 1 else 0) 0 (applyRoute a s).2)

/-- A measured second judges every candidate, cross-checks and reselects: with none selected and no claim of class 0, that is the whole effect. An input fault leaves a present candidate ABSENT on a stop and QUALIFYING otherwise, and reselects; a detected signal takes an ABSENT candidate to QUALIFYING. Every DPLL update accumulates the offset of the last word; without a candidate the next word is the holdover frequency's; a follower without a newer beat holds its offset; a loop that tracks corrects by 2ω·e within SLOPE and integrates ω²·e, and locks after 10 s below 100 ns; a slewing loop above its threshold turns at the full SLOPE, its integrator standing. The first qualified candidate aligns an unaligned counter: PTP at its time, PPS at the nearest second, WCK, AES11 and F10M at node time on their nearest edge; LOCAL does once the wait after HOST_READY is over with no candidate qualified, and not before. What is the model's choice in it, and no rule of the spec, is logged in notes/assumptions: 9 (DESIGN CHOICE), 62 (DESIGN CHOICE), 64 (DEDUCED), 66 (DEDUCED), 151 (DESIGN CHOICE), 152 (DEDUCED). -/
def Obligations.CandidatesQualifySelectAndAlign : Prop :=
  (∀ (m : SecondIn) (s1 s : State), s1 = reselect (crossCheck ((fins 8).foldl (fun s n =>
      candSecond n (m.cands.getD n.val { present := false, ofsLocal := 0, ofsOutput := 0, servoNs := 0 }) s)
      { s with clock := { s.clock with temp := m.tempMk } })) → s1.clock.selected = none → claimClass s1 ≠ 0 →
    exec (.refSecond m) s = .next (settle { s1 with clock := { s1.clock with timeErr := 0xFFFF } })) ∧
  (∀ (n : Fin 8) (f : RefFault) (s : State), s.clock.cands[n].state ≠ .disabled → s.clock.cands[n].state ≠ .absent →
    exec (.refInputFault n f) s = .next (settle (reselect (disqualify n (if f = .stop then .absent else .qualifying) s)))) ∧
  (∀ (n : Fin 8) (st : CandState) (s : State), (disqualify n st s).clock.cands[n].state = st) ∧
  (∀ (n : Fin 8) (s : State), s.clock.cands[n].state = .absent → candActive s n = true →
    ∃ v : Vector Cand 8, exec (.refSignalDetect n) s = .next { s with clock := { s.clock with cands := v } } ∧
      AgreeOff n v s.clock.cands ∧ v[n] = { s.clock.cands[n] with state := .qualifying, left := qualS s }) ∧
  (∀ (x : Int) (s : State), isFollower s = false → s.clock.selected = none →
    exec (.dpllUpdate x) s = .next (settle { s with clock := { s.clock with
      accum := s.clock.accum + (s.clock.integ + s.clock.corr), sinceUs := s.clock.sinceUs + 10, integ := holdFreq s, corr := 0, fcw := controlWord (holdFreq s + 0) } })) ∧
  (∀ (x : Int) (s : State), isFollower s = true → s.clock.fabNew = false →
    exec (.dpllUpdate x) s = .next (settle { s with clock := { s.clock with
      accum := s.clock.accum + (s.clock.integ + s.clock.corr), sinceUs := s.clock.sinceUs + 10, fcw := controlWord (s.clock.integ + s.clock.corr) } })) ∧
  (∀ (x e f g : Int) (n : Fin 8) (w : Nat) (s : State), isFollower s = false → s.clock.selected = some n → candType s n = 3 →
    s.clock.dpll = .tracking → e = phaseError s n x → e.natAbs < 100 → 10000000 ≤ s.clock.lowUs + (s.clock.sinceUs + 10) →
    w = bandwidth s n * 6283185307 →
    f = clampI (-(slope s * 10 ^ 13 : Nat)) (slope s * 10 ^ 13 : Nat) (-(2 * w * e)) →
    g = s.clock.integ - roundDiv ((w : Int) ^ 2 * e * (s.clock.sinceUs + 10 : Nat)) (10 ^ 18) →
    exec (.dpllUpdate x) s = .next (settle { s with clock := { s.clock with
      accum := s.clock.accum + (s.clock.integ + s.clock.corr), sinceUs := 0, fabNew := false, error := clampI (-2147483648) 2147483647 e, lowUs := s.clock.lowUs + (s.clock.sinceUs + 10), dpll := .locked, timeFar := false, corr := f, integ := g, fcw := controlWord (g + f) } })) ∧
  (∀ (x e f : Int) (n : Fin 8) (s : State), isFollower s = false → s.clock.selected = some n → candType s n = 3 →
    s.clock.dpll = .slew → e = phaseError s n x → 100 ≤ e → belowThreshold s (bandwidth s n) e = false →
    f = -(slope s * 10 ^ 13 : Nat) →
    exec (.dpllUpdate x) s = .next (settle { s with clock := { s.clock with
      accum := s.clock.accum + (s.clock.integ + s.clock.corr), sinceUs := 0, fabNew := false, error := clampI (-2147483648) 2147483647 e, lowUs := 0, timeFar := false, corr := f, fcw := controlWord (s.clock.integ + f) } })) ∧
  (∀ (n : Fin 8) (t : TimeVal) (s : State), s.time.aligned = false → s.clock.cands[n].state = .qualified → candType s n = 2 →
    exec (.tickAlignment n t) s = .next (alignAt (unitsOf t) s)) ∧
  (∀ (n : Fin 8) (t : TimeVal) (s : State), s.time.aligned = false → s.clock.cands[n].state = .qualified → candType s n = 6 →
    exec (.tickAlignment n t) s = .next (alignAt ((s.clock.nodeUnits + refSecond / 2) / refSecond * refSecond) s)) ∧
  (∀ (n : Fin 8) (t : TimeVal) (s : State), s.time.aligned = false → s.clock.cands[n].state = .qualified → (candType s n = 3 ∨ candType s n = 4 ∨ candType s n = 5) →
    exec (.tickAlignment n t) s = .next (alignEdge s)) ∧
  (∀ (s : State), s.time.aligned = false → s.power.stage = .hostReady → s.power.readyAt + regFld s Reg.refAlignCtrl 7 0 * refSecond ≤ s.time.refTime → (∀ n : Fin 8, s.clock.cands[n].state ≠ .qualified) →
    exec (.alignWaitExpiry) s = .next (alignAt s.clock.nodeUnits s)) ∧
  (∀ (s : State), alignWaitOver s = false →
    exec (.alignWaitExpiry) s = .next (s)) ∧
  (∀ (u : Nat) (s : State), (alignAt u s).time.tick = BitVec.ofNat 64 (u / tickUnits s) ∧ (alignAt u s).time.aligned = true ∧
    (alignAt u s).clock.nodeUnits = u / tickUnits s * tickUnits s) ∧
  (∀ (s : State), (alignEdge s).time.tick = BitVec.ofNat 64 (s.clock.nodeUnits / tickUnits s) ∧ (alignEdge s).time.aligned = true ∧
    (alignEdge s).clock.accum = s.clock.accum - s.clock.error * 10 ^ 17 ∧ (alignEdge s).clock.error = 0) ∧
  (∀ (k : Nat) (ns : Int) (s : State) (x : Timed), x ∈ s.timed → ∃ y ∈ (loadTick k ns s).timed, y.act = x.act ∧
    y.tick = max x.tick (openTick (loadTick k ns s)) ∧ (y.tick ≠ x.tick → y.ticket.late = true))

/-- A TIME_SYNC cell of a neighbour gives its link a new measured offset and delay from both nodes' RX_OFFSETs and marker lags and the link's asymmetry, and the neighbour's anchor and standby entries. At the first boundary at which the newest beat is BEAT_LAG + 2 ticks old, a follower raises ANCHOR_LOST and follows the standby; the standby claims anchorship with GEN + 1. A node whose own claim has ranked better for WTR_S seconds claims anchorship with GEN + 1. What is the model's choice in it, and no rule of the spec, is logged in notes/assumptions: 15 (DESIGN CHOICE), 16 (DEDUCED), 65 (DEDUCED). -/
def Obligations.AnchorHeardLostAndClaimed : Prop :=
  (∀ (n : Fin 16) (c : Cell) (s : State), Delivered n c s → ∃ (t : LinkTime) (v : Vector (Option LinkTime) 16),
    exec (.timeSync n c) s = .next (settle { s with clock := { s.clock with ofLink := v, fabNew := s.clock.fabNew || newerBeat s n t } }) ∧
    AgreeOff n v s.clock.ofLink ∧ v[n] = some t ∧
    t.theta = s.links[n].rxOfs * 125 - signed 32 (bodyN c 0x14 4) * 125 - 2 * bodyN c 0x18 2 + 2 * s.links[n].lag -
      signed 16 (regFld s (Reg.fabAsym n) 15 0) * 125 ∧
    t.delay = s.links[n].rxOfs * 125 + signed 32 (bodyN c 0x14 4) * 125 - 2 * s.links[n].lag - 2 * bodyN c 0x18 2 +
      signed 16 (regFld s (Reg.fabAsym n) 15 0) * 125 ∧
    t.flags.toNat = bodyN c 0x1A 1 % 256 ∧ t.anchor = anchorAt c 0x1C ∧ t.standby = anchorAt c 0x24 ∧ t.at_ = now s) ∧
  (∀ (s : State), s.clock.isAnchor = false → now s < s.clock.beatTick + s.clock.beatLag + 2 →
    exec (.anchorLost) s = .next (s)) ∧
  (∀ (s : State) (a : AnchorEntry), s.clock.isAnchor = false → s.clock.beatTick + s.clock.beatLag + 2 ≤ now s → s.clock.anchor = some a →
    s.clock.isStandby = false → ∃ (s1 u : State), s1 = raise Src.anchorLost 0 0 { s with clock := { s.clock with lost := some a } } ∧
      exec .anchorLost s = .next (settle (anchorChanged s.clock.anchor u)) ∧ u.clock.anchor = s1.clock.standby ∧ u.clock.standby = none ∧
      u.clock.beatTick = now s1 ∧ u = { s1 with clock := { s1.clock with anchor := s1.clock.standby, standby := none, beatTick := now s1, upstream := u.clock.upstream } }) ∧
  (∀ (s : State) (a : AnchorEntry), s.clock.isAnchor = false → s.clock.beatTick + s.clock.beatLag + 2 ≤ now s → s.clock.anchor = some a →
    s.clock.isStandby = true → ∃ (s1 u : State), s1 = raise Src.anchorLost 0 0 { s with clock := { s.clock with lost := some a } } ∧
      exec .anchorLost s = .next (settle (reselect (anchorChanged s.clock.anchor u))) ∧ u.clock.isAnchor = true ∧
      u.clock.gen = s.clock.gen + 1 ∧ u.clock.isStandby = false ∧ u.clock.upstream = none ∧
      u = { s1 with clock := { s1.clock with isAnchor := true, isStandby := false, gen := s.clock.gen + 1, upstream := none, betterSince := none, standby := none, anchor := u.clock.anchor } }) ∧
  (∀ (s : State) (t : Nat) (o : AnchorEntry), s.clock.betterSince = some t → ownClaim s = some o → s.clock.isAnchor = false →
    t + wtrS s * refSecond ≤ s.time.refTime →
    exec .anchorClaim s = .next (settle (reselect (anchorChanged s.clock.anchor { s with
      clock := { s.clock with isAnchor := true, isStandby := false, gen := s.clock.gen + 1, upstream := none, betterSince := none, anchor := some { o with gen := s.clock.gen + 1 } } }))))

/-- A lost lock clears the PLL's lock, sets its sticky bit and raises PLL_UNLOCK; the MEDIA PLL also stops the master ports, the SERDES PLL the links. A requested PLL that locks on the k-th nearest band within 1.5 % takes that band, and its domain starts; without one PLL_BAND_MISS is raised. A measurement ends with the measured value and DONE. REF_FORCE and PULSE_ALIGN are held for their tick; REF_QUERY waits for the boundary; TIME_SET sets the second count and keeps the phase before alignment and is refused with ALREADY_ALIGNED (0x40) after it. A write of PULSE_CFG_m takes effect at once on an output that is off. REF_FORCE at its boundary selects a QUALIFIED or waiting candidate and refuses others with 0x41. What is the model's choice in it, and no rule of the spec, is logged in notes/assumptions: 9 (DESIGN CHOICE), 17 (DEDUCED), 63 (DEDUCED), 67 (DESIGN CHOICE), 153 (DESIGN CHOICE), 165 (DEDUCED). -/
def Obligations.PllsPulsesAndForcedReference : Prop :=
  (∀ (p : Fin 6) (v : Vector Pll 6) (s : State), p ≠ 4 → p ≠ 3 → v = vset s.clock.plls p { s.clock.plls[p] with locked := false } →
    exec (.pllUnlock p) s = .next (settle (raise Src.pllUnlock p 0 (sticky Reg.clkUnlockStat p { s with clock := { s.clock with plls := v } })))) ∧
  (∀ (v : Vector Pll 6) (s : State), v = vset s.clock.plls 4 { s.clock.plls[(4 : Fin 6)] with locked := false } →
    exec (.pllUnlock 4) s = .next (settle (stopMasters (raise Src.pllUnlock 4 0 (sticky Reg.clkUnlockStat 4 { s with clock := { s.clock with plls := v } }))))) ∧
  (∀ (v : Vector Pll 6) (s : State), v = vset s.clock.plls 3 { s.clock.plls[(3 : Fin 6)] with locked := false } →
    exec (.pllUnlock 3) s = .next (settle ((fins 16).foldl (fun s n => if s.links[n].state = .down then s else linkLost n s)
      (raise Src.pllUnlock 3 0 (sticky Reg.clkUnlockStat 3 { s with clock := { s.clock with plls := v } }))))) ∧
  (∀ (p : Fin 6) (k : Nat) (f : BitVec 24) (x : Nat × Nat × Nat) (s : State), s.clock.plls[p].locked = false → pllRequested s p = true → s.power.stage = .hostReady → (bandTries s p (vcoKhz s (coreStepped s) p))[k]? = some x → 1000 * ((f.toNat : Int) - x.2.2).natAbs ≤ 5 * x.2.2 →
    exec (.pllLock p k f) s = .next (settle (domainStarts p { s with clock := { s.clock with plls := vset s.clock.plls p { locked := true, band := x.2.1 } } }))) ∧
  (∀ (p : Fin 6) (k : Nat) (f : BitVec 24) (s : State), s.clock.plls[p].locked = false → pllRequested s p = true → s.power.stage = .hostReady → (bandTries s p (vcoKhz s (coreStepped s) p))[k]? = none →
    exec (.pllLock p k f) s = .next (settle (raise Src.pllBandMiss p 0 (sticky Reg.clkUnlockStat (8 + p.val) { s with clock := { s.clock with plls := vset s.clock.plls p { s.clock.plls[p] with locked := false } } })))) ∧
  (∀ (path : AccessPath) (v : Word) (s : State), path ≠ .mb0 → regsOpen s = true → fld v 3 3 = 1 → fld v 2 0 < 6 → ∃ u : State,
    exec (.pllMeasStart path v) s = .next (settle u) ∧ u.clock = { s.clock with measuring := some (fld v 2 0) } ∧
    regGet u Reg.pllMeasCtrl = BitVec.ofNat 32 (fld v 2 0) ∧ (∀ off, off ≠ Reg.pllMeasCtrl → regGet u off = regGet s off) ∧
    u = { s with regs := u.regs, clock := u.clock }) ∧
  (∀ (f : BitVec 24) (p : Fin 6) (s : State), s.clock.measuring = some p.val → ∃ u : State,
    exec (.pllMeasDone f) s = .next u ∧ regGet u Reg.pllMeas = BitVec.ofNat 32 (s.clock.plls[p].band % 256 + f.toNat * 256) ∧
    regBit u Reg.pllMeasCtrl 31 = true ∧ (∀ off, off ≠ Reg.pllMeas → off ≠ Reg.pllMeasCtrl → regGet u off = regGet s off) ∧
    u = { s with regs := u.regs, clock := { s.clock with measuring := none } }) ∧
  (∀ (path : AccessPath) (m : Fin 2) (v : Word) (s : State), path ≠ .mb0 → regsOpen s = true →
    exec (.pulseCfgWrite path m v) s = .next (settle (if s.clock.pulses[m].running = 0 then alignPulse m (regSet (Reg.pulseCfg m) (v &&& 0xFFF7) s)
      else regSet (Reg.pulseCfg m) (v &&& 0xFFF7) s))) ∧
  (∀ (h : CmdHdr) (sec : BitVec 64) (s : State), Taken h false s → s.time.aligned = false →
    exec (.timeSet h sec) s = .next (settle (complete (ticketOf h s) 0 0 { (takenState h s) with clock := { s.clock with nodeUnits := sec.toNat * refSecond + s.clock.nodeUnits % refSecond, timeSet := true } }))) ∧
  (∀ (h : CmdHdr) (sec : BitVec 64) (s : State), Taken h false s → s.time.aligned = true →
    exec (.timeSet h sec) s = .next (settle (complete (ticketOf h s) 0x40 0 (takenState h s)))) ∧
  (∀ (h : CmdHdr) (addr : BitVec 64) (s : State), Taken h false s → aligned8 addr = true →
    exec (.refQuery h addr) s = .next (settle { (takenState h s) with clock := { s.clock with queries := s.clock.queries ++ [((ticketOf h s), addr)] } })) ∧
  (∀ (h : CmdHdr) (tick : BitVec 64) (c : Byte) (s : State) (n : Nat) (late : Bool), Taken h true s → schedule tick s = some (n, late) →
    (c.toNat < 8 ∨ c = 0xFF) → exec (.refForce h tick c) s = .next (settle (hold n (ticketOf h s) late (.refForce (toFin? 8 c.toNat)) (takenState h s)))) ∧
  (∀ (h : CmdHdr) (tick : BitVec 64) (m : BitVec 10) (s : State) (n : Nat) (late : Bool), Taken h true s → schedule tick s = some (n, late) →
    m ≠ 0 → exec (.pulseAlign h tick m) s = .next (settle (hold n (ticketOf h s) late (.pulseAlign m) (takenState h s)))) ∧
  (∀ (n : Fin 8) (s : State), isFollower s = false → (s.clock.cands[n].state = .qualified ∨ s.clock.cands[n].state = .waitRestore) →
    ∃ v : Vector Cand 8, AgreeOff n v s.clock.cands ∧ v[n] = { s.clock.cands[n] with state := .qualified, left := 0, everQualified := true } ∧
      applyRefForce (some n) s = (0, reselect { s with clock := { s.clock with cands := v, forced := some n } })) ∧
  (∀ (n : Fin 8) (s : State), isFollower s = false → s.clock.cands[n].state ≠ .qualified → s.clock.cands[n].state ≠ .waitRestore →
    applyRefForce (some n) s = (0x41, s))

/-- CMP_SET with fields in range sets a unit whose time lies ahead and completes with OK; one that lies in the past fires at once and completes with OK_LATE unless it is periodic; an action toward an EVT pin that is no output is refused with PIN_INPUT (0x43). A fire runs the unit's action at its time, and a periodic unit waits for its next period. A fire is not run before its time, and neither fires nor captures happen while the TIME domain stands still. An edge, its stamp carried to node time, is taken by every enabled unit that selects it, and lost within 100 ns of its previous capture, setting its bit. TIME_QUERY writes NOW, the tick and all captures. What is the model's choice in it, and no rule of the spec, is logged in notes/assumptions: 9 (DESIGN CHOICE), 14 (DESIGN CHOICE), 15 (DESIGN CHOICE), 17 (DEDUCED), 165 (DEDUCED). -/
def Obligations.ComparatorsAndCaptures : Prop :=
  (∀ (h : CmdHdr) (a : CmpSetArgs) (u : Fin 32) (s : State), Taken h false s → cmpBad a = false → a.unit.toNat = u.val → a.action.toNat = 1 → a.periodic = false → (nodeNow (takenState h s)).1 < timeOf a.time →
    exec (.cmpSet h a) s = .next (settle (complete (ticketOf h s) 0 0 (cmpMod u { action := 1, arg := a.arg.toNat, report := a.report, pulse := a.pulseNs.toNat, period := 0, next := some (timeOf a.time) } (nodeNow (takenState h s)).2)))) ∧
  (∀ (h : CmdHdr) (a : CmpSetArgs) (u : Fin 32) (s : State), Taken h false s → cmpBad a = false → a.unit.toNat = u.val → a.action.toNat = 1 → a.periodic = false → timeOf a.time ≤ (nodeNow (takenState h s)).1 →
    exec (.cmpSet h a) s = .next (settle (complete (ticketOf h s) 1 0 (cmpFire u (nodeNow (takenState h s)).1 (cmpMod u { action := 1, arg := a.arg.toNat, report := a.report, pulse := a.pulseNs.toNat, period := 0, next := none } (nodeNow (takenState h s)).2))))) ∧
  (∀ (h : CmdHdr) (a : CmpSetArgs) (u : Fin 32) (s : State) (n k : Nat), Taken h false s → cmpBad a = false → a.unit.toNat = u.val →
    a.action.toNat = 1 → a.periodic = true → n = (nodeNow (takenState h s)).1 → (n < timeOf a.time + k * a.period.toNat) →
    (k = 0 ∨ timeOf a.time + (k - 1) * a.period.toNat ≤ n) →
    exec (.cmpSet h a) s = .next (settle (complete (ticketOf h s) 0 0 (cmpMod u
      { action := 1, arg := a.arg.toNat, report := a.report, pulse := a.pulseNs.toNat, period := a.period.toNat, next := some (timeOf a.time + k * a.period.toNat) } (nodeNow (takenState h s)).2)))) ∧
  (∀ (h : CmdHdr) (a : CmpSetArgs) (k : Fin 4) (s : State), Taken h false s → cmpBad a = false → a.arg.toNat = k.val → 2 ≤ a.action.toNat → a.action.toNat ≤ 4 → evtOut (takenState h s) k = false →
    exec (.cmpSet h a) s = .next (settle (complete (ticketOf h s) 0x43 0 (takenState h s)))) ∧
  (∀ (h : CmdHdr) (a : CmpSetArgs) (u : Fin 32) (s : State), Taken h false s → cmpBad a = false → a.unit.toNat = u.val → a.action.toNat = 0 →
    exec (.cmpSet h a) s = .next (settle (complete (ticketOf h s) 0 0 (cmpMod u Comparator.off (takenState h s))))) ∧
  (∀ (u : Fin 32) (t : Nat) (c : Comparator) (s : State), timeRuns s = true → c = s.net.cmps[u] → c.next = some t → t < boundaryTime s + tickSpan s → c.period ≠ 0 →
    exec (.cmpFire u) s = .next (settle (cmpFire u t (cmpMod u { c with next := some (t + c.period) } s)))) ∧
  (∀ (u : Fin 32) (t : Nat) (c : Comparator) (s : State), timeRuns s = true → c = s.net.cmps[u] → c.next = some t → t < boundaryTime s + tickSpan s → c.period = 0 →
    exec (.cmpFire u) s = .next (settle (cmpFire u t (cmpMod u { c with next := none } s)))) ∧
  (∀ (u : Fin 32) (t : Nat) (s : State), s.net.cmps[u].action = 1 → s.net.cmps[u].report = true →
    cmpFire u t s = report 0x0403 u (timeBytes t) s) ∧
  (∀ (src : BitVec 6) (up : Bool) (t : TimeVal) (u : Fin 16) (s : State), timeRuns s = true → capSourceOk s src.toNat = true → (fins 16).filter (fun u : Fin 16 => regBit s (Reg.timeCapCfg u) 0 && decide (capSource s u = src.toNat) && capEdge s u src.toNat up) = [u] →
    exec (.captureEdge src up t) s = .next (settle (captureOne u (toNode s (timeOf t)) s))) ∧
  (∀ (u : Fin 32) (s : State), (timeRuns s = false ∨ ∀ t, s.net.cmps[u].next = some t → boundaryTime s + tickSpan s ≤ t) →
    exec (.cmpFire u) s = .next (s)) ∧
  (∀ (src : BitVec 6) (up : Bool) (t : TimeVal) (s : State), timeRuns s = false →
    exec (.captureEdge src up t) s = .next (s)) ∧
  (∀ (u : Fin 16) (t t0 : Nat) (s : State), s.net.caps[u].time = some t0 → t < t0 + 100 * 65536 → captureOne u t s = sticky Reg.timeCapStat u s) ∧
  (∀ (h : CmdHdr) (addr : BitVec 64) (s : State), Taken h false s → aligned8 addr = true →
    exec (.timeQuery h addr) s = .next (settle (resultThen (ticketOf h s) addr.toNat (timeBytes (nodeNow (takenState h s)).1 ++ leBytes 8 (now s) ++ leBytes 8 0 ++
      (s.net.caps.toList.flatMap fun c => timeBytes (c.time.getD 0)) ++ (s.net.caps.toList.flatMap fun c => leBytes 4 c.count)) 0 (nodeNow (takenState h s)).2)))

/-- A lost link takes the port down, discards what waits for transmission, reports and raises ETH_LINK_DOWN. A found link of a port in a mode, not fenced, comes up and reports. A write of ETH_CTRL before the lock stores its fields and takes an up port down. A received frame with a bad FCS or length is dropped and counted; a MAC control frame changes nothing here; a PTP message of a port without PTP_EN goes on to the filters; an ARP for the port's address passes through the buffer; an unclassified frame goes to queue 15, or to the queue of its first matching filter with its timestamp where asked, within the queue's limit and the buffer; a queue with CONSUMER 0 discards. What is the model's choice in it, and no rule of the spec, is logged in notes/assumptions: 9 (DESIGN CHOICE), 68 (DEDUCED), 69 (PRESUMED), 70 (DEDUCED), 71 (DESIGN CHOICE), 72 (DEDUCED). -/
def Obligations.EthernetLinksAndFrames : Prop :=
  (∀ (p : Fin 4) (s : State), s.net.eth[p].up = true →
    exec (.ethLinkDown p) s = .next (settle (raise Src.ethLinkDown p 0 (ethDown p s)))) ∧
  (∀ (p : Fin 4) (s : State), s.net.eth[p].up = true → ∃ v : Vector EthPort 4,
    ethDown p s = report 0x0501 p [0] { s with net := { s.net with eth := v } } ∧ AgreeOff p v s.net.eth ∧
    v[p] = { s.net.eth[p] with up := false, blockLock := false, fecLock := false, anDone := false, anPause := false, paused := false, pausing := false, tx := [], ptpState := 1 }) ∧
  (∀ (p : Fin 4) (fec an : Bool) (s : State), ethMode s p ≠ 0 → s.net.eth[p].up = false → fenced s (.eth p) = false →
    ∃ v : Vector EthPort 4, exec (.ethLinkUp p fec an) s = .next (settle (report 0x0501 p [1] { s with net := { s.net with eth := v } })) ∧
      AgreeOff p v s.net.eth ∧ v[p] = { s.net.eth[p] with
        up := true, blockLock := true, fecLock := decide (ethMode s p = 3) && regBit s (Reg.ethCtrl p) 3 && fec, anDone := decide (ethMode s p = 1) && regBit s (Reg.ethCtrl p) 4, anPause := decide (ethMode s p = 1) && regBit s (Reg.ethCtrl p) 4 && an }) ∧
  (∀ (path : AccessPath) (p : Fin 4) (v : Word) (s : State), path ≠ .mb0 → regsOpen s = true → locked s = false →
    exec (.ethCtrlWrite path p v) s = .next (settle (if s.net.eth[p].up
      then raise Src.ethLinkDown p 0 (ethDown p (regSet (Reg.ethCtrl p) (v &&& 0x3FFF001F) s))
      else regSet (Reg.ethCtrl p) (v &&& 0x3FFF001F) s))) ∧
  (∀ (path : AccessPath) (p : Fin 4) (v : Word) (s : State), path ≠ .mb0 → regsOpen s = true → locked s = true →
    exec (.ethCtrlWrite path p v) s = .next (settle s)) ∧
  (∀ (p : Fin 4) (f : EthFrame) (s : State), s.power.state = .running → s.net.eth[p].up = true → fenced s (.eth p) = false → (f.fcsOk = false ∨ frameLen f.bytes < 64 ∨ maxFrame s p < frameLen f.bytes) →
    exec (.ethFrameReceived p f) s = .next (settle (bump (Reg.ethRxDropCount p) 1 s))) ∧
  (∀ (p : Fin 4) (f : EthFrame) (s : State), s.power.state = .running → s.net.eth[p].up = true → fenced s (.eth p) = false → f.fcsOk = true → 64 ≤ frameLen f.bytes → frameLen f.bytes ≤ maxFrame s p → (frameView f.bytes).etype = 0x8808 →
    exec (.ethFrameReceived p f) s = .next (s)) ∧
  (∀ (p : Fin 4) (f : EthFrame) (s : State), s.power.state = .running → s.net.eth[p].up = true → fenced s (.eth p) = false → f.fcsOk = true → 64 ≤ frameLen f.bytes → frameLen f.bytes ≤ maxFrame s p → (frameView f.bytes).etype ≠ 0x8808 → (frameView f.bytes).etype ≠ 0x0806 → (frameView f.bytes).ipv4 = false → (frameView f.bytes).etype ≠ 0x88F7 →
    exec (.ethFrameReceived p f) s = .next (settle (enqueueRx p (steer s p f (frameView f.bytes)) s))) ∧
  (∀ (p : Fin 4) (f : EthFrame) (s : State), ethRuns s p = true → f.fcsOk = true → 64 ≤ frameLen f.bytes → frameLen f.bytes ≤ maxFrame s p → (frameView f.bytes).etype = 0x88F7 → (frameView f.bytes).ipv4 = false → regBit s (Reg.ethPtpCfg p) 0 = false →
    exec (.ethFrameReceived p f) s = .next (settle (enqueueRx p (steer s p f (frameView f.bytes)) s))) ∧
  (∀ (p : Fin 4) (f : EthFrame) (s : State), ethRuns s p = true → f.fcsOk = true → 64 ≤ frameLen f.bytes → frameLen f.bytes ≤ maxFrame s p → (frameView f.bytes).etype = 0x0806 → (frameView f.bytes).udp = false → regGet s (Reg.ethIpv4 p) ≠ 0 → frameN f.bytes ((frameView f.bytes).body + 24) 4 = (regGet s (Reg.ethIpv4 p)).toNat →
    exec (.ethFrameReceived p f) s = .next (settle (if 524288 < bufBytes s.net.eth[p].rx + frameLen f.bytes
      then bump (Reg.ethRxDropCount p) 1 s else passBuffer p (frameLen f.bytes) s))) ∧
  (∀ (p : Fin 4) (f : EthFrame) (s : State), ethRuns s p = false →
    exec (.ethFrameReceived p f) s = .next (s)) ∧
  (∀ (p : Fin 4) (f : EthFrame) (v : FrameView) (s : State), (∀ k : Fin 64, filterMatches s p k f.bytes v = false) →
    steer s p f v = { queue := 15, bytes := f.bytes, time := none }) ∧
  (∀ (p : Fin 4) (f : EthFrame) (v : FrameView) (k : Fin 64) (s : State), v.laterFragment = false →
    filterMatches s p k f.bytes v = true → (∀ j : Fin 64, j < k → filterMatches s p j f.bytes v = false) →
    (steer s p f v).queue.val = regFld s (Reg.ethFiltCtrl p k) 11 8 ∧ (steer s p f v).bytes = f.bytes ∧
    (steer s p f v).time = (if regBit s (Reg.ethFiltCtrl p k) 6 then some (rxStamp s p f.time) else none)) ∧
  (∀ (p : Fin 4) (f : RxFrame) (s : State), consumer s p f.queue = 0 → enqueueRx p f s = s) ∧
  (∀ (p : Fin 4) (f : RxFrame) (s : State), consumer s p f.queue = 1 →
    queueBytes s.net.eth[p].rx f.queue + frameLen f.bytes ≤ queueLimit s p f.queue → bufBytes s.net.eth[p].rx + frameLen f.bytes ≤ 524288 →
    ∃ v : Vector EthPort 4, AgreeOff p v s.net.eth ∧ v[p] = { s.net.eth[p] with rx := s.net.eth[p].rx ++ [f] } ∧
      enqueueRx p f s = pauseCheck p (bufBytes s.net.eth[p].rx) { s with net := { s.net with eth := v } }) ∧
  (∀ (p : Fin 4) (f : RxFrame) (s : State), consumer s p f.queue = 1 →
    (queueLimit s p f.queue < queueBytes s.net.eth[p].rx f.queue + frameLen f.bytes ∨ 524288 < bufBytes s.net.eth[p].rx + frameLen f.bytes) →
    enqueueRx p f s = bump (Reg.ethRxDropCount p) 1 s)

/-- A PAUSE on an up port whose reception is disabled or stuck is counted as ignored; a non-zero one pauses the port, a zero one or the end of its time resumes a paused one, and the watchdog, once it has been paused for WD_MS, resumes it, marks it stuck and raises ETH_PAUSE_STUCK. A frame to send waits on a paused port and is discarded on one that is down. PAUSE in force toward the partner is repeated after half its time while the buffer stays above LOW_PCT. Writing 1 clears STUCK and the count. What is the model's choice in it, and no rule of the spec, is logged in notes/assumptions: 9 (DESIGN CHOICE), 71 (DESIGN CHOICE), 72 (DEDUCED). -/
def Obligations.PausePacesAnEthernetPort : Prop :=
  (∀ (p : Fin 4) (q : BitVec 16) (s : State), ethRuns s p = true → ((pauseEnables s p).2 = false ∨ pauseStuck s p = true) →
    exec (.pauseReceived p q) s = .next (settle (bump (Reg.ethPauseIgnCount p) 1 s))) ∧
  (∀ (p : Fin 4) (q : BitVec 16) (s : State), ethRuns s p = true → (pauseEnables s p).2 = true → pauseStuck s p = false → q ≠ 0 →
    ∃ v : Vector EthPort 4, exec (.pauseReceived p q) s = .next { s with net := { s.net with eth := v } } ∧ AgreeOff p v s.net.eth ∧
      v[p] = { s.net.eth[p] with paused := true, pauseSince := if s.net.eth[p].paused then s.net.eth[p].pauseSince else s.time.refTime, pauseEnds := s.time.refTime + quantaUnits s p q.toNat }) ∧
  (∀ (p : Fin 4) (s : State), ethRuns s p = true → (pauseEnables s p).2 = true → pauseStuck s p = false → s.net.eth[p].paused = true →
    exec (.pauseReceived p 0) s = .next (settle (resumePort p s))) ∧
  (∀ (p : Fin 4) (s : State), s.net.eth[p].paused = true → mayHavePassed s s.net.eth[p].pauseEnds 0 = true →
    exec (.pauseExpiry p) s = .next (settle (resumePort p s))) ∧
  (∀ (p : Fin 4) (s : State), (s.net.eth[p].paused = false ∨ mayHavePassed s s.net.eth[p].pauseEnds 0 = false) →
    exec (.pauseExpiry p) s = .next (s)) ∧
  (∀ (p : Fin 4) (s : State), (s.net.eth[p].paused = false ∨ mayHavePassed s s.net.eth[p].pauseSince (watchdogUnits s p) = false) →
    exec (.pauseWatchdog p) s = .next (s)) ∧
  (∀ (p : Fin 4) (s : State), s.net.eth[p].paused = true → mayHavePassed s s.net.eth[p].pauseSince (watchdogUnits s p) = true →
    exec (.pauseWatchdog p) s = .next (settle (raise Src.ethPauseStuck p 0 (sticky (Reg.ethPauseStat p) 0 (resumePort p s))))) ∧
  (∀ (p : Fin 4) (f : TxFrame) (s : State), s.net.eth[p].up = true → s.net.eth[p].paused = true →
    ∃ v : Vector EthPort 4, launch p f s = { s with net := { s.net with eth := v } } ∧ AgreeOff p v s.net.eth ∧
      v[p] = { s.net.eth[p] with tx := s.net.eth[p].tx ++ [f] }) ∧
  (∀ (p : Fin 4) (f : TxFrame) (s : State), s.net.eth[p].up = false → launch p f s = s) ∧
  (∀ (p : Fin 4) (s : State), s.net.eth[p].pausing = true → s.net.eth[p].up = true → (pauseEnables s p).1 = true →
    regFld s (Reg.ethPauseCfg p) 22 16 * 524288 < bufBytes s.net.eth[p].rx * 100 →
    mayHavePassed s s.net.eth[p].pauseSent (quantaUnits s p (pauseQuanta s p) / 2) = true →
    ∃ v : Vector EthPort 4, exec (.pauseRefresh p) s = .next { s with net := { s.net with eth := v } } ∧ AgreeOff p v s.net.eth ∧
      v[p] = { s.net.eth[p] with pausing := true, pauseUntil := boundaryTime s + max 1 (regFld s (Reg.ethPauseQuanta p) 15 0) * 512000 / max 1 (lineMbps (ethMode s p)) * 65536, pauseSent := s.time.refTime, sent := s.net.eth[p].sent ++ [.pause (BitVec.ofNat 16 (max 1 (regFld s (Reg.ethPauseQuanta p) 15 0)))] }) ∧
  (∀ (path : AccessPath) (p : Fin 4) (v : Word) (s : State), path ≠ .mb0 → regsOpen s = true →
    exec (.pauseStuckClear path p v) s = .next (settle (if flag v 0
      then regSet (Reg.ethPauseIgnCount p) 0 (regSet (Reg.ethPauseStat p) 0 s) else s)))

/-- Peer delay messages are dropped and counted where PTP or the transparent clock runs. An Announce of another timescale than PTP's sets ARB. Any other message for the port's own domain, transport and VLAN moves the instance to the state it brings; a Sync leaves its master's time and its receive time, and a SLAVE that has asked for no delay yet sends a Delay_Req; a Delay_Req at a master is answered with its receive time. With the transparent clock on a message goes to every other up member, a Sync or Delay_Req with its residence time in the correction. A master sends Sync and Announce. Switching the instance on begins it in INITIALIZING; SLAVE_ONLY takes it out of MASTER. What is the model's choice in it, and no rule of the spec, is logged in notes/assumptions: 68 (DEDUCED), 73 (PRESUMED), 74 (DESIGN CHOICE), 155 (PRESUMED), 156 (DESIGN CHOICE). -/
def Obligations.PtpMessagesAnsweredAndForwarded : Prop :=
  (∀ (p : Fin 4) (m : PtpMsg) (s : State), ethRuns s p = true → m.kind = .pdelay → ptpOn s p = true →
    exec (.ptpMessage p m) s = .next (settle (bump (Reg.ethRxDropCount p) 1 s))) ∧
  (∀ (p : Fin 4) (m : PtpMsg) (s : State), ethRuns s p = true → m.kind ≠ .pdelay → bufferFull s p 64 = false → ptpOn s p = false → tcOn s p = true →
    exec (.ptpMessage p m) s = .next (settle (tcForward p m (passBuffer p 64 s)))) ∧
  (∀ (p : Fin 4) (m : PtpMsg) (s : State), ethRuns s p = true → m.kind ≠ .pdelay → bufferFull s p 64 = false → tcOn s p = false → ptpOn s p = true → m.domain.toNat = ptpDomain s p → m.l2 = ptpL2 s p → m.vlan = ptpVlan s p →
    exec (.ptpMessage p m) s = .next (settle (ptpInstance p m (passBuffer p 64 s)))) ∧
  (∀ (p : Fin 4) (m : PtpMsg) (s : State), ethRuns s p = true → m.kind ≠ .pdelay → bufferFull s p 64 = false → tcOn s p = false → m.domain.toNat ≠ ptpDomain s p →
    exec (.ptpMessage p m) s = .next (settle (passBuffer p 64 s))) ∧
  (∀ (p : Fin 4) (m : PtpMsg) (s : State), ethRuns s p = true → m.kind ≠ .pdelay → bufferFull s p 64 = true →
    exec (.ptpMessage p m) s = .next (settle (bump (Reg.ethRxDropCount p) 1 s))) ∧
  (∀ (p : Fin 4) (m : PtpMsg) (s : State), m.kind = .announce → m.ptpTimescale = false → ∃ v : Vector EthPort 4,
    ptpInstance p m s = { s with net := { s.net with eth := v } } ∧ AgreeOff p v s.net.eth ∧ v[p] = { s.net.eth[p] with arb := true }) ∧
  (∀ (p : Fin 4) (m : PtpMsg) (s : State), m.kind = .sync → ptpStateOf s p m.portState ≠ 9 → ∃ v : Vector EthPort 4,
    ptpInstance p m s = { s with net := { s.net with eth := v } } ∧ AgreeOff p v s.net.eth ∧
    v[p] = { s.net.eth[p] with
             ptpState := ptpStateOf s p m.portState, rxTime := some (rxStamp s p m.time)
             masterTime := some ((m.seconds.toNat * (65536 * 1000000000) + m.nanos.toNat * 65536 : Nat) + m.correction.toInt) }) ∧
  (∀ (p : Fin 4) (s : State), s.net.eth[p].ptpState = 9 → s.net.eth[p].delayReqAt = none → ∃ v : Vector EthPort 4,
    sendDelayReq p s = launch p (.ptp (some (ptpHead s p (ptpIntervals s p).2.2)) (.delayReq s.net.eth[p].reqSeq))
      { s with net := { s.net with eth := v } } ∧ AgreeOff p v s.net.eth ∧
    v[p] = { s.net.eth[p] with delayReqAt := some s.time.refTime, reqSeq := s.net.eth[p].reqSeq + 1 }) ∧
  (∀ (p : Fin 4) (m : PtpMsg) (s : State), m.kind = .delayReq → s.net.eth[p].ptpState = 6 → ∃ v : Vector EthPort 4,
    ptpInstance p m s = launch p (.ptp (some (ptpHead s p (ptpIntervals s p).2.2))
      (.delayResp m.requester m.sequence (ptpTime (rxStamp s p m.time)))) { s with net := { s.net with eth := v } } ∧
    AgreeOff p v s.net.eth ∧ v[p] = { s.net.eth[p] with ptpState := ptpStateOf s p m.portState, rxTime := some (rxStamp s p m.time) }) ∧
  (∀ (p : Fin 4) (x : BitVec 4) (s : State), (x = 5 ∨ x = 6) → regBit s (Reg.ethPtpCfg p) 3 = true → ptpStateOf s p x = 4) ∧
  (∀ (m : PtpMsg) (r : Int), (m.kind = .sync ∨ m.kind = .delayReq) → m.correction ≠ 0x7FFFFFFFFFFFFFFF →
    corrected m r = { m with correction := m.correction + BitVec.ofInt 64 r, checksum := if m.l2 then m.checksum else 0 }) ∧
  (∀ (m : PtpMsg) (r : Int), (m.kind ≠ .sync ∧ m.kind ≠ .delayReq) ∨ m.correction = 0x7FFFFFFFFFFFFFFF → corrected m r = m) ∧
  (∀ (t i : Nat) (m : PtpMsg), (PtpOut.forwarded m i).stamped t = .forwarded (corrected m ((t : Int) - i)) i) ∧
  (∀ (p : Fin 4) (s : State), ptpOn s p = true → s.net.eth[p].ptpState = 6 →
    exec (.ptpMasterSend p false) s = .next (settle (launch p (.ptp (some (ptpHead s p (ptpIntervals s p).1)) (.sync none)) s))) ∧
  (∀ (p : Fin 4) (s : State), ptpOn s p = true → s.net.eth[p].ptpState = 6 →
    exec (.ptpMasterSend p true) s = .next (settle (launch p (.ptp (some (ptpHead s p (ptpIntervals s p).2.1)) (announceOf s p).1) (announceOf s p).2))) ∧
  (∀ (p : Fin 4) (s : State), s.net.eth[p].ptpState ≠ 6 → ∀ a, exec (.ptpMasterSend p a) s = .next s) ∧
  (∀ (p : Fin 4) (s : State), ptpOn s p = true → (ptpCfgWritten p false s).net.eth[p].ptpState = 1) ∧
  (∀ (p : Fin 4) (s : State), ptpOn s p = true → regBit s (Reg.ethPtpCfg p) 3 = true → s.net.eth[p].ptpState = 6 →
    (ptpCfgWritten p true s).net.eth[p].ptpState = 4)

/-- A setting whose fields are in range, whose packets fit and whose ports are on is held for its tick, as is one that disables a stream; packets outside the payload limits are refused with 0x61, a port that is off with 0x62. At its boundary a receive setting that clashes with another enabled stream is refused with 0x60, another sets up its stream; a transmit setting over 80 % of a line is refused with REFUSED_BUDGET (3). A packet of a stream that comes in time goes to its ring at its timestamps, one already there counts as duplicate, a late one and an early one are counted. A packet of no stream changes nothing. What is the model's choice in it, and no rule of the spec, is logged in notes/assumptions: 17 (DEDUCED), 75 (DEDUCED), 76 (DESIGN CHOICE), 77 (PRESUMED), 78 (DEDUCED). -/
def Obligations.AoipStreamsSetReceivedAndQueried : Prop :=
  (∀ (h : CmdHdr) (a : AoipRxArgs) (s : State) (n : Nat) (late : Bool), Taken h true s → schedule a.tick s = some (n, late) →
    a.enable = true → streamBad s a.format.toNat a.channels.toNat a.firstCh.toNat a.ptime.toNat = false → 96 ≤ a.pt.toNat → a.pt.toNat ≤ 127 →
    packetSamples s a.ptime.toNat + spt s ≤ a.linkOffset.toNat → a.linkOffset.toNat ≤ 32768 →
    streamRefusal (takenState h s) a.format.toNat a.channels.toNat a.ptime.toNat ((rxLegs a).map (·.1)) = none →
    exec (.aoipRxSet h a) s = .next (settle (hold n (ticketOf h s) late (.aoipRx a.stream.toFin a) (takenState h s)))) ∧
  (∀ (h : CmdHdr) (a : AoipTxArgs) (s : State) (n : Nat) (late : Bool), Taken h true s → schedule a.tick s = some (n, late) →
    a.enable = true → streamBad s a.format.toNat a.channels.toNat a.firstCh.toNat a.ptime.toNat = false → 96 ≤ a.pt.toNat → a.pt.toNat ≤ 127 →
    (multicast a.dstIp = true ∨ a.dstMac ≠ 0) →
    streamRefusal (takenState h s) a.format.toNat a.channels.toNat a.ptime.toNat (txPorts a) = none →
    exec (.aoipTxSet h a) s = .next (settle (hold n (ticketOf h s) late (.aoipTx a.stream.toFin a) (takenState h s)))) ∧
  (∀ (s : State) (f c t : Nat) (l : List (Fin 4)), (c = 0 ∨ 64 < c ∨ 1440 < payloadBytes s f c t) → streamRefusal s f c t l = some (0x61, 0)) ∧
  (∀ (s : State) (f c t : Nat) (l : List (Fin 4)) (p : Fin 4), 1 ≤ c → c ≤ 64 → payloadBytes s f c t ≤ 1440 → p ∈ l → ethMode s p = 0 →
    streamRefusal s f c t l = some (0x62, 0)) ∧
  (∀ (h : CmdHdr) (tick : BitVec 64) (st pair : Byte) (block : List Byte) (x : AoipTx) (s : State) (n : Nat) (late : Bool),
    Taken h true s → schedule tick s = some (n, late) → mapGet s.net.tx st.toNat = some x → x.cfg.format = 2 → pair.toNat ≤ 31 →
    block.length = 24 →
    exec (.aoipCsSet h tick st pair block) s = .next (settle (hold n (ticketOf h s) late (.aoipCs st.toFin pair.toNat block) (takenState h s)))) ∧
  (∀ (h : CmdHdr) (dir st pair : Byte) (addr : BitVec 64) (s : State), Taken h false s → dir.toNat ≤ 1 → pair.toNat ≤ 31 →
    exec (.aoipQuery h dir st pair addr) s = .next (settle { (takenState h s) with net := { s.net with queries := s.net.queries ++ [{ ticket := (ticketOf h s), tx := decide (dir.toNat = 1), stream := st.toFin, pair := pair.toNat, addr := addr }] } })) ∧
  (∀ (n : Fin 256) (a : AoipRxArgs) (x : AoipRx) (s : State), a.enable = true → x ∈ rxOthers s n →
    overlaps a.firstCh.toNat a.channels.toNat x.cfg.firstCh.toNat x.cfg.channels.toNat = true → applyAoipRx n a s = (0x60, s)) ∧
  (∀ (n : Fin 256) (a : AoipRxArgs) (s : State), a.enable = true → rxOthers s n = [] → mapGet s.net.rx n = none → rxWords s a ≤ 1048576 →
    applyAoipRx n a s = (0, igmpLegs a true { s with net := { s.net with rx := mapPut s.net.rx n (AoipRx.fresh a) } })) ∧
  (∀ (n : Fin 256) (a : AoipTxArgs) (p : Fin 4) (s : State), a.enable = true → p ∈ txPorts a →
    txFits s p (a :: (s.net.tx.filter fun e => decide (e.1 ≠ n.val) && e.2.on).map (·.2.cfg)) = false → applyAoipTx n a s = (3, s)) ∧
  (∀ (n : Fin 256) (a : AoipTxArgs) (s : State), a.enable = true → mapGet s.net.tx n = none →
    (∀ p ∈ txPorts a, txFits s p (a :: (s.net.tx.filter fun e => decide (e.1 ≠ n.val) && e.2.on).map (·.2.cfg)) = true) →
    ∃ q : BitVec 16, applyAoipTx n a s = (0, { s with free := s.free + 1, net := { s.net with tx := mapPut s.net.tx n { on := true, cfg := a, seq := q, sent := 0, late := 0, rtpLast := 0, buf := none, count := 0, cs := [], csNext := [] } } })) ∧
  (∀ (p : Fin 4) (x : RtpIn) (s : State), rxStreamOf s p x = none →
    exec (.aoipPacketReceived p x) s = .next (s)) ∧
  (∀ (p : Fin 4) (x : RtpIn) (n : Nat) (y : AoipRx) (e : RtpSample) (s : State), rxStreamOf s p x = some (n, y) →
    ethRuns s p = true → bufBytes s.net.eth[p].rx + (x.payload.length + 58) ≤ 524288 →
    (rtpData x).length = payloadBytes s y.cfg.format.toNat y.cfg.channels.toNat y.cfg.ptime.toNat →
    mapGet y.ring (x.ts.toNat % ringSize s y.cfg) = some e → e.ts = x.ts.toNat → ∃ z : AoipRx,
    exec (.aoipPacketReceived p x) s = .next { passBuffer p (x.payload.length + 58) s with
      net := { (passBuffer p (x.payload.length + 58) s).net with rx := mapModify s.net.rx n fun _ => z } } ∧
    z.dup = min (2 ^ 32 - 1) (y.dup + 1) ∧ z.ring = y.ring ∧ z.packets = y.packets ∧ z.late = y.late ∧ z.early = y.early) ∧
  (∀ (p : Fin 4) (x : RtpIn) (n r k : Nat) (y : AoipRx) (d : Int) (s : State), rxStreamOf s p x = some (n, y) →
    ethRuns s p = true → bufBytes s.net.eth[p].rx + (x.payload.length + 58) ≤ 524288 →
    (rtpData x).length = payloadBytes s y.cfg.format.toNat y.cfg.channels.toNat y.cfg.ptime.toNat →
    r = ringSize s y.cfg → k = packetSamples s y.cfg.ptime.toNat →
    (∀ e, mapGet y.ring (x.ts.toNat % r) = some e → e.ts ≠ x.ts.toNat) →
    d = signed 32 (unsign 32 ((x.ts.toNat : Int) + y.cfg.linkOffset.toNat - (spt s * now s : Nat))) →
    (x.sinceNs + 2000 : Nat) * (fs s : Int) ≤ ((((spt s * now s : Nat) : Int) + d) / (spt s : Int) - now s) * (spt s * 1000000000 : Nat) →
    d + k - 1 < r → ∃ z : AoipRx,
    exec (.aoipPacketReceived p x) s = .next { passBuffer p (x.payload.length + 58) s with
      net := { (passBuffer p (x.payload.length + 58) s).net with rx := mapModify s.net.rx n fun _ => z } } ∧
    z.packets = min (2 ^ 32 - 1) (y.packets + 1) ∧
    z.ring = (rtpSamples y.cfg x.ts.toNat (rtpData x) k).foldl (fun m e => mapPut m (e.ts % r) e) y.ring ∧
    z.dup = y.dup ∧ z.late = y.late ∧ z.early = y.early)

/-- A PORT_START at a tick of a port whose ASRC channels fit allocates them to a STOPPED port and is held; on a trigger it arms the STOPPED port at once, waits with a port that is not STOPPED, and is refused with FENCED (0xA); without the ASRC channels it is refused with ASRC_FULL (0x41). The channels needed count the PORT_SLOTS that wait. PORT_STOP and AES_CS_SET are held for their tick; PORT_SLOTS with masks within the slots whose channels fit is held, or with IMMEDIATE commits at acceptance and completes. PORT_QUERY and AES_QUERY wait for the boundary. What is the model's choice in it, and no rule of the spec, is logged in notes/assumptions: 17 (DEDUCED), 80 (DESIGN CHOICE), 84 (DEDUCED), 140 (DESIGN CHOICE). -/
def Obligations.PortCommandsTaken : Prop :=
  (∀ (h : CmdHdr) (tick : BitVec 64) (port : PortSel) (p : Fin 12) (k : Nat) (s : State) (n : Nat) (late : Bool), Taken h true s →
    schedule tick s = some (n, late) → portOf port = some p → k = asrcNeed p (regGet (takenState h s) (portCfgReg p)) (pendingMasks (takenState h s) p) →
    asrcOthers s p + k ≤ 256 → exec (.portStart h tick port 0) s = .next (settle (hold n (ticketOf h s) late (.portStart p)
      (if s.ports.port[p].state = .stopped then setAsrc p k (takenState h s) else takenState h s)))) ∧
  (∀ (h : CmdHdr) (tick : BitVec 64) (port : PortSel) (p : Fin 12) (s : State) (n : Nat) (late : Bool), Taken h true s →
    schedule tick s = some (n, late) → portOf port = some p →
    256 < asrcOthers s p + asrcNeed p (regGet (takenState h s) (portCfgReg p)) (pendingMasks (takenState h s) p) →
    exec (.portStart h tick port 0) s = .next (settle (complete (ticketOf h s) 0x41 0 (takenState h s)))) ∧
  (∀ (h : CmdHdr) (port : PortSel) (trig : Byte) (t : Fin 4) (p : Fin 12) (k : Nat) (s : State), Taken h true s → portOf port = some p →
    trig.toNat = t.val + 1 → fenced s (.port p) = false → s.ports.port[p].state = .stopped →
    k = asrcNeed p (regGet (takenState h s) (portCfgReg p)) (pendingMasks (takenState h s) p) → asrcOthers s p + k ≤ 256 →
    exec (.portStart h 0 port trig) s = .next (settle (setAsrc p k (portMod p (fun x =>
      { x with state := .armed, armed := some (ticketOf h s, t), fireAt := none }) (takenState h s))))) ∧
  (∀ (h : CmdHdr) (port : PortSel) (trig : Byte) (p : Fin 12) (s : State), Taken h true s → portOf port = some p →
    1 ≤ trig.toNat → trig.toNat ≤ 4 → fenced s (.port p) = true →
    exec (.portStart h 0 port trig) s = .next (settle (complete (ticketOf h s) 0xA 0 (takenState h s)))) ∧
  (∀ (h : CmdHdr) (port : PortSel) (trig : Byte) (t : Fin 4) (p : Fin 12) (s : State), Taken h true s → portOf port = some p →
    trig.toNat = t.val + 1 → fenced s (.port p) = false → s.ports.port[p].state ≠ .stopped →
    exec (.portStart h 0 port trig) s = .next (settle (portMod p (fun x =>
      { x with waits := x.waits ++ [(ticketOf h s, t, none)] }) (takenState h s)))) ∧
  (∀ (h : CmdHdr) (tick : BitVec 64) (port : PortSel) (p : Fin 12) (s : State) (n : Nat) (late : Bool), Taken h true s →
    schedule tick s = some (n, late) → portOf port = some p →
    exec (.portStop h tick port) s = .next (settle (hold n (ticketOf h s) late (.portStop p) (takenState h s)))) ∧
  (∀ (h : CmdHdr) (a : PortSlotsArgs) (p : Fin 8) (k : Nat) (s v : State) (n : Nat) (late : Bool), Taken h true s → schedule a.tick s = some (n, late) →
    a.port.aes = false → a.port.index.toFin = p → a.immediate = false → maskBad s p a = false → a.masks.length = 4 →
    k = (if holdsAsrc (takenState h s) p then asrcNeed (serialPort p) (startCfg (takenState h s) p) (plannedMasks (takenState h s) p a) else 0) →
    asrcOthers s (serialPort p) + k ≤ 256 →
    v = (if holdsAsrc (takenState h s) p then setAsrc (serialPort p) k (takenState h s) else takenState h s) →
    exec (.portSlots h a) s = .next (settle (hold n (ticketOf h s) late (.portSlots p a.write a.masks) v))) ∧
  (∀ (h : CmdHdr) (a : PortSlotsArgs) (p : Fin 8) (k : Nat) (s v : State), Taken h false s → a.tick = 0 →
    a.port.aes = false → a.port.index.toFin = p → a.immediate = true → maskBad s p a = false → a.masks.length = 4 →
    k = (if holdsAsrc (takenState h s) p then asrcNeed (serialPort p) (startCfg (takenState h s) p) (plannedMasks (takenState h s) p a) else 0) →
    asrcOthers s (serialPort p) + k ≤ 256 →
    v = (if holdsAsrc (takenState h s) p then setAsrc (serialPort p) k (takenState h s) else takenState h s) →
    exec (.portSlots h a) s = .next (settle (complete (ticketOf h s) 0 0 (commitNow p a.write a.masks v)))) ∧
  (∀ (h : CmdHdr) (a : AesCsSetArgs) (n : Fin 4) (s : State) (k : Nat) (late : Bool), Taken h true s → schedule a.tick s = some (k, late) →
    a.port.aes = true → a.port.index.toNat = n.val → a.block.length = 24 →
    exec (.aesCsSet h a) s = .next (settle (hold k (ticketOf h s) late (.aesCs n a.subframe.toFin a.user a.block) (takenState h s)))) ∧
  (∀ (h : CmdHdr) (port : PortSel) (p : Fin 12) (addr : BitVec 64) (s : State), Taken h false s → port.aes = false → portOf port = some p → aligned8 addr = true →
    exec (.portQuery h port addr) s = .next (settle { (takenState h s) with ports := { s.ports with queries := s.ports.queries ++ [{ ticket := (ticketOf h s), port := p, addr := addr }] } })) ∧
  (∀ (h : CmdHdr) (port : PortSel) (p : Fin 12) (addr : BitVec 64) (s : State), Taken h false s → port.aes = true → portOf port = some p → aligned8 addr = true →
    exec (.aesQuery h port addr) s = .next (settle { (takenState h s) with ports := { s.ports with queries := s.ports.queries ++ [{ ticket := (ticketOf h s), port := p, addr := addr }] } }))

/-- At its tick an unfenced STOPPED port begins its start with its configuration and no data; any other is refused with 0x40 or FENCED (0xA), the latter freeing the ASRC channels of a STOPPED port. A port that is starting or in FAULT with no rate fault becomes ready at PORT_READY; one not ready at its timeout raises PORT_CLK_LOST, and one not ready in its start group after 100 ms leaves it. PORT_STOP of a running master leads to STOPPING with its POSTCLK frames left, and POSTCLK_END, when they have run, to STOPPED. A slave whose clock stops while it runs is in FAULT, counts it and raises PORT_CLK_LOST. What is the model's choice in it, and no rule of the spec, is logged in notes/assumptions: 9 (DESIGN CHOICE), 83 (DEDUCED), 84 (DEDUCED). -/
def Obligations.PortsStartRunAndStop : Prop :=
  (∀ (p : Fin 12) (s : State), fenced s (.port p) = false → s.ports.port[p].state = .stopped → ∃ v : Vector Port 12,
    applyPortStart p s = (0, { s with ports := { s.ports with port := v } }) ∧ AgreeOff p v s.ports.port ∧ v[p].state = .starting ∧
    v[p].cfg = regGet s (portCfgReg p) ∧ v[p].startAt = now s ∧ v[p].preclk = preclkOf s p ∧ v[p].dataOn = false ∧ v[p].ready = false ∧
    v[p].active = s.ports.port[p].shadow) ∧
  (∀ (p : Fin 12) (s : State), fenced s (.port p) = true → s.ports.port[p].state = .stopped → applyPortStart p s = (0xA, setAsrc p 0 s)) ∧
  (∀ (p : Fin 12) (s : State), fenced s (.port p) = true → s.ports.port[p].state ≠ .stopped → applyPortStart p s = (0xA, s)) ∧
  (∀ (p : Fin 12) (s : State), fenced s (.port p) = false → s.ports.port[p].state ≠ .stopped → applyPortStart p s = (0x40, s)) ∧
  (∀ (p : Fin 12) (r q : Word) (s : State), (s.ports.port[p].state = .starting ∨ s.ports.port[p].state = .fault) →
    s.ports.port[p].rateFault = false →
    (portRole p s.ports.port[p].cfg ≠ 2 ∨ (2 ^ 26 ≤ q.toNat ∧ q.toNat ≤ 2 ^ 30 ∧ (isAes p = true → r.toNat ≤ 192000000))) →
    exec (.portReady p r q) s = .next (portMod p (fun x =>
      { x with ready := true, clkPresent := true, frameAlign := true, dllLock := decide (portRole p s.ports.port[p].cfg ≠ 2), asrcLock := decide (portRole p s.ports.port[p].cfg = 2), rate := r, ratio := if portRole p s.ports.port[p].cfg = 2 then q else 0, glitches := 0, lockPhase := x.phase }) s)) ∧
  (∀ (p : Fin 12) (s : State), s.ports.port[p].state = .starting → s.ports.port[p].ready = false → dataEarliest s s.ports.port[p] + ticksOfUs s 1000000 ≤ now s →
    exec (.portStartTimeout p) s = .next (settle (raise Src.portClkLost p 0 s))) ∧
  (∀ (p : Fin 12) (s : State), now s < dataEarliest s s.ports.port[p] + ticksOfUs s 1000000 →
    exec (.portStartTimeout p) s = .next (s)) ∧
  (∀ (p : Fin 8) (g : Nat) (s : State), s.ports.port[serialPort p].state = .starting → s.ports.port[serialPort p].ready = false → s.ports.port[serialPort p].group = some g → dataEarliest s s.ports.port[serialPort p] + ticksOfUs s 100000 ≤ now s →
    exec (.startSplit (serialPort p)) s = .next (sticky (Reg.portErrStat p) 4 (portMod (serialPort p) (fun x => { x with group := none }) s))) ∧
  (∀ (p : Fin 12) (s : State), s.ports.port[p].state = .stopped → applyPortStop p s = (0x40, s)) ∧
  (∀ (p : Fin 8) (s : State), s.ports.port[serialPort p].state = .running → portRole (serialPort p) s.ports.port[serialPort p].cfg = 0 →
    applyPortStop (serialPort p) s = (0, portMod (serialPort p) (fun x =>
      { x with state := .stopping, postLeft := fld x.seq 31 16, dataOn := false, ready := false, group := none, outFade := none }) s)) ∧
  (∀ (p : Fin 12) (s : State), s.ports.port[p].state = .stopping → postclkOver s p = true → ∃ v : Vector Port 12,
    exec (.postclkEnd p) s = .next (settle { s with ports := { s.ports with port := v } }) ∧ AgreeOff p v s.ports.port ∧
    v[p].state = .stopped ∧ v[p].dataOn = false ∧ v[p].ready = false ∧ v[p].asrc = 0 ∧ v[p].cfg = s.ports.port[p].cfg) ∧
  (∀ (p : Fin 12) (s : State), portRole p s.ports.port[p].cfg ≠ 0 → s.ports.port[p].clkPresent = true →
    s.ports.port[p].state = .running → exec (.portClockStop p) s = .next (settle (raise Src.portClkLost p 0 (sticky (portErrReg p) 0
      (portMod p (fun x => { x with clkLosses := satN 32 (x.clkLosses + 1) })
        (portFault p (portMod p (fun x => { x with clkPresent := false, rate := 0, rates := [] }) s))))))) ∧
  (∀ (p : Fin 12) (s : State), portRole p s.ports.port[p].cfg ≠ 0 → s.ports.port[p].clkPresent = true →
    s.ports.port[p].state = .starting →
    exec (.portClockStop p) s = .next (portFault p (portMod p (fun x => { x with clkPresent := false, rate := 0, rates := [] }) s))) ∧
  (∀ (p : Fin 12) (s : State), s.ports.port[p].state = .running → (portFault p s).ports.port[p].state = .fault ∧
    (portFault p s).ports.port[p].ready = false ∧ AgreeOff p (portFault p s).ports.port s.ports.port)

/-- A frame of a STOPPED port shows its clock and rate only. A frame of a running master puts its samples at its place in the input buffer and ends the row of glitches; one of a port that is ready to turn on is kept. A synchronous port whose phase has slipped raises DLL_SLIP and resynchronizes; a bad frame is a glitch, and the third in a row a spall and a resynchronization, which is counted, sets RESYNC, raises PORT_RESYNC and leaves the port in FAULT. A complete channel-status block with a wrong CRC is discarded and raises AES_CS_CRC; another is kept, and a change is reported. What is the model's choice in it, and no rule of the spec, is logged in notes/assumptions: 9 (DESIGN CHOICE), 79 (DEDUCED), 82 (DESIGN CHOICE), 83 (DEDUCED), 85 (DEDUCED), 168 (DEDUCED). -/
def Obligations.PortFramesAndStatusBlocksReceived : Prop :=
  (∀ (p : Fin 12) (f : PortFrameIn) (s : State), s.ports.port[p].state = .stopped →
    exec (.portFrame p f) s = .next (portMod p (fun x =>
      { x with clkPresent := true, rate := f.rate, phase := f.phase, rates := (f.rate.toNat :: x.rates).take 8 }) s)) ∧
  (∀ (p : Fin 8) (f : PortFrameIn) (s : State), s.ports.port[serialPort p].state = .running → portRole (serialPort p) s.ports.port[serialPort p].cfg = 0 →
    exec (.portFrame (serialPort p) f) s = .next (settle (goodFrame (serialPort p) (spt s * now s + f.ahead.val) f (portMod (serialPort p) (fun x =>
      { x with clkPresent := true, rate := f.rate, phase := f.phase, rates := (f.rate.toNat :: x.rates).take 8 }) s)))) ∧
  (∀ (p : Fin 12) (f : PortFrameIn) (s v : State), s.ports.port[p].state = .running → portRole p s.ports.port[p].cfg = 1 →
    v = rateStep p (rateOff s p s.ports.port[p] f.rate.toNat) (portMod p (fun x =>
      { x with clkPresent := true, rate := f.rate, phase := f.phase, rates := (f.rate.toNat :: x.rates).take 8 }) s) →
    slipped v v.ports.port[p] = true → exec (.portFrame p f) s = .next (settle (resync p (raise Src.dllSlip p 0 v)))) ∧
  (∀ (p : Fin 8) (f : PortFrameIn) (s : State), s.ports.port[serialPort p].state = .starting →
    portRole (serialPort p) s.ports.port[serialPort p].cfg = 0 → s.ports.port[serialPort p].ready = true →
    exec (.portFrame (serialPort p) f) s = .next (settle (keepFrame (serialPort p) (spt s * now s + f.ahead.val) f (portMod (serialPort p) (fun x =>
      { x with clkPresent := true, rate := f.rate, phase := f.phase, rates := (f.rate.toNat :: x.rates).take 8 }) s)))) ∧
  (∀ (p : Fin 8) (pos : Nat) (f : PortFrameIn) (s : State), goodFrame (serialPort p) pos f s = portMod (serialPort p) (fun x =>
    { x with inBuf := mapPut s.ports.port[serialPort p].inBuf pos (.frame (f.slots.map fun w : Word => (some (w <<< (32 - slotWidth s)), true))), glitches := 0 }) s) ∧
  (∀ (p : Fin 12) (pos : Nat) (g : Bool) (s : State), 2 ≤ s.ports.port[p].glitches → glitch p pos g s =
    raise Src.portResync p 0 (sticky (portErrReg p) 2 (portMod p (fun x => { x with resyncs := satN 32 (x.resyncs + 1) })
      (portFault p (countSpall p (if isAes p then 2 else 1) s))))) ∧
  (∀ (p : Fin 12) (pos : Nat) (g : Bool) (s : State), s.ports.port[p].glitches < 2 → ∃ v : Vector Port 12,
    glitch p pos g s = countSpall p (if isAes p then 2 else 1) { s with ports := { s.ports with port := v } } ∧ AgreeOff p v s.ports.port ∧
    v[p].glitches = s.ports.port[p].glitches + 1 ∧ v[p].inBuf = mapPut s.ports.port[p].inBuf pos .spall ∧ v[p].state = s.ports.port[p].state) ∧
  (∀ (n : Fin 4) (k : Fin 2) (l : List Byte) (s : State), s.ports.port[aesPort n].cs[k].ready = some l →
    (l.headD 0).getLsbD 0 = true → aesCrc l ≠ l.getD 23 0 →
    exec (.aesCsBlock n k) s = .next (settle (raise Src.aesCsCrc n 0 (sticky (Reg.aesErrStat n) 5 (bumpFld (Reg.aesErrCount n) 31 16 1
      (portMod (aesPort n) (fun x => { x with cs := vset x.cs k { s.ports.port[aesPort n].cs[k] with ready := none } }) s)))))) ∧
  (∀ (n : Fin 4) (k : Fin 2) (l g : List Byte) (s t : State), s.ports.port[aesPort n].cs[k].ready = some l →
    (l.headD 0).getLsbD 0 = false → s.ports.port[aesPort n].cs[k].good = some g →
    t = portMod (aesPort n) (fun x => { x with cs := vset x.cs k { s.ports.port[aesPort n].cs[k] with ready := none } }) s →
    ∃ u, u = portMod (aesPort n) (fun x => { x with cs := vset x.cs k { s.ports.port[aesPort n].cs[k] with ready := none, good := some l } }) t ∧
      exec (.aesCsBlock n k) s = .next (if g = l then u else settle (report 0x0503 n [BitVec.ofNat 8 k] (sticky (Reg.aesErrStat n) 6 u))))

/-- PS_START of a non-empty mask, PS_STOP with a ramp of at most 1,000 ms (0xFFFF: 10), PS_BUDGET with its fields in range (0xFFFF: attack 20 ms, release 500 ms) and PS_FREQ_SET with MIN ≤ PREF ≤ MAX ≤ 80 are held for their tick. PS_MODEL takes effect at acceptance: it ends a channel's binding, binds free parameter words of an unfenced tile, and is refused with 0x43 where a word is bound. PS_QUERY waits for the boundary. A mask of 0 is BAD_ARG (4). What is the model's choice in it, and no rule of the spec, is logged in notes/assumptions: 17 (DEDUCED), 91 (DEDUCED). -/
def Obligations.PowerStageCommandsTaken : Prop :=
  (∀ (h : CmdHdr) (tick : BitVec 64) (mask : Byte) (s : State) (n : Nat) (late : Bool), Taken h true s → schedule tick s = some (n, late) → mask ≠ 0 →
    exec (.psStart h tick mask) s = .next (settle (hold n (ticketOf h s) late (.psStart mask.toNat) (takenState h s)))) ∧
  (∀ (h : CmdHdr) (tick : BitVec 64) (s : State) (n : Nat) (late : Bool), Taken h true s → schedule tick s = some (n, late) →
    exec (.psStart h tick 0) s = .next (settle (complete (ticketOf h s) 4 0 (takenState h s)))) ∧
  (∀ (h : CmdHdr) (tick : BitVec 64) (mask : Byte) (ms : BitVec 16) (s : State) (n : Nat) (late : Bool), Taken h true s →
    schedule tick s = some (n, late) → mask ≠ 0 → (ms.toNat ≤ 1000 ∨ ms.toNat = 0xFFFF) →
    exec (.psStop h tick mask ms) s = .next (settle (hold n (ticketOf h s) late
      (.psStop mask.toNat (if ms.toNat = 0xFFFF then 10 else ms.toNat)) (takenState h s)))) ∧
  (∀ (h : CmdHdr) (a : PsBudgetArgs) (c : Fin 8) (s : State) (n : Nat) (late : Bool), Taken h true s → schedule a.tick s = some (n, late) →
    a.ch.toNat = c.val → a.watts.toNat ≤ 1250 → ((1 ≤ a.attack.toNat ∧ a.attack.toNat ≤ 1000) ∨ a.attack.toNat = 0xFFFF) →
    ((10 ≤ a.release.toNat ∧ a.release.toNat ≤ 10000) ∨ a.release.toNat = 0xFFFF) →
    exec (.psBudget h a) s = .next (settle (hold n (ticketOf h s) late (.psBudget c a.watts.toNat
      (if a.attack.toNat = 0xFFFF then 20 else a.attack.toNat) (if a.release.toNat = 0xFFFF then 500 else a.release.toNat)) (takenState h s)))) ∧
  (∀ (h : CmdHdr) (a : PsFreqArgs) (s : State) (n : Nat) (late : Bool), Taken h true s → schedule a.tick s = some (n, late) →
    a.min.toNat ≤ a.pref.toNat → a.pref.toNat ≤ a.max.toNat → a.max.toNat ≤ 80 →
    exec (.psFreqSet h a) s = .next (settle (hold n (ticketOf h s) late (.psFreq a.pref.toNat a.min.toNat a.max.toNat) (takenState h s)))) ∧
  (∀ (h : CmdHdr) (a : PsModelArgs) (c : Fin 8) (s : State), Taken h false s → a.ch.toNat = c.val → a.tile.toNat = 0xFF → a.lookahead = 0 → a.waddr = 0 →
    exec (.psModel h a) s = .next (settle (complete (ticketOf h s) 0 0 { chMod c (fun x => { x with lookahead := 0 }) (takenState h s) with limits := vset s.limits c none }))) ∧
  (∀ (h : CmdHdr) (a : PsModelArgs) (c : Fin 8) (n : Fin 16) (s : State), Taken h false s → a.ch.toNat = c.val → a.tile.toNat = n.val → a.lookahead = 0 → a.waddr.toNat % 8 = 0 → fenced s (.tile n) = false → (∀ i, i < 8 → s.tiles[n].isParam (a.waddr.toNat + i) = true ∧ s.tiles[n].rampBound (spt s) none (a.waddr.toNat + i) = false ∧ limitBound { s with limits := vset s.limits c none } n (a.waddr.toNat + i) = false) →
    exec (.psModel h a) s = .next (settle (complete (ticketOf h s) 0 0 { chMod c (fun x => { x with lookahead := 0 }) (takenState h s) with limits := vset s.limits c (some { tile := n, waddr := a.waddr.toNat }) }))) ∧
  (∀ (h : CmdHdr) (a : PsModelArgs) (n : Fin 16) (s : State), Taken h false s → a.ch.toNat < 8 → a.tile.toNat = n.val → a.lookahead = 0 → a.waddr.toNat % 8 = 0 → fenced s (.tile n) = true →
    exec (.psModel h a) s = .next (settle (complete (ticketOf h s) 0x43 0 (takenState h s)))) ∧
  (∀ (h : CmdHdr) (ch : Byte) (c : Fin 8) (addr : BitVec 64) (s : State), Taken h false s → ch.toNat = c.val → aligned8 addr = true →
    exec (.psQuery h ch addr) s = .next (settle { (takenState h s) with ps := { s.ps with queries := s.ps.queries ++ [((ticketOf h s), c, addr)] } }))

/-- PS_START on a STOPPED channel with power available starts it behind the start gain at mute with its converter on; on a LATCHED channel the status is 0x41, on a STOPPED one with no power 0x44, on any other 0x40. A start that gets no READY rail in time ends with TIMEOUT (9), one whose channel has gone to FAULT too. PS_STOP ramps a running channel to mute or stops it at once, aborts a waiting start, and is refused with 0x40 on a STOPPED or LATCHED one. A frequency code is the nearest to PREF in the range with 20 kHz of margin. With all channels of a group off for 50 ms its converter stops, and 50 ms after its last direct-path channel its rail tracks again. While the MEDIA PLL is unlocked each step plays a missing tick. The modulator's duties add to 1 and are clamped to 0.02–0.98. What is the model's choice in it, and no rule of the spec, is logged in notes/assumptions: 9 (DESIGN CHOICE), 88 (DEDUCED), 89 (DEDUCED), 90 (DESIGN CHOICE), 91 (DEDUCED), 95 (DEDUCED), 158 (DESIGN CHOICE), 162 (DEDUCED). -/
def Obligations.ChannelsStartPlayAndStop : Prop :=
  (∀ (c : Fin 8) (s : State), startOne s c = match s.ps.ch[c].state with
    | .stopped => if s.ps.sustained = 0 then some 0x44 else none | .latched => some 0x41 | _ => some 0x40) ∧
  (∀ (t : Ticket) (c : Fin 8) (m : Nat) (s : State), maskUnits 8 m = [c] → startOne s c = none → ∃ s1 : State,
    s1 = startCh c false (chMod c (fun x => { x with vfs := vfsOf s c }) s) ∧
    applyPsStart t m (fun _ => false) s = psMod (fun p => { p with waits := p.waits ++ [{ ticket := t, tick := now s1, results := [(c, none)] }] }) s1) ∧
  (∀ (c : Fin 8) (s : State), (startCh c false s).ps.ch[c].state = .starting ∧ (startCh c false s).ps.group[groupOf c].on = true ∧
    (startCh c false s).ps.ch[c].vfs = s.ps.ch[c].vfs ∧ AgreeOff c (startCh c false s).ps.ch s.ps.ch) ∧
  (∀ (c : Fin 8) (s : State), s.ps.ch[c].state = .starting → mayHavePassed s s.ps.ch[c].startAt (20 * psMs) = true →
    exec (.psStartTimeout c) s = .next (settle (psComplete (psResult c 9 (chMod c (fun x => { x with state := .stopped, retry := false, retryDue := false, retryWait := false, pause := .none }) s))))) ∧
  (∀ (c : Fin 8) (s : State), s.ps.ch[c].state = .fault → startAwaited s c = true → mayHavePassed s s.ps.ch[c].startAt (20 * psMs) = true →
    exec (.psStartTimeout c) s = .next (settle (psComplete (psResult c 9 (chMod c (fun x => { x with state := .stopped, retry := false, retryDue := false, retryWait := false, pause := .none }) s))))) ∧
  (∀ (ms : Nat) (c : Fin 8) (s : State), (s.ps.ch[c].state = .stopped ∨ s.ps.ch[c].state = .latched) → stopOne ms c s = (0x40, s)) ∧
  (∀ (ms : Nat) (c : Fin 8) (s : State), s.ps.ch[c].state = .running → stopOne ms c s = (0, chMod c (fun x =>
    { x with state := if rampSamples (fs s) (spt s) ms = 0 then .stopped else .stopping, start := x.start.freeze, mute := x.mute.ramp none (rampSamples (fs s) (spt s) ms), retry := false }) s)) ∧
  (∀ (ms : Nat) (c : Fin 8) (s : State), s.ps.ch[c].state = .starting →
    stopOne ms c s = (0, psResult c 7 (chMod c (fun x => { x with state := .stopped, retry := false }) s))) ∧
  (∀ (ms : Nat) (c : Fin 8) (s : State), s.ps.ch[c].state = .fault → stopOne ms c s = (0, psResult c 7 (chMod c (fun x =>
    { x with state := .stopped, retry := false, retryDue := false, retryWait := false, pause := .none }) s))) ∧
  (∀ (pref lo hi k : Nat) (s : State), lo ≤ pref → pref ≤ hi → hi ≤ 80 → lo ≤ k → k ≤ hi → 20 ≤ margin s k →
    (∀ j, lo ≤ j → j ≤ hi → 20 ≤ margin s j → ((k : Int) - pref).natAbs < ((j : Int) - pref).natAbs ∨
      (((k : Int) - pref).natAbs = ((j : Int) - pref).natAbs ∧ k ≤ j)) →
    applyPsFreq pref lo hi s = (0, k + margin s k * 65536, psMod (fun p => { p with code := k }) s)) ∧
  (∀ (g : Fin 2) (s : State), (groupChs g).all (fun c => s.ps.ch[c].off) = true → mayHavePassed s s.ps.group[g].onAt (50 * psMs) = true →
    exec (.converterStop g) s = .next (groupMod g (fun x => { x with on := false, ready := false, up := false, target := 0 }) s)) ∧
  (∀ (g : Fin 2) (s : State), directFed s g = false → mayHavePassed s s.ps.group[g].directAt (50 * psMs) = true →
    exec (.directTrackingResume g) s = .next (groupMod g (fun x => { x with direct := false }) s)) ∧
  (∀ (g : Fin 2) (s : State), mayHavePassed s s.ps.group[g].onAt (50 * psMs) = false →
    exec (.converterStop g) s = .next (s)) ∧
  (∀ (g : Fin 2) (s : State), mayHavePassed s s.ps.group[g].directAt (50 * psMs) = false →
    exec (.directTrackingResume g) s = .next (s)) ∧
  (∀ (c : Fin 8) (s : State), mayHavePassed s s.ps.ch[c].startAt (20 * psMs) = false →
    exec (.psStartTimeout c) s = .next (s)) ∧
  (∀ (s : State), s.clock.plls[(4 : Fin 6)].locked = false → timeRuns s = true → exec .pstageTickStep s = .next (settle (endMutes
    ((fins 8).foldl (fun s c => playCh none s c) s)))) ∧
  (∀ (b : Option Blk) (c : Fin 8) (s : State), s.ps.ch[c].playing = false → playCh b s c = chMod c (fun x => { x with out := [], drive := [] }) s) ∧
  (∀ (x : Int) (vfs rail : Nat), 0 < rail → dutyA x vfs rail = 2 ^ 31 + 10 * x * (vfs : Int) / (rail : Int)) ∧
  (∀ d : Int, (duties d).2 = 2 ^ 32 - (duties d).1 ∧ 100 * (duties d).1 ≤ 98 * 2 ^ 32 ∧ 2 * 2 ^ 32 < 100 * (duties d).1 + 100 ∧
    (dutyOut d = false → (duties d).1 = d))

/-- POWER_ALLOCATE completes in every state: it takes the supply and the temperature, the available powers of R349 and each channel's raw power; the running and ramping channels are allowed their shares, in their order, and their budget gains aimed at the targets of those shares; every other channel is allowed 0 and else unchanged, and nothing outside the power stage changes. Shares that fit are the budgets themselves. A target is mute for no share and 0 dB for a share that covers the raw power. PILOT_ESTIMATE completes on every channel: one that plays with a pilot and has demodulated something records its estimate, held within 1 % of the ratio demodulated, and the coil temperature, counts weak readings, marks the load open at the third in a row with PS_OPEN_LOAD, and raises PS_VC_TEMP at its limit; any other keeps its estimate. What is the model's choice in it, and no rule of the spec, is logged in notes/assumptions: 87 (DESIGN CHOICE), 88 (DEDUCED), 89 (DEDUCED), 96 (DESIGN CHOICE), 157 (DESIGN CHOICE), 159 (DEDUCED), 160 (DEDUCED), 161 (DESIGN CHOICE). -/
def Obligations.PowerSharedByBudget : Prop :=
  (∀ (m : PowerMeasure) (s : State) (sh : List (Fin 8)),
    sh = (fins 8).filter (fun c => decide (s.ps.ch[c].state = .running) || decide (s.ps.ch[c].state = .ramping)) →
    ∃ (t : State) (v : Vector PsCh 8) (w : Vector PsGroup 2), exec (.powerAllocate m) s = .next t ∧
      t = { s with ps := { s.ps with pvin := m.pvin, tcase := m.tcase, sustained := (availPower s m).1, peak := (availPower s m).2, ch := v, group := w } } ∧
      (∀ c : Fin 8, c ∉ sh → v[c] = { s.ps.ch[c] with raw := rawPower s s.ps.ch[c], allowed := 0 }) ∧
      (∀ c : Fin 8, c ∈ sh → v[c] = { s.ps.ch[c] with raw := rawPower s s.ps.ch[c], allowed := v[c].allowed, aimed := v[c].aimed } ∧
        v[c].aimed = (budgetRamp c (budgetTarget v[c].allowed v[c].raw
          (if s.ps.ch[c].state = .running then w[groupOf c].sag else 0)) s).ps.ch[c].aimed) ∧
      sh.map (fun c => v[c].allowed) = shares (1000 * (availPower s m).1)
        (sh.map fun c => (rawPower s s.ps.ch[c], 1000 * s.ps.ch[c].watts)) ∧
      (∀ g : Fin 2, w[g] = { s.ps.group[g] with sag := if railHolds s.ps.group[g] then 0 else s.ps.group[g].sag, limit := w[g].limit })) ∧
  (∀ (total : Nat) (l : List (Nat × Nat)), l.foldl (fun a c => a + min c.1 c.2) 0 ≤ total → shares total l = l.map (·.2)) ∧
  (∀ (total : Nat) (l : List (Nat × Nat)), (shares total l).length = l.length) ∧
  (∀ m k : Nat, budgetTarget 0 m k = none) ∧
  (∀ a m k : Nat, 0 < a → m ≤ a → budgetTarget a m k = some (max (-30720 : Int) (0 - 768 * (k : Int)))) ∧
  (∀ (c : Fin 8) (t : Option Int) (s : State), ∃ x, budgetRamp c t s = chMod c (fun y => { y with aimed := x }) s) ∧
  (∀ (c : Fin 8) (g b : Int) (s : State), s.ps.ch[c].aimed = none → s.ps.ch[c].budget.n = 0 → s.ps.ch[c].budget.aim = some b →
    655360 < 100 * (b - 256 * g).natAbs → (budgetRamp c (some g) s).ps.ch[c].aimed =
      some (some (256 * g), rampSamples (fs s) (spt s) (if 256 * g < b then s.ps.ch[c].attack else s.ps.ch[c].release))) ∧
  (∀ (c : Fin 8) (d : PsDemod) (e : BitVec 16) (i re weak : Nat) (tvc : Int) (s s1 s2 : State), d = s.ps.ch[c].demod → re = (d.ohms e).toNat →
    tvc = coilTemp s c re → weak = (if d.weakAt (pilotMv s c) i then s.ps.ch[c].weak + 1 else 0) →
    s1 = chMod c (fun x => { x with re := re, tvc := tvc, weak := weak, openLoad := decide (3 ≤ weak), vcTemp := decide (regFld s (Reg.psChTherm c) 15 0 ≠ 0) && decide (10 * (regFld s (Reg.psChLim c) 31 24 : Int) ≤ tvc), demod := PsDemod.reset }) s →
    s2 = (if regFld s (Reg.psChTherm c) 15 0 ≠ 0 ∧ 10 * (regFld s (Reg.psChLim c) 31 24 : Int) ≤ tvc
      then raise Src.psVcTemp c 0 (sticky Reg.psErrStat 6 s1) else s1) →
    pilotOf s c ≠ 0 → s.ps.ch[c].playing = true → d.n ≠ 0 → exec (.pilotEstimate c e i) s =
      .next (settle (if 3 ≤ weak then raise Src.psOpenLoad c 0 (sticky Reg.psErrStat 5 s2) else s2))) ∧
  (∀ (d : PsDemod) (e : BitVec 16) (r : Nat), d.ratio = some r → 99 * r ≤ 100 * (d.ohms e).toNat ∧
    100 * (d.ohms e).toNat ≤ 101 * r) ∧
  (∀ (c : Fin 8) (e : BitVec 16) (i : Nat) (s : State), (pilotOf s c = 0 ∨ s.ps.ch[c].playing = false ∨ s.ps.ch[c].demod.n = 0) →
    exec (.pilotEstimate c e i) s = .next (chMod c (fun x => { x with demod := PsDemod.reset }) s)) ∧
  (∀ (c : Fin 8) (re : Nat) (s : State), regFld s (Reg.psChTherm c) 15 0 ≠ 0 → coilTemp s c re =
    10 * signed 8 (regFld s (Reg.psChTherm c) 23 16) + ((re : Int) - regFld s (Reg.psChTherm c) 15 0) * 1000000 /
      ((regFld s (Reg.psChTherm c) 15 0 * (if regBit s (Reg.psChCfg c) 11 then 403 else 393) : Nat) : Int)) ∧
  (∀ (c : Fin 8) (re : Nat) (s : State), regFld s (Reg.psChTherm c) 15 0 = 0 → coilTemp s c re = s.ps.ch[c].tvc)

/-- A trip of a playing channel is counted. A short or DC of a playing channel, or a hot junction of one that is not off, puts it in FAULT with the fault's code, sets its sticky bit, raises its source and, where the source latches, leaves it LATCHED. Over-voltage mutes the group's channels by hardware; a low supply mutes all channels and stops the converters; a sag lowers the budgets by 3 dB. After its quiet period a channel in FAULT retries at the next boundary, one hot by its junction only once it has cooled. An idle clamp and a restored supply restart the channels that wait for them. What is the model's choice in it, and no rule of the spec, is logged in notes/assumptions: 9 (DESIGN CHOICE), 92 (DESIGN CHOICE), 93 (DEDUCED), 94 (DEDUCED), 163 (DESIGN CHOICE). -/
def Obligations.PowerStageProtected : Prop :=
  (∀ (c : Fin 8) (s : State), s.ps.ch[c].playing = true →
    exec (.ilimTrip c) s = .next (bump (Reg.psChIlimCount c) 1 s)) ∧
  (∀ (c : Fin 8) (k : ShortClass) (s : State), s.ps.ch[c].playing = true →
    exec (.shortCircuit c k) s = .next (settle (faultCh c (match k with | .load => 1 | .gnd => 2 | .rail => 3) Src.psShort 8 s))) ∧
  (∀ (c : Fin 8) (s : State), s.ps.ch[c].playing = true →
    exec (.psDc c) s = .next (settle (faultCh c 4 Src.psDc 9 s))) ∧
  (∀ (c : Fin 8) (s : State), s.ps.ch[c].off = false →
    exec (.psDieTemp c) s = .next (settle (chMod c (fun x => { x with hot := true }) (faultCh c 5 Src.psDieTemp 7 s)))) ∧
  (∀ (c : Fin 8) (s : State), s.ps.ch[c].off = true →
    exec (.psDieTemp c) s = .next (settle (chMod c (fun x => { x with hot := true }) (raise Src.psDieTemp c 5 (sticky Reg.psErrStat 7 s))))) ∧
  (∀ (c : Fin 8) (code src bit : Nat) (s u : State), u = raise src c code (sticky Reg.psErrStat bit (chMod c (fun x =>
      { x with state := .fault, fault := code, faultTick := now s, hw := none, retry := false, retryDue := false, retryWait := false, pause := .none, start := x.start.freeze }) s)) →
    faultCh c code src bit s = if (sumpInst u src c).state = .latched then chMod c (fun x => { x with state := .latched }) u else u) ∧
  (∀ (c : Fin 8) (s : State), s.ps.ch[c].state = .fault → s.ps.ch[c].pause = .none → s.ps.ch[c].fault = 4 → (sumpInst s Src.psDc c).state ≠ .active →
    exec (.psRetry c) s = .next (chMod c (fun x => { x with retryDue := true }) s)) ∧
  (∀ (c : Fin 8) (s : State), s.ps.ch[c].state = .fault → s.ps.ch[c].pause = .none → s.ps.ch[c].fault = 5 → (sumpInst s Src.psDieTemp c).state ≠ .active → s.ps.ch[c].hot = true →
    exec (.psRetry c) s = .next (chMod c (fun x => { x with retryWait := true }) s)) ∧
  (∀ (c : Fin 8) (s : State),
    exec (.dieTempRecover c) s = .next (chMod c (fun x => { x with hot := false, retryDue := x.retryDue || x.retryWait, retryWait := false }) s)) ∧
  (∀ (g : Fin 2) (s : State),
    exec (.psRailOv g) s = .next (settle (raise Src.psRailOv g 0 (sticky Reg.psErrStat 3 ((groupChs g).foldl (muteCh .fault .railOv) s))))) ∧
  (∀ (g : Fin 2) (s : State),
    exec (.clampIdleRestart g) s = .next (settle (restart .railOv (groupChs g) s))) ∧
  (∀ (s : State), ∃ v : Vector PsGroup 2, exec .psPvinLow s = .next (settle (raise Src.psPvinLow 0 0 (sticky Reg.psErrStat 2
      { muteAll .fault .pvinLow s with ps := { (muteAll .fault .pvinLow s).ps with group := v } }))) ∧
    ∀ g : Fin 2, v[g].on = false ∧ v[g].ready = false ∧ v[g].target = 0) ∧
  (∀ (s : State), exec .pvinRestored s = .next (settle (restart .pvinLow (fins 8) s))) ∧
  (∀ (p : PsPause) (c : Fin 8) (s : State), s.ps.ch[c].state = .fault → s.ps.ch[c].pause = p → restart p [c] s = startCh c false s) ∧
  (∀ (g : Fin 2) (s s1 : State), s.ps.group[g].on = true →
    s1 = raise Src.psRailSag g 0 (sticky Reg.psErrStat 4 (groupMod g (fun x => { x with sag := x.sag + 1 }) s)) →
    exec (.psRailSag g) s = .next (settle (((groupChs g).filter fun c => decide (s1.ps.ch[c].state = .running)).foldl (fun s c =>
      budgetRamp c (budgetTarget s.ps.ch[c].allowed s.ps.ch[c].raw s.ps.group[g].sag) s) s1)))

/-- A write of HIF_CTRL with the MODE it has stores only it; from MODE 0 to 1 the directory is read; any other change of owner first drops what the old owner had. A failed ring access of an owned node stops polling and leaves the failure in HIF_ERR. A poll round of a polling running node reads the doorbell block and takes descriptors until none can be taken; over the tunnel (MODE 2) it asks for the doorbell block, and with the endpoint in reset in MODE 1 it fails. A WAKE write and a TUN_WAKE of the owner start a round, or ask for a further one while a round runs over the tunnel. PERST low resets the endpoint. What is the model's choice in it, and no rule of the spec, is logged in notes/assumptions: 9 (DESIGN CHOICE), 97 (DEDUCED), 98 (DEDUCED), 100 (DEDUCED), 105 (DEDUCED), 109 (DEDUCED), 167 (DEDUCED). -/
def Obligations.RingsOwnedPolledAndStopped : Prop :=
  (∀ (path : AccessPath) (v : Word) (l : List HostStore) (s t : State), path ≠ .mb0 → regsOpen s = true →
    t = l.foldl (fun u x => if x.bar2 then bar2Store x.addr.toNat x.bytes u
      else { u with localMem := memWrite u.localMem x.addr.toNat x.bytes }) s →
    exec (.hifModeWrite path v l) s = .next (settle (writeMode dmaMoves v t))) ∧
  (∀ (f : State → State) (v : Word) (s : State), hifMode (regSetFld Reg.hifCtrl 1 0 (fld v 1 0) s) = hifMode s →
    writeMode f v s = regSetFld Reg.hifCtrl 1 0 (fld v 1 0) s) ∧
  (∀ (f : State → State) (v : Word) (s : State), hifMode s = 0 → hifMode (regSetFld Reg.hifCtrl 1 0 (fld v 1 0) s) = 1 →
    writeMode f v s = readDirectory (regSetFld Reg.hifCtrl 1 0 (fld v 1 0) s)) ∧
  (∀ (f : State → State) (s : State), (dropOwner f s).hif.owner = none ∧ (dropOwner f s).hif.polling = false ∧
    (dropOwner f s).hif.events = [] ∧ (dropOwner f s).hif.waiting = [] ∧ (dropOwner f s).hif.dirOk = false ∧
    (dropOwner f s).tun.unacked = [] ∧ ∀ d : Fin 32, (dropOwner f s).dma[d].cur = none ∧ (dropOwner f s).dma[d].blocks = []) ∧
  (∀ (c : BitVec 4) (a : BitVec 64) (e : Bool) (s : State), hifMode s ≠ 0 → s.hif.ringsStopped = false →
    exec (.ringsStopped c a e) s = .next (settle (report 0x0F11 0 (leBytes 8 c.toNat ++ leBytes 8 a.toNat)
      (raise Src.hostBusErr 0 a.toNat (sticky Reg.hifErrStat 0 (regSet Reg.hifErrAddrLo (BitVec.ofNat 32 a.toNat)
        (regSet Reg.hifErrAddrHi (BitVec.ofNat 32 (a.toNat / 2 ^ 32))
          { s with hif := { s.hif with polling := false, startPoll := false, ringsStopped := true, stopTry := some e } }))))))) ∧
  (∀ (l : List HostStore) (s t : State), t = pollOnce (hostStores l s) →
    exec (.pollRound l) s = .next (settle { t with hif := { t.hif with polledThisTick := true } })) ∧
  (∀ (s : State), s.hif.polling = true → s.power.state = .running → hifMode s ≠ 2 → (hifMode s ≠ 1 ∨ s.pcie.perst = false) →
    pollOnce s = acceptAll (waitingDescriptors (readDoorbell s) + 1) (readDoorbell s)) ∧
  (∀ (s : State), s.hif.polling = true → s.power.state = .running → hifMode s = 2 →
    pollOnce s = if roundRuns s then s else useRead .fetch (hcaOf s) 0xC0 s) ∧
  (∀ (s : State), wakeRound s = if roundRuns s then { s with hif := { s.hif with again := true } } else pollOnce s) ∧
  (∀ (s : State), s.hif.again = true → roundRuns s = false → roundAgain s = pollOnce { s with hif := { s.hif with again := false } }) ∧
  (∀ (s : State), s.hif.polling = true → s.power.state = .running → hifMode s = 1 → s.pcie.perst = true →
    ∃ c, (c = 3 ∨ c = 4) ∧ pollOnce s = stopRings c (hcaOf s) true { s with free := s.free + 1 }) ∧
  (∀ (k : Nat) (s : State), visitRings s = (false, s) → acceptAll (k + 1) s = s) ∧
  (∀ (k : Nat) (s : State), (visitRings s).1 = true → acceptAll (k + 1) s = acceptAll k (visitRings s).2) ∧
  (∀ (r : Fin 8) (s : State), (s.hif.rings[r].log2 = 0 ∨ s.hif.rings[r].head = s.hif.rings[r].tail ∨
      bitOf (desc (hostRead s (s.hif.rings[r].base.toNat + 64 * s.hif.rings[r].head) 64) 2 1) 0 = false) → takeNext r s = none) ∧
  (∀ (l : List HostStore) (s t : State), t = hostStores l s → t.pcie.perst = false → t.power.state ≠ .sleep →
    exec (.wakeWrite l) s = .next (settle (wakeRound t))) ∧
  (∀ (l : List HostStore) (s t : State), t = hostStores l s → t.pcie.perst = false → t.power.state = .sleep →
    exec (.wakeWrite l) s = .next (settle (wakeBy 0 t))) ∧
  (∀ (n : Fin 16) (c : Cell) (s : State), Delivered n c s → fromOwner s c (bodyN c 0x14 1) = true →
    exec (.tunWake n c) s = .next (settle (wakeRound s))) ∧
  (∀ (low : Bool) (s : State),
    exec (.pciePerst low) s = .next ({ s with pcie := if low then { Pcie.reset with perst := true } else { s.pcie with perst := false } }))

/-- DMA_CTRL with a mask and an action of 1 to 4 is held for its tick; at its boundary one not allowed in a channel's state is refused with DMA_STATE (0x60), START makes the channels run, STOP lets them end. A channel begins the descriptor at its head when it runs, the engine is not halted and an entry of its queue is free, reserving the entry; a malformed one ends with BAD_ARG. A COPY ends when all its bursts have moved, waits while its data is on its way through the tunnel, or halts the engine at the first that fails. A bus error of the device side is recorded in the matrix; it halts every channel, records the first error and raises DMA_BUS_ERR. What is the model's choice in it, and no rule of the spec, is logged in notes/assumptions: 9 (DESIGN CHOICE), 100 (DEDUCED), 106 (DESIGN CHOICE), 107 (DEDUCED). -/
def Obligations.DmaDescriptorsBegunEndedAndHalted : Prop :=
  (∀ (h : CmdHdr) (a : DmaCtrlArgs) (s : State) (n : Nat) (late : Bool), Taken h true s → schedule a.tick s = some (n, late) →
    a.chMask ≠ 0 → 1 ≤ a.action.toNat → a.action.toNat ≤ 4 →
    exec (.dmaCtrl h a) s = .next (settle (hold n (ticketOf h s) late (.dmaCtrl a) (takenState h s)))) ∧
  (∀ (t : Ticket) (a : DmaCtrlArgs) (d : Fin 32) (s : State), d ∈ maskUnits 32 a.chMask.toNat → dmaAllows a.action.toNat s.dma[d].state = false →
    applyDma t a (fun _ => false) s = complete t 0x60 0 s) ∧
  (∀ (t : Ticket) (a : DmaCtrlArgs) (d : Fin 32) (s : State), maskUnits 32 a.chMask.toNat = [d] → a.action = 1 →
    s.dma[d].state = .stopped → applyDma t a (fun _ => false) s = complete t (if t.late then 1 else 0) 0
      (dmaMod d (fun c => { c with state := .running }) s)) ∧
  (∀ (d : Fin 32) (l : List HostStore) (x : DmaCur) (s t : State), t = hostStores l s → t.dma[d].mode ≠ 4 → dmaNext d t = some x →
    x.desc.badArg = false → exec (.dmaDescriptorBegin d l) s = .next (settle (dmaMod d (fun c => { c with cur := some x }) (dmaTake d x.desc t)))) ∧
  (∀ (d : Fin 32) (l : List HostStore) (x : DmaCur) (s t : State), t = hostStores l s → t.dma[d].mode ≠ 4 → dmaNext d t = some x →
    x.desc.badArg = true → exec (.dmaDescriptorBegin d l) s = .next (settle (dmaRecord d x 4 0 x.desc.length (dmaTake d x.desc t)))) ∧
  (∀ (d : Fin 32) (x : DmaCur) (s : State), dmaNext d s = some x → s.dma[d].state = .running ∧ s.dma[d].cur = none ∧
    s.dma[d].head ≠ s.dma[d].tail ∧ dmaHalted s = false ∧ 0 < s.hif.dcq.free ∧ x.index = s.dma[d].head ∧ x.done = 0) ∧
  (∀ (d : Fin 32) (x y : DmaCur) (k : Nat) (s u : State), s.dma[d].cur = some x → s.dma[d].mode = 1 → copyWaits d x s = false →
    dmaMove d x.desc (dmaLeft x) s = (k, none, u) → y = { x with done := x.done + k } →
    exec (.dmaDescriptorComplete d) s = .next (settle (dmaEnd d y 0 u))) ∧
  (∀ (d : Fin 32) (x : DmaCur) (k : Nat) (r : Resp) (a : Nat) (s u : State), s.dma[d].cur = some x → s.dma[d].mode = 1 →
    copyWaits d x s = false → dmaMove d x.desc (dmaLeft x) s = (k, some (r, a), u) →
    exec (.dmaDescriptorComplete d) s = .next (settle (dmaHalt d r.cause false a true false
      (dmaMod d (fun c => { c with cur := some { x with done := x.done + k } }) u)))) ∧
  (∀ (d : Fin 32) (x : DmaCur) (s : State), s.dma[d].cur = some x → s.dma[d].mode = 1 → copyWaits d x s = true →
    exec (.dmaDescriptorComplete d) s = .next (s)) ∧
  (∀ (d : Fin 32) (x : DmaCur) (s : State), s.dma[d].cur = some x → s.dma[d].mode = 4 →
    exec (.dmaDescriptorComplete d) s = .next (settle (dmaEnd d x 0 s))) ∧
  (∀ (e : DmaError) (s : State),
    exec (.dmaBusError e) s = .next (settle (dmaHalt e.channel.val e.cause.toNat e.hostSide e.addr.toNat false e.dcqWriteFails (matrixError (causeResp e) Master.dma (errorWrites s e.channel.val) e.addr.toNat s)))) ∧
  (∀ (ch cause addr : Nat) (host moved fails : Bool) (s : State), dmaHalted s = false →
    ∀ d : Fin 32, (dmaHalt ch cause host addr moved fails s).dma[d].state = .halted) ∧
  (∀ (ch cause addr : Nat) (host moved fails : Bool) (s : State), dmaHalted s = true → dmaHalt ch cause host addr moved fails s = s)

/-- A claim passes a node that is not its end with its link recorded. At its end it is refused with PROTECTED (6) outside MODE 2 or where the allowlist excludes it, ignored where an owner has a newer generation, and otherwise accepted, which stops fetching until it binds. An acknowledgement of the owner frees the requests before XID_NEXT and issues held ones; a late one resends all. Data of the owner goes to its place in the window's memory, in order; a round asked for meanwhile follows. The oldest request is resent after RESEND_TICKS (0 acts as 1). A tunnel with nothing acknowledged for LOST_MS stops fetching with cause 6 and halts the DMA engine, and neither happens before. A register access of the owner is performed and answered. What is the model's choice in it, and no rule of the spec, is logged in notes/assumptions: 9 (DESIGN CHOICE), 16 (DEDUCED), 99 (DEDUCED), 100 (DEDUCED), 101 (DEDUCED), 102 (DEDUCED), 166 (DEDUCED). -/
def Obligations.TunnelTargetServesItsOwner : Prop :=
  (∀ (n : Fin 16) (c : Cell) (s : State), pathCellHere s n c = true → c.hop.toNat < c.hops.toNat →
    exec (.tunClaim n c) s = .next (settle (forwardCell { c with body := c.body.take 20 ++ leBytes 8 (setRet (bodyN c 0x28 8) (c.hop.toNat - 1) n) ++ c.body.drop 28 } s))) ∧
  (∀ (n : Fin 16) (c : Cell) (s : State) (o : Owner), pathCellHere s n c = true → c.hops.toNat ≤ c.hop.toNat →
    o = { id := c.src, gen := BitVec.ofNat 8 (bodyN c 0x14 1), eui := BitVec.ofNat 64 (bodyN c 0x18 8), hca := BitVec.ofNat 64 (bodyN c 0x20 8), retLinks := BitVec.ofNat 64 (setRet (bodyN c 0x28 8) (c.hop.toNat - 1) n), hops := c.hops.toNat, link := n } →
    exec (.tunClaim n c) s = .next (settle (handleClaim o s))) ∧
  (∀ (o : Owner) (s : State), (hifMode s ≠ 2 ∨ claimAllowed s o.eui.toNat = false) → handleClaim o s = answerClaim o 6 s) ∧
  (∀ (o : Owner) (s : State), hifMode s = 2 → claimAllowed s o.eui.toNat = true → ownerOf s = none → handleClaim o s = acceptClaim o s) ∧
  (∀ (o p : Owner) (s : State), hifMode s = 2 → claimAllowed s o.eui.toNat = true → ownerOf s = some p → newer8 p.gen o.gen = true →
    handleClaim o s = s) ∧
  (∀ (o : Owner) (s : State), s.hif.owner = none → acceptClaim o s = answerClaim o 0
    { s with hif := { s.hif with polling := false, startPoll := false, dirWait := true, claim := some o } }) ∧
  (∀ (n : Fin 16) (c : Cell) (s : State) (r : TunReq) (l : List TunReq), Delivered n c s → fromOwner s c (bodyN c 0x16 1) = true →
    bodyN c 0x17 1 = 0 → s.tun.unacked = r :: l → 1 ≤ (BitVec.ofNat 16 (bodyN c 0x14 2) - r.xid).toNat →
    (BitVec.ofNat 16 (bodyN c 0x14 2) - r.xid).toNat ≤ s.tun.unacked.length →
    exec (.tunAck n c) s = .next (settle (settleSnapshots (issueHeld { s with tun := { s.tun with lastAck := now s, unacked := s.tun.unacked.drop (BitVec.ofNat 16 (bodyN c 0x14 2) - r.xid).toNat } })))) ∧
  (∀ (n : Fin 16) (c : Cell) (s : State), Delivered n c s → fromOwner s c (bodyN c 0x16 1) = true →
    bodyN c 0x17 1 = 0 → s.tun.unacked = [] →
    exec (.tunAck n c) s = .next (settle (settleSnapshots { s with tun := { s.tun with lastAck := now s } }))) ∧
  (∀ (n : Fin 16) (c : Cell) (s : State) (r : TunReq) (a : BitVec 64) (len k : Nat), Delivered n c s → fromOwner s c (bodyN c 0x19 1) = true →
    s.tun.unacked.find? (fun q => decide (q.xid.toNat = bodyN c 0x14 2)) = some r → r.kind = .read a len → r.use = .fetch → r.got < len →
    bodyN c 0x16 2 = r.got → bodyN c 0x1A 1 = 0 → k = min (bodyN c 0x18 1) (len - r.got) → k ≤ (c.body.drop 8).length → r.got + k < len →
    exec (.tunData n c) s = .next (settle (roundAgain { s with
      tunMem := memWrite s.tunMem (a.toNat + r.got) ((c.body.drop 8).take k)
      tun := { s.tun with unacked := s.tun.unacked.map fun q => if q.xid = r.xid then { q with got := r.got + k } else q } }))) ∧
  (∀ (n : Fin 16) (c : Cell) (s : State) (r : TunReq) (a : BitVec 64) (len k : Nat), Delivered n c s → fromOwner s c (bodyN c 0x19 1) = true →
    s.tun.unacked.find? (fun q => decide (q.xid.toNat = bodyN c 0x14 2)) = some r → r.kind = .read a len → r.use = .fetch → r.got < len →
    bodyN c 0x16 2 = r.got → bodyN c 0x1A 1 = 0 → k = min (bodyN c 0x18 1) (len - r.got) → k ≤ (c.body.drop 8).length → len ≤ r.got + k →
    exec (.tunData n c) s = .next (settle (roundAgain (tunFetched .fetch a.toNat len { s with
      tunMem := memWrite s.tunMem (a.toNat + r.got) ((c.body.drop 8).take k)
      tun := { s.tun with unacked := s.tun.unacked.map fun q => if q.xid = r.xid then { q with got := r.got + k } else q } })))) ∧
  (∀ (r : TunReq) (l : List TunReq) (s : State), s.hif.owner.isSome = true → s.tun.unacked = r :: l →
    r.sent + max 1 (regFld s Reg.hifTunCfg 23 16) ≤ now s → exec .tunResend s = .next (settle (resendAll s))) ∧
  (∀ (r : TunReq) (l : List TunReq) (s : State), s.tun.unacked = r :: l → now s < r.sent + max 1 (regFld s Reg.hifTunCfg 23 16) →
    exec .tunResend s = .next s) ∧
  (∀ (s : State), s.tun.unacked = [] → resendAll s = s) ∧
  (∀ (r : TunReq) (l : List TunReq) (s : State), s.hif.owner.isSome = true → s.tun.unacked = r :: l → s.hif.tunnelLost = false →
    s.tun.lastAck + lostTicks s ≤ now s → exec .tunnelLost s = .next (settle (dmaHalt 32 6 true r.kind.addr false false
      (stopRings 6 r.kind.addr false (raise Src.tunnelLost 0 0 { s with hif := { s.hif with tunnelLost := true } }))))) ∧
  (∀ (s : State), now s < s.tun.lastAck + lostTicks s → exec .tunnelLost s = .next s) ∧
  (∀ (n : Fin 16) (c : Cell) (s : State) (o : Owner) (r : List Word × State), Delivered n c s → s.hif.owner = some o →
    fromOwner s c (bodyN c 0x14 1) = true → regSpanOk (bodyN c 0x16 1) (bodyN c 0x18 4) = true →
    r = tunRegAccess (bitOf (bodyN c 0x15 1) 0) (bodyN c 0x18 4) ((List.range 8).map fun i => BitVec.ofNat 32 (bodyN c (0x1C + 4 * i) 4))
      (bodyN c 0x16 1) s →
    exec (.tunReg n c) s = .next (settle (sendRouted 0x5A o.id o.hops (reverseRoute o.hops o.retLinks)
      ([o.gen, 0] ++ leBytes 1 (bodyN c 0x16 1) ++ leBytes 1 (bodyN c 0x17 1) ++ leBytes 4 (bodyN c 0x18 4) ++
        r.1.flatMap fun w => leBytes 4 w.toNat) r.2)))

/-- TUNNEL_CLAIM with valid fields installs the target's bridge entry and sends the claim; without room it is refused with TUN_FULL (0x61). Its answer completes it and 16 ticks without one complete it with TIMEOUT and remove the entry. A target's write in order and in the window writes host memory, its read sends the data, its interrupt raises the vector; one out of order is only acknowledged. TUNNEL_DROP and a yield remove the entry. TUNNEL_REG sends the access; its answer completes it with its status, and 16 ticks without one with TIMEOUT. A write of the remote wake register wakes the target. What is the model's choice in it, and no rule of the spec, is logged in notes/assumptions: 9 (DESIGN CHOICE), 16 (DEDUCED), 103 (DEDUCED), 104 (PRESUMED). -/
def Obligations.TunnelServerBridgesItsTargets : Prop :=
  (∀ (h : CmdHdr) (a : TunnelClaimArgs) (s : State), Taken h false s → claimBad a = false → bridgeOf (takenState h s) a.target = none → s.tun.bridges.length < 1024 →
    exec (.tunnelClaim h a) s = .next (settle (sendRouted 0x55 a.target a.hops.toNat a.route
      ([a.gen, 0, 0, 0] ++ leBytes 8 (ownEui (takenState h s)).toNat ++ leBytes 8 a.hca.toNat) (setBridge a.target
      { hops := a.hops.toNat, gen := a.gen, winPages := a.winPages.toNat, route := a.route, hca := a.hca, winBase := a.winBase, xidNext := 0, executed := false, err := none, claim := some (ticketOf h s), claimAt := now s } (takenState h s))))) ∧
  (∀ (h : CmdHdr) (a : TunnelClaimArgs) (s : State), Taken h false s → claimBad a = false → bridgeOf (takenState h s) a.target = none → 1024 ≤ s.tun.bridges.length →
    exec (.tunnelClaim h a) s = .next (settle (complete (ticketOf h s) 0x61 0 (takenState h s)))) ∧
  (∀ (n : Fin 16) (c : Cell) (b : Bridge) (t : Ticket) (s : State), Delivered n c s → bridgeOf s c.src = some b → b.claim = some t →
    bodyN c 0x14 1 = b.gen.toNat → exec (.tunClaimAck n c) s = .next (settle (complete t (bodyN c 0x15 1) 0 (setBridge c.src { b with claim := none } s)))) ∧
  (∀ (n : BitVec 12) (b : Bridge) (t : Ticket) (s : State), bridgeOf s n = some b → b.claim = some t → b.claimAt + 16 ≤ now s →
    exec (.tunnelClaimTimeout n) s = .next (settle (complete t 9 0 (dropBridge n s)))) ∧
  (∀ (n : BitVec 12) (s : State), (∀ b, bridgeOf s n = some b → b.claim = none ∨ now s < b.claimAt + 16) →
    exec (.tunnelClaimTimeout n) s = .next s) ∧
  (∀ (n : Fin 16) (c : Cell) (b : Bridge) (s : State), Delivered n c s → bridgeOf s c.src = some b → bodyN c 0x1E 2 = b.xidNext.toNat →
    bodyN c 0x1D 1 = b.gen.toNat → inWindowOf b (bodyN c 0x14 8) ((c.body.drop 12).take (min 28 (bodyN c 0x1C 1))).length = true →
    exec (.tunWrite n c) s = .next (settle (setBridge c.src { b with xidNext := b.xidNext + 1, executed := true }
      { s with localMem := memWrite s.localMem (bodyN c 0x14 8) ((c.body.drop 12).take (min 28 (bodyN c 0x1C 1))) }))) ∧
  (∀ (n : Fin 16) (c : Cell) (b : Bridge) (s : State), Delivered n c s → bridgeOf s c.src = some b →
    (bodyN c 0x1E 2 ≠ b.xidNext.toNat ∨ bodyN c 0x1D 1 ≠ b.gen.toNat) → exec (.tunWrite n c) s = .next (settle (sendAck c.src b s))) ∧
  (∀ (n : Fin 16) (c : Cell) (b : Bridge) (s : State), Delivered n c s → bridgeOf s c.src = some b → bodyN c 0x1E 2 = b.xidNext.toNat →
    bodyN c 0x20 1 = b.gen.toNat → inWindowOf b (bodyN c 0x14 8) (min 4096 (bodyN c 0x1C 2)) = true →
    exec (.tunRead n c) s = .next (settle (setBridge c.src { b with xidNext := b.xidNext + 1, executed := true }
      ((dataCells (bodyN c 0x1E 2) b.gen (memRead s.localMem (bodyN c 0x14 8) (min 4096 (bodyN c 0x1C 2)))).foldl
        (fun s x => sendRouted 0x52 c.src b.hops b.route x s) s)))) ∧
  (∀ (n : Fin 16) (c : Cell) (b : Bridge) (s : State), Delivered n c s → bridgeOf s c.src = some b → bodyN c 0x16 2 = b.xidNext.toNat →
    bodyN c 0x15 1 = b.gen.toNat →
    exec (.tunIrq n c) s = .next (settle (setBridge c.src { b with xidNext := b.xidNext + 1, executed := true } (msixRaise (bodyN c 0x14 1 % 64) s)))) ∧
  (∀ (n : Fin 16) (c : Cell) (b : Bridge) (s : State), Delivered n c s → bridgeOf s c.src = some b → b.claim = none →
    exec (.tunYield n c) s = .next (settle (report 0x0F12 0 (leBytes 2 (bodyN c 0x16 2 % 4096) ++ leBytes 1 (bodyN c 0x14 1)) (dropBridge c.src s)))) ∧
  (∀ (h : CmdHdr) (n : BitVec 12) (b : Bridge) (s : State), Taken h false s → bridgeOf (takenState h s) n = some b → b.claim = none →
    exec (.tunnelDrop h n) s = .next (settle (complete (ticketOf h s) 0 0 (dropBridge n (takenState h s))))) ∧
  (∀ (h : CmdHdr) (n : BitVec 12) (s : State), Taken h false s → bridgeOf (takenState h s) n = none →
    exec (.tunnelDrop h n) s = .next (settle (complete (ticketOf h s) 0x62 0 (takenState h s)))) ∧
  (∀ (h : CmdHdr) (a : TunnelRegArgs) (b : Bridge) (w : TunRegWait) (s : State), Taken h false s → regSpanOk a.count.toNat a.offset.toNat = true → bridgeOf (takenState h s) a.target = some b → (a.write = true ∨ dmaHalted (takenState h s) = false) → w = { ticket := (ticketOf h s), target := a.target, rseq := s.tun.rseq, write := a.write, count := a.count.toNat, resultAddr := a.resultAddr, sent := now s } →
    exec (.tunnelReg h a) s = .next (settle (sendRouted 0x59 a.target b.hops b.route
      ([b.gen, (if a.write then 1 else 0), a.count, s.tun.rseq] ++ leBytes 4 a.offset.toNat ++
        (if a.write then (a.data.take a.count.toNat).flatMap fun x => leBytes 4 x.toNat else []))
      { (takenState h s) with tun := { s.tun with rseq := s.tun.rseq + 1, regWaits := s.tun.regWaits ++ [w] } }))) ∧
  (∀ (n : Fin 16) (c : Cell) (b : Bridge) (w : TunRegWait) (s : State), Delivered n c s → bridgeOf s c.src = some b →
    regWaitOf s c.src (bodyN c 0x17 1) = some w → bodyN c 0x14 1 = b.gen.toNat → w.write = true →
    exec (.tunRegResp n c) s = .next (settle (complete w.ticket (bodyN c 0x15 1) 0 (dropRegWait w s)))) ∧
  (∀ (n : Fin 16) (c : Cell) (b : Bridge) (w : TunRegWait) (s : State), Delivered n c s → bridgeOf s c.src = some b →
    regWaitOf s c.src (bodyN c 0x17 1) = some w → bodyN c 0x14 1 = b.gen.toNat → w.write = false → bodyN c 0x15 1 = 0 →
    exec (.tunRegResp n c) s = .next (settle (resultThen w.ticket w.resultAddr.toNat ((c.body.drop 8).take (4 * w.count)) 0 (dropRegWait w s)))) ∧
  (∀ (n : BitVec 12) (q : Byte) (w : TunRegWait) (s : State), regWaitOf s n q.toNat = some w → w.sent + 16 ≤ now s →
    exec (.tunnelRegTimeout n q) s = .next (settle (complete w.ticket 9 0 (dropRegWait w s)))) ∧
  (∀ (n : BitVec 12) (q : Byte) (s : State), (∀ w, regWaitOf s n q.toNat = some w → now s < w.sent + 16) →
    exec (.tunnelRegTimeout n q) s = .next s) ∧
  (∀ (v : Word) (b : Bridge) (s : State), bridgeOf s (BitVec.ofNat 12 v.toNat) = some b → s.power.state = .running →
    exec (.remoteWakeWrite v) s = .next (settle (sendRouted 0x57 (BitVec.ofNat 12 v.toNat) b.hops b.route [b.gen] s)))

/-- A taken MB_XFER with valid fields, and an MB_RESET, join the bus's queue; with no transaction in progress and MB_RST_n at rest the next one starts: on a disabled controller it completes with 0x74, a reset drives MB_RST_n, on a free bus it runs with what the wires answer. A transaction acknowledged throughout writes the bytes it read and completes with OK and its counts; one whose address is not acknowledged waits 1.2 ms and repeats, not earlier, and after its retries ends with 0x70; a write byte not acknowledged ends it with 0x71; a lost arbitration waits for the bus or ends with 0x72. It ends with TIMEOUT after 100 ms. A stuck bus, a bus reset of RST_US and its release act as the rules say. What is the model's choice in it, and no rule of the spec, is logged in notes/assumptions: 9 (DESIGN CHOICE), 113 (DEDUCED), 114 (DEDUCED), 164 (DESIGN CHOICE). -/
def Obligations.BusControllerTransactions : Prop :=
  (∀ (h : CmdHdr) (a : MbXferArgs) (w : MbWire) (s : State), Taken h false s → xferBad a = false →
    exec (.mbXfer h a w) s = .next (settle (mbNext (busOf a.bus) (some w)
      (mbMod (busOf a.bus) (fun b => { b with queue := b.queue ++ [.xfer (ticketOf h s) a s.time.refTime] }) (takenState h s))))) ∧
  (∀ (h : CmdHdr) (bus : Byte) (s : State), Taken h false s → bus.toNat ≤ 1 →
    exec (.mbReset h bus) s = .next (settle (mbNext (busOf bus) none (mbMod (busOf bus) (fun b => { b with queue := b.queue ++ [.reset (ticketOf h s)] }) (takenState h s))))) ∧
  (∀ (n : Fin 2) (w : Option MbWire) (t : Ticket) (l : List MbCmd) (s : State), s.mb[n].cur = none → s.mb[n].rst = .none →
    s.mb[n].queue = .reset t :: l → mbNext n w s = mbMod n (fun b => { b with queue := l, rst := .command t, rstAt := s.time.refTime, free := false }) s) ∧
  (∀ (n : Fin 2) (w : MbWire) (t : Ticket) (a : MbXferArgs) (at_ : Nat) (s : State), s.mb[n].cur = none → s.mb[n].rst = .none →
    s.mb[n].queue = [.xfer t a at_] → regBit s (Reg.mbCtrl n) 0 = true → (a.rlen = 0 ∨ dmaHalted s = false) → s.mb[n].free = false →
    mbNext n (some w) s = mbMod n (fun b => { b with cur := some { ticket := t, args := a, since := at_, arb := 0, nacks := 0, phase := .waitFree } })
      (mbMod n (fun b => { b with queue := [] }) s)) ∧
  (∀ (n : Fin 2) (c : MbCur) (l : List Byte) (s : State), c.args.rlen = 0 →
    runXfer n c (.answer true c.args.wlen.toNat true l) s = endXfer n c 0 c.args.wlen.toNat 0 s) ∧
  (∀ (n : Fin 2) (c : MbCur) (l : List Byte) (s : State), c.args.rlen ≠ 0 → dmaHalted s = false →
    runXfer n c (.answer true c.args.wlen.toNat true l) s = resultWith none c.ticket c.args.resultAddr.toNat (readBytes c.args.rlen.toNat l) 0
      (mbSpecific c.args.wlen.toNat c.args.rlen.toNat c.arb) (mbMod n (fun b => { b with cur := none, free := false }) s)) ∧
  (∀ (n : Fin 2) (c : MbCur) (k : Nat) (r : Bool) (l : List Byte) (s : State), c.nacks < regFld s (Reg.mbCtrl n) 19 18 →
    runXfer n c (.answer false k r l) s = mbMod n (fun b =>
      { b with cur := some { c with nacks := c.nacks + 1, phase := .nackWait }, free := false, nackAt := s.time.refTime }) s) ∧
  (∀ (n : Fin 2) (c : MbCur) (k : Nat) (r : Bool) (l : List Byte) (s : State), regFld s (Reg.mbCtrl n) 19 18 ≤ c.nacks →
    runXfer n c (.answer false k r l) s = endXfer n c 0x70 0 0 s) ∧
  (∀ (n : Fin 2) (c : MbCur) (k : Nat) (r : Bool) (l : List Byte) (s : State), k < c.args.wlen.toNat →
    runXfer n c (.answer true k r l) s = endXfer n c 0x71 k 0 s) ∧
  (∀ (n : Fin 2) (c : MbCur) (w : MbWire) (s : State), s.mb[n].cur = some c → c.phase = .nackWait → s.mb[n].others = false →
    s.mb[n].stuck = false → s.mb[n].rst = .none → mayHavePassed s s.mb[n].nackAt (mbMs * 12 / 10) = true →
    exec (.mbAddrNackRetry n w) s = .next (settle (mbNext n none (runXfer n c w s)))) ∧
  (∀ (n : Fin 2) (w : MbWire) (s : State), mayHavePassed s s.mb[n].nackAt (mbMs * 12 / 10) = false →
    exec (.mbAddrNackRetry n w) s = .next s) ∧
  (∀ (n : Fin 2) (c : MbCur) (w : MbWire) (s : State), s.mb[n].rst = .none → s.mb[n].cur = some c → c.phase = .waitFree →
    exec (.mbBusFree n w) s = .next (settle (mbNext n none (runXfer n c w (mbMod n (fun b =>
      { b with scl := true, sda := true, free := true, others := false, stuck := false, tgt := none }) s))))) ∧
  (∀ (n : Fin 2) (c : MbCur) (s : State), s.mb[n].cur = some c → c.phase = .waitFree →
    mayHavePassed s c.since (100 * mbMs) = true →
    exec (.mbXferTimeout n c.ticket.seq) s = .next (settle (mbNext n none (complete c.ticket 9 (mbSpecific 0 0 c.arb)
      (mbMod n (fun b => { b with cur := none }) s))))) ∧
  (∀ (n : Fin 2) (c : MbCur) (s : State), s.mb[n].cur = some c → c.phase = .waitFree →
    mayHavePassed s c.since (100 * mbMs) = false → exec (.mbXferTimeout n c.ticket.seq) s = .next s) ∧
  (∀ (n : Fin 2) (t : Ticket) (a : MbXferArgs) (at_ : Nat) (s : State), s.mb[n].cur = none → s.mb[n].queue = [.xfer t a at_] →
    mayHavePassed s at_ (100 * mbMs) = true →
    exec (.mbXferTimeout n t.seq) s = .next (settle (complete t 9 0 (mbMod n (fun b => { b with queue := [] }) s)))) ∧
  (∀ (n : Fin 2) (low : Bool) (s : State), regFld s (Reg.mbCtrl n) 31 24 ≠ 0 → s.mb[n].stuck = false → regBit s (Reg.mbCtrl n) 14 = false →
    exec (.mbStuck n low) s = .next (settle (mbNext n none (abandonXfer n 9 (markStuck n
      (mbMod n (fun b => { b with scl := !low, sda := low && b.sda }) s)))))) ∧
  (∀ (n : Fin 2) (s : State), s.mb[n].rst = .none → exec (.mbRstReceived n) s = .next (settle (report 0x0F21 n.val [3]
    (sticky (Reg.mbErrStat n) 3 (abandonXfer n 0x73 (mbMod n (fun b =>
      { b with rst := .other, free := false, others := false, stuck := false }) (endTarget n s))))))) ∧
  (∀ (n : Fin 2) (t : Ticket) (s : State), s.mb[n].rst = .command t → mayHavePassed s s.mb[n].rstAt (rstUnits s n) = true →
    exec (.mbRstDriveEnd n) s = .next (settle (mbNext n none (complete t 0 0 (mbMod n (fun b => { b with rst := .none, riseAt := some s.time.refTime }) s))))) ∧
  (∀ (n : Fin 2) (t : Ticket) (s : State), s.mb[n].rst = .command t → mayHavePassed s s.mb[n].rstAt (rstUnits s n) = false →
    exec (.mbRstDriveEnd n) s = .next s) ∧
  (∀ (n : Fin 2) (c d : Bool) (k : Nat) (s : State), s.mb[n].rst = .none → s.mb[n].riseAt = some k → mayHavePassed s k mbMs = true →
    exec (.mbRstReleaseCheck n c d) s = .next (if c && d then mbMod n (fun b => { b with scl := c, sda := d, riseAt := none }) s
      else settle (markStuck n (mbMod n (fun b => { b with scl := c, sda := d, riseAt := none }) s)))) ∧
  (∀ (n : Fin 2) (c d : Bool) (s : State), (∀ k, s.mb[n].riseAt = some k → mayHavePassed s k mbMs = false) →
    exec (.mbRstReleaseCheck n c d) s = .next s)

/-- An address byte of this module at an open node begins a target transaction and is acknowledged; another is not. Three offset bytes set the pointer, or are not acknowledged where they spell none; after them MB_0 takes no write, and on MB_1 each fourth byte writes a register at the pointer, which advances. A read gives the word at the pointer byte by byte and advances it after the fourth. A STOP inside a word is flagged, one inside a byte counted. A request header acknowledged, and a won read of the alert address, mark the request served; one unserved is flagged and not repeated for 10 ms. What a controller serves is reported, alerts 10 ms apart after 8 in a row. What is the model's choice in it, and no rule of the spec, is logged in notes/assumptions: 9 (DESIGN CHOICE), 113 (DEDUCED), 114 (DEDUCED), 164 (DESIGN CHOICE). -/
def Obligations.BusTargetRoleAndRequests : Prop :=
  (∀ (n : Fin 2) (b : Byte) (s u : State), u = mbMod n (fun x => { x with free := false, others := true, tgt := none, ack := false }) s →
    addressed u n b = false → exec (.mbTargetAddress n b) s = .next u) ∧
  (∀ (n : Fin 2) (b : Byte) (s u : State), u = mbMod n (fun x => { x with free := false, others := true, tgt := none, ack := false }) s →
    addressed u n b = true → regsOpen u = true → s.mb[n].wakeNack = none →
    exec (.mbTargetAddress n b) s = .next (mbMod n (fun x =>
      { x with tgt := some { read := b.getLsbD 0, bytes := [], nacked := false, word := 0, sent := 0 }, ack := true }) u)) ∧
  (∀ (n : Fin 2) (b : Byte) (t : MbTgt) (s : State), s.mb[n].tgt = some t → t.read = false → t.nacked = false →
    exec (.mbTargetByte n b) s = .next (settle (commitByte n t b s))) ∧
  (∀ (n : Fin 2) (b : Byte) (t : MbTgt) (s : State), t.bytes.length < 2 →
    commitByte n t b s = mbMod n (fun x => { x with ack := true, tgt := some { t with bytes := t.bytes ++ [b] } }) s) ∧
  (∀ (n : Fin 2) (b : Byte) (t : MbTgt) (o : Nat) (s : State), t.bytes.length = 2 → offsetOf (t.bytes ++ [b]) = some o →
    commitByte n t b s = mbMod n (fun x => { x with ptr := o })
      (mbMod n (fun x => { x with ack := true, tgt := some { t with bytes := t.bytes ++ [b] } }) s)) ∧
  (∀ (n : Fin 2) (b : Byte) (t : MbTgt) (s : State), ((t.bytes.length = 2 ∧ offsetOf (t.bytes ++ [b]) = none) ∨ (3 ≤ t.bytes.length ∧ n = 0)) →
    commitByte n t b s = mbMod n (fun x => { x with ack := false, tgt := some { t with nacked := true } }) s) ∧
  (∀ (b : Byte) (t : MbTgt) (s : State), 3 ≤ t.bytes.length → (t.bytes.length + 1 - 3) % 4 = 0 → s.mb[(1 : Fin 2)].ptr ≤ 0x3FFFC →
    commitByte 1 t b s = mbMod 1 (fun x => { x with ptr := x.ptr + 4 }) (busWrite .mb1 s.mb[(1 : Fin 2)].ptr
      (BitVec.ofNat 32 (ofLe ((t.bytes ++ [b]).drop (t.bytes.length + 1 - 4))))
      (mbMod 1 (fun x => { x with ack := true, tgt := some { t with bytes := t.bytes ++ [b] } }) s))) ∧
  (∀ (n : Fin 2) (t : MbTgt) (s : State) (w : Word), s.mb[n].tgt = some t → t.read = true → t.sent % 4 ≠ 0 → w = t.word →
    exec (.mbTargetReadByte n) s = .next (mbMod n (fun x =>
      { x with tgt := some { t with word := w, sent := t.sent + 1 }, sent := BitVec.ofNat 8 (w.toNat / 256 ^ (t.sent % 4)), ptr := if t.sent % 4 = 3 then s.mb[n].ptr + 4 else s.mb[n].ptr }) s)) ∧
  (∀ (n : Fin 2) (t : MbTgt) (s : State) (w : Word), s.mb[n].tgt = some t → t.read = true → t.sent % 4 = 0 →
    w = busRead (mbPath n) s s.mb[n].ptr → exec (.mbTargetReadByte n) s = .next (mbMod n (fun x =>
      { x with tgt := some { t with word := w, sent := t.sent + 1 }, sent := BitVec.ofNat 8 w.toNat, ptr := s.mb[n].ptr })
      (afterRead (mbPath n) s.mb[n].ptr s))) ∧
  (∀ (n : Fin 2) (r : Bool) (s : State), exec (.mbStop n r false) s = .next (mbMod n (fun x => { x with others := r, free := false }) (endTarget n s))) ∧
  (∀ (n : Fin 2) (r : Bool) (s : State), s.mb[n].tgt.isSome = true → exec (.mbStop n r true) s = .next (mbMod n (fun x =>
    { x with others := r, free := false }) (endTarget n (sticky (Reg.mbErrStat n) 0 (bumpFld (Reg.mbCounts n) 15 0 1 s))))) ∧
  (∀ (n : Fin 2) (t : MbTgt) (s : State), s.mb[n].tgt = some t → t.read = false → 3 < t.bytes.length → (t.bytes.length - 3) % 4 ≠ 0 →
    endTarget n s = mbMod n (fun x => { x with tgt := none }) (sticky (Reg.mbErrStat n) 4 s)) ∧
  (∀ (n : Fin 2) (e : MbHeaderEnd) (s u : State), canRequest s n = true →
    u = mbMod n (fun x => { x with free := false, others := decide (e = .lost), sent := BitVec.ofNat 8 (tgtAddr s n * 2 + 1) }) s →
    exec (.mbTargetRequest n e) s = .next (if e = .acked then setServed n u else u)) ∧
  (∀ (n : Fin 2) (s : State), canRequest s n = true →
    exec (.mbRequestUnserved n) s = .next (sticky (Reg.mbErrStat n) 5 (mbMod n (fun b => { b with reqPause := some s.time.refTime }) s))) ∧
  (∀ (n : Fin 2) (b : Byte) (s : State), canServe s n 12 = true → addressed s n b = false → b.getLsbD 0 = true →
    exec (.mbServeInband n b) s = .next (reportRequest n b false (mbMod n (fun x => { x with ack := true })
      (mbMod n (fun x => { x with free := false, ack := false }) s)))) ∧
  (∀ (n : Fin 2) (l : List Byte) (low : Bool) (s : State), canServe s n 13 = true → s.mb[n].free = true → pauseOver s s.mb[n].alertPause = true →
    exec (.mbAlertServe n l low) s = .next ((l.take 8).foldl (fun s b => reportRequest n b true s)
      (mbMod n (fun x => { x with free := false, alertIn := low, alertPause := if low && decide (8 ≤ l.length) then some s.time.refTime else none }) s))) ∧
  (∀ (n : Fin 2) (w : Bool) (s u : State), regsOpen s = true → alertHeld s n = true →
    u = mbMod n (fun x => { x with free := false, others := true, sent := BitVec.ofNat 8 (tgtAddr s n * 2) }) s →
    exec (.mbAraRead n w) s = .next (if w then setServed n u else u)) ∧
  (∀ (path : AccessPath) (n : Fin 2) (v : Word) (s : State), path ≠ .mb0 → regsOpen s = true →
    exec (.mbTgtReqSet path n v) s = .next (settle (writeTgtReq n v s)) ∧ exec (.mbTgtReqClear path n v) s = .next (settle (writeTgtReq n v s))) ∧
  (∀ (n : Fin 2) (v : Word) (s : State), flag v 0 = false → flag v 1 = true → regBit (writeTgtReq n v s) (Reg.mbTgtReq n) 0 = true) ∧
  (∀ (n : Fin 2) (v : Word) (s : State), flag v 0 = true → flag v 1 = false → regBit (writeTgtReq n v s) (Reg.mbTgtReq n) 0 = false ∧
    regBit (writeTgtReq n v s) (Reg.mbTgtReq n) 2 = false)

/-- At an offset that no chapter defines as a register, a read on any path gives 0, and a REGISTER_WRITE of any value on any path is answered normally and leaves a settled state as it is: nothing is recorded. A read leaves every state as it is. -/
def Obligations.ReservedOffsetsReadZeroIgnoreWrites : Prop :=
  (∀ (path : AccessPath) (off : BitVec 18) (s : State), regRow off.toNat = none → busRead path s off.toNat = 0) ∧
  (∀ (path : AccessPath) (off : BitVec 18) (s : State), regRow off.toNat = none → afterRead path off.toNat s = s) ∧
  (∀ (path : AccessPath) (off : BitVec 18) (v : Word) (s : State), Settled s → regRow off.toNat = none →
    exec (.registerWrite path off v) s = .next s)

/-- Each path has its own capture: with registers open, a read of GLB_TICK_LO on a path gives the low 32 bits of the tick number and leaves its high 32 bits in that path's capture, and no other change; a read of GLB_TICK_HI gives the capture of the reading path. Reads on other paths change it not. -/
def Obligations.TickReadThroughItsCapture : Prop :=
  (∀ (path : AccessPath) (s : State), regsOpen s = true → busRead path s Reg.glbTickLo = BitVec.ofNat 32 (now s)) ∧
  (∀ (path : AccessPath) (s : State), regsOpen s = true → ∃ t : State, exec (.glbTickLoRead path) s = .next t ∧
    busRead path t Reg.glbTickHi = BitVec.ofNat 32 (now s / 2 ^ 32) ∧
    (∀ q : AccessPath, q ≠ path → busRead q t Reg.glbTickHi = busRead q s Reg.glbTickHi) ∧ t = { s with time := t.time } ∧
    t.time.tick = s.time.tick ∧ t.time.kerf = s.time.kerf ∧ t.time.refTime = s.time.refTime ∧ t.time.rate = s.time.rate ∧
    t.time.aligned = s.time.aligned) ∧
  (∀ (path : AccessPath) (s : State), regsOpen s = true → busRead path s Reg.glbTickHi = capturedHi s path)

/-- A write on MB_0, before HOST_READY or in sleep changes nothing. Elsewhere a write of a register takes the effect of its access codes: RW fields take the value, RWL fields until SETUP_LOCK, W1C fields are cleared by ones together with their counters, others keep theirs, and a changed RWP bit is recorded as a refused DIRECT_WRITE of the path's class. SETUP_LOCK sets the lock and applies the topology once. METER_CTRL and METER_SRC ask for their clears at the next boundary. ENABLE of a link starts its training or takes it down, and the SERDES PLL stops with the last link. TEST_TRACE_CTRL clears the trace when it is switched on. What is the model's choice in it, and no rule of the spec, is logged in notes/assumptions: 118 (DEDUCED), 122 (DEDUCED), 151 (DESIGN CHOICE). -/
def Obligations.RegisterWritesTakeTheirEffect : Prop :=
  (∀ (path : AccessPath) (off : BitVec 18) (v : Word) (s : State), (path = .mb0 ∨ regsOpen s = false) →
    exec (.registerWrite path off v) s = .next (settle s)) ∧
  (∀ (path : AccessPath) (off : BitVec 18) (v : Word) (s : State), path ≠ .mb0 → regsOpen s = true →
    exec (.registerWrite path off v) s = .next (settle (regWrite setMode path off.toNat v s))) ∧
  (∀ (path : AccessPath) (k : Fin 16) (v : Word) (s : State), path ≠ .mb0 → regsOpen s = true → ∃ r : RegRow,
    regRow (Reg.psPfreq k) = some r ∧ r.rwp = 0 ∧ r.w1c = 0 ∧ exec (.psPfreqWrite path k v) s =
      .next (settle (regSet (Reg.psPfreq k) (storedValue r (locked s) (regGet s (Reg.psPfreq k)) v) s))) ∧
  (∀ (r : RegRow) (l : Bool) (old v : Word) (i : Nat), i < 32 → (storedValue r l old v).getLsbD i =
    (if r.w1c.getLsbD i then (if r.rw.getLsbD i || (!l && r.rwl.getLsbD i) then false else old.getLsbD i && !v.getLsbD i)
     else if r.rw.getLsbD i || (!l && r.rwl.getLsbD i) then v.getLsbD i else old.getLsbD i)) ∧
  (∀ (r : RegRow) (path : AccessPath) (off : Nat) (v : Word) (s u : State), flagCounts off = [] →
    u = regSet off (storedValue r (locked s) (regGet s off) v) s →
    plainWrite r path off v s = if (v ^^^ regGet s off) &&& r.rwp = 0 then u else refuse (pathClass path) 4 (off / 4) u) ∧
  (∀ (path : AccessPath) (v : Word) (s : State), path ≠ .mb0 → regsOpen s = true → exec (.setupLock path v) s =
    .next (settle (if flag v 0 ∧ locked s = false then applyTopology (regSet Reg.glbLock 1 s) else s))) ∧
  (∀ (path : AccessPath) (v : Word) (s : State), path ≠ .mb0 → regsOpen s = true → ∃ u : State, exec (.meterClear path v) s = .next (settle u) ∧
    regGet u Reg.meterCtrl = BitVec.ofNat 32 (fld v 0 0) ∧ (∀ off, off ≠ Reg.meterCtrl → regGet u off = regGet s off) ∧
    u = { s with regs := u.regs, router := { s.router with meterClearAll := s.router.meterClearAll || flag v 1 } }) ∧
  (∀ (path : AccessPath) (e : Fin 1024) (v : Word) (s : State), path ≠ .mb0 → regsOpen s = true → ∃ u : State,
    exec (.meterSrcWrite path e v) s = .next (settle u) ∧ regGet u (Reg.meterSrc e) = BitVec.ofNat 32 (fld v 15 0) ∧
    (∀ off, off ≠ Reg.meterSrc e → regGet u off = regGet s off) ∧ e.val ∈ u.router.meterClears ∧
    u = { s with regs := u.regs, router := { s.router with meterClears := u.router.meterClears } }) ∧
  (∀ (path : AccessPath) (n : Fin 16) (v : Word) (s : State), path ≠ .mb0 → regsOpen s = true → flag v 0 = true → linkEnabled s n = false →
    exec (.linkEnableWrite path n v) s = .next (settle (startTraining n (linkMod n (fun l => { l with squelch := l.detachHold })
      (regSet (Reg.linkCtrl n) (v &&& 0x00FFFF03) s))))) ∧
  (∀ (path : AccessPath) (n : Fin 16) (v : Word) (s : State), path ≠ .mb0 → regsOpen s = true → flag v 0 = false →
    exec (.linkEnableWrite path n v) s = .next (settle (serdesIdle (linkMod n (fun l => { l with squelch := true, retrain := false })
      (linkDown n false false (regSet (Reg.linkCtrl n) (v &&& 0x00FFFF03) s)))))) ∧
  (∀ (path : AccessPath) (v : Word) (s : State), path ≠ .mb0 → regsOpen s = true → exec (.traceEnable path v) s = .next (settle
    (if flag v 0 ∧ regBit s Reg.testTraceCtrl 0 = false then clearTrace (regSetFld Reg.testTraceCtrl 0 0 (fld v 0 0) s)
     else regSetFld Reg.testTraceCtrl 0 0 (fld v 0 0) s)))

/-- START loads V from INIT and clears the count. A feed of 1, 2 or 4 bytes takes them in order through the unit's polynomial and counts them. RESULT is V reflected with REFOUT and inverted with INVERT. Writes to units 4 to 7 are ignored. What is the model's choice in it, and no rule of the spec, is logged in notes/assumptions: 111 (DEDUCED), 112 (DESIGN CHOICE). -/
def Obligations.CheckValueUnitsFed : Prop :=
  (∀ (path : AccessPath) (u : Fin 8) (v : Word) (s : State), path ≠ .mb0 → regsOpen s = true → u.val < 4 → flag v 0 = true →
    exec (.crcStart path u v) s = .next (settle (regSet (Reg.crcCount u) 0 (setCrcValue u (regPair s (Reg.crcInitLo u) (Reg.crcInitHi u)) s)))) ∧
  (∀ (path : AccessPath) (u : Fin 8) (v : Word) (s : State), path ≠ .mb0 → regsOpen s = true → u.val < 4 →
    exec (.crcDataB path u v) s = .next (settle (crcFeedUnit u (leBytes 1 v.toNat) s)) ∧
    exec (.crcDataH path u v) s = .next (settle (crcFeedUnit u (leBytes 2 v.toNat) s)) ∧
    exec (.crcDataW path u v) s = .next (settle (crcFeedUnit u (leBytes 4 v.toNat) s))) ∧
  (∀ (path : AccessPath) (u : Fin 8) (v : Word) (s : State), 4 ≤ u.val →
    exec (.crcStart path u v) s = .next (settle s) ∧ exec (.crcDataB path u v) s = .next (settle s) ∧
    exec (.crcDataH path u v) s = .next (settle s) ∧ exec (.crcDataW path u v) s = .next (settle s)) ∧
  (∀ (u : Nat) (bytes : List Byte) (s t : State) (w v : Nat), w = 8 * 2 ^ regFld s (Reg.crcCfg u) 1 0 →
    v = crcFeedAll w (regPair s (Reg.crcPolyLo u) (Reg.crcPolyHi u)) (regBit s (Reg.crcCfg u) 2) (regPair s (Reg.crcValueLo u) (Reg.crcValueHi u)) bytes →
    t = crcFeedUnit u bytes s → regPair t (Reg.crcValueLo u) (Reg.crcValueHi u) % 2 ^ w = v % 2 ^ w ∧
      regGet t (Reg.crcCount u) = BitVec.ofNat 32 (min (2 ^ 32 - 1) ((regGet s (Reg.crcCount u)).toNat + bytes.length))) ∧
  (∀ (w poly : Nat) (v b : Nat), 8 < w → b < 256 → v < 2 ^ w → ∀ bb : Byte, bb.toNat = b →
    crcFeed w poly false v bb = crcShift w poly 8 (Nat.xor v (b * 2 ^ (w - 8)))) ∧
  (∀ (w poly k v : Nat), 0 < w → v < 2 ^ w → crcShift w poly (k + 1) v = crcShift w poly k
    (if v / 2 ^ (w - 1) = 1 then Nat.xor (v * 2 % 2 ^ w) (poly % 2 ^ w) else v * 2 % 2 ^ w)) ∧
  (∀ (path : AccessPath) (u : Fin 8) (s : State), regsOpen s = true → u.val < 4 →
    busRead path s (Reg.crcResultLo u) = BitVec.ofNat 32 (crcResultOf s u))

/-- Before the lock, from BAR0 or the tunnel and with no access in progress, READ or WRITE starts one at the window's address with its data, the regions allowing it or not as they stand then (R418). Its end performs the write, or leaves the word read, where the matrix answers OKAY; an error is recorded by the master of the path and a read's data is 0. What is the model's choice in it, and no rule of the spec, is logged in notes/assumptions: 9 (DESIGN CHOICE), 118 (DEDUCED). -/
def Obligations.DebugWindowAccess : Prop :=
  (∀ (path : AccessPath) (v : Word) (s : State), (path = .bar0 ∨ path = .tunnelReg) → regsOpen s = true → locked s = false → s.test.dbg = none →
    fld v 1 0 ≠ 0 → ∃ a : DbgAccess, exec (.testDbgRead path v) s = .next (settle { s with test := { s.test with dbg := some a } }) ∧
      exec (.testDbgWrite path v) s = .next (settle { s with test := { s.test with dbg := some a } }) ∧ a.write = !flag v 0 ∧ a.path = path ∧
      a.addr = (regGet s Reg.testDbgAddrLo).toNat + fld (regGet s Reg.testDbgAddrHi) 1 0 * 2 ^ 32 ∧ a.data = regGet s Reg.testDbgData ∧ a.allowed = regionAllows s a.addr a.write) ∧
  (∀ (a : DbgAccess) (s t : State), s.test.dbg = some a → a.allowed = true →
    targetResp s (if a.path = .bar0 then 0 else 1) a.addr 4 a.write = .okay → a.write = true →
    t = { s with test := { s.test with dbg := none, resp := 0 } } →
    exec (.testDbgDone false) s = .next (settle (devWrite setMode a.path a.addr (leBytes 4 a.data.toNat) t))) ∧
  (∀ (a : DbgAccess) (s t : State), s.test.dbg = some a → a.allowed = true →
    targetResp s (if a.path = .bar0 then 0 else 1) a.addr 4 a.write = .okay → a.write = false →
    t = { s with test := { s.test with dbg := none, resp := 0 } } →
    exec (.testDbgDone false) s = .next (settle (regSet Reg.testDbgData (BitVec.ofNat 32 (ofLe (devRead a.path a.addr 4 t).1))
      (devRead a.path a.addr 4 t).2))) ∧
  (∀ (a : DbgAccess) (e : Bool) (r : Resp) (s t : State), s.test.dbg = some a →
    r = (if a.allowed then targetResp s (if a.path = .bar0 then 0 else 1) a.addr 4 a.write else .deny) → r ≠ .okay → a.write = false →
    t = { s with test := { s.test with dbg := none, resp := r.code } } →
    exec (.testDbgDone e) s = .next (settle (regSet Reg.testDbgData 0 (matrixError r (if a.path = .bar0 then 0 else 1) false a.addr t))))

/-- A raise of a reserved source, of one at OFF or in sleep does nothing. A raise on a CLEAR instance without a recovery limit makes it ACTIVE below FAILOVER and LATCHED from FAILOVER on, at HALT with HALTED set, and counts it, and the QUIET in force begins; on a LATCHED one it only counts; from FENCE on it fences the unit. The quiet period ends an ACTIVE instance, counted in its window: CLEAR, or RECOVERING for a unit that retries; one that waits for the host stays, as does one whose QUIET cannot have passed yet. SUMP_QUERY writes the records of its instances. SUMP_CLEAR clears the latch of an instance, releases its fence, answers 0x40 where a latch holds the unit, and PROTECTED for a HALT latch, which it leaves. What is the model's choice in it, and no rule of the spec, is logged in notes/assumptions: 9 (DESIGN CHOICE), 115 (DEDUCED), 116 (DEDUCED), 117 (DEDUCED), 118 (DEDUCED), 119 (DEDUCED), 120 (DEDUCED), 164 (DESIGN CHOICE). -/
def Obligations.FaultsRaisedQuietedAndCleared : Prop :=
  (∀ (src inst d : Nat) (s : State), (sumpSource src = none ∨ severity s src = 0 ∨ s.power.state = .sleep) → raise src inst d s = s) ∧
  (∀ (src inst d : Nat) (x : SumpSource) (s : State), sumpSource src = some x → inst < x.instances → 0 < severity s src → s.power.state ≠ .sleep →
    (sumpInst s src inst).state = .clear → regFld s (Reg.sumpCfg src) 7 4 = 0 →
    (sumpInst (raise src inst d s) src inst).state = (if severity s src < 5 then .active else .latched) ∧
    (sumpInst (raise src inst d s) src inst).raises = satN 16 ((sumpInst s src inst).raises + 1) ∧
    (sumpInst (raise src inst d s) src inst).quietFrom = s.time.refTime ∧ (sumpInst (raise src inst d s) src inst).quiet = quietOf s src ∧
    (sumpInst (raise src inst d s) src inst).detail = d ∧ (sumpInst (raise src inst d s) src inst).lastTick = now s ∧
    (raise src inst d s).sump.halted = (s.sump.halted || decide (severity s src = 6))) ∧
  (∀ (src inst d : Nat) (x : SumpSource) (u : FenceUnit) (s : State), sumpSource src = some x → inst < x.instances → 4 ≤ severity s src →
    s.power.state ≠ .sleep → (sumpInst s src inst).state = .clear → fenceUnit src inst = some u → fenced (raise src inst d s) u = true) ∧
  (∀ (src inst d : Nat) (x : SumpSource) (s : State), sumpSource src = some x → inst < x.instances → 0 < severity s src → s.power.state ≠ .sleep →
    (sumpInst s src inst).state = .latched → raise src inst d s =
      setInst src inst { sumpInst s src inst with raises := satN 16 ((sumpInst s src inst).raises + 1) } s) ∧
  (∀ (src inst : Byte) (s : State), (sumpInst s src.toNat inst.toNat).state = .active → heldForRelease s src.toNat inst.toNat = false →
    mayHavePassed s (sumpInst s src.toNat inst.toNat).quietFrom (sumpInst s src.toNat inst.toNat).quiet = true → ∃ t : State, exec (.faultQuietExpiry src inst) s = .next t ∧ t = { s with sump := t.sump, hif := t.hif } ∧
      (sumpInst t src.toNat inst.toNat).state = (if retries src.toNat then .recovering else .clear) ∧
      (sumpInst t src.toNat inst.toNat).recoveries = satN 16 ((sumpInst s src.toNat inst.toNat).recoveries + 1) ∧
      (sumpInst t src.toNat inst.toNat).window = (s.time.refTime :: (sumpInst s src.toNat inst.toNat).window).take 15 ∧
      t.sump.fences = s.sump.fences ∧ (∀ k n, k * 256 + n ≠ src.toNat * 256 + inst.toNat → sumpInst t k n = sumpInst s k n)) ∧
  (∀ (src inst : Byte) (s : State), ((sumpInst s src.toNat inst.toNat).state ≠ .active ∨ heldForRelease s src.toNat inst.toNat = true ∨ mayHavePassed s (sumpInst s src.toNat inst.toNat).quietFrom (sumpInst s src.toNat inst.toNat).quiet = false) →
    exec (.faultQuietExpiry src inst) s = .next (s)) ∧
  (∀ (h : CmdHdr) (a : SumpQueryArgs) (s : State), Taken h false s → a.first.toNat + a.countM1.toNat + 1 ≤ (sumpSource a.source.toNat).elim 0 (fun x => x.instances) → aligned8 a.resultAddr = true →
    exec (.sumpQuery h a) s = .next (settle (resultThen (ticketOf h s) a.resultAddr.toNat ((List.range (a.countM1.toNat + 1)).flatMap fun k =>
      sumpRecord (takenState h s) a.source.toNat (a.first.toNat + k)) 0 (takenState h s)))) ∧
  (∀ (h : CmdHdr) (a : SumpClearArgs) (s : State), Taken h false s → a.inst.toNat < (sumpSource a.source.toNat).elim 0 (fun x => x.instances) → a.action = 1 → ((sumpInst s a.source.toNat a.inst.toNat).state ≠ .latched ∨ (sumpInst s a.source.toNat a.inst.toNat).sev ≠ 6) →
    exec (.sumpClear h a) s = .next (settle (complete (ticketOf h s) 0 0 (clearLatch a.source.toNat (takenState h s) a.inst.toNat)))) ∧
  (∀ (h : CmdHdr) (a : SumpClearArgs) (s : State), Taken h false s → a.inst.toNat < (sumpSource a.source.toNat).elim 0 (fun x => x.instances) → (a.action = 1 ∨ a.action = 2 ∨ a.action = 3) → (sumpInst s a.source.toNat a.inst.toNat).state = .latched → (sumpInst s a.source.toNat a.inst.toNat).sev = 6 →
    exec (.sumpClear h a) s = .next (settle (complete (ticketOf h s) 6 0 (takenState h s)))) ∧
  (∀ (h : CmdHdr) (a : SumpClearArgs) (u : FenceUnit) (s : State), Taken h false s → a.inst.toNat < (sumpSource a.source.toNat).elim 0 (fun x => x.instances) → a.action = 2 → fenceUnit a.source.toNat a.inst.toNat = some u → hostReleased u = true → fenced s u = true → unitLatched s u = false → (sumpInst s a.source.toNat a.inst.toNat).state ≠ .latched →
    exec (.sumpClear h a) s = .next (settle (complete (ticketOf h s) 0 0 (releaseUnit a.source.toNat a.inst.toNat u (takenState h s))))) ∧
  (∀ (h : CmdHdr) (a : SumpClearArgs) (u : FenceUnit) (s : State), Taken h false s → a.inst.toNat < (sumpSource a.source.toNat).elim 0 (fun x => x.instances) → a.action = 2 → fenceUnit a.source.toNat a.inst.toNat = some u → hostReleased u = true → fenced s u = true → unitLatched s u = true → ((sumpInst s a.source.toNat a.inst.toNat).state ≠ .latched ∨ (sumpInst s a.source.toNat a.inst.toNat).sev ≠ 6) →
    exec (.sumpClear h a) s = .next (settle (complete (ticketOf h s) 0x40 0 (takenState h s)))) ∧
  (∀ (src n : Nat) (s : State), (sumpInst s src n).state = .latched → (sumpInst s src n).sev ≠ 6 →
    (sumpInst (clearLatch src s n) src n).state = .clear ∧ (sumpInst (clearLatch src s n) src n).window = [] ∧
    (sumpInst (clearLatch src s n) src n).raises = (sumpInst s src n).raises) ∧
  (∀ (src n : Nat) (u : FenceUnit) (s : State), (∀ l, u ≠ .link l) → fenced (releaseUnit src n u s) u = false ∧
    releaseUnit src n u s = { s with sump := (releaseUnit src n u s).sump, hif := (releaseUnit src n u s).hif })

/-- A write of PROT_CMD or PROT_CONFIRM acts in the class of its path; by DMA it is refused with NO_CLASS. A PROPOSE of 1 to 16 items that pass the check opens a proposal of its class with a new non-zero nonce; one that fails changes only LAST_RESULT; one while a proposal stands is refused with BUSY. A WITHDRAW by the proposer ends it; another class is refused. The CRC over items and nonce, written by another class, commits every item under its mask, advances COMMIT_SEQ and starts the store write; by the same class it is refused, and a mismatch ends the proposal. Ten seconds end it with a refusal. The end of the store write puts the values in force into both copies. A refusal is counted, recorded and raised. What is the model's choice in it, and no rule of the spec, is logged in notes/assumptions: 9 (DESIGN CHOICE), 121 (DESIGN CHOICE), 122 (DEDUCED), 123 (DEDUCED), 164 (DESIGN CHOICE). -/
def Obligations.ProtectedValuesTakeTwoClasses : Prop :=
  (∀ (path : AccessPath) (v : Word) (s : State), pathClass path ≠ 3 → regsOpen s = true → fld v 1 0 = 1 →
    exec (.propose path v) s = .next (settle (propose (pathClass path) (fld v 12 8) s))) ∧
  (∀ (path : AccessPath) (v : Word) (s : State), pathClass path ≠ 3 → regsOpen s = true → fld v 1 0 = 2 →
    exec (.withdraw path v) s = .next (settle (withdraw (pathClass path) s))) ∧
  (∀ (path : AccessPath) (v : Word) (s : State), pathClass path ≠ 3 → regsOpen s = true →
    exec (.protConfirm path v) s = .next (settle (protConfirm (pathClass path) v s))) ∧
  (∀ (v : Word) (s : State), regsOpen s = true → exec (.propose .dma v) s = .next (settle (refuse 3 10 0 s)) ∧
    exec (.withdraw .dma v) s = .next (settle (refuse 3 10 0 s)) ∧ exec (.protConfirm .dma v) s = .next (settle (refuse 3 10 0 s))) ∧
  (∀ (c n : Nat) (s : State), c < 3 → s.prot.proposed = false → 0 < n → n ≤ 16 → (∀ k, k < n → itemOk s k = true) →
    (propose c n s).prot.proposed = true ∧ (propose c n s).prot.classA.val = c ∧ (propose c n s).prot.count = n ∧
    (propose c n s).prot.nonce ≠ 0 ∧ (propose c n s).prot.proposedAt = s.time.refTime ∧
    propose c n s = { s with prot := (propose c n s).prot, free := s.free + 1 }) ∧
  (∀ (c n : Nat) (s : State), c < 3 → s.prot.proposed = false → (n = 0 ∨ 16 < n ∨ ∃ k, k < n ∧ itemOk s k = false) →
    propose c n s = { s with prot := { s.prot with lastResult := 2 } }) ∧
  (∀ (c n : Nat) (s : State), c < 3 → s.prot.proposed = true → propose c n s = refuse c 5 0 s) ∧
  (∀ (c : Nat) (s : State), c < 3 → s.prot.proposed = true → withdraw c s = if s.prot.classA.val = c then
    { s with prot := { s.prot with proposed := false, nonce := 0, count := 0, lastResult := 3 } } else refuse c 5 0 s) ∧
  (∀ (c : Nat) (s : State), c < 3 → s.prot.proposed = false → withdraw c s = refuse c 8 0 s) ∧
  (∀ (c : Nat) (v : Word) (s : State), c < 3 → s.prot.proposed = false → protConfirm c v s = refuse c 8 0 s) ∧
  (∀ (c : Nat) (v : Word) (s : State), c < 3 → s.prot.proposed = true → s.prot.classA.val = c → protConfirm c v s = refuse c 6 0 s) ∧
  (∀ (c : Nat) (v : Word) (s : State), c < 3 → s.prot.proposed = true → s.prot.classA.val ≠ c → v ≠ crc32c (proposalBytes s) →
    protConfirm c v s = refuse c 7 0 (endProposal (crcLeft 6 (crc32c (proposalBytes s)) (proposalBytes s).length s))) ∧
  (∀ (c : Nat) (s : State), c < 3 → s.prot.proposed = true → s.prot.classA.val ≠ c →
    protConfirm c (crc32c (proposalBytes s)) s = commitProposal (crcLeft 6 (crc32c (proposalBytes s)) (proposalBytes s).length s)) ∧
  (∀ (s : State), (commitProposal s).prot = { s.prot with proposed := false, nonce := 0, count := 0, lastResult := 1, commitSeq := satN 16 (s.prot.commitSeq + 1), storeBusy := true }) ∧
  (∀ (o : Nat) (s : State), s.prot.count = 1 → o = (protItem s 0 0).toNat → (o < 0x8400 ∨ 0x8800 ≤ o) →
    regGet (commitProposal s) o = ((regGet s o &&& ~~~ (protItem s 0 2)) ||| protItem s 0 1) ∧
    (∀ off, off ≠ o → regGet (commitProposal s) off = regGet s off)) ∧
  (∀ (c r w : Nat) (s : State), (refuse c r w s).prot = { s.prot with lastResult := r } ∧
    regGet (refuse c r w s) Reg.protLastRefuse = BitVec.ofNat 32 (c % 4 + r * 16 + w * 65536) ∧
    regGet (refuse c r w s) Reg.protRefuseCount = BitVec.ofNat 32 (satN 32 ((regGet s Reg.protRefuseCount).toNat + 1))) ∧
  (∀ (s : State), s.prot.proposed = true → mayHavePassed s s.prot.proposedAt (10 * refSecond) = true →
    exec (.protTimeout) s = .next (settle (refuse s.prot.classA.val 9 0 (endProposal s)))) ∧
  (∀ (s : State), (s.prot.proposed = false ∨ mayHavePassed s s.prot.proposedAt (10 * refSecond) = false) →
    exec (.protTimeout) s = .next (s)) ∧
  (∀ (s : State), s.prot.storeBusy = true → exec .protStoreDone s = .next { s with prot := { s.prot with storeBusy := false }, flash := { s.flash with copies := vmap (fun c => { c with rwp := rwpInForce s, commitSeq := BitVec.ofNat 16 s.prot.commitSeq }) s.flash.copies } }) ∧
  (∀ (s : State), s.prot.storeBusy = false →
    exec (.protStoreDone) s = .next (s))

/-- The worst margin is recorded; with the adjustment enabled, and 10 s after the last, a margin below 40 ps raises the supply by a step and one above 80 ps lowers it, within 10 steps each way; below 40 ps at the limit AGE_VDD_LIMIT is raised and a clock step proposed, or AGE_MARGIN_LOW while a program would miss its deadline. A survey records what it measured; a low eye proposes LINK_REEQ once, a low retention DRAM_REFRESH, and a proposal gets the next ID and is reported. AGE_QUERY writes its bytes. A decision about a standing proposal, or a revert of an applied kind, is held for its tick, a clock step no earlier than 1 ms on; at its boundary a rejection drops the proposal, an approval applies it and a revert undoes it. What is the model's choice in it, and no rule of the spec, is logged in notes/assumptions: 17 (DEDUCED), 124 (DEDUCED), 125 (DEDUCED), 139 (DESIGN CHOICE). -/
def Obligations.AgeingAdjustsSurveysAndDecides : Prop :=
  (∀ (w : BitVec 16) (s : State), 40 ≤ w.toNat → w.toNat ≤ 80 →
    exec (.ageVddAdjust w) s = .next ({ s with wear := { s.wear with marginPs := w.toNat } })) ∧
  (∀ (w : BitVec 16) (s : State), w.toNat < 40 → s.wear.vddSteps < 10 → regBit s Reg.ageCtrl 0 = true →
    (∀ t, s.wear.lastAdjust = some t → t + 10 * refSecond ≤ s.time.refTime) → exec (.ageVddAdjust w) s =
    .next { s with wear := { s.wear with marginPs := w.toNat, vddSteps := s.wear.vddSteps + 1, lastAdjust := some s.time.refTime } }) ∧
  (∀ (w : BitVec 16) (s : State), 80 < w.toNat → -10 < s.wear.vddSteps → regBit s Reg.ageCtrl 0 = true →
    (∀ t, s.wear.lastAdjust = some t → t + 10 * refSecond ≤ s.time.refTime) → exec (.ageVddAdjust w) s =
    .next { s with wear := { s.wear with marginPs := w.toNat, vddSteps := s.wear.vddSteps + -1, lastAdjust := some s.time.refTime } }) ∧
  (∀ (w : BitVec 16) (s : State), (regBit s Reg.ageCtrl 0 = false ∨ ∃ t, s.wear.lastAdjust = some t ∧ s.time.refTime < t + 10 * refSecond) →
    (w.toNat < 40 → s.wear.vddSteps < 10) → exec (.ageVddAdjust w) s = .next { s with wear := { s.wear with marginPs := w.toNat } }) ∧
  (∀ (w : BitVec 16) (s : State), w.toNat < 40 → 10 ≤ s.wear.vddSteps → exec (.ageVddAdjust w) s =
    .next (settle (proposeStep (raise Src.ageVddLimit 0 0 { s with wear := { s.wear with marginPs := w.toNat } })))) ∧
  (∀ (s : State), proposeStep s = if s.wear.clockStep then s else if programsMeet s 1100000000 then proposeAge 4 0 1100 s
    else raise Src.ageMarginLow 0 0 s) ∧
  (∀ (k tg v : Nat) (s : State), proposalPending s k tg = false → proposeAge k tg v s =
    report 0x0F30 k (leBytes 2 (s.wear.nextId + 1).toNat ++ leBytes 2 tg ++ leBytes 2 v)
      { s with wear := { s.wear with nextId := s.wear.nextId + 1, proposals := s.wear.proposals ++ [{ id := s.wear.nextId + 1, kind := k, target := tg, value := BitVec.ofNat 16 v }] } }) ∧
  (∀ (r : SurveyResult) (s : State), ∃ u : State, exec (.ageSurvey r) s = .next (settle u) ∧
    u.wear.ron = r.ron.foldl (fun v e => vset v e.1 e.2) s.wear.ron ∧ u.wear.boost = r.boost.foldl (fun v e => vset v e.1 e.2) s.wear.boost ∧
    (∀ m, r.retention = some m → regBit s Reg.ageCtrl 2 = true → u.wear.retention = m) ∧
    (regBit s Reg.ageCtrl 1 = false → u.wear.eyes = s.wear.eyes)) ∧
  (∀ (n : Fin 16) (h v : Byte) (p : BitVec 4) (q : BitVec 5) (s u : State),
    u = setEye n h v { s with wear := { s.wear with eyes := vset s.wear.eyes n h } } → surveyEye s (n, h, v, p, q) =
      if h.toNat < 32 ∨ v.toNat < 12 then proposeAge 1 n.val (p.toNat + q.toNat * 256) u else u) ∧
  (∀ (r : BitVec 16) (s u : State), u = { s with wear := { s.wear with retention := r } } → surveyRetention r s =
    if r.toNat < 40 ∧ s.wear.refresh.val < 2 then proposeAge 2 0 (if s.wear.refresh = 0 then 2 else 4) u else u) ∧
  (∀ (h : CmdHdr) (ra : BitVec 64) (s : State), Taken h false s →
    exec (.ageQuery h ra) s = .next (settle (resultThen (ticketOf h s) ra.toNat (ageBytes (takenState h s)) 0 (takenState h s)))) ∧
  (∀ (h : CmdHdr) (a : AgeDecideArgs) (p : Proposal) (s : State) (n : Nat) (late : Bool), Taken h true s → schedule a.tick s = some (n, late) → namedProposal s a = some p → a.action = 2 →
    exec (.ageDecide h a) s = .next (hold n (ticketOf h s) late (.ageDecide a) (takenState h s))) ∧
  (∀ (h : CmdHdr) (a : AgeDecideArgs) (p : Proposal) (s : State) (n : Nat) (late : Bool), Taken h true s → schedule a.tick s = some (n, late) → namedProposal s a = some p → a.action = 1 → p.kind ≠ 4 →
    exec (.ageDecide h a) s = .next (hold n (ticketOf h s) late (.ageDecide a) (takenState h s))) ∧
  (∀ (h : CmdHdr) (a : AgeDecideArgs) (s : State) (n : Nat) (late : Bool), Taken h true s → schedule a.tick s = some (n, late) → a.action = 3 → 1 ≤ a.kind.toNat → a.kind.toNat ≤ 4 → inPlan s a.kind.toNat = true →
    exec (.ageDecide h a) s = .next (hold n (ticketOf h s) late (.ageDecide a) (takenState h s))) ∧
  (∀ (h : CmdHdr) (a : AgeDecideArgs) (p : Proposal) (u : State) (s : State) (n : Nat) (late : Bool), Taken h true s → schedule a.tick s = some (n, late) → namedProposal s a = some p → a.action = 1 → p.kind = 4 → programsMeet s 1100000000 = true → stepTick s ≤ a.tick.toNat → u = { takenState h s with wear := { s.wear with
      step := some { ticket := { ticketOf h s with late := late }, at_ := n, onFab := false, revert := false } } } →
    exec (.ageDecide h a) s = .next (hold n (ticketOf h s) late (.ageDecide a) (u))) ∧
  (∀ (h : CmdHdr) (a : AgeDecideArgs) (s : State) (n : Nat) (late : Bool), Taken h true s → schedule a.tick s = some (n, late) → (a.action = 1 ∨ a.action = 2) → namedProposal s a = none →
    exec (.ageDecide h a) s = .next (complete (ticketOf h s) 0x41 0 (takenState h s))) ∧
  (∀ (t : Ticket) (a : AgeDecideArgs) (p : Proposal) (s : State), namedProposal s a = some p → a.action = 2 →
    applyAgeDecide t a s = (okOf t, dropProposal p.id s)) ∧
  (∀ (t : Ticket) (a : AgeDecideArgs) (p : Proposal) (s : State), namedProposal s a = some p → a.action = 1 → p.kind = 2 →
    applyAgeDecide t a s = (okOf t, wearMod (fun w => { w with refresh := if p.value = 2 then 1 else 2 }) (dropProposal p.id s))) ∧
  (∀ (t : Ticket) (a : AgeDecideArgs) (p : Proposal) (s : State), namedProposal s a = some p → a.action = 1 → p.kind = 3 →
    applyAgeDecide t a s = (okOf t, wearMod (fun w => { w with ka := p.value.toNat }) (dropProposal p.id s))) ∧
  (∀ (t : Ticket) (a : AgeDecideArgs) (p : Proposal) (s : State), namedProposal s a = some p → a.action = 1 → p.kind = 4 →
    s.clock.plls[(0 : Fin 6)].locked = true → programsMeet s 1100000000 = true → applyAgeDecide t a s =
      (okOf t, clk (fun c => { c with onFab := false }) (wearMod (fun w => { w with step := none, clockStep := true }) (dropProposal p.id s)))) ∧
  (∀ (t : Ticket) (a : AgeDecideArgs) (s : State), a.action = 3 → a.kind = 2 → s.wear.refresh ≠ 0 →
    applyAgeDecide t a s = (okOf t, wearMod (fun w => { w with refresh := 0 }) s)) ∧
  (∀ (t : Ticket) (a : AgeDecideArgs) (s : State), a.action = 3 → a.kind = 3 → s.wear.ka ≠ 64 →
    applyAgeDecide t a s = (okOf t, wearMod (fun w => { w with ka := 64 }) s))

/-- A reset leaves every register but the module data and the media rate at its reset value, every held action, route, tile and link state at reset, and keeps the queue, the hosts' memory and the flash; RESET_CAUSE is the strongest since the last HOST_READY. POWER_ON runs from a cold reset; a pin, brown-out or over-temperature reset holds the module off, an over-temperature until it has cooled; a brown-out is raised by the next boot. GLB_RESET with its key asks for a warm reset, which first mutes; requests merge, and WARM_RESET carries one out once every channel is off or 12 ms have passed, as the watchdog does at once before HOST_READY, where a second in a row marks the chosen slot INVALID. What is the model's choice in it, and no rule of the spec, is logged in notes/assumptions: 5 (DESIGN CHOICE), 6 (DESIGN CHOICE), 7 (DESIGN CHOICE), 9 (DESIGN CHOICE), 128 (DEDUCED), 129 (DEDUCED), 130 (DEDUCED), 152 (DEDUCED), 169 (DEDUCED). -/
def Obligations.ResetsTakeHold : Prop :=
  (∀ (cold : Bool) (c : ResetCause) (s : State) (off : Nat), off ≠ Reg.glbMediaRate → off ≠ Reg.glbRev → off ≠ Reg.glbEuiLo → off ≠ Reg.glbEuiHi →
    regGet (resetTo cold c s) off = regReset off) ∧
  (∀ (cold : Bool) (c : ResetCause) (s u : State), u = resetTo cold c s → u.timed = [] ∧ u.router = State.reset.router ∧ u.tiles = State.reset.tiles ∧
    u.limits = State.reset.limits ∧ u.links = State.reset.links ∧ u.fabric = State.reset.fabric ∧ u.ps = State.reset.ps ∧
    u.ports = State.reset.ports ∧ u.net = State.reset.net ∧ u.hif = State.reset.hif ∧ u.sump = State.reset.sump ∧ u.prot = State.reset.prot ∧
    u.time.tick = 0 ∧ u.power.stage = .rom ∧ u.flash.commit = none ∧ u.pending = s.pending ∧ u.localMem = s.localMem ∧ u.tunMem = s.tunMem ∧
    u.flash.minSvn = s.flash.minSvn ∧ u.wear.vddSteps = s.wear.vddSteps ∧ u.power.cause = strongest s c) ∧
  (∀ (s : State), s.flash.commit = none → (resetTo true .pin s).flash = { s.flash with writes := [] } ∧
    (∀ x, (resetTo true x s).time.refTime = 0) ∧ (∀ x, (resetTo false x s).time.refTime = s.time.refTime ∧ (resetTo false x s).pcie = s.pcie)) ∧
  (∀ (c p : Bool) (s : State), s.power.tooHot = false → (p = true ∨ s.power.state ≠ .off) →
    exec (.powerOn c p) s = .next ({ resetTo true .powerOn s with
      power := { (resetTo true .powerOn s).power with state := .running, compat := c, unpowered := false } })) ∧
  (∀ (c : Bool) (s : State), s.power.tooHot = false → s.power.state = .off →
    exec (.powerOn c false) s = .next ({ resetTo true s.power.cause s with
      power := { (resetTo true s.power.cause s).power with state := .running, compat := c, unpowered := false } })) ∧
  (∀ (c p : Bool) (s : State), s.power.tooHot = true →
    exec (.powerOn c p) s = .next ({ s with power := { s.power with unpowered := false } })) ∧
  (∀ (s : State), exec .pinReset s = .next { resetTo true .pin s with power := { (resetTo true .pin s).power with state := .off } }) ∧
  (∀ (s : State), ∃ t : State, exec .brownOut s = .next t ∧ t.power.state = .off ∧ t.power.unpowered = true ∧
    t.power.cause = strongest s .brownOut ∧ (Src.resetBrownout, 0) ∈ t.power.bootFaults ∧
    t = { resetTo true .brownOut s with power := t.power }) ∧
  (∀ (s : State), ∃ t : State, exec .overTemperature s = .next t ∧ t.power.state = .off ∧ t.power.tooHot = true ∧
    t.power.cause = strongest s .brownOut ∧ (Src.resetBrownout, 0) ∈ t.power.bootFaults ∧
    t = { resetTo true .brownOut s with power := t.power }) ∧
  (∀ (c : Bool) (s : State), s.power.tooHot = true → s.power.state = .off → s.power.unpowered = false →
    exec (.overTemperatureRecover c) s = .next ({ resetTo true .brownOut s with
      power := { (resetTo true .brownOut s).power with state := .running, compat := c, tooHot := false } })) ∧
  (∀ (c : Bool) (s : State), (s.power.tooHot = false ∨ s.power.state ≠ .off ∨ s.power.unpowered = true) →
    exec (.overTemperatureRecover c) s = .next ({ s with power := { s.power with tooHot := false } })) ∧
  (∀ (path : AccessPath) (v : Word) (s : State), path ≠ .mb0 → regsOpen s = true → exec (.warmWrite path v) s =
    .next (settle (if flag v 0 ∧ fld v 15 8 = 0xA5 then requestWarm .warmRequest s else s))) ∧
  (∀ (c : ResetCause) (s : State), (s.power.warmAsked.isSome = true → requestWarm c s = s) ∧ (s.power.warmAsked = none →
    (requestWarm c s).power.warmAsked = some c ∧ requestWarm c s = { muteAll .stopped .none s with power := (requestWarm c s).power })) ∧
  (∀ (c : ResetCause) (s : State), s.power.warmAsked = some c → (∀ x : Fin 8, s.ps.ch[x].off = true) →
    exec (.warmReset) s = .next (resetTo false c s)) ∧
  (∀ (c : ResetCause) (s : State), s.power.warmAsked = some c → mayHavePassed s s.power.warmAt (refSecond * 12 / 1000) = true →
    exec (.warmReset) s = .next (resetTo false c s)) ∧
  (∀ (x : Fin 8) (s : State), s.ps.ch[x].off = false → mayHavePassed s s.power.warmAt (refSecond * 12 / 1000) = false →
    exec .warmReset s = .next s) ∧
  (∀ (s : State), s.power.warmAsked = none → exec .warmReset s = .next s) ∧
  (∀ (s : State), s.power.state ≠ .off → s.power.stage = .hostReady → exec .watchdog s = .next (requestWarm .watchdog (bootFault Src.resetWatchdog 0 s))) ∧
  (∀ (s u : State), s.power.state ≠ .off → s.power.stage ≠ .hostReady → u = resetTo false .watchdog (bootFault Src.resetWatchdog 0 s) → exec .watchdog s =
    .next (if s.power.watchdogs = 0 then { u with power := { u.power with watchdogs := 1 } }
      else markChosen { u with power := { u.power with watchdogs := s.power.watchdogs + 1 } }))

/-- In the boot ROM the chosen slot boots when it is not INVALID or WRITING and its image verifies; else the other slot boots with FALLBACK set and a fault remembered; else boot halts. HOST_READY then claims the preferred ID, loads the protected values of the store, and raises the faults that were remembered. Out of turn neither has an effect. The slot that was not booted is then checked and shown VALID, EMPTY or INVALID. What is the model's choice in it, and no rule of the spec, is logged in notes/assumptions: 9 (DESIGN CHOICE), 126 (DESIGN CHOICE), 170 (DESIGN CHOICE). -/
def Obligations.BootVerifiesAnImageAndLoadsTheStore : Prop :=
  (∀ (a b : ImageCheck) (s : State), (s.power.stage ≠ .rom ∨ s.power.state ≠ .running) → exec (.imageVerified a b) s = .next s) ∧
  (∀ (a b : ImageCheck) (x : Fin 2) (s : State), s.power.stage = .rom → s.power.state = .running → x = ptrSlot (latestPtr s) →
    slotBoots s x (if x = 0 then a else b) = true → ∃ t : State, exec (.imageVerified a b) s = .next t ∧ t.power.stage = .verified ∧
      t.power.slot = x ∧ t.power.fallback = false ∧ t.flash.slots[x] = slotFound .valid (if x = 0 then a else b) ∧
      t.time = s.time ∧ t.sump = s.sump ∧ t.timed = s.timed) ∧
  (∀ (a b : ImageCheck) (x y : Fin 2) (s : State), s.power.stage = .rom → s.power.state = .running → x = ptrSlot (latestPtr s) → y ≠ x →
    slotBoots s x (if x = 0 then a else b) = false → slotBoots s y (if y = 0 then a else b) = true → ∃ t : State,
      exec (.imageVerified a b) s = .next t ∧ t.power.stage = .verified ∧ t.power.slot = y ∧ t.power.fallback = true ∧
      t.flash.slots[x].state = .invalid ∧ t.flash.slots[y] = slotFound .valid (if y = 0 then a else b) ∧ (Src.bootFallback, x.val) ∈ t.power.bootFaults) ∧
  (∀ (a b : ImageCheck) (s : State), s.power.stage = .rom → s.power.state = .running → slotBoots s 0 a = false → slotBoots s 1 b = false →
    ∃ t : State, exec (.imageVerified a b) s = .next t ∧ t.power.stage = .romHalt ∧ t.flash.slots[(0 : Fin 2)].state = .invalid ∧
      t.flash.slots[(1 : Fin 2)].state = .invalid ∧ t = { s with power := t.power, flash := t.flash }) ∧
  (∀ (s : State), (s.power.stage ≠ .verified ∨ s.power.state ≠ .running) → exec .hostReady s = .next s) ∧
  (∀ (s : State), s.power.stage = .verified → s.power.state = .running → ∃ u : State, exec .hostReady s = .next (settle u) ∧
    u.power.stage = .hostReady ∧ u.power.watchdogs = 0 ∧ u.power.bootFaults = [] ∧
    u.prot.commitSeq = s.flash.copies[(0 : Fin 2)].commitSeq.toNat ∧
    (s.flash.copies[(0 : Fin 2)].prefId ≠ 0 → u.node.id = s.flash.copies[(0 : Fin 2)].prefId) ∧
    (s.flash.copies[(0 : Fin 2)].prefId = 0 → u.node.id = s.node.id) ∧ u.flash = s.flash) ∧
  (∀ (c : ImageCheck) (y : Fin 2) (s : State), s.power.stage = .hostReady → s.flash.commit = none → y ≠ s.power.slot →
    exec (.slotCheck c) s = .next (slotMod y (fun _ => slotFound (if c.empty then .empty
      else if headerOk c && c.digestOk then .valid else .invalid) c) (crcImage c s))) ∧
  (∀ (c : ImageCheck) (s : State), (s.power.stage ≠ .hostReady ∨ s.flash.commit.isSome = true) → exec (.slotCheck c) s = .next s)

/-- An IMG_COMMIT into the slot that did not boot, with PROT_IMG_AUTH armed for it, starts a commit and consumes the authorization; it is refused during a commit, into the booted slot, or unarmed. Step 1 ends it with 0x51 or 0x52 where the image does not match or verify, else the slot is WRITING; the later steps follow one another; a failure raises FLASH_FAIL, leaves the slot INVALID in steps 2 to 4 and completes with 0x55. Step 5 writes the pointer with the next SEQ to both copies, makes the slot VALID and completes with SEQ. IMG_SELECT, CFG_SET and STORE begin a store write; its end puts the value into both copies and completes the command. What is the model's choice in it, and no rule of the spec, is logged in notes/assumptions: 9 (DESIGN CHOICE), 17 (DEDUCED), 127 (DEDUCED), 128 (DEDUCED), 131 (DESIGN CHOICE), 170 (DESIGN CHOICE). -/
def Obligations.ImagesCommittedAndStoreWritten : Prop :=
  (∀ (h : CmdHdr) (a : ImgCommitArgs) (s : State), Taken h false s → a.slot.toNat ≤ 1 → aligned8 a.addr = true → s.flash.commit = none → s.power.slot.val ≠ a.slot.toNat → armedFor s a.slot.toNat = true → dmaHalted s = false →
    exec (.imgCommit h a) s = .next (settle (flashMod (fun l => { l with commit := some { ticket := (ticketOf h s), slot := if a.slot.toNat = 1 then 1 else 0, svnLock := a.svnLock, length := a.length.toNat, addr := a.addr, step := 1, copy0 := false, svn := 0, version := 0, crc := regGet s Reg.protImgCrc } }) (consumeAuth (takenState h s))))) ∧
  (∀ (h : CmdHdr) (a : ImgCommitArgs) (s : State), Taken h false s → a.slot.toNat ≤ 1 → aligned8 a.addr = true →
    exec (.imgCommit h a) s = .next (settle (if s.flash.commit.isSome then complete (ticketOf h s) 0x54 0 (takenState h s) else if s.power.slot.val = a.slot.toNat then complete (ticketOf h s) 0x53 0 (takenState h s)
      else if armedFor s a.slot.toNat = false then complete (ticketOf h s) 0x50 0 (takenState h s) else if dmaHalted s then complete (ticketOf h s) 8 0 (takenState h s)
      else flashMod (fun l => { l with commit := some { ticket := (ticketOf h s), slot := if a.slot.toNat = 1 then 1 else 0, svnLock := a.svnLock, length := a.length.toNat, addr := a.addr, step := 1, copy0 := false, svn := 0, version := 0, crc := regGet s Reg.protImgCrc } }) (consumeAuth (takenState h s))))) ∧
  (∀ (s : State), regBit (consumeAuth s) Reg.protImgAuth 0 = false ∧ (consumeAuth s).prot.storeBusy = true) ∧
  (∀ (e : StepEnd) (c : Commit) (s : State), s.flash.commit = some c → c.step = 1 → e.ok = true → e.check.crc = c.crc → imageVerifies e.check s.flash.minSvn = true →
    exec (.imgCommitStepDone e) s = .next (settle (flashMod (fun l => { l with commit := some { c with step := 2, svn := imgSvn e.check, version := imgVersion e.check } })
      (slotMod c.slot (fun x => { x with state := .writing, svn := 0, version := 0, crc := 0 }) (crcImage e.check s))))) ∧
  (∀ (e : StepEnd) (c : Commit) (s : State), s.flash.commit = some c → c.step = 1 → e.ok = true → (e.check.crc ≠ c.crc ∨ imageVerifies e.check s.flash.minSvn = false) →
    exec (.imgCommitStepDone e) s = .next (settle (endCommit c (if e.check.crc = c.crc then 0x52 else 0x51) 0 (crcImage e.check s)))) ∧
  (∀ (e : StepEnd) (c : Commit) (s : State), s.flash.commit = some c → (c.step = 2 ∨ c.step = 3) → e.ok = true →
    exec (.imgCommitStepDone e) s = .next (settle (flashMod (fun l => { l with commit := some { c with step := c.step + 1 } }) s))) ∧
  (∀ (e : StepEnd) (c : Commit) (s : State), s.flash.commit = some c → c.step = 4 → e.ok = true →
    exec (.imgCommitStepDone e) s = .next (settle (if e.check.crc = c.crc ∧ imageVerifies e.check s.flash.minSvn = true
      then flashMod (fun l => { l with commit := some { c with step := 5 } }) (crcImage e.check s) else flashFail c (crcImage e.check s)))) ∧
  (∀ (e : StepEnd) (c : Commit) (s : State), s.flash.commit = some c → 2 ≤ c.step → e.ok = false →
    exec (.imgCommitStepDone e) s = .next (settle (flashFail c s))) ∧
  (∀ (e : StepEnd) (c : Commit) (s : State), s.flash.commit = some c → c.step = 5 → e.ok = true →
    exec (.imgCommitStepDone e) s = .next (settle (flip c s))) ∧
  (∀ (e : StepEnd) (s : State), s.flash.commit = none → exec (.imgCommitStepDone e) s = .next s) ∧
  (∀ (c : Commit) (s : State), c.step ≠ 5 → (flashFail c s).flash = { s.flash with commit := none, slots := vmod s.flash.slots c.slot (fun x => { x with state := .invalid, svn := 0, version := 0, crc := 0 }) }) ∧
  (∀ (c : Commit) (s : State), ∃ u : State, flip c s = complete c.ticket 0 ((ptrSeq s + 1) % 2 ^ 23) u ∧ u.flash.commit = none ∧
    u.flash.slots[c.slot] = { state := .valid, svn := c.svn, version := BitVec.ofNat 16 c.version.toNat, crc := c.crc } ∧
    (∀ x : Fin 2, ptrWord c.slot (ptrSeq s + 1) ∈ u.flash.copies[x].log) ∧
    u.flash.minSvn = (if c.svnLock ∧ s.flash.minSvn.toNat < c.svn.toNat ∧ s.flash.raisesLeft ≠ 0 then c.svn else s.flash.minSvn) ∧
    u = { s with flash := u.flash }) ∧
  (∀ (h : CmdHdr) (n : Byte) (s : State), Taken h false s → n.toNat ≤ 1 → armedFor s n.toNat = true → regGet s Reg.protImgCrc = s.flash.slots[(if n.toNat = 1 then 1 else 0 : Fin 2)].crc → s.flash.slots[(if n.toNat = 1 then 1 else 0 : Fin 2)].state = .valid → s.flash.commit = none →
    exec (.imgSelect h n) s = .next (settle (beginStore .imgSelect (some (ticketOf h s)) n.toNat (consumeAuth (takenState h s))))) ∧
  (∀ (h : CmdHdr) (n : Byte) (s : State), Taken h false s → n.toNat ≤ 1 → (armedFor s n.toNat = false ∨ regGet s Reg.protImgCrc ≠ s.flash.slots[(if n.toNat = 1 then 1 else 0 : Fin 2)].crc) →
    exec (.imgSelect h n) s = .next (settle (complete (ticketOf h s) 0x50 0 (takenState h s)))) ∧
  (∀ (h : CmdHdr) (p : BitVec 12) (s : State), Taken h false s → p.toNat ≤ 4094 →
    exec (.cfgSet h p) s = .next (settle (beginStore .prefId (some (ticketOf h s)) p.toNat (takenState h s)))) ∧
  (∀ (path : AccessPath) (v : Word) (s : State), path ≠ .mb0 → regsOpen s = true → flag v 8 = true → locked s = false → fld v 2 0 < 6 →
    exec (.storeRate path v) s = .next (settle (beginStore .mediaRate none (fld v 2 0) (regSet Reg.glbMediaRate (BitVec.ofNat 32 (fld v 2 0)) s)))) ∧
  (∀ (path : AccessPath) (v : Word) (s : State), path ≠ .mb0 → regsOpen s = true → flag v 8 = true → (locked s = true ∨ 6 ≤ fld v 2 0) →
    exec (.storeRate path v) s = .next (settle (beginStore .mediaRate none (regFld s Reg.glbMediaRate 2 0) s))) ∧
  (∀ (x : StoreWrite) (l : List StoreWrite) (t : Ticket) (s : State), s.flash.writes = x :: l → x.ticket = some t → x.kind = .prefId →
    exec (.storeWriteDone .prefId) s = .next (settle (complete t 0 0 { s with flash := { s.flash with writes := l, copies := vmap (fun c => { c with prefId := BitVec.ofNat 12 x.value }) s.flash.copies } }))) ∧
  (∀ (x : StoreWrite) (l : List StoreWrite) (s : State), s.flash.writes = x :: l → x.ticket = none → x.kind = .mediaRate →
    exec (.storeWriteDone .mediaRate) s = .next (settle { s with flash := { s.flash with writes := l, copies := vmap (fun c => { c with rate := some (rateCode x.value) }) s.flash.copies } })) ∧
  (∀ (x : StoreWrite) (l : List StoreWrite) (t : Ticket) (s : State), s.flash.writes = x :: l → x.ticket = some t → x.kind = .imgSelect →
    ∃ u : State, exec (.storeWriteDone .imgSelect) s = .next (settle (complete t 0 ((ptrSeq s + 1) % 2 ^ 23) u)) ∧ u.flash.writes = l ∧
      (∀ y : Fin 2, ptrWord (if x.value = 1 then 1 else 0) (ptrSeq s + 1) ∈ u.flash.copies[y].log) ∧ u = { s with flash := u.flash }) ∧
  (∀ (k : StoreKind) (s : State), (∀ x ∈ s.flash.writes, x.kind ≠ k) → exec (.storeWriteDone k) s = .next s)

/-- A SLEEP with a wake source that can be met is held for its tick. At its boundary a busy node answers SLEEP_BUSY and changes nothing; an idle one completes with OK and remembers the mask and the time. Two boundaries on the link transmitters are squelched; three on the clocks stop, the links with them, and the node sleeps. An enabled source wakes a sleeping node, which runs again and reports it; another does nothing, nor does the timer before WAKE_TIME. What is the model's choice in it, and no rule of the spec, is logged in notes/assumptions: 9 (DESIGN CHOICE), 17 (DEDUCED), 134 (DEDUCED), 164 (DESIGN CHOICE). -/
def Obligations.SleepIsEnteredAndLeft : Prop :=
  (∀ (h : CmdHdr) (a : SleepArgs) (s : State) (n : Nat) (late : Bool), Taken h true s → schedule a.tick s = some (n, late) → a.wakeMask ≠ 0 → (∀ k : Fin 4, bitOf a.wakeMask.toNat (3 + k.val) = true → evtOut s k = false) → timeOk a.wakeTime = true → (bitOf a.wakeMask.toNat 7 = true ∨ timeOf a.wakeTime = 0) →
    exec (.sleep h a) s = .next (settle (hold n (ticketOf h s) late (.sleep a) (takenState h s)))) ∧
  (∀ (a : SleepArgs) (s : State), sleepBusy s = true → applySleep a s = (0x56, s)) ∧
  (∀ (a : SleepArgs) (s : State), sleepBusy s = false → (applySleep a s).1 = 0 ∧
    (applySleep a s).2.power = { s.power with sleepPlan := some { at_ := now s, mask := a.wakeMask, time := a.wakeTime } }) ∧
  (∀ (p : SleepPlan) (s : State), s.power.sleepPlan = some p → s.power.state = .running → now s < p.at_ + 2 → enterSleep s = s) ∧
  (∀ (p : SleepPlan) (s : State), s.power.sleepPlan = some p → s.power.state = .running → p.at_ + 2 ≤ now s → now s < p.at_ + 3 →
    ∃ v : Vector Link 16, enterSleep s = { s with links := v } ∧ ∀ n : Fin 16, v[n] = { s.links[n] with squelch := true, retrain := false }) ∧
  (∀ (p : SleepPlan) (s : State), s.power.sleepPlan = some p → s.power.state = .running → p.at_ + 3 ≤ now s → bitOf p.mask.toNat 7 = false →
    (enterSleep s).power = { s.power with state := .sleep } ∧
    (enterSleep s).clock = { s.clock with plls := vmap (fun (x : Pll) => { x with locked := false }) s.clock.plls, onFab := false } ∧
    (∀ n : Fin 16, (enterSleep s).links[n].state = .down ∧ (enterSleep s).links[n].squelch = true)) ∧
  (∀ (n : Fin 8) (p : SleepPlan) (s : State), s.power.state = .sleep → s.power.sleepPlan = some p → bitOf p.mask.toNat n.val = true →
    (n = 7 → timeOf p.time < boundaryTime s + tickSpan s) → ∃ u : State,
    exec (.sleepWake n) s = .next (settle u) ∧ u.power = { s.power with state := .running, sleepPlan := none } ∧ u.time = s.time ∧
    u.hif.events ≠ [] ∧ (∃ l : List Event, u.hif.events = l ++ [{ ty := 0x0F02, index := 0, data := leBytes 8 n.val ++ leBytes 8 (now s) ++ List.replicate 8 0 }])) ∧
  (∀ (n : Fin 8) (s : State), (s.power.state ≠ .sleep ∨ ∀ p, s.power.sleepPlan = some p → bitOf p.mask.toNat n.val = false) →
    (n ≠ 7 ∨ wakeTimeCome s = true) → exec (.sleepWake n) s = .next (settle s)) ∧
  (∀ (p : SleepPlan) (s : State), s.power.sleepPlan = some p → boundaryTime s + tickSpan s ≤ timeOf p.time → exec (.sleepWake 7) s = .next s)

/-- After reset the registers hold the values the spec gives for them: among them the route ramp, the meter sources, the tile, link, switch, reference, Ethernet, power-stage, matrix and Sump registers; the boot ROM runs, the tick number is 0, no action is held, no fence stands, no route, bench, path or stream exists, every channel is stopped, and the memories are in their canonical form with nothing listed. What is the model's choice in it, and no rule of the spec, is logged in notes/assumptions: 5 (DESIGN CHOICE), 7 (DESIGN CHOICE), 8 (DESIGN CHOICE). -/
def Obligations.ResetLeavesTheGivenValues : Prop :=
  (regGet State.reset Reg.routeRamp = 10 ∧ regGet State.reset Reg.meterCtrl = 1 ∧ regGet State.reset Reg.fswCtrl = 0x210 ∧
    regGet State.reset Reg.refCtrl = 0x030A0032 ∧ regGet State.reset Reg.refFreqLimits = 0x271007D0 ∧
    regGet State.reset Reg.refDriftLimits = 0x03E80032 ∧ regGet State.reset Reg.anchorCtrl = 0x80 ∧ regGet State.reset Reg.refAlignCtrl = 10 ∧
    regGet State.reset Reg.psBoostCfg = 0x3208 ∧ regGet State.reset Reg.psRailMax = 0x6E6E ∧ regGet State.reset Reg.hifTunCfg = 0x00080064 ∧
    regGet State.reset Reg.hifQos = 0x88 ∧ regGet State.reset Reg.mtxQos = 0xCC4 ∧ regGet State.reset Reg.sumpCtrl = 4 ∧
    regGet State.reset Reg.ageCtrl = 7 ∧ regGet State.reset Reg.glbId = 0xC4A04096 ∧ regGet State.reset Reg.scrubCtrl = 0x1801) ∧
  (∀ n : Fin 16, regGet State.reset (Reg.tileCtrl n) = 3 ∧ regGet State.reset (Reg.linkCtrl n) = 0x000A1403 ∧
    regGet State.reset (Reg.linkBerLimit n) = 100) ∧
  (∀ e : Fin 1024, regGet State.reset (Reg.meterSrc e) = 0xF000) ∧
  (∀ n : Fin 4, regGet State.reset (Reg.ethCtrl n) = 0x05EE0000 ∧ regGet State.reset (Reg.ethPauseCfg n) = 0x0A194B00) ∧
  (∀ c : Fin 8, regGet State.reset (Reg.psChCfg c) = 0x00140064 ∧ regGet State.reset (Reg.psChBudget c) = 0x4E2 ∧
    State.reset.ps.ch[c].state = .stopped) ∧
  (State.reset.power.stage = .rom ∧ now State.reset = 0 ∧ State.reset.timed = [] ∧ State.reset.sump.fences = [] ∧
    State.reset.router.routes = [] ∧ State.reset.fabric.paths = [] ∧ State.reset.net.rx = [] ∧ State.reset.net.tx = [] ∧
    State.reset.prot.proposed = false ∧ State.reset.flash.commit = none ∧ State.reset.pending = []) ∧
  (MemoryInv State.reset ∧ Settled State.reset ∧ ∀ a n, hostRead State.reset a n = List.replicate n 0)

/-- What the device writes into the owner's host memory reads back, and every other byte stays. A result is written and its command completes; over the tunnel its record waits for the read-back, and while the DMA engine is halted it completes with BUS_ERROR and writes nothing. A completion of a current command without IRQ, with its directory read and its rings running, writes the sixteen bytes of its record with PHASE at the write index of its queue, advances the index, turns PHASE at the wrap, and gives back one reservation and one outstanding command. A descriptor with a reserved bit set is taken and completes with BAD_ARG and no other effect; one its ring cannot take leaves only the host's stores. What is the model's choice in it, and no rule of the spec, is logged in notes/assumptions: 4 (DESIGN CHOICE), 17 (DEDUCED). -/
def Obligations.HostMemoryAndCompletionRecords : Prop :=
  (∀ (a : Nat) (bs : List Byte) (s : State), bs.length ≤ 2 ^ 64 → hostRead (hostWrite a bs s) a bs.length = bs) ∧
  (∀ (a j : Nat) (bs : List Byte) (s : State), (∀ i < bs.length, j % 2 ^ 64 ≠ (a + i) % 2 ^ 64) →
    hostRead (hostWrite a bs s) j 1 = hostRead s j 1) ∧
  (∀ (a : Nat) (bs : List Byte) (s : State), hifMode s ≠ 2 → hostWrite a bs s = { s with localMem := memWrite s.localMem a bs }) ∧
  (∀ (t : Ticket) (a st sp : Nat) (bs : List Byte) (s : State), dmaHalted s = false → hifMode s ≠ 2 →
    resultWith none t a bs st sp s = complete t st sp { s with localMem := memWrite s.localMem a bs }) ∧
  (∀ (t : Ticket) (a st sp : Nat) (bs : List Byte) (s v : State), dmaHalted s = false → hifMode s = 2 →
    v = useRead (.result t.order) (a + bs.length - 1) 1 (useWrite (.result t.order) a bs s) →
    resultWith none t a bs st sp s = { v with tun := { v.tun with
      results := v.tun.results ++ [{ ticket := t, status := st, specific := sp, tick := none }] } }) ∧
  (∀ (t : Ticket) (a st sp : Nat) (bs : List Byte) (s : State), dmaHalted s = true → resultWith none t a bs st sp s = complete t 8 0 s) ∧
  (∀ (t : Ticket) (st sp : Nat) (c : Fin 4) (q : RecQueue) (b : List Byte) (s : State), hifMode s ≠ 2 → st ≠ 1 → t.epoch = s.hif.epoch →
    t.takeover = s.hif.takeover → s.hif.dirOk = true → s.hif.dirWait = false → s.hif.ringsStopped = false → t.irq = false →
    c = s.hif.rings[t.ring].cq → q = s.hif.cqs[c] → b = recordBytes t st sp (now s) false → ∃ u : State, complete t st sp s = u ∧
      memRead u.localMem (q.base.toNat + 16 * q.write) 16 = b.take 3 ++ [b.getD 3 0 ||| (if q.phase then 1 else 0)] ++ b.drop 4 ∧
      u.hif.cqs[c] = { q with write := (q.write + 1) % 2 ^ q.log2, reserved := q.reserved - 1, phase := if (q.write + 1) % 2 ^ q.log2 = 0 then !q.phase else q.phase } ∧
      u.hif.rings[t.ring].outstanding = s.hif.rings[t.ring].outstanding - 1 ∧ u = { s with hif := u.hif, localMem := u.localMem }) ∧
  (∀ (h : CmdHdr) (a : SumpQueryArgs) (b : SumpClearArgs) (n : Byte) (p : BitVec 12) (ra : BitVec 64) (s t : State),
    takeable h.ring h.ordered false (hostStores h.stores s) = true → h.reservedSet = true →
    t = settle (complete (ticketOf h s) 4 0 (takenState h s)) → exec (.sumpQuery h a) s = .next t ∧ exec (.sumpClear h b) s = .next t ∧
      exec (.ageQuery h ra) s = .next t ∧ exec (.imgSelect h n) s = .next t ∧ exec (.cfgSet h p) s = .next t) ∧
  (∀ (h : CmdHdr) (a : AgeDecideArgs) (b : SleepArgs) (s t : State),
    takeable h.ring h.ordered true (hostStores h.stores s) = true → h.reservedSet = true →
    t = complete (ticketOf h s) 4 0 (takenState h s) → exec (.ageDecide h { a with action := 2 }) s = .next t ∧
      exec (.sleep h b) s = .next (settle t)) ∧
  (∀ (h : CmdHdr) (a : SumpQueryArgs) (b : SleepArgs) (ra : BitVec 64) (s : State),
    (takeable h.ring h.ordered false (hostStores h.stores s) = false → exec (.sumpQuery h a) s = .next (settle (hostStores h.stores s)) ∧
      exec (.ageQuery h ra) s = .next (settle (hostStores h.stores s))) ∧
    (takeable h.ring h.ordered true (hostStores h.stores s) = false → exec (.sleep h b) s = .next (settle (hostStores h.stores s))))

/-- For every command at the front of the queue and every state whose host memories and scratch SRAM are in their canonical form, the step goes on, the memories are again in their canonical form, and the queue is the rest of the queue: no command of the block puts a command into its own queue, and none stops the machine. What is the model's choice in it, and no rule of the spec, is logged in notes/assumptions: 1 (DESIGN CHOICE), 4 (DESIGN CHOICE). -/
def Obligations.EveryStepKeepsTheMemoriesAndTheQueue : Prop :=
  ∀ (s t : State), MemoryInv s → step s = .next t → MemoryInv t ∧ t.pending = s.pending.tail

/-- From every state whose memories are in canonical form there is a run without end: each step goes on, after i steps the first i waiting commands have been carried out in their order and the others still wait, as many steps as commands leave the queue empty, and from there the block idles. What is the model's choice in it, and no rule of the spec, is logged in notes/assumptions: 1 (DESIGN CHOICE). -/
def Obligations.EveryRunGoesOnAndServesTheQueueInOrder : Prop :=
  ∀ (s : State), MemoryInv s → ∃ f : Nat → State, f 0 = s ∧
    ∀ i : Nat, step (f i) = .next (f (i + 1)) ∧ (f i).pending = s.pending.drop i ∧ MemoryInv (f i) ∧
      (∀ c : Instr, s.pending[i]? = some c → exec c { f i with pending := s.pending.drop (i + 1) } = .next (f (i + 1))) ∧
      (s.pending.length ≤ i → f (i + 1) = f i)
end

