-- ==== Sys2Proof/Laws/Calm.lean ====
section
/-!
SUPPORT. The frame of raising a fault, reporting an event and writing a register: the register file, the Sump and the host
interface may change, nothing else does.
-/
namespace Sys2Proof.Machine

/-- `s` agrees with `c` on all state but the register file, the Sump and the
host interface. -/
def Calm (c s : State) : Prop :=
  s.pending = c.pending ∧ s.free = c.free ∧ s.power = c.power ∧ s.time = c.time ∧ s.timed = c.timed ∧ s.flash = c.flash ∧ s.prot = c.prot ∧ s.wear = c.wear ∧ s.test = c.test ∧ s.pcie = c.pcie ∧ s.tun = c.tun ∧ s.dma = c.dma ∧ s.dmaWait = c.dmaWait ∧ s.localMem = c.localMem ∧ s.tunMem = c.tunMem ∧ s.links = c.links ∧ s.node = c.node ∧ s.surveys = c.surveys ∧ s.linkQueries = c.linkQueries ∧ s.router = c.router ∧ s.tiles = c.tiles ∧ s.limits = c.limits ∧ s.mem = c.mem ∧ s.fabric = c.fabric ∧ s.clock = c.clock ∧ s.net = c.net ∧ s.ports = c.ports ∧ s.ps = c.ps ∧ s.mb = c.mb ∧ s.scratch = c.scratch

theorem Calm.refl (s : State) : Calm s s := by simp [Calm]

theorem Calm.trans {a b d : State} (h1 : Calm a b) (h2 : Calm b d) : Calm a d := by
  unfold Calm at *
  simp only [h2, h1, and_self]

theorem Calm.pending {c s : State} (h : Calm c s) : s.pending = c.pending := by unfold Calm at h; tauto
theorem Calm.free {c s : State} (h : Calm c s) : s.free = c.free := by unfold Calm at h; tauto
theorem Calm.power {c s : State} (h : Calm c s) : s.power = c.power := by unfold Calm at h; tauto
theorem Calm.time {c s : State} (h : Calm c s) : s.time = c.time := by unfold Calm at h; tauto
theorem Calm.timed {c s : State} (h : Calm c s) : s.timed = c.timed := by unfold Calm at h; tauto
theorem Calm.flash {c s : State} (h : Calm c s) : s.flash = c.flash := by unfold Calm at h; tauto
theorem Calm.prot {c s : State} (h : Calm c s) : s.prot = c.prot := by unfold Calm at h; tauto
theorem Calm.wear {c s : State} (h : Calm c s) : s.wear = c.wear := by unfold Calm at h; tauto
theorem Calm.test {c s : State} (h : Calm c s) : s.test = c.test := by unfold Calm at h; tauto
theorem Calm.pcie {c s : State} (h : Calm c s) : s.pcie = c.pcie := by unfold Calm at h; tauto
theorem Calm.tun {c s : State} (h : Calm c s) : s.tun = c.tun := by unfold Calm at h; tauto
theorem Calm.dma {c s : State} (h : Calm c s) : s.dma = c.dma := by unfold Calm at h; tauto
theorem Calm.dmaWait {c s : State} (h : Calm c s) : s.dmaWait = c.dmaWait := by unfold Calm at h; tauto
theorem Calm.localMem {c s : State} (h : Calm c s) : s.localMem = c.localMem := by unfold Calm at h; tauto
theorem Calm.tunMem {c s : State} (h : Calm c s) : s.tunMem = c.tunMem := by unfold Calm at h; tauto
theorem Calm.links {c s : State} (h : Calm c s) : s.links = c.links := by unfold Calm at h; tauto
theorem Calm.node {c s : State} (h : Calm c s) : s.node = c.node := by unfold Calm at h; tauto
theorem Calm.surveys {c s : State} (h : Calm c s) : s.surveys = c.surveys := by unfold Calm at h; tauto
theorem Calm.linkQueries {c s : State} (h : Calm c s) : s.linkQueries = c.linkQueries := by unfold Calm at h; tauto
theorem Calm.router {c s : State} (h : Calm c s) : s.router = c.router := by unfold Calm at h; tauto
theorem Calm.tiles {c s : State} (h : Calm c s) : s.tiles = c.tiles := by unfold Calm at h; tauto
theorem Calm.limits {c s : State} (h : Calm c s) : s.limits = c.limits := by unfold Calm at h; tauto
theorem Calm.mem {c s : State} (h : Calm c s) : s.mem = c.mem := by unfold Calm at h; tauto
theorem Calm.fabric {c s : State} (h : Calm c s) : s.fabric = c.fabric := by unfold Calm at h; tauto
theorem Calm.clock {c s : State} (h : Calm c s) : s.clock = c.clock := by unfold Calm at h; tauto
theorem Calm.net {c s : State} (h : Calm c s) : s.net = c.net := by unfold Calm at h; tauto
theorem Calm.ports {c s : State} (h : Calm c s) : s.ports = c.ports := by unfold Calm at h; tauto
theorem Calm.ps {c s : State} (h : Calm c s) : s.ps = c.ps := by unfold Calm at h; tauto
theorem Calm.mb {c s : State} (h : Calm c s) : s.mb = c.mb := by unfold Calm at h; tauto
theorem Calm.scratch {c s : State} (h : Calm c s) : s.scratch = c.scratch := by unfold Calm at h; tauto

theorem calm_mk {c : State} {x0 x1 x2 x3 x4 x5 x6 x7 x8 x9 x10 x11 x12 x13 x14 x15 x16 x17 x18 x19 x20 x21 x22 x23 x24 x25 x26 x27 x28 x29 x30 x31 x32} :
    Calm c (State.mk x0 x1 x2 x3 x4 x5 x6 x7 x8 x9 x10 x11 x12 x13 x14 x15 x16 x17 x18 x19 x20 x21 x22 x23 x24 x25 x26 x27 x28 x29 x30 x31 x32) ↔
      x0 = c.pending ∧ x1 = c.free ∧ x2 = c.power ∧ x3 = c.time ∧ x5 = c.timed ∧ x6 = c.flash ∧ x8 = c.prot ∧ x9 = c.wear ∧ x10 = c.test ∧ x12 = c.pcie ∧ x13 = c.tun ∧ x14 = c.dma ∧ x15 = c.dmaWait ∧ x16 = c.localMem ∧ x17 = c.tunMem ∧ x18 = c.links ∧ x19 = c.node ∧ x20 = c.surveys ∧ x21 = c.linkQueries ∧ x22 = c.router ∧ x23 = c.tiles ∧ x24 = c.limits ∧ x25 = c.mem ∧ x26 = c.fabric ∧ x27 = c.clock ∧ x28 = c.net ∧ x29 = c.ports ∧ x30 = c.ps ∧ x31 = c.mb ∧ x32 = c.scratch := Iff.rfl

theorem calm_foldl {c : State} {β : Type} {g : State → β → State} (hg : ∀ s x, Calm c s → Calm c (g s x)) (l : List β) :
    ∀ {s}, Calm c s → Calm c (l.foldl g s) := by
  induction l with
  | nil => intro s h; exact h
  | cons x l ih => intro s h; exact ih (hg _ _ h)

theorem calm_foldl_snd {c : State} {β γ : Type} {g : γ × State → β → γ × State}
    (hg : ∀ a x, Calm c a.2 → Calm c (g a x).2) (l : List β) : ∀ {a}, Calm c a.2 → Calm c (l.foldl g a).2 := by
  induction l with
  | nil => intro s h; exact h
  | cons x l ih => intro s h; exact ih (hg _ _ h)

theorem calm_regSet (off : Nat) (v : Word) (s : State) {cc : State}
    (hk : Calm cc s) : Calm cc (regSet off v s) := by
  unfold regSet
  repeat' first
    | with_reducible assumption
    | with_reducible refine calm_foldl (fun _ _ _ => ?_) _ ?_
    | with_reducible refine calm_foldl_snd (fun _ _ _ => ?_) _ ?_
    | with_reducible intro _
    | split
    | dsimp only [id]
    | (simp only [calm_mk]; change Calm cc _)

theorem calm_regMod (off : Nat) (f : Word → Word) (s : State) {cc : State}
    (hk : Calm cc s) : Calm cc (regMod off f s) := by
  unfold regMod
  repeat' first
    | with_reducible assumption
    | with_reducible apply calm_regSet
    | with_reducible refine calm_foldl (fun _ _ _ => ?_) _ ?_
    | with_reducible refine calm_foldl_snd (fun _ _ _ => ?_) _ ?_
    | with_reducible intro _
    | split
    | dsimp only [id]
    | (simp only [calm_mk]; change Calm cc _)

theorem calm_regSetFld (off hi lo v : Nat) (s : State) {cc : State}
    (hk : Calm cc s) : Calm cc (regSetFld off hi lo v s) := by
  unfold regSetFld
  repeat' first
    | with_reducible assumption
    | with_reducible apply calm_regMod
    | with_reducible refine calm_foldl (fun _ _ _ => ?_) _ ?_
    | with_reducible refine calm_foldl_snd (fun _ _ _ => ?_) _ ?_
    | with_reducible intro _
    | split
    | dsimp only [id]
    | (simp only [calm_mk]; change Calm cc _)

theorem calm_bump (off n : Nat) (s : State) {cc : State}
    (hk : Calm cc s) : Calm cc (bump off n s) := by
  unfold bump
  repeat' first
    | with_reducible assumption
    | with_reducible apply calm_regMod
    | with_reducible refine calm_foldl (fun _ _ _ => ?_) _ ?_
    | with_reducible refine calm_foldl_snd (fun _ _ _ => ?_) _ ?_
    | with_reducible intro _
    | split
    | dsimp only [id]
    | (simp only [calm_mk]; change Calm cc _)

theorem calm_bumpFld (off hi lo n : Nat) (s : State) {cc : State}
    (hk : Calm cc s) : Calm cc (bumpFld off hi lo n s) := by
  unfold bumpFld
  repeat' first
    | with_reducible assumption
    | with_reducible apply calm_regMod
    | with_reducible refine calm_foldl (fun _ _ _ => ?_) _ ?_
    | with_reducible refine calm_foldl_snd (fun _ _ _ => ?_) _ ?_
    | with_reducible intro _
    | split
    | dsimp only [id]
    | (simp only [calm_mk]; change Calm cc _)

theorem calm_sticky (off i : Nat) (s : State) {cc : State}
    (hk : Calm cc s) : Calm cc (sticky off i s) := by
  unfold sticky
  repeat' first
    | with_reducible assumption
    | with_reducible apply calm_regMod
    | with_reducible refine calm_foldl (fun _ _ _ => ?_) _ ?_
    | with_reducible refine calm_foldl_snd (fun _ _ _ => ?_) _ ?_
    | with_reducible intro _
    | split
    | dsimp only [id]
    | (simp only [calm_mk]; change Calm cc _)

theorem calm_setInst (src inst : Nat) (x : SumpInst) (s : State) {cc : State}
    (hk : Calm cc s) : Calm cc (setInst src inst x s) := by
  unfold setInst
  repeat' first
    | with_reducible assumption
    | with_reducible refine calm_foldl (fun _ _ _ => ?_) _ ?_
    | with_reducible refine calm_foldl_snd (fun _ _ _ => ?_) _ ?_
    | with_reducible intro _
    | split
    | dsimp only [id]
    | (simp only [calm_mk]; change Calm cc _)

theorem calm_report (ty index : Nat) (data : List Byte) (s : State) {cc : State}
    (hk : Calm cc s) : Calm cc (report ty index data s) := by
  unfold report
  repeat' first
    | with_reducible assumption
    | with_reducible refine calm_foldl (fun _ _ _ => ?_) _ ?_
    | with_reducible refine calm_foldl_snd (fun _ _ _ => ?_) _ ?_
    | with_reducible intro _
    | split
    | dsimp only [id]
    | (simp only [calm_mk]; change Calm cc _)

theorem calm_faultEvent (src inst transition : Nat) (s : State) {cc : State}
    (hk : Calm cc s) : Calm cc (faultEvent src inst transition s) := by
  unfold faultEvent
  repeat' first
    | with_reducible assumption
    | with_reducible apply calm_report
    | with_reducible refine calm_foldl (fun _ _ _ => ?_) _ ?_
    | with_reducible refine calm_foldl_snd (fun _ _ _ => ?_) _ ?_
    | with_reducible intro _
    | split
    | dsimp only [id]
    | (simp only [calm_mk]; change Calm cc _)

theorem calm_fenceFor (src inst : Nat) (s : State) {cc : State}
    (hk : Calm cc s) : Calm cc (fenceFor src inst s) := by
  unfold fenceFor
  repeat' first
    | with_reducible assumption
    | with_reducible apply calm_faultEvent
    | with_reducible refine calm_foldl (fun _ _ _ => ?_) _ ?_
    | with_reducible refine calm_foldl_snd (fun _ _ _ => ?_) _ ?_
    | with_reducible intro _
    | split
    | dsimp only [id]
    | (simp only [calm_mk]; change Calm cc _)

theorem calm_requestService (sev : Nat) (s : State) {cc : State}
    (hk : Calm cc s) : Calm cc (requestService sev s) := by
  unfold requestService
  repeat' first
    | with_reducible assumption
    | with_reducible apply calm_regSetFld
    | with_reducible refine calm_foldl (fun _ _ _ => ?_) _ ?_
    | with_reducible refine calm_foldl_snd (fun _ _ _ => ?_) _ ?_
    | with_reducible intro _
    | split
    | dsimp only [id]
    | (simp only [calm_mk]; change Calm cc _)

theorem calm_raise (src inst : Nat) (detail : Nat) (s : State) {cc : State}
    (hk : Calm cc s) : Calm cc (raise src inst detail s) := by
  unfold raise
  repeat' first
    | with_reducible assumption
    | with_reducible apply calm_requestService
    | with_reducible apply calm_fenceFor
    | with_reducible apply calm_faultEvent
    | with_reducible apply calm_setInst
    | with_reducible refine calm_foldl (fun _ _ _ => ?_) _ ?_
    | with_reducible refine calm_foldl_snd (fun _ _ _ => ?_) _ ?_
    | with_reducible intro _
    | split
    | dsimp only [id]
    | (simp only [calm_mk]; change Calm cc _)

theorem calm_setQueue (i : Fin 6) (q : RecQueue) (s : State) {cc : State}
    (hk : Calm cc s) : Calm cc (setQueue i q s) := by
  unfold setQueue
  repeat' first
    | with_reducible assumption
    | with_reducible refine calm_foldl (fun _ _ _ => ?_) _ ?_
    | with_reducible refine calm_foldl_snd (fun _ _ _ => ?_) _ ?_
    | with_reducible intro _
    | split
    | dsimp only [id]
    | (simp only [calm_mk]; change Calm cc _)

theorem calm_recordLost (s : State) {cc : State}
    (hk : Calm cc s) : Calm cc (recordLost s) := by
  unfold recordLost
  repeat' first
    | with_reducible assumption
    | with_reducible apply calm_sticky
    | with_reducible apply calm_bump
    | with_reducible refine calm_foldl (fun _ _ _ => ?_) _ ?_
    | with_reducible refine calm_foldl_snd (fun _ _ _ => ?_) _ ?_
    | with_reducible intro _
    | split
    | dsimp only [id]
    | (simp only [calm_mk]; change Calm cc _)

theorem calm_ringDone (r : Fin 8) (s : State) {cc : State}
    (hk : Calm cc s) : Calm cc (ringDone r s) := by
  unfold ringDone
  repeat' first
    | with_reducible assumption
    | with_reducible refine calm_foldl (fun _ _ _ => ?_) _ ?_
    | with_reducible refine calm_foldl_snd (fun _ _ _ => ?_) _ ?_
    | with_reducible intro _
    | split
    | dsimp only [id]
    | (simp only [calm_mk]; change Calm cc _)

theorem calm_unreserve (cq : Fin 4) (old : Bool) (s : State) {cc : State}
    (hk : Calm cc s) : Calm cc (unreserve cq old s) := by
  unfold unreserve
  repeat' first
    | with_reducible assumption
    | with_reducible refine calm_foldl (fun _ _ _ => ?_) _ ?_
    | with_reducible refine calm_foldl_snd (fun _ _ _ => ?_) _ ?_
    | with_reducible intro _
    | split
    | dsimp only [id]
    | (simp only [calm_mk]; change Calm cc _)

end Sys2Proof.Machine
end

