-- ==== Sys2Proof/Laws/Memory.lean ====
section
/-!
SUPPORT. What the sparse tables and the host memories do: a read after a write of the same place gives what was written, a write
leaves every other place alone, and every operation keeps the canonical form.
-/
namespace Sys2Proof.Machine

variable {α : Type}

@[simp] theorem mapGet_mapPut_self (m : List (Nat × α)) (k : Nat) (v : α) : mapGet (mapPut m k v) k = some v := by
  induction m with
  | nil => simp [mapPut, mapGet]
  | cons e m ih =>
    obtain ⟨k', v'⟩ := e
    by_cases h1 : k < k'
    · simp [mapPut, mapGet, h1]
    · by_cases h2 : k = k'
      · simp [mapPut, mapGet, h2]
      · simp [mapPut, mapGet, h1, h2, ih]

theorem mapGet_mapPut_ne (m : List (Nat × α)) (k j : Nat) (v : α) (h : j ≠ k) : mapGet (mapPut m k v) j = mapGet m j := by
  induction m with
  | nil => simp [mapPut, mapGet, h]
  | cons e m ih =>
    obtain ⟨k', v'⟩ := e
    by_cases h1 : k < k'
    · simp [mapPut, mapGet, h1, h]
    · by_cases h2 : k = k'
      · subst h2; simp [mapPut, mapGet, h]
      · simp [mapPut, mapGet, h1, h2, ih]

@[simp] theorem mapGet_mapErase_self (m : List (Nat × α)) (k : Nat) : mapGet (mapErase m k) k = none := by
  induction m with
  | nil => rfl
  | cons e m ih =>
    obtain ⟨k', v'⟩ := e
    by_cases h : k' = k
    · simpa [mapErase, h] using ih
    · have h' : ¬ k = k' := fun x => h x.symm
      simp only [mapErase, List.filter_cons, ne_eq, h, not_false_iff, decide_true, if_true, mapGet, h', if_false]
      exact ih

theorem mapGet_mapErase_ne (m : List (Nat × α)) (k j : Nat) (hj : j ≠ k) : mapGet (mapErase m k) j = mapGet m j := by
  induction m with
  | nil => rfl
  | cons e m ih =>
    obtain ⟨k', v'⟩ := e
    by_cases h : k' = k
    · have hj' : ¬ j = k' := fun x => hj (x.trans h)
      simp only [mapErase, List.filter_cons, ne_eq, h, not_true, decide_false, Bool.false_eq_true, if_false, mapGet]
      rw [show (List.filter (fun e => decide ¬e.1 = k) m) = mapErase m k from rfl, ih]
      rw [h] at hj'; simp [hj']
    · simp only [mapErase, List.filter_cons, ne_eq, h, not_false_iff, decide_true, if_true, mapGet]
      by_cases hk : j = k'
      · simp [hk]
      · simp only [hk, if_false]; exact ih

variable [DecidableEq α]

@[simp] theorem mapGetD_mapPutD_self (d : α) (m : List (Nat × α)) (k : Nat) (v : α) : mapGetD d (mapPutD d m k v) k = v := by
  unfold mapGetD mapPutD
  split
  · simp [*]
  · simp

theorem mapGetD_mapPutD_ne (d : α) (m : List (Nat × α)) (k j : Nat) (v : α) (h : j ≠ k) :
    mapGetD d (mapPutD d m k v) j = mapGetD d m j := by
  unfold mapGetD mapPutD
  split
  · rw [mapGet_mapErase_ne m k j h]
  · rw [mapGet_mapPut_ne m k j v h]

omit [DecidableEq α] in
theorem mapRising_mono {lo hi : Nat} (h : lo ≤ hi) : ∀ {m : List (Nat × α)}, mapRising hi m = true → mapRising lo m = true
  | [], _ => rfl
  | (k, v) :: m, hm => by
    simp only [mapRising, Bool.and_eq_true, decide_eq_true_eq] at hm ⊢
    exact ⟨Nat.le_trans h hm.1, hm.2⟩

omit [DecidableEq α] in
theorem mapRising_mapPut {lo k : Nat} (v : α) (hk : lo ≤ k) :
    ∀ {m : List (Nat × α)}, mapRising lo m = true → mapRising lo (mapPut m k v) = true := by
  intro m
  induction m generalizing lo with
  | nil => intro _; simp [mapPut, mapRising, hk]
  | cons e m ih =>
    obtain ⟨k', v'⟩ := e
    intro hm
    simp only [mapRising, Bool.and_eq_true, decide_eq_true_eq] at hm
    by_cases h1 : k < k'
    · simp only [mapPut, h1, if_true, mapRising, Bool.and_eq_true, decide_eq_true_eq]
      exact ⟨hk, h1, hm.2⟩
    · by_cases h2 : k = k'
      · subst h2; simp [mapPut, mapRising, hk, hm.2]
      · simp only [mapPut, h1, h2, if_false, mapRising, Bool.and_eq_true, decide_eq_true_eq]
        exact ⟨hm.1, ih (by omega) hm.2⟩

omit [DecidableEq α] in
theorem mapRising_mapErase {lo : Nat} (k : Nat) :
    ∀ {m : List (Nat × α)}, mapRising lo m = true → mapRising lo (mapErase m k) = true := by
  intro m
  induction m generalizing lo with
  | nil => intro _; rfl
  | cons e m ih =>
    obtain ⟨k', v'⟩ := e
    intro hm
    simp only [mapRising, Bool.and_eq_true, decide_eq_true_eq] at hm
    by_cases h : k' = k
    · have := mapRising_mono (by omega : lo ≤ k' + 1) (ih hm.2)
      simpa [mapErase, h] using this
    · have := ih hm.2
      rw [mapErase, List.filter_cons, if_pos (by simpa using h)]
      simp only [mapRising, Bool.and_eq_true, decide_eq_true_eq]
      exact ⟨hm.1, this⟩

omit [DecidableEq α] in
theorem mem_mapPut {m : List (Nat × α)} {k : Nat} {v : α} {e : Nat × α} (h : e ∈ mapPut m k v) : e = (k, v) ∨ e ∈ m := by
  induction m with
  | nil => simpa [mapPut] using h
  | cons x m ih =>
    obtain ⟨k', v'⟩ := x
    unfold mapPut at h
    split at h
    · simpa using h
    · split at h
      · rcases List.mem_cons.1 h with h | h
        · exact .inl h
        · exact .inr (List.mem_cons_of_mem _ h)
      · rcases List.mem_cons.1 h with h | h
        · exact .inr (h ▸ List.mem_cons_self ..)
        · exact (ih h).imp id (List.mem_cons_of_mem _)

/-- A write keeps the canonical form of a table. -/
theorem mapWf_mapPutD (d : α) (m : List (Nat × α)) (k : Nat) (v : α) (h : mapWf d m = true) : mapWf d (mapPutD d m k v) = true := by
  simp only [mapWf, Bool.and_eq_true, List.all_eq_true, decide_eq_true_eq] at h ⊢
  unfold mapPutD
  split
  · exact ⟨mapRising_mapErase k h.1, fun e he => h.2 e (List.mem_filter.1 he).1⟩
  · rename_i hv
    exact ⟨mapRising_mapPut v (Nat.zero_le k) h.1, fun e he => (mem_mapPut he).elim (fun x => x ▸ hv) (h.2 e)⟩

/-! ### Host memory -/

/-- A write keeps the canonical form of a memory. -/
theorem memWrite_wf (bs : List Byte) : ∀ (m : List Host.Cell) (a : Nat), Memory.wf m = true → Memory.wf (memWrite m a bs) = true := by
  induction bs with
  | nil => intro m a h; exact h
  | cons b bs ih => intro m a h; exact ih _ _ (mapWf_mapPutD _ _ _ _ h)

/-- Several writes keep it. -/
theorem memWrites_wf {β : Type} (f : β → Nat × List Byte) (l : List β) :
    ∀ m : List Host.Cell, Memory.wf m = true → Memory.wf (l.foldl (fun m x => memWrite m (f x).1 (f x).2) m) = true := by
  induction l with
  | nil => intro m h; exact h
  | cons x l ih => intro m h; exact ih _ (memWrite_wf _ _ _ h)

/-- The byte a memory holds at an address. -/
theorem memRead_one (m : List Host.Cell) (a : Nat) : memRead m a 1 = [mapGetD memDefault m (a % 2 ^ 64)] := rfl

/-- A write leaves every byte outside the addresses it names alone. -/
theorem memWrite_other (bs : List Byte) : ∀ (m : List Host.Cell) (a j : Nat),
    (∀ i < bs.length, j % 2 ^ 64 ≠ (a + i) % 2 ^ 64) → memRead (memWrite m a bs) j 1 = memRead m j 1 := by
  induction bs with
  | nil => intro m a j _; rfl
  | cons b bs ih =>
    intro m a j h
    have h0 := h 0 (by simp)
    have hs : ∀ i < bs.length, j % 2 ^ 64 ≠ (a + 1 + i) % 2 ^ 64 := fun i hi => by
      have := h (i + 1) (by simp; omega)
      rwa [show a + (i + 1) = a + 1 + i by omega] at this
    rw [memWrite, ih _ _ _ hs, memRead_one, memRead_one, mapGetD_mapPutD_ne _ _ _ _ _ (by simpa using h0)]

end Sys2Proof.Machine
end

