-- ==== Sys2Proof/Laws/Kept.lean ====
section
/-!
SUPPORT. What every operation of the machine keeps: the queue of waiting commands, and the canonical form of the memories.
-/
namespace Sys2Proof.Machine

/-- The queue is `p`, and the memories are in their canonical form. -/
def Kept (p : List Instr) (s : State) : Prop :=
  s.pending = p ∧ Memory.wf s.localMem = true ∧ Memory.wf s.tunMem = true ∧ Memory.wf s.scratch = true

variable {p : List Instr} {s t : State}

/-- A state that shares the queue and the memories. -/
theorem Kept.of_eq (h1 : t.pending = s.pending) (h2 : t.localMem = s.localMem) (h3 : t.tunMem = s.tunMem)
    (h4 : t.scratch = s.scratch) (h : Kept p s) : Kept p t := by
  unfold Kept at *; rw [h1, h2, h3, h4]; exact h

theorem kept_foldl {β : Type} {g : State → β → State} (hg : ∀ s x, Kept p s → Kept p (g s x)) (l : List β) :
    ∀ {s}, Kept p s → Kept p (l.foldl g s) := by
  induction l with
  | nil => intro s h; exact h
  | cons x l ih => intro s h; exact ih (hg _ _ h)

theorem kept_foldl_snd {β γ : Type} {g : γ × State → β → γ × State} (hg : ∀ a x, Kept p a.2 → Kept p (g a x).2) (l : List β) :
    ∀ {a}, Kept p a.2 → Kept p (l.foldl g a).2 := by
  induction l with
  | nil => intro s h; exact h
  | cons x l ih => intro s h; exact ih (hg _ _ h)

theorem kept_hostMem (h : Kept p s) : Memory.wf (hostMem s) = true := by
  unfold hostMem; split; exacts [h.2.2.1, h.2.1]

theorem kept_setHostMem {m : List Host.Cell} (hm : Memory.wf m = true) (h : Kept p s) : Kept p (setHostMem m s) := by
  unfold setHostMem; split
  exacts [⟨h.1, h.2.1, hm, h.2.2.2⟩, ⟨h.1, hm, h.2.2⟩]

theorem kept_hostWrites (l : List HostStore) (h : Kept p s) :
    Kept p { s with localMem := l.foldl (fun m x => memWrite m x.addr.toNat x.bytes) s.localMem } :=
  ⟨h.1, memWrites_wf (fun x : HostStore => (x.addr.toNat, x.bytes)) l _ h.2.1, h.2.2⟩

/-- A state written out by its fields keeps what it lists. -/
theorem kept_mk {a b c d e f g h i j k l m n o q lm tm r t u v w x y z a1 b1 c1 d1 e1 f1 sc} :
    Kept p (State.mk a b c d e f g h i j k l m n o q lm tm r t u v w x y z a1 b1 c1 d1 e1 f1 sc) ↔
      a = p ∧ Memory.wf lm = true ∧ Memory.wf tm = true ∧ Memory.wf sc = true := Iff.rfl

theorem kept_localMem {a : Nat} {bs : List Byte} (h : Kept p s) : Kept p { s with localMem := memWrite s.localMem a bs } :=
  ⟨h.1, memWrite_wf _ _ _ h.2.1, h.2.2⟩

theorem kept_tunMem {a : Nat} {bs : List Byte} (h : Kept p s) : Kept p { s with tunMem := memWrite s.tunMem a bs } :=
  ⟨h.1, h.2.1, memWrite_wf _ _ _ h.2.2.1, h.2.2.2⟩

theorem kept_tunMem_nil (h : Kept p s) : Kept p { s with tunMem := [] } := ⟨h.1, h.2.1, rfl, h.2.2.2⟩

theorem kept_scratch {a : Nat} {bs : List Byte} (h : Kept p s) : Kept p { s with scratch := memWrite s.scratch a bs } :=
  ⟨h.1, h.2.1, h.2.2.1, memWrite_wf _ _ _ h.2.2.2⟩

/-- An outcome that is a next state, which keeps the queue and the canonical form. -/
def KeptOut (p : List Instr) (o : Host.Outcome State Fault Refusal) : Prop := ∃ t, o = .next t ∧ Kept p t

theorem keptOut_next (h : Kept p s) : KeptOut p (.next s) := ⟨s, rfl, h⟩

/-- Every state an operation that may refuse answers. -/
def KeptOpt (p : List Instr) (o : Option State) : Prop := ∀ t, o = some t → Kept p t

theorem keptOpt_none : KeptOpt p none := fun _ h => nomatch h

theorem keptOpt_elim {o : Option State} (h : KeptOpt p o) (e : o = some t) : Kept p t := h t e

theorem keptOpt_map {α : Type} {f : α → State} {o : Option α} (h : ∀ a, Kept p (f a)) : KeptOpt p (o.map f) := by
  cases o with
  | none => exact keptOpt_none
  | some a => intro t e; exact Option.some.inj e ▸ h a

theorem keptOpt_bind {α : Type} {f : α → Option State} {o : Option α} (h : ∀ a, KeptOpt p (f a)) : KeptOpt p (o.bind f) := by
  cases o with
  | none => exact keptOpt_none
  | some a => exact h a

theorem keptOpt_getD {o : Option State} (h : KeptOpt p o) (hs : Kept p s) : Kept p (o.getD s) := by
  cases o with
  | none => exact hs
  | some a => exact h a rfl

theorem keptOpt_some (h : Kept p s) : KeptOpt p (some s) := fun _ e => Option.some.inj e ▸ h

end Sys2Proof.Machine
end

