-- ==== Sys2Proof/Laws/KeptOps.lean ====
section
/-!
SUPPORT. The operations of Machine/Ops.lean keep the queue and the canonical form of the memories.
-/
namespace Sys2Proof.Machine

theorem kept_regSet (off : Nat) (v : Word) (s : State) {pq : List Instr}
    (hk : Kept pq s) : Kept pq (regSet off v s) := by
  unfold regSet
  repeat' first
    | with_reducible assumption
    | (simp only [kept_mk]; change Kept pq _)

theorem kept_regMod (off : Nat) (f : Word → Word) (s : State) {pq : List Instr}
    (hk : Kept pq s) : Kept pq (regMod off f s) := by
  unfold regMod
  repeat' first
    | with_reducible assumption
    | with_reducible apply kept_regSet

theorem kept_regSetFld (off hi lo v : Nat) (s : State) {pq : List Instr}
    (hk : Kept pq s) : Kept pq (regSetFld off hi lo v s) := by
  unfold regSetFld
  repeat' first
    | with_reducible assumption
    | with_reducible apply kept_regMod

theorem kept_bump (off n : Nat) (s : State) {pq : List Instr}
    (hk : Kept pq s) : Kept pq (bump off n s) := by
  unfold bump
  repeat' first
    | with_reducible assumption
    | with_reducible apply kept_regMod

theorem kept_bumpFld (off hi lo n : Nat) (s : State) {pq : List Instr}
    (hk : Kept pq s) : Kept pq (bumpFld off hi lo n s) := by
  unfold bumpFld
  repeat' first
    | with_reducible assumption
    | with_reducible apply kept_regMod

theorem kept_sticky (off i : Nat) (s : State) {pq : List Instr}
    (hk : Kept pq s) : Kept pq (sticky off i s) := by
  unfold sticky
  repeat' first
    | with_reducible assumption
    | with_reducible apply kept_regMod


theorem kept_msixRaise (v : Nat) (s : State) {pq : List Instr}
    (hk : Kept pq s) : Kept pq (msixRaise v s) := by
  unfold msixRaise
  repeat' first
    | with_reducible assumption
    | with_reducible apply kept_localMem
    | split
    | dsimp only [id]
    | (simp only [kept_mk]; change Kept pq _)

theorem kept_msixMod (v : Fin 64) (f : MsixEntry → MsixEntry) (s : State) {pq : List Instr}
    (hk : Kept pq s) : Kept pq (msixMod v f s) := by
  unfold msixMod
  repeat' first
    | with_reducible assumption
    | with_reducible apply kept_msixRaise
    | split
    | dsimp only [id]
    | (simp only [kept_mk]; change Kept pq _)

theorem kept_msixWord (off : Nat) (w : Word) (s : State) {pq : List Instr}
    (hk : Kept pq s) : Kept pq (msixWord off w s) := by
  unfold msixWord
  repeat' first
    | with_reducible assumption
    | with_reducible apply kept_msixMod
    | split

theorem kept_bar2Store (off : Nat) (bs : List Byte) (s : State) {pq : List Instr}
    (hk : Kept pq s) : Kept pq (bar2Store off bs s) := by
  unfold bar2Store
  repeat' first
    | with_reducible assumption
    | with_reducible apply kept_msixWord
    | with_reducible refine kept_foldl (fun _ _ _ => ?_) _ ?_
    | split

theorem kept_hostStores (l : List HostStore) (s : State) {pq : List Instr} (hk : Kept pq s) : Kept pq (hostStores l s) := by
  unfold hostStores
  refine kept_foldl (fun s x h => ?_) l hk
  split
  · exact kept_bar2Store _ _ _ h
  · exact kept_setHostMem (memWrite_wf _ _ _ (kept_hostMem h)) h

theorem kept_freshFree (w : Nat) (s : State) {pq : List Instr}
    (hk : Kept pq s) : Kept pq (freshFree w s).2 := by
  unfold freshFree
  repeat' first
    | with_reducible assumption
    | dsimp only [id]
    | (simp only [kept_mk]; change Kept pq _)

theorem kept_setInst (src inst : Nat) (x : SumpInst) (s : State) {pq : List Instr}
    (hk : Kept pq s) : Kept pq (setInst src inst x s) := by
  unfold setInst
  repeat' first
    | with_reducible assumption
    | dsimp only [id]
    | (simp only [kept_mk]; change Kept pq _)

theorem kept_report (ty index : Nat) (data : List Byte) (s : State) {pq : List Instr}
    (hk : Kept pq s) : Kept pq (report ty index data s) := by
  unfold report
  repeat' first
    | with_reducible assumption
    | dsimp only [id]
    | (simp only [kept_mk]; change Kept pq _)

theorem kept_reportNow (ty index : Nat) (data : List Byte) (s : State) {pq : List Instr}
    (hk : Kept pq s) : Kept pq (reportNow ty index data s) := by
  unfold reportNow
  repeat' first
    | with_reducible assumption
    | dsimp only [id]
    | (simp only [kept_mk]; change Kept pq _)

theorem kept_faultEvent (src inst transition : Nat) (s : State) {pq : List Instr}
    (hk : Kept pq s) : Kept pq (faultEvent src inst transition s) := by
  unfold faultEvent
  repeat' first
    | with_reducible assumption
    | with_reducible apply kept_report
    | split

theorem kept_fenceFor (src inst : Nat) (s : State) {pq : List Instr}
    (hk : Kept pq s) : Kept pq (fenceFor src inst s) := by
  unfold fenceFor
  repeat' first
    | with_reducible assumption
    | with_reducible apply kept_faultEvent
    | split
    | dsimp only [id]
    | (simp only [kept_mk]; change Kept pq _)

theorem kept_requestService (sev : Nat) (s : State) {pq : List Instr}
    (hk : Kept pq s) : Kept pq (requestService sev s) := by
  unfold requestService
  repeat' first
    | with_reducible assumption
    | with_reducible apply kept_regSetFld
    | with_reducible refine kept_foldl (fun _ _ _ => ?_) _ ?_
    | split
    | dsimp only [id]

theorem kept_raise (src inst : Nat) (detail : Nat) (s : State) {pq : List Instr}
    (hk : Kept pq s) : Kept pq (raise src inst detail s) := by
  unfold raise
  repeat' first
    | with_reducible assumption
    | with_reducible apply kept_requestService
    | with_reducible apply kept_fenceFor
    | with_reducible apply kept_faultEvent
    | with_reducible apply kept_setInst
    | split
    | dsimp only [id]
    | (simp only [kept_mk]; change Kept pq _)

theorem kept_linkMod (n : Fin 16) (f : Link → Link) (s : State) {pq : List Instr}
    (hk : Kept pq s) : Kept pq (linkMod n f s) := by
  unfold linkMod
  repeat' first
    | with_reducible assumption
    | (simp only [kept_mk]; change Kept pq _)

theorem kept_cellDrop (n : Fin 16) (s : State) {pq : List Instr}
    (hk : Kept pq s) : Kept pq (cellDrop n s) := by
  unfold cellDrop
  repeat' first
    | with_reducible assumption
    | with_reducible apply kept_sticky
    | with_reducible apply kept_bump

theorem kept_queueCell (n : Fin 16) (c : Cell) (s : State) {pq : List Instr}
    (hk : Kept pq s) : Kept pq (queueCell n c s) := by
  unfold queueCell
  repeat' first
    | with_reducible assumption
    | with_reducible apply kept_cellDrop
    | with_reducible apply kept_linkMod
    | with_reducible apply kept_raise
    | split
    | dsimp only [id]

theorem kept_takeSeq (s : State) {pq : List Instr}
    (hk : Kept pq s) : Kept pq (takeSeq s).2 := by
  unfold takeSeq
  repeat' first
    | with_reducible assumption
    | dsimp only [id]
    | (simp only [kept_mk]; change Kept pq _)

theorem kept_sendRouted (ty : Nat) (dst : BitVec 12) (hops : Nat) (route : BitVec 64) (body : List Byte) (s : State) {pq : List Instr}
    (hk : Kept pq s) : Kept pq (sendRouted ty dst hops route body s) := by
  unfold sendRouted
  repeat' first
    | with_reducible assumption
    | with_reducible apply kept_takeSeq
    | with_reducible apply kept_queueCell
    | with_reducible apply kept_cellDrop
    | split
    | dsimp only [id]

theorem kept_sendNeighbour (n : Fin 16) (ty : Nat) (body : List Byte) (s : State) {pq : List Instr}
    (hk : Kept pq s) : Kept pq (sendNeighbour n ty body s) := by
  unfold sendNeighbour
  repeat' first
    | with_reducible assumption
    | with_reducible apply kept_queueCell

theorem kept_floodOn (except_ : Option (Fin 16)) (c : Cell) (s : State) {pq : List Instr}
    (hk : Kept pq s) : Kept pq (floodOn except_ c s) := by
  unfold floodOn
  repeat' first
    | with_reducible assumption
    | with_reducible apply kept_queueCell
    | with_reducible refine kept_foldl (fun _ _ _ => ?_) _ ?_
    | split

theorem kept_sendFlood (ty hops : Nat) (body : List Byte) (s : State) {pq : List Instr}
    (hk : Kept pq s) : Kept pq (sendFlood ty hops body s) := by
  unfold sendFlood
  repeat' first
    | with_reducible assumption
    | with_reducible apply kept_floodOn
    | with_reducible apply kept_takeSeq
    | dsimp only [id]
    | (simp only [kept_mk]; change Kept pq _)

theorem kept_tunSend (r : TunReq) (s : State) {pq : List Instr}
    (hk : Kept pq s) : Kept pq (tunSend r s) := by
  unfold tunSend
  repeat' first
    | with_reducible assumption
    | with_reducible apply kept_sendRouted
    | split

theorem kept_tunIssue (u : TunUse) (k : TunReqKind) (s : State) {pq : List Instr}
    (hk : Kept pq s) : Kept pq (tunIssue u k s) := by
  unfold tunIssue
  repeat' first
    | with_reducible assumption
    | with_reducible apply kept_tunSend
    | split
    | dsimp only [id]
    | (simp only [kept_mk]; change Kept pq _)

theorem kept_useWrite (u : TunUse) (addr : Nat) (bs : List Byte) (s : State) {pq : List Instr}
    (hk : Kept pq s) : Kept pq (useWrite u addr bs s) := by
  unfold useWrite
  repeat' first
    | with_reducible assumption
    | with_reducible apply kept_tunIssue
    | with_reducible apply kept_setHostMem
    | exact kept_hostMem (by with_reducible assumption)
    | with_reducible apply memWrite_wf
    | with_reducible refine kept_foldl (fun _ _ _ => ?_) _ ?_
    | split

theorem kept_useRead (u : TunUse) (addr n : Nat) (s : State) {pq : List Instr}
    (hk : Kept pq s) : Kept pq (useRead u addr n s) := by
  unfold useRead
  repeat' first
    | with_reducible assumption
    | with_reducible apply kept_tunIssue
    | with_reducible refine kept_foldl (fun _ _ _ => ?_) _ ?_
    | split

theorem kept_hostWrite (addr : Nat) (bs : List Byte) (s : State) {pq : List Instr}
    (hk : Kept pq s) : Kept pq (hostWrite addr bs s) := by
  unfold hostWrite
  repeat' first
    | with_reducible assumption
    | with_reducible apply kept_useWrite

theorem kept_hostReadReq (addr n : Nat) (s : State) {pq : List Instr}
    (hk : Kept pq s) : Kept pq (hostReadReq addr n s) := by
  unfold hostReadReq
  repeat' first
    | with_reducible assumption
    | with_reducible apply kept_useRead

theorem kept_raiseVector (v : BitVec 6) (s : State) {pq : List Instr}
    (hk : Kept pq s) : Kept pq (raiseVector v s) := by
  unfold raiseVector
  repeat' first
    | with_reducible assumption
    | with_reducible apply kept_tunIssue
    | with_reducible apply kept_msixRaise
    | split

theorem kept_setQueue (i : Fin 6) (q : RecQueue) (s : State) {pq : List Instr}
    (hk : Kept pq s) : Kept pq (setQueue i q s) := by
  unfold setQueue
  repeat' first
    | with_reducible assumption
    | split
    | dsimp only [id]
    | (simp only [kept_mk]; change Kept pq _)

theorem kept_callIrq (i : Fin 6) (s : State) {pq : List Instr}
    (hk : Kept pq s) : Kept pq (callIrq i s) := by
  unfold callIrq
  repeat' first
    | with_reducible assumption
    | with_reducible apply kept_raiseVector
    | split
    | dsimp only [id]
    | (simp only [kept_mk]; change Kept pq _)

theorem kept_writeRec (i : Fin 6) (size fl : Nat) (bytes : List Byte) (s : State) {pq : List Instr}
    (hk : Kept pq s) : Kept pq (writeRec i size fl bytes s) := by
  unfold writeRec
  repeat' first
    | with_reducible assumption
    | with_reducible apply kept_setQueue
    | with_reducible apply kept_useWrite

theorem kept_recordLost (s : State) {pq : List Instr}
    (hk : Kept pq s) : Kept pq (recordLost s) := by
  unfold recordLost
  repeat' first
    | with_reducible assumption
    | with_reducible apply kept_sticky
    | with_reducible apply kept_bump

theorem kept_ringDone (r : Fin 8) (s : State) {pq : List Instr}
    (hk : Kept pq s) : Kept pq (ringDone r s) := by
  unfold ringDone
  repeat' first
    | with_reducible assumption
    | dsimp only [id]
    | (simp only [kept_mk]; change Kept pq _)

theorem kept_unreserve (cq : Fin 4) (old : Bool) (s : State) {pq : List Instr}
    (hk : Kept pq s) : Kept pq (unreserve cq old s) := by
  unfold unreserve
  repeat' first
    | with_reducible assumption
    | split
    | dsimp only [id]
    | (simp only [kept_mk]; change Kept pq _)

theorem kept_postRec (r : Fin 8) (bytes : List Byte) (irq : Bool) (s : State) {pq : List Instr}
    (hk : Kept pq s) : Kept pq (postRec r bytes irq s) := by
  unfold postRec
  repeat' first
    | with_reducible assumption
    | with_reducible apply kept_writeRec
    | with_reducible apply kept_callIrq
    | split

theorem kept_completeAt (tick : Nat) (t : Ticket) (status specific : Nat) (s0 : State) {pq : List Instr}
    (hk : Kept pq s0) : Kept pq (completeAt tick t status specific s0) := by
  unfold completeAt
  repeat' first
    | with_reducible assumption
    | with_reducible apply kept_postRec
    | with_reducible apply kept_unreserve
    | with_reducible apply kept_ringDone
    | with_reducible apply kept_recordLost
    | split
    | dsimp only [id]
    | (simp only [kept_mk]; change Kept pq _)

theorem kept_complete (t : Ticket) (status specific : Nat) (s : State) {pq : List Instr}
    (hk : Kept pq s) : Kept pq (complete t status specific s) := by
  unfold complete
  repeat' first
    | with_reducible assumption
    | with_reducible apply kept_completeAt

theorem kept_accept (h : CmdHdr) (s : State) {pq : List Instr}
    (hk : Kept pq s) : Kept pq (accept h s).2 := by
  unfold accept
  repeat' first
    | with_reducible assumption
    | dsimp only [id]
    | (simp only [kept_mk]; change Kept pq _)

theorem kept_takenCmd (timed : Bool) (h : CmdHdr) (bad : Bool) (run : Ticket → State → State) (s0 : State) {pq : List Instr}
    (h_run : ∀ a0 s1, Kept pq s1 → Kept pq (run a0 s1)) (hk : Kept pq s0) : Kept pq (takenCmd timed h bad run s0) := by
  unfold takenCmd
  repeat' first
    | with_reducible assumption
    | with_reducible apply h_run
    | with_reducible apply kept_accept
    | with_reducible apply kept_complete
    | with_reducible apply kept_hostStores
    | split
    | dsimp only [id]

theorem kept_untimedCmd (h : CmdHdr) (bad : Bool) (run : Ticket → State → State) (s0 : State) {pq : List Instr}
    (h_run : ∀ a0 s1, Kept pq s1 → Kept pq (run a0 s1)) (hk : Kept pq s0) : Kept pq (untimedCmd h bad run s0) := by
  unfold untimedCmd
  repeat' first
    | with_reducible assumption
    | with_reducible apply kept_takenCmd

theorem kept_hold (tick : Nat) (t : Ticket) (late : Bool) (act : Action) (s : State) {pq : List Instr}
    (hk : Kept pq s) : Kept pq (hold tick t late act s) := by
  unfold hold
  repeat' first
    | with_reducible assumption
    | (simp only [kept_mk]; change Kept pq _)

theorem kept_timedCmd (h : CmdHdr) (tick : BitVec 64) (bad : Bool) (refuse : State → Option (Nat × Nat)) (pre : Nat → Ticket → State → State) (act : Action) (s0 : State) {pq : List Instr}
    (h_pre : ∀ a0 a1 s1, Kept pq s1 → Kept pq (pre a0 a1 s1)) (hk : Kept pq s0) : Kept pq (timedCmd h tick bad refuse pre act s0) := by
  unfold timedCmd
  repeat' first
    | with_reducible assumption
    | with_reducible apply h_pre
    | with_reducible apply kept_hold
    | with_reducible apply kept_accept
    | with_reducible apply kept_complete
    | with_reducible apply kept_hostStores
    | split
    | dsimp only [id]

theorem kept_badTimed (h : CmdHdr) (s0 : State) {pq : List Instr}
    (hk : Kept pq s0) : Kept pq (badTimed h s0) := by
  unfold badTimed
  repeat' first
    | with_reducible assumption
    | with_reducible apply kept_accept
    | with_reducible apply kept_complete
    | with_reducible apply kept_hostStores
    | split
    | dsimp only [id]

theorem kept_busTimed (h : CmdHdr) (s0 : State) {pq : List Instr}
    (hk : Kept pq s0) : Kept pq (busTimed h s0) := by
  unfold busTimed
  repeat' first
    | with_reducible assumption
    | with_reducible apply kept_accept
    | with_reducible apply kept_complete
    | with_reducible apply kept_hostStores
    | split
    | dsimp only [id]

theorem kept_noPre (x0 : Nat) (x1 : Ticket) (x2 : State) {pq : List Instr}
    (hk : Kept pq x2) : Kept pq (noPre x0 x1 x2) := by
  unfold noPre
  repeat' first
    | with_reducible assumption

theorem kept_resultWith (tick : Option Nat) (t : Ticket) (addr : Nat) (bytes : List Byte) (status specific : Nat) (s : State) {pq : List Instr}
    (hk : Kept pq s) : Kept pq (resultWith tick t addr bytes status specific s) := by
  unfold resultWith
  repeat' first
    | with_reducible assumption
    | with_reducible apply kept_completeAt
    | with_reducible apply kept_useRead
    | with_reducible apply kept_useWrite
    | split
    | dsimp only [id]
    | (simp only [kept_mk]; change Kept pq _)

theorem kept_resultThen (t : Ticket) (addr : Nat) (bytes : List Byte) (status : Nat) (s : State) {pq : List Instr}
    (hk : Kept pq s) : Kept pq (resultThen t addr bytes status s) := by
  unfold resultThen
  repeat' first
    | with_reducible assumption
    | with_reducible apply kept_resultWith

theorem kept_failResults (s : State) {pq : List Instr}
    (hk : Kept pq s) : Kept pq (failResults s) := by
  unfold failResults
  repeat' first
    | with_reducible assumption
    | with_reducible apply kept_completeAt
    | with_reducible refine kept_foldl (fun _ _ _ => ?_) _ ?_
    | dsimp only [id]
    | (simp only [kept_mk]; change Kept pq _)

theorem kept_resultCome (order : Nat) (s : State) {pq : List Instr}
    (hk : Kept pq s) : Kept pq (resultCome order s) := by
  unfold resultCome
  repeat' first
    | with_reducible assumption
    | with_reducible apply kept_completeAt
    | with_reducible refine kept_foldl (fun _ _ _ => ?_) _ ?_
    | dsimp only [id]
    | (simp only [kept_mk]; change Kept pq _)

end Sys2Proof.Machine
end

