-- ==== Sys2Proof/Laws/KeptFlags.lean ====
section
/-!
SUPPORT. The operations of Machine/Flags.lean keep the queue and the canonical form of the memories.
-/
namespace Sys2Proof.Machine

theorem kept_countSticky (count stat bit src inst n : Nat) (s : State) {pq : List Instr}
    (hk : Kept pq s) : Kept pq (countSticky count stat bit src inst n s) := by
  unfold countSticky
  repeat' first
    | with_reducible assumption
    | with_reducible apply kept_raise
    | with_reducible apply kept_sticky
    | with_reducible apply kept_bump
    | split
    | dsimp only [id]

theorem kept_countFlag (count stat bit n : Nat) (s : State) {pq : List Instr}
    (hk : Kept pq s) : Kept pq (countFlag count stat bit n s) := by
  unfold countFlag
  repeat' first
    | with_reducible assumption
    | with_reducible apply kept_sticky
    | with_reducible apply kept_bump
    | split

theorem kept_clearWith (w : Word) (bit count : Nat) (s : State) {pq : List Instr}
    (hk : Kept pq s) : Kept pq (clearWith w bit count s) := by
  unfold clearWith
  repeat' first
    | with_reducible assumption
    | with_reducible apply kept_regSet
    | split

end Sys2Proof.Machine
end

