-- ==== Sys2Proof/Laws/KeptRouter.lean ====
section
/-!
SUPPORT. The operations of Machine/Router.lean keep the queue and the canonical form of the memories.
-/
namespace Sys2Proof.Machine

theorem kept_setTaps (dest : Nat) (taps : List Tap) (s : State) {pq : List Instr}
    (hk : Kept pq s) : Kept pq (setTaps dest taps s) := by
  unfold setTaps
  repeat' first
    | with_reducible assumption
    | dsimp only [id]
    | (simp only [kept_mk]; change Kept pq _)

theorem kept_applyRoute (a : RouteAct) (s : State) {pq : List Instr}
    (hk : Kept pq s) : Kept pq (applyRoute a s).2 := by
  unfold applyRoute
  repeat' first
    | with_reducible assumption
    | with_reducible apply kept_setTaps
    | split

theorem kept_applyGain (dest : Nat) (input : Fin 4) (gain : Word) (ms : Nat) (s : State) {pq : List Instr}
    (hk : Kept pq s) : Kept pq (applyGain dest input gain ms s).2 := by
  unfold applyGain
  repeat' first
    | with_reducible assumption
    | with_reducible apply kept_setTaps
    | split
    | dsimp only [id]

theorem kept_applyClear (dest : Nat) (power : Bool) (ms : Nat) (skip : Nat → Bool) (s : State) {pq : List Instr}
    (hk : Kept pq s) : Kept pq (applyClear dest power ms skip s) := by
  unfold applyClear
  repeat' first
    | with_reducible assumption
    | with_reducible apply kept_setTaps
    | split

theorem kept_applyBatch (skip : Nat → Nat → Bool) (x0 : Nat) (x1 : List RouteAct) (x2 : State) {pq : List Instr}
    (hk : Kept pq x2) : Kept pq (applyBatch skip x0 x1 x2).2 := by
  induction x1 generalizing x0 x2 with
  | nil => unfold applyBatch; assumption
  | cons _ _ ih =>
  unfold applyBatch
  repeat' first
    | with_reducible assumption
    | with_reducible apply kept_applyRoute
    | with_reducible apply ih
    | split

theorem kept_advanceRoutes (s : State) {pq : List Instr}
    (hk : Kept pq s) : Kept pq (advanceRoutes s) := by
  unfold advanceRoutes
  repeat' first
    | with_reducible assumption
    | dsimp only [id]
    | (simp only [kept_mk]; change Kept pq _)

theorem kept_freeRoutes (s : State) {pq : List Instr}
    (hk : Kept pq s) : Kept pq (freeRoutes s) := by
  unfold freeRoutes
  repeat' first
    | with_reducible assumption
    | dsimp only [id]
    | (simp only [kept_mk]; change Kept pq _)

theorem kept_routerSat (n : Nat) (s : State) {pq : List Instr}
    (hk : Kept pq s) : Kept pq (routerSat n s) := by
  unfold routerSat
  repeat' first
    | with_reducible assumption
    | with_reducible apply kept_countSticky

theorem kept_routerPass (s : State) {pq : List Instr}
    (hk : Kept pq s) : Kept pq (routerPass s).2 := by
  unfold routerPass
  repeat' first
    | with_reducible assumption
    | with_reducible apply kept_routerSat
    | dsimp only [id]
    | (simp only [kept_mk]; change Kept pq _)

theorem kept_routerUse (s : State) {pq : List Instr}
    (hk : Kept pq s) : Kept pq (routerUse s) := by
  unfold routerUse
  repeat' first
    | with_reducible assumption
    | with_reducible apply kept_regSet

theorem kept_runGens (s : State) {pq : List Instr}
    (hk : Kept pq s) : Kept pq (runGens s) := by
  unfold runGens
  repeat' first
    | with_reducible assumption
    | with_reducible apply kept_routerSat
    | with_reducible refine kept_foldl (fun _ _ _ => ?_) _ ?_
    | dsimp only [id]
    | (simp only [kept_mk]; change Kept pq _)

theorem kept_applyTestgen (g : Fin 16) (a : TestgenSetArgs) (s : State) {pq : List Instr}
    (hk : Kept pq s) : Kept pq (applyTestgen g a s) := by
  unfold applyTestgen
  repeat' first
    | with_reducible assumption
    | split
    | dsimp only [id]
    | (simp only [kept_mk]; change Kept pq _)

theorem kept_runDirects (s : State) {pq : List Instr}
    (hk : Kept pq s) : Kept pq (runDirects s) := by
  unfold runDirects
  repeat' first
    | with_reducible assumption
    | with_reducible apply kept_countFlag
    | dsimp only [id]
    | (simp only [kept_mk]; change Kept pq _)

theorem kept_applyDirect (ch : Fin 64) (source dest : BitVec 16) (gain : Word) (ms : Nat) (s : State) {pq : List Instr}
    (hk : Kept pq s) : Kept pq (applyDirect ch source dest gain ms s).2 := by
  unfold applyDirect
  repeat' first
    | with_reducible assumption
    | split
    | dsimp only [id]
    | (simp only [kept_mk]; change Kept pq _)

theorem kept_meterClears (s : State) {pq : List Instr}
    (hk : Kept pq s) : Kept pq (meterClears s) := by
  unfold meterClears
  repeat' first
    | with_reducible assumption
    | split
    | dsimp only [id]
    | (simp only [kept_mk]; change Kept pq _)

theorem kept_meterTake (s : State) (m : Nat × Nat) {pq : List Instr}
    (hk : Kept pq s) : Kept pq (meterTake s m) := by
  unfold meterTake
  repeat' first
    | with_reducible assumption
    | with_reducible apply kept_regMod

theorem kept_runMeters (s : State) {pq : List Instr}
    (hk : Kept pq s) : Kept pq (runMeters s) := by
  unfold runMeters
  repeat' first
    | with_reducible assumption
    | with_reducible apply kept_meterTake
    | with_reducible apply kept_meterClears
    | with_reducible apply kept_regSet
    | with_reducible refine kept_foldl (fun _ _ _ => ?_) _ ?_
    | split

theorem kept_writeMeterCtrl (v : Word) (s : State) {pq : List Instr}
    (hk : Kept pq s) : Kept pq (writeMeterCtrl v s) := by
  unfold writeMeterCtrl
  repeat' first
    | with_reducible assumption
    | with_reducible apply kept_regSet
    | split
    | dsimp only [id]
    | (simp only [kept_mk]; change Kept pq _)

theorem kept_writeMeterSrc (e : Fin 1024) (v : Word) (s : State) {pq : List Instr}
    (hk : Kept pq s) : Kept pq (writeMeterSrc e v s) := by
  unfold writeMeterSrc
  repeat' first
    | with_reducible assumption
    | with_reducible apply kept_regSet
    | dsimp only [id]
    | (simp only [kept_mk]; change Kept pq _)

theorem kept_allocEntry (dest : Nat) (s : State) {pq : List Instr}
    (hk : Kept pq s) : Kept pq (allocEntry dest s) := by
  unfold allocEntry
  repeat' first
    | with_reducible assumption
    | with_reducible apply kept_setTaps
    | split

theorem kept_execRouteSet (h : CmdHdr) (a : RouteSetArgs) (s : State) {pq : List Instr}
    (hk : Kept pq s) : KeptOut pq (execRouteSet h a s) := by
  unfold execRouteSet
  repeat' first
    | with_reducible assumption
    | with_reducible apply kept_allocEntry
    | with_reducible apply kept_badTimed
    | with_reducible apply kept_timedCmd
    | with_reducible apply keptOut_next
    | with_reducible intro _
    | split

theorem kept_execGainSet (h : CmdHdr) (a : GainSetArgs) (s : State) {pq : List Instr}
    (hk : Kept pq s) : KeptOut pq (execGainSet h a s) := by
  unfold execGainSet
  repeat' first
    | with_reducible assumption
    | with_reducible apply kept_noPre
    | with_reducible apply kept_badTimed
    | with_reducible apply kept_timedCmd
    | with_reducible apply keptOut_next
    | with_reducible intro _
    | split

theorem kept_execRouteClear (h : CmdHdr) (a : RouteClearArgs) (s : State) {pq : List Instr}
    (hk : Kept pq s) : KeptOut pq (execRouteClear h a s) := by
  unfold execRouteClear
  repeat' first
    | with_reducible assumption
    | with_reducible apply kept_noPre
    | with_reducible apply kept_badTimed
    | with_reducible apply kept_timedCmd
    | with_reducible apply keptOut_next
    | with_reducible intro _
    | split

theorem kept_execRouteBatch (h : CmdHdr) (a : RouteBatchArgs) (s : State) {pq : List Instr}
    (hk : Kept pq s) : KeptOut pq (execRouteBatch h a s) := by
  unfold execRouteBatch
  repeat' first
    | with_reducible assumption
    | with_reducible apply kept_allocEntry
    | with_reducible apply kept_busTimed
    | with_reducible apply kept_badTimed
    | with_reducible apply kept_timedCmd
    | with_reducible apply keptOut_next
    | with_reducible refine kept_foldl (fun _ _ _ => ?_) _ ?_
    | with_reducible intro _
    | split
    | dsimp only [id]

theorem kept_execRouteQuery (h : CmdHdr) (dest : BitVec 16) (resultAddr : BitVec 64) (s : State) {pq : List Instr}
    (hk : Kept pq s) : KeptOut pq (execRouteQuery h dest resultAddr s) := by
  unfold execRouteQuery
  repeat' first
    | with_reducible assumption
    | with_reducible apply kept_untimedCmd
    | with_reducible apply keptOut_next
    | with_reducible intro _
    | dsimp only [id]
    | (simp only [kept_mk]; change Kept pq _)

theorem kept_runRouteQueries (s : State) {pq : List Instr}
    (hk : Kept pq s) : Kept pq (runRouteQueries s) := by
  unfold runRouteQueries
  repeat' first
    | with_reducible assumption
    | with_reducible apply kept_resultThen
    | with_reducible refine kept_foldl (fun _ _ _ => ?_) _ ?_
    | dsimp only [id]
    | (simp only [kept_mk]; change Kept pq _)

theorem kept_execDirectSet (h : CmdHdr) (a : DirectSetArgs) (s : State) {pq : List Instr}
    (hk : Kept pq s) : KeptOut pq (execDirectSet h a s) := by
  unfold execDirectSet
  repeat' first
    | with_reducible assumption
    | with_reducible apply kept_noPre
    | with_reducible apply kept_badTimed
    | with_reducible apply kept_timedCmd
    | with_reducible apply keptOut_next
    | with_reducible intro _
    | split

theorem kept_execTestgenSet (h : CmdHdr) (a : TestgenSetArgs) (s : State) {pq : List Instr}
    (hk : Kept pq s) : KeptOut pq (execTestgenSet h a s) := by
  unfold execTestgenSet
  repeat' first
    | with_reducible assumption
    | with_reducible apply kept_noPre
    | with_reducible apply kept_badTimed
    | with_reducible apply kept_timedCmd
    | with_reducible apply keptOut_next
    | with_reducible intro _
    | split

end Sys2Proof.Machine
end

