-- ==== Sys2Proof/Laws/KeptSwitch.lean ====
section
/-!
SUPPORT. The operations of Machine/Switch.lean keep the queue and the canonical form of the memories.
-/
namespace Sys2Proof.Machine

theorem kept_fab (f : Fabric → Fabric) (s : State) {pq : List Instr}
    (hk : Kept pq s) : Kept pq (fab f s) := by
  unfold fab
  repeat' first
    | with_reducible assumption
    | (simp only [kept_mk]; change Kept pq _)

theorem kept_updateUse (s : State) {pq : List Instr}
    (hk : Kept pq s) : Kept pq (updateUse s) := by
  unfold updateUse
  repeat' first
    | with_reducible assumption
    | with_reducible apply kept_regSet

theorem kept_freeIncoming (key : Nat) (s : State) {pq : List Instr}
    (hk : Kept pq s) : Kept pq (freeIncoming key s) := by
  unfold freeIncoming
  repeat' first
    | with_reducible assumption
    | with_reducible apply kept_fab
    | split

theorem kept_freeAdd (key : Nat) (s : State) {pq : List Instr}
    (hk : Kept pq s) : Kept pq (freeAdd key s) := by
  unfold freeAdd
  repeat' first
    | with_reducible assumption
    | with_reducible apply kept_fab
    | split

theorem kept_releaseIncoming (key at_ : Nat) (s : State) {pq : List Instr}
    (hk : Kept pq s) : Kept pq (releaseIncoming key at_ s) := by
  unfold releaseIncoming
  repeat' first
    | with_reducible assumption
    | with_reducible apply kept_freeIncoming
    | with_reducible apply kept_fab
    | split

theorem kept_releaseAdd (key at_ : Nat) (s : State) {pq : List Instr}
    (hk : Kept pq s) : Kept pq (releaseAdd key at_ s) := by
  unfold releaseAdd
  repeat' first
    | with_reducible assumption
    | with_reducible apply kept_freeAdd
    | with_reducible apply kept_fab
    | split

theorem kept_setPath (addCh : BitVec 12) (copy : Bool) (g : PathRec → PathRec) (s : State) {pq : List Instr}
    (hk : Kept pq s) : Kept pq (setPath addCh copy g s) := by
  unfold setPath
  repeat' first
    | with_reducible assumption
    | with_reducible apply kept_fab

theorem kept_removePath (addCh : BitVec 12) (copy : Bool) (s : State) {pq : List Instr}
    (hk : Kept pq s) : Kept pq (removePath addCh copy s) := by
  unfold removePath
  repeat' first
    | with_reducible assumption
    | with_reducible apply kept_updateUse
    | with_reducible apply kept_fab

theorem kept_putOut (tick : Nat) (link slot : Nat) (x : Slot) (s : State) {pq : List Instr}
    (hk : Kept pq s) : Kept pq (putOut tick link slot x s) := by
  unfold putOut
  repeat' first
    | with_reducible assumption
    | with_reducible apply kept_fab

theorem kept_switchSlot (n : Fin 16) (slot : Nat) (x : Slot) (ok : Bool) (s : State) {pq : List Instr}
    (hk : Kept pq s) : Kept pq (switchSlot n slot x ok s) := by
  unfold switchSlot
  repeat' first
    | with_reducible assumption
    | with_reducible apply kept_putOut
    | with_reducible apply kept_fab
    | split
    | dsimp only [id]

theorem kept_switchKerf (s : State) {pq : List Instr}
    (hk : Kept pq s) : Kept pq (switchKerf s) := by
  unfold switchKerf
  repeat' first
    | with_reducible assumption
    | with_reducible apply kept_fab

theorem kept_addSlots (invalid : Bool) (s : State) {pq : List Instr}
    (hk : Kept pq s) : Kept pq (addSlots invalid s) := by
  unfold addSlots
  repeat' first
    | with_reducible assumption
    | with_reducible apply kept_putOut
    | with_reducible apply kept_fab
    | with_reducible refine kept_foldl (fun _ _ _ => ?_) _ ?_
    | split

theorem kept_runDrops (s : State) {pq : List Instr}
    (hk : Kept pq s) : Kept pq (runDrops s) := by
  unfold runDrops
  repeat' first
    | with_reducible assumption
    | with_reducible apply kept_countFlag
    | dsimp only [id]
    | (simp only [kept_mk]; change Kept pq _)

end Sys2Proof.Machine
end

