-- ==== Sys2Proof/Laws/KeptLinkOps.lean ====
section
/-!
SUPPORT. The operations of Machine/LinkOps.lean keep the queue and the canonical form of the memories.
-/
namespace Sys2Proof.Machine

theorem kept_setLinkState (n : Fin 16) (x : LinkSt) (s : State) {pq : List Instr}
    (hk : Kept pq s) : Kept pq (setLinkState n x s) := by
  unfold setLinkState
  repeat' first
    | with_reducible assumption
    | with_reducible apply kept_linkMod
    | with_reducible apply kept_report
    | split
    | dsimp only [id]

theorem kept_sendOneHop (n : Fin 16) (ty : Nat) (src : BitVec 12) (body : List Byte) (s : State) {pq : List Instr}
    (hk : Kept pq s) : Kept pq (sendOneHop n ty src body s) := by
  unfold sendOneHop
  repeat' first
    | with_reducible assumption
    | with_reducible apply kept_takeSeq
    | with_reducible apply kept_queueCell
    | with_reducible apply kept_cellDrop
    | split
    | dsimp only [id]

theorem kept_sendBroken (n : Fin 16) (e : SwEntry) (s : State) {pq : List Instr}
    (hk : Kept pq s) : Kept pq (sendBroken n e s) := by
  unfold sendBroken
  repeat' first
    | with_reducible assumption
    | with_reducible apply kept_sendOneHop
    | with_reducible apply kept_freshFree

theorem kept_losePath (addCh : BitVec 12) (copy : Bool) (s : State) {pq : List Instr}
    (hk : Kept pq s) : Kept pq (losePath addCh copy s) := by
  unfold losePath
  repeat' first
    | with_reducible assumption
    | with_reducible apply kept_removePath
    | with_reducible apply kept_releaseAdd
    | with_reducible apply kept_report
    | split

theorem kept_breakEntries (n : Fin 16) (s : State) {pq : List Instr}
    (hk : Kept pq s) : Kept pq (breakEntries n s) := by
  unfold breakEntries
  repeat' first
    | with_reducible assumption
    | with_reducible apply kept_losePath
    | with_reducible apply kept_sendBroken
    | with_reducible apply kept_freeIncoming
    | with_reducible refine kept_foldl (fun _ _ _ => ?_) _ ?_
    | split

theorem kept_linkDown (n : Fin 16) (count fault : Bool) (s : State) {pq : List Instr}
    (hk : Kept pq s) : Kept pq (linkDown n count fault s) := by
  unfold linkDown
  repeat' first
    | with_reducible assumption
    | with_reducible apply kept_breakEntries
    | with_reducible apply kept_setLinkState
    | with_reducible apply kept_linkMod
    | with_reducible apply kept_raise
    | with_reducible apply kept_bumpFld
    | split

theorem kept_linkLost (n : Fin 16) (s : State) {pq : List Instr}
    (hk : Kept pq s) : Kept pq (linkLost n s) := by
  unfold linkLost
  repeat' first
    | with_reducible assumption
    | with_reducible apply kept_linkDown

theorem kept_startTraining (n : Fin 16) (s : State) {pq : List Instr}
    (hk : Kept pq s) : Kept pq (startTraining n s) := by
  unfold startTraining
  repeat' first
    | with_reducible assumption
    | with_reducible apply kept_setLinkState
    | with_reducible apply kept_linkMod
    | split
    | dsimp only [id]

theorem kept_quarantineLink (n : Fin 16) (s : State) {pq : List Instr}
    (hk : Kept pq s) : Kept pq (quarantineLink n s) := by
  unfold quarantineLink
  repeat' first
    | with_reducible assumption
    | with_reducible apply kept_breakEntries
    | with_reducible apply kept_setLinkState
    | with_reducible apply kept_linkMod
    | split

theorem kept_partnerQuarantined (n : Fin 16) (s : State) {pq : List Instr}
    (hk : Kept pq s) : Kept pq (partnerQuarantined n s) := by
  unfold partnerQuarantined
  repeat' first
    | with_reducible assumption
    | with_reducible apply kept_breakEntries
    | with_reducible apply kept_setLinkState
    | with_reducible apply kept_linkMod
    | with_reducible apply kept_raise

theorem kept_sendDiscover (n : Fin 16) (s : State) {pq : List Instr}
    (hk : Kept pq s) : Kept pq (sendDiscover n s) := by
  unfold sendDiscover
  repeat' first
    | with_reducible assumption
    | with_reducible apply kept_sendNeighbour
    | with_reducible apply kept_linkMod

theorem kept_tellPartners (s : State) {pq : List Instr}
    (hk : Kept pq s) : Kept pq (tellPartners s) := by
  unfold tellPartners
  repeat' first
    | with_reducible assumption
    | with_reducible apply kept_sendDiscover
    | with_reducible refine kept_foldl (fun _ _ _ => ?_) _ ?_
    | split

theorem kept_sendCtrl (n : Fin 16) (action reason tick : Nat) (s : State) {pq : List Instr}
    (hk : Kept pq s) : Kept pq (sendCtrl n action reason tick s) := by
  unfold sendCtrl
  repeat' first
    | with_reducible assumption
    | with_reducible apply kept_sendNeighbour

theorem kept_requestAttach (n : Fin 16) (s : State) {pq : List Instr}
    (hk : Kept pq s) : Kept pq (requestAttach n s) := by
  unfold requestAttach
  repeat' first
    | with_reducible assumption
    | with_reducible apply kept_sendCtrl
    | with_reducible apply kept_linkMod

theorem kept_checkFailed (n : Fin 16) (ok : Bool) (reason : Nat) (fault : Bool) (s : State) {pq : List Instr}
    (hk : Kept pq s) : Kept pq (checkFailed n ok reason fault s) := by
  unfold checkFailed
  repeat' first
    | with_reducible assumption
    | with_reducible apply kept_sendCtrl
    | with_reducible apply kept_raise
    | split

theorem kept_runChecks (n : Fin 16) (s : State) {pq : List Instr}
    (hk : Kept pq s) : Kept pq (runChecks n s) := by
  unfold runChecks
  repeat' first
    | with_reducible assumption
    | with_reducible apply kept_checkFailed
    | with_reducible apply kept_requestAttach
    | with_reducible apply kept_linkMod
    | split
    | dsimp only [id]

theorem kept_tryDiscovered (n : Fin 16) (s : State) {pq : List Instr}
    (hk : Kept pq s) : Kept pq (tryDiscovered n s) := by
  unfold tryDiscovered
  repeat' first
    | with_reducible assumption
    | with_reducible apply kept_runChecks
    | with_reducible apply kept_setLinkState
    | split
    | dsimp only [id]

theorem kept_announce (s : State) {pq : List Instr}
    (hk : Kept pq s) : Kept pq (announce s) := by
  unfold announce
  repeat' first
    | with_reducible assumption
    | with_reducible apply kept_sendFlood
    | dsimp only [id]
    | (simp only [kept_mk]; change Kept pq _)

theorem kept_takeId (id : BitVec 12) (st : BitVec 4) (s : State) {pq : List Instr}
    (hk : Kept pq s) : Kept pq (takeId id st s) := by
  unfold takeId
  repeat' first
    | with_reducible assumption
    | with_reducible apply kept_announce
    | (simp only [kept_mk]; change Kept pq _)

theorem kept_resolveId (id : BitVec 12) (eui : Nat) (s : State) {pq : List Instr}
    (hk : Kept pq s) : Kept pq (resolveId id eui s) := by
  unfold resolveId
  repeat' first
    | with_reducible assumption
    | with_reducible apply kept_takeId
    | with_reducible apply kept_announce
    | with_reducible apply kept_raise
    | with_reducible apply kept_report
    | split

theorem kept_forwardCell (c : Cell) (s : State) {pq : List Instr}
    (hk : Kept pq s) : Kept pq (forwardCell c s) := by
  unfold forwardCell
  repeat' first
    | with_reducible assumption
    | with_reducible apply kept_queueCell
    | with_reducible apply kept_cellDrop
    | split
    | dsimp only [id]

theorem kept_markFlood (c : Cell) (s : State) {pq : List Instr}
    (hk : Kept pq s) : Kept pq (markFlood c s) := by
  unfold markFlood
  repeat' first
    | with_reducible assumption
    | split
    | dsimp only [id]
    | (simp only [kept_mk]; change Kept pq _)

theorem kept_forwardFlood (n : Fin 16) (c : Cell) (s : State) {pq : List Instr}
    (hk : Kept pq s) : Kept pq (forwardFlood n c s) := by
  unfold forwardFlood
  repeat' first
    | with_reducible assumption
    | with_reducible apply kept_floodOn
    | split
    | dsimp only [id]

theorem kept_receiveCell (n : Fin 16) (c : Cell) (deliver : State → State) (s : State) {pq : List Instr}
    (h_deliver : ∀  s1, Kept pq s1 → Kept pq (deliver  s1)) (hk : Kept pq s) : Kept pq (receiveCell n c deliver s) := by
  unfold receiveCell
  repeat' first
    | with_reducible assumption
    | with_reducible apply h_deliver
    | with_reducible apply kept_forwardFlood
    | with_reducible apply kept_markFlood
    | with_reducible apply kept_forwardCell
    | with_reducible apply kept_cellDrop
    | split

end Sys2Proof.Machine
end

