-- ==== Sys2Proof/Laws/KeptEthOps.lean ====
section
/-!
SUPPORT. The operations of Machine/EthOps.lean keep the queue and the canonical form of the memories.
-/
namespace Sys2Proof.Machine

theorem kept_nodeNow (s : State) {pq : List Instr}
    (hk : Kept pq s) : Kept pq (nodeNow s).2 := by
  unfold nodeNow
  repeat' first
    | with_reducible assumption
    | with_reducible apply kept_freshFree

theorem kept_netMod (f : Net → Net) (s : State) {pq : List Instr}
    (hk : Kept pq s) : Kept pq (netMod f s) := by
  unfold netMod
  repeat' first
    | with_reducible assumption
    | (simp only [kept_mk]; change Kept pq _)

theorem kept_ethMod (p : Fin 4) (f : EthPort → EthPort) (s : State) {pq : List Instr}
    (hk : Kept pq s) : Kept pq (ethMod p f s) := by
  unfold ethMod
  repeat' first
    | with_reducible assumption
    | with_reducible apply kept_netMod

theorem kept_txMod (n : Nat) (f : AoipTx → AoipTx) (s : State) {pq : List Instr}
    (hk : Kept pq s) : Kept pq (txMod n f s) := by
  unfold txMod
  repeat' first
    | with_reducible assumption
    | with_reducible apply kept_netMod

theorem kept_leave (p : Fin 4) (f : TxFrame) (s : State) {pq : List Instr}
    (hk : Kept pq s) : Kept pq (leave p f s) := by
  unfold leave
  repeat' first
    | with_reducible assumption
    | with_reducible apply kept_txMod
    | with_reducible apply kept_ethMod
    | with_reducible apply kept_nodeNow
    | split

theorem kept_launch (p : Fin 4) (f : TxFrame) (s : State) {pq : List Instr}
    (hk : Kept pq s) : Kept pq (launch p f s) := by
  unfold launch
  repeat' first
    | with_reducible assumption
    | with_reducible apply kept_leave
    | with_reducible apply kept_ethMod
    | split

theorem kept_dropLate (p : Fin 4) (s : State) {pq : List Instr}
    (hk : Kept pq s) : Kept pq (dropLate p s) := by
  unfold dropLate
  repeat' first
    | with_reducible assumption
    | with_reducible apply kept_txMod
    | with_reducible apply kept_ethMod
    | with_reducible apply kept_sticky
    | with_reducible refine kept_foldl (fun _ _ _ => ?_) _ ?_

theorem kept_resumePort (p : Fin 4) (s0 : State) {pq : List Instr}
    (hk : Kept pq s0) : Kept pq (resumePort p s0) := by
  unfold resumePort
  repeat' first
    | with_reducible assumption
    | with_reducible apply kept_dropLate
    | with_reducible apply kept_leave
    | with_reducible apply kept_ethMod
    | with_reducible refine kept_foldl (fun _ _ _ => ?_) _ ?_

theorem kept_ethDown (p : Fin 4) (s : State) {pq : List Instr}
    (hk : Kept pq s) : Kept pq (ethDown p s) := by
  unfold ethDown
  repeat' first
    | with_reducible assumption
    | with_reducible apply kept_ethMod
    | with_reducible apply kept_report
    | split

theorem kept_sendPause (p : Fin 4) (quanta : Nat) (s : State) {pq : List Instr}
    (hk : Kept pq s) : Kept pq (sendPause p quanta s) := by
  unfold sendPause
  repeat' first
    | with_reducible assumption
    | with_reducible apply kept_ethMod
    | split

theorem kept_pauseMove (p : Fin 4) (was occ : Nat) (s : State) {pq : List Instr}
    (hk : Kept pq s) : Kept pq (pauseMove p was occ s) := by
  unfold pauseMove
  repeat' first
    | with_reducible assumption
    | with_reducible apply kept_sendPause
    | split

theorem kept_pauseCheck (p : Fin 4) (was : Nat) (s : State) {pq : List Instr}
    (hk : Kept pq s) : Kept pq (pauseCheck p was s) := by
  unfold pauseCheck
  repeat' first
    | with_reducible assumption
    | with_reducible apply kept_pauseMove

theorem kept_passBuffer (p : Fin 4) (n : Nat) (s : State) {pq : List Instr}
    (hk : Kept pq s) : Kept pq (passBuffer p n s) := by
  unfold passBuffer
  repeat' first
    | with_reducible assumption
    | with_reducible apply kept_pauseMove

theorem kept_rxDrop (p : Fin 4) (s : State) {pq : List Instr}
    (hk : Kept pq s) : Kept pq (rxDrop p s) := by
  unfold rxDrop
  repeat' first
    | with_reducible assumption
    | with_reducible apply kept_bump

theorem kept_enqueueRx (p : Fin 4) (f : RxFrame) (s : State) {pq : List Instr}
    (hk : Kept pq s) : Kept pq (enqueueRx p f s) := by
  unfold enqueueRx
  repeat' first
    | with_reducible assumption
    | with_reducible apply kept_rxDrop
    | with_reducible apply kept_pauseCheck
    | with_reducible apply kept_ethMod
    | split
    | dsimp only [id]

theorem kept_takeFrame (p : Fin 4) (f : RxFrame) (s : State) {pq : List Instr}
    (hk : Kept pq s) : Kept pq (takeFrame p f s) := by
  unfold takeFrame
  repeat' first
    | with_reducible assumption
    | with_reducible apply kept_pauseCheck
    | with_reducible apply kept_ethMod

end Sys2Proof.Machine
end

