-- ==== Sys2Proof/Laws/KeptPortOps.lean ====
section
/-!
SUPPORT. The operations of Machine/PortOps.lean keep the queue and the canonical form of the memories.
-/
namespace Sys2Proof.Machine

theorem kept_portMod (p : Fin 12) (f : Port → Port) (s : State) {pq : List Instr}
    (hk : Kept pq s) : Kept pq (portMod p f s) := by
  unfold portMod
  repeat' first
    | with_reducible assumption
    | dsimp only [id]
    | (simp only [kept_mk]; change Kept pq _)

theorem kept_commitMasks (p : Fin 8) (write : BitVec 4) (l : List Word) (outPos inPos : Nat) (s : State) {pq : List Instr}
    (hk : Kept pq s) : Kept pq (commitMasks p write l outPos inPos s) := by
  unfold commitMasks
  repeat' first
    | with_reducible assumption
    | with_reducible apply kept_portMod

theorem kept_commitNow (p : Fin 8) (write : BitVec 4) (l : List Word) (s : State) {pq : List Instr}
    (hk : Kept pq s) : Kept pq (commitNow p write l s) := by
  unfold commitNow
  repeat' first
    | with_reducible assumption
    | with_reducible apply kept_commitMasks
    | with_reducible apply kept_freshFree
    | split

theorem kept_commitAt (p : Fin 8) (write : BitVec 4) (l : List Word) (n : Nat) (s : State) {pq : List Instr}
    (hk : Kept pq s) : Kept pq (commitAt p write l n s) := by
  unfold commitAt
  repeat' first
    | with_reducible assumption
    | with_reducible apply kept_commitMasks
    | with_reducible apply kept_freshFree
    | split

theorem kept_beginPort (p : Fin 12) (group : Option Nat) (preclk : Nat) (s : State) {pq : List Instr}
    (hk : Kept pq s) : Kept pq (beginPort p group preclk s) := by
  unfold beginPort
  repeat' first
    | with_reducible assumption
    | with_reducible apply kept_portMod

theorem kept_enterStopped (p : Fin 12) (s : State) {pq : List Instr}
    (hk : Kept pq s) : Kept pq (enterStopped p s) := by
  unfold enterStopped
  repeat' first
    | with_reducible assumption
    | with_reducible apply kept_portMod

theorem kept_stopAtOnce (p : Fin 12) (s : State) {pq : List Instr}
    (hk : Kept pq s) : Kept pq (stopAtOnce p s) := by
  unfold stopAtOnce
  repeat' first
    | with_reducible assumption
    | with_reducible apply kept_enterStopped
    | with_reducible apply kept_complete
    | split

theorem kept_fireTrigger (k : Nat) (s : State) {pq : List Instr}
    (hk : Kept pq s) : Kept pq (fireTrigger k s) := by
  unfold fireTrigger
  repeat' first
    | with_reducible assumption
    | dsimp only [id]
    | (simp only [kept_mk]; change Kept pq _)

theorem kept_wakeWaits (p : Fin 12) (s0 : State) {pq : List Instr}
    (hk : Kept pq s0) : Kept pq (wakeWaits p s0) := by
  unfold wakeWaits
  repeat' first
    | with_reducible assumption
    | with_reducible apply kept_portMod
    | with_reducible apply kept_complete
    | with_reducible refine kept_foldl (fun _ _ _ => ?_) _ ?_
    | split
    | dsimp only [id]

theorem kept_startGroups (s1 : State) {pq : List Instr}
    (hk : Kept pq s1) : Kept pq (startGroups s1) := by
  unfold startGroups
  repeat' first
    | with_reducible assumption
    | with_reducible apply kept_wakeWaits
    | with_reducible apply kept_enterStopped
    | with_reducible apply kept_beginPort
    | with_reducible apply kept_complete
    | with_reducible refine kept_foldl (fun _ _ _ => ?_) _ ?_
    | split
    | dsimp only [id]

theorem kept_turnOn (s0 : State) {pq : List Instr}
    (hk : Kept pq s0) : Kept pq (turnOn s0) := by
  unfold turnOn
  repeat' first
    | with_reducible assumption
    | with_reducible apply kept_portMod
    | with_reducible apply kept_report
    | with_reducible refine kept_foldl (fun _ _ _ => ?_) _ ?_

theorem kept_portFault (p : Fin 12) (s : State) {pq : List Instr}
    (hk : Kept pq s) : Kept pq (portFault p s) := by
  unfold portFault
  repeat' first
    | with_reducible assumption
    | with_reducible apply kept_portMod

theorem kept_asrcSamples (x0 : Nat) (x1 : State) {pq : List Instr}
    (hk : Kept pq x1) : Kept pq (asrcSamples x0 x1).2 := by
  induction x0 generalizing x1 with
  | zero => unfold asrcSamples; assumption
  | succ _ ih =>
  unfold asrcSamples
  repeat' first
    | with_reducible assumption
    | with_reducible apply kept_freshFree
    | with_reducible apply ih

theorem kept_putSource (e : Nat) (b : Blk) (s : State) {pq : List Instr}
    (hk : Kept pq s) : Kept pq (putSource e b s) := by
  unfold putSource
  repeat' first
    | with_reducible assumption
    | dsimp only [id]
    | (simp only [kept_mk]; change Kept pq _)

theorem kept_handSlot (p : Fin 12) (pos n : Nat) (s : State) (i : Nat) {pq : List Instr}
    (hk : Kept pq s) : Kept pq (handSlot p pos n s i) := by
  unfold handSlot
  repeat' first
    | with_reducible assumption
    | with_reducible apply kept_putSource
    | with_reducible apply kept_asrcSamples
    | with_reducible apply kept_portMod
    | split
    | dsimp only [id]

theorem kept_portInputs (s0 : State) {pq : List Instr}
    (hk : Kept pq s0) : Kept pq (portInputs s0) := by
  unfold portInputs
  repeat' first
    | with_reducible assumption
    | with_reducible apply kept_handSlot
    | with_reducible apply kept_portMod
    | with_reducible refine kept_foldl (fun _ _ _ => ?_) _ ?_
    | split
    | dsimp only [id]
    | (simp only [kept_mk]; change Kept pq _)

theorem kept_asrcOut (p : Fin 12) (i : Nat) (x0 : List Nat) (x1 : State) {pq : List Instr}
    (hk : Kept pq x1) : Kept pq (asrcOut p i x0 x1).2 := by
  induction x0 generalizing x1 with
  | nil => unfold asrcOut; assumption
  | cons _ _ ih =>
  unfold asrcOut
  repeat' first
    | with_reducible assumption
    | with_reducible apply kept_freshFree
    | with_reducible apply ih
    | split

theorem kept_sendFrames (before : Vector Direct 64) (p : Fin 12) (n : Nat) (s : State) {pq : List Instr}
    (hk : Kept pq s) : Kept pq (sendFrames before p n s) := by
  unfold sendFrames
  repeat' first
    | with_reducible assumption
    | with_reducible apply kept_asrcOut
    | with_reducible apply kept_portMod
    | with_reducible refine kept_foldl (fun _ _ _ => ?_) _ ?_
    | split

theorem kept_aesSend (before : Vector Direct 64) (p : Fin 12) (n : Nat) (s : State) (i : Nat) {pq : List Instr}
    (hk : Kept pq s) : Kept pq (aesSend before p n s i) := by
  unfold aesSend
  repeat' first
    | with_reducible assumption
    | with_reducible apply kept_portMod
    | split

theorem kept_portOutputs (before : Vector Direct 64) (s0 : State) {pq : List Instr}
    (hk : Kept pq s0) : Kept pq (portOutputs before s0) := by
  unfold portOutputs
  repeat' first
    | with_reducible assumption
    | with_reducible apply kept_aesSend
    | with_reducible apply kept_sendFrames
    | with_reducible apply kept_portMod
    | with_reducible refine kept_foldl (fun _ _ _ => ?_) _ ?_
    | split

end Sys2Proof.Machine
end

