-- ==== Sys2Proof/Laws/KeptPowerOps.lean ====
section
/-!
SUPPORT. The operations of Machine/PowerOps.lean keep the queue and the canonical form of the memories.
-/
namespace Sys2Proof.Machine

theorem kept_psMod (f : PowerStage → PowerStage) (s : State) {pq : List Instr}
    (hk : Kept pq s) : Kept pq (psMod f s) := by
  unfold psMod
  repeat' first
    | with_reducible assumption
    | (simp only [kept_mk]; change Kept pq _)

theorem kept_chMod (c : Fin 8) (f : PsCh → PsCh) (s : State) {pq : List Instr}
    (hk : Kept pq s) : Kept pq (chMod c f s) := by
  unfold chMod
  repeat' first
    | with_reducible assumption
    | with_reducible apply kept_psMod

theorem kept_groupMod (g : Fin 2) (f : PsGroup → PsGroup) (s : State) {pq : List Instr}
    (hk : Kept pq s) : Kept pq (groupMod g f s) := by
  unfold groupMod
  repeat' first
    | with_reducible assumption
    | with_reducible apply kept_psMod

theorem kept_confirmHealth (c : Fin 8) (s0 : State) {pq : List Instr}
    (hk : Kept pq s0) : Kept pq (confirmHealth c s0) := by
  unfold confirmHealth
  repeat' first
    | with_reducible assumption
    | with_reducible apply kept_faultEvent
    | with_reducible apply kept_setInst
    | with_reducible refine kept_foldl (fun _ _ _ => ?_) _ ?_
    | split
    | dsimp only [id]

theorem kept_unfenceCh (c : Fin 8) (s : State) {pq : List Instr}
    (hk : Kept pq s) : Kept pq (unfenceCh c s) := by
  unfold unfenceCh
  repeat' first
    | with_reducible assumption
    | with_reducible apply kept_faultEvent
    | split
    | dsimp only [id]
    | (simp only [kept_mk]; change Kept pq _)

theorem kept_psResult (c : Fin 8) (st : Nat) (s : State) {pq : List Instr}
    (hk : Kept pq s) : Kept pq (psResult c st s) := by
  unfold psResult
  repeat' first
    | with_reducible assumption
    | with_reducible apply kept_psMod

theorem kept_psComplete (s : State) {pq : List Instr}
    (hk : Kept pq s) : Kept pq (psComplete s) := by
  unfold psComplete
  repeat' first
    | with_reducible assumption
    | with_reducible apply kept_psMod
    | with_reducible apply kept_completeAt
    | with_reducible refine kept_foldl (fun _ _ _ => ?_) _ ?_

theorem kept_muteFrom (instant : Nat) (next : PsRun) (pause : PsPause) (s : State) (c : Fin 8) {pq : List Instr}
    (hk : Kept pq s) : Kept pq (muteFrom instant next pause s c) := by
  unfold muteFrom
  repeat' first
    | with_reducible assumption
    | with_reducible apply kept_chMod
    | split
    | dsimp only [id]

theorem kept_muteCh (next : PsRun) (pause : PsPause) (s : State) (c : Fin 8) {pq : List Instr}
    (hk : Kept pq s) : Kept pq (muteCh next pause s c) := by
  unfold muteCh
  repeat' first
    | with_reducible assumption
    | with_reducible apply kept_muteFrom
    | with_reducible apply kept_freshFree

theorem kept_muteAll (next : PsRun) (pause : PsPause) (s : State) {pq : List Instr}
    (hk : Kept pq s) : Kept pq (muteAll next pause s) := by
  unfold muteAll
  repeat' first
    | with_reducible assumption
    | with_reducible apply kept_muteCh
    | with_reducible refine kept_foldl (fun _ _ _ => ?_) _ ?_

theorem kept_muteAllNow (next : PsRun) (pause : PsPause) (s : State) {pq : List Instr}
    (hk : Kept pq s) : Kept pq (muteAllNow next pause s) := by
  unfold muteAllNow
  repeat' first
    | with_reducible assumption
    | with_reducible apply kept_muteFrom
    | with_reducible refine kept_foldl (fun _ _ _ => ?_) _ ?_

theorem kept_endMutes (s : State) {pq : List Instr}
    (hk : Kept pq s) : Kept pq (endMutes s) := by
  unfold endMutes
  repeat' first
    | with_reducible assumption
    | with_reducible apply kept_chMod
    | with_reducible refine kept_foldl (fun _ _ _ => ?_) _ ?_
    | split

end Sys2Proof.Machine
end

