-- ==== Sys2Proof/Laws/KeptFence.lean ====
section
/-!
SUPPORT. The operations of Machine/Fence.lean keep the queue and the canonical form of the memories.
-/
namespace Sys2Proof.Machine

theorem kept_isolate (u : FenceUnit) (s : State) {pq : List Instr}
    (hk : Kept pq s) : Kept pq (isolate u s) := by
  unfold isolate
  repeat' first
    | with_reducible assumption
    | with_reducible apply kept_stopAtOnce
    | with_reducible apply kept_ethDown
    | with_reducible apply kept_quarantineLink
    | split

theorem kept_settleN (x0 : Nat) (x1 : State) {pq : List Instr}
    (hk : Kept pq x1) : Kept pq (settleN x0 x1) := by
  induction x0 generalizing x1 with
  | zero => unfold settleN; assumption
  | succ _ ih =>
  unfold settleN
  repeat' first
    | with_reducible assumption
    | with_reducible apply kept_isolate
    | with_reducible apply ih
    | split
    | dsimp only [id]
    | (simp only [kept_mk]; change Kept pq _)

theorem kept_haltEngine (s : State) {pq : List Instr}
    (hk : Kept pq s) : Kept pq (haltEngine s) := by
  unfold haltEngine
  repeat' first
    | with_reducible assumption
    | with_reducible apply kept_muteAll
    | with_reducible apply kept_psComplete
    | with_reducible apply kept_psResult
    | with_reducible apply kept_stopAtOnce
    | with_reducible refine kept_foldl (fun _ _ _ => ?_) _ ?_
    | dsimp only [id]
    | (simp only [kept_mk]; change Kept pq _)

theorem kept_settle (s : State) {pq : List Instr}
    (hk : Kept pq s) : Kept pq (settle s) := by
  unfold settle
  repeat' first
    | with_reducible assumption
    | with_reducible apply kept_haltEngine
    | with_reducible apply kept_settleN
    | with_reducible apply kept_tellPartners
    | split

theorem kept_fin (s : State) {pq : List Instr}
    (hk : Kept pq s) : KeptOut pq (fin s) := by
  unfold fin
  repeat' first
    | with_reducible assumption
    | with_reducible apply kept_settle
    | with_reducible apply keptOut_next

end Sys2Proof.Machine
end

