-- ==== Sys2Proof/Laws/KeptClock.lean ====
section
/-!
SUPPORT. The operations of Machine/Clock.lean keep the queue and the canonical form of the memories.
-/
namespace Sys2Proof.Machine

theorem kept_clk (f : Clock → Clock) (s : State) {pq : List Instr}
    (hk : Kept pq s) : Kept pq (clk f s) := by
  unfold clk
  repeat' first
    | with_reducible assumption
    | (simp only [kept_mk]; change Kept pq _)

theorem kept_candMod (n : Fin 8) (f : Cand → Cand) (s : State) {pq : List Instr}
    (hk : Kept pq s) : Kept pq (candMod n f s) := by
  unfold candMod
  repeat' first
    | with_reducible assumption
    | with_reducible apply kept_clk

theorem kept_endForce (s : State) {pq : List Instr}
    (hk : Kept pq s) : Kept pq (endForce s) := by
  unfold endForce
  repeat' first
    | with_reducible assumption
    | with_reducible apply kept_clk
    | with_reducible apply kept_report
    | split

theorem kept_reselect (s0 : State) {pq : List Instr}
    (hk : Kept pq s0) : Kept pq (reselect s0) := by
  unfold reselect
  repeat' first
    | with_reducible assumption
    | with_reducible apply kept_endForce
    | with_reducible apply kept_clk
    | with_reducible apply kept_raise
    | with_reducible apply kept_sticky
    | split
    | dsimp only [id]

theorem kept_disqualify (n : Fin 8) (st : CandState) (s : State) {pq : List Instr}
    (hk : Kept pq s) : Kept pq (disqualify n st s) := by
  unfold disqualify
  repeat' first
    | with_reducible assumption
    | with_reducible apply kept_candMod
    | with_reducible apply kept_sticky
    | split
    | dsimp only [id]

theorem kept_candSecond (n : Fin 8) (m : CandMeasure) (s : State) {pq : List Instr}
    (hk : Kept pq s) : Kept pq (candSecond n m s) := by
  unfold candSecond
  repeat' first
    | with_reducible assumption
    | with_reducible apply kept_disqualify
    | with_reducible apply kept_candMod
    | with_reducible apply kept_raise
    | with_reducible apply kept_sticky
    | split
    | dsimp only [id]

theorem kept_crossCheck (s : State) {pq : List Instr}
    (hk : Kept pq s) : Kept pq (crossCheck s) := by
  unfold crossCheck
  repeat' first
    | with_reducible assumption
    | with_reducible apply kept_disqualify
    | with_reducible apply kept_candMod
    | with_reducible apply kept_clk
    | with_reducible apply kept_raise
    | with_reducible apply kept_sticky
    | split
    | dsimp only [id]

theorem kept_learnSecond (s : State) {pq : List Instr}
    (hk : Kept pq s) : Kept pq (learnSecond s) := by
  unfold learnSecond
  repeat' first
    | with_reducible assumption
    | with_reducible apply kept_clk
    | with_reducible apply kept_freshFree
    | split

theorem kept_execRefSecond (m : SecondIn) (s0 : State) {pq : List Instr}
    (hk : Kept pq s0) : KeptOut pq (execRefSecond m s0) := by
  unfold execRefSecond
  repeat' first
    | with_reducible assumption
    | with_reducible apply kept_learnSecond
    | with_reducible apply kept_crossCheck
    | with_reducible apply kept_candSecond
    | with_reducible apply kept_reselect
    | with_reducible apply kept_clk
    | with_reducible apply kept_fin
    | with_reducible apply kept_freshFree
    | with_reducible refine kept_foldl (fun _ _ _ => ?_) _ ?_
    | split

theorem kept_execRefInputFault (slot : Fin 8) (fault : RefFault) (s : State) {pq : List Instr}
    (hk : Kept pq s) : KeptOut pq (execRefInputFault slot fault s) := by
  unfold execRefInputFault
  repeat' first
    | with_reducible assumption
    | with_reducible apply kept_disqualify
    | with_reducible apply kept_reselect
    | with_reducible apply kept_fin
    | with_reducible apply keptOut_next
    | split

theorem kept_execRefSignalDetect (slot : Fin 8) (s : State) {pq : List Instr}
    (hk : Kept pq s) : KeptOut pq (execRefSignalDetect slot s) := by
  unfold execRefSignalDetect
  repeat' first
    | with_reducible assumption
    | with_reducible apply kept_candMod
    | with_reducible apply keptOut_next
    | split

theorem kept_refreshCands (s : State) {pq : List Instr}
    (hk : Kept pq s) : Kept pq (refreshCands s) := by
  unfold refreshCands
  repeat' first
    | with_reducible assumption
    | with_reducible apply kept_candMod
    | with_reducible refine kept_foldl (fun _ _ _ => ?_) _ ?_
    | split

theorem kept_writeRefCfg (n : Fin 8) (value : Word) (s : State) {pq : List Instr}
    (hk : Kept pq s) : Kept pq (writeRefCfg n value s) := by
  unfold writeRefCfg
  repeat' first
    | with_reducible assumption
    | with_reducible apply kept_refreshCands
    | with_reducible apply kept_reselect
    | with_reducible apply kept_candMod
    | with_reducible apply kept_regSet
    | split

theorem kept_dpllStep (bw dt : Nat) (carriesTime : Bool) (e : Int) (s : State) {pq : List Instr}
    (hk : Kept pq s) : Kept pq (dpllStep bw dt carriesTime e s) := by
  unfold dpllStep
  repeat' first
    | with_reducible assumption
    | with_reducible apply kept_clk
    | with_reducible apply kept_raise
    | with_reducible apply kept_sticky
    | split
    | dsimp only [id]

theorem kept_loopUpdate (phaseNs : Int) (s : State) {pq : List Instr}
    (hk : Kept pq s) : Kept pq (loopUpdate phaseNs s) := by
  unfold loopUpdate
  repeat' first
    | with_reducible assumption
    | with_reducible apply kept_dpllStep
    | with_reducible apply kept_clk
    | split

theorem kept_execDpllUpdate (phaseNs : Int) (s : State) {pq : List Instr}
    (hk : Kept pq s) : KeptOut pq (execDpllUpdate phaseNs s) := by
  unfold execDpllUpdate
  repeat' first
    | with_reducible assumption
    | with_reducible apply kept_loopUpdate
    | with_reducible apply kept_clk
    | with_reducible apply kept_fin

theorem kept_gridMoved (ns : Int) (s : State) {pq : List Instr}
    (hk : Kept pq s) : Kept pq (gridMoved ns s) := by
  unfold gridMoved
  repeat' first
    | with_reducible assumption
    | with_reducible apply kept_clk

theorem kept_loadTick (k : Nat) (ns : Int) (s0 : State) {pq : List Instr}
    (hk : Kept pq s0) : Kept pq (loadTick k ns s0) := by
  unfold loadTick
  repeat' first
    | with_reducible assumption
    | with_reducible apply kept_gridMoved
    | split
    | dsimp only [id]
    | (simp only [kept_mk]; change Kept pq _)

theorem kept_fabAlign (s : State) {pq : List Instr}
    (hk : Kept pq s) : Kept pq (fabAlign s) := by
  unfold fabAlign
  repeat' first
    | with_reducible assumption
    | with_reducible apply kept_loadTick
    | split

theorem kept_alignAt (units : Nat) (s : State) {pq : List Instr}
    (hk : Kept pq s) : Kept pq (alignAt units s) := by
  unfold alignAt
  repeat' first
    | with_reducible assumption
    | with_reducible apply kept_loadTick

theorem kept_alignEdge (s : State) {pq : List Instr}
    (hk : Kept pq s) : Kept pq (alignEdge s) := by
  unfold alignEdge
  repeat' first
    | with_reducible assumption
    | with_reducible apply kept_loadTick
    | with_reducible apply kept_clk

theorem kept_execTickAlignment (slot : Fin 8) (time : TimeVal) (s : State) {pq : List Instr}
    (hk : Kept pq s) : KeptOut pq (execTickAlignment slot time s) := by
  unfold execTickAlignment
  repeat' first
    | with_reducible assumption
    | with_reducible apply kept_alignEdge
    | with_reducible apply kept_alignAt
    | with_reducible apply kept_fabAlign
    | with_reducible apply keptOut_next
    | split

theorem kept_execAlignWaitExpiry (s : State) {pq : List Instr}
    (hk : Kept pq s) : KeptOut pq (execAlignWaitExpiry s) := by
  unfold execAlignWaitExpiry
  repeat' first
    | with_reducible assumption
    | with_reducible apply kept_alignAt
    | with_reducible apply keptOut_next
    | split

theorem kept_execTimeSet (h : CmdHdr) (seconds : BitVec 64) (s : State) {pq : List Instr}
    (hk : Kept pq s) : KeptOut pq (execTimeSet h seconds s) := by
  unfold execTimeSet
  repeat' first
    | with_reducible assumption
    | with_reducible apply kept_clk
    | with_reducible apply kept_fin
    | with_reducible apply kept_untimedCmd
    | with_reducible apply kept_complete
    | with_reducible intro _
    | split

theorem kept_execTimeSync (link : Fin 16) (cell : Cell) (s : State) {pq : List Instr}
    (hk : Kept pq s) : KeptOut pq (execTimeSync link cell s) := by
  unfold execTimeSync
  repeat' first
    | with_reducible assumption
    | with_reducible apply kept_clk
    | with_reducible apply kept_fin
    | with_reducible apply kept_receiveCell
    | with_reducible intro _

theorem kept_anchorChanged (old : Option AnchorEntry) (s : State) {pq : List Instr}
    (hk : Kept pq s) : Kept pq (anchorChanged old s) := by
  unfold anchorChanged
  repeat' first
    | with_reducible assumption
    | with_reducible apply kept_clk
    | with_reducible apply kept_report
    | with_reducible apply kept_sticky
    | split

theorem kept_anchorView (s : State) {pq : List Instr}
    (hk : Kept pq s) : Kept pq (anchorView s) := by
  unfold anchorView
  repeat' first
    | with_reducible assumption
    | with_reducible apply kept_anchorChanged
    | with_reducible apply kept_reselect
    | with_reducible apply kept_clk

theorem kept_execAnchorLost (s : State) {pq : List Instr}
    (hk : Kept pq s) : KeptOut pq (execAnchorLost s) := by
  unfold execAnchorLost
  repeat' first
    | with_reducible assumption
    | with_reducible apply kept_anchorChanged
    | with_reducible apply kept_reselect
    | with_reducible apply kept_clk
    | with_reducible apply kept_fin
    | with_reducible apply kept_raise
    | with_reducible apply keptOut_next
    | split
    | dsimp only [id]

theorem kept_execAnchorClaim (s : State) {pq : List Instr}
    (hk : Kept pq s) : KeptOut pq (execAnchorClaim s) := by
  unfold execAnchorClaim
  repeat' first
    | with_reducible assumption
    | with_reducible apply kept_anchorChanged
    | with_reducible apply kept_reselect
    | with_reducible apply kept_clk
    | with_reducible apply kept_fin
    | with_reducible apply keptOut_next
    | split

theorem kept_alignPulse (m : Fin 2) (s : State) {pq : List Instr}
    (hk : Kept pq s) : Kept pq (alignPulse m s) := by
  unfold alignPulse
  repeat' first
    | with_reducible assumption
    | with_reducible apply kept_clk

theorem kept_reloadPulse (m : Fin 2) (s : State) {pq : List Instr}
    (hk : Kept pq s) : Kept pq (reloadPulse m s) := by
  unfold reloadPulse
  repeat' first
    | with_reducible assumption
    | with_reducible apply kept_clk

theorem kept_alignPulses (s : State) {pq : List Instr}
    (hk : Kept pq s) : Kept pq (alignPulses s) := by
  unfold alignPulses
  repeat' first
    | with_reducible assumption
    | with_reducible apply kept_clk

theorem kept_advancePulses (s : State) {pq : List Instr}
    (hk : Kept pq s) : Kept pq (advancePulses s) := by
  unfold advancePulses
  repeat' first
    | with_reducible assumption
    | with_reducible apply kept_clk

theorem kept_setPll (p : Fin 6) (x : Pll) (s : State) {pq : List Instr}
    (hk : Kept pq s) : Kept pq (setPll p x s) := by
  unfold setPll
  repeat' first
    | with_reducible assumption
    | with_reducible apply kept_clk

theorem kept_stopMasters (s : State) {pq : List Instr}
    (hk : Kept pq s) : Kept pq (stopMasters s) := by
  unfold stopMasters
  repeat' first
    | with_reducible assumption
    | with_reducible apply kept_portFault
    | with_reducible apply kept_portMod
    | with_reducible refine kept_foldl (fun _ _ _ => ?_) _ ?_
    | split

theorem kept_execPllUnlock (pll : Fin 6) (s : State) {pq : List Instr}
    (hk : Kept pq s) : KeptOut pq (execPllUnlock pll s) := by
  unfold execPllUnlock
  repeat' first
    | with_reducible assumption
    | with_reducible apply kept_stopMasters
    | with_reducible apply kept_setPll
    | with_reducible apply kept_fin
    | with_reducible apply kept_linkLost
    | with_reducible apply kept_raise
    | with_reducible apply kept_sticky
    | with_reducible refine kept_foldl (fun _ _ _ => ?_) _ ?_
    | split

theorem kept_lockPll (pll : Fin 6) (step : Bool) (fails : Nat) (measured : BitVec 24) (s : State) {pq : List Instr}
    (hk : Kept pq s) : Kept pq (lockPll pll step fails measured s).2 := by
  unfold lockPll
  repeat' first
    | with_reducible assumption
    | with_reducible apply kept_setPll
    | with_reducible apply kept_raise
    | with_reducible apply kept_sticky
    | split
    | dsimp only [id]
    | (simp only [kept_mk]; change Kept pq _)

theorem kept_domainStarts (pll : Fin 6) (s : State) {pq : List Instr}
    (hk : Kept pq s) : Kept pq (domainStarts pll s) := by
  unfold domainStarts
  repeat' first
    | with_reducible assumption
    | with_reducible apply kept_alignPulses
    | with_reducible apply kept_clk
    | split

theorem kept_execPllLock (pll : Fin 6) (fails : Nat) (measured : BitVec 24) (s : State) {pq : List Instr}
    (hk : Kept pq s) : KeptOut pq (execPllLock pll fails measured s) := by
  unfold execPllLock
  repeat' first
    | with_reducible assumption
    | with_reducible apply kept_domainStarts
    | with_reducible apply kept_lockPll
    | with_reducible apply kept_fin
    | with_reducible apply keptOut_next
    | split

theorem kept_startMeasure (value : Word) (s : State) {pq : List Instr}
    (hk : Kept pq s) : Kept pq (startMeasure value s) := by
  unfold startMeasure
  repeat' first
    | with_reducible assumption
    | with_reducible apply kept_clk
    | with_reducible apply kept_regSet
    | split

theorem kept_execPllMeasDone (freqKhz : BitVec 24) (s : State) {pq : List Instr}
    (hk : Kept pq s) : KeptOut pq (execPllMeasDone freqKhz s) := by
  unfold execPllMeasDone
  repeat' first
    | with_reducible assumption
    | with_reducible apply kept_clk
    | with_reducible apply kept_regSetFld
    | with_reducible apply kept_regSet
    | with_reducible apply keptOut_next
    | split

theorem kept_execRefForce (h : CmdHdr) (tick : BitVec 64) (cand : Byte) (s : State) {pq : List Instr}
    (hk : Kept pq s) : KeptOut pq (execRefForce h tick cand s) := by
  unfold execRefForce
  repeat' first
    | with_reducible assumption
    | with_reducible apply kept_fin
    | with_reducible apply kept_noPre
    | with_reducible apply kept_badTimed
    | with_reducible apply kept_timedCmd
    | with_reducible intro _
    | split

theorem kept_applyRefForce (cand : Option (Fin 8)) (s : State) {pq : List Instr}
    (hk : Kept pq s) : Kept pq (applyRefForce cand s).2 := by
  unfold applyRefForce
  repeat' first
    | with_reducible assumption
    | with_reducible apply kept_reselect
    | with_reducible apply kept_candMod
    | with_reducible apply kept_clk
    | split
    | dsimp only [id]

theorem kept_execRefQuery (h : CmdHdr) (resultAddr : BitVec 64) (s : State) {pq : List Instr}
    (hk : Kept pq s) : KeptOut pq (execRefQuery h resultAddr s) := by
  unfold execRefQuery
  repeat' first
    | with_reducible assumption
    | with_reducible apply kept_clk
    | with_reducible apply kept_fin
    | with_reducible apply kept_untimedCmd
    | with_reducible intro _

theorem kept_runRefQueries (s : State) {pq : List Instr}
    (hk : Kept pq s) : Kept pq (runRefQueries s) := by
  unfold runRefQueries
  repeat' first
    | with_reducible assumption
    | with_reducible apply kept_clk
    | with_reducible apply kept_resultThen
    | with_reducible refine kept_foldl (fun _ _ _ => ?_) _ ?_

theorem kept_writePulseCfg (m : Fin 2) (value : Word) (s : State) {pq : List Instr}
    (hk : Kept pq s) : Kept pq (writePulseCfg m value s) := by
  unfold writePulseCfg
  repeat' first
    | with_reducible assumption
    | with_reducible apply kept_alignPulse
    | with_reducible apply kept_regSet
    | split

theorem kept_execPulseAlign (h : CmdHdr) (tick : BitVec 64) (mask : BitVec 10) (s : State) {pq : List Instr}
    (hk : Kept pq s) : KeptOut pq (execPulseAlign h tick mask s) := by
  unfold execPulseAlign
  repeat' first
    | with_reducible assumption
    | with_reducible apply kept_fin
    | with_reducible apply kept_noPre
    | with_reducible apply kept_timedCmd
    | with_reducible intro _

theorem kept_applyPulseAlign (mask : BitVec 10) (s : State) {pq : List Instr}
    (hk : Kept pq s) : Kept pq (applyPulseAlign mask s) := by
  unfold applyPulseAlign
  repeat' first
    | with_reducible assumption
    | with_reducible apply kept_reloadPulse
    | with_reducible refine kept_foldl (fun _ _ _ => ?_) _ ?_
    | split

end Sys2Proof.Machine
end

