-- ==== Sys2Proof/Laws/KeptLink.lean ====
section
/-!
SUPPORT. The operations of Machine/Link.lean keep the queue and the canonical form of the memories.
-/
namespace Sys2Proof.Machine

theorem kept_execLinkSignalDetect (link : Fin 16) (s : State) {pq : List Instr}
    (hk : Kept pq s) : KeptOut pq (execLinkSignalDetect link s) := by
  unfold execLinkSignalDetect
  repeat' first
    | with_reducible assumption
    | with_reducible apply kept_fin
    | with_reducible apply kept_startTraining
    | with_reducible apply kept_linkMod

theorem kept_execLinkBlockLock (link : Fin 16) (s : State) {pq : List Instr}
    (hk : Kept pq s) : KeptOut pq (execLinkBlockLock link s) := by
  unfold execLinkBlockLock
  repeat' first
    | with_reducible assumption
    | with_reducible apply kept_fin
    | with_reducible apply kept_linkMod

theorem kept_execLinkEqComplete (link : Fin 16) (ctle : BitVec 4) (s : State) {pq : List Instr}
    (hk : Kept pq s) : KeptOut pq (execLinkEqComplete link ctle s) := by
  unfold execLinkEqComplete
  repeat' first
    | with_reducible assumption
    | with_reducible apply kept_fin
    | with_reducible apply kept_linkMod

theorem kept_execTrainingMarker (link : Fin 16) (m : TrainMarker) (w : FirWish) (s : State) {pq : List Instr}
    (hk : Kept pq s) : KeptOut pq (execTrainingMarker link m w s) := by
  unfold execTrainingMarker
  repeat' first
    | with_reducible assumption
    | with_reducible apply kept_fin
    | with_reducible apply kept_linkMod

theorem kept_execTrainTimeout (link : Fin 16) (s : State) {pq : List Instr}
    (hk : Kept pq s) : KeptOut pq (execTrainTimeout link s) := by
  unfold execTrainTimeout
  repeat' first
    | with_reducible assumption
    | with_reducible apply kept_fin
    | with_reducible apply kept_linkDown
    | with_reducible apply kept_linkMod
    | with_reducible apply kept_raise
    | with_reducible apply kept_sticky
    | with_reducible apply kept_bumpFld
    | with_reducible apply keptOut_next
    | split

theorem kept_execRetryWait (link : Fin 16) (s : State) {pq : List Instr}
    (hk : Kept pq s) : KeptOut pq (execRetryWait link s) := by
  unfold execRetryWait
  repeat' first
    | with_reducible assumption
    | with_reducible apply kept_fin
    | with_reducible apply kept_startTraining
    | with_reducible apply kept_linkMod
    | with_reducible apply keptOut_next
    | split

theorem kept_execRetrainSquelchEnd (link : Fin 16) (s : State) {pq : List Instr}
    (hk : Kept pq s) : KeptOut pq (execRetrainSquelchEnd link s) := by
  unfold execRetrainSquelchEnd
  repeat' first
    | with_reducible assumption
    | with_reducible apply kept_fin
    | with_reducible apply kept_startTraining
    | with_reducible apply kept_linkMod
    | with_reducible apply keptOut_next
    | split

theorem kept_execLinkSignalLoss (link : Fin 16) (signalGone : Bool) (s : State) {pq : List Instr}
    (hk : Kept pq s) : KeptOut pq (execLinkSignalLoss link signalGone s) := by
  unfold execLinkSignalLoss
  repeat' first
    | with_reducible assumption
    | with_reducible apply kept_fin
    | with_reducible apply kept_linkLost
    | with_reducible apply kept_linkMod

theorem kept_missMarker (n : Fin 16) (s : State) {pq : List Instr}
    (hk : Kept pq s) : Kept pq (missMarker n s) := by
  unfold missMarker
  repeat' first
    | with_reducible assumption
    | with_reducible apply kept_linkLost
    | with_reducible apply kept_linkMod
    | with_reducible apply kept_sticky
    | with_reducible apply kept_bump
    | split
    | dsimp only [id]

theorem kept_execMarkerWindowExpiry (link : Fin 16) (s : State) {pq : List Instr}
    (hk : Kept pq s) : KeptOut pq (execMarkerWindowExpiry link s) := by
  unfold execMarkerWindowExpiry
  repeat' first
    | with_reducible assumption
    | with_reducible apply kept_missMarker
    | with_reducible apply kept_fin

theorem kept_execFrameMarker (link : Fin 16) (m : FrameMarker) (s : State) {pq : List Instr}
    (hk : Kept pq s) : KeptOut pq (execFrameMarker link m s) := by
  unfold execFrameMarker
  repeat' first
    | with_reducible assumption
    | with_reducible apply kept_missMarker
    | with_reducible apply kept_fin
    | with_reducible apply kept_tryDiscovered
    | with_reducible apply kept_partnerQuarantined
    | with_reducible apply kept_linkMod
    | with_reducible apply keptOut_next
    | split
    | dsimp only [id]

theorem kept_execSlotReceived (link : Fin 16) (x : SlotIn) (s : State) {pq : List Instr}
    (hk : Kept pq s) : KeptOut pq (execSlotReceived link x s) := by
  unfold execSlotReceived
  repeat' first
    | with_reducible assumption
    | with_reducible apply kept_fin
    | with_reducible apply kept_switchSlot
    | with_reducible apply kept_linkMod
    | with_reducible apply kept_sticky
    | with_reducible apply kept_bump
    | with_reducible apply keptOut_next
    | split
    | dsimp only [id]

theorem kept_execLinkBer (link : Fin 16) (s : State) {pq : List Instr}
    (hk : Kept pq s) : KeptOut pq (execLinkBer link s) := by
  unfold execLinkBer
  repeat' first
    | with_reducible assumption
    | with_reducible apply kept_fin
    | with_reducible apply kept_linkMod
    | with_reducible apply kept_raise
    | split
    | with_reducible apply keptOut_next

theorem kept_execSubFrameStart (link : Fin 16) (j : Fin 16) (s : State) {pq : List Instr}
    (hk : Kept pq s) : KeptOut pq (execSubFrameStart link j s) := by
  unfold execSubFrameStart
  repeat' first
    | with_reducible assumption
    | with_reducible apply kept_fin
    | with_reducible apply kept_linkMod
    | with_reducible apply kept_freshFree
    | with_reducible apply keptOut_next
    | split
    | dsimp only [id]

theorem kept_execCellReceived (link : Fin 16) (cell : Cell) (crc : Word) (s : State) {pq : List Instr}
    (hk : Kept pq s) : KeptOut pq (execCellReceived link cell crc s) := by
  unfold execCellReceived
  repeat' first
    | with_reducible assumption
    | with_reducible apply kept_fin
    | with_reducible apply kept_receiveCell
    | with_reducible apply kept_cellDrop
    | with_reducible apply kept_sticky
    | with_reducible apply kept_bump
    | with_reducible apply keptOut_next
    | with_reducible intro _
    | split
    | dsimp only [id]

theorem kept_execDiscover (link : Fin 16) (cell : Cell) (s : State) {pq : List Instr}
    (hk : Kept pq s) : KeptOut pq (execDiscover link cell s) := by
  unfold execDiscover
  repeat' first
    | with_reducible assumption
    | with_reducible apply kept_fin
    | with_reducible apply kept_receiveCell
    | with_reducible apply kept_resolveId
    | with_reducible apply kept_tryDiscovered
    | with_reducible apply kept_runChecks
    | with_reducible apply kept_linkMod
    | with_reducible intro _
    | split
    | dsimp only [id]

theorem kept_execDiscoverSend (link : Fin 16) (s : State) {pq : List Instr}
    (hk : Kept pq s) : KeptOut pq (execDiscoverSend link s) := by
  unfold execDiscoverSend
  repeat' first
    | with_reducible assumption
    | with_reducible apply kept_fin
    | with_reducible apply kept_sendDiscover
    | with_reducible apply keptOut_next
    | split
    | dsimp only [id]

theorem kept_execLinkCtrlCell (link : Fin 16) (cell : Cell) (s : State) {pq : List Instr}
    (hk : Kept pq s) : KeptOut pq (execLinkCtrlCell link cell s) := by
  unfold execLinkCtrlCell
  repeat' first
    | with_reducible assumption
    | with_reducible apply kept_fin
    | with_reducible apply kept_receiveCell
    | with_reducible apply kept_sendCtrl
    | with_reducible apply kept_linkMod
    | with_reducible intro _
    | split
    | dsimp only [id]

theorem kept_execAttachReqRepeat (link : Fin 16) (s : State) {pq : List Instr}
    (hk : Kept pq s) : KeptOut pq (execAttachReqRepeat link s) := by
  unfold execAttachReqRepeat
  repeat' first
    | with_reducible assumption
    | with_reducible apply kept_fin
    | with_reducible apply kept_requestAttach
    | with_reducible apply keptOut_next
    | split
    | dsimp only [id]

theorem kept_execIdAnnounce (link : Fin 16) (cell : Cell) (s : State) {pq : List Instr}
    (hk : Kept pq s) : KeptOut pq (execIdAnnounce link cell s) := by
  unfold execIdAnnounce
  repeat' first
    | with_reducible assumption
    | with_reducible apply kept_fin
    | with_reducible apply kept_receiveCell
    | with_reducible apply kept_resolveId
    | with_reducible intro _
    | split
    | dsimp only [id]
    | (simp only [kept_mk]; change Kept pq _)

theorem kept_execIdAnnouncePeriodic (s : State) {pq : List Instr}
    (hk : Kept pq s) : KeptOut pq (execIdAnnouncePeriodic s) := by
  unfold execIdAnnouncePeriodic
  repeat' first
    | with_reducible assumption
    | with_reducible apply kept_fin
    | with_reducible apply kept_announce
    | with_reducible apply keptOut_next
    | split
    | (simp only [kept_mk]; change Kept _ _)

theorem kept_execLinkCmd (h : CmdHdr) (a : LinkCmdArgs) (s : State) {pq : List Instr}
    (hk : Kept pq s) : KeptOut pq (execLinkCmd h a s) := by
  unfold execLinkCmd
  repeat' first
    | with_reducible assumption
    | with_reducible apply kept_fin
    | with_reducible apply kept_noPre
    | with_reducible apply kept_badTimed
    | with_reducible apply kept_timedCmd
    | with_reducible intro _
    | split

theorem kept_applyLinkCmd (a : LinkCmdArgs) (s : State) {pq : List Instr}
    (hk : Kept pq s) : Kept pq (applyLinkCmd a s).2 := by
  unfold applyLinkCmd
  repeat' first
    | with_reducible assumption
    | with_reducible apply kept_requestAttach
    | with_reducible apply kept_sendCtrl
    | with_reducible apply kept_startTraining
    | with_reducible apply kept_linkDown
    | with_reducible apply kept_breakEntries
    | with_reducible apply kept_linkMod
    | split
    | dsimp only [id]

theorem kept_execLinkQuery (h : CmdHdr) (link : Byte) (resultAddr : BitVec 64) (s : State) {pq : List Instr}
    (hk : Kept pq s) : KeptOut pq (execLinkQuery h link resultAddr s) := by
  unfold execLinkQuery
  repeat' first
    | with_reducible assumption
    | with_reducible apply kept_fin
    | with_reducible apply kept_untimedCmd
    | with_reducible intro _
    | split
    | (simp only [kept_mk]; change Kept pq _)

theorem kept_runLinkQueries (s : State) {pq : List Instr}
    (hk : Kept pq s) : Kept pq (runLinkQueries s) := by
  unfold runLinkQueries
  repeat' first
    | with_reducible assumption
    | with_reducible apply kept_resultThen
    | with_reducible refine kept_foldl (fun _ _ _ => ?_) _ ?_
    | (simp only [kept_mk]; change Kept pq _)

theorem kept_execEyeSurvey (h : CmdHdr) (linkMask : BitVec 16) (s : State) {pq : List Instr}
    (hk : Kept pq s) : KeptOut pq (execEyeSurvey h linkMask s) := by
  unfold execEyeSurvey
  repeat' first
    | with_reducible assumption
    | with_reducible apply kept_fin
    | with_reducible apply kept_untimedCmd
    | with_reducible apply kept_complete
    | with_reducible apply kept_linkMod
    | with_reducible refine kept_foldl (fun _ _ _ => ?_) _ ?_
    | with_reducible intro _
    | split
    | dsimp only [id]
    | (simp only [kept_mk]; change Kept pq _)

theorem kept_setEye (n : Fin 16) (h v : Byte) (s : State) {pq : List Instr}
    (hk : Kept pq s) : Kept pq (setEye n h v s) := by
  unfold setEye
  repeat' first
    | with_reducible assumption
    | with_reducible apply kept_linkMod
    | with_reducible apply kept_regSet

theorem kept_execEyeSurveyComplete (r : List EyeResult) (s : State) {pq : List Instr}
    (hk : Kept pq s) : KeptOut pq (execEyeSurveyComplete r s) := by
  unfold execEyeSurveyComplete
  repeat' first
    | with_reducible assumption
    | with_reducible apply kept_setEye
    | with_reducible apply kept_fin
    | with_reducible apply kept_complete
    | with_reducible apply kept_linkMod
    | with_reducible apply keptOut_next
    | with_reducible refine kept_foldl (fun _ _ _ => ?_) _ ?_
    | split
    | (simp only [kept_mk]; change Kept pq _)

theorem kept_execNodeIdSet (h : CmdHdr) (id : BitVec 12) (s : State) {pq : List Instr}
    (hk : Kept pq s) : KeptOut pq (execNodeIdSet h id s) := by
  unfold execNodeIdSet
  repeat' first
    | with_reducible assumption
    | with_reducible apply kept_fin
    | with_reducible apply kept_takeId
    | with_reducible apply kept_untimedCmd
    | with_reducible apply kept_complete
    | with_reducible intro _
    | split
    | (simp only [kept_mk]; change Kept pq _)

theorem kept_serdesIdle (s : State) {pq : List Instr}
    (hk : Kept pq s) : Kept pq (serdesIdle s) := by
  unfold serdesIdle
  repeat' first
    | with_reducible assumption
    | split
    | dsimp only [id]
    | (simp only [kept_mk]; change Kept pq _)

theorem kept_writeLinkCtrl (n : Fin 16) (v : Word) (s : State) {pq : List Instr}
    (hk : Kept pq s) : Kept pq (writeLinkCtrl n v s) := by
  unfold writeLinkCtrl
  repeat' first
    | with_reducible assumption
    | with_reducible apply kept_serdesIdle
    | with_reducible apply kept_startTraining
    | with_reducible apply kept_linkDown
    | with_reducible apply kept_linkMod
    | with_reducible apply kept_regSet
    | split

theorem kept_linkBoundary (n : Fin 16) (s : State) {pq : List Instr}
    (hk : Kept pq s) : Kept pq (linkBoundary n s) := by
  unfold linkBoundary
  repeat' first
    | with_reducible assumption
    | with_reducible apply kept_announce
    | with_reducible apply kept_linkDown
    | with_reducible apply kept_breakEntries
    | with_reducible apply kept_setLinkState
    | with_reducible apply kept_linkMod
    | split
    | dsimp only [id]
    | (simp only [kept_mk]; change Kept pq _)

theorem kept_runLinks (s : State) {pq : List Instr}
    (hk : Kept pq s) : Kept pq (runLinks s) := by
  unfold runLinks
  repeat' first
    | with_reducible assumption
    | with_reducible apply kept_linkBoundary
    | with_reducible refine kept_foldl (fun _ _ _ => ?_) _ ?_

end Sys2Proof.Machine
end

