-- ==== Sys2Proof/Laws/KeptMatrix.lean ====
section
/-!
SUPPORT. The operations of Machine/Matrix.lean keep the queue and the canonical form of the memories.
-/
namespace Sys2Proof.Machine

theorem kept_recordErr (kind master : Nat) (write : Bool) (addr : Nat) (s : State) {pq : List Instr}
    (hk : Kept pq s) : Kept pq (recordErr kind master write addr s) := by
  unfold recordErr
  repeat' first
    | with_reducible assumption
    | with_reducible apply kept_regSet

theorem kept_matrixError (r : Resp) (master : Nat) (write : Bool) (addr : Nat) (s : State) {pq : List Instr}
    (hk : Kept pq s) : Kept pq (matrixError r master write addr s) := by
  unfold matrixError
  repeat' first
    | with_reducible assumption
    | with_reducible apply kept_recordErr
    | with_reducible apply kept_raise
    | with_reducible apply kept_sticky
    | with_reducible apply kept_bump
    | split

theorem kept_applyTopology (s : State) {pq : List Instr}
    (hk : Kept pq s) : Kept pq (applyTopology s) := by
  unfold applyTopology
  repeat' first
    | with_reducible assumption
    | with_reducible apply kept_regSet

theorem kept_setCrcValue (u v : Nat) (s : State) {pq : List Instr}
    (hk : Kept pq s) : Kept pq (setCrcValue u v s) := by
  unfold setCrcValue
  repeat' first
    | with_reducible assumption
    | with_reducible apply kept_regSet

theorem kept_crcStart (u : Nat) (s : State) {pq : List Instr}
    (hk : Kept pq s) : Kept pq (crcStart u s) := by
  unfold crcStart
  repeat' first
    | with_reducible assumption
    | with_reducible apply kept_setCrcValue
    | with_reducible apply kept_regSet

theorem kept_crcFeedUnit (u : Nat) (bytes : List Byte) (s : State) {pq : List Instr}
    (hk : Kept pq s) : Kept pq (crcFeedUnit u bytes s) := by
  unfold crcFeedUnit
  repeat' first
    | with_reducible assumption
    | with_reducible apply kept_setCrcValue
    | with_reducible apply kept_bump

theorem kept_crcLeft (u : Nat) (r : Word) (n : Nat) (s : State) {pq : List Instr}
    (hk : Kept pq s) : Kept pq (crcLeft u r n s) := by
  simp only [crcLeft, List.foldr_cons, List.foldr_nil]
  repeat' first
    | with_reducible assumption
    | with_reducible apply kept_regSet

theorem kept_crcWrite (off : Nat) (value : Word) (s : State) {pq : List Instr}
    (hk : Kept pq s) : KeptOpt pq (crcWrite off value s) := by
  unfold crcWrite
  repeat' first
    | with_reducible assumption
    | with_reducible apply kept_crcFeedUnit
    | with_reducible apply kept_crcStart
    | with_reducible exact keptOpt_none
    | with_reducible apply keptOpt_some
    | split
    | dsimp only [id]

end Sys2Proof.Machine
end

