-- ==== Sys2Proof/Laws/KeptTile.lean ====
section
/-!
SUPPORT. The operations of Machine/Tile.lean keep the queue and the canonical form of the memories.
-/
namespace Sys2Proof.Machine

theorem kept_tileMod (n : Fin 16) (f : Tile → Tile) (s : State) {pq : List Instr}
    (hk : Kept pq s) : Kept pq (tileMod n f s) := by
  unfold tileMod
  repeat' first
    | with_reducible assumption
    | (simp only [kept_mk]; change Kept pq _)

theorem kept_raiseTimes (src inst : Nat) (x0 : Nat) (x1 : State) {pq : List Instr}
    (hk : Kept pq x1) : Kept pq (raiseTimes src inst x0 x1) := by
  induction x0 generalizing x1 with
  | zero => unfold raiseTimes; assumption
  | succ _ ih =>
  unfold raiseTimes
  repeat' first
    | with_reducible assumption
    | with_reducible apply kept_raise
    | with_reducible apply ih

theorem kept_countRun (n : Fin 16) (r : Run) (s : State) {pq : List Instr}
    (hk : Kept pq s) : Kept pq (countRun n r s) := by
  unfold countRun
  repeat' first
    | with_reducible assumption
    | with_reducible apply kept_raiseTimes
    | with_reducible apply kept_countSticky
    | with_reducible apply kept_sticky
    | with_reducible apply kept_bump
    | split

theorem kept_overrun (n : Fin 16) (s : State) {pq : List Instr}
    (hk : Kept pq s) : Kept pq (overrun n s) := by
  unfold overrun
  repeat' first
    | with_reducible assumption
    | with_reducible apply kept_tileMod
    | with_reducible apply kept_raise

theorem kept_showTick (n : Fin 16) (s : State) {pq : List Instr}
    (hk : Kept pq s) : Kept pq (showTick n s) := by
  unfold showTick
  repeat' first
    | with_reducible assumption
    | with_reducible apply kept_tileMod
    | with_reducible apply kept_regSetFld
    | with_reducible apply kept_regMod
    | with_reducible apply kept_regSet
    | split

theorem kept_runTile (inputs : List (Nat × Blk)) (n : Fin 16) (s : State) {pq : List Instr}
    (hk : Kept pq s) : Kept pq (runTile inputs n s) := by
  unfold runTile
  repeat' first
    | with_reducible assumption
    | with_reducible apply kept_overrun
    | with_reducible apply kept_countRun
    | with_reducible apply kept_tileMod
    | split
    | dsimp only [id]

theorem kept_runTiles (inputs : List (Nat × Blk)) (s : State) {pq : List Instr}
    (hk : Kept pq s) : Kept pq (runTiles inputs s) := by
  unfold runTiles
  repeat' first
    | with_reducible assumption
    | with_reducible apply kept_runTile
    | with_reducible refine kept_foldl (fun _ _ _ => ?_) _ ?_

theorem kept_cutTiles (s : State) {pq : List Instr}
    (hk : Kept pq s) : Kept pq (cutTiles s) := by
  unfold cutTiles
  repeat' first
    | with_reducible assumption
    | with_reducible apply kept_showTick
    | with_reducible apply kept_overrun
    | with_reducible refine kept_foldl (fun _ _ _ => ?_) _ ?_
    | split

theorem kept_upsetRow (s : State) (u : RowUpset) {pq : List Instr}
    (hk : Kept pq s) : Kept pq (upsetRow s u) := by
  unfold upsetRow
  repeat' first
    | with_reducible assumption
    | with_reducible apply kept_tileMod

theorem kept_handTiles (s : State) {pq : List Instr}
    (hk : Kept pq s) : Kept pq (handTiles s) := by
  unfold handTiles
  repeat' first
    | with_reducible assumption
    | dsimp only [id]
    | (simp only [kept_mk]; change Kept pq _)

theorem kept_applySwap (tiles : List (Fin 16)) (s : State) {pq : List Instr}
    (hk : Kept pq s) : Kept pq (applySwap tiles s).2 := by
  unfold applySwap
  repeat' first
    | with_reducible assumption
    | with_reducible apply kept_tileMod
    | with_reducible refine kept_foldl (fun _ _ _ => ?_) _ ?_
    | split

theorem kept_writeWord (n : Fin 16) (a : Nat) (v : Word) (s : State) {pq : List Instr}
    (hk : Kept pq s) : Kept pq (writeWord n a v s) := by
  unfold writeWord
  repeat' first
    | with_reducible assumption
    | with_reducible apply kept_tileMod

theorem kept_applyParams (n : Fin 16) (words : List (Nat × Word)) (s : State) {pq : List Instr}
    (hk : Kept pq s) : Kept pq (applyParams n words s).2 := by
  unfold applyParams
  repeat' first
    | with_reducible assumption
    | with_reducible apply kept_writeWord
    | with_reducible refine kept_foldl (fun _ _ _ => ?_) _ ?_
    | split

theorem kept_applyRampSet (n : Fin 16) (u : Fin 64) (a : RampSetArgs) (ms : Nat) (s : State) {pq : List Instr}
    (hk : Kept pq s) : Kept pq (applyRampSet n u a ms s).2 := by
  unfold applyRampSet
  repeat' first
    | with_reducible assumption
    | with_reducible apply kept_tileMod
    | split
    | dsimp only [id]

theorem kept_checkUnits (n : Fin 16) (s : State) {pq : List Instr}
    (hk : Kept pq s) : Kept pq (checkUnits n s) := by
  unfold checkUnits
  repeat' first
    | with_reducible assumption
    | with_reducible apply kept_tileMod

theorem kept_checkLimits (s : State) {pq : List Instr}
    (hk : Kept pq s) : Kept pq (checkLimits s) := by
  unfold checkLimits
  repeat' first
    | with_reducible assumption
    | dsimp only [id]
    | (simp only [kept_mk]; change Kept pq _)

theorem kept_writeRamps (n : Fin 16) (s : State) {pq : List Instr}
    (hk : Kept pq s) : Kept pq (writeRamps n s) := by
  unfold writeRamps
  repeat' first
    | with_reducible assumption
    | with_reducible apply kept_tileMod
    | split

theorem kept_rampRecord (x : RampUnit) (s : State) {pq : List Instr}
    (hk : Kept pq s) : Kept pq (rampRecord x s).2 := by
  unfold rampRecord
  repeat' first
    | with_reducible assumption
    | with_reducible apply kept_freshFree
    | split

theorem kept_rampRecords (x0 : List RampUnit) (x1 : State) {pq : List Instr}
    (hk : Kept pq x1) : Kept pq (rampRecords x0 x1).2 := by
  induction x0 generalizing x1 with
  | nil => unfold rampRecords; assumption
  | cons _ _ ih =>
  unfold rampRecords
  repeat' first
    | with_reducible assumption
    | with_reducible apply kept_rampRecord
    | with_reducible apply ih

theorem kept_runRampQueries (n : Fin 16) (s : State) {pq : List Instr}
    (hk : Kept pq s) : Kept pq (runRampQueries n s) := by
  unfold runRampQueries
  repeat' first
    | with_reducible assumption
    | with_reducible apply kept_rampRecords
    | with_reducible apply kept_tileMod
    | with_reducible apply kept_resultThen
    | with_reducible refine kept_foldl (fun _ _ _ => ?_) _ ?_

theorem kept_runDmemReads (n : Fin 16) (s : State) {pq : List Instr}
    (hk : Kept pq s) : Kept pq (runDmemReads n s) := by
  unfold runDmemReads
  repeat' first
    | with_reducible assumption
    | with_reducible apply kept_tileMod
    | with_reducible apply kept_resultThen
    | with_reducible refine kept_foldl (fun _ _ _ => ?_) _ ?_

theorem kept_execTileCut (tile : Fin 16) (s : State) {pq : List Instr}
    (hk : Kept pq s) : KeptOut pq (execTileCut tile s) := by
  unfold execTileCut
  repeat' first
    | with_reducible assumption
    | with_reducible apply kept_overrun
    | with_reducible apply keptOut_next
    | split

theorem kept_execTileLoad (h : CmdHdr) (a : TileLoadArgs) (s : State) {pq : List Instr}
    (hk : Kept pq s) : KeptOut pq (execTileLoad h a s) := by
  unfold execTileLoad
  repeat' first
    | with_reducible assumption
    | with_reducible apply kept_tileMod
    | with_reducible apply kept_untimedCmd
    | with_reducible apply kept_complete
    | with_reducible apply kept_hostReadReq
    | with_reducible apply keptOut_next
    | with_reducible intro _
    | split

theorem kept_execTileLoadComplete (tile : Fin 16) (s : State) {pq : List Instr}
    (hk : Kept pq s) : KeptOut pq (execTileLoadComplete tile s) := by
  unfold execTileLoadComplete
  repeat' first
    | with_reducible assumption
    | with_reducible apply kept_tileMod
    | with_reducible apply kept_crcLeft
    | with_reducible apply kept_complete
    | with_reducible apply keptOut_next
    | split
    | dsimp only [id]

theorem kept_execTileClear (h : CmdHdr) (tile : Byte) (s : State) {pq : List Instr}
    (hk : Kept pq s) : KeptOut pq (execTileClear h tile s) := by
  unfold execTileClear
  repeat' first
    | with_reducible assumption
    | with_reducible apply kept_tileMod
    | with_reducible apply kept_untimedCmd
    | with_reducible apply kept_complete
    | with_reducible apply keptOut_next
    | with_reducible intro _
    | split

theorem kept_execTileSwap (h : CmdHdr) (tick : BitVec 64) (mask : BitVec 16) (s : State) {pq : List Instr}
    (hk : Kept pq s) : KeptOut pq (execTileSwap h tick mask s) := by
  unfold execTileSwap
  repeat' first
    | with_reducible assumption
    | with_reducible apply kept_noPre
    | with_reducible apply kept_timedCmd
    | with_reducible apply keptOut_next
    | with_reducible intro _

theorem kept_execParamWrite (h : CmdHdr) (a : ParamWriteArgs) (s : State) {pq : List Instr}
    (hk : Kept pq s) : KeptOut pq (execParamWrite h a s) := by
  unfold execParamWrite
  repeat' first
    | with_reducible assumption
    | with_reducible apply kept_noPre
    | with_reducible apply kept_busTimed
    | with_reducible apply kept_badTimed
    | with_reducible apply kept_timedCmd
    | with_reducible apply keptOut_next
    | with_reducible intro _
    | split

theorem kept_execRampSet (h : CmdHdr) (a : RampSetArgs) (s : State) {pq : List Instr}
    (hk : Kept pq s) : KeptOut pq (execRampSet h a s) := by
  unfold execRampSet
  repeat' first
    | with_reducible assumption
    | with_reducible apply kept_noPre
    | with_reducible apply kept_badTimed
    | with_reducible apply kept_timedCmd
    | with_reducible apply keptOut_next
    | with_reducible intro _
    | split

theorem kept_execDmemRead (h : CmdHdr) (a : DmemReadArgs) (s : State) {pq : List Instr}
    (hk : Kept pq s) : KeptOut pq (execDmemRead h a s) := by
  unfold execDmemRead
  repeat' first
    | with_reducible assumption
    | with_reducible apply kept_tileMod
    | with_reducible apply kept_untimedCmd
    | with_reducible apply keptOut_next
    | with_reducible intro _
    | split

theorem kept_execRampQuery (h : CmdHdr) (tile : Byte) (resultAddr : BitVec 64) (s : State) {pq : List Instr}
    (hk : Kept pq s) : KeptOut pq (execRampQuery h tile resultAddr s) := by
  unfold execRampQuery
  repeat' first
    | with_reducible assumption
    | with_reducible apply kept_tileMod
    | with_reducible apply kept_untimedCmd
    | with_reducible apply keptOut_next
    | with_reducible intro _
    | split

end Sys2Proof.Machine
end

