-- ==== Sys2Proof/Laws/KeptPower.lean ====
section
/-!
SUPPORT. The operations of Machine/Power.lean keep the queue and the canonical form of the memories.
-/
namespace Sys2Proof.Machine

theorem kept_playCh (b : Option Blk) (s0 : State) (c : Fin 8) {pq : List Instr}
    (hk : Kept pq s0) : Kept pq (playCh b s0 c) := by
  unfold playCh
  repeat' first
    | with_reducible assumption
    | with_reducible apply kept_confirmHealth
    | with_reducible apply kept_chMod
    | with_reducible apply kept_countSticky
    | split
    | dsimp only [id]

theorem kept_noteGains (s : State) (c : Fin 8) {pq : List Instr}
    (hk : Kept pq s) : Kept pq (noteGains s c) := by
  unfold noteGains
  repeat' first
    | with_reducible assumption
    | with_reducible apply kept_chMod

theorem kept_psPlay (before : Vector Direct 64) (s0 : State) {pq : List Instr}
    (hk : Kept pq s0) : Kept pq (psPlay before s0) := by
  unfold psPlay
  repeat' first
    | with_reducible assumption
    | with_reducible apply kept_noteGains
    | with_reducible apply kept_playCh
    | with_reducible apply kept_endMutes
    | with_reducible apply kept_chMod
    | with_reducible refine kept_foldl (fun _ _ _ => ?_) _ ?_
    | split
    | dsimp only [id]

theorem kept_psShift (s : State) {pq : List Instr}
    (hk : Kept pq s) : Kept pq (psShift s) := by
  unfold psShift
  repeat' first
    | with_reducible assumption
    | with_reducible apply kept_chMod
    | with_reducible refine kept_foldl (fun _ _ _ => ?_) _ ?_

theorem kept_execPstageTickStep (s : State) {pq : List Instr}
    (hk : Kept pq s) : KeptOut pq (execPstageTickStep s) := by
  unfold execPstageTickStep
  repeat' first
    | with_reducible assumption
    | with_reducible apply kept_playCh
    | with_reducible apply kept_fin
    | with_reducible apply kept_endMutes
    | with_reducible apply keptOut_next
    | with_reducible refine kept_foldl (fun _ _ _ => ?_) _ ?_
    | split

theorem kept_railStep (rail : Nat) (s : State) (g : Fin 2) {pq : List Instr}
    (hk : Kept pq s) : Kept pq (railStep rail s g) := by
  unfold railStep
  repeat' first
    | with_reducible assumption
    | with_reducible apply kept_groupMod

theorem kept_releaseCh (s : State) (c : Fin 8) {pq : List Instr}
    (hk : Kept pq s) : Kept pq (releaseCh s c) := by
  unfold releaseCh
  repeat' first
    | with_reducible assumption
    | with_reducible apply kept_psResult
    | with_reducible apply kept_chMod
    | split

theorem kept_startCh (c : Fin 8) (retry : Bool) (s : State) {pq : List Instr}
    (hk : Kept pq s) : Kept pq (startCh c retry s) := by
  unfold startCh
  repeat' first
    | with_reducible assumption
    | with_reducible apply kept_unfenceCh
    | with_reducible apply kept_groupMod
    | with_reducible apply kept_chMod

theorem kept_startRetries (s : State) {pq : List Instr}
    (hk : Kept pq s) : Kept pq (startRetries s) := by
  unfold startRetries
  repeat' first
    | with_reducible assumption
    | with_reducible apply kept_startCh
    | with_reducible refine kept_foldl (fun _ _ _ => ?_) _ ?_
    | split

theorem kept_budgetsBegin (s : State) (c : Fin 8) {pq : List Instr}
    (hk : Kept pq s) : Kept pq (budgetsBegin s c) := by
  unfold budgetsBegin
  repeat' first
    | with_reducible assumption
    | with_reducible apply kept_chMod

theorem kept_psBoundary (m : TickIn) (s : State) {pq : List Instr}
    (hk : Kept pq s) : Kept pq (psBoundary m s) := by
  unfold psBoundary
  repeat' first
    | with_reducible assumption
    | with_reducible apply kept_budgetsBegin
    | with_reducible apply kept_startRetries
    | with_reducible apply kept_releaseCh
    | with_reducible apply kept_railStep
    | with_reducible apply kept_psComplete
    | with_reducible refine kept_foldl (fun _ _ _ => ?_) _ ?_

theorem kept_measureCh (m : TickIn) (s : State) (c : Fin 8) {pq : List Instr}
    (hk : Kept pq s) : Kept pq (measureCh m s c) := by
  unfold measureCh
  repeat' first
    | with_reducible assumption
    | with_reducible apply kept_chMod

theorem kept_psSense (m : TickIn) (s : State) {pq : List Instr}
    (hk : Kept pq s) : Kept pq (psSense m s) := by
  unfold psSense
  repeat' first
    | with_reducible assumption
    | with_reducible apply kept_measureCh
    | with_reducible refine kept_foldl (fun _ _ _ => ?_) _ ?_
    | dsimp only [id]
    | (simp only [kept_mk]; change Kept pq _)

theorem kept_psClips (s : State) {pq : List Instr}
    (hk : Kept pq s) : Kept pq (psClips s) := by
  unfold psClips
  repeat' first
    | with_reducible assumption
    | with_reducible apply kept_countSticky

theorem kept_execConverterStop (group : Fin 2) (s : State) {pq : List Instr}
    (hk : Kept pq s) : KeptOut pq (execConverterStop group s) := by
  unfold execConverterStop
  repeat' first
    | with_reducible assumption
    | with_reducible apply kept_groupMod
    | with_reducible apply keptOut_next
    | split

theorem kept_execDirectTrackingResume (group : Fin 2) (s : State) {pq : List Instr}
    (hk : Kept pq s) : KeptOut pq (execDirectTrackingResume group s) := by
  unfold execDirectTrackingResume
  repeat' first
    | with_reducible assumption
    | with_reducible apply kept_groupMod
    | with_reducible apply keptOut_next
    | split

theorem kept_execPsStartTimeout (ch : Fin 8) (s : State) {pq : List Instr}
    (hk : Kept pq s) : KeptOut pq (execPsStartTimeout ch s) := by
  unfold execPsStartTimeout
  repeat' first
    | with_reducible assumption
    | with_reducible apply kept_fin
    | with_reducible apply kept_psComplete
    | with_reducible apply kept_psResult
    | with_reducible apply kept_chMod
    | with_reducible apply keptOut_next
    | split

theorem kept_execPsStart (h : CmdHdr) (tick : BitVec 64) (mask : Byte) (s : State) {pq : List Instr}
    (hk : Kept pq s) : KeptOut pq (execPsStart h tick mask s) := by
  unfold execPsStart
  repeat' first
    | with_reducible assumption
    | with_reducible apply kept_fin
    | with_reducible apply kept_noPre
    | with_reducible apply kept_timedCmd
    | with_reducible intro _

theorem kept_execPsStop (h : CmdHdr) (tick : BitVec 64) (mask : Byte) (rampMs : BitVec 16) (s : State) {pq : List Instr}
    (hk : Kept pq s) : KeptOut pq (execPsStop h tick mask rampMs s) := by
  unfold execPsStop
  repeat' first
    | with_reducible assumption
    | with_reducible apply kept_fin
    | with_reducible apply kept_noPre
    | with_reducible apply kept_timedCmd
    | with_reducible intro _

theorem kept_applyPsStart (t : Ticket) (mask : Nat) (skip : Fin 8 → Bool) (s : State) {pq : List Instr}
    (hk : Kept pq s) : Kept pq (applyPsStart t mask skip s) := by
  unfold applyPsStart
  repeat' first
    | with_reducible assumption
    | with_reducible apply kept_startCh
    | with_reducible apply kept_chMod
    | with_reducible apply kept_psMod
    | with_reducible refine kept_foldl (fun _ _ _ => ?_) _ ?_

theorem kept_stopOne (ms : Nat) (c : Fin 8) (s : State) {pq : List Instr}
    (hk : Kept pq s) : Kept pq (stopOne ms c s).2 := by
  unfold stopOne
  repeat' first
    | with_reducible assumption
    | with_reducible apply kept_psResult
    | with_reducible apply kept_chMod
    | split
    | dsimp only [id]

theorem kept_applyPsStop (mask ms : Nat) (skip : Fin 8 → Bool) (s : State) {pq : List Instr}
    (hk : Kept pq s) : Kept pq (applyPsStop mask ms skip s).2 := by
  unfold applyPsStop
  repeat' first
    | with_reducible assumption
    | with_reducible apply kept_stopOne
    | with_reducible refine kept_foldl_snd (fun _ _ _ => ?_) _ ?_

theorem kept_execPsBudget (h : CmdHdr) (a : PsBudgetArgs) (s : State) {pq : List Instr}
    (hk : Kept pq s) : KeptOut pq (execPsBudget h a s) := by
  unfold execPsBudget
  repeat' first
    | with_reducible assumption
    | with_reducible apply kept_fin
    | with_reducible apply kept_noPre
    | with_reducible apply kept_timedCmd
    | with_reducible intro _

theorem kept_applyPsBudget (c : Fin 8) (w at_ rl : Nat) (s : State) {pq : List Instr}
    (hk : Kept pq s) : Kept pq (applyPsBudget c w at_ rl s) := by
  unfold applyPsBudget
  repeat' first
    | with_reducible assumption
    | with_reducible apply kept_chMod

theorem kept_execPsFreqSet (h : CmdHdr) (a : PsFreqArgs) (s : State) {pq : List Instr}
    (hk : Kept pq s) : KeptOut pq (execPsFreqSet h a s) := by
  unfold execPsFreqSet
  repeat' first
    | with_reducible assumption
    | with_reducible apply kept_fin
    | with_reducible apply kept_noPre
    | with_reducible apply kept_timedCmd
    | with_reducible intro _

theorem kept_applyPsFreq (pref lo hi : Nat) (s : State) {pq : List Instr}
    (hk : Kept pq s) : Kept pq (applyPsFreq pref lo hi s).2.2 := by
  unfold applyPsFreq
  repeat' first
    | with_reducible assumption
    | with_reducible apply kept_psMod

theorem kept_execPsModel (h : CmdHdr) (a : PsModelArgs) (s : State) {pq : List Instr}
    (hk : Kept pq s) : KeptOut pq (execPsModel h a s) := by
  unfold execPsModel
  repeat' first
    | with_reducible assumption
    | with_reducible apply kept_fin
    | with_reducible apply kept_chMod
    | with_reducible apply kept_untimedCmd
    | with_reducible apply kept_complete
    | with_reducible intro _
    | split
    | dsimp only [id]
    | (simp only [kept_mk]; change Kept pq _)

theorem kept_writeLimits (s : State) {pq : List Instr}
    (hk : Kept pq s) : Kept pq (writeLimits s) := by
  unfold writeLimits
  repeat' first
    | with_reducible assumption
    | with_reducible apply kept_writeWord
    | with_reducible refine kept_foldl (fun _ _ _ => ?_) _ ?_
    | split

theorem kept_execPsQuery (h : CmdHdr) (ch : Byte) (resultAddr : BitVec 64) (s : State) {pq : List Instr}
    (hk : Kept pq s) : KeptOut pq (execPsQuery h ch resultAddr s) := by
  unfold execPsQuery
  repeat' first
    | with_reducible assumption
    | with_reducible apply kept_fin
    | with_reducible apply kept_psMod
    | with_reducible apply kept_untimedCmd
    | with_reducible intro _

theorem kept_runPsQueries (s : State) {pq : List Instr}
    (hk : Kept pq s) : Kept pq (runPsQueries s) := by
  unfold runPsQueries
  repeat' first
    | with_reducible assumption
    | with_reducible apply kept_psMod
    | with_reducible apply kept_resultThen
    | with_reducible refine kept_foldl (fun _ _ _ => ?_) _ ?_

theorem kept_budgetRamp (c : Fin 8) (t : Option Int) (s : State) {pq : List Instr}
    (hk : Kept pq s) : Kept pq (budgetRamp c t s) := by
  unfold budgetRamp
  repeat' first
    | with_reducible assumption
    | with_reducible apply kept_chMod

theorem kept_allocate (s : State) {pq : List Instr}
    (hk : Kept pq s) : Kept pq (allocate s) := by
  unfold allocate
  repeat' first
    | with_reducible assumption
    | with_reducible apply kept_budgetRamp
    | with_reducible apply kept_chMod
    | with_reducible apply kept_psMod
    | with_reducible refine kept_foldl (fun _ _ _ => ?_) _ ?_

theorem kept_execPowerAllocate (m : PowerMeasure) (s : State) {pq : List Instr}
    (hk : Kept pq s) : KeptOut pq (execPowerAllocate m s) := by
  unfold execPowerAllocate
  repeat' first
    | with_reducible assumption
    | with_reducible apply kept_allocate
    | with_reducible apply kept_psMod
    | with_reducible apply keptOut_next

theorem kept_execPilotEstimate (ch : Fin 8) (re : BitVec 16) (microAmps : Nat) (s : State) {pq : List Instr}
    (hk : Kept pq s) : KeptOut pq (execPilotEstimate ch re microAmps s) := by
  unfold execPilotEstimate
  repeat' first
    | with_reducible assumption
    | with_reducible apply kept_fin
    | with_reducible apply kept_chMod
    | with_reducible apply kept_raise
    | with_reducible apply kept_sticky
    | with_reducible apply keptOut_next
    | split
    | dsimp only [id]

theorem kept_execIlimTrip (ch : Fin 8) (s : State) {pq : List Instr}
    (hk : Kept pq s) : KeptOut pq (execIlimTrip ch s) := by
  unfold execIlimTrip
  repeat' first
    | with_reducible assumption
    | with_reducible apply kept_bump
    | with_reducible apply keptOut_next
    | split

theorem kept_faultCh (ch : Fin 8) (code src bit : Nat) (s : State) {pq : List Instr}
    (hk : Kept pq s) : Kept pq (faultCh ch code src bit s) := by
  unfold faultCh
  repeat' first
    | with_reducible assumption
    | with_reducible apply kept_chMod
    | with_reducible apply kept_raise
    | with_reducible apply kept_sticky
    | split
    | dsimp only [id]

theorem kept_execShortCircuit (ch : Fin 8) (cls : ShortClass) (s : State) {pq : List Instr}
    (hk : Kept pq s) : KeptOut pq (execShortCircuit ch cls s) := by
  unfold execShortCircuit
  repeat' first
    | with_reducible assumption
    | with_reducible apply kept_faultCh
    | with_reducible apply kept_fin
    | with_reducible apply keptOut_next
    | split

theorem kept_execPsDc (ch : Fin 8) (s : State) {pq : List Instr}
    (hk : Kept pq s) : KeptOut pq (execPsDc ch s) := by
  unfold execPsDc
  repeat' first
    | with_reducible assumption
    | with_reducible apply kept_faultCh
    | with_reducible apply kept_fin
    | with_reducible apply keptOut_next
    | split

theorem kept_execPsDieTemp (ch : Fin 8) (s : State) {pq : List Instr}
    (hk : Kept pq s) : KeptOut pq (execPsDieTemp ch s) := by
  unfold execPsDieTemp
  repeat' first
    | with_reducible assumption
    | with_reducible apply kept_faultCh
    | with_reducible apply kept_fin
    | with_reducible apply kept_chMod
    | with_reducible apply kept_raise
    | with_reducible apply kept_sticky
    | split

theorem kept_execPsRetry (ch : Fin 8) (s : State) {pq : List Instr}
    (hk : Kept pq s) : KeptOut pq (execPsRetry ch s) := by
  unfold execPsRetry
  repeat' first
    | with_reducible assumption
    | with_reducible apply kept_chMod
    | with_reducible apply keptOut_next
    | split
    | dsimp only [id]

theorem kept_execDieTempRecover (ch : Fin 8) (s : State) {pq : List Instr}
    (hk : Kept pq s) : KeptOut pq (execDieTempRecover ch s) := by
  unfold execDieTempRecover
  repeat' first
    | with_reducible assumption
    | with_reducible apply kept_chMod
    | with_reducible apply keptOut_next

theorem kept_execPsRailOv (group : Fin 2) (s : State) {pq : List Instr}
    (hk : Kept pq s) : KeptOut pq (execPsRailOv group s) := by
  unfold execPsRailOv
  repeat' first
    | with_reducible assumption
    | with_reducible apply kept_fin
    | with_reducible apply kept_muteCh
    | with_reducible apply kept_raise
    | with_reducible apply kept_sticky
    | with_reducible refine kept_foldl (fun _ _ _ => ?_) _ ?_

theorem kept_restart (p : PsPause) (l : List (Fin 8)) (s : State) {pq : List Instr}
    (hk : Kept pq s) : Kept pq (restart p l s) := by
  unfold restart
  repeat' first
    | with_reducible assumption
    | with_reducible apply kept_startCh
    | with_reducible refine kept_foldl (fun _ _ _ => ?_) _ ?_
    | split

theorem kept_execClampIdleRestart (group : Fin 2) (s : State) {pq : List Instr}
    (hk : Kept pq s) : KeptOut pq (execClampIdleRestart group s) := by
  unfold execClampIdleRestart
  repeat' first
    | with_reducible assumption
    | with_reducible apply kept_restart
    | with_reducible apply kept_fin

theorem kept_execPsPvinLow (s : State) {pq : List Instr}
    (hk : Kept pq s) : KeptOut pq (execPsPvinLow s) := by
  unfold execPsPvinLow
  repeat' first
    | with_reducible assumption
    | with_reducible apply kept_fin
    | with_reducible apply kept_muteAll
    | with_reducible apply kept_psMod
    | with_reducible apply kept_raise
    | with_reducible apply kept_sticky

theorem kept_execPvinRestored (s : State) {pq : List Instr}
    (hk : Kept pq s) : KeptOut pq (execPvinRestored s) := by
  unfold execPvinRestored
  repeat' first
    | with_reducible assumption
    | with_reducible apply kept_restart
    | with_reducible apply kept_fin

theorem kept_execPsRailSag (group : Fin 2) (s : State) {pq : List Instr}
    (hk : Kept pq s) : KeptOut pq (execPsRailSag group s) := by
  unfold execPsRailSag
  repeat' first
    | with_reducible assumption
    | with_reducible apply kept_budgetRamp
    | with_reducible apply kept_fin
    | with_reducible apply kept_groupMod
    | with_reducible apply kept_raise
    | with_reducible apply kept_sticky
    | with_reducible apply keptOut_next
    | with_reducible refine kept_foldl (fun _ _ _ => ?_) _ ?_
    | split

end Sys2Proof.Machine
end

