-- ==== Sys2Proof/Laws/KeptSump.lean ====
section
/-!
SUPPORT. The operations of Machine/Sump.lean keep the queue and the canonical form of the memories.
-/
namespace Sys2Proof.Machine

theorem kept_execFaultQuietExpiry (source inst : Byte) (s : State) {pq : List Instr}
    (hk : Kept pq s) : KeptOut pq (execFaultQuietExpiry source inst s) := by
  unfold execFaultQuietExpiry
  repeat' first
    | with_reducible assumption
    | with_reducible apply kept_faultEvent
    | with_reducible apply kept_setInst
    | with_reducible apply keptOut_next
    | split
    | dsimp only [id]

theorem kept_execSumpQuery (h : CmdHdr) (a : SumpQueryArgs) (s : State) {pq : List Instr}
    (hk : Kept pq s) : KeptOut pq (execSumpQuery h a s) := by
  unfold execSumpQuery
  repeat' first
    | with_reducible assumption
    | with_reducible apply kept_fin
    | with_reducible apply kept_resultThen
    | with_reducible apply kept_untimedCmd
    | with_reducible intro _

theorem kept_clearLatch (src : Nat) (s : State) (n : Nat) {pq : List Instr}
    (hk : Kept pq s) : Kept pq (clearLatch src s n) := by
  unfold clearLatch
  repeat' first
    | with_reducible assumption
    | with_reducible apply kept_unfenceCh
    | with_reducible apply kept_chMod
    | with_reducible apply kept_faultEvent
    | with_reducible apply kept_setInst
    | split
    | dsimp only [id]

theorem kept_startQuiet (u : FenceUnit) (s : State) {pq : List Instr}
    (hk : Kept pq s) : Kept pq (startQuiet u s) := by
  unfold startQuiet
  repeat' first
    | with_reducible assumption
    | dsimp only [id]
    | (simp only [kept_mk]; change Kept pq _)

theorem kept_releaseUnit (src n : Nat) (u : FenceUnit) (s : State) {pq : List Instr}
    (hk : Kept pq s) : Kept pq (releaseUnit src n u s) := by
  unfold releaseUnit
  repeat' first
    | with_reducible assumption
    | with_reducible apply kept_startQuiet
    | with_reducible apply kept_startTraining
    | with_reducible apply kept_linkDown
    | with_reducible apply kept_faultEvent
    | split
    | dsimp only [id]
    | (simp only [kept_mk]; change Kept pq _)

theorem kept_releaseOne (src : Nat) (x : Bool × State) (n : Nat) {pq : List Instr}
    (hk : Kept pq x.2) : Kept pq (releaseOne src x n).2 := by
  unfold releaseOne
  repeat' first
    | with_reducible assumption
    | with_reducible apply kept_releaseUnit
    | split

theorem kept_execSumpClear (h : CmdHdr) (a : SumpClearArgs) (s : State) {pq : List Instr}
    (hk : Kept pq s) : KeptOut pq (execSumpClear h a s) := by
  unfold execSumpClear
  repeat' first
    | with_reducible assumption
    | with_reducible apply kept_releaseOne
    | with_reducible apply kept_clearLatch
    | with_reducible apply kept_fin
    | with_reducible apply kept_untimedCmd
    | with_reducible apply kept_complete
    | with_reducible refine kept_foldl (fun _ _ _ => ?_) _ ?_
    | with_reducible refine kept_foldl_snd (fun _ _ _ => ?_) _ ?_
    | with_reducible intro _
    | split

theorem kept_standAside (s : State) {pq : List Instr}
    (hk : Kept pq s) : Kept pq (standAside s) := by
  unfold standAside
  repeat' first
    | with_reducible assumption
    | dsimp only [id]
    | (simp only [kept_mk]; change Kept pq _)

theorem kept_severityChanged (src old : Nat) (s : State) {pq : List Instr}
    (hk : Kept pq s) : Kept pq (severityChanged src old s) := by
  unfold severityChanged
  repeat' first
    | with_reducible assumption
    | with_reducible apply kept_regSetFld
    | with_reducible refine kept_foldl (fun _ _ _ => ?_) _ ?_
    | split
    | dsimp only [id]

end Sys2Proof.Machine
end

