-- ==== Sys2Proof/Laws/KeptAge.lean ====
section
/-!
SUPPORT. The operations of Machine/Age.lean keep the queue and the canonical form of the memories.
-/
namespace Sys2Proof.Machine

theorem kept_wearMod (f : Wear → Wear) (s : State) {pq : List Instr}
    (hk : Kept pq s) : Kept pq (wearMod f s) := by
  unfold wearMod
  repeat' first
    | with_reducible assumption
    | (simp only [kept_mk]; change Kept pq _)

theorem kept_proposeAge (kind target value : Nat) (s : State) {pq : List Instr}
    (hk : Kept pq s) : Kept pq (proposeAge kind target value s) := by
  unfold proposeAge
  repeat' first
    | with_reducible assumption
    | with_reducible apply kept_wearMod
    | with_reducible apply kept_report
    | split

theorem kept_proposeStep (s : State) {pq : List Instr}
    (hk : Kept pq s) : Kept pq (proposeStep s) := by
  unfold proposeStep
  repeat' first
    | with_reducible assumption
    | with_reducible apply kept_proposeAge
    | with_reducible apply kept_raise
    | split

theorem kept_execAgeVddAdjust (worstPs : BitVec 16) (s : State) {pq : List Instr}
    (hk : Kept pq s) : KeptOut pq (execAgeVddAdjust worstPs s) := by
  unfold execAgeVddAdjust
  repeat' first
    | with_reducible assumption
    | with_reducible apply kept_proposeStep
    | with_reducible apply kept_wearMod
    | with_reducible apply kept_fin
    | with_reducible apply kept_raise
    | with_reducible apply keptOut_next
    | split
    | dsimp only [id]

theorem kept_surveyEye (s : State) (e : Fin 16 × Byte × Byte × BitVec 4 × BitVec 5) {pq : List Instr}
    (hk : Kept pq s) : Kept pq (surveyEye s e) := by
  unfold surveyEye
  repeat' first
    | with_reducible assumption
    | with_reducible apply kept_proposeAge
    | with_reducible apply kept_wearMod
    | with_reducible apply kept_setEye
    | split

theorem kept_surveyRetention (r : BitVec 16) (s : State) {pq : List Instr}
    (hk : Kept pq s) : Kept pq (surveyRetention r s) := by
  unfold surveyRetention
  repeat' first
    | with_reducible assumption
    | with_reducible apply kept_proposeAge
    | with_reducible apply kept_wearMod
    | split

theorem kept_execAgeSurvey (r : SurveyResult) (s : State) {pq : List Instr}
    (hk : Kept pq s) : KeptOut pq (execAgeSurvey r s) := by
  unfold execAgeSurvey
  repeat' first
    | with_reducible assumption
    | with_reducible apply kept_surveyRetention
    | with_reducible apply kept_surveyEye
    | with_reducible apply kept_proposeAge
    | with_reducible apply kept_wearMod
    | with_reducible apply kept_fin
    | with_reducible apply kept_raise
    | with_reducible refine kept_foldl (fun _ _ _ => ?_) _ ?_
    | split

theorem kept_execAgeQuery (h : CmdHdr) (resultAddr : BitVec 64) (s : State) {pq : List Instr}
    (hk : Kept pq s) : KeptOut pq (execAgeQuery h resultAddr s) := by
  unfold execAgeQuery
  repeat' first
    | with_reducible assumption
    | with_reducible apply kept_fin
    | with_reducible apply kept_resultThen
    | with_reducible apply kept_untimedCmd
    | with_reducible intro _

theorem kept_execAgeDecide (h : CmdHdr) (a : AgeDecideArgs) (s : State) {pq : List Instr}
    (hk : Kept pq s) : KeptOut pq (execAgeDecide h a s) := by
  unfold execAgeDecide
  repeat' first
    | with_reducible assumption
    | with_reducible apply kept_wearMod
    | with_reducible apply kept_timedCmd
    | with_reducible apply keptOut_next
    | with_reducible intro _
    | split
    | dsimp only [id]
    | (simp only [kept_mk]; change Kept pq _)

theorem kept_coreOff (s : State) {pq : List Instr}
    (hk : Kept pq s) : Kept pq (coreOff s) := by
  unfold coreOff
  repeat' first
    | with_reducible assumption
    | with_reducible apply kept_clk

theorem kept_stepBegins (s : State) {pq : List Instr}
    (hk : Kept pq s) : Kept pq (stepBegins s) := by
  unfold stepBegins
  repeat' first
    | with_reducible assumption
    | with_reducible apply kept_coreOff
    | with_reducible apply kept_wearMod
    | split

theorem kept_dropProposal (id : BitVec 16) (s : State) {pq : List Instr}
    (hk : Kept pq s) : Kept pq (dropProposal id s) := by
  unfold dropProposal
  repeat' first
    | with_reducible assumption
    | with_reducible apply kept_wearMod

theorem kept_stepGivesUp (s : State) {pq : List Instr}
    (hk : Kept pq s) : Kept pq (stepGivesUp s) := by
  unfold stepGivesUp
  repeat' first
    | with_reducible assumption
    | with_reducible apply kept_coreOff
    | with_reducible apply kept_wearMod

theorem kept_setFirs (l : List (Nat × (BitVec 4 × BitVec 5))) (s : State) {pq : List Instr}
    (hk : Kept pq s) : Kept pq (setFirs l s) := by
  unfold setFirs
  repeat' first
    | with_reducible assumption
    | with_reducible apply kept_linkMod
    | with_reducible refine kept_foldl (fun _ _ _ => ?_) _ ?_
    | split

theorem kept_applyApprove (t : Ticket) (p : Proposal) (s : State) {pq : List Instr}
    (hk : Kept pq s) : Kept pq (applyApprove t p s).2 := by
  unfold applyApprove
  repeat' first
    | with_reducible assumption
    | with_reducible apply kept_stepGivesUp
    | with_reducible apply kept_dropProposal
    | with_reducible apply kept_wearMod
    | with_reducible apply kept_clk
    | with_reducible apply kept_linkMod
    | with_reducible apply kept_raise
    | split

theorem kept_applyRevert (t : Ticket) (kind : Nat) (s : State) {pq : List Instr}
    (hk : Kept pq s) : Kept pq (applyRevert t kind s).2 := by
  unfold applyRevert
  repeat' first
    | with_reducible assumption
    | with_reducible apply kept_setFirs
    | with_reducible apply kept_coreOff
    | with_reducible apply kept_wearMod
    | split

theorem kept_applyAgeDecide (t : Ticket) (a : AgeDecideArgs) (s : State) {pq : List Instr}
    (hk : Kept pq s) : Kept pq (applyAgeDecide t a s).2 := by
  unfold applyAgeDecide
  repeat' first
    | with_reducible assumption
    | with_reducible apply kept_applyRevert
    | with_reducible apply kept_applyApprove
    | with_reducible apply kept_dropProposal
    | split

end Sys2Proof.Machine
end

