-- ==== Sys2Proof/Laws/KeptAoip.lean ====
section
/-!
SUPPORT. The operations of Machine/Aoip.lean keep the queue and the canonical form of the memories.
-/
namespace Sys2Proof.Machine

theorem kept_rxMod (n : Nat) (f : AoipRx → AoipRx) (s : State) {pq : List Instr}
    (hk : Kept pq s) : Kept pq (rxMod n f s) := by
  unfold rxMod
  repeat' first
    | with_reducible assumption
    | with_reducible apply kept_netMod

theorem kept_igmpLegs (a : AoipRxArgs) (join : Bool) (s : State) {pq : List Instr}
    (hk : Kept pq s) : Kept pq (igmpLegs a join s) := by
  unfold igmpLegs
  repeat' first
    | with_reducible assumption
    | with_reducible apply kept_launch
    | with_reducible refine kept_foldl (fun _ _ _ => ?_) _ ?_
    | split

theorem kept_execAoipPacketReceived (port : Fin 4) (p : RtpIn) (s0 : State) {pq : List Instr}
    (hk : Kept pq s0) : KeptOut pq (execAoipPacketReceived port p s0) := by
  unfold execAoipPacketReceived
  repeat' first
    | with_reducible assumption
    | with_reducible apply kept_rxMod
    | with_reducible apply kept_fin
    | with_reducible apply kept_rxDrop
    | with_reducible apply kept_passBuffer
    | with_reducible apply kept_sticky
    | with_reducible apply keptOut_next
    | split
    | dsimp only [id]

theorem kept_runRx (s : State) (n : Nat) {pq : List Instr}
    (hk : Kept pq s) : Kept pq (runRx s n) := by
  unfold runRx
  repeat' first
    | with_reducible assumption
    | with_reducible apply kept_rxMod
    | with_reducible apply kept_putSource
    | with_reducible apply kept_raise
    | with_reducible apply kept_sticky
    | with_reducible refine kept_foldl (fun _ _ _ => ?_) _ ?_
    | split
    | dsimp only [id]

theorem kept_runAoipRx (s : State) {pq : List Instr}
    (hk : Kept pq s) : Kept pq (runAoipRx s) := by
  unfold runAoipRx
  repeat' first
    | with_reducible assumption
    | with_reducible apply kept_runRx
    | with_reducible refine kept_foldl (fun _ _ _ => ?_) _ ?_
    | dsimp only [id]
    | (simp only [kept_mk]; change Kept pq _)

theorem kept_txStep (n : Nat) (i : Nat) (s : State) {pq : List Instr}
    (hk : Kept pq s) : Kept pq (txStep n i s) := by
  unfold txStep
  repeat' first
    | with_reducible assumption
    | with_reducible apply kept_launch
    | with_reducible apply kept_txMod
    | split
    | dsimp only [id]

theorem kept_runAoipTx (s : State) {pq : List Instr}
    (hk : Kept pq s) : Kept pq (runAoipTx s) := by
  unfold runAoipTx
  repeat' first
    | with_reducible assumption
    | with_reducible apply kept_txStep
    | with_reducible refine kept_foldl (fun _ _ _ => ?_) _ ?_
    | split

theorem kept_execAoipRxSet (h : CmdHdr) (a : AoipRxArgs) (s : State) {pq : List Instr}
    (hk : Kept pq s) : KeptOut pq (execAoipRxSet h a s) := by
  unfold execAoipRxSet
  repeat' first
    | with_reducible assumption
    | with_reducible apply kept_fin
    | with_reducible apply kept_noPre
    | with_reducible apply kept_timedCmd
    | with_reducible intro _

theorem kept_applyAoipRx (n : Fin 256) (a : AoipRxArgs) (s : State) {pq : List Instr}
    (hk : Kept pq s) : Kept pq (applyAoipRx n a s).2 := by
  unfold applyAoipRx
  repeat' first
    | with_reducible assumption
    | with_reducible apply kept_igmpLegs
    | with_reducible apply kept_rxMod
    | with_reducible apply kept_netMod
    | split
    | dsimp only [id]

theorem kept_execAoipTxSet (h : CmdHdr) (a : AoipTxArgs) (s : State) {pq : List Instr}
    (hk : Kept pq s) : KeptOut pq (execAoipTxSet h a s) := by
  unfold execAoipTxSet
  repeat' first
    | with_reducible assumption
    | with_reducible apply kept_fin
    | with_reducible apply kept_noPre
    | with_reducible apply kept_timedCmd
    | with_reducible intro _

theorem kept_applyAoipTx (n : Fin 256) (a : AoipTxArgs) (s : State) {pq : List Instr}
    (hk : Kept pq s) : Kept pq (applyAoipTx n a s).2 := by
  unfold applyAoipTx
  repeat' first
    | with_reducible assumption
    | with_reducible apply kept_txMod
    | with_reducible apply kept_netMod
    | with_reducible apply kept_freshFree
    | split
    | dsimp only [id]

theorem kept_execAoipCsSet (h : CmdHdr) (tick : BitVec 64) (stream pair : Byte) (block : List Byte) (s : State) {pq : List Instr}
    (hk : Kept pq s) : KeptOut pq (execAoipCsSet h tick stream pair block s) := by
  unfold execAoipCsSet
  repeat' first
    | with_reducible assumption
    | with_reducible apply kept_fin
    | with_reducible apply kept_noPre
    | with_reducible apply kept_timedCmd
    | with_reducible intro _

theorem kept_applyAoipCs (n : Fin 256) (pair : Nat) (block : List Byte) (s : State) {pq : List Instr}
    (hk : Kept pq s) : Kept pq (applyAoipCs n pair block s) := by
  unfold applyAoipCs
  repeat' first
    | with_reducible assumption
    | with_reducible apply kept_txMod

theorem kept_execAoipQuery (h : CmdHdr) (dir stream csPair : Byte) (resultAddr : BitVec 64) (s : State) {pq : List Instr}
    (hk : Kept pq s) : KeptOut pq (execAoipQuery h dir stream csPair resultAddr s) := by
  unfold execAoipQuery
  repeat' first
    | with_reducible assumption
    | with_reducible apply kept_fin
    | with_reducible apply kept_netMod
    | with_reducible apply kept_untimedCmd
    | with_reducible intro _

theorem kept_queryBytes (s : State) (q : AoipQuery) {pq : List Instr}
    (hk : Kept pq s) : Kept pq (queryBytes s q).2 := by
  unfold queryBytes
  repeat' first
    | with_reducible assumption
    | with_reducible apply kept_freshFree
    | split

theorem kept_runAoipQueries (s : State) {pq : List Instr}
    (hk : Kept pq s) : Kept pq (runAoipQueries s) := by
  unfold runAoipQueries
  repeat' first
    | with_reducible assumption
    | with_reducible apply kept_queryBytes
    | with_reducible apply kept_rxMod
    | with_reducible apply kept_netMod
    | with_reducible apply kept_resultThen
    | with_reducible refine kept_foldl (fun _ _ _ => ?_) _ ?_
    | split

end Sys2Proof.Machine
end

