-- ==== Sys2Proof/Laws/KeptBench.lean ====
section
/-!
SUPPORT. The operations of Machine/Bench.lean keep the queue and the canonical form of the memories.
-/
namespace Sys2Proof.Machine

theorem kept_setBench (b : Nat) (x : Bench) (s : State) {pq : List Instr}
    (hk : Kept pq s) : Kept pq (setBench b x s) := by
  unfold setBench
  repeat' first
    | with_reducible assumption
    | dsimp only [id]
    | (simp only [kept_mk]; change Kept pq _)

theorem kept_setObj (h : Nat) (o : BObj) (s : State) {pq : List Instr}
    (hk : Kept pq s) : Kept pq (setObj h o s) := by
  unfold setObj
  repeat' first
    | with_reducible assumption
    | dsimp only [id]
    | (simp only [kept_mk]; change Kept pq _)

theorem kept_freeObj (h : Nat) (s : State) {pq : List Instr}
    (hk : Kept pq s) : Kept pq (freeObj h s) := by
  unfold freeObj
  repeat' first
    | with_reducible assumption
    | with_reducible apply kept_complete
    | split
    | dsimp only [id]
    | (simp only [kept_mk]; change Kept pq _)

theorem kept_advanceBenches (s : State) {pq : List Instr}
    (hk : Kept pq s) : Kept pq (advanceBenches s) := by
  unfold advanceBenches
  repeat' first
    | with_reducible assumption
    | dsimp only [id]
    | (simp only [kept_mk]; change Kept pq _)

theorem kept_applyDelay (h : Nat) (t : Ticket) (xfade power : Bool) (delay ms : Nat) (s : State) {pq : List Instr}
    (hk : Kept pq s) : Kept pq (applyDelay h t xfade power delay ms s).2 := by
  unfold applyDelay
  repeat' first
    | with_reducible assumption
    | with_reducible apply kept_setObj
    | with_reducible apply kept_complete
    | split
    | dsimp only [id]

theorem kept_startDeferred (s : State) {pq : List Instr}
    (hk : Kept pq s) : Kept pq (startDeferred s) := by
  unfold startDeferred
  repeat' first
    | with_reducible assumption
    | with_reducible apply kept_setObj
    | with_reducible apply kept_complete
    | with_reducible refine kept_foldl (fun _ _ _ => ?_) _ ?_
    | split

theorem kept_applyPlayStart (h : Nat) (loop : Option Nat) (start : Nat) (gain : Word) (ms : Nat) (s : State) {pq : List Instr}
    (hk : Kept pq s) : Kept pq (applyPlayStart h loop start gain ms s).2 := by
  unfold applyPlayStart
  repeat' first
    | with_reducible assumption
    | with_reducible apply kept_setObj
    | split

theorem kept_applyPlayStop (h ms : Nat) (s : State) {pq : List Instr}
    (hk : Kept pq s) : Kept pq (applyPlayStop h ms s).2 := by
  unfold applyPlayStop
  repeat' first
    | with_reducible assumption
    | with_reducible apply kept_setObj
    | split

theorem kept_applyCapture (h action start : Nat) (s : State) {pq : List Instr}
    (hk : Kept pq s) : Kept pq (applyCapture h action start s).2 := by
  unfold applyCapture
  repeat' first
    | with_reducible assumption
    | with_reducible apply kept_setObj
    | split

theorem kept_snapWords (i : SnapItem) (s : State) {pq : List Instr}
    (hk : Kept pq s) : Kept pq (snapWords i s).2 := by
  unfold snapWords
  repeat' first
    | with_reducible assumption
    | with_reducible apply kept_rampRecords
    | split

theorem kept_snapAll (x0 : List SnapItem) (x1 : State) {pq : List Instr}
    (hk : Kept pq x1) : Kept pq (snapAll x0 x1).2 := by
  induction x0 generalizing x1 with
  | nil => unfold snapAll; assumption
  | cons _ _ ih =>
  unfold snapAll
  repeat' first
    | with_reducible assumption
    | with_reducible apply kept_snapWords
    | with_reducible apply ih

theorem kept_applySnap (h : Nat) (items : List SnapItem) (s : State) {pq : List Instr}
    (hk : Kept pq s) : Kept pq (applySnap h items s).2 := by
  unfold applySnap
  repeat' first
    | with_reducible assumption
    | with_reducible apply kept_snapAll
    | with_reducible apply kept_setObj
    | split
    | dsimp only [id]

theorem kept_dramError (e : DramError) (s : State) {pq : List Instr}
    (hk : Kept pq s) : Kept pq (dramError e s) := by
  unfold dramError
  repeat' first
    | with_reducible assumption
    | with_reducible apply kept_raise
    | with_reducible apply kept_sticky
    | with_reducible apply kept_bump
    | with_reducible apply kept_regSet
    | split

theorem kept_benchError (e : DramError) (s : State) {pq : List Instr}
    (hk : Kept pq s) : Kept pq (benchError e s) := by
  unfold benchError
  repeat' first
    | with_reducible assumption
    | with_reducible apply kept_dramError
    | with_reducible apply kept_matrixError
    | split

theorem kept_putBenchSource (e : Nat) (b : Blk) (s : State) {pq : List Instr}
    (hk : Kept pq s) : Kept pq (putBenchSource e b s) := by
  unfold putBenchSource
  repeat' first
    | with_reducible assumption
    | dsimp only [id]
    | (simp only [kept_mk]; change Kept pq _)

theorem kept_benchSat (n : Nat) (s : State) {pq : List Instr}
    (hk : Kept pq s) : Kept pq (benchSat n s) := by
  unfold benchSat
  repeat' first
    | with_reducible assumption
    | with_reducible apply kept_countFlag

theorem kept_runObj (errs : List TickDramError) (h : Nat) (o : BObj) (s : State) {pq : List Instr}
    (hk : Kept pq s) : Kept pq (runObj errs h o s) := by
  unfold runObj
  repeat' first
    | with_reducible assumption
    | with_reducible apply kept_benchSat
    | with_reducible apply kept_putBenchSource
    | with_reducible apply kept_setObj
    | with_reducible refine kept_foldl (fun _ _ _ => ?_) _ ?_
    | split

theorem kept_runBenches (errs : List TickDramError) (s : State) {pq : List Instr}
    (hk : Kept pq s) : Kept pq (runBenches errs s) := by
  unfold runBenches
  repeat' first
    | with_reducible assumption
    | with_reducible apply kept_runObj
    | with_reducible apply kept_benchError
    | with_reducible refine kept_foldl (fun _ _ _ => ?_) _ ?_
    | dsimp only [id]
    | (simp only [kept_mk]; change Kept pq _)

theorem kept_benchRegs (s : State) {pq : List Instr}
    (hk : Kept pq s) : Kept pq (benchRegs s) := by
  unfold benchRegs
  repeat' first
    | with_reducible assumption
    | with_reducible apply kept_regSet
    | dsimp only [id]
    | (simp only [kept_mk]; change Kept pq _)

theorem kept_runBenchQueries (s : State) {pq : List Instr}
    (hk : Kept pq s) : Kept pq (runBenchQueries s) := by
  unfold runBenchQueries
  repeat' first
    | with_reducible assumption
    | with_reducible apply kept_resultThen
    | with_reducible apply kept_complete
    | with_reducible refine kept_foldl (fun _ _ _ => ?_) _ ?_
    | split
    | dsimp only [id]
    | (simp only [kept_mk]; change Kept pq _)

theorem kept_execBenchCreate (h : CmdHdr) (bench : Byte) (quota : Word) (s : State) {pq : List Instr}
    (hk : Kept pq s) : KeptOut pq (execBenchCreate h bench quota s) := by
  unfold execBenchCreate
  repeat' first
    | with_reducible assumption
    | with_reducible apply kept_setBench
    | with_reducible apply kept_untimedCmd
    | with_reducible apply kept_complete
    | with_reducible apply keptOut_next
    | with_reducible intro _
    | split

theorem kept_execBenchQuota (h : CmdHdr) (bench : Byte) (quota : Word) (s : State) {pq : List Instr}
    (hk : Kept pq s) : KeptOut pq (execBenchQuota h bench quota s) := by
  unfold execBenchQuota
  repeat' first
    | with_reducible assumption
    | with_reducible apply kept_setBench
    | with_reducible apply kept_untimedCmd
    | with_reducible apply kept_complete
    | with_reducible apply keptOut_next
    | with_reducible intro _
    | split
    | dsimp only [id]

theorem kept_execBenchDelete (h : CmdHdr) (bench : Byte) (s : State) {pq : List Instr}
    (hk : Kept pq s) : KeptOut pq (execBenchDelete h bench s) := by
  unfold execBenchDelete
  repeat' first
    | with_reducible assumption
    | with_reducible apply kept_untimedCmd
    | with_reducible apply kept_complete
    | with_reducible apply keptOut_next
    | with_reducible intro _
    | split
    | dsimp only [id]
    | (simp only [kept_mk]; change Kept pq _)

theorem kept_execObjAlloc (h : CmdHdr) (a : ObjAllocArgs) (s : State) {pq : List Instr}
    (hk : Kept pq s) : KeptOut pq (execObjAlloc h a s) := by
  unfold execObjAlloc
  repeat' first
    | with_reducible assumption
    | with_reducible apply kept_setObj
    | with_reducible apply kept_setBench
    | with_reducible apply kept_untimedCmd
    | with_reducible apply kept_complete
    | with_reducible apply keptOut_next
    | with_reducible intro _
    | split
    | dsimp only [id]
    | (simp only [kept_mk]; change Kept pq _)

theorem kept_execObjFree (h : CmdHdr) (tick : BitVec 64) (handle : BitVec 16) (s : State) {pq : List Instr}
    (hk : Kept pq s) : KeptOut pq (execObjFree h tick handle s) := by
  unfold execObjFree
  repeat' first
    | with_reducible assumption
    | with_reducible apply kept_noPre
    | with_reducible apply kept_timedCmd
    | with_reducible apply keptOut_next
    | with_reducible intro _

theorem kept_execDelaySet (h : CmdHdr) (a : DelaySetArgs) (s : State) {pq : List Instr}
    (hk : Kept pq s) : KeptOut pq (execDelaySet h a s) := by
  unfold execDelaySet
  repeat' first
    | with_reducible assumption
    | with_reducible apply kept_noPre
    | with_reducible apply kept_badTimed
    | with_reducible apply kept_timedCmd
    | with_reducible apply keptOut_next
    | with_reducible intro _
    | split

theorem kept_execPlayStart (h : CmdHdr) (a : PlayStartArgs) (s : State) {pq : List Instr}
    (hk : Kept pq s) : KeptOut pq (execPlayStart h a s) := by
  unfold execPlayStart
  repeat' first
    | with_reducible assumption
    | with_reducible apply kept_noPre
    | with_reducible apply kept_badTimed
    | with_reducible apply kept_timedCmd
    | with_reducible apply keptOut_next
    | with_reducible intro _
    | split

theorem kept_execPlayStop (h : CmdHdr) (tick : BitVec 64) (handle rampMs : BitVec 16) (s : State) {pq : List Instr}
    (hk : Kept pq s) : KeptOut pq (execPlayStop h tick handle rampMs s) := by
  unfold execPlayStop
  repeat' first
    | with_reducible assumption
    | with_reducible apply kept_noPre
    | with_reducible apply kept_badTimed
    | with_reducible apply kept_timedCmd
    | with_reducible apply keptOut_next
    | with_reducible intro _
    | split

theorem kept_execCaptureCtrl (h : CmdHdr) (a : CaptureCtrlArgs) (s : State) {pq : List Instr}
    (hk : Kept pq s) : KeptOut pq (execCaptureCtrl h a s) := by
  unfold execCaptureCtrl
  repeat' first
    | with_reducible assumption
    | with_reducible apply kept_noPre
    | with_reducible apply kept_timedCmd
    | with_reducible apply keptOut_next
    | with_reducible intro _

theorem kept_execBenchWrite (h : CmdHdr) (a : BenchDataArgs) (s : State) {pq : List Instr}
    (hk : Kept pq s) : KeptOut pq (execBenchWrite h a s) := by
  unfold execBenchWrite
  repeat' first
    | with_reducible assumption
    | with_reducible apply kept_setObj
    | with_reducible apply kept_untimedCmd
    | with_reducible apply kept_complete
    | with_reducible apply keptOut_next
    | with_reducible intro _
    | split

theorem kept_execBenchRead (h : CmdHdr) (a : BenchDataArgs) (errors : List ReadDramError) (s : State) {pq : List Instr}
    (hk : Kept pq s) : KeptOut pq (execBenchRead h a errors s) := by
  unfold execBenchRead
  repeat' first
    | with_reducible assumption
    | with_reducible apply kept_benchError
    | with_reducible apply kept_resultWith
    | with_reducible apply kept_untimedCmd
    | with_reducible apply kept_complete
    | with_reducible apply keptOut_next
    | with_reducible refine kept_foldl (fun _ _ _ => ?_) _ ?_
    | with_reducible intro _
    | split

theorem kept_execSnapTake (h : CmdHdr) (a : SnapTakeArgs) (s : State) {pq : List Instr}
    (hk : Kept pq s) : KeptOut pq (execSnapTake h a s) := by
  unfold execSnapTake
  repeat' first
    | with_reducible assumption
    | with_reducible apply kept_noPre
    | with_reducible apply kept_timedCmd
    | with_reducible apply keptOut_next
    | with_reducible intro _

theorem kept_execBenchQuery (h : CmdHdr) (bench : Byte) (handle : BitVec 16) (resultAddr : BitVec 64) (s : State) {pq : List Instr}
    (hk : Kept pq s) : KeptOut pq (execBenchQuery h bench handle resultAddr s) := by
  unfold execBenchQuery
  repeat' first
    | with_reducible assumption
    | with_reducible apply kept_untimedCmd
    | with_reducible apply kept_complete
    | with_reducible apply keptOut_next
    | with_reducible intro _
    | split
    | dsimp only [id]
    | (simp only [kept_mk]; change Kept pq _)

theorem kept_execScrub (errors : List DramError) (percent : BitVec 7) (s : State) {pq : List Instr}
    (hk : Kept pq s) : KeptOut pq (execScrub errors percent s) := by
  unfold execScrub
  repeat' first
    | with_reducible assumption
    | with_reducible apply kept_dramError
    | with_reducible apply kept_bumpFld
    | with_reducible apply kept_regSetFld
    | with_reducible apply keptOut_next
    | with_reducible refine kept_foldl (fun _ _ _ => ?_) _ ?_
    | split

end Sys2Proof.Machine
end

