-- ==== Sys2Proof/Laws/KeptPorts.lean ====
section
/-!
SUPPORT. The operations of Machine/Ports.lean keep the queue and the canonical form of the memories.
-/
namespace Sys2Proof.Machine

theorem kept_setAsrc (p : Fin 12) (n : Nat) (s : State) {pq : List Instr}
    (hk : Kept pq s) : Kept pq (setAsrc p n s) := by
  unfold setAsrc
  repeat' first
    | with_reducible assumption
    | with_reducible apply kept_portMod

theorem kept_execPortStart (h : CmdHdr) (tick : BitVec 64) (port : PortSel) (trigger : Byte) (s0 : State) {pq : List Instr}
    (hk : Kept pq s0) : KeptOut pq (execPortStart h tick port trigger s0) := by
  unfold execPortStart
  repeat' first
    | with_reducible assumption
    | with_reducible apply kept_setAsrc
    | with_reducible apply kept_fin
    | with_reducible apply kept_portMod
    | with_reducible apply kept_badTimed
    | with_reducible apply kept_timedCmd
    | with_reducible apply kept_accept
    | with_reducible apply kept_complete
    | with_reducible apply kept_hostStores
    | with_reducible apply keptOut_next
    | with_reducible intro _
    | split
    | dsimp only [id]

theorem kept_applyPortStart (p : Fin 12) (s : State) {pq : List Instr}
    (hk : Kept pq s) : Kept pq (applyPortStart p s).2 := by
  unfold applyPortStart
  repeat' first
    | with_reducible assumption
    | with_reducible apply kept_setAsrc
    | with_reducible apply kept_beginPort
    | split

theorem kept_execPortStop (h : CmdHdr) (tick : BitVec 64) (port : PortSel) (s : State) {pq : List Instr}
    (hk : Kept pq s) : KeptOut pq (execPortStop h tick port s) := by
  unfold execPortStop
  repeat' first
    | with_reducible assumption
    | with_reducible apply kept_fin
    | with_reducible apply kept_noPre
    | with_reducible apply kept_badTimed
    | with_reducible apply kept_timedCmd
    | with_reducible intro _
    | split

theorem kept_applyPortStop (p : Fin 12) (s : State) {pq : List Instr}
    (hk : Kept pq s) : Kept pq (applyPortStop p s).2 := by
  unfold applyPortStop
  repeat' first
    | with_reducible assumption
    | with_reducible apply kept_stopAtOnce
    | with_reducible apply kept_enterStopped
    | with_reducible apply kept_portMod
    | split
    | dsimp only [id]

theorem kept_execPostclkEnd (port : Fin 12) (s : State) {pq : List Instr}
    (hk : Kept pq s) : KeptOut pq (execPostclkEnd port s) := by
  unfold execPostclkEnd
  repeat' first
    | with_reducible assumption
    | with_reducible apply kept_fin
    | with_reducible apply kept_enterStopped
    | with_reducible apply keptOut_next
    | split

theorem kept_execPortSlots (h : CmdHdr) (a : PortSlotsArgs) (s : State) {pq : List Instr}
    (hk : Kept pq s) : KeptOut pq (execPortSlots h a s) := by
  unfold execPortSlots
  repeat' first
    | with_reducible assumption
    | with_reducible apply kept_setAsrc
    | with_reducible apply kept_fin
    | with_reducible apply kept_commitNow
    | with_reducible apply kept_timedCmd
    | with_reducible apply kept_untimedCmd
    | with_reducible apply kept_complete
    | with_reducible intro _
    | split
    | dsimp only [id]

theorem kept_commitsAtKerf (s : State) {pq : List Instr}
    (hk : Kept pq s) : Kept pq (commitsAtKerf s) := by
  unfold commitsAtKerf
  repeat' first
    | with_reducible assumption
    | with_reducible apply kept_commitAt
    | with_reducible refine kept_foldl (fun _ _ _ => ?_) _ ?_
    | split

theorem kept_execPortReady (port : Fin 12) (rate ratio : Word) (s : State) {pq : List Instr}
    (hk : Kept pq s) : KeptOut pq (execPortReady port rate ratio s) := by
  unfold execPortReady
  repeat' first
    | with_reducible assumption
    | with_reducible apply kept_portMod
    | with_reducible apply keptOut_next
    | split
    | dsimp only [id]

theorem kept_execPortStartTimeout (port : Fin 12) (s : State) {pq : List Instr}
    (hk : Kept pq s) : KeptOut pq (execPortStartTimeout port s) := by
  unfold execPortStartTimeout
  repeat' first
    | with_reducible assumption
    | with_reducible apply kept_fin
    | with_reducible apply kept_raise
    | with_reducible apply keptOut_next
    | split
    | dsimp only [id]

theorem kept_execStartSplit (port : Fin 12) (s : State) {pq : List Instr}
    (hk : Kept pq s) : KeptOut pq (execStartSplit port s) := by
  unfold execStartSplit
  repeat' first
    | with_reducible assumption
    | with_reducible apply kept_portMod
    | with_reducible apply kept_sticky
    | with_reducible apply keptOut_next
    | split
    | dsimp only [id]

theorem kept_countSpall (p : Fin 12) (n : Nat) (s : State) {pq : List Instr}
    (hk : Kept pq s) : Kept pq (countSpall p n s) := by
  unfold countSpall
  repeat' first
    | with_reducible assumption
    | with_reducible apply kept_sticky
    | with_reducible apply kept_bumpFld
    | with_reducible apply kept_bump
    | split

theorem kept_execPortClockStop (port : Fin 12) (s : State) {pq : List Instr}
    (hk : Kept pq s) : KeptOut pq (execPortClockStop port s) := by
  unfold execPortClockStop
  repeat' first
    | with_reducible assumption
    | with_reducible apply kept_fin
    | with_reducible apply kept_portFault
    | with_reducible apply kept_enterStopped
    | with_reducible apply kept_portMod
    | with_reducible apply kept_raise
    | with_reducible apply kept_sticky
    | with_reducible apply keptOut_next
    | split
    | dsimp only [id]

theorem kept_resync (p : Fin 12) (s : State) {pq : List Instr}
    (hk : Kept pq s) : Kept pq (resync p s) := by
  unfold resync
  repeat' first
    | with_reducible assumption
    | with_reducible apply kept_portFault
    | with_reducible apply kept_portMod
    | with_reducible apply kept_raise
    | with_reducible apply kept_sticky

theorem kept_rateStep (p : Fin 12) (off : Bool) (s : State) {pq : List Instr}
    (hk : Kept pq s) : Kept pq (rateStep p off s) := by
  unfold rateStep
  repeat' first
    | with_reducible assumption
    | with_reducible apply kept_portFault
    | with_reducible apply kept_portMod
    | with_reducible apply kept_raise
    | with_reducible apply kept_sticky
    | split
    | dsimp only [id]

theorem kept_aesBits (p : Fin 12) (f : PortFrameIn) (s : State) {pq : List Instr}
    (hk : Kept pq s) : Kept pq (aesBits p f s) := by
  unfold aesBits
  repeat' first
    | with_reducible assumption
    | with_reducible apply kept_portMod
    | with_reducible refine kept_foldl (fun _ _ _ => ?_) _ ?_

theorem kept_keepFrame (p : Fin 12) (pos : Nat) (f : PortFrameIn) (s : State) {pq : List Instr}
    (hk : Kept pq s) : Kept pq (keepFrame p pos f s) := by
  unfold keepFrame
  repeat' first
    | with_reducible assumption
    | with_reducible apply kept_portMod

theorem kept_goodFrame (p : Fin 12) (pos : Nat) (f : PortFrameIn) (s : State) {pq : List Instr}
    (hk : Kept pq s) : Kept pq (goodFrame p pos f s) := by
  unfold goodFrame
  repeat' first
    | with_reducible assumption
    | with_reducible apply kept_aesBits
    | with_reducible apply kept_countSpall
    | with_reducible apply kept_portMod
    | with_reducible apply kept_sticky
    | split
    | dsimp only [id]

theorem kept_glitch (p : Fin 12) (pos : Nat) (onGrid : Bool) (s : State) {pq : List Instr}
    (hk : Kept pq s) : Kept pq (glitch p pos onGrid s) := by
  unfold glitch
  repeat' first
    | with_reducible assumption
    | with_reducible apply kept_resync
    | with_reducible apply kept_countSpall
    | with_reducible apply kept_portMod
    | split
    | dsimp only [id]

theorem kept_execPortFrame (port : Fin 12) (f : PortFrameIn) (s : State) {pq : List Instr}
    (hk : Kept pq s) : KeptOut pq (execPortFrame port f s) := by
  unfold execPortFrame
  repeat' first
    | with_reducible assumption
    | with_reducible apply kept_glitch
    | with_reducible apply kept_goodFrame
    | with_reducible apply kept_keepFrame
    | with_reducible apply kept_rateStep
    | with_reducible apply kept_resync
    | with_reducible apply kept_fin
    | with_reducible apply kept_portMod
    | with_reducible apply kept_raise
    | with_reducible apply keptOut_next
    | split
    | dsimp only [id]

theorem kept_execAesCsBlock (aes : Fin 4) (subframe : Fin 2) (s : State) {pq : List Instr}
    (hk : Kept pq s) : KeptOut pq (execAesCsBlock aes subframe s) := by
  unfold execAesCsBlock
  repeat' first
    | with_reducible assumption
    | with_reducible apply kept_fin
    | with_reducible apply kept_portMod
    | with_reducible apply kept_raise
    | with_reducible apply kept_report
    | with_reducible apply kept_sticky
    | with_reducible apply kept_bumpFld
    | with_reducible apply keptOut_next
    | split
    | dsimp only [id]

theorem kept_execAesCsSet (h : CmdHdr) (a : AesCsSetArgs) (s : State) {pq : List Instr}
    (hk : Kept pq s) : KeptOut pq (execAesCsSet h a s) := by
  unfold execAesCsSet
  repeat' first
    | with_reducible assumption
    | with_reducible apply kept_fin
    | with_reducible apply kept_noPre
    | with_reducible apply kept_timedCmd
    | with_reducible intro _

theorem kept_applyAesCs (n : Fin 4) (sub : Fin 2) (user : Bool) (block : List Byte) (s : State) {pq : List Instr}
    (hk : Kept pq s) : Kept pq (applyAesCs n sub user block s) := by
  unfold applyAesCs
  repeat' first
    | with_reducible assumption
    | with_reducible apply kept_portMod

theorem kept_alignFrameSync (p : Fin 8) (s : State) {pq : List Instr}
    (hk : Kept pq s) : Kept pq (alignFrameSync p s) := by
  unfold alignFrameSync
  repeat' first
    | with_reducible assumption
    | with_reducible apply kept_countSpall
    | with_reducible apply kept_portMod
    | split
    | dsimp only [id]

theorem kept_portQuery (h : CmdHdr) (p : Option (Fin 12)) (resultAddr : BitVec 64) (s : State) {pq : List Instr}
    (hk : Kept pq s) : KeptOut pq (portQuery h p resultAddr s) := by
  unfold portQuery
  repeat' first
    | with_reducible assumption
    | with_reducible apply kept_fin
    | with_reducible apply kept_untimedCmd
    | with_reducible intro _
    | split
    | dsimp only [id]
    | (simp only [kept_mk]; change Kept pq _)

theorem kept_execPortQuery (h : CmdHdr) (port : PortSel) (resultAddr : BitVec 64) (s : State) {pq : List Instr}
    (hk : Kept pq s) : KeptOut pq (execPortQuery h port resultAddr s) := by
  unfold execPortQuery
  repeat' first
    | with_reducible assumption
    | with_reducible apply kept_portQuery

theorem kept_execAesQuery (h : CmdHdr) (port : PortSel) (resultAddr : BitVec 64) (s : State) {pq : List Instr}
    (hk : Kept pq s) : KeptOut pq (execAesQuery h port resultAddr s) := by
  unfold execAesQuery
  repeat' first
    | with_reducible assumption
    | with_reducible apply kept_portQuery

theorem kept_runPortQueries (s : State) {pq : List Instr}
    (hk : Kept pq s) : Kept pq (runPortQueries s) := by
  unfold runPortQueries
  repeat' first
    | with_reducible assumption
    | with_reducible apply kept_resultThen
    | with_reducible refine kept_foldl (fun _ _ _ => ?_) _ ?_
    | dsimp only [id]
    | (simp only [kept_mk]; change Kept pq _)

end Sys2Proof.Machine
end

