-- ==== Sys2Proof/Laws/KeptProt.lean ====
section
/-!
SUPPORT. The operations of Machine/Prot.lean keep the queue and the canonical form of the memories.
-/
namespace Sys2Proof.Machine

theorem kept_protMod (f : Prot → Prot) (s : State) {pq : List Instr}
    (hk : Kept pq s) : Kept pq (protMod f s) := by
  unfold protMod
  repeat' first
    | with_reducible assumption
    | (simp only [kept_mk]; change Kept pq _)

theorem kept_refuse (cls reason word : Nat) (s : State) {pq : List Instr}
    (hk : Kept pq s) : Kept pq (refuse cls reason word s) := by
  unfold refuse
  repeat' first
    | with_reducible assumption
    | with_reducible apply kept_protMod
    | with_reducible apply kept_raise
    | with_reducible apply kept_bump
    | with_reducible apply kept_regSet

theorem kept_endProposal (s : State) {pq : List Instr}
    (hk : Kept pq s) : Kept pq (endProposal s) := by
  unfold endProposal
  repeat' first
    | with_reducible assumption
    | with_reducible apply kept_protMod

theorem kept_applyItem (s : State) (k : Nat) {pq : List Instr}
    (hk : Kept pq s) : Kept pq (applyItem s k) := by
  unfold applyItem
  repeat' first
    | with_reducible assumption
    | with_reducible apply kept_severityChanged
    | with_reducible apply kept_regSet
    | split
    | dsimp only [id]

theorem kept_storeMod (f : StoreCopy → StoreCopy) (s : State) {pq : List Instr}
    (hk : Kept pq s) : Kept pq (storeMod f s) := by
  unfold storeMod
  repeat' first
    | with_reducible assumption
    | dsimp only [id]
    | (simp only [kept_mk]; change Kept pq _)

theorem kept_propose (cls count : Nat) (s : State) {pq : List Instr}
    (hk : Kept pq s) : Kept pq (propose cls count s) := by
  unfold propose
  repeat' first
    | with_reducible assumption
    | with_reducible apply kept_refuse
    | with_reducible apply kept_protMod
    | with_reducible apply kept_freshFree
    | split

theorem kept_withdraw (cls : Nat) (s : State) {pq : List Instr}
    (hk : Kept pq s) : Kept pq (withdraw cls s) := by
  unfold withdraw
  repeat' first
    | with_reducible assumption
    | with_reducible apply kept_endProposal
    | with_reducible apply kept_refuse
    | with_reducible apply kept_protMod
    | split

theorem kept_commitProposal (s : State) {pq : List Instr}
    (hk : Kept pq s) : Kept pq (commitProposal s) := by
  unfold commitProposal
  repeat' first
    | with_reducible assumption
    | with_reducible apply kept_applyItem
    | with_reducible apply kept_endProposal
    | with_reducible apply kept_protMod
    | with_reducible refine kept_foldl (fun _ _ _ => ?_) _ ?_

theorem kept_protConfirm (cls : Nat) (value : Word) (s : State) {pq : List Instr}
    (hk : Kept pq s) : Kept pq (protConfirm cls value s) := by
  unfold protConfirm
  repeat' first
    | with_reducible assumption
    | with_reducible apply kept_commitProposal
    | with_reducible apply kept_endProposal
    | with_reducible apply kept_refuse
    | with_reducible apply kept_crcLeft
    | split
    | dsimp only [id]

theorem kept_protCmd (cls : Nat) (value : Word) (s : State) {pq : List Instr}
    (hk : Kept pq s) : Kept pq (protCmd cls value s) := by
  unfold protCmd
  repeat' first
    | with_reducible assumption
    | with_reducible apply kept_withdraw
    | with_reducible apply kept_propose
    | with_reducible apply kept_refuse
    | split

theorem kept_protItemWrite (cls off : Nat) (value : Word) (s : State) {pq : List Instr}
    (hk : Kept pq s) : Kept pq (protItemWrite cls off value s) := by
  unfold protItemWrite
  repeat' first
    | with_reducible assumption
    | with_reducible apply kept_refuse
    | with_reducible apply kept_regSet
    | split

theorem kept_execProtTimeout (s : State) {pq : List Instr}
    (hk : Kept pq s) : KeptOut pq (execProtTimeout s) := by
  unfold execProtTimeout
  repeat' first
    | with_reducible assumption
    | with_reducible apply kept_endProposal
    | with_reducible apply kept_refuse
    | with_reducible apply kept_fin
    | with_reducible apply keptOut_next
    | split

theorem kept_execProtStoreDone (s : State) {pq : List Instr}
    (hk : Kept pq s) : KeptOut pq (execProtStoreDone s) := by
  unfold execProtStoreDone
  repeat' first
    | with_reducible assumption
    | with_reducible apply kept_storeMod
    | with_reducible apply kept_protMod
    | with_reducible apply keptOut_next
    | split

end Sys2Proof.Machine
end

