-- ==== Sys2Proof/Laws/KeptTimeCmp.lean ====
section
/-!
SUPPORT. The operations of Machine/TimeCmp.lean keep the queue and the canonical form of the memories.
-/
namespace Sys2Proof.Machine

theorem kept_evtMod (k : Fin 4) (f : EvtPin → EvtPin) (s : State) {pq : List Instr}
    (hk : Kept pq s) : Kept pq (evtMod k f s) := by
  unfold evtMod
  repeat' first
    | with_reducible assumption
    | with_reducible apply kept_netMod

theorem kept_driveEvt (unit : Fin 32) (action pulse : Nat) (k : Fin 4) (t : Nat) (s : State) {pq : List Instr}
    (hk : Kept pq s) : Kept pq (driveEvt unit action pulse k t s) := by
  unfold driveEvt
  repeat' first
    | with_reducible assumption
    | with_reducible apply kept_evtMod
    | split

theorem kept_writeEvtCfg (value : Word) (s : State) {pq : List Instr}
    (hk : Kept pq s) : Kept pq (writeEvtCfg value s) := by
  unfold writeEvtCfg
  repeat' first
    | with_reducible assumption
    | with_reducible apply kept_evtMod
    | with_reducible apply kept_regSet
    | with_reducible refine kept_foldl (fun _ _ _ => ?_) _ ?_
    | split

theorem kept_runEvt (s : State) {pq : List Instr}
    (hk : Kept pq s) : Kept pq (runEvt s) := by
  unfold runEvt
  repeat' first
    | with_reducible assumption
    | with_reducible apply kept_netMod

theorem kept_cmpMod (u : Fin 32) (c : Comparator) (s : State) {pq : List Instr}
    (hk : Kept pq s) : Kept pq (cmpMod u c s) := by
  unfold cmpMod
  repeat' first
    | with_reducible assumption
    | with_reducible apply kept_netMod

theorem kept_cmpFire (u : Fin 32) (t : Nat) (s : State) {pq : List Instr}
    (hk : Kept pq s) : Kept pq (cmpFire u t s) := by
  unfold cmpFire
  repeat' first
    | with_reducible assumption
    | with_reducible apply kept_driveEvt
    | with_reducible apply kept_fireTrigger
    | with_reducible apply kept_report
    | split
    | dsimp only [id]

theorem kept_execCmpFire (unit : Fin 32) (s : State) {pq : List Instr}
    (hk : Kept pq s) : KeptOut pq (execCmpFire unit s) := by
  unfold execCmpFire
  repeat' first
    | with_reducible assumption
    | with_reducible apply kept_cmpFire
    | with_reducible apply kept_cmpMod
    | with_reducible apply kept_fin
    | with_reducible apply keptOut_next
    | split
    | dsimp only [id]

theorem kept_execCmpSet (h : CmdHdr) (a : CmpSetArgs) (s : State) {pq : List Instr}
    (hk : Kept pq s) : KeptOut pq (execCmpSet h a s) := by
  unfold execCmpSet
  repeat' first
    | with_reducible assumption
    | with_reducible apply kept_cmpFire
    | with_reducible apply kept_cmpMod
    | with_reducible apply kept_fin
    | with_reducible apply kept_nodeNow
    | with_reducible apply kept_untimedCmd
    | with_reducible apply kept_complete
    | with_reducible intro _
    | split
    | dsimp only [id]

theorem kept_captureOne (u : Fin 16) (t : Nat) (s : State) {pq : List Instr}
    (hk : Kept pq s) : Kept pq (captureOne u t s) := by
  unfold captureOne
  repeat' first
    | with_reducible assumption
    | with_reducible apply kept_netMod
    | with_reducible apply kept_report
    | with_reducible apply kept_sticky
    | split
    | dsimp only [id]

theorem kept_execCaptureEdge (source : BitVec 6) (rising : Bool) (time : TimeVal) (s : State) {pq : List Instr}
    (hk : Kept pq s) : KeptOut pq (execCaptureEdge source rising time s) := by
  unfold execCaptureEdge
  repeat' first
    | with_reducible assumption
    | with_reducible apply kept_captureOne
    | with_reducible apply kept_fin
    | with_reducible apply keptOut_next
    | with_reducible refine kept_foldl (fun _ _ _ => ?_) _ ?_
    | split

theorem kept_execTimeQuery (h : CmdHdr) (resultAddr : BitVec 64) (s : State) {pq : List Instr}
    (hk : Kept pq s) : KeptOut pq (execTimeQuery h resultAddr s) := by
  unfold execTimeQuery
  repeat' first
    | with_reducible assumption
    | with_reducible apply kept_fin
    | with_reducible apply kept_nodeNow
    | with_reducible apply kept_resultThen
    | with_reducible apply kept_untimedCmd
    | with_reducible intro _

end Sys2Proof.Machine
end

