-- ==== Sys2Proof/Laws/KeptBoot.lean ====
section
/-!
SUPPORT. The operations of Machine/Boot.lean keep the queue and the canonical form of the memories.
-/
namespace Sys2Proof.Machine

theorem kept_powerMod (f : Power → Power) (s : State) {pq : List Instr}
    (hk : Kept pq s) : Kept pq (powerMod f s) := by
  unfold powerMod
  repeat' first
    | with_reducible assumption
    | (simp only [kept_mk]; change Kept pq _)

theorem kept_flashMod (f : Flash → Flash) (s : State) {pq : List Instr}
    (hk : Kept pq s) : Kept pq (flashMod f s) := by
  unfold flashMod
  repeat' first
    | with_reducible assumption
    | (simp only [kept_mk]; change Kept pq _)

theorem kept_slotMod (x : Fin 2) (f : SlotInfo → SlotInfo) (s : State) {pq : List Instr}
    (hk : Kept pq s) : Kept pq (slotMod x f s) := by
  unfold slotMod
  repeat' first
    | with_reducible assumption
    | with_reducible apply kept_flashMod

theorem kept_writePtr0 (w : Word) (s : State) {pq : List Instr}
    (hk : Kept pq s) : Kept pq (writePtr0 w s) := by
  unfold writePtr0
  repeat' first
    | with_reducible assumption
    | with_reducible apply kept_flashMod

theorem kept_writePtr1 (w : Word) (s : State) {pq : List Instr}
    (hk : Kept pq s) : Kept pq (writePtr1 w s) := by
  unfold writePtr1
  repeat' first
    | with_reducible assumption
    | with_reducible apply kept_flashMod

theorem kept_cutCommit (s : State) {pq : List Instr}
    (hk : Kept pq s) : Kept pq (cutCommit s) := by
  unfold cutCommit
  repeat' first
    | with_reducible assumption
    | with_reducible apply kept_writePtr0
    | with_reducible apply kept_slotMod
    | with_reducible apply kept_flashMod
    | with_reducible apply kept_freshFree
    | split
    | dsimp only [id]

theorem kept_resetTo (cold : Bool) (cause : ResetCause) (s0 : State) {pq : List Instr} (hk : Kept pq s0) :
    Kept pq (resetTo cold cause s0) := by
  have h := kept_cutCommit s0 hk
  exact ⟨h.1, h.2.1, h.2.2.1, rfl⟩

theorem kept_bootFault (src inst : Nat) (s : State) {pq : List Instr}
    (hk : Kept pq s) : Kept pq (bootFault src inst s) := by
  unfold bootFault
  repeat' first
    | with_reducible assumption
    | with_reducible apply kept_powerMod

theorem kept_execPowerOn (compat pvinAbsent : Bool) (s : State) {pq : List Instr}
    (hk : Kept pq s) : KeptOut pq (execPowerOn compat pvinAbsent s) := by
  unfold execPowerOn
  repeat' first
    | with_reducible assumption
    | with_reducible apply kept_resetTo
    | with_reducible apply kept_powerMod
    | with_reducible apply keptOut_next
    | split

theorem kept_coldOff (cause : ResetCause) (s : State) {pq : List Instr}
    (hk : Kept pq s) : Kept pq (coldOff cause s) := by
  unfold coldOff
  repeat' first
    | with_reducible assumption
    | with_reducible apply kept_resetTo
    | with_reducible apply kept_powerMod

theorem kept_execPinReset (s : State) {pq : List Instr}
    (hk : Kept pq s) : KeptOut pq (execPinReset s) := by
  unfold execPinReset
  repeat' first
    | with_reducible assumption
    | with_reducible apply kept_coldOff
    | with_reducible apply keptOut_next

theorem kept_execBrownOut (s : State) {pq : List Instr}
    (hk : Kept pq s) : KeptOut pq (execBrownOut s) := by
  unfold execBrownOut
  repeat' first
    | with_reducible assumption
    | with_reducible apply kept_coldOff
    | with_reducible apply kept_bootFault
    | with_reducible apply kept_powerMod
    | with_reducible apply keptOut_next

theorem kept_execOverTemperature (s : State) {pq : List Instr}
    (hk : Kept pq s) : KeptOut pq (execOverTemperature s) := by
  unfold execOverTemperature
  repeat' first
    | with_reducible assumption
    | with_reducible apply kept_coldOff
    | with_reducible apply kept_bootFault
    | with_reducible apply kept_powerMod
    | with_reducible apply keptOut_next

theorem kept_execOverTemperatureRecover (compat : Bool) (s : State) {pq : List Instr}
    (hk : Kept pq s) : KeptOut pq (execOverTemperatureRecover compat s) := by
  unfold execOverTemperatureRecover
  repeat' first
    | with_reducible assumption
    | with_reducible apply kept_resetTo
    | with_reducible apply kept_powerMod
    | with_reducible apply keptOut_next
    | split

theorem kept_requestWarm (cause : ResetCause) (s : State) {pq : List Instr}
    (hk : Kept pq s) : Kept pq (requestWarm cause s) := by
  unfold requestWarm
  repeat' first
    | with_reducible assumption
    | with_reducible apply kept_powerMod
    | with_reducible apply kept_muteAll
    | split

theorem kept_execWarmReset (s : State) {pq : List Instr}
    (hk : Kept pq s) : KeptOut pq (execWarmReset s) := by
  unfold execWarmReset
  repeat' first
    | with_reducible assumption
    | with_reducible apply kept_resetTo
    | with_reducible apply keptOut_next
    | split

theorem kept_markChosen (s : State) {pq : List Instr}
    (hk : Kept pq s) : Kept pq (markChosen s) := by
  unfold markChosen
  repeat' first
    | with_reducible assumption
    | with_reducible apply kept_slotMod

theorem kept_execWatchdog (s : State) {pq : List Instr}
    (hk : Kept pq s) : KeptOut pq (execWatchdog s) := by
  unfold execWatchdog
  repeat' first
    | with_reducible assumption
    | with_reducible apply kept_markChosen
    | with_reducible apply kept_requestWarm
    | with_reducible apply kept_bootFault
    | with_reducible apply kept_resetTo
    | with_reducible apply kept_powerMod
    | with_reducible apply keptOut_next
    | split

theorem kept_repairCopies (s : State) {pq : List Instr}
    (hk : Kept pq s) : Kept pq (repairCopies s) := by
  unfold repairCopies
  repeat' first
    | with_reducible assumption
    | with_reducible apply kept_bootFault
    | with_reducible apply kept_writePtr1
    | with_reducible apply kept_writePtr0
    | split
    | dsimp only [id]

theorem kept_fillBands (s : State) {pq : List Instr}
    (hk : Kept pq s) : Kept pq (fillBands s) := by
  unfold fillBands
  repeat' first
    | with_reducible assumption
    | with_reducible apply kept_regSet
    | with_reducible refine kept_foldl (fun _ _ _ => ?_) _ ?_

theorem kept_settleWriting (s : State) {pq : List Instr}
    (hk : Kept pq s) : Kept pq (settleWriting s) := by
  unfold settleWriting
  repeat' first
    | with_reducible assumption
    | with_reducible apply kept_slotMod
    | with_reducible refine kept_foldl (fun _ _ _ => ?_) _ ?_
    | split

theorem kept_bootFrom (x : Fin 2) (fallback : Bool) (c : ImageCheck) (s : State) {pq : List Instr}
    (hk : Kept pq s) : Kept pq (bootFrom x fallback c s) := by
  unfold bootFrom
  repeat' first
    | with_reducible assumption
    | with_reducible apply kept_settleWriting
    | with_reducible apply kept_fillBands
    | with_reducible apply kept_repairCopies
    | with_reducible apply kept_slotMod
    | with_reducible apply kept_powerMod

theorem kept_execImageVerified (a b : ImageCheck) (s : State) {pq : List Instr}
    (hk : Kept pq s) : KeptOut pq (execImageVerified a b s) := by
  unfold execImageVerified
  repeat' first
    | with_reducible assumption
    | with_reducible apply kept_bootFrom
    | with_reducible apply kept_bootFault
    | with_reducible apply kept_slotMod
    | with_reducible apply kept_powerMod
    | with_reducible apply keptOut_next
    | split
    | dsimp only [id]

theorem kept_loadRwp (s : State) {pq : List Instr}
    (hk : Kept pq s) : Kept pq (loadRwp s) := by
  unfold loadRwp
  repeat' first
    | with_reducible assumption
    | with_reducible apply kept_protMod
    | with_reducible apply kept_regSet
    | with_reducible refine kept_foldl (fun _ _ _ => ?_) _ ?_

theorem kept_claimId (s : State) {pq : List Instr}
    (hk : Kept pq s) : Kept pq (claimId s) := by
  unfold claimId
  repeat' first
    | with_reducible assumption
    | split
    | dsimp only [id]
    | (simp only [kept_mk]; change Kept pq _)

theorem kept_startTime (s : State) {pq : List Instr}
    (hk : Kept pq s) : Kept pq (startTime s) := by
  unfold startTime
  repeat' first
    | with_reducible assumption
    | with_reducible apply kept_clk
    | split

theorem kept_execHostReady (s : State) {pq : List Instr}
    (hk : Kept pq s) : KeptOut pq (execHostReady s) := by
  unfold execHostReady
  repeat' first
    | with_reducible assumption
    | with_reducible apply kept_startTime
    | with_reducible apply kept_claimId
    | with_reducible apply kept_loadRwp
    | with_reducible apply kept_powerMod
    | with_reducible apply kept_setFirs
    | with_reducible apply kept_fin
    | with_reducible apply kept_startTraining
    | with_reducible apply kept_linkMod
    | with_reducible apply kept_raise
    | with_reducible apply keptOut_next
    | with_reducible refine kept_foldl (fun _ _ _ => ?_) _ ?_
    | split

theorem kept_crcImage (c : ImageCheck) (s : State) {pq : List Instr}
    (hk : Kept pq s) : Kept pq (crcImage c s) := by
  unfold crcImage
  repeat' first
    | with_reducible assumption
    | with_reducible apply kept_crcLeft
    | split

theorem kept_execSlotCheck (c : ImageCheck) (s : State) {pq : List Instr}
    (hk : Kept pq s) : KeptOut pq (execSlotCheck c s) := by
  unfold execSlotCheck
  repeat' first
    | with_reducible assumption
    | with_reducible apply kept_crcImage
    | with_reducible apply kept_slotMod
    | with_reducible apply keptOut_next
    | split

theorem kept_consumeAuth (s : State) {pq : List Instr}
    (hk : Kept pq s) : Kept pq (consumeAuth s) := by
  unfold consumeAuth
  repeat' first
    | with_reducible assumption
    | with_reducible apply kept_storeMod
    | with_reducible apply kept_protMod
    | with_reducible apply kept_regSetFld

theorem kept_execImgCommit (h : CmdHdr) (a : ImgCommitArgs) (s : State) {pq : List Instr}
    (hk : Kept pq s) : KeptOut pq (execImgCommit h a s) := by
  unfold execImgCommit
  repeat' first
    | with_reducible assumption
    | with_reducible apply kept_consumeAuth
    | with_reducible apply kept_flashMod
    | with_reducible apply kept_fin
    | with_reducible apply kept_untimedCmd
    | with_reducible apply kept_complete
    | with_reducible intro _
    | split

theorem kept_endCommit (c : Commit) (status specific : Nat) (s : State) {pq : List Instr}
    (hk : Kept pq s) : Kept pq (endCommit c status specific s) := by
  unfold endCommit
  repeat' first
    | with_reducible assumption
    | with_reducible apply kept_flashMod
    | with_reducible apply kept_complete

theorem kept_flashFail (c : Commit) (s : State) {pq : List Instr}
    (hk : Kept pq s) : Kept pq (flashFail c s) := by
  unfold flashFail
  repeat' first
    | with_reducible assumption
    | with_reducible apply kept_endCommit
    | with_reducible apply kept_slotMod
    | with_reducible apply kept_raise
    | split

theorem kept_nextStep (c : Commit) (s : State) {pq : List Instr}
    (hk : Kept pq s) : Kept pq (nextStep c s) := by
  unfold nextStep
  repeat' first
    | with_reducible assumption
    | with_reducible apply kept_flashMod

theorem kept_flip (c : Commit) (s : State) {pq : List Instr}
    (hk : Kept pq s) : Kept pq (flip c s) := by
  unfold flip
  repeat' first
    | with_reducible assumption
    | with_reducible apply kept_endCommit
    | with_reducible apply kept_writePtr1
    | with_reducible apply kept_writePtr0
    | with_reducible apply kept_slotMod
    | with_reducible apply kept_flashMod
    | split

theorem kept_execImgCommitStepDone (e : StepEnd) (s : State) {pq : List Instr}
    (hk : Kept pq s) : KeptOut pq (execImgCommitStepDone e s) := by
  unfold execImgCommitStepDone
  repeat' first
    | with_reducible assumption
    | with_reducible apply kept_flip
    | with_reducible apply kept_nextStep
    | with_reducible apply kept_flashFail
    | with_reducible apply kept_endCommit
    | with_reducible apply kept_crcImage
    | with_reducible apply kept_slotMod
    | with_reducible apply kept_fin
    | with_reducible apply keptOut_next
    | split
    | dsimp only [id]

theorem kept_beginStore (k : StoreKind) (t : Option Ticket) (v : Nat) (s : State) {pq : List Instr}
    (hk : Kept pq s) : Kept pq (beginStore k t v s) := by
  unfold beginStore
  repeat' first
    | with_reducible assumption
    | with_reducible apply kept_flashMod

theorem kept_execImgSelect (h : CmdHdr) (slot : Byte) (s : State) {pq : List Instr}
    (hk : Kept pq s) : KeptOut pq (execImgSelect h slot s) := by
  unfold execImgSelect
  repeat' first
    | with_reducible assumption
    | with_reducible apply kept_beginStore
    | with_reducible apply kept_consumeAuth
    | with_reducible apply kept_fin
    | with_reducible apply kept_untimedCmd
    | with_reducible apply kept_complete
    | with_reducible intro _
    | split
    | dsimp only [id]

theorem kept_execCfgSet (h : CmdHdr) (prefId : BitVec 12) (s : State) {pq : List Instr}
    (hk : Kept pq s) : KeptOut pq (execCfgSet h prefId s) := by
  unfold execCfgSet
  repeat' first
    | with_reducible assumption
    | with_reducible apply kept_beginStore
    | with_reducible apply kept_fin
    | with_reducible apply kept_untimedCmd
    | with_reducible intro _

theorem kept_storeEffect (x : StoreWrite) (s : State) {pq : List Instr}
    (hk : Kept pq s) : Kept pq (storeEffect x s).2 := by
  unfold storeEffect
  repeat' first
    | with_reducible assumption
    | with_reducible apply kept_writePtr1
    | with_reducible apply kept_writePtr0
    | with_reducible apply kept_storeMod
    | split

theorem kept_execStoreWriteDone (kind : StoreKind) (s : State) {pq : List Instr}
    (hk : Kept pq s) : KeptOut pq (execStoreWriteDone kind s) := by
  unfold execStoreWriteDone
  repeat' first
    | with_reducible assumption
    | with_reducible apply kept_storeEffect
    | with_reducible apply kept_flashMod
    | with_reducible apply kept_fin
    | with_reducible apply kept_complete
    | with_reducible apply keptOut_next
    | split

theorem kept_execSleep (h : CmdHdr) (a : SleepArgs) (s : State) {pq : List Instr}
    (hk : Kept pq s) : KeptOut pq (execSleep h a s) := by
  unfold execSleep
  repeat' first
    | with_reducible assumption
    | with_reducible apply kept_fin
    | with_reducible apply kept_noPre
    | with_reducible apply kept_timedCmd
    | with_reducible intro _

theorem kept_applySleep (a : SleepArgs) (s : State) {pq : List Instr}
    (hk : Kept pq s) : Kept pq (applySleep a s).2 := by
  unfold applySleep
  repeat' first
    | with_reducible assumption
    | with_reducible apply kept_powerMod
    | with_reducible apply kept_applyLinkCmd
    | with_reducible refine kept_foldl (fun _ _ _ => ?_) _ ?_
    | split

theorem kept_wake (source : Fin 8) (s : State) {pq : List Instr}
    (hk : Kept pq s) : Kept pq (wake source s) := by
  unfold wake
  repeat' first
    | with_reducible assumption
    | with_reducible apply kept_powerMod
    | with_reducible apply kept_startTraining
    | with_reducible apply kept_linkMod
    | with_reducible apply kept_report
    | with_reducible refine kept_foldl (fun _ _ _ => ?_) _ ?_

theorem kept_wakeBy (source : Fin 8) (s : State) {pq : List Instr}
    (hk : Kept pq s) : Kept pq (wakeBy source s) := by
  unfold wakeBy
  repeat' first
    | with_reducible assumption
    | with_reducible apply kept_wake
    | split

theorem kept_execSleepWake (source : Fin 8) (s : State) {pq : List Instr}
    (hk : Kept pq s) : KeptOut pq (execSleepWake source s) := by
  unfold execSleepWake
  repeat' first
    | with_reducible assumption
    | with_reducible apply kept_wakeBy
    | with_reducible apply kept_fin
    | with_reducible apply keptOut_next
    | split

theorem kept_squelchLinks (s : State) {pq : List Instr}
    (hk : Kept pq s) : Kept pq (squelchLinks s) := by
  unfold squelchLinks
  repeat' first
    | with_reducible assumption
    | with_reducible apply kept_linkMod
    | with_reducible refine kept_foldl (fun _ _ _ => ?_) _ ?_

theorem kept_stopClocks (s : State) {pq : List Instr}
    (hk : Kept pq s) : Kept pq (stopClocks s) := by
  unfold stopClocks
  repeat' first
    | with_reducible assumption
    | with_reducible apply kept_powerMod
    | with_reducible apply kept_clk
    | with_reducible apply kept_linkDown
    | with_reducible refine kept_foldl (fun _ _ _ => ?_) _ ?_

theorem kept_enterSleep (s : State) {pq : List Instr}
    (hk : Kept pq s) : Kept pq (enterSleep s) := by
  unfold enterSleep
  repeat' first
    | with_reducible assumption
    | with_reducible apply kept_wake
    | with_reducible apply kept_stopClocks
    | with_reducible apply kept_squelchLinks
    | split

theorem kept_writeMediaRate (value : Word) (s : State) {pq : List Instr}
    (hk : Kept pq s) : Kept pq (writeMediaRate value s) := by
  unfold writeMediaRate
  repeat' first
    | with_reducible assumption
    | with_reducible apply kept_beginStore
    | with_reducible apply kept_regSet
    | split
    | dsimp only [id]

theorem kept_writeReset (value : Word) (s : State) {pq : List Instr}
    (hk : Kept pq s) : Kept pq (writeReset value s) := by
  unfold writeReset
  repeat' first
    | with_reducible assumption
    | with_reducible apply kept_requestWarm
    | split

theorem kept_writeLock (apply : State → State) (value : Word) (s : State) {pq : List Instr}
    (h_apply : ∀  s1, Kept pq s1 → Kept pq (apply  s1)) (hk : Kept pq s) : Kept pq (writeLock apply value s) := by
  unfold writeLock
  repeat' first
    | with_reducible assumption
    | with_reducible apply h_apply
    | with_reducible apply kept_regSet
    | split

theorem kept_captureTick (path : AccessPath) (s : State) {pq : List Instr}
    (hk : Kept pq s) : Kept pq (captureTick path s) := by
  unfold captureTick
  repeat' first
    | with_reducible assumption
    | split
    | dsimp only [id]
    | (simp only [kept_mk]; change Kept pq _)

end Sys2Proof.Machine
end

