-- ==== Sys2Proof/Laws/KeptHost.lean ====
section
/-!
SUPPORT. The operations of Machine/Host.lean keep the queue and the canonical form of the memories.
-/
namespace Sys2Proof.Machine

theorem kept_hifMod (f : HostIf → HostIf) (s : State) {pq : List Instr}
    (hk : Kept pq s) : Kept pq (hifMod f s) := by
  unfold hifMod
  repeat' first
    | with_reducible assumption
    | (simp only [kept_mk]; change Kept pq _)

theorem kept_reserveOld (s : State) {pq : List Instr}
    (hk : Kept pq s) : Kept pq (reserveOld s) := by
  unfold reserveOld
  repeat' first
    | with_reducible assumption
    | with_reducible apply kept_hifMod

theorem kept_writeWaiting (s : State) {pq : List Instr}
    (hk : Kept pq s) : Kept pq (writeWaiting s) := by
  unfold writeWaiting
  repeat' first
    | with_reducible assumption
    | with_reducible apply kept_hifMod
    | with_reducible apply kept_postRec
    | with_reducible apply kept_unreserve
    | with_reducible apply kept_ringDone
    | with_reducible refine kept_foldl (fun _ _ _ => ?_) _ ?_
    | split
    | dsimp only [id]

theorem kept_readDirectory (s : State) {pq : List Instr}
    (hk : Kept pq s) : Kept pq (readDirectory s) := by
  unfold readDirectory
  repeat' first
    | with_reducible assumption
    | with_reducible apply kept_writeWaiting
    | with_reducible apply kept_reserveOld
    | with_reducible apply kept_hifMod
    | split
    | dsimp only [id]
    | (simp only [kept_mk]; change Kept pq _)

theorem kept_dmaSettle (s : State) {pq : List Instr}
    (hk : Kept pq s) : Kept pq (dmaSettle s) := by
  unfold dmaSettle
  repeat' first
    | with_reducible assumption
    | with_reducible apply kept_completeAt
    | with_reducible refine kept_foldl (fun _ _ _ => ?_) _ ?_
    | dsimp only [id]
    | (simp only [kept_mk]; change Kept pq _)

theorem kept_dmaDrop (s : State) {pq : List Instr}
    (hk : Kept pq s) : Kept pq (dmaDrop s) := by
  unfold dmaDrop
  repeat' first
    | with_reducible assumption
    | with_reducible apply kept_dmaSettle
    | (simp only [kept_mk]; change Kept pq _)

theorem kept_dropOwner (moves : State → State) (s : State) {pq : List Instr}
    (h_moves : ∀  s1, Kept pq s1 → Kept pq (moves  s1)) (hk : Kept pq s) : Kept pq (dropOwner moves s) := by
  unfold dropOwner
  repeat' first
    | with_reducible assumption
    | with_reducible apply h_moves
    | with_reducible apply kept_dmaDrop
    | with_reducible apply kept_hifMod
    | with_reducible apply kept_recordLost
    | with_reducible refine kept_foldl (fun _ _ _ => ?_) _ ?_
    | dsimp only [id]
    | (simp only [kept_mk]; change Kept pq _)

theorem kept_writeMode (moves : State → State) (value : Word) (s : State) {pq : List Instr}
    (h_moves : ∀  s1, Kept pq s1 → Kept pq (moves  s1)) (hk : Kept pq s) : Kept pq (writeMode moves value s) := by
  unfold writeMode
  repeat' first
    | with_reducible assumption
    | with_reducible apply h_moves
    | with_reducible apply kept_dropOwner
    | with_reducible apply kept_readDirectory
    | with_reducible apply kept_regSetFld
    | with_reducible intro _
    | split
    | dsimp only [id]

theorem kept_stopRings (cause addr : Nat) (eventFails : Bool) (s : State) {pq : List Instr}
    (hk : Kept pq s) : Kept pq (stopRings cause addr eventFails s) := by
  unfold stopRings
  repeat' first
    | with_reducible assumption
    | with_reducible apply kept_hifMod
    | with_reducible apply kept_raise
    | with_reducible apply kept_report
    | with_reducible apply kept_sticky
    | with_reducible apply kept_regSet
    | split

theorem kept_execRingsStopped (cause : BitVec 4) (addr : BitVec 64) (eventWriteFails : Bool) (s : State) {pq : List Instr}
    (hk : Kept pq s) : KeptOut pq (execRingsStopped cause addr eventWriteFails s) := by
  unfold execRingsStopped
  repeat' first
    | with_reducible assumption
    | with_reducible apply kept_stopRings
    | with_reducible apply kept_fin
    | with_reducible apply keptOut_next
    | split

theorem kept_loseEvent (s : State) {pq : List Instr}
    (hk : Kept pq s) : Kept pq (loseEvent s) := by
  unfold loseEvent
  repeat' first
    | with_reducible assumption
    | with_reducible apply kept_hifMod
    | with_reducible apply kept_sticky
    | with_reducible apply kept_bump

theorem kept_postEvent (e : Event) (s : State) {pq : List Instr}
    (hk : Kept pq s) : Kept pq (postEvent e s) := by
  unfold postEvent
  repeat' first
    | with_reducible assumption
    | with_reducible apply kept_writeRec
    | with_reducible apply kept_callIrq

theorem kept_putEvent (e : Event) (s : State) {pq : List Instr}
    (hk : Kept pq s) : Kept pq (putEvent e s) := by
  unfold putEvent
  repeat' first
    | with_reducible assumption
    | with_reducible apply kept_postEvent
    | with_reducible apply kept_loseEvent
    | split

theorem kept_flushEvents (n : Nat) (s : State) {pq : List Instr}
    (hk : Kept pq s) : Kept pq (flushEvents n s) := by
  unfold flushEvents
  repeat' first
    | with_reducible assumption
    | with_reducible apply kept_putEvent
    | with_reducible apply kept_postEvent
    | with_reducible apply kept_loseEvent
    | with_reducible apply kept_hifMod
    | with_reducible apply kept_regSet
    | with_reducible refine kept_foldl (fun _ _ _ => ?_) _ ?_
    | split
    | dsimp only [id]

theorem kept_raiseDue (s : State) {pq : List Instr}
    (hk : Kept pq s) : Kept pq (raiseDue s) := by
  unfold raiseDue
  repeat' first
    | with_reducible assumption
    | with_reducible apply kept_hifMod
    | with_reducible apply kept_raiseVector
    | with_reducible refine kept_foldl (fun _ _ _ => ?_) _ ?_
    | split
    | dsimp only [id]

end Sys2Proof.Machine
end

