-- ==== Sys2Proof/Laws/KeptEth.lean ====
section
/-!
SUPPORT. The operations of Machine/Eth.lean keep the queue and the canonical form of the memories.
-/
namespace Sys2Proof.Machine

theorem kept_execEthLinkDown (port : Fin 4) (s : State) {pq : List Instr}
    (hk : Kept pq s) : KeptOut pq (execEthLinkDown port s) := by
  unfold execEthLinkDown
  repeat' first
    | with_reducible assumption
    | with_reducible apply kept_fin
    | with_reducible apply kept_ethDown
    | with_reducible apply kept_raise
    | with_reducible apply keptOut_next
    | split

theorem kept_execEthLinkUp (port : Fin 4) (fecLock anPause : Bool) (s : State) {pq : List Instr}
    (hk : Kept pq s) : KeptOut pq (execEthLinkUp port fecLock anPause s) := by
  unfold execEthLinkUp
  repeat' first
    | with_reducible assumption
    | with_reducible apply kept_fin
    | with_reducible apply kept_ethMod
    | with_reducible apply kept_report
    | with_reducible apply keptOut_next
    | split
    | dsimp only [id]

theorem kept_writeEthCtrl (port : Fin 4) (value : Word) (s : State) {pq : List Instr}
    (hk : Kept pq s) : Kept pq (writeEthCtrl port value s) := by
  unfold writeEthCtrl
  repeat' first
    | with_reducible assumption
    | with_reducible apply kept_ethDown
    | with_reducible apply kept_raise
    | with_reducible apply kept_regSet
    | split

theorem kept_answerIgmp (p : Fin 4) (s : State) {pq : List Instr}
    (hk : Kept pq s) : Kept pq (answerIgmp p s) := by
  unfold answerIgmp
  repeat' first
    | with_reducible assumption
    | with_reducible apply kept_launch
    | with_reducible refine kept_foldl (fun _ _ _ => ?_) _ ?_
    | split

theorem kept_execEthFrameReceived (port : Fin 4) (f : EthFrame) (s : State) {pq : List Instr}
    (hk : Kept pq s) : KeptOut pq (execEthFrameReceived port f s) := by
  unfold execEthFrameReceived
  repeat' first
    | with_reducible assumption
    | with_reducible apply kept_answerIgmp
    | with_reducible apply kept_fin
    | with_reducible apply kept_enqueueRx
    | with_reducible apply kept_rxDrop
    | with_reducible apply kept_passBuffer
    | with_reducible apply keptOut_next
    | split
    | dsimp only [id]

theorem kept_execPauseReceived (port : Fin 4) (quanta : BitVec 16) (s : State) {pq : List Instr}
    (hk : Kept pq s) : KeptOut pq (execPauseReceived port quanta s) := by
  unfold execPauseReceived
  repeat' first
    | with_reducible assumption
    | with_reducible apply kept_fin
    | with_reducible apply kept_resumePort
    | with_reducible apply kept_ethMod
    | with_reducible apply kept_bump
    | with_reducible apply keptOut_next
    | split

theorem kept_execPauseExpiry (port : Fin 4) (s : State) {pq : List Instr}
    (hk : Kept pq s) : KeptOut pq (execPauseExpiry port s) := by
  unfold execPauseExpiry
  repeat' first
    | with_reducible assumption
    | with_reducible apply kept_fin
    | with_reducible apply kept_resumePort
    | split
    | with_reducible apply keptOut_next

theorem kept_execPauseWatchdog (port : Fin 4) (s : State) {pq : List Instr}
    (hk : Kept pq s) : KeptOut pq (execPauseWatchdog port s) := by
  unfold execPauseWatchdog
  repeat' first
    | with_reducible assumption
    | with_reducible apply kept_fin
    | with_reducible apply kept_resumePort
    | with_reducible apply kept_raise
    | with_reducible apply kept_sticky
    | with_reducible apply keptOut_next
    | split

theorem kept_execPauseRefresh (port : Fin 4) (s : State) {pq : List Instr}
    (hk : Kept pq s) : KeptOut pq (execPauseRefresh port s) := by
  unfold execPauseRefresh
  repeat' first
    | with_reducible assumption
    | with_reducible apply kept_sendPause
    | with_reducible apply keptOut_next
    | split

theorem kept_writePauseStat (port : Fin 4) (value : Word) (s : State) {pq : List Instr}
    (hk : Kept pq s) : Kept pq (writePauseStat port value s) := by
  unfold writePauseStat
  repeat' first
    | with_reducible assumption
    | with_reducible apply kept_regSet
    | split

theorem kept_announceOf (s : State) (p : Fin 4) {pq : List Instr}
    (hk : Kept pq s) : Kept pq (announceOf s p).2 := by
  unfold announceOf
  repeat' first
    | with_reducible assumption
    | with_reducible apply kept_freshFree
    | split
    | dsimp only [id]

theorem kept_tcForward (port : Fin 4) (m : PtpMsg) (s : State) {pq : List Instr}
    (hk : Kept pq s) : Kept pq (tcForward port m s) := by
  unfold tcForward
  repeat' first
    | with_reducible assumption
    | with_reducible apply kept_launch
    | with_reducible apply kept_bump
    | with_reducible refine kept_foldl (fun _ _ _ => ?_) _ ?_
    | split

theorem kept_sendDelayReq (port : Fin 4) (s : State) {pq : List Instr}
    (hk : Kept pq s) : Kept pq (sendDelayReq port s) := by
  unfold sendDelayReq
  repeat' first
    | with_reducible assumption
    | with_reducible apply kept_launch
    | with_reducible apply kept_ethMod
    | split
    | dsimp only [id]

theorem kept_ptpInstance (port : Fin 4) (m : PtpMsg) (s : State) {pq : List Instr}
    (hk : Kept pq s) : Kept pq (ptpInstance port m s) := by
  unfold ptpInstance
  repeat' first
    | with_reducible assumption
    | with_reducible apply kept_sendDelayReq
    | with_reducible apply kept_launch
    | with_reducible apply kept_ethMod
    | split

theorem kept_execPtpMessage (port : Fin 4) (m : PtpMsg) (s : State) {pq : List Instr}
    (hk : Kept pq s) : KeptOut pq (execPtpMessage port m s) := by
  unfold execPtpMessage
  repeat' first
    | with_reducible assumption
    | with_reducible apply kept_ptpInstance
    | with_reducible apply kept_tcForward
    | with_reducible apply kept_fin
    | with_reducible apply kept_rxDrop
    | with_reducible apply kept_passBuffer
    | with_reducible apply keptOut_next
    | split

theorem kept_execPtpMasterSend (port : Fin 4) (announce : Bool) (s : State) {pq : List Instr}
    (hk : Kept pq s) : KeptOut pq (execPtpMasterSend port announce s) := by
  unfold execPtpMasterSend
  repeat' first
    | with_reducible assumption
    | with_reducible apply kept_announceOf
    | with_reducible apply kept_fin
    | with_reducible apply kept_launch
    | with_reducible apply keptOut_next
    | split

theorem kept_ptpCfgWritten (port : Fin 4) (was : Bool) (s : State) {pq : List Instr}
    (hk : Kept pq s) : Kept pq (ptpCfgWritten port was s) := by
  unfold ptpCfgWritten
  repeat' first
    | with_reducible assumption
    | with_reducible apply kept_ethMod
    | split

theorem kept_ptpBoundary (p : Fin 4) (s : State) {pq : List Instr}
    (hk : Kept pq s) : Kept pq (ptpBoundary p s) := by
  unfold ptpBoundary
  repeat' first
    | with_reducible assumption
    | with_reducible apply kept_ethMod
    | split
    | dsimp only [id]

theorem kept_pauseLapse (p : Fin 4) (s : State) {pq : List Instr}
    (hk : Kept pq s) : Kept pq (pauseLapse p s) := by
  unfold pauseLapse
  repeat' first
    | with_reducible assumption
    | with_reducible apply kept_ethMod
    | split

theorem kept_runEth (s : State) {pq : List Instr}
    (hk : Kept pq s) : Kept pq (runEth s) := by
  unfold runEth
  repeat' first
    | with_reducible assumption
    | with_reducible apply kept_pauseLapse
    | with_reducible apply kept_ptpBoundary
    | with_reducible apply kept_dropLate
    | with_reducible apply kept_ethMod
    | with_reducible refine kept_foldl (fun _ _ _ => ?_) _ ?_

end Sys2Proof.Machine
end

