-- ==== Sys2Proof/Laws/KeptRegView.lean ====
section
/-!
SUPPORT. The operations of Machine/RegView.lean keep the queue and the canonical form of the memories.
-/
namespace Sys2Proof.Machine

theorem kept_afterRead (path : AccessPath) (off : Nat) (s : State) {pq : List Instr}
    (hk : Kept pq s) : Kept pq (afterRead path off s) := by
  unfold afterRead
  repeat' first
    | with_reducible assumption
    | with_reducible apply kept_captureTick
    | split

end Sys2Proof.Machine
end

