-- ==== Sys2Proof/Laws/KeptRegWrite.lean ====
section
/-!
SUPPORT. The operations of Machine/RegWrite.lean keep the queue and the canonical form of the memories.
-/
namespace Sys2Proof.Machine

theorem kept_clearCounts (off : Nat) (v : Word) (s : State) {pq : List Instr}
    (hk : Kept pq s) : Kept pq (clearCounts off v s) := by
  unfold clearCounts
  repeat' first
    | with_reducible assumption
    | with_reducible apply kept_regSetFld
    | with_reducible refine kept_foldl (fun _ _ _ => ?_) _ ?_
    | split

theorem kept_plainWrite (r : RegRow) (path : AccessPath) (off : Nat) (v : Word) (s : State) {pq : List Instr}
    (hk : Kept pq s) : Kept pq (plainWrite r path off v s) := by
  unfold plainWrite
  repeat' first
    | with_reducible assumption
    | with_reducible apply kept_clearCounts
    | with_reducible apply kept_refuse
    | with_reducible apply kept_regSet
    | split
    | dsimp only [id]

theorem kept_protWrite (path : AccessPath) (off : Nat) (v : Word) (s : State) {pq : List Instr}
    (hk : Kept pq s) : Kept pq (protWrite path off v s) := by
  unfold protWrite
  repeat' first
    | with_reducible assumption
    | with_reducible apply kept_plainWrite
    | with_reducible apply kept_protItemWrite
    | with_reducible apply kept_protCmd
    | with_reducible apply kept_protConfirm
    | with_reducible apply kept_refuse
    | split
    | dsimp only [id]

theorem kept_writeDbgCtrl (path : AccessPath) (v : Word) (s : State) {pq : List Instr}
    (hk : Kept pq s) : Kept pq (writeDbgCtrl path v s) := by
  unfold writeDbgCtrl
  repeat' first
    | with_reducible assumption
    | split
    | dsimp only [id]
    | (simp only [kept_mk]; change Kept pq _)

theorem kept_clearTrace (s : State) {pq : List Instr}
    (hk : Kept pq s) : Kept pq (clearTrace s) := by
  unfold clearTrace
  repeat' first
    | with_reducible assumption
    | with_reducible apply kept_regSetFld
    | dsimp only [id]
    | (simp only [kept_mk]; change Kept pq _)

theorem kept_writeTraceCtrl (v : Word) (s : State) {pq : List Instr}
    (hk : Kept pq s) : Kept pq (writeTraceCtrl v s) := by
  unfold writeTraceCtrl
  repeat' first
    | with_reducible assumption
    | with_reducible apply kept_clearTrace
    | with_reducible apply kept_regSetFld
    | split

theorem kept_writeTgtReq (n : Nat) (v : Word) (s : State) {pq : List Instr}
    (hk : Kept pq s) : Kept pq (writeTgtReq n v s) := by
  unfold writeTgtReq
  repeat' first
    | with_reducible assumption
    | with_reducible apply kept_regSetFld
    | split

theorem kept_lowWrite (mode : Word → State → State) (off : Nat) (v : Word) (s : State) {pq : List Instr}
    (h_mode : ∀ a0 s1, Kept pq s1 → Kept pq (mode a0 s1)) (hk : Kept pq s) : KeptOpt pq (lowWrite mode off v s) := by
  unfold lowWrite
  repeat' first
    | with_reducible assumption
    | with_reducible apply h_mode
    | with_reducible apply kept_writeTgtReq
    | with_reducible apply kept_writeLock
    | with_reducible apply kept_writeReset
    | with_reducible apply kept_writeMediaRate
    | with_reducible apply kept_writeEvtCfg
    | with_reducible apply kept_writePulseCfg
    | with_reducible apply kept_startMeasure
    | with_reducible apply kept_writeRefCfg
    | with_reducible apply kept_crcWrite
    | with_reducible apply kept_applyTopology
    | with_reducible apply kept_writeMeterSrc
    | with_reducible apply kept_writeMeterCtrl
    | with_reducible exact keptOpt_none
    | with_reducible apply keptOpt_some
    | with_reducible apply keptOpt_map
    | with_reducible intro _
    | split

theorem kept_highWrite (path : AccessPath) (off : Nat) (v : Word) (s : State) {pq : List Instr}
    (hk : Kept pq s) : KeptOpt pq (highWrite path off v s) := by
  unfold highWrite
  repeat' first
    | with_reducible assumption
    | with_reducible apply kept_writeTraceCtrl
    | with_reducible apply kept_writeDbgCtrl
    | with_reducible apply kept_plainWrite
    | with_reducible apply kept_ptpCfgWritten
    | with_reducible apply kept_writePauseStat
    | with_reducible apply kept_writeEthCtrl
    | with_reducible apply kept_writeLinkCtrl
    | with_reducible exact keptOpt_none
    | with_reducible apply keptOpt_some
    | with_reducible apply keptOpt_map
    | with_reducible apply keptOpt_bind
    | with_reducible intro _
    | split

theorem kept_regWrite (mode : Word → State → State) (path : AccessPath) (off : Nat) (v : Word) (s : State) {pq : List Instr}
    (h_mode : ∀ a0 s1, Kept pq s1 → Kept pq (mode a0 s1)) (hk : Kept pq s) : Kept pq (regWrite mode path off v s) := by
  unfold regWrite
  repeat' first
    | with_reducible assumption
    | with_reducible apply kept_highWrite
    | with_reducible apply kept_lowWrite
    | with_reducible apply kept_protWrite
    | with_reducible apply kept_plainWrite
    | with_reducible apply kept_severityChanged
    | apply keptOpt_getD
    | split

theorem kept_pathWrite (mode : Word → State → State) (path : AccessPath) (off : Nat) (v : Word) (s : State) {pq : List Instr}
    (h_mode : ∀ a0 s1, Kept pq s1 → Kept pq (mode a0 s1)) (hk : Kept pq s) : Kept pq (pathWrite mode path off v s) := by
  unfold pathWrite
  repeat' first
    | with_reducible assumption
    | with_reducible apply kept_regWrite
    | split

end Sys2Proof.Machine
end

