-- ==== Sys2Proof/Laws/KeptDma.lean ====
section
/-!
SUPPORT. The operations of Machine/Dma.lean keep the queue and the canonical form of the memories.
-/
namespace Sys2Proof.Machine

theorem kept_dmaMod (d : Fin 32) (f : DmaCh → DmaCh) (s : State) {pq : List Instr}
    (hk : Kept pq s) : Kept pq (dmaMod d f s) := by
  unfold dmaMod
  repeat' first
    | with_reducible assumption
    | (simp only [kept_mk]; change Kept pq _)

theorem kept_deviceReadBack (a : Nat) (s : State) {pq : List Instr}
    (hk : Kept pq s) : Kept pq (deviceReadBack a s) := by
  unfold deviceReadBack
  repeat' first
    | with_reducible assumption
    | with_reducible apply kept_afterRead
    | split

theorem kept_dmaReadBack (d : Fin 32) (c : DmaCur) (s : State) {pq : List Instr}
    (hk : Kept pq s) : Kept pq (dmaReadBack d c s) := by
  unfold dmaReadBack
  repeat' first
    | with_reducible assumption
    | with_reducible apply kept_deviceReadBack
    | with_reducible apply kept_useRead
    | split

theorem kept_dmaRecord (d : Fin 32) (c : DmaCur) (status flags residue : Nat) (s : State) {pq : List Instr}
    (hk : Kept pq s) : Kept pq (dmaRecord d c status flags residue s) := by
  unfold dmaRecord
  repeat' first
    | with_reducible assumption
    | with_reducible apply kept_dmaReadBack
    | with_reducible apply kept_dmaMod
    | with_reducible apply kept_hifMod
    | with_reducible apply kept_writeRec
    | with_reducible apply kept_callIrq
    | with_reducible apply kept_useWrite
    | split

theorem kept_dmaFetch (d : Fin 32) (s : State) {pq : List Instr}
    (hk : Kept pq s) : Kept pq (dmaFetch d s) := by
  unfold dmaFetch
  repeat' first
    | with_reducible assumption
    | with_reducible apply kept_useRead
    | split
    | dsimp only [id]

theorem kept_dmaTake (d : Fin 32) (x : DmaDesc) (s : State) {pq : List Instr}
    (hk : Kept pq s) : Kept pq (dmaTake d x s) := by
  unfold dmaTake
  repeat' first
    | with_reducible assumption
    | with_reducible apply kept_dmaMod
    | with_reducible apply kept_hifMod
    | with_reducible apply kept_useRead
    | split

theorem kept_dmaBegin (d : Fin 32) (x0 : Nat) (x1 : State) {pq : List Instr}
    (hk : Kept pq x1) : Kept pq (dmaBegin d x0 x1) := by
  induction x0 generalizing x1 with
  | zero => unfold dmaBegin; assumption
  | succ _ ih =>
  unfold dmaBegin
  repeat' first
    | with_reducible assumption
    | with_reducible apply kept_dmaTake
    | with_reducible apply kept_dmaFetch
    | with_reducible apply kept_dmaRecord
    | with_reducible apply kept_dmaMod
    | with_reducible apply ih
    | split

theorem kept_dmaRest (d : Fin 32) (s : State) {pq : List Instr}
    (hk : Kept pq s) : Kept pq (dmaRest d s) := by
  unfold dmaRest
  repeat' first
    | with_reducible assumption
    | with_reducible apply kept_dmaMod
    | with_reducible apply kept_dmaSettle
    | split
    | dsimp only [id]

theorem kept_devRead (path : AccessPath) (a n : Nat) (s : State) {pq : List Instr}
    (hk : Kept pq s) : Kept pq (devRead path a n s).2 := by
  unfold devRead
  repeat' first
    | with_reducible assumption
    | with_reducible apply kept_afterRead
    | with_reducible refine kept_foldl_snd (fun _ _ _ => ?_) _ ?_
    | split

theorem kept_devWrite (mode : Word → State → State) (path : AccessPath) (a : Nat) (bs : List Byte) (s : State) {pq : List Instr}
    (h_mode : ∀ a0 s1, Kept pq s1 → Kept pq (mode a0 s1)) (hk : Kept pq s) : Kept pq (devWrite mode path a bs s) := by
  unfold devWrite
  repeat' first
    | with_reducible assumption
    | with_reducible apply kept_pathWrite
    | with_reducible apply kept_scratch
    | with_reducible refine kept_foldl (fun _ _ _ => ?_) _ ?_
    | split

theorem kept_dmaMode (v : Word) (s : State) {pq : List Instr}
    (hk : Kept pq s) : Kept pq (dmaMode v s) := by
  unfold dmaMode
  repeat' first
    | with_reducible assumption
    | with_reducible apply kept_writeMode
    | with_reducible intro _
    | dsimp only [id]

theorem kept_deviceMove (x : DmaDesc) (l : List (Nat × Nat)) (s : State) {pq : List Instr}
    (hk : Kept pq s) : Kept pq (deviceMove x l s).2.2.2 := by
  induction l generalizing s with
  | nil => exact hk
  | cons b rest ih =>
    obtain ⟨a, k⟩ := b
    unfold deviceMove
    split
    · refine ih _ ?_
      split
      · exact kept_devRead _ _ _ _ hk
      · exact kept_devWrite _ _ _ _ _ (fun v s1 h => kept_dmaMode v s1 h) hk
    · exact kept_matrixError _ _ _ _ _ hk

theorem kept_dmaMove (d : Fin 32) (x : DmaDesc) (l : List (Nat × Nat)) (s : State) {pq : List Instr}
    (hk : Kept pq s) : Kept pq (dmaMove d x l s).2.2 := by
  have h := kept_deviceMove x l s hk
  dsimp only [dmaMove]
  split
  exacts [h, kept_useWrite _ _ _ _ h]

theorem kept_dmaPartial (d : Fin 32) (x : DmaCur) (s : State) {pq : List Instr}
    (hk : Kept pq s) : Kept pq (dmaPartial d x s).2.2 := by
  unfold dmaPartial
  repeat' first
    | with_reducible assumption
    | with_reducible apply kept_dmaMove
    | with_reducible apply kept_freshFree

theorem kept_dmaMoves (s : State) {pq : List Instr}
    (hk : Kept pq s) : Kept pq (dmaMoves s) := by
  unfold dmaMoves
  repeat' first
    | with_reducible assumption
    | with_reducible apply kept_dmaPartial
    | with_reducible refine kept_foldl (fun _ _ _ => ?_) _ ?_
    | split

theorem kept_setMode (v : Word) (s : State) {pq : List Instr}
    (hk : Kept pq s) : Kept pq (setMode v s) := by
  unfold setMode
  repeat' first
    | with_reducible assumption
    | with_reducible apply kept_dmaMoves
    | with_reducible apply kept_writeMode
    | with_reducible intro _

theorem kept_busWrite (path : AccessPath) (off : Nat) (v : Word) (s : State) {pq : List Instr}
    (hk : Kept pq s) : Kept pq (busWrite path off v s) := by
  unfold busWrite
  repeat' first
    | with_reducible assumption
    | with_reducible apply kept_setMode
    | with_reducible apply kept_pathWrite
    | with_reducible intro _

theorem kept_haltCh (lost moved : Bool) (d : Fin 32) (s : State) {pq : List Instr}
    (hk : Kept pq s) : Kept pq (haltCh lost moved d s) := by
  unfold haltCh
  repeat' first
    | with_reducible assumption
    | with_reducible apply kept_dmaPartial
    | with_reducible apply kept_dmaRecord
    | with_reducible apply kept_dmaMod
    | with_reducible apply kept_hifMod
    | with_reducible refine kept_foldl (fun _ _ _ => ?_) _ ?_
    | split

theorem kept_haltCommands (s : State) {pq : List Instr}
    (hk : Kept pq s) : Kept pq (haltCommands s) := by
  unfold haltCommands
  repeat' first
    | with_reducible assumption
    | with_reducible apply kept_endCommit
    | with_reducible apply kept_failResults
    | with_reducible apply kept_complete
    | with_reducible refine kept_foldl (fun _ _ _ => ?_) _ ?_
    | split
    | (simp only [kept_mk]; change Kept pq _)

theorem kept_dmaHalt (ch cause : Nat) (hostSide : Bool) (addr : Nat) (moved dcqFails : Bool) (s : State) {pq : List Instr}
    (hk : Kept pq s) : Kept pq (dmaHalt ch cause hostSide addr moved dcqFails s) := by
  unfold dmaHalt
  repeat' first
    | with_reducible assumption
    | with_reducible apply kept_haltCommands
    | with_reducible apply kept_haltCh
    | with_reducible apply kept_raise
    | with_reducible apply kept_report
    | with_reducible apply kept_sticky
    | with_reducible apply kept_regSet
    | with_reducible refine kept_foldl (fun _ _ _ => ?_) _ ?_
    | split

theorem kept_execDmaDescriptorBegin (ch : Fin 32) (stores : List HostStore) (s0 : State) {pq : List Instr}
    (hk : Kept pq s0) : KeptOut pq (execDmaDescriptorBegin ch stores s0) := by
  unfold execDmaDescriptorBegin
  repeat' first
    | with_reducible assumption
    | with_reducible apply kept_dmaRest
    | with_reducible apply kept_dmaBegin
    | with_reducible apply kept_dmaTake
    | with_reducible apply kept_dmaFetch
    | with_reducible apply kept_dmaRecord
    | with_reducible apply kept_dmaMod
    | with_reducible apply kept_fin
    | with_reducible apply kept_takeFrame
    | with_reducible apply kept_useWrite
    | with_reducible apply kept_hostStores
    | with_reducible apply keptOut_next
    | split
    | dsimp only [id]

theorem kept_dmaEnd (d : Fin 32) (x : DmaCur) (flags : Nat) (s : State) {pq : List Instr}
    (hk : Kept pq s) : Kept pq (dmaEnd d x flags s) := by
  unfold dmaEnd
  repeat' first
    | with_reducible assumption
    | with_reducible apply kept_dmaRest
    | with_reducible apply kept_dmaRecord
    | with_reducible apply kept_dmaMod

theorem kept_execDmaDescriptorComplete (ch : Fin 32) (s : State) {pq : List Instr}
    (hk : Kept pq s) : KeptOut pq (execDmaDescriptorComplete ch s) := by
  unfold execDmaDescriptorComplete
  repeat' first
    | with_reducible assumption
    | with_reducible apply kept_dmaEnd
    | with_reducible apply kept_dmaHalt
    | with_reducible apply kept_dmaMove
    | with_reducible apply kept_dmaMod
    | with_reducible apply kept_fin
    | with_reducible apply keptOut_next
    | split
    | dsimp only [id]

theorem kept_execDmaBusError (e : DmaError) (s : State) {pq : List Instr}
    (hk : Kept pq s) : KeptOut pq (execDmaBusError e s) := by
  unfold execDmaBusError
  repeat' first
    | with_reducible assumption
    | with_reducible apply kept_dmaHalt
    | with_reducible apply kept_fin
    | with_reducible apply kept_matrixError

theorem kept_abortCh (d : Fin 32) (s : State) {pq : List Instr}
    (hk : Kept pq s) : Kept pq (abortCh d s) := by
  unfold abortCh
  repeat' first
    | with_reducible assumption
    | with_reducible apply kept_dmaHalt
    | with_reducible apply kept_dmaPartial
    | with_reducible apply kept_dmaRecord
    | with_reducible apply kept_dmaMod
    | with_reducible refine kept_foldl (fun _ _ _ => ?_) _ ?_
    | split
    | dsimp only [id]

theorem kept_execDmaCtrl (h : CmdHdr) (a : DmaCtrlArgs) (s : State) {pq : List Instr}
    (hk : Kept pq s) : KeptOut pq (execDmaCtrl h a s) := by
  unfold execDmaCtrl
  repeat' first
    | with_reducible assumption
    | with_reducible apply kept_fin
    | with_reducible apply kept_noPre
    | with_reducible apply kept_timedCmd
    | with_reducible intro _

theorem kept_applyDma (t : Ticket) (a : DmaCtrlArgs) (skip : Fin 32 → Bool) (s : State) {pq : List Instr}
    (hk : Kept pq s) : Kept pq (applyDma t a skip s) := by
  unfold applyDma
  repeat' first
    | with_reducible assumption
    | with_reducible apply kept_abortCh
    | with_reducible apply kept_dmaRest
    | with_reducible apply kept_dmaMod
    | with_reducible apply kept_dmaSettle
    | with_reducible apply kept_complete
    | with_reducible refine kept_foldl (fun _ _ _ => ?_) _ ?_
    | split
    | dsimp only [id]
    | (simp only [kept_mk]; change Kept pq _)

theorem kept_dmaHandover (late : List (Fin 32)) (s0 : State) {pq : List Instr}
    (hk : Kept pq s0) : Kept pq (dmaHandover late s0) := by
  unfold dmaHandover
  repeat' first
    | with_reducible assumption
    | with_reducible apply kept_dmaRest
    | with_reducible apply kept_dmaRecord
    | with_reducible apply kept_dmaMod
    | with_reducible apply kept_putSource
    | with_reducible apply kept_countFlag
    | with_reducible refine kept_foldl (fun _ _ _ => ?_) _ ?_
    | split
    | dsimp only [id]
    | (simp only [kept_mk]; change Kept pq _)

theorem kept_runAudioIn (d : Fin 32) (s0 : State) {pq : List Instr}
    (hk : Kept pq s0) : Kept pq (runAudioIn d s0) := by
  unfold runAudioIn
  repeat' first
    | with_reducible assumption
    | with_reducible apply kept_dmaEnd
    | with_reducible apply kept_dmaBegin
    | with_reducible apply kept_dmaMod
    | with_reducible apply kept_countFlag
    | with_reducible apply kept_useWrite
    | split
    | dsimp only [id]

theorem kept_runAudioOut (d : Fin 32) (s0 : State) {pq : List Instr}
    (hk : Kept pq s0) : Kept pq (runAudioOut d s0) := by
  unfold runAudioOut
  repeat' first
    | with_reducible assumption
    | with_reducible apply kept_dmaBegin
    | with_reducible apply kept_dmaFetch
    | with_reducible apply kept_dmaMod
    | with_reducible apply kept_countFlag
    | with_reducible apply kept_useRead
    | split
    | dsimp only [id]

theorem kept_runDmaAudio (s : State) {pq : List Instr}
    (hk : Kept pq s) : Kept pq (runDmaAudio s) := by
  unfold runDmaAudio
  repeat' first
    | with_reducible assumption
    | with_reducible apply kept_runAudioOut
    | with_reducible apply kept_runAudioIn
    | with_reducible refine kept_foldl (fun _ _ _ => ?_) _ ?_
    | split
    | dsimp only [id]

end Sys2Proof.Machine
end

