-- ==== Sys2Proof/Laws/KeptFabric.lean ====
section
/-!
SUPPORT. The operations of Machine/Fabric.lean keep the queue and the canonical form of the memories.
-/
namespace Sys2Proof.Machine

theorem kept_queuePath (ty : Nat) (src dst : BitVec 12) (hops : Nat) (route : BitVec 64) (b : PathBody) (s : State) {pq : List Instr}
    (hk : Kept pq s) : Kept pq (queuePath ty src dst hops route b s) := by
  unfold queuePath
  repeat' first
    | with_reducible assumption
    | with_reducible apply kept_takeSeq
    | with_reducible apply kept_queueCell
    | with_reducible apply kept_cellDrop
    | split
    | dsimp only [id]

theorem kept_sendReply (src : BitVec 12) (h : Nat) (b : PathBody) (s : State) {pq : List Instr}
    (hk : Kept pq s) : Kept pq (sendReply src h b s) := by
  unfold sendReply
  repeat' first
    | with_reducible assumption
    | with_reducible apply kept_queuePath

theorem kept_pathCellDrop (n : Fin 16) (c : Cell) (s : State) {pq : List Instr}
    (hk : Kept pq s) : Kept pq (pathCellDrop n c s) := by
  unfold pathCellDrop
  repeat' first
    | with_reducible assumption
    | with_reducible apply kept_cellDrop
    | split

theorem kept_execPathSet (link : Fin 16) (cell : Cell) (s : State) {pq : List Instr}
    (hk : Kept pq s) : KeptOut pq (execPathSet link cell s) := by
  unfold execPathSet
  repeat' first
    | with_reducible assumption
    | with_reducible apply kept_pathCellDrop
    | with_reducible apply kept_sendReply
    | with_reducible apply kept_fin
    | with_reducible apply kept_fab
    | with_reducible apply kept_queueCell
    | split
    | dsimp only [id]

theorem kept_pathAnswered (b : PathBody) (bytes : List Byte) (s : State) {pq : List Instr}
    (hk : Kept pq s) : Kept pq (pathAnswered b bytes s) := by
  unfold pathAnswered
  repeat' first
    | with_reducible assumption
    | with_reducible apply kept_removePath
    | with_reducible apply kept_setPath
    | with_reducible apply kept_freeAdd
    | with_reducible apply kept_fab
    | with_reducible apply kept_resultThen
    | with_reducible apply kept_hold
    | with_reducible apply kept_complete
    | split

theorem kept_execPathReply (link : Fin 16) (cell : Cell) (s : State) {pq : List Instr}
    (hk : Kept pq s) : KeptOut pq (execPathReply link cell s) := by
  unfold execPathReply
  repeat' first
    | with_reducible assumption
    | with_reducible apply kept_pathAnswered
    | with_reducible apply kept_pathCellDrop
    | with_reducible apply kept_fin
    | with_reducible apply kept_forwardCell
    | with_reducible apply kept_freeIncoming
    | with_reducible apply kept_fab
    | with_reducible refine kept_foldl (fun _ _ _ => ?_) _ ?_
    | split

theorem kept_execPathClear (link : Fin 16) (cell : Cell) (s : State) {pq : List Instr}
    (hk : Kept pq s) : KeptOut pq (execPathClear link cell s) := by
  unfold execPathClear
  repeat' first
    | with_reducible assumption
    | with_reducible apply kept_pathCellDrop
    | with_reducible apply kept_fin
    | with_reducible apply kept_forwardCell
    | with_reducible apply kept_releaseIncoming
    | with_reducible refine kept_foldl (fun _ _ _ => ?_) _ ?_
    | split

theorem kept_execPathBroken (link : Fin 16) (cell : Cell) (s : State) {pq : List Instr}
    (hk : Kept pq s) : KeptOut pq (execPathBroken link cell s) := by
  unfold execPathBroken
  repeat' first
    | with_reducible assumption
    | with_reducible apply kept_fin
    | with_reducible apply kept_receiveCell
    | with_reducible apply kept_losePath
    | with_reducible apply kept_sendOneHop
    | with_reducible apply kept_releaseIncoming
    | with_reducible refine kept_foldl (fun _ _ _ => ?_) _ ?_
    | with_reducible intro _
    | split

theorem kept_reservePath (a : PathReserveArgs) (t : Ticket) (s : State) {pq : List Instr}
    (hk : Kept pq s) : Kept pq (reservePath a t s) := by
  unfold reservePath
  repeat' first
    | with_reducible assumption
    | with_reducible apply kept_pathAnswered
    | with_reducible apply kept_queuePath
    | with_reducible apply kept_updateUse
    | with_reducible apply kept_fab
    | with_reducible apply kept_complete
    | split
    | dsimp only [id]

theorem kept_execPathReserve (h : CmdHdr) (a : PathReserveArgs) (s0 : State) {pq : List Instr}
    (hk : Kept pq s0) : KeptOut pq (execPathReserve h a s0) := by
  unfold execPathReserve
  repeat' first
    | with_reducible assumption
    | with_reducible apply kept_reservePath
    | with_reducible apply kept_fin
    | with_reducible apply kept_accept
    | with_reducible apply kept_complete
    | with_reducible apply kept_hostStores
    | with_reducible apply keptOut_next
    | split
    | dsimp only [id]

theorem kept_clearPath (p : PathRec) (s : State) {pq : List Instr}
    (hk : Kept pq s) : Kept pq (clearPath p s) := by
  unfold clearPath
  repeat' first
    | with_reducible assumption
    | with_reducible apply kept_queuePath
    | with_reducible apply kept_removePath
    | with_reducible apply kept_freeAdd

theorem kept_applyActivate (t : Ticket) (addCh : BitVec 12) (copy : Bool) (s : State) {pq : List Instr}
    (hk : Kept pq s) : Kept pq (applyActivate t addCh copy s) := by
  unfold applyActivate
  repeat' first
    | with_reducible assumption
    | with_reducible apply kept_clearPath
    | with_reducible apply kept_setPath
    | with_reducible apply kept_fab
    | with_reducible apply kept_resultWith
    | with_reducible apply kept_complete
    | split

theorem kept_execPathReserveTimeout (addCh : BitVec 12) (copy : Bool) (s : State) {pq : List Instr}
    (hk : Kept pq s) : KeptOut pq (execPathReserveTimeout addCh copy s) := by
  unfold execPathReserveTimeout
  repeat' first
    | with_reducible assumption
    | with_reducible apply kept_clearPath
    | with_reducible apply kept_fin
    | with_reducible apply kept_complete
    | with_reducible apply keptOut_next
    | split

theorem kept_execTentativeExpiry (link : Fin 16) (slot : BitVec 14) (s : State) {pq : List Instr}
    (hk : Kept pq s) : KeptOut pq (execTentativeExpiry link slot s) := by
  unfold execTentativeExpiry
  repeat' first
    | with_reducible assumption
    | with_reducible apply kept_fin
    | with_reducible apply kept_freeIncoming
    | with_reducible apply keptOut_next
    | split

theorem kept_execPathRelease (h : CmdHdr) (tick : BitVec 64) (addCh : BitVec 12) (copy : Bool) (s : State) {pq : List Instr}
    (hk : Kept pq s) : KeptOut pq (execPathRelease h tick addCh copy s) := by
  unfold execPathRelease
  repeat' first
    | with_reducible assumption
    | with_reducible apply kept_fin
    | with_reducible apply kept_noPre
    | with_reducible apply kept_timedCmd
    | with_reducible intro _

theorem kept_applyRelease (addCh : BitVec 12) (copy : Bool) (s : State) {pq : List Instr}
    (hk : Kept pq s) : Kept pq (applyRelease addCh copy s).2 := by
  unfold applyRelease
  repeat' first
    | with_reducible assumption
    | with_reducible apply kept_clearPath
    | split

theorem kept_execPathQuery (h : CmdHdr) (addCh : BitVec 12) (copy : Bool) (resultAddr : BitVec 64) (s : State) {pq : List Instr}
    (hk : Kept pq s) : KeptOut pq (execPathQuery h addCh copy resultAddr s) := by
  unfold execPathQuery
  repeat' first
    | with_reducible assumption
    | with_reducible apply kept_fin
    | with_reducible apply kept_resultThen
    | with_reducible apply kept_untimedCmd
    | with_reducible apply kept_complete
    | with_reducible intro _
    | split

theorem kept_execSwitchRead (h : CmdHdr) (a : SwitchReadArgs) (s : State) {pq : List Instr}
    (hk : Kept pq s) : KeptOut pq (execSwitchRead h a s) := by
  unfold execSwitchRead
  repeat' first
    | with_reducible assumption
    | with_reducible apply kept_fin
    | with_reducible apply kept_resultThen
    | with_reducible apply kept_untimedCmd
    | with_reducible intro _

theorem kept_execPairSet (h : CmdHdr) (a : PairSetArgs) (s : State) {pq : List Instr}
    (hk : Kept pq s) : KeptOut pq (execPairSet h a s) := by
  unfold execPairSet
  repeat' first
    | with_reducible assumption
    | with_reducible apply kept_fin
    | with_reducible apply kept_noPre
    | with_reducible apply kept_busTimed
    | with_reducible apply kept_badTimed
    | with_reducible apply kept_timedCmd
    | with_reducible intro _
    | split
    | dsimp only [id]

theorem kept_applyPairSet (a : PairSetArgs) (l : List (Nat × Nat)) (s : State) {pq : List Instr}
    (hk : Kept pq s) : Kept pq (applyPairSet a l s).2 := by
  unfold applyPairSet
  repeat' first
    | with_reducible assumption
    | with_reducible apply kept_fab
    | split

theorem kept_queueFirst (n : Fin 16) (c : Cell) (s : State) {pq : List Instr}
    (hk : Kept pq s) : Kept pq (queueFirst n c s) := by
  unfold queueFirst
  repeat' first
    | with_reducible assumption
    | with_reducible apply kept_cellDrop
    | with_reducible apply kept_linkMod
    | with_reducible apply kept_raise
    | split

theorem kept_sendDigest (p : Pair) (base : Nat) (ds : List Word) (s : State) {pq : List Instr}
    (hk : Kept pq s) : Kept pq (sendDigest p base ds s) := by
  unfold sendDigest
  repeat' first
    | with_reducible assumption
    | with_reducible apply kept_queueFirst
    | with_reducible apply kept_takeSeq

theorem kept_comparePair (p : Pair) (m : Nat) (s : State) {pq : List Instr}
    (hk : Kept pq s) : Kept pq (comparePair p m s) := by
  unfold comparePair
  repeat' first
    | with_reducible assumption
    | with_reducible apply kept_fab
    | with_reducible apply kept_countFlag
    | with_reducible apply kept_raise
    | with_reducible apply kept_report
    | with_reducible apply kept_regSet
    | split
    | dsimp only [id]

theorem kept_runPair (s : State) {pq : List Instr}
    (hk : Kept pq s) : Kept pq (runPair s) := by
  unfold runPair
  repeat' first
    | with_reducible assumption
    | with_reducible apply kept_comparePair
    | with_reducible apply kept_sendDigest
    | with_reducible apply kept_fab
    | with_reducible apply kept_crcLeft
    | with_reducible refine kept_foldl (fun _ _ _ => ?_) _ ?_
    | split
    | dsimp only [id]

theorem kept_execPairDigest (link : Fin 16) (cell : Cell) (s : State) {pq : List Instr}
    (hk : Kept pq s) : KeptOut pq (execPairDigest link cell s) := by
  unfold execPairDigest
  repeat' first
    | with_reducible assumption
    | with_reducible apply kept_fin
    | with_reducible apply kept_receiveCell
    | with_reducible apply kept_fab
    | with_reducible intro _
    | split

end Sys2Proof.Machine
end

