-- ==== Sys2Proof/Laws/KeptGlobal.lean ====
section
/-!
SUPPORT. The operations of Machine/Global.lean keep the queue and the canonical form of the memories.
-/
namespace Sys2Proof.Machine

theorem kept_execRoleSet (h : CmdHdr) (tick : BitVec 64) (port role : Byte) (s : State) {pq : List Instr}
    (hk : Kept pq s) : KeptOut pq (execRoleSet h tick port role s) := by
  unfold execRoleSet
  repeat' first
    | with_reducible assumption
    | with_reducible apply kept_noPre
    | with_reducible apply kept_badTimed
    | with_reducible apply kept_timedCmd
    | with_reducible apply keptOut_next
    | with_reducible intro _
    | split

theorem kept_applyRole (p : Fin 8) (role : Nat) (s : State) {pq : List Instr}
    (hk : Kept pq s) : Kept pq (applyRole p role s).2 := by
  unfold applyRole
  repeat' first
    | with_reducible assumption
    | with_reducible apply kept_fab
    | split

theorem kept_twinEvent (p : Fin 8) (kind position : Nat) (s : State) {pq : List Instr}
    (hk : Kept pq s) : Kept pq (twinEvent p kind position s) := by
  unfold twinEvent
  repeat' first
    | with_reducible assumption
    | with_reducible apply kept_report
    | with_reducible apply kept_sticky

theorem kept_takeOver (p : Fin 8) (position : Nat) (s : State) {pq : List Instr}
    (hk : Kept pq s) : Kept pq (takeOver p position s) := by
  unfold takeOver
  repeat' first
    | with_reducible assumption
    | with_reducible apply kept_twinEvent
    | with_reducible apply kept_fab
    | with_reducible apply kept_bumpFld

theorem kept_execTwinReadbackMismatch (port : Fin 8) (position : Byte) (s : State) {pq : List Instr}
    (hk : Kept pq s) : KeptOut pq (execTwinReadbackMismatch port position s) := by
  unfold execTwinReadbackMismatch
  repeat' first
    | with_reducible assumption
    | with_reducible apply kept_takeOver
    | with_reducible apply kept_twinEvent
    | with_reducible apply kept_fab
    | with_reducible apply kept_bumpFld
    | with_reducible apply keptOut_next
    | split
    | dsimp only [id]

theorem kept_execTwinDigestTakeover (port : Fin 8) (s : State) {pq : List Instr}
    (hk : Kept pq s) : KeptOut pq (execTwinDigestTakeover port s) := by
  unfold execTwinDigestTakeover
  repeat' first
    | with_reducible assumption
    | with_reducible apply kept_takeOver
    | with_reducible apply keptOut_next
    | split
    | dsimp only [id]

theorem kept_execGlobalOp (h : CmdHdr) (a : GlobalOpArgs) (s : State) {pq : List Instr}
    (hk : Kept pq s) : KeptOut pq (execGlobalOp h a s) := by
  unfold execGlobalOp
  repeat' first
    | with_reducible assumption
    | with_reducible apply kept_fin
    | with_reducible apply kept_fab
    | with_reducible apply kept_takenCmd
    | with_reducible apply kept_complete
    | with_reducible apply kept_sendFlood
    | with_reducible intro _
    | split
    | dsimp only [id]

theorem kept_execGlobalArm (h : CmdHdr) (a : GlobalArmArgs) (s : State) {pq : List Instr}
    (hk : Kept pq s) : KeptOut pq (execGlobalArm h a s) := by
  unfold execGlobalArm
  repeat' first
    | with_reducible assumption
    | with_reducible apply kept_fin
    | with_reducible apply kept_fab
    | with_reducible apply kept_untimedCmd
    | with_reducible apply kept_complete
    | with_reducible intro _
    | split

theorem kept_setOp (orig : BitVec 12) (opNo : BitVec 16) (f : GlobalOp → GlobalOp) (s : State) {pq : List Instr}
    (hk : Kept pq s) : Kept pq (setOp orig opNo f s) := by
  unfold setOp
  repeat' first
    | with_reducible assumption
    | with_reducible apply kept_fab

theorem kept_sendDone (o : GlobalOp) (s0 : State) {pq : List Instr}
    (hk : Kept pq s0) : Kept pq (sendDone o s0) := by
  unfold sendDone
  repeat' first
    | with_reducible assumption
    | with_reducible apply kept_sendOneHop
    | with_reducible apply kept_fab
    | with_reducible apply kept_resultThen
    | split

theorem kept_tryDone (orig : BitVec 12) (opNo : BitVec 16) (s : State) {pq : List Instr}
    (hk : Kept pq s) : Kept pq (tryDone orig opNo s) := by
  unfold tryDone
  repeat' first
    | with_reducible assumption
    | with_reducible apply kept_sendDone
    | split

theorem kept_execGlobalOpCell (link : Fin 16) (cell : Cell) (s : State) {pq : List Instr}
    (hk : Kept pq s) : KeptOut pq (execGlobalOpCell link cell s) := by
  unfold execGlobalOpCell
  repeat' first
    | with_reducible assumption
    | with_reducible apply kept_tryDone
    | with_reducible apply kept_fin
    | with_reducible apply kept_receiveCell
    | with_reducible apply kept_sendOneHop
    | with_reducible apply kept_fab
    | with_reducible apply kept_raise
    | with_reducible intro _
    | split
    | dsimp only [id]
    | (simp only [kept_mk]; change Kept pq _)

theorem kept_execAdopt (link : Fin 16) (cell : Cell) (s : State) {pq : List Instr}
    (hk : Kept pq s) : KeptOut pq (execAdopt link cell s) := by
  unfold execAdopt
  repeat' first
    | with_reducible assumption
    | with_reducible apply kept_setOp
    | with_reducible apply kept_fin
    | with_reducible apply kept_receiveCell
    | with_reducible intro _

theorem kept_execDoneCell (link : Fin 16) (cell : Cell) (s : State) {pq : List Instr}
    (hk : Kept pq s) : KeptOut pq (execDoneCell link cell s) := by
  unfold execDoneCell
  repeat' first
    | with_reducible assumption
    | with_reducible apply kept_tryDone
    | with_reducible apply kept_setOp
    | with_reducible apply kept_fin
    | with_reducible apply kept_receiveCell
    | with_reducible intro _

theorem kept_execDoneTimeout (orig : BitVec 12) (opNo : BitVec 16) (s : State) {pq : List Instr}
    (hk : Kept pq s) : KeptOut pq (execDoneTimeout orig opNo s) := by
  unfold execDoneTimeout
  repeat' first
    | with_reducible assumption
    | with_reducible apply kept_sendDone
    | with_reducible apply kept_fin
    | with_reducible apply keptOut_next
    | split

theorem kept_programSwap (o : GlobalOp) (won : Obj → Bool) (s : State) {pq : List Instr}
    (hk : Kept pq s) : Kept pq (programSwap o won s).2 := by
  unfold programSwap
  repeat' first
    | with_reducible assumption
    | with_reducible apply kept_applySwap
    | split

theorem kept_runGlobal (lateBefore : Bool) (won : Obj → Bool) (o : GlobalOp) (s : State) {pq : List Instr}
    (hk : Kept pq s) : Kept pq (runGlobal lateBefore won o s).2 := by
  unfold runGlobal
  repeat' first
    | with_reducible assumption
    | with_reducible apply kept_programSwap
    | with_reducible apply kept_muteAllNow
    | with_reducible apply kept_fab
    | with_reducible apply kept_reportNow
    | split

theorem kept_runGlobalList (lateBefore : Bool) (x0 : List (GlobalOp × List Obj)) (x1 : State) {pq : List Instr}
    (hk : Kept pq x1) : Kept pq (runGlobalList lateBefore x0 x1) := by
  induction x0 generalizing x1 with
  | nil => unfold runGlobalList; assumption
  | cons _ _ ih =>
  unfold runGlobalList
  repeat' first
    | with_reducible assumption
    | with_reducible apply kept_runGlobal
    | with_reducible apply kept_sendDone
    | with_reducible apply kept_setOp
    | with_reducible apply ih
    | split

theorem kept_resetsDone (s : State) {pq : List Instr}
    (hk : Kept pq s) : Kept pq (resetsDone s) := by
  unfold resetsDone
  repeat' first
    | with_reducible assumption
    | with_reducible apply kept_sendDone
    | with_reducible refine kept_foldl (fun _ _ _ => ?_) _ ?_

theorem kept_runGlobals (lateBefore : Bool) (l : List (GlobalOp × List Obj)) (s : State) {pq : List Instr}
    (hk : Kept pq s) : Kept pq (runGlobals lateBefore l s) := by
  unfold runGlobals
  repeat' first
    | with_reducible assumption
    | with_reducible apply kept_resetsDone
    | with_reducible apply kept_runGlobalList
    | with_reducible apply kept_fab
    | split

theorem kept_runSnapshot (o : GlobalOp) (won : Obj → Bool) (s : State) {pq : List Instr}
    (hk : Kept pq s) : Kept pq (runSnapshot o won s).2 := by
  unfold runSnapshot
  repeat' first
    | with_reducible assumption
    | with_reducible apply kept_setOp
    | with_reducible apply kept_applySnap
    | with_reducible apply kept_useWrite
    | split
    | dsimp only [id]

theorem kept_runSnapshots (l : List (GlobalOp × List Obj)) (s : State) {pq : List Instr}
    (hk : Kept pq s) : Kept pq (runSnapshots l s) := by
  unfold runSnapshots
  repeat' first
    | with_reducible assumption
    | with_reducible apply kept_runSnapshot
    | with_reducible apply kept_setOp
    | with_reducible refine kept_foldl (fun _ _ _ => ?_) _ ?_

theorem kept_settleSnapshots (s : State) {pq : List Instr}
    (hk : Kept pq s) : Kept pq (settleSnapshots s) := by
  unfold settleSnapshots
  repeat' first
    | with_reducible assumption
    | with_reducible apply kept_tryDone
    | with_reducible apply kept_setOp
    | with_reducible refine kept_foldl (fun _ _ _ => ?_) _ ?_

theorem kept_reportGlobals (s0 : State) {pq : List Instr}
    (hk : Kept pq s0) : Kept pq (reportGlobals s0) := by
  unfold reportGlobals
  repeat' first
    | with_reducible assumption
    | with_reducible apply kept_settleSnapshots
    | with_reducible apply kept_tryDone
    | with_reducible apply kept_setOp
    | with_reducible refine kept_foldl (fun _ _ _ => ?_) _ ?_
    | split

theorem kept_execGlobalResetWarm (s : State) {pq : List Instr}
    (hk : Kept pq s) : KeptOut pq (execGlobalResetWarm s) := by
  unfold execGlobalResetWarm
  repeat' first
    | with_reducible assumption
    | with_reducible apply kept_resetTo
    | with_reducible apply keptOut_next
    | split

end Sys2Proof.Machine
end

