-- ==== Sys2Proof/Laws/KeptMb.lean ====
section
/-!
SUPPORT. The operations of Machine/Mb.lean keep the queue and the canonical form of the memories.
-/
namespace Sys2Proof.Machine

theorem kept_mbMod (n : Fin 2) (f : MbBus → MbBus) (s : State) {pq : List Instr}
    (hk : Kept pq s) : Kept pq (mbMod n f s) := by
  unfold mbMod
  repeat' first
    | with_reducible assumption
    | (simp only [kept_mk]; change Kept pq _)

theorem kept_setServed (n : Fin 2) (s : State) {pq : List Instr}
    (hk : Kept pq s) : Kept pq (setServed n s) := by
  unfold setServed
  repeat' first
    | with_reducible assumption
    | with_reducible apply kept_regSetFld

theorem kept_reportRequest (n : Fin 2) (byte : Byte) (alert : Bool) (s : State) {pq : List Instr}
    (hk : Kept pq s) : Kept pq (reportRequest n byte alert s) := by
  unfold reportRequest
  repeat' first
    | with_reducible assumption
    | with_reducible apply kept_report

theorem kept_beginTarget (n : Fin 2) (byte : Byte) (s : State) {pq : List Instr}
    (hk : Kept pq s) : Kept pq (beginTarget n byte s) := by
  unfold beginTarget
  repeat' first
    | with_reducible assumption
    | with_reducible apply kept_mbMod

theorem kept_nackAddress (n : Fin 2) (s : State) {pq : List Instr}
    (hk : Kept pq s) : Kept pq (nackAddress n s) := by
  unfold nackAddress
  repeat' first
    | with_reducible assumption
    | with_reducible apply kept_mbMod

theorem kept_execMbTargetAddress (bus : Fin 2) (byte : Byte) (s0 : State) {pq : List Instr}
    (hk : Kept pq s0) : KeptOut pq (execMbTargetAddress bus byte s0) := by
  unfold execMbTargetAddress
  repeat' first
    | with_reducible assumption
    | with_reducible apply kept_nackAddress
    | with_reducible apply kept_beginTarget
    | with_reducible apply kept_mbMod
    | with_reducible apply kept_wakeBy
    | with_reducible apply kept_fin
    | with_reducible apply keptOut_next
    | split
    | dsimp only [id]

theorem kept_commitByte (n : Fin 2) (t : MbTgt) (byte : Byte) (s : State) {pq : List Instr}
    (hk : Kept pq s) : Kept pq (commitByte n t byte s) := by
  unfold commitByte
  repeat' first
    | with_reducible assumption
    | with_reducible apply kept_mbMod
    | with_reducible apply kept_busWrite
    | split
    | dsimp only [id]

theorem kept_execMbTargetByte (bus : Fin 2) (byte : Byte) (s : State) {pq : List Instr}
    (hk : Kept pq s) : KeptOut pq (execMbTargetByte bus byte s) := by
  unfold execMbTargetByte
  repeat' first
    | with_reducible assumption
    | with_reducible apply kept_commitByte
    | with_reducible apply kept_mbMod
    | with_reducible apply kept_fin
    | with_reducible apply keptOut_next
    | split

theorem kept_execMbTargetReadByte (bus : Fin 2) (s : State) {pq : List Instr}
    (hk : Kept pq s) : KeptOut pq (execMbTargetReadByte bus s) := by
  unfold execMbTargetReadByte
  repeat' first
    | with_reducible assumption
    | with_reducible apply kept_mbMod
    | with_reducible apply kept_afterRead
    | with_reducible apply keptOut_next
    | split

theorem kept_endTarget (n : Fin 2) (s : State) {pq : List Instr}
    (hk : Kept pq s) : Kept pq (endTarget n s) := by
  unfold endTarget
  repeat' first
    | with_reducible assumption
    | with_reducible apply kept_mbMod
    | with_reducible apply kept_sticky
    | split

theorem kept_execMbStop (bus : Fin 2) (repeated inByte : Bool) (s : State) {pq : List Instr}
    (hk : Kept pq s) : KeptOut pq (execMbStop bus repeated inByte s) := by
  unfold execMbStop
  repeat' first
    | with_reducible assumption
    | with_reducible apply kept_endTarget
    | with_reducible apply kept_mbMod
    | with_reducible apply kept_sticky
    | with_reducible apply kept_bumpFld
    | with_reducible apply keptOut_next
    | split

theorem kept_endXfer (n : Fin 2) (c : MbCur) (status acked got : Nat) (s : State) {pq : List Instr}
    (hk : Kept pq s) : Kept pq (endXfer n c status acked got s) := by
  unfold endXfer
  repeat' first
    | with_reducible assumption
    | with_reducible apply kept_mbMod
    | with_reducible apply kept_complete

theorem kept_recordLoss (n : Fin 2) (byte bit : Nat) (s : State) {pq : List Instr}
    (hk : Kept pq s) : Kept pq (recordLoss n byte bit s) := by
  unfold recordLoss
  repeat' first
    | with_reducible assumption
    | with_reducible apply kept_sticky
    | with_reducible apply kept_bumpFld
    | with_reducible apply kept_regSet

theorem kept_afterLoss (n : Fin 2) (byte : Nat) (header : Byte) (s0 : State) {pq : List Instr}
    (hk : Kept pq s0) : Kept pq (afterLoss n byte header s0) := by
  unfold afterLoss
  repeat' first
    | with_reducible assumption
    | with_reducible apply kept_beginTarget
    | with_reducible apply kept_reportRequest
    | with_reducible apply kept_mbMod
    | split
    | dsimp only [id]

theorem kept_addressNacked (n : Fin 2) (c : MbCur) (acked : Nat) (s : State) {pq : List Instr}
    (hk : Kept pq s) : Kept pq (addressNacked n c acked s) := by
  unfold addressNacked
  repeat' first
    | with_reducible assumption
    | with_reducible apply kept_endXfer
    | with_reducible apply kept_mbMod
    | split

theorem kept_runXfer (n : Fin 2) (c : MbCur) (w : MbWire) (s : State) {pq : List Instr}
    (hk : Kept pq s) : Kept pq (runXfer n c w s) := by
  unfold runXfer
  repeat' first
    | with_reducible assumption
    | with_reducible apply kept_addressNacked
    | with_reducible apply kept_afterLoss
    | with_reducible apply kept_recordLoss
    | with_reducible apply kept_endXfer
    | with_reducible apply kept_mbMod
    | with_reducible apply kept_resultWith
    | split
    | dsimp only [id]

theorem kept_mbPump (n : Fin 2) (x0 : Nat) (x1 : Option MbWire) (x2 : State) {pq : List Instr}
    (hk : Kept pq x2) : Kept pq (mbPump n x0 x1 x2) := by
  induction x0 generalizing x1 x2 with
  | zero => unfold mbPump; assumption
  | succ _ ih =>
  unfold mbPump
  repeat' first
    | with_reducible assumption
    | with_reducible apply kept_runXfer
    | with_reducible apply kept_mbMod
    | with_reducible apply kept_complete
    | with_reducible apply ih
    | split

theorem kept_mbNext (n : Fin 2) (w : Option MbWire) (s : State) {pq : List Instr}
    (hk : Kept pq s) : Kept pq (mbNext n w s) := by
  unfold mbNext
  repeat' first
    | with_reducible assumption
    | with_reducible apply kept_mbPump

theorem kept_mbXferWith (h : CmdHdr) (a : MbXferArgs) (w : Option MbWire) (s : State) {pq : List Instr}
    (hk : Kept pq s) : Kept pq (mbXferWith h a w s) := by
  unfold mbXferWith
  repeat' first
    | with_reducible assumption
    | with_reducible apply kept_mbNext
    | with_reducible apply kept_mbMod
    | with_reducible apply kept_untimedCmd
    | with_reducible intro _

theorem kept_execMbXfer (h : CmdHdr) (a : MbXferArgs) (w : MbWire) (s : State) {pq : List Instr}
    (hk : Kept pq s) : KeptOut pq (execMbXfer h a w s) := by
  unfold execMbXfer
  repeat' first
    | with_reducible assumption
    | with_reducible apply kept_mbXferWith
    | with_reducible apply kept_fin

theorem kept_execMbReset (h : CmdHdr) (bus : Byte) (s : State) {pq : List Instr}
    (hk : Kept pq s) : KeptOut pq (execMbReset h bus s) := by
  unfold execMbReset
  repeat' first
    | with_reducible assumption
    | with_reducible apply kept_mbNext
    | with_reducible apply kept_mbMod
    | with_reducible apply kept_fin
    | with_reducible apply kept_untimedCmd
    | with_reducible intro _

theorem kept_resumeXfer (n : Fin 2) (c : MbCur) (w : MbWire) (s : State) {pq : List Instr}
    (hk : Kept pq s) : Kept pq (resumeXfer n c w s) := by
  unfold resumeXfer
  repeat' first
    | with_reducible assumption
    | with_reducible apply kept_mbNext
    | with_reducible apply kept_runXfer

theorem kept_execMbAddrNackRetry (bus : Fin 2) (w : MbWire) (s : State) {pq : List Instr}
    (hk : Kept pq s) : KeptOut pq (execMbAddrNackRetry bus w s) := by
  unfold execMbAddrNackRetry
  repeat' first
    | with_reducible assumption
    | with_reducible apply kept_resumeXfer
    | with_reducible apply kept_mbMod
    | with_reducible apply kept_fin
    | with_reducible apply keptOut_next
    | split

theorem kept_execMbBusFree (bus : Fin 2) (w : MbWire) (s : State) {pq : List Instr}
    (hk : Kept pq s) : KeptOut pq (execMbBusFree bus w s) := by
  unfold execMbBusFree
  repeat' first
    | with_reducible assumption
    | with_reducible apply kept_resumeXfer
    | with_reducible apply kept_mbNext
    | with_reducible apply kept_mbMod
    | with_reducible apply kept_fin
    | with_reducible apply keptOut_next
    | split
    | dsimp only [id]

theorem kept_execMbXferTimeout (bus : Fin 2) (seq : BitVec 16) (s : State) {pq : List Instr}
    (hk : Kept pq s) : KeptOut pq (execMbXferTimeout bus seq s) := by
  unfold execMbXferTimeout
  repeat' first
    | with_reducible assumption
    | with_reducible apply kept_mbNext
    | with_reducible apply kept_mbMod
    | with_reducible apply kept_fin
    | with_reducible apply kept_complete
    | with_reducible apply keptOut_next
    | split
    | dsimp only [id]

theorem kept_abandonXfer (n : Fin 2) (status : Nat) (s : State) {pq : List Instr}
    (hk : Kept pq s) : Kept pq (abandonXfer n status s) := by
  unfold abandonXfer
  repeat' first
    | with_reducible assumption
    | with_reducible apply kept_endXfer
    | split

theorem kept_markStuck (n : Fin 2) (s : State) {pq : List Instr}
    (hk : Kept pq s) : Kept pq (markStuck n s) := by
  unfold markStuck
  repeat' first
    | with_reducible assumption
    | with_reducible apply kept_mbMod
    | with_reducible apply kept_raise
    | with_reducible apply kept_sticky

theorem kept_execMbStuck (bus : Fin 2) (sclLow : Bool) (s : State) {pq : List Instr}
    (hk : Kept pq s) : KeptOut pq (execMbStuck bus sclLow s) := by
  unfold execMbStuck
  repeat' first
    | with_reducible assumption
    | with_reducible apply kept_markStuck
    | with_reducible apply kept_abandonXfer
    | with_reducible apply kept_mbNext
    | with_reducible apply kept_mbMod
    | with_reducible apply kept_fin
    | with_reducible apply keptOut_next
    | split

theorem kept_execMbRstReceived (bus : Fin 2) (s : State) {pq : List Instr}
    (hk : Kept pq s) : KeptOut pq (execMbRstReceived bus s) := by
  unfold execMbRstReceived
  repeat' first
    | with_reducible assumption
    | with_reducible apply kept_abandonXfer
    | with_reducible apply kept_endTarget
    | with_reducible apply kept_mbMod
    | with_reducible apply kept_fin
    | with_reducible apply kept_report
    | with_reducible apply kept_sticky

theorem kept_execMbRstDriveEnd (bus : Fin 2) (s : State) {pq : List Instr}
    (hk : Kept pq s) : KeptOut pq (execMbRstDriveEnd bus s) := by
  unfold execMbRstDriveEnd
  repeat' first
    | with_reducible assumption
    | with_reducible apply kept_mbNext
    | with_reducible apply kept_mbMod
    | with_reducible apply kept_fin
    | with_reducible apply kept_complete
    | with_reducible apply keptOut_next
    | split
    | dsimp only [id]

theorem kept_execMbRstReleaseCheck (bus : Fin 2) (scl sda : Bool) (s : State) {pq : List Instr}
    (hk : Kept pq s) : KeptOut pq (execMbRstReleaseCheck bus scl sda s) := by
  unfold execMbRstReleaseCheck
  repeat' first
    | with_reducible assumption
    | with_reducible apply kept_markStuck
    | with_reducible apply kept_mbMod
    | with_reducible apply kept_fin
    | with_reducible apply keptOut_next
    | split

theorem kept_execMbTargetRequest (bus : Fin 2) (e : MbHeaderEnd) (s : State) {pq : List Instr}
    (hk : Kept pq s) : KeptOut pq (execMbTargetRequest bus e s) := by
  unfold execMbTargetRequest
  repeat' first
    | with_reducible assumption
    | with_reducible apply kept_setServed
    | with_reducible apply kept_mbMod
    | with_reducible apply keptOut_next
    | split

theorem kept_execMbRequestUnserved (bus : Fin 2) (s : State) {pq : List Instr}
    (hk : Kept pq s) : KeptOut pq (execMbRequestUnserved bus s) := by
  unfold execMbRequestUnserved
  repeat' first
    | with_reducible assumption
    | with_reducible apply kept_mbMod
    | with_reducible apply kept_sticky
    | with_reducible apply keptOut_next
    | split

theorem kept_execMbServeInband (bus : Fin 2) (header : Byte) (s : State) {pq : List Instr}
    (hk : Kept pq s) : KeptOut pq (execMbServeInband bus header s) := by
  unfold execMbServeInband
  repeat' first
    | with_reducible assumption
    | with_reducible apply kept_beginTarget
    | with_reducible apply kept_reportRequest
    | with_reducible apply kept_mbMod
    | with_reducible apply keptOut_next
    | split

theorem kept_execMbAlertServe (bus : Fin 2) (bytes : List Byte) (lineLow : Bool) (s : State) {pq : List Instr}
    (hk : Kept pq s) : KeptOut pq (execMbAlertServe bus bytes lineLow s) := by
  unfold execMbAlertServe
  repeat' first
    | with_reducible assumption
    | with_reducible apply kept_reportRequest
    | with_reducible apply kept_mbMod
    | with_reducible apply keptOut_next
    | with_reducible refine kept_foldl (fun _ _ _ => ?_) _ ?_
    | split

theorem kept_execMbAraRead (bus : Fin 2) (wins : Bool) (s : State) {pq : List Instr}
    (hk : Kept pq s) : KeptOut pq (execMbAraRead bus wins s) := by
  unfold execMbAraRead
  repeat' first
    | with_reducible assumption
    | with_reducible apply kept_setServed
    | with_reducible apply kept_mbMod
    | with_reducible apply keptOut_next
    | split

end Sys2Proof.Machine
end

