-- ==== Sys2Proof/Laws/KeptTunnel.lean ====
section
/-!
SUPPORT. The operations of Machine/Tunnel.lean keep the queue and the canonical form of the memories.
-/
namespace Sys2Proof.Machine

theorem kept_tunMod (f : Tunnel → Tunnel) (s : State) {pq : List Instr}
    (hk : Kept pq s) : Kept pq (tunMod f s) := by
  unfold tunMod
  repeat' first
    | with_reducible assumption
    | (simp only [kept_mk]; change Kept pq _)

theorem kept_answerClaim (o : Owner) (result : Nat) (s : State) {pq : List Instr}
    (hk : Kept pq s) : Kept pq (answerClaim o result s) := by
  unfold answerClaim
  repeat' first
    | with_reducible assumption
    | with_reducible apply kept_sendRouted

theorem kept_acceptClaim (o : Owner) (s : State) {pq : List Instr}
    (hk : Kept pq s) : Kept pq (acceptClaim o s) := by
  unfold acceptClaim
  repeat' first
    | with_reducible assumption
    | with_reducible apply kept_answerClaim
    | with_reducible apply kept_hifMod
    | with_reducible apply kept_sendRouted
    | split

theorem kept_handleClaim (o : Owner) (s : State) {pq : List Instr}
    (hk : Kept pq s) : Kept pq (handleClaim o s) := by
  unfold handleClaim
  repeat' first
    | with_reducible assumption
    | with_reducible apply kept_acceptClaim
    | with_reducible apply kept_answerClaim
    | split

theorem kept_execTunClaim (link : Fin 16) (cell : Cell) (s : State) {pq : List Instr}
    (hk : Kept pq s) : KeptOut pq (execTunClaim link cell s) := by
  unfold execTunClaim
  repeat' first
    | with_reducible assumption
    | with_reducible apply kept_handleClaim
    | with_reducible apply kept_pathCellDrop
    | with_reducible apply kept_fin
    | with_reducible apply kept_forwardCell
    | split

theorem kept_bindOwner (s : State) {pq : List Instr}
    (hk : Kept pq s) : Kept pq (bindOwner s) := by
  unfold bindOwner
  repeat' first
    | with_reducible assumption
    | with_reducible apply kept_tunMod
    | with_reducible apply kept_hifMod
    | with_reducible apply kept_failResults
    | with_reducible apply kept_useRead
    | with_reducible apply kept_tunMem_nil
    | split

theorem kept_tunFail (u : TunUse) (addr : Nat) (s : State) {pq : List Instr}
    (hk : Kept pq s) : Kept pq (tunFail u addr s) := by
  unfold tunFail
  repeat' first
    | with_reducible assumption
    | with_reducible apply kept_dmaHalt
    | with_reducible apply kept_stopRings
    | split

theorem kept_takeData (fetched : TunUse → Nat → Nat → State → State) (c : Cell) (s : State) {pq : List Instr}
    (h_fetched : ∀ a0 a1 a2 s1, Kept pq s1 → Kept pq (fetched a0 a1 a2 s1)) (hk : Kept pq s) : Kept pq (takeData fetched c s) := by
  unfold takeData
  repeat' first
    | with_reducible assumption
    | with_reducible apply h_fetched
    | with_reducible apply kept_tunFail
    | with_reducible apply kept_tunMod
    | with_reducible apply kept_readDirectory
    | with_reducible apply kept_resultCome
    | with_reducible apply kept_tunMem
    | split
    | dsimp only [id]

theorem kept_resendAll (s : State) {pq : List Instr}
    (hk : Kept pq s) : Kept pq (resendAll s) := by
  unfold resendAll
  repeat' first
    | with_reducible assumption
    | with_reducible apply kept_tunMod
    | with_reducible apply kept_tunSend
    | with_reducible apply kept_sticky
    | with_reducible refine kept_foldl (fun _ _ _ => ?_) _ ?_
    | split

theorem kept_issueHeld (s : State) {pq : List Instr}
    (hk : Kept pq s) : Kept pq (issueHeld s) := by
  unfold issueHeld
  repeat' first
    | with_reducible assumption
    | with_reducible apply kept_tunMod
    | with_reducible apply kept_tunIssue
    | with_reducible refine kept_foldl (fun _ _ _ => ?_) _ ?_

theorem kept_takeAck (c : Cell) (s : State) {pq : List Instr}
    (hk : Kept pq s) : Kept pq (takeAck c s) := by
  unfold takeAck
  repeat' first
    | with_reducible assumption
    | with_reducible apply kept_issueHeld
    | with_reducible apply kept_resendAll
    | with_reducible apply kept_tunFail
    | with_reducible apply kept_tunMod
    | split
    | dsimp only [id]

theorem kept_execTunResend (s : State) {pq : List Instr}
    (hk : Kept pq s) : KeptOut pq (execTunResend s) := by
  unfold execTunResend
  repeat' first
    | with_reducible assumption
    | with_reducible apply kept_resendAll
    | with_reducible apply kept_fin
    | with_reducible apply keptOut_next
    | split

theorem kept_execTunnelLost (s : State) {pq : List Instr}
    (hk : Kept pq s) : KeptOut pq (execTunnelLost s) := by
  unfold execTunnelLost
  repeat' first
    | with_reducible assumption
    | with_reducible apply kept_dmaHalt
    | with_reducible apply kept_stopRings
    | with_reducible apply kept_hifMod
    | with_reducible apply kept_fin
    | with_reducible apply kept_raise
    | with_reducible apply keptOut_next
    | split

theorem kept_tunRegAccess (write : Bool) (off : Nat) (data : List Word) (x0 : Nat) (x1 : State) {pq : List Instr}
    (hk : Kept pq x1) : Kept pq (tunRegAccess write off data x0 x1).2 := by
  induction x0 generalizing x1 off data with
  | zero => unfold tunRegAccess; assumption
  | succ _ ih =>
  unfold tunRegAccess
  repeat' first
    | with_reducible assumption
    | with_reducible apply kept_busWrite
    | with_reducible apply kept_afterRead
    | with_reducible apply ih
    | split

theorem kept_serveReg (c : Cell) (s : State) {pq : List Instr}
    (hk : Kept pq s) : Kept pq (serveReg c s) := by
  unfold serveReg
  repeat' first
    | with_reducible assumption
    | with_reducible apply kept_tunRegAccess
    | with_reducible apply kept_sendRouted
    | split

theorem kept_execTunReg (link : Fin 16) (cell : Cell) (s : State) {pq : List Instr}
    (hk : Kept pq s) : KeptOut pq (execTunReg link cell s) := by
  unfold execTunReg
  repeat' first
    | with_reducible assumption
    | with_reducible apply kept_serveReg
    | with_reducible apply kept_fin
    | with_reducible apply kept_receiveCell
    | with_reducible intro _

theorem kept_setBridge (target : BitVec 12) (b : Bridge) (s : State) {pq : List Instr}
    (hk : Kept pq s) : Kept pq (setBridge target b s) := by
  unfold setBridge
  repeat' first
    | with_reducible assumption
    | with_reducible apply kept_tunMod

theorem kept_dropBridge (target : BitVec 12) (s : State) {pq : List Instr}
    (hk : Kept pq s) : Kept pq (dropBridge target s) := by
  unfold dropBridge
  repeat' first
    | with_reducible assumption
    | with_reducible apply kept_tunMod

theorem kept_sendAck (target : BitVec 12) (b : Bridge) (s : State) {pq : List Instr}
    (hk : Kept pq s) : Kept pq (sendAck target b s) := by
  unfold sendAck
  repeat' first
    | with_reducible assumption
    | with_reducible apply kept_setBridge
    | with_reducible apply kept_sendRouted

theorem kept_runAcks (s : State) {pq : List Instr}
    (hk : Kept pq s) : Kept pq (runAcks s) := by
  unfold runAcks
  repeat' first
    | with_reducible assumption
    | with_reducible apply kept_sendAck
    | with_reducible refine kept_foldl (fun _ _ _ => ?_) _ ?_
    | split

theorem kept_serveReq (c : Cell) (xid gen : Nat) (run : Bridge → State → Bridge × State) (s : State) {pq : List Instr}
    (h_run : ∀ a0 s1, Kept pq s1 → Kept pq (run a0 s1).2) (hk : Kept pq s) : Kept pq (serveReq c xid gen run s) := by
  unfold serveReq
  repeat' first
    | with_reducible assumption
    | with_reducible apply h_run
    | with_reducible apply kept_sendAck
    | with_reducible apply kept_setBridge
    | split

theorem kept_serveWrite (c : Cell) (b : Bridge) (s : State) {pq : List Instr}
    (hk : Kept pq s) : Kept pq (serveWrite c b s).2 := by
  unfold serveWrite
  repeat' first
    | with_reducible assumption
    | with_reducible apply kept_localMem
    | split
    | dsimp only [id]

theorem kept_execTunWrite (link : Fin 16) (cell : Cell) (s : State) {pq : List Instr}
    (hk : Kept pq s) : KeptOut pq (execTunWrite link cell s) := by
  unfold execTunWrite
  repeat' first
    | with_reducible assumption
    | with_reducible apply kept_serveWrite
    | with_reducible apply kept_serveReq
    | with_reducible apply kept_fin
    | with_reducible apply kept_receiveCell
    | with_reducible intro _

theorem kept_serveRead (c : Cell) (b : Bridge) (s : State) {pq : List Instr}
    (hk : Kept pq s) : Kept pq (serveRead c b s).2 := by
  unfold serveRead
  repeat' first
    | with_reducible assumption
    | with_reducible apply kept_sendRouted
    | with_reducible refine kept_foldl (fun _ _ _ => ?_) _ ?_
    | split
    | dsimp only [id]

theorem kept_execTunRead (link : Fin 16) (cell : Cell) (s : State) {pq : List Instr}
    (hk : Kept pq s) : KeptOut pq (execTunRead link cell s) := by
  unfold execTunRead
  repeat' first
    | with_reducible assumption
    | with_reducible apply kept_serveRead
    | with_reducible apply kept_serveReq
    | with_reducible apply kept_fin
    | with_reducible apply kept_receiveCell
    | with_reducible intro _

theorem kept_execTunIrq (link : Fin 16) (cell : Cell) (s : State) {pq : List Instr}
    (hk : Kept pq s) : KeptOut pq (execTunIrq link cell s) := by
  unfold execTunIrq
  repeat' first
    | with_reducible assumption
    | with_reducible apply kept_serveReq
    | with_reducible apply kept_fin
    | with_reducible apply kept_receiveCell
    | with_reducible apply kept_msixRaise
    | with_reducible intro _

theorem kept_withdrawClaim (target : BitVec 12) (s : State) {pq : List Instr}
    (hk : Kept pq s) : Kept pq (withdrawClaim target s) := by
  unfold withdrawClaim
  repeat' first
    | with_reducible assumption
    | with_reducible apply kept_complete
    | split

theorem kept_execTunnelClaim (h : CmdHdr) (a : TunnelClaimArgs) (s : State) {pq : List Instr}
    (hk : Kept pq s) : KeptOut pq (execTunnelClaim h a s) := by
  unfold execTunnelClaim
  repeat' first
    | with_reducible assumption
    | with_reducible apply kept_withdrawClaim
    | with_reducible apply kept_setBridge
    | with_reducible apply kept_fin
    | with_reducible apply kept_untimedCmd
    | with_reducible apply kept_complete
    | with_reducible apply kept_sendRouted
    | with_reducible intro _
    | split

theorem kept_claimAcked (c : Cell) (s : State) {pq : List Instr}
    (hk : Kept pq s) : Kept pq (claimAcked c s) := by
  unfold claimAcked
  repeat' first
    | with_reducible assumption
    | with_reducible apply kept_setBridge
    | with_reducible apply kept_complete
    | split

theorem kept_execTunClaimAck (link : Fin 16) (cell : Cell) (s : State) {pq : List Instr}
    (hk : Kept pq s) : KeptOut pq (execTunClaimAck link cell s) := by
  unfold execTunClaimAck
  repeat' first
    | with_reducible assumption
    | with_reducible apply kept_claimAcked
    | with_reducible apply kept_fin
    | with_reducible apply kept_receiveCell
    | with_reducible intro _

theorem kept_execTunnelClaimTimeout (target : BitVec 12) (s : State) {pq : List Instr}
    (hk : Kept pq s) : KeptOut pq (execTunnelClaimTimeout target s) := by
  unfold execTunnelClaimTimeout
  repeat' first
    | with_reducible assumption
    | with_reducible apply kept_dropBridge
    | with_reducible apply kept_fin
    | with_reducible apply kept_complete
    | with_reducible apply keptOut_next
    | split

theorem kept_execTunYield (link : Fin 16) (cell : Cell) (s : State) {pq : List Instr}
    (hk : Kept pq s) : KeptOut pq (execTunYield link cell s) := by
  unfold execTunYield
  repeat' first
    | with_reducible assumption
    | with_reducible apply kept_withdrawClaim
    | with_reducible apply kept_dropBridge
    | with_reducible apply kept_fin
    | with_reducible apply kept_receiveCell
    | with_reducible apply kept_report
    | with_reducible intro _
    | split

theorem kept_execTunnelDrop (h : CmdHdr) (target : BitVec 12) (s : State) {pq : List Instr}
    (hk : Kept pq s) : KeptOut pq (execTunnelDrop h target s) := by
  unfold execTunnelDrop
  repeat' first
    | with_reducible assumption
    | with_reducible apply kept_withdrawClaim
    | with_reducible apply kept_dropBridge
    | with_reducible apply kept_fin
    | with_reducible apply kept_untimedCmd
    | with_reducible apply kept_complete
    | with_reducible intro _
    | split

theorem kept_execTunnelReg (h : CmdHdr) (a : TunnelRegArgs) (s : State) {pq : List Instr}
    (hk : Kept pq s) : KeptOut pq (execTunnelReg h a s) := by
  unfold execTunnelReg
  repeat' first
    | with_reducible assumption
    | with_reducible apply kept_tunMod
    | with_reducible apply kept_fin
    | with_reducible apply kept_untimedCmd
    | with_reducible apply kept_complete
    | with_reducible apply kept_sendRouted
    | with_reducible intro _
    | split

theorem kept_dropRegWait (w : TunRegWait) (s : State) {pq : List Instr}
    (hk : Kept pq s) : Kept pq (dropRegWait w s) := by
  unfold dropRegWait
  repeat' first
    | with_reducible assumption
    | with_reducible apply kept_tunMod

theorem kept_regAnswered (c : Cell) (s : State) {pq : List Instr}
    (hk : Kept pq s) : Kept pq (regAnswered c s) := by
  unfold regAnswered
  repeat' first
    | with_reducible assumption
    | with_reducible apply kept_dropRegWait
    | with_reducible apply kept_resultThen
    | with_reducible apply kept_complete
    | split
    | dsimp only [id]

theorem kept_execTunRegResp (link : Fin 16) (cell : Cell) (s : State) {pq : List Instr}
    (hk : Kept pq s) : KeptOut pq (execTunRegResp link cell s) := by
  unfold execTunRegResp
  repeat' first
    | with_reducible assumption
    | with_reducible apply kept_regAnswered
    | with_reducible apply kept_fin
    | with_reducible apply kept_receiveCell
    | with_reducible intro _

theorem kept_execTunnelRegTimeout (target : BitVec 12) (rseq : Byte) (s : State) {pq : List Instr}
    (hk : Kept pq s) : KeptOut pq (execTunnelRegTimeout target rseq s) := by
  unfold execTunnelRegTimeout
  repeat' first
    | with_reducible assumption
    | with_reducible apply kept_dropRegWait
    | with_reducible apply kept_fin
    | with_reducible apply kept_complete
    | with_reducible apply keptOut_next
    | split

theorem kept_execRemoteWakeWrite (value : Word) (s : State) {pq : List Instr}
    (hk : Kept pq s) : KeptOut pq (execRemoteWakeWrite value s) := by
  unfold execRemoteWakeWrite
  repeat' first
    | with_reducible assumption
    | with_reducible apply kept_fin
    | with_reducible apply kept_sendRouted
    | with_reducible apply keptOut_next
    | split
    | dsimp only [id]

end Sys2Proof.Machine
end

