-- ==== Sys2Proof/Laws/KeptPoll.lean ====
section
/-!
SUPPORT. The operations of Machine/Poll.lean keep the queue and the canonical form of the memories.
-/
namespace Sys2Proof.Machine

theorem kept_afterOf {o : Host.Outcome State Fault Refusal} {s : State} {pq : List Instr} (ho : KeptOut pq o) :
    Kept pq (afterOf o s) := by
  obtain ⟨t, rfl, h⟩ := ho; exact h

theorem kept_runHost (i : Instr) (s : State) {pq : List Instr}
    (hk : Kept pq s) : Kept pq (runHost i s) := by
  unfold runHost
  repeat' first
    | with_reducible assumption
    | with_reducible apply kept_afterOf
    | with_reducible apply kept_execMbReset
    | with_reducible apply kept_mbXferWith
    | with_reducible apply kept_execTunnelReg
    | with_reducible apply kept_execTunnelDrop
    | with_reducible apply kept_execTunnelClaim
    | with_reducible apply kept_execDmaCtrl
    | with_reducible apply kept_execAoipQuery
    | with_reducible apply kept_execAoipCsSet
    | with_reducible apply kept_execAoipTxSet
    | with_reducible apply kept_execAoipRxSet
    | with_reducible apply kept_execGlobalArm
    | with_reducible apply kept_execGlobalOp
    | with_reducible apply kept_execRoleSet
    | with_reducible apply kept_execSleep
    | with_reducible apply kept_execCfgSet
    | with_reducible apply kept_execImgSelect
    | with_reducible apply kept_execImgCommit
    | with_reducible apply kept_execTimeQuery
    | with_reducible apply kept_execCmpSet
    | with_reducible apply kept_execAesQuery
    | with_reducible apply kept_execPortQuery
    | with_reducible apply kept_execAesCsSet
    | with_reducible apply kept_execPortSlots
    | with_reducible apply kept_execPortStop
    | with_reducible apply kept_execPortStart
    | with_reducible apply kept_execAgeDecide
    | with_reducible apply kept_execAgeQuery
    | with_reducible apply kept_execPulseAlign
    | with_reducible apply kept_execRefQuery
    | with_reducible apply kept_execRefForce
    | with_reducible apply kept_execTimeSet
    | with_reducible apply kept_execSumpClear
    | with_reducible apply kept_execSumpQuery
    | with_reducible apply kept_execPsQuery
    | with_reducible apply kept_execPsModel
    | with_reducible apply kept_execPsFreqSet
    | with_reducible apply kept_execPsBudget
    | with_reducible apply kept_execPsStop
    | with_reducible apply kept_execPsStart
    | with_reducible apply kept_execPairSet
    | with_reducible apply kept_execSwitchRead
    | with_reducible apply kept_execPathQuery
    | with_reducible apply kept_execPathRelease
    | with_reducible apply kept_execPathReserve
    | with_reducible apply kept_execNodeIdSet
    | with_reducible apply kept_execEyeSurvey
    | with_reducible apply kept_execLinkQuery
    | with_reducible apply kept_execLinkCmd
    | with_reducible apply kept_settle
    | with_reducible apply kept_execBenchQuery
    | with_reducible apply kept_execSnapTake
    | with_reducible apply kept_execBenchRead
    | with_reducible apply kept_execBenchWrite
    | with_reducible apply kept_execCaptureCtrl
    | with_reducible apply kept_execPlayStop
    | with_reducible apply kept_execPlayStart
    | with_reducible apply kept_execDelaySet
    | with_reducible apply kept_execObjFree
    | with_reducible apply kept_execObjAlloc
    | with_reducible apply kept_execBenchDelete
    | with_reducible apply kept_execBenchQuota
    | with_reducible apply kept_execBenchCreate
    | with_reducible apply kept_execRampQuery
    | with_reducible apply kept_execDmemRead
    | with_reducible apply kept_execRampSet
    | with_reducible apply kept_execParamWrite
    | with_reducible apply kept_execTileSwap
    | with_reducible apply kept_execTileClear
    | with_reducible apply kept_execTileLoad
    | with_reducible apply kept_execTestgenSet
    | with_reducible apply kept_execDirectSet
    | with_reducible apply kept_execRouteQuery
    | with_reducible apply kept_execRouteBatch
    | with_reducible apply kept_execRouteClear
    | with_reducible apply kept_execGainSet
    | with_reducible apply kept_execRouteSet
    | split

theorem kept_readDoorbell (s1 : State) {pq : List Instr}
    (hk : Kept pq s1) : Kept pq (readDoorbell s1) := by
  unfold readDoorbell
  repeat' first
    | with_reducible assumption
    | with_reducible apply kept_writeWaiting
    | with_reducible apply kept_reserveOld
    | with_reducible apply kept_hifMod
    | dsimp only [id]
    | (simp only [kept_mk]; change Kept pq _)

theorem kept_takeNext (r : Fin 8) (s0 : State) {pq : List Instr}
    (hk : Kept pq s0) : KeptOpt pq (takeNext r s0) := by
  unfold takeNext
  repeat' first
    | with_reducible assumption
    | with_reducible apply kept_runHost
    | with_reducible apply kept_tunMod
    | with_reducible apply kept_hifMod
    | with_reducible apply kept_untimedCmd
    | with_reducible apply kept_useWrite
    | with_reducible exact keptOpt_none
    | with_reducible apply keptOpt_some
    | with_reducible intro _
    | split
    | dsimp only [id]

theorem kept_visitRings (s : State) {pq : List Instr}
    (hk : Kept pq s) : Kept pq (visitRings s).2 := by
  unfold visitRings
  repeat' first
    | with_reducible assumption
    | with_reducible refine keptOpt_elim (kept_takeNext _ _ ?_) ‹_›
    | with_reducible refine kept_foldl_snd (fun _ _ _ => ?_) _ ?_
    | split

theorem kept_acceptAll (x0 : Nat) (x1 : State) {pq : List Instr}
    (hk : Kept pq x1) : Kept pq (acceptAll x0 x1) := by
  induction x0 generalizing x1 with
  | zero => unfold acceptAll; assumption
  | succ _ ih =>
  unfold acceptAll
  repeat' first
    | with_reducible assumption
    | with_reducible apply kept_visitRings
    | with_reducible apply ih
    | split
    | dsimp only [id]

theorem kept_askData (r : Fin 8) (s : State) {pq : List Instr}
    (hk : Kept pq s) : Kept pq (askData r s) := by
  unfold askData
  repeat' first
    | with_reducible assumption
    | with_reducible apply kept_hostReadReq
    | with_reducible refine kept_foldl (fun _ _ _ => ?_) _ ?_
    | split

theorem kept_takeKnown (s : State) {pq : List Instr}
    (hk : Kept pq s) : Kept pq (takeKnown s) := by
  unfold takeKnown
  repeat' first
    | with_reducible assumption
    | with_reducible apply kept_askData
    | with_reducible apply kept_acceptAll
    | with_reducible refine kept_foldl (fun _ _ _ => ?_) _ ?_

theorem kept_fetchRing (r : Fin 8) (s : State) {pq : List Instr}
    (hk : Kept pq s) : Kept pq (fetchRing r s) := by
  unfold fetchRing
  repeat' first
    | with_reducible assumption
    | with_reducible apply kept_useRead
    | split
    | dsimp only [id]

theorem kept_tunFetched (u : TunUse) (addr len : Nat) (s : State) {pq : List Instr}
    (hk : Kept pq s) : Kept pq (tunFetched u addr len s) := by
  unfold tunFetched
  repeat' first
    | with_reducible assumption
    | with_reducible apply kept_fetchRing
    | with_reducible apply kept_takeKnown
    | with_reducible apply kept_readDoorbell
    | with_reducible apply kept_tunMod
    | with_reducible apply kept_dmaFetch
    | with_reducible refine kept_foldl (fun _ _ _ => ?_) _ ?_
    | split
    | dsimp only [id]

theorem kept_pollOnce (s : State) {pq : List Instr}
    (hk : Kept pq s) : Kept pq (pollOnce s) := by
  unfold pollOnce
  repeat' first
    | with_reducible assumption
    | with_reducible apply kept_acceptAll
    | with_reducible apply kept_readDoorbell
    | with_reducible apply kept_stopRings
    | with_reducible apply kept_useRead
    | with_reducible apply kept_freshFree
    | split

theorem kept_roundAgain (s : State) {pq : List Instr}
    (hk : Kept pq s) : Kept pq (roundAgain s) := by
  unfold roundAgain
  repeat' first
    | with_reducible assumption
    | with_reducible apply kept_pollOnce
    | with_reducible apply kept_hifMod
    | split

theorem kept_wakeRound (s : State) {pq : List Instr}
    (hk : Kept pq s) : Kept pq (wakeRound s) := by
  unfold wakeRound
  repeat' first
    | with_reducible assumption
    | with_reducible apply kept_pollOnce
    | with_reducible apply kept_hifMod
    | split

theorem kept_execTunData (link : Fin 16) (cell : Cell) (s : State) {pq : List Instr}
    (hk : Kept pq s) : KeptOut pq (execTunData link cell s) := by
  unfold execTunData
  repeat' first
    | with_reducible assumption
    | with_reducible apply kept_roundAgain
    | with_reducible apply kept_tunFetched
    | with_reducible apply kept_takeData
    | with_reducible apply kept_fin
    | with_reducible apply kept_receiveCell
    | with_reducible intro _

theorem kept_execPollRound (stores : List HostStore) (s : State) {pq : List Instr}
    (hk : Kept pq s) : KeptOut pq (execPollRound stores s) := by
  unfold execPollRound
  repeat' first
    | with_reducible assumption
    | with_reducible apply kept_pollOnce
    | with_reducible apply kept_hifMod
    | with_reducible apply kept_fin
    | with_reducible apply kept_hostStores

theorem kept_execWakeWrite (stores : List HostStore) (s0 : State) {pq : List Instr}
    (hk : Kept pq s0) : KeptOut pq (execWakeWrite stores s0) := by
  unfold execWakeWrite
  repeat' first
    | with_reducible assumption
    | with_reducible apply kept_wakeRound
    | with_reducible apply kept_wakeBy
    | with_reducible apply kept_fin
    | with_reducible apply kept_hostStores
    | with_reducible apply keptOut_next
    | split
    | dsimp only [id]

theorem kept_execTunAck (link : Fin 16) (cell : Cell) (s : State) {pq : List Instr}
    (hk : Kept pq s) : KeptOut pq (execTunAck link cell s) := by
  unfold execTunAck
  repeat' first
    | with_reducible assumption
    | with_reducible apply kept_takeAck
    | with_reducible apply kept_settleSnapshots
    | with_reducible apply kept_fin
    | with_reducible apply kept_receiveCell
    | with_reducible intro _

theorem kept_execTunWake (link : Fin 16) (cell : Cell) (s : State) {pq : List Instr}
    (hk : Kept pq s) : KeptOut pq (execTunWake link cell s) := by
  unfold execTunWake
  repeat' first
    | with_reducible assumption
    | with_reducible apply kept_wakeRound
    | with_reducible apply kept_fin
    | with_reducible apply kept_receiveCell
    | with_reducible intro _
    | split

theorem kept_execPciePerst (low : Bool) (s : State) {pq : List Instr}
    (hk : Kept pq s) : KeptOut pq (execPciePerst low s) := by
  unfold execPciePerst
  repeat' first
    | with_reducible assumption
    | with_reducible apply keptOut_next
    | split
    | dsimp only [id]
    | (simp only [kept_mk]; change Kept pq _)

end Sys2Proof.Machine
end

