-- ==== Sys2Proof/Laws/KeptRegCmds.lean ====
section
/-!
SUPPORT. The operations of Machine/RegCmds.lean keep the queue and the canonical form of the memories.
-/
namespace Sys2Proof.Machine

theorem kept_writeCmd (path : AccessPath) (off : Nat) (v : Word) (s : State) {pq : List Instr}
    (hk : Kept pq s) : KeptOut pq (writeCmd path off v s) := by
  unfold writeCmd
  repeat' first
    | with_reducible assumption
    | with_reducible apply kept_busWrite
    | with_reducible apply kept_fin

theorem kept_execRegisterWrite (path : AccessPath) (offset : BitVec 18) (value : Word) (s : State) {pq : List Instr}
    (hk : Kept pq s) : KeptOut pq (execRegisterWrite path offset value s) := by
  unfold execRegisterWrite
  repeat' first
    | with_reducible assumption
    | with_reducible apply kept_writeCmd

theorem kept_execCrcStart (path : AccessPath) (unit : Fin 8) (value : Word) (s : State) {pq : List Instr}
    (hk : Kept pq s) : KeptOut pq (execCrcStart path unit value s) := by
  unfold execCrcStart
  repeat' first
    | with_reducible assumption
    | with_reducible apply kept_writeCmd

theorem kept_execCrcDataB (path : AccessPath) (unit : Fin 8) (value : Word) (s : State) {pq : List Instr}
    (hk : Kept pq s) : KeptOut pq (execCrcDataB path unit value s) := by
  unfold execCrcDataB
  repeat' first
    | with_reducible assumption
    | with_reducible apply kept_writeCmd

theorem kept_execCrcDataH (path : AccessPath) (unit : Fin 8) (value : Word) (s : State) {pq : List Instr}
    (hk : Kept pq s) : KeptOut pq (execCrcDataH path unit value s) := by
  unfold execCrcDataH
  repeat' first
    | with_reducible assumption
    | with_reducible apply kept_writeCmd

theorem kept_execCrcDataW (path : AccessPath) (unit : Fin 8) (value : Word) (s : State) {pq : List Instr}
    (hk : Kept pq s) : KeptOut pq (execCrcDataW path unit value s) := by
  unfold execCrcDataW
  repeat' first
    | with_reducible assumption
    | with_reducible apply kept_writeCmd

theorem kept_execMeterClear (path : AccessPath) (value : Word) (s : State) {pq : List Instr}
    (hk : Kept pq s) : KeptOut pq (execMeterClear path value s) := by
  unfold execMeterClear
  repeat' first
    | with_reducible assumption
    | with_reducible apply kept_writeCmd

theorem kept_execMeterSrcWrite (path : AccessPath) (e : Fin 1024) (value : Word) (s : State) {pq : List Instr}
    (hk : Kept pq s) : KeptOut pq (execMeterSrcWrite path e value s) := by
  unfold execMeterSrcWrite
  repeat' first
    | with_reducible assumption
    | with_reducible apply kept_writeCmd

theorem kept_execLinkEnableWrite (path : AccessPath) (link : Fin 16) (value : Word) (s : State) {pq : List Instr}
    (hk : Kept pq s) : KeptOut pq (execLinkEnableWrite path link value s) := by
  unfold execLinkEnableWrite
  repeat' first
    | with_reducible assumption
    | with_reducible apply kept_writeCmd

theorem kept_execPllMeasStart (path : AccessPath) (value : Word) (s : State) {pq : List Instr}
    (hk : Kept pq s) : KeptOut pq (execPllMeasStart path value s) := by
  unfold execPllMeasStart
  repeat' first
    | with_reducible assumption
    | with_reducible apply kept_writeCmd

theorem kept_execPulseCfgWrite (path : AccessPath) (m : Fin 2) (value : Word) (s : State) {pq : List Instr}
    (hk : Kept pq s) : KeptOut pq (execPulseCfgWrite path m value s) := by
  unfold execPulseCfgWrite
  repeat' first
    | with_reducible assumption
    | with_reducible apply kept_writeCmd

theorem kept_execEthCtrlWrite (path : AccessPath) (port : Fin 4) (value : Word) (s : State) {pq : List Instr}
    (hk : Kept pq s) : KeptOut pq (execEthCtrlWrite path port value s) := by
  unfold execEthCtrlWrite
  repeat' first
    | with_reducible assumption
    | with_reducible apply kept_writeCmd

theorem kept_execPauseStuckClear (path : AccessPath) (port : Fin 4) (value : Word) (s : State) {pq : List Instr}
    (hk : Kept pq s) : KeptOut pq (execPauseStuckClear path port value s) := by
  unfold execPauseStuckClear
  repeat' first
    | with_reducible assumption
    | with_reducible apply kept_writeCmd

theorem kept_execPsPfreqWrite (path : AccessPath) (k : Fin 16) (value : Word) (s : State) {pq : List Instr}
    (hk : Kept pq s) : KeptOut pq (execPsPfreqWrite path k value s) := by
  unfold execPsPfreqWrite
  repeat' first
    | with_reducible assumption
    | with_reducible apply kept_writeCmd

theorem kept_execHifModeWrite (path : AccessPath) (value : Word) (stores : List HostStore) (s : State) {pq : List Instr}
    (hk : Kept pq s) : KeptOut pq (execHifModeWrite path value stores s) := by
  unfold execHifModeWrite
  repeat' first
    | with_reducible assumption
    | with_reducible apply kept_writeCmd
    | with_reducible apply kept_bar2Store
    | with_reducible apply kept_localMem
    | with_reducible refine kept_foldl (fun _ _ _ => ?_) _ ?_
    | split

theorem kept_execWarmWrite (path : AccessPath) (value : Word) (s : State) {pq : List Instr}
    (hk : Kept pq s) : KeptOut pq (execWarmWrite path value s) := by
  unfold execWarmWrite
  repeat' first
    | with_reducible assumption
    | with_reducible apply kept_writeCmd

theorem kept_execSetupLock (path : AccessPath) (value : Word) (s : State) {pq : List Instr}
    (hk : Kept pq s) : KeptOut pq (execSetupLock path value s) := by
  unfold execSetupLock
  repeat' first
    | with_reducible assumption
    | with_reducible apply kept_writeCmd

theorem kept_execStoreRate (path : AccessPath) (value : Word) (s : State) {pq : List Instr}
    (hk : Kept pq s) : KeptOut pq (execStoreRate path value s) := by
  unfold execStoreRate
  repeat' first
    | with_reducible assumption
    | with_reducible apply kept_writeCmd

theorem kept_execGlbTickLoRead (path : AccessPath) (s : State) {pq : List Instr}
    (hk : Kept pq s) : KeptOut pq (execGlbTickLoRead path s) := by
  unfold execGlbTickLoRead
  repeat' first
    | with_reducible assumption
    | with_reducible apply kept_afterRead
    | with_reducible apply keptOut_next

theorem kept_execPropose (path : AccessPath) (value : Word) (s : State) {pq : List Instr}
    (hk : Kept pq s) : KeptOut pq (execPropose path value s) := by
  unfold execPropose
  repeat' first
    | with_reducible assumption
    | with_reducible apply kept_writeCmd

theorem kept_execWithdraw (path : AccessPath) (value : Word) (s : State) {pq : List Instr}
    (hk : Kept pq s) : KeptOut pq (execWithdraw path value s) := by
  unfold execWithdraw
  repeat' first
    | with_reducible assumption
    | with_reducible apply kept_writeCmd

theorem kept_execProtConfirm (path : AccessPath) (value : Word) (s : State) {pq : List Instr}
    (hk : Kept pq s) : KeptOut pq (execProtConfirm path value s) := by
  unfold execProtConfirm
  repeat' first
    | with_reducible assumption
    | with_reducible apply kept_writeCmd

theorem kept_execMbTgtReqSet (path : AccessPath) (bus : Fin 2) (value : Word) (s : State) {pq : List Instr}
    (hk : Kept pq s) : KeptOut pq (execMbTgtReqSet path bus value s) := by
  unfold execMbTgtReqSet
  repeat' first
    | with_reducible assumption
    | with_reducible apply kept_writeCmd

theorem kept_execMbTgtReqClear (path : AccessPath) (bus : Fin 2) (value : Word) (s : State) {pq : List Instr}
    (hk : Kept pq s) : KeptOut pq (execMbTgtReqClear path bus value s) := by
  unfold execMbTgtReqClear
  repeat' first
    | with_reducible assumption
    | with_reducible apply kept_writeCmd

theorem kept_execTestDbgRead (path : AccessPath) (value : Word) (s : State) {pq : List Instr}
    (hk : Kept pq s) : KeptOut pq (execTestDbgRead path value s) := by
  unfold execTestDbgRead
  repeat' first
    | with_reducible assumption
    | with_reducible apply kept_writeCmd

theorem kept_execTestDbgWrite (path : AccessPath) (value : Word) (s : State) {pq : List Instr}
    (hk : Kept pq s) : KeptOut pq (execTestDbgWrite path value s) := by
  unfold execTestDbgWrite
  repeat' first
    | with_reducible assumption
    | with_reducible apply kept_writeCmd

theorem kept_execTraceEnable (path : AccessPath) (value : Word) (s : State) {pq : List Instr}
    (hk : Kept pq s) : KeptOut pq (execTraceEnable path value s) := by
  unfold execTraceEnable
  repeat' first
    | with_reducible assumption
    | with_reducible apply kept_writeCmd

theorem kept_endWindow (r : Resp) (s : State) {pq : List Instr}
    (hk : Kept pq s) : Kept pq (endWindow r s) := by
  unfold endWindow
  repeat' first
    | with_reducible assumption
    | dsimp only [id]
    | (simp only [kept_mk]; change Kept pq _)

theorem kept_execTestDbgDone (slvErr : Bool) (s : State) {pq : List Instr}
    (hk : Kept pq s) : KeptOut pq (execTestDbgDone slvErr s) := by
  unfold execTestDbgDone
  repeat' first
    | with_reducible assumption
    | with_reducible apply kept_endWindow
    | with_reducible apply kept_setMode
    | with_reducible apply kept_devWrite
    | with_reducible apply kept_devRead
    | with_reducible apply kept_fin
    | with_reducible apply kept_matrixError
    | with_reducible apply kept_regSet
    | with_reducible apply keptOut_next
    | with_reducible intro _
    | split
    | dsimp only [id]

end Sys2Proof.Machine
end

