-- ==== Sys2Proof/Laws/KeptTick.lean ====
section
/-!
SUPPORT. The operations of Machine/Tick.lean keep the queue and the canonical form of the memories.
-/
namespace Sys2Proof.Machine

theorem kept_finish (t : Ticket) (r : Nat × State) {pq : List Instr}
    (hk : Kept pq r.2) : Kept pq (finish t r) := by
  unfold finish
  repeat' first
    | with_reducible assumption
    | with_reducible apply kept_complete

theorem kept_applyAlign (m : BitVec 10) (s : State) {pq : List Instr}
    (hk : Kept pq s) : Kept pq (applyAlign m s) := by
  unfold applyAlign
  repeat' first
    | with_reducible assumption
    | with_reducible apply kept_alignFrameSync
    | with_reducible apply kept_applyPulseAlign
    | with_reducible refine kept_foldl (fun _ _ _ => ?_) _ ?_
    | split

theorem kept_finishAge (t : Ticket) (r : Nat × State) {pq : List Instr}
    (hk : Kept pq r.2) : Kept pq (finishAge t r) := by
  unfold finishAge
  repeat' first
    | with_reducible assumption
    | with_reducible apply kept_stepGivesUp
    | with_reducible apply kept_complete
    | split

theorem kept_applyAction (t : Ticket) (won : Obj → Bool) (act : Action) (s : State) {pq : List Instr}
    (hk : Kept pq s) : Kept pq (applyAction t won act s) := by
  unfold applyAction
  repeat' first
    | with_reducible assumption
    | with_reducible apply kept_finishAge
    | with_reducible apply kept_applyAlign
    | with_reducible apply kept_finish
    | with_reducible apply kept_applyDma
    | with_reducible apply kept_applyAoipCs
    | with_reducible apply kept_applyAoipTx
    | with_reducible apply kept_applyAoipRx
    | with_reducible apply kept_applyRole
    | with_reducible apply kept_applySleep
    | with_reducible apply kept_applyAesCs
    | with_reducible apply kept_applyPortStop
    | with_reducible apply kept_applyPortStart
    | with_reducible apply kept_applyAgeDecide
    | with_reducible apply kept_applyRefForce
    | with_reducible apply kept_applyPsFreq
    | with_reducible apply kept_applyPsBudget
    | with_reducible apply kept_applyPsStop
    | with_reducible apply kept_applyPsStart
    | with_reducible apply kept_applyPairSet
    | with_reducible apply kept_applyRelease
    | with_reducible apply kept_applyActivate
    | with_reducible apply kept_applyLinkCmd
    | with_reducible apply kept_psComplete
    | with_reducible apply kept_applySnap
    | with_reducible apply kept_applyCapture
    | with_reducible apply kept_applyPlayStop
    | with_reducible apply kept_applyPlayStart
    | with_reducible apply kept_applyDelay
    | with_reducible apply kept_freeObj
    | with_reducible apply kept_applyRampSet
    | with_reducible apply kept_applyParams
    | with_reducible apply kept_applySwap
    | with_reducible apply kept_applyDirect
    | with_reducible apply kept_applyTestgen
    | with_reducible apply kept_applyBatch
    | with_reducible apply kept_applyClear
    | with_reducible apply kept_applyGain
    | with_reducible apply kept_applyRoute
    | with_reducible apply kept_complete
    | split
    | dsimp only [id]

theorem kept_applyLatched (x : Timed × List Obj) (s : State) {pq : List Instr}
    (hk : Kept pq s) : Kept pq (applyLatched x s) := by
  unfold applyLatched
  repeat' first
    | with_reducible assumption
    | with_reducible apply kept_applyAction
    | with_reducible apply kept_finishAge
    | with_reducible apply kept_complete
    | split
    | dsimp only [id]

theorem kept_runOrder (k : Nat) (l : List (Timed × List Obj)) (s : State) {pq : List Instr}
    (hk : Kept pq s) : Kept pq (runOrder k l s) := by
  unfold runOrder
  repeat' first
    | with_reducible assumption
    | with_reducible apply kept_applyLatched
    | with_reducible refine kept_foldl (fun _ _ _ => ?_) _ ?_

theorem kept_openKerf (s : State) {pq : List Instr}
    (hk : Kept pq s) : Kept pq (openKerf s) := by
  unfold openKerf
  repeat' first
    | with_reducible assumption
    | with_reducible apply kept_commitsAtKerf
    | dsimp only [id]
    | (simp only [kept_mk]; change Kept pq _)

theorem kept_execTickKerfOpen (s : State) {pq : List Instr}
    (hk : Kept pq s) : KeptOut pq (execTickKerfOpen s) := by
  unfold execTickKerfOpen
  repeat' first
    | with_reducible assumption
    | with_reducible apply kept_openKerf
    | with_reducible apply kept_fin
    | with_reducible apply keptOut_next
    | split

theorem kept_traceRecord (s : State) {pq : List Instr}
    (hk : Kept pq s) : Kept pq (traceRecord s) := by
  unfold traceRecord
  repeat' first
    | with_reducible assumption
    | with_reducible apply kept_regSetFld
    | with_reducible apply kept_regSet
    | split

theorem kept_countTick (s : State) {pq : List Instr}
    (hk : Kept pq s) : Kept pq (countTick s) := by
  unfold countTick
  repeat' first
    | with_reducible assumption
    | dsimp only [id]
    | (simp only [kept_mk]; change Kept pq _)

theorem kept_endTick (s : State) {pq : List Instr}
    (hk : Kept pq s) : Kept pq (endTick s) := by
  unfold endTick
  repeat' first
    | with_reducible assumption
    | with_reducible apply kept_countTick
    | with_reducible apply kept_traceRecord
    | with_reducible apply kept_openKerf
    | with_reducible apply kept_advancePulses
    | with_reducible apply kept_cutTiles
    | split

theorem kept_beginPolling (s : State) {pq : List Instr}
    (hk : Kept pq s) : Kept pq (beginPolling s) := by
  unfold beginPolling
  repeat' first
    | with_reducible assumption
    | with_reducible apply kept_hifMod
    | split

theorem kept_beginTick (s : State) {pq : List Instr}
    (hk : Kept pq s) : Kept pq (beginTick s) := by
  unfold beginTick
  repeat' first
    | with_reducible assumption
    | with_reducible apply kept_beginPolling
    | with_reducible apply kept_bindOwner
    | with_reducible apply kept_stepBegins
    | with_reducible apply kept_standAside
    | split

theorem kept_deliver (s : State) {pq : List Instr}
    (hk : Kept pq s) : Kept pq (deliver s) := by
  unfold deliver
  repeat' first
    | with_reducible assumption
    | with_reducible apply kept_psShift
    | with_reducible apply kept_psPlay
    | with_reducible apply kept_portOutputs
    | with_reducible apply kept_portInputs
    | with_reducible apply kept_runDirects
    | dsimp only [id]
    | (simp only [kept_mk]; change Kept pq _)

theorem kept_handOver (m : TickIn) (s : State) {pq : List Instr}
    (hk : Kept pq s) : Kept pq (handOver m s) := by
  unfold handOver
  repeat' first
    | with_reducible assumption
    | with_reducible apply kept_dmaHandover
    | with_reducible apply kept_runAoipRx
    | with_reducible apply kept_psClips
    | with_reducible apply kept_psSense
    | with_reducible apply kept_runDrops
    | with_reducible apply kept_advanceBenches
    | with_reducible apply kept_handTiles
    | with_reducible apply kept_advanceRoutes

theorem kept_benchTick (m : TickIn) (s : State) {pq : List Instr}
    (hk : Kept pq s) : Kept pq (benchTick m s) := by
  unfold benchTick
  repeat' first
    | with_reducible assumption
    | with_reducible apply kept_runBenches
    | split
    | dsimp only [id]
    | (simp only [kept_mk]; change Kept pq _)

theorem kept_tileTick (inputs : List (Nat × Blk)) (s : State) {pq : List Instr}
    (hk : Kept pq s) : Kept pq (tileTick inputs s) := by
  unfold tileTick
  repeat' first
    | with_reducible assumption
    | with_reducible apply kept_runTiles
    | split
    | (simp only [kept_mk]; change Kept pq _)

theorem kept_dataWrites (late : Bool) (l : List (Timed × List Obj)) (g : List (GlobalOp × List Obj)) (s : State) {pq : List Instr}
    (hk : Kept pq s) : Kept pq (dataWrites late l g s) := by
  unfold dataWrites
  repeat' first
    | with_reducible assumption
    | with_reducible apply kept_runOrder
    | with_reducible apply kept_runSnapshots
    | with_reducible apply kept_runGlobals
    | with_reducible apply kept_writeLimits
    | with_reducible apply kept_runDmemReads
    | with_reducible apply kept_runRampQueries
    | with_reducible apply kept_writeRamps
    | with_reducible apply kept_checkLimits
    | with_reducible apply kept_checkUnits
    | with_reducible refine kept_foldl (fun _ _ _ => ?_) _ ?_

theorem kept_answerQueries (s : State) {pq : List Instr}
    (hk : Kept pq s) : Kept pq (answerQueries s) := by
  unfold answerQueries
  repeat' first
    | with_reducible assumption
    | with_reducible apply kept_runAoipQueries
    | with_reducible apply kept_runPortQueries
    | with_reducible apply kept_runRefQueries
    | with_reducible apply kept_runPsQueries
    | with_reducible apply kept_runLinkQueries

theorem kept_startTick (m : TickIn) (n : Nat) (s0 : State) {pq : List Instr}
    (hk : Kept pq s0) : Kept pq (startTick m n s0) := by
  unfold startTick
  repeat' first
    | with_reducible assumption
    | with_reducible apply kept_answerQueries
    | with_reducible apply kept_dataWrites
    | with_reducible apply kept_tileTick
    | with_reducible apply kept_benchTick
    | with_reducible apply kept_runOrder
    | with_reducible apply kept_runAcks
    | with_reducible apply kept_runDmaAudio
    | with_reducible apply kept_flushEvents
    | with_reducible apply kept_reportGlobals
    | with_reducible apply kept_enterSleep
    | with_reducible apply kept_runEvt
    | with_reducible apply kept_anchorView
    | with_reducible apply kept_fabAlign
    | with_reducible apply kept_psBoundary
    | with_reducible apply kept_runPair
    | with_reducible apply kept_runLinks
    | with_reducible apply kept_turnOn
    | with_reducible apply kept_startGroups
    | with_reducible apply kept_addSlots
    | with_reducible apply kept_switchKerf
    | with_reducible apply kept_runBenchQueries
    | with_reducible apply kept_benchRegs
    | with_reducible apply kept_startDeferred
    | with_reducible apply kept_runRouteQueries
    | with_reducible apply kept_runMeters
    | with_reducible apply kept_runGens
    | with_reducible apply kept_routerUse
    | with_reducible apply kept_routerPass
    | with_reducible apply kept_freeRoutes
    | dsimp only [id]
    | (simp only [kept_mk]; change Kept pq _)

theorem kept_runBoundary (m : TickIn) (s : State) {pq : List Instr}
    (hk : Kept pq s) : Kept pq (runBoundary m s) := by
  unfold runBoundary
  repeat' first
    | with_reducible assumption
    | with_reducible apply kept_startTick
    | with_reducible apply kept_handOver
    | with_reducible apply kept_deliver
    | with_reducible apply kept_beginTick
    | with_reducible apply kept_endTick
    | with_reducible apply kept_raiseDue
    | with_reducible apply kept_runEth
    | with_reducible apply kept_runAoipTx
    | with_reducible apply kept_upsetRow
    | with_reducible refine kept_foldl (fun _ _ _ => ?_) _ ?_

theorem kept_execTickBoundary (m : TickIn) (s : State) {pq : List Instr}
    (hk : Kept pq s) : KeptOut pq (execTickBoundary m s) := by
  unfold execTickBoundary
  repeat' first
    | with_reducible assumption
    | with_reducible apply kept_runBoundary
    | with_reducible apply kept_countTick
    | with_reducible apply kept_fin
    | with_reducible apply keptOut_next
    | split

end Sys2Proof.Machine
end

