-- ==== Sys2Proof/Laws/KeptDispatch.lean ====
section
/-!
SUPPORT. The operations of Machine/Dispatch.lean keep the queue and the canonical form of the memories.
-/
namespace Sys2Proof.Machine

theorem kept_exec (i : Instr) (s : State) {pq : List Instr} (hk : Kept pq s) : KeptOut pq (exec i s) :=
  match i with
  | .tickBoundary m => kept_execTickBoundary m s hk
  | .tickKerfOpen => kept_execTickKerfOpen s hk
  | .tileCut tile => kept_execTileCut tile s hk
  | .subFrameStart link j => kept_execSubFrameStart link j s hk
  | .pollRound stores => kept_execPollRound stores s hk
  | .routeSet h a => kept_execRouteSet h a s hk
  | .gainSet h a => kept_execGainSet h a s hk
  | .routeClear h a => kept_execRouteClear h a s hk
  | .routeBatch h a => kept_execRouteBatch h a s hk
  | .routeQuery h dest resultAddr => kept_execRouteQuery h dest resultAddr s hk
  | .directSet h a => kept_execDirectSet h a s hk
  | .testgenSet h a => kept_execTestgenSet h a s hk
  | .tileLoad h a => kept_execTileLoad h a s hk
  | .tileLoadComplete tile => kept_execTileLoadComplete tile s hk
  | .tileClear h tile => kept_execTileClear h tile s hk
  | .tileSwap h tick mask => kept_execTileSwap h tick mask s hk
  | .paramWrite h a => kept_execParamWrite h a s hk
  | .rampSet h a => kept_execRampSet h a s hk
  | .dmemRead h a => kept_execDmemRead h a s hk
  | .rampQuery h tile resultAddr => kept_execRampQuery h tile resultAddr s hk
  | .benchCreate h bench quota => kept_execBenchCreate h bench quota s hk
  | .benchQuota h bench quota => kept_execBenchQuota h bench quota s hk
  | .benchDelete h bench => kept_execBenchDelete h bench s hk
  | .objAlloc h a => kept_execObjAlloc h a s hk
  | .objFree h tick handle => kept_execObjFree h tick handle s hk
  | .delaySet h a => kept_execDelaySet h a s hk
  | .playStart h a => kept_execPlayStart h a s hk
  | .playStop h tick handle rampMs => kept_execPlayStop h tick handle rampMs s hk
  | .captureCtrl h a => kept_execCaptureCtrl h a s hk
  | .benchWrite h a => kept_execBenchWrite h a s hk
  | .benchRead h a errors => kept_execBenchRead h a errors s hk
  | .snapTake h a => kept_execSnapTake h a s hk
  | .benchQuery h bench handle resultAddr => kept_execBenchQuery h bench handle resultAddr s hk
  | .scrub errors percent => kept_execScrub errors percent s hk
  | .linkCmd h a => kept_execLinkCmd h a s hk
  | .linkQuery h link resultAddr => kept_execLinkQuery h link resultAddr s hk
  | .eyeSurvey h linkMask => kept_execEyeSurvey h linkMask s hk
  | .eyeSurveyComplete r => kept_execEyeSurveyComplete r s hk
  | .nodeIdSet h id => kept_execNodeIdSet h id s hk
  | .linkSignalDetect link => kept_execLinkSignalDetect link s hk
  | .linkBlockLock link => kept_execLinkBlockLock link s hk
  | .linkEqComplete link ctle => kept_execLinkEqComplete link ctle s hk
  | .trainingMarker link m w => kept_execTrainingMarker link m w s hk
  | .frameMarker link m => kept_execFrameMarker link m s hk
  | .markerWindowExpiry link => kept_execMarkerWindowExpiry link s hk
  | .linkSignalLoss link signalGone => kept_execLinkSignalLoss link signalGone s hk
  | .trainTimeout link => kept_execTrainTimeout link s hk
  | .retryWait link => kept_execRetryWait link s hk
  | .slotReceived link x => kept_execSlotReceived link x s hk
  | .discover link cell => kept_execDiscover link cell s hk
  | .discoverSend link => kept_execDiscoverSend link s hk
  | .linkCtrlCell link cell => kept_execLinkCtrlCell link cell s hk
  | .attachReqRepeat link => kept_execAttachReqRepeat link s hk
  | .idAnnounce link cell => kept_execIdAnnounce link cell s hk
  | .idAnnouncePeriodic => kept_execIdAnnouncePeriodic s hk
  | .linkBer link => kept_execLinkBer link s hk
  | .pathReserve h a => kept_execPathReserve h a s hk
  | .pathSet link cell => kept_execPathSet link cell s hk
  | .pathReply link cell => kept_execPathReply link cell s hk
  | .pathReserveTimeout addCh copy => kept_execPathReserveTimeout addCh copy s hk
  | .tentativeExpiry link slot => kept_execTentativeExpiry link slot s hk
  | .pathRelease h tick addCh copy => kept_execPathRelease h tick addCh copy s hk
  | .pathClear link cell => kept_execPathClear link cell s hk
  | .pathBroken link cell => kept_execPathBroken link cell s hk
  | .pathQuery h addCh copy resultAddr => kept_execPathQuery h addCh copy resultAddr s hk
  | .switchRead h a => kept_execSwitchRead h a s hk
  | .pairSet h a => kept_execPairSet h a s hk
  | .pairDigest link cell => kept_execPairDigest link cell s hk
  | .roleSet h tick port role => kept_execRoleSet h tick port role s hk
  | .twinReadbackMismatch port position => kept_execTwinReadbackMismatch port position s hk
  | .twinDigestTakeover port => kept_execTwinDigestTakeover port s hk
  | .globalArm h a => kept_execGlobalArm h a s hk
  | .globalOp h a => kept_execGlobalOp h a s hk
  | .globalOpCell link cell => kept_execGlobalOpCell link cell s hk
  | .adopt link cell => kept_execAdopt link cell s hk
  | .doneCell link cell => kept_execDoneCell link cell s hk
  | .doneTimeout orig opNo => kept_execDoneTimeout orig opNo s hk
  | .globalResetWarm => kept_execGlobalResetWarm s hk
  | .timeSync link cell => kept_execTimeSync link cell s hk
  | .anchorLost => kept_execAnchorLost s hk
  | .anchorClaim => kept_execAnchorClaim s hk
  | .dpllUpdate phaseNs => kept_execDpllUpdate phaseNs s hk
  | .refSecond m => kept_execRefSecond m s hk
  | .refInputFault slot fault => kept_execRefInputFault slot fault s hk
  | .tickAlignment slot time => kept_execTickAlignment slot time s hk
  | .alignWaitExpiry => kept_execAlignWaitExpiry s hk
  | .pllUnlock pll => kept_execPllUnlock pll s hk
  | .pllLock pll fails measured => kept_execPllLock pll fails measured s hk
  | .pllMeasStart path value => kept_execPllMeasStart path value s hk
  | .pllMeasDone freqKhz => kept_execPllMeasDone freqKhz s hk
  | .refForce h tick cand => kept_execRefForce h tick cand s hk
  | .refQuery h resultAddr => kept_execRefQuery h resultAddr s hk
  | .pulseAlign h tick mask => kept_execPulseAlign h tick mask s hk
  | .timeSet h seconds => kept_execTimeSet h seconds s hk
  | .pulseCfgWrite path m value => kept_execPulseCfgWrite path m value s hk
  | .cmpSet h a => kept_execCmpSet h a s hk
  | .cmpFire unit => kept_execCmpFire unit s hk
  | .captureEdge source rising time => kept_execCaptureEdge source rising time s hk
  | .timeQuery h resultAddr => kept_execTimeQuery h resultAddr s hk
  | .ethCtrlWrite path port value => kept_execEthCtrlWrite path port value s hk
  | .ethLinkDown port => kept_execEthLinkDown port s hk
  | .ethFrameReceived port f => kept_execEthFrameReceived port f s hk
  | .pauseReceived port quanta => kept_execPauseReceived port quanta s hk
  | .pauseExpiry port => kept_execPauseExpiry port s hk
  | .pauseWatchdog port => kept_execPauseWatchdog port s hk
  | .pauseStuckClear path port value => kept_execPauseStuckClear path port value s hk
  | .pauseRefresh port => kept_execPauseRefresh port s hk
  | .ptpMessage port m => kept_execPtpMessage port m s hk
  | .ptpMasterSend port announce => kept_execPtpMasterSend port announce s hk
  | .aoipPacketReceived port p => kept_execAoipPacketReceived port p s hk
  | .aoipRxSet h a => kept_execAoipRxSet h a s hk
  | .aoipTxSet h a => kept_execAoipTxSet h a s hk
  | .aoipQuery h dir stream csPair resultAddr => kept_execAoipQuery h dir stream csPair resultAddr s hk
  | .aoipCsSet h tick stream pair block => kept_execAoipCsSet h tick stream pair block s hk
  | .portStart h tick port trigger => kept_execPortStart h tick port trigger s hk
  | .portReady port rate ratio => kept_execPortReady port rate ratio s hk
  | .portStartTimeout port => kept_execPortStartTimeout port s hk
  | .startSplit port => kept_execStartSplit port s hk
  | .portStop h tick port => kept_execPortStop h tick port s hk
  | .postclkEnd port => kept_execPostclkEnd port s hk
  | .portSlots h a => kept_execPortSlots h a s hk
  | .portFrame port f => kept_execPortFrame port f s hk
  | .portClockStop port => kept_execPortClockStop port s hk
  | .portQuery h port resultAddr => kept_execPortQuery h port resultAddr s hk
  | .aesCsSet h a => kept_execAesCsSet h a s hk
  | .aesQuery h port resultAddr => kept_execAesQuery h port resultAddr s hk
  | .aesCsBlock aes subframe => kept_execAesCsBlock aes subframe s hk
  | .psStart h tick mask => kept_execPsStart h tick mask s hk
  | .psStartTimeout ch => kept_execPsStartTimeout ch s hk
  | .psStop h tick mask rampMs => kept_execPsStop h tick mask rampMs s hk
  | .converterStop group => kept_execConverterStop group s hk
  | .psBudget h a => kept_execPsBudget h a s hk
  | .psFreqSet h a => kept_execPsFreqSet h a s hk
  | .psPfreqWrite path k value => kept_execPsPfreqWrite path k value s hk
  | .psModel h a => kept_execPsModel h a s hk
  | .psQuery h ch resultAddr => kept_execPsQuery h ch resultAddr s hk
  | .powerAllocate m => kept_execPowerAllocate m s hk
  | .pilotEstimate ch re microAmps => kept_execPilotEstimate ch re microAmps s hk
  | .ilimTrip ch => kept_execIlimTrip ch s hk
  | .shortCircuit ch cls => kept_execShortCircuit ch cls s hk
  | .psRetry ch => kept_execPsRetry ch s hk
  | .psDc ch => kept_execPsDc ch s hk
  | .psDieTemp ch => kept_execPsDieTemp ch s hk
  | .psRailOv group => kept_execPsRailOv group s hk
  | .psPvinLow => kept_execPsPvinLow s hk
  | .pvinRestored => kept_execPvinRestored s hk
  | .psRailSag group => kept_execPsRailSag group s hk
  | .directTrackingResume group => kept_execDirectTrackingResume group s hk
  | .hifModeWrite path value stores => kept_execHifModeWrite path value stores s hk
  | .wakeWrite stores => kept_execWakeWrite stores s hk
  | .remoteWakeWrite value => kept_execRemoteWakeWrite value s hk
  | .tunnelClaim h a => kept_execTunnelClaim h a s hk
  | .tunnelClaimTimeout target => kept_execTunnelClaimTimeout target s hk
  | .tunnelReg h a => kept_execTunnelReg h a s hk
  | .tunnelDrop h target => kept_execTunnelDrop h target s hk
  | .tunClaim link cell => kept_execTunClaim link cell s hk
  | .tunClaimAck link cell => kept_execTunClaimAck link cell s hk
  | .tunYield link cell => kept_execTunYield link cell s hk
  | .tunWrite link cell => kept_execTunWrite link cell s hk
  | .tunRead link cell => kept_execTunRead link cell s hk
  | .tunData link cell => kept_execTunData link cell s hk
  | .tunIrq link cell => kept_execTunIrq link cell s hk
  | .tunAck link cell => kept_execTunAck link cell s hk
  | .tunWake link cell => kept_execTunWake link cell s hk
  | .tunReg link cell => kept_execTunReg link cell s hk
  | .tunRegResp link cell => kept_execTunRegResp link cell s hk
  | .tunResend => kept_execTunResend s hk
  | .tunnelLost => kept_execTunnelLost s hk
  | .dmaCtrl h a => kept_execDmaCtrl h a s hk
  | .dmaDescriptorBegin ch stores => kept_execDmaDescriptorBegin ch stores s hk
  | .dmaDescriptorComplete ch => kept_execDmaDescriptorComplete ch s hk
  | .dmaBusError e => kept_execDmaBusError e s hk
  | .ringsStopped cause addr eventWriteFails => kept_execRingsStopped cause addr eventWriteFails s hk
  | .pciePerst low => kept_execPciePerst low s hk
  | .crcStart path unit value => kept_execCrcStart path unit value s hk
  | .crcDataB path unit value => kept_execCrcDataB path unit value s hk
  | .crcDataH path unit value => kept_execCrcDataH path unit value s hk
  | .crcDataW path unit value => kept_execCrcDataW path unit value s hk
  | .mbXfer h a w => kept_execMbXfer h a w s hk
  | .mbAddrNackRetry bus w => kept_execMbAddrNackRetry bus w s hk
  | .mbReset h bus => kept_execMbReset h bus s hk
  | .mbTargetAddress bus byte => kept_execMbTargetAddress bus byte s hk
  | .mbTargetByte bus byte => kept_execMbTargetByte bus byte s hk
  | .mbTargetReadByte bus => kept_execMbTargetReadByte bus s hk
  | .mbStop bus repeated inByte => kept_execMbStop bus repeated inByte s hk
  | .mbStuck bus sclLow => kept_execMbStuck bus sclLow s hk
  | .mbRstReceived bus => kept_execMbRstReceived bus s hk
  | .mbRstReleaseCheck bus scl sda => kept_execMbRstReleaseCheck bus scl sda s hk
  | .mbTargetRequest bus e => kept_execMbTargetRequest bus e s hk
  | .mbRequestUnserved bus => kept_execMbRequestUnserved bus s hk
  | .mbServeInband bus header => kept_execMbServeInband bus header s hk
  | .mbAlertServe bus bytes lineLow => kept_execMbAlertServe bus bytes lineLow s hk
  | .mbAraRead bus wins => kept_execMbAraRead bus wins s hk
  | .mbTgtReqSet path bus value => kept_execMbTgtReqSet path bus value s hk
  | .mbTgtReqClear path bus value => kept_execMbTgtReqClear path bus value s hk
  | .faultQuietExpiry source inst => kept_execFaultQuietExpiry source inst s hk
  | .sumpQuery h a => kept_execSumpQuery h a s hk
  | .sumpClear h a => kept_execSumpClear h a s hk
  | .propose path value => kept_execPropose path value s hk
  | .withdraw path value => kept_execWithdraw path value s hk
  | .protConfirm path value => kept_execProtConfirm path value s hk
  | .protTimeout => kept_execProtTimeout s hk
  | .protStoreDone => kept_execProtStoreDone s hk
  | .ageQuery h resultAddr => kept_execAgeQuery h resultAddr s hk
  | .ageDecide h a => kept_execAgeDecide h a s hk
  | .ageVddAdjust worstPs => kept_execAgeVddAdjust worstPs s hk
  | .ageSurvey r => kept_execAgeSurvey r s hk
  | .powerOn compat pvinAbsent => kept_execPowerOn compat pvinAbsent s hk
  | .pinReset => kept_execPinReset s hk
  | .brownOut => kept_execBrownOut s hk
  | .overTemperature => kept_execOverTemperature s hk
  | .overTemperatureRecover compat => kept_execOverTemperatureRecover compat s hk
  | .imageVerified a b => kept_execImageVerified a b s hk
  | .hostReady => kept_execHostReady s hk
  | .slotCheck c => kept_execSlotCheck c s hk
  | .warmWrite path value => kept_execWarmWrite path value s hk
  | .warmReset => kept_execWarmReset s hk
  | .watchdog => kept_execWatchdog s hk
  | .setupLock path value => kept_execSetupLock path value s hk
  | .storeRate path value => kept_execStoreRate path value s hk
  | .glbTickLoRead path => kept_execGlbTickLoRead path s hk
  | .imgCommit h a => kept_execImgCommit h a s hk
  | .imgCommitStepDone e => kept_execImgCommitStepDone e s hk
  | .imgSelect h slot => kept_execImgSelect h slot s hk
  | .cfgSet h prefId => kept_execCfgSet h prefId s hk
  | .sleep h a => kept_execSleep h a s hk
  | .sleepWake source => kept_execSleepWake source s hk
  | .meterClear path value => kept_execMeterClear path value s hk
  | .meterSrcWrite path e value => kept_execMeterSrcWrite path e value s hk
  | .linkEnableWrite path link value => kept_execLinkEnableWrite path link value s hk
  | .testDbgRead path value => kept_execTestDbgRead path value s hk
  | .testDbgWrite path value => kept_execTestDbgWrite path value s hk
  | .testDbgDone slvErr => kept_execTestDbgDone slvErr s hk
  | .traceEnable path value => kept_execTraceEnable path value s hk
  | .registerWrite path offset value => kept_execRegisterWrite path offset value s hk
  | .refSignalDetect slot => kept_execRefSignalDetect slot s hk
  | .ethLinkUp port fecLock anPause => kept_execEthLinkUp port fecLock anPause s hk
  | .cellReceived link cell crc => kept_execCellReceived link cell crc s hk
  | .pstageTickStep => kept_execPstageTickStep s hk
  | .clampIdleRestart group => kept_execClampIdleRestart group s hk
  | .dieTempRecover ch => kept_execDieTempRecover ch s hk
  | .tunnelRegTimeout target rseq => kept_execTunnelRegTimeout target rseq s hk
  | .mbBusFree bus w => kept_execMbBusFree bus w s hk
  | .mbXferTimeout bus seq => kept_execMbXferTimeout bus seq s hk
  | .mbRstDriveEnd bus => kept_execMbRstDriveEnd bus s hk
  | .storeWriteDone kind => kept_execStoreWriteDone kind s hk
  | .retrainSquelchEnd link => kept_execRetrainSquelchEnd link s hk

end Sys2Proof.Machine
end

