-- ==== Sys2Proof/Laws/State.lean ====
section
/-!
SUPPORT. The named updates of State, field by field: what each writes, and that it leaves every other field alone. All hold by
definition.
-/
namespace Sys2Proof.Machine

/-! ### regSet -/

@[simp] theorem regSet_pending (off : Nat) (v : Word) (s : State) : (regSet off v s).pending = s.pending := rfl
@[simp] theorem regSet_free (off : Nat) (v : Word) (s : State) : (regSet off v s).free = s.free := rfl
@[simp] theorem regSet_power (off : Nat) (v : Word) (s : State) : (regSet off v s).power = s.power := rfl
@[simp] theorem regSet_time (off : Nat) (v : Word) (s : State) : (regSet off v s).time = s.time := rfl
@[simp] theorem regSet_regs (off : Nat) (v : Word) (s : State) :
    (regSet off v s).regs = regPut s.regs off v := rfl
@[simp] theorem regSet_timed (off : Nat) (v : Word) (s : State) : (regSet off v s).timed = s.timed := rfl
@[simp] theorem regSet_flash (off : Nat) (v : Word) (s : State) : (regSet off v s).flash = s.flash := rfl
@[simp] theorem regSet_sump (off : Nat) (v : Word) (s : State) : (regSet off v s).sump = s.sump := rfl
@[simp] theorem regSet_prot (off : Nat) (v : Word) (s : State) : (regSet off v s).prot = s.prot := rfl
@[simp] theorem regSet_wear (off : Nat) (v : Word) (s : State) : (regSet off v s).wear = s.wear := rfl
@[simp] theorem regSet_test (off : Nat) (v : Word) (s : State) : (regSet off v s).test = s.test := rfl
@[simp] theorem regSet_hif (off : Nat) (v : Word) (s : State) : (regSet off v s).hif = s.hif := rfl
@[simp] theorem regSet_pcie (off : Nat) (v : Word) (s : State) : (regSet off v s).pcie = s.pcie := rfl
@[simp] theorem regSet_tun (off : Nat) (v : Word) (s : State) : (regSet off v s).tun = s.tun := rfl
@[simp] theorem regSet_dma (off : Nat) (v : Word) (s : State) : (regSet off v s).dma = s.dma := rfl
@[simp] theorem regSet_dmaWait (off : Nat) (v : Word) (s : State) : (regSet off v s).dmaWait = s.dmaWait := rfl
@[simp] theorem regSet_localMem (off : Nat) (v : Word) (s : State) : (regSet off v s).localMem = s.localMem := rfl
@[simp] theorem regSet_tunMem (off : Nat) (v : Word) (s : State) : (regSet off v s).tunMem = s.tunMem := rfl
@[simp] theorem regSet_links (off : Nat) (v : Word) (s : State) : (regSet off v s).links = s.links := rfl
@[simp] theorem regSet_node (off : Nat) (v : Word) (s : State) : (regSet off v s).node = s.node := rfl
@[simp] theorem regSet_surveys (off : Nat) (v : Word) (s : State) : (regSet off v s).surveys = s.surveys := rfl
@[simp] theorem regSet_linkQueries (off : Nat) (v : Word) (s : State) : (regSet off v s).linkQueries = s.linkQueries := rfl
@[simp] theorem regSet_router (off : Nat) (v : Word) (s : State) : (regSet off v s).router = s.router := rfl
@[simp] theorem regSet_tiles (off : Nat) (v : Word) (s : State) : (regSet off v s).tiles = s.tiles := rfl
@[simp] theorem regSet_limits (off : Nat) (v : Word) (s : State) : (regSet off v s).limits = s.limits := rfl
@[simp] theorem regSet_mem (off : Nat) (v : Word) (s : State) : (regSet off v s).mem = s.mem := rfl
@[simp] theorem regSet_fabric (off : Nat) (v : Word) (s : State) : (regSet off v s).fabric = s.fabric := rfl
@[simp] theorem regSet_clock (off : Nat) (v : Word) (s : State) : (regSet off v s).clock = s.clock := rfl
@[simp] theorem regSet_net (off : Nat) (v : Word) (s : State) : (regSet off v s).net = s.net := rfl
@[simp] theorem regSet_ports (off : Nat) (v : Word) (s : State) : (regSet off v s).ports = s.ports := rfl
@[simp] theorem regSet_ps (off : Nat) (v : Word) (s : State) : (regSet off v s).ps = s.ps := rfl
@[simp] theorem regSet_mb (off : Nat) (v : Word) (s : State) : (regSet off v s).mb = s.mb := rfl
@[simp] theorem regSet_scratch (off : Nat) (v : Word) (s : State) : (regSet off v s).scratch = s.scratch := rfl

/-! ### setInst -/

@[simp] theorem setInst_pending (src inst : Nat) (x : SumpInst) (s : State) : (setInst src inst x s).pending = s.pending := rfl
@[simp] theorem setInst_free (src inst : Nat) (x : SumpInst) (s : State) : (setInst src inst x s).free = s.free := rfl
@[simp] theorem setInst_power (src inst : Nat) (x : SumpInst) (s : State) : (setInst src inst x s).power = s.power := rfl
@[simp] theorem setInst_time (src inst : Nat) (x : SumpInst) (s : State) : (setInst src inst x s).time = s.time := rfl
@[simp] theorem setInst_regs (src inst : Nat) (x : SumpInst) (s : State) : (setInst src inst x s).regs = s.regs := rfl
@[simp] theorem setInst_timed (src inst : Nat) (x : SumpInst) (s : State) : (setInst src inst x s).timed = s.timed := rfl
@[simp] theorem setInst_flash (src inst : Nat) (x : SumpInst) (s : State) : (setInst src inst x s).flash = s.flash := rfl
@[simp] theorem setInst_sump (src inst : Nat) (x : SumpInst) (s : State) :
    (setInst src inst x s).sump = { s.sump with insts := mapPutD SumpInst.reset s.sump.insts (src * 256 + inst) x } := rfl
@[simp] theorem setInst_prot (src inst : Nat) (x : SumpInst) (s : State) : (setInst src inst x s).prot = s.prot := rfl
@[simp] theorem setInst_wear (src inst : Nat) (x : SumpInst) (s : State) : (setInst src inst x s).wear = s.wear := rfl
@[simp] theorem setInst_test (src inst : Nat) (x : SumpInst) (s : State) : (setInst src inst x s).test = s.test := rfl
@[simp] theorem setInst_hif (src inst : Nat) (x : SumpInst) (s : State) : (setInst src inst x s).hif = s.hif := rfl
@[simp] theorem setInst_pcie (src inst : Nat) (x : SumpInst) (s : State) : (setInst src inst x s).pcie = s.pcie := rfl
@[simp] theorem setInst_tun (src inst : Nat) (x : SumpInst) (s : State) : (setInst src inst x s).tun = s.tun := rfl
@[simp] theorem setInst_dma (src inst : Nat) (x : SumpInst) (s : State) : (setInst src inst x s).dma = s.dma := rfl
@[simp] theorem setInst_dmaWait (src inst : Nat) (x : SumpInst) (s : State) : (setInst src inst x s).dmaWait = s.dmaWait := rfl
@[simp] theorem setInst_localMem (src inst : Nat) (x : SumpInst) (s : State) : (setInst src inst x s).localMem = s.localMem := rfl
@[simp] theorem setInst_tunMem (src inst : Nat) (x : SumpInst) (s : State) : (setInst src inst x s).tunMem = s.tunMem := rfl
@[simp] theorem setInst_links (src inst : Nat) (x : SumpInst) (s : State) : (setInst src inst x s).links = s.links := rfl
@[simp] theorem setInst_node (src inst : Nat) (x : SumpInst) (s : State) : (setInst src inst x s).node = s.node := rfl
@[simp] theorem setInst_surveys (src inst : Nat) (x : SumpInst) (s : State) : (setInst src inst x s).surveys = s.surveys := rfl
@[simp] theorem setInst_linkQueries (src inst : Nat) (x : SumpInst) (s : State) : (setInst src inst x s).linkQueries = s.linkQueries := rfl
@[simp] theorem setInst_router (src inst : Nat) (x : SumpInst) (s : State) : (setInst src inst x s).router = s.router := rfl
@[simp] theorem setInst_tiles (src inst : Nat) (x : SumpInst) (s : State) : (setInst src inst x s).tiles = s.tiles := rfl
@[simp] theorem setInst_limits (src inst : Nat) (x : SumpInst) (s : State) : (setInst src inst x s).limits = s.limits := rfl
@[simp] theorem setInst_mem (src inst : Nat) (x : SumpInst) (s : State) : (setInst src inst x s).mem = s.mem := rfl
@[simp] theorem setInst_fabric (src inst : Nat) (x : SumpInst) (s : State) : (setInst src inst x s).fabric = s.fabric := rfl
@[simp] theorem setInst_clock (src inst : Nat) (x : SumpInst) (s : State) : (setInst src inst x s).clock = s.clock := rfl
@[simp] theorem setInst_net (src inst : Nat) (x : SumpInst) (s : State) : (setInst src inst x s).net = s.net := rfl
@[simp] theorem setInst_ports (src inst : Nat) (x : SumpInst) (s : State) : (setInst src inst x s).ports = s.ports := rfl
@[simp] theorem setInst_ps (src inst : Nat) (x : SumpInst) (s : State) : (setInst src inst x s).ps = s.ps := rfl
@[simp] theorem setInst_mb (src inst : Nat) (x : SumpInst) (s : State) : (setInst src inst x s).mb = s.mb := rfl
@[simp] theorem setInst_scratch (src inst : Nat) (x : SumpInst) (s : State) : (setInst src inst x s).scratch = s.scratch := rfl

/-! ### report -/

@[simp] theorem report_pending (ty index : Nat) (data : List Byte) (s : State) : (report ty index data s).pending = s.pending := rfl
@[simp] theorem report_free (ty index : Nat) (data : List Byte) (s : State) : (report ty index data s).free = s.free := rfl
@[simp] theorem report_power (ty index : Nat) (data : List Byte) (s : State) : (report ty index data s).power = s.power := rfl
@[simp] theorem report_time (ty index : Nat) (data : List Byte) (s : State) : (report ty index data s).time = s.time := rfl
@[simp] theorem report_regs (ty index : Nat) (data : List Byte) (s : State) : (report ty index data s).regs = s.regs := rfl
@[simp] theorem report_timed (ty index : Nat) (data : List Byte) (s : State) : (report ty index data s).timed = s.timed := rfl
@[simp] theorem report_flash (ty index : Nat) (data : List Byte) (s : State) : (report ty index data s).flash = s.flash := rfl
@[simp] theorem report_sump (ty index : Nat) (data : List Byte) (s : State) : (report ty index data s).sump = s.sump := rfl
@[simp] theorem report_prot (ty index : Nat) (data : List Byte) (s : State) : (report ty index data s).prot = s.prot := rfl
@[simp] theorem report_wear (ty index : Nat) (data : List Byte) (s : State) : (report ty index data s).wear = s.wear := rfl
@[simp] theorem report_test (ty index : Nat) (data : List Byte) (s : State) : (report ty index data s).test = s.test := rfl
@[simp] theorem report_hif (ty index : Nat) (data : List Byte) (s : State) :
    (report ty index data s).hif = { s.hif with events := s.hif.events ++ [{ ty := BitVec.ofNat 16 ty, index := BitVec.ofNat 8 index, data := (data ++ List.replicate (24 - data.length) 0).take 24 }] } := rfl
@[simp] theorem report_pcie (ty index : Nat) (data : List Byte) (s : State) : (report ty index data s).pcie = s.pcie := rfl
@[simp] theorem report_tun (ty index : Nat) (data : List Byte) (s : State) : (report ty index data s).tun = s.tun := rfl
@[simp] theorem report_dma (ty index : Nat) (data : List Byte) (s : State) : (report ty index data s).dma = s.dma := rfl
@[simp] theorem report_dmaWait (ty index : Nat) (data : List Byte) (s : State) : (report ty index data s).dmaWait = s.dmaWait := rfl
@[simp] theorem report_localMem (ty index : Nat) (data : List Byte) (s : State) : (report ty index data s).localMem = s.localMem := rfl
@[simp] theorem report_tunMem (ty index : Nat) (data : List Byte) (s : State) : (report ty index data s).tunMem = s.tunMem := rfl
@[simp] theorem report_links (ty index : Nat) (data : List Byte) (s : State) : (report ty index data s).links = s.links := rfl
@[simp] theorem report_node (ty index : Nat) (data : List Byte) (s : State) : (report ty index data s).node = s.node := rfl
@[simp] theorem report_surveys (ty index : Nat) (data : List Byte) (s : State) : (report ty index data s).surveys = s.surveys := rfl
@[simp] theorem report_linkQueries (ty index : Nat) (data : List Byte) (s : State) : (report ty index data s).linkQueries = s.linkQueries := rfl
@[simp] theorem report_router (ty index : Nat) (data : List Byte) (s : State) : (report ty index data s).router = s.router := rfl
@[simp] theorem report_tiles (ty index : Nat) (data : List Byte) (s : State) : (report ty index data s).tiles = s.tiles := rfl
@[simp] theorem report_limits (ty index : Nat) (data : List Byte) (s : State) : (report ty index data s).limits = s.limits := rfl
@[simp] theorem report_mem (ty index : Nat) (data : List Byte) (s : State) : (report ty index data s).mem = s.mem := rfl
@[simp] theorem report_fabric (ty index : Nat) (data : List Byte) (s : State) : (report ty index data s).fabric = s.fabric := rfl
@[simp] theorem report_clock (ty index : Nat) (data : List Byte) (s : State) : (report ty index data s).clock = s.clock := rfl
@[simp] theorem report_net (ty index : Nat) (data : List Byte) (s : State) : (report ty index data s).net = s.net := rfl
@[simp] theorem report_ports (ty index : Nat) (data : List Byte) (s : State) : (report ty index data s).ports = s.ports := rfl
@[simp] theorem report_ps (ty index : Nat) (data : List Byte) (s : State) : (report ty index data s).ps = s.ps := rfl
@[simp] theorem report_mb (ty index : Nat) (data : List Byte) (s : State) : (report ty index data s).mb = s.mb := rfl
@[simp] theorem report_scratch (ty index : Nat) (data : List Byte) (s : State) : (report ty index data s).scratch = s.scratch := rfl

/-! ### reportNow -/

@[simp] theorem reportNow_pending (ty index : Nat) (data : List Byte) (s : State) : (reportNow ty index data s).pending = s.pending := rfl
@[simp] theorem reportNow_free (ty index : Nat) (data : List Byte) (s : State) : (reportNow ty index data s).free = s.free := rfl
@[simp] theorem reportNow_power (ty index : Nat) (data : List Byte) (s : State) : (reportNow ty index data s).power = s.power := rfl
@[simp] theorem reportNow_time (ty index : Nat) (data : List Byte) (s : State) : (reportNow ty index data s).time = s.time := rfl
@[simp] theorem reportNow_regs (ty index : Nat) (data : List Byte) (s : State) : (reportNow ty index data s).regs = s.regs := rfl
@[simp] theorem reportNow_timed (ty index : Nat) (data : List Byte) (s : State) : (reportNow ty index data s).timed = s.timed := rfl
@[simp] theorem reportNow_flash (ty index : Nat) (data : List Byte) (s : State) : (reportNow ty index data s).flash = s.flash := rfl
@[simp] theorem reportNow_sump (ty index : Nat) (data : List Byte) (s : State) : (reportNow ty index data s).sump = s.sump := rfl
@[simp] theorem reportNow_prot (ty index : Nat) (data : List Byte) (s : State) : (reportNow ty index data s).prot = s.prot := rfl
@[simp] theorem reportNow_wear (ty index : Nat) (data : List Byte) (s : State) : (reportNow ty index data s).wear = s.wear := rfl
@[simp] theorem reportNow_test (ty index : Nat) (data : List Byte) (s : State) : (reportNow ty index data s).test = s.test := rfl
@[simp] theorem reportNow_hif (ty index : Nat) (data : List Byte) (s : State) :
    (reportNow ty index data s).hif = { s.hif with eventsNow := s.hif.eventsNow ++ [{ ty := BitVec.ofNat 16 ty, index := BitVec.ofNat 8 index, data := (data ++ List.replicate (24 - data.length) 0).take 24 }] } := rfl
@[simp] theorem reportNow_pcie (ty index : Nat) (data : List Byte) (s : State) : (reportNow ty index data s).pcie = s.pcie := rfl
@[simp] theorem reportNow_tun (ty index : Nat) (data : List Byte) (s : State) : (reportNow ty index data s).tun = s.tun := rfl
@[simp] theorem reportNow_dma (ty index : Nat) (data : List Byte) (s : State) : (reportNow ty index data s).dma = s.dma := rfl
@[simp] theorem reportNow_dmaWait (ty index : Nat) (data : List Byte) (s : State) : (reportNow ty index data s).dmaWait = s.dmaWait := rfl
@[simp] theorem reportNow_localMem (ty index : Nat) (data : List Byte) (s : State) : (reportNow ty index data s).localMem = s.localMem := rfl
@[simp] theorem reportNow_tunMem (ty index : Nat) (data : List Byte) (s : State) : (reportNow ty index data s).tunMem = s.tunMem := rfl
@[simp] theorem reportNow_links (ty index : Nat) (data : List Byte) (s : State) : (reportNow ty index data s).links = s.links := rfl
@[simp] theorem reportNow_node (ty index : Nat) (data : List Byte) (s : State) : (reportNow ty index data s).node = s.node := rfl
@[simp] theorem reportNow_surveys (ty index : Nat) (data : List Byte) (s : State) : (reportNow ty index data s).surveys = s.surveys := rfl
@[simp] theorem reportNow_linkQueries (ty index : Nat) (data : List Byte) (s : State) : (reportNow ty index data s).linkQueries = s.linkQueries := rfl
@[simp] theorem reportNow_router (ty index : Nat) (data : List Byte) (s : State) : (reportNow ty index data s).router = s.router := rfl
@[simp] theorem reportNow_tiles (ty index : Nat) (data : List Byte) (s : State) : (reportNow ty index data s).tiles = s.tiles := rfl
@[simp] theorem reportNow_limits (ty index : Nat) (data : List Byte) (s : State) : (reportNow ty index data s).limits = s.limits := rfl
@[simp] theorem reportNow_mem (ty index : Nat) (data : List Byte) (s : State) : (reportNow ty index data s).mem = s.mem := rfl
@[simp] theorem reportNow_fabric (ty index : Nat) (data : List Byte) (s : State) : (reportNow ty index data s).fabric = s.fabric := rfl
@[simp] theorem reportNow_clock (ty index : Nat) (data : List Byte) (s : State) : (reportNow ty index data s).clock = s.clock := rfl
@[simp] theorem reportNow_net (ty index : Nat) (data : List Byte) (s : State) : (reportNow ty index data s).net = s.net := rfl
@[simp] theorem reportNow_ports (ty index : Nat) (data : List Byte) (s : State) : (reportNow ty index data s).ports = s.ports := rfl
@[simp] theorem reportNow_ps (ty index : Nat) (data : List Byte) (s : State) : (reportNow ty index data s).ps = s.ps := rfl
@[simp] theorem reportNow_mb (ty index : Nat) (data : List Byte) (s : State) : (reportNow ty index data s).mb = s.mb := rfl
@[simp] theorem reportNow_scratch (ty index : Nat) (data : List Byte) (s : State) : (reportNow ty index data s).scratch = s.scratch := rfl

/-! ### linkMod -/

@[simp] theorem linkMod_pending (n : Fin 16) (f : Link → Link) (s : State) : (linkMod n f s).pending = s.pending := rfl
@[simp] theorem linkMod_free (n : Fin 16) (f : Link → Link) (s : State) : (linkMod n f s).free = s.free := rfl
@[simp] theorem linkMod_power (n : Fin 16) (f : Link → Link) (s : State) : (linkMod n f s).power = s.power := rfl
@[simp] theorem linkMod_time (n : Fin 16) (f : Link → Link) (s : State) : (linkMod n f s).time = s.time := rfl
@[simp] theorem linkMod_regs (n : Fin 16) (f : Link → Link) (s : State) : (linkMod n f s).regs = s.regs := rfl
@[simp] theorem linkMod_timed (n : Fin 16) (f : Link → Link) (s : State) : (linkMod n f s).timed = s.timed := rfl
@[simp] theorem linkMod_flash (n : Fin 16) (f : Link → Link) (s : State) : (linkMod n f s).flash = s.flash := rfl
@[simp] theorem linkMod_sump (n : Fin 16) (f : Link → Link) (s : State) : (linkMod n f s).sump = s.sump := rfl
@[simp] theorem linkMod_prot (n : Fin 16) (f : Link → Link) (s : State) : (linkMod n f s).prot = s.prot := rfl
@[simp] theorem linkMod_wear (n : Fin 16) (f : Link → Link) (s : State) : (linkMod n f s).wear = s.wear := rfl
@[simp] theorem linkMod_test (n : Fin 16) (f : Link → Link) (s : State) : (linkMod n f s).test = s.test := rfl
@[simp] theorem linkMod_hif (n : Fin 16) (f : Link → Link) (s : State) : (linkMod n f s).hif = s.hif := rfl
@[simp] theorem linkMod_pcie (n : Fin 16) (f : Link → Link) (s : State) : (linkMod n f s).pcie = s.pcie := rfl
@[simp] theorem linkMod_tun (n : Fin 16) (f : Link → Link) (s : State) : (linkMod n f s).tun = s.tun := rfl
@[simp] theorem linkMod_dma (n : Fin 16) (f : Link → Link) (s : State) : (linkMod n f s).dma = s.dma := rfl
@[simp] theorem linkMod_dmaWait (n : Fin 16) (f : Link → Link) (s : State) : (linkMod n f s).dmaWait = s.dmaWait := rfl
@[simp] theorem linkMod_localMem (n : Fin 16) (f : Link → Link) (s : State) : (linkMod n f s).localMem = s.localMem := rfl
@[simp] theorem linkMod_tunMem (n : Fin 16) (f : Link → Link) (s : State) : (linkMod n f s).tunMem = s.tunMem := rfl
@[simp] theorem linkMod_links (n : Fin 16) (f : Link → Link) (s : State) :
    (linkMod n f s).links = vmod s.links n f := rfl
@[simp] theorem linkMod_node (n : Fin 16) (f : Link → Link) (s : State) : (linkMod n f s).node = s.node := rfl
@[simp] theorem linkMod_surveys (n : Fin 16) (f : Link → Link) (s : State) : (linkMod n f s).surveys = s.surveys := rfl
@[simp] theorem linkMod_linkQueries (n : Fin 16) (f : Link → Link) (s : State) : (linkMod n f s).linkQueries = s.linkQueries := rfl
@[simp] theorem linkMod_router (n : Fin 16) (f : Link → Link) (s : State) : (linkMod n f s).router = s.router := rfl
@[simp] theorem linkMod_tiles (n : Fin 16) (f : Link → Link) (s : State) : (linkMod n f s).tiles = s.tiles := rfl
@[simp] theorem linkMod_limits (n : Fin 16) (f : Link → Link) (s : State) : (linkMod n f s).limits = s.limits := rfl
@[simp] theorem linkMod_mem (n : Fin 16) (f : Link → Link) (s : State) : (linkMod n f s).mem = s.mem := rfl
@[simp] theorem linkMod_fabric (n : Fin 16) (f : Link → Link) (s : State) : (linkMod n f s).fabric = s.fabric := rfl
@[simp] theorem linkMod_clock (n : Fin 16) (f : Link → Link) (s : State) : (linkMod n f s).clock = s.clock := rfl
@[simp] theorem linkMod_net (n : Fin 16) (f : Link → Link) (s : State) : (linkMod n f s).net = s.net := rfl
@[simp] theorem linkMod_ports (n : Fin 16) (f : Link → Link) (s : State) : (linkMod n f s).ports = s.ports := rfl
@[simp] theorem linkMod_ps (n : Fin 16) (f : Link → Link) (s : State) : (linkMod n f s).ps = s.ps := rfl
@[simp] theorem linkMod_mb (n : Fin 16) (f : Link → Link) (s : State) : (linkMod n f s).mb = s.mb := rfl
@[simp] theorem linkMod_scratch (n : Fin 16) (f : Link → Link) (s : State) : (linkMod n f s).scratch = s.scratch := rfl

/-! ### ringDone -/

@[simp] theorem ringDone_pending (r : Fin 8) (s : State) : (ringDone r s).pending = s.pending := rfl
@[simp] theorem ringDone_free (r : Fin 8) (s : State) : (ringDone r s).free = s.free := rfl
@[simp] theorem ringDone_power (r : Fin 8) (s : State) : (ringDone r s).power = s.power := rfl
@[simp] theorem ringDone_time (r : Fin 8) (s : State) : (ringDone r s).time = s.time := rfl
@[simp] theorem ringDone_regs (r : Fin 8) (s : State) : (ringDone r s).regs = s.regs := rfl
@[simp] theorem ringDone_timed (r : Fin 8) (s : State) : (ringDone r s).timed = s.timed := rfl
@[simp] theorem ringDone_flash (r : Fin 8) (s : State) : (ringDone r s).flash = s.flash := rfl
@[simp] theorem ringDone_sump (r : Fin 8) (s : State) : (ringDone r s).sump = s.sump := rfl
@[simp] theorem ringDone_prot (r : Fin 8) (s : State) : (ringDone r s).prot = s.prot := rfl
@[simp] theorem ringDone_wear (r : Fin 8) (s : State) : (ringDone r s).wear = s.wear := rfl
@[simp] theorem ringDone_test (r : Fin 8) (s : State) : (ringDone r s).test = s.test := rfl
@[simp] theorem ringDone_hif (r : Fin 8) (s : State) :
    (ringDone r s).hif = { s.hif with rings := vmod s.hif.rings r fun x => { x with outstanding := x.outstanding - 1 } } := rfl
@[simp] theorem ringDone_pcie (r : Fin 8) (s : State) : (ringDone r s).pcie = s.pcie := rfl
@[simp] theorem ringDone_tun (r : Fin 8) (s : State) : (ringDone r s).tun = s.tun := rfl
@[simp] theorem ringDone_dma (r : Fin 8) (s : State) : (ringDone r s).dma = s.dma := rfl
@[simp] theorem ringDone_dmaWait (r : Fin 8) (s : State) : (ringDone r s).dmaWait = s.dmaWait := rfl
@[simp] theorem ringDone_localMem (r : Fin 8) (s : State) : (ringDone r s).localMem = s.localMem := rfl
@[simp] theorem ringDone_tunMem (r : Fin 8) (s : State) : (ringDone r s).tunMem = s.tunMem := rfl
@[simp] theorem ringDone_links (r : Fin 8) (s : State) : (ringDone r s).links = s.links := rfl
@[simp] theorem ringDone_node (r : Fin 8) (s : State) : (ringDone r s).node = s.node := rfl
@[simp] theorem ringDone_surveys (r : Fin 8) (s : State) : (ringDone r s).surveys = s.surveys := rfl
@[simp] theorem ringDone_linkQueries (r : Fin 8) (s : State) : (ringDone r s).linkQueries = s.linkQueries := rfl
@[simp] theorem ringDone_router (r : Fin 8) (s : State) : (ringDone r s).router = s.router := rfl
@[simp] theorem ringDone_tiles (r : Fin 8) (s : State) : (ringDone r s).tiles = s.tiles := rfl
@[simp] theorem ringDone_limits (r : Fin 8) (s : State) : (ringDone r s).limits = s.limits := rfl
@[simp] theorem ringDone_mem (r : Fin 8) (s : State) : (ringDone r s).mem = s.mem := rfl
@[simp] theorem ringDone_fabric (r : Fin 8) (s : State) : (ringDone r s).fabric = s.fabric := rfl
@[simp] theorem ringDone_clock (r : Fin 8) (s : State) : (ringDone r s).clock = s.clock := rfl
@[simp] theorem ringDone_net (r : Fin 8) (s : State) : (ringDone r s).net = s.net := rfl
@[simp] theorem ringDone_ports (r : Fin 8) (s : State) : (ringDone r s).ports = s.ports := rfl
@[simp] theorem ringDone_ps (r : Fin 8) (s : State) : (ringDone r s).ps = s.ps := rfl
@[simp] theorem ringDone_mb (r : Fin 8) (s : State) : (ringDone r s).mb = s.mb := rfl
@[simp] theorem ringDone_scratch (r : Fin 8) (s : State) : (ringDone r s).scratch = s.scratch := rfl

/-! ### unreserve -/

@[simp] theorem unreserve_pending (cq : Fin 4) (old : Bool) (s : State) : (unreserve cq old s).pending = s.pending := rfl
@[simp] theorem unreserve_free (cq : Fin 4) (old : Bool) (s : State) : (unreserve cq old s).free = s.free := rfl
@[simp] theorem unreserve_power (cq : Fin 4) (old : Bool) (s : State) : (unreserve cq old s).power = s.power := rfl
@[simp] theorem unreserve_time (cq : Fin 4) (old : Bool) (s : State) : (unreserve cq old s).time = s.time := rfl
@[simp] theorem unreserve_regs (cq : Fin 4) (old : Bool) (s : State) : (unreserve cq old s).regs = s.regs := rfl
@[simp] theorem unreserve_timed (cq : Fin 4) (old : Bool) (s : State) : (unreserve cq old s).timed = s.timed := rfl
@[simp] theorem unreserve_flash (cq : Fin 4) (old : Bool) (s : State) : (unreserve cq old s).flash = s.flash := rfl
@[simp] theorem unreserve_sump (cq : Fin 4) (old : Bool) (s : State) : (unreserve cq old s).sump = s.sump := rfl
@[simp] theorem unreserve_prot (cq : Fin 4) (old : Bool) (s : State) : (unreserve cq old s).prot = s.prot := rfl
@[simp] theorem unreserve_wear (cq : Fin 4) (old : Bool) (s : State) : (unreserve cq old s).wear = s.wear := rfl
@[simp] theorem unreserve_test (cq : Fin 4) (old : Bool) (s : State) : (unreserve cq old s).test = s.test := rfl
@[simp] theorem unreserve_hif (cq : Fin 4) (old : Bool) (s : State) :
    (unreserve cq old s).hif = { s.hif with cqs := vmod s.hif.cqs cq fun q => if !old then { q with reserved := q.reserved - 1 } else if 0 < q.old then { q with old := q.old - 1, reserved := q.reserved - 1 } else { q with oldDue := q.oldDue - 1 } } := rfl
@[simp] theorem unreserve_pcie (cq : Fin 4) (old : Bool) (s : State) : (unreserve cq old s).pcie = s.pcie := rfl
@[simp] theorem unreserve_tun (cq : Fin 4) (old : Bool) (s : State) : (unreserve cq old s).tun = s.tun := rfl
@[simp] theorem unreserve_dma (cq : Fin 4) (old : Bool) (s : State) : (unreserve cq old s).dma = s.dma := rfl
@[simp] theorem unreserve_dmaWait (cq : Fin 4) (old : Bool) (s : State) : (unreserve cq old s).dmaWait = s.dmaWait := rfl
@[simp] theorem unreserve_localMem (cq : Fin 4) (old : Bool) (s : State) : (unreserve cq old s).localMem = s.localMem := rfl
@[simp] theorem unreserve_tunMem (cq : Fin 4) (old : Bool) (s : State) : (unreserve cq old s).tunMem = s.tunMem := rfl
@[simp] theorem unreserve_links (cq : Fin 4) (old : Bool) (s : State) : (unreserve cq old s).links = s.links := rfl
@[simp] theorem unreserve_node (cq : Fin 4) (old : Bool) (s : State) : (unreserve cq old s).node = s.node := rfl
@[simp] theorem unreserve_surveys (cq : Fin 4) (old : Bool) (s : State) : (unreserve cq old s).surveys = s.surveys := rfl
@[simp] theorem unreserve_linkQueries (cq : Fin 4) (old : Bool) (s : State) : (unreserve cq old s).linkQueries = s.linkQueries := rfl
@[simp] theorem unreserve_router (cq : Fin 4) (old : Bool) (s : State) : (unreserve cq old s).router = s.router := rfl
@[simp] theorem unreserve_tiles (cq : Fin 4) (old : Bool) (s : State) : (unreserve cq old s).tiles = s.tiles := rfl
@[simp] theorem unreserve_limits (cq : Fin 4) (old : Bool) (s : State) : (unreserve cq old s).limits = s.limits := rfl
@[simp] theorem unreserve_mem (cq : Fin 4) (old : Bool) (s : State) : (unreserve cq old s).mem = s.mem := rfl
@[simp] theorem unreserve_fabric (cq : Fin 4) (old : Bool) (s : State) : (unreserve cq old s).fabric = s.fabric := rfl
@[simp] theorem unreserve_clock (cq : Fin 4) (old : Bool) (s : State) : (unreserve cq old s).clock = s.clock := rfl
@[simp] theorem unreserve_net (cq : Fin 4) (old : Bool) (s : State) : (unreserve cq old s).net = s.net := rfl
@[simp] theorem unreserve_ports (cq : Fin 4) (old : Bool) (s : State) : (unreserve cq old s).ports = s.ports := rfl
@[simp] theorem unreserve_ps (cq : Fin 4) (old : Bool) (s : State) : (unreserve cq old s).ps = s.ps := rfl
@[simp] theorem unreserve_mb (cq : Fin 4) (old : Bool) (s : State) : (unreserve cq old s).mb = s.mb := rfl
@[simp] theorem unreserve_scratch (cq : Fin 4) (old : Bool) (s : State) : (unreserve cq old s).scratch = s.scratch := rfl

/-! ### hold -/

@[simp] theorem hold_pending (tick : Nat) (t : Ticket) (late : Bool) (act : Action) (s : State) : (hold tick t late act s).pending = s.pending := rfl
@[simp] theorem hold_free (tick : Nat) (t : Ticket) (late : Bool) (act : Action) (s : State) : (hold tick t late act s).free = s.free := rfl
@[simp] theorem hold_power (tick : Nat) (t : Ticket) (late : Bool) (act : Action) (s : State) : (hold tick t late act s).power = s.power := rfl
@[simp] theorem hold_time (tick : Nat) (t : Ticket) (late : Bool) (act : Action) (s : State) : (hold tick t late act s).time = s.time := rfl
@[simp] theorem hold_regs (tick : Nat) (t : Ticket) (late : Bool) (act : Action) (s : State) : (hold tick t late act s).regs = s.regs := rfl
@[simp] theorem hold_timed (tick : Nat) (t : Ticket) (late : Bool) (act : Action) (s : State) :
    (hold tick t late act s).timed = s.timed ++ [{ tick := tick, ticket := { t with late := late }, act := act }] := rfl
@[simp] theorem hold_flash (tick : Nat) (t : Ticket) (late : Bool) (act : Action) (s : State) : (hold tick t late act s).flash = s.flash := rfl
@[simp] theorem hold_sump (tick : Nat) (t : Ticket) (late : Bool) (act : Action) (s : State) : (hold tick t late act s).sump = s.sump := rfl
@[simp] theorem hold_prot (tick : Nat) (t : Ticket) (late : Bool) (act : Action) (s : State) : (hold tick t late act s).prot = s.prot := rfl
@[simp] theorem hold_wear (tick : Nat) (t : Ticket) (late : Bool) (act : Action) (s : State) : (hold tick t late act s).wear = s.wear := rfl
@[simp] theorem hold_test (tick : Nat) (t : Ticket) (late : Bool) (act : Action) (s : State) : (hold tick t late act s).test = s.test := rfl
@[simp] theorem hold_hif (tick : Nat) (t : Ticket) (late : Bool) (act : Action) (s : State) : (hold tick t late act s).hif = s.hif := rfl
@[simp] theorem hold_pcie (tick : Nat) (t : Ticket) (late : Bool) (act : Action) (s : State) : (hold tick t late act s).pcie = s.pcie := rfl
@[simp] theorem hold_tun (tick : Nat) (t : Ticket) (late : Bool) (act : Action) (s : State) : (hold tick t late act s).tun = s.tun := rfl
@[simp] theorem hold_dma (tick : Nat) (t : Ticket) (late : Bool) (act : Action) (s : State) : (hold tick t late act s).dma = s.dma := rfl
@[simp] theorem hold_dmaWait (tick : Nat) (t : Ticket) (late : Bool) (act : Action) (s : State) : (hold tick t late act s).dmaWait = s.dmaWait := rfl
@[simp] theorem hold_localMem (tick : Nat) (t : Ticket) (late : Bool) (act : Action) (s : State) : (hold tick t late act s).localMem = s.localMem := rfl
@[simp] theorem hold_tunMem (tick : Nat) (t : Ticket) (late : Bool) (act : Action) (s : State) : (hold tick t late act s).tunMem = s.tunMem := rfl
@[simp] theorem hold_links (tick : Nat) (t : Ticket) (late : Bool) (act : Action) (s : State) : (hold tick t late act s).links = s.links := rfl
@[simp] theorem hold_node (tick : Nat) (t : Ticket) (late : Bool) (act : Action) (s : State) : (hold tick t late act s).node = s.node := rfl
@[simp] theorem hold_surveys (tick : Nat) (t : Ticket) (late : Bool) (act : Action) (s : State) : (hold tick t late act s).surveys = s.surveys := rfl
@[simp] theorem hold_linkQueries (tick : Nat) (t : Ticket) (late : Bool) (act : Action) (s : State) : (hold tick t late act s).linkQueries = s.linkQueries := rfl
@[simp] theorem hold_router (tick : Nat) (t : Ticket) (late : Bool) (act : Action) (s : State) : (hold tick t late act s).router = s.router := rfl
@[simp] theorem hold_tiles (tick : Nat) (t : Ticket) (late : Bool) (act : Action) (s : State) : (hold tick t late act s).tiles = s.tiles := rfl
@[simp] theorem hold_limits (tick : Nat) (t : Ticket) (late : Bool) (act : Action) (s : State) : (hold tick t late act s).limits = s.limits := rfl
@[simp] theorem hold_mem (tick : Nat) (t : Ticket) (late : Bool) (act : Action) (s : State) : (hold tick t late act s).mem = s.mem := rfl
@[simp] theorem hold_fabric (tick : Nat) (t : Ticket) (late : Bool) (act : Action) (s : State) : (hold tick t late act s).fabric = s.fabric := rfl
@[simp] theorem hold_clock (tick : Nat) (t : Ticket) (late : Bool) (act : Action) (s : State) : (hold tick t late act s).clock = s.clock := rfl
@[simp] theorem hold_net (tick : Nat) (t : Ticket) (late : Bool) (act : Action) (s : State) : (hold tick t late act s).net = s.net := rfl
@[simp] theorem hold_ports (tick : Nat) (t : Ticket) (late : Bool) (act : Action) (s : State) : (hold tick t late act s).ports = s.ports := rfl
@[simp] theorem hold_ps (tick : Nat) (t : Ticket) (late : Bool) (act : Action) (s : State) : (hold tick t late act s).ps = s.ps := rfl
@[simp] theorem hold_mb (tick : Nat) (t : Ticket) (late : Bool) (act : Action) (s : State) : (hold tick t late act s).mb = s.mb := rfl
@[simp] theorem hold_scratch (tick : Nat) (t : Ticket) (late : Bool) (act : Action) (s : State) : (hold tick t late act s).scratch = s.scratch := rfl

/-! ### setTaps -/

@[simp] theorem setTaps_pending (dest : Nat) (taps : List Tap) (s : State) : (setTaps dest taps s).pending = s.pending := rfl
@[simp] theorem setTaps_free (dest : Nat) (taps : List Tap) (s : State) : (setTaps dest taps s).free = s.free := rfl
@[simp] theorem setTaps_power (dest : Nat) (taps : List Tap) (s : State) : (setTaps dest taps s).power = s.power := rfl
@[simp] theorem setTaps_time (dest : Nat) (taps : List Tap) (s : State) : (setTaps dest taps s).time = s.time := rfl
@[simp] theorem setTaps_regs (dest : Nat) (taps : List Tap) (s : State) : (setTaps dest taps s).regs = s.regs := rfl
@[simp] theorem setTaps_timed (dest : Nat) (taps : List Tap) (s : State) : (setTaps dest taps s).timed = s.timed := rfl
@[simp] theorem setTaps_flash (dest : Nat) (taps : List Tap) (s : State) : (setTaps dest taps s).flash = s.flash := rfl
@[simp] theorem setTaps_sump (dest : Nat) (taps : List Tap) (s : State) : (setTaps dest taps s).sump = s.sump := rfl
@[simp] theorem setTaps_prot (dest : Nat) (taps : List Tap) (s : State) : (setTaps dest taps s).prot = s.prot := rfl
@[simp] theorem setTaps_wear (dest : Nat) (taps : List Tap) (s : State) : (setTaps dest taps s).wear = s.wear := rfl
@[simp] theorem setTaps_test (dest : Nat) (taps : List Tap) (s : State) : (setTaps dest taps s).test = s.test := rfl
@[simp] theorem setTaps_hif (dest : Nat) (taps : List Tap) (s : State) : (setTaps dest taps s).hif = s.hif := rfl
@[simp] theorem setTaps_pcie (dest : Nat) (taps : List Tap) (s : State) : (setTaps dest taps s).pcie = s.pcie := rfl
@[simp] theorem setTaps_tun (dest : Nat) (taps : List Tap) (s : State) : (setTaps dest taps s).tun = s.tun := rfl
@[simp] theorem setTaps_dma (dest : Nat) (taps : List Tap) (s : State) : (setTaps dest taps s).dma = s.dma := rfl
@[simp] theorem setTaps_dmaWait (dest : Nat) (taps : List Tap) (s : State) : (setTaps dest taps s).dmaWait = s.dmaWait := rfl
@[simp] theorem setTaps_localMem (dest : Nat) (taps : List Tap) (s : State) : (setTaps dest taps s).localMem = s.localMem := rfl
@[simp] theorem setTaps_tunMem (dest : Nat) (taps : List Tap) (s : State) : (setTaps dest taps s).tunMem = s.tunMem := rfl
@[simp] theorem setTaps_links (dest : Nat) (taps : List Tap) (s : State) : (setTaps dest taps s).links = s.links := rfl
@[simp] theorem setTaps_node (dest : Nat) (taps : List Tap) (s : State) : (setTaps dest taps s).node = s.node := rfl
@[simp] theorem setTaps_surveys (dest : Nat) (taps : List Tap) (s : State) : (setTaps dest taps s).surveys = s.surveys := rfl
@[simp] theorem setTaps_linkQueries (dest : Nat) (taps : List Tap) (s : State) : (setTaps dest taps s).linkQueries = s.linkQueries := rfl
@[simp] theorem setTaps_router (dest : Nat) (taps : List Tap) (s : State) :
    (setTaps dest taps s).router = { s.router with routes := mapPut s.router.routes dest taps } := rfl
@[simp] theorem setTaps_tiles (dest : Nat) (taps : List Tap) (s : State) : (setTaps dest taps s).tiles = s.tiles := rfl
@[simp] theorem setTaps_limits (dest : Nat) (taps : List Tap) (s : State) : (setTaps dest taps s).limits = s.limits := rfl
@[simp] theorem setTaps_mem (dest : Nat) (taps : List Tap) (s : State) : (setTaps dest taps s).mem = s.mem := rfl
@[simp] theorem setTaps_fabric (dest : Nat) (taps : List Tap) (s : State) : (setTaps dest taps s).fabric = s.fabric := rfl
@[simp] theorem setTaps_clock (dest : Nat) (taps : List Tap) (s : State) : (setTaps dest taps s).clock = s.clock := rfl
@[simp] theorem setTaps_net (dest : Nat) (taps : List Tap) (s : State) : (setTaps dest taps s).net = s.net := rfl
@[simp] theorem setTaps_ports (dest : Nat) (taps : List Tap) (s : State) : (setTaps dest taps s).ports = s.ports := rfl
@[simp] theorem setTaps_ps (dest : Nat) (taps : List Tap) (s : State) : (setTaps dest taps s).ps = s.ps := rfl
@[simp] theorem setTaps_mb (dest : Nat) (taps : List Tap) (s : State) : (setTaps dest taps s).mb = s.mb := rfl
@[simp] theorem setTaps_scratch (dest : Nat) (taps : List Tap) (s : State) : (setTaps dest taps s).scratch = s.scratch := rfl

/-! ### tileMod -/

@[simp] theorem tileMod_pending (n : Fin 16) (f : Tile → Tile) (s : State) : (tileMod n f s).pending = s.pending := rfl
@[simp] theorem tileMod_free (n : Fin 16) (f : Tile → Tile) (s : State) : (tileMod n f s).free = s.free := rfl
@[simp] theorem tileMod_power (n : Fin 16) (f : Tile → Tile) (s : State) : (tileMod n f s).power = s.power := rfl
@[simp] theorem tileMod_time (n : Fin 16) (f : Tile → Tile) (s : State) : (tileMod n f s).time = s.time := rfl
@[simp] theorem tileMod_regs (n : Fin 16) (f : Tile → Tile) (s : State) : (tileMod n f s).regs = s.regs := rfl
@[simp] theorem tileMod_timed (n : Fin 16) (f : Tile → Tile) (s : State) : (tileMod n f s).timed = s.timed := rfl
@[simp] theorem tileMod_flash (n : Fin 16) (f : Tile → Tile) (s : State) : (tileMod n f s).flash = s.flash := rfl
@[simp] theorem tileMod_sump (n : Fin 16) (f : Tile → Tile) (s : State) : (tileMod n f s).sump = s.sump := rfl
@[simp] theorem tileMod_prot (n : Fin 16) (f : Tile → Tile) (s : State) : (tileMod n f s).prot = s.prot := rfl
@[simp] theorem tileMod_wear (n : Fin 16) (f : Tile → Tile) (s : State) : (tileMod n f s).wear = s.wear := rfl
@[simp] theorem tileMod_test (n : Fin 16) (f : Tile → Tile) (s : State) : (tileMod n f s).test = s.test := rfl
@[simp] theorem tileMod_hif (n : Fin 16) (f : Tile → Tile) (s : State) : (tileMod n f s).hif = s.hif := rfl
@[simp] theorem tileMod_pcie (n : Fin 16) (f : Tile → Tile) (s : State) : (tileMod n f s).pcie = s.pcie := rfl
@[simp] theorem tileMod_tun (n : Fin 16) (f : Tile → Tile) (s : State) : (tileMod n f s).tun = s.tun := rfl
@[simp] theorem tileMod_dma (n : Fin 16) (f : Tile → Tile) (s : State) : (tileMod n f s).dma = s.dma := rfl
@[simp] theorem tileMod_dmaWait (n : Fin 16) (f : Tile → Tile) (s : State) : (tileMod n f s).dmaWait = s.dmaWait := rfl
@[simp] theorem tileMod_localMem (n : Fin 16) (f : Tile → Tile) (s : State) : (tileMod n f s).localMem = s.localMem := rfl
@[simp] theorem tileMod_tunMem (n : Fin 16) (f : Tile → Tile) (s : State) : (tileMod n f s).tunMem = s.tunMem := rfl
@[simp] theorem tileMod_links (n : Fin 16) (f : Tile → Tile) (s : State) : (tileMod n f s).links = s.links := rfl
@[simp] theorem tileMod_node (n : Fin 16) (f : Tile → Tile) (s : State) : (tileMod n f s).node = s.node := rfl
@[simp] theorem tileMod_surveys (n : Fin 16) (f : Tile → Tile) (s : State) : (tileMod n f s).surveys = s.surveys := rfl
@[simp] theorem tileMod_linkQueries (n : Fin 16) (f : Tile → Tile) (s : State) : (tileMod n f s).linkQueries = s.linkQueries := rfl
@[simp] theorem tileMod_router (n : Fin 16) (f : Tile → Tile) (s : State) : (tileMod n f s).router = s.router := rfl
@[simp] theorem tileMod_tiles (n : Fin 16) (f : Tile → Tile) (s : State) :
    (tileMod n f s).tiles = vmod s.tiles n f := rfl
@[simp] theorem tileMod_limits (n : Fin 16) (f : Tile → Tile) (s : State) : (tileMod n f s).limits = s.limits := rfl
@[simp] theorem tileMod_mem (n : Fin 16) (f : Tile → Tile) (s : State) : (tileMod n f s).mem = s.mem := rfl
@[simp] theorem tileMod_fabric (n : Fin 16) (f : Tile → Tile) (s : State) : (tileMod n f s).fabric = s.fabric := rfl
@[simp] theorem tileMod_clock (n : Fin 16) (f : Tile → Tile) (s : State) : (tileMod n f s).clock = s.clock := rfl
@[simp] theorem tileMod_net (n : Fin 16) (f : Tile → Tile) (s : State) : (tileMod n f s).net = s.net := rfl
@[simp] theorem tileMod_ports (n : Fin 16) (f : Tile → Tile) (s : State) : (tileMod n f s).ports = s.ports := rfl
@[simp] theorem tileMod_ps (n : Fin 16) (f : Tile → Tile) (s : State) : (tileMod n f s).ps = s.ps := rfl
@[simp] theorem tileMod_mb (n : Fin 16) (f : Tile → Tile) (s : State) : (tileMod n f s).mb = s.mb := rfl
@[simp] theorem tileMod_scratch (n : Fin 16) (f : Tile → Tile) (s : State) : (tileMod n f s).scratch = s.scratch := rfl

/-! ### setBench -/

@[simp] theorem setBench_pending (b : Nat) (x : Bench) (s : State) : (setBench b x s).pending = s.pending := rfl
@[simp] theorem setBench_free (b : Nat) (x : Bench) (s : State) : (setBench b x s).free = s.free := rfl
@[simp] theorem setBench_power (b : Nat) (x : Bench) (s : State) : (setBench b x s).power = s.power := rfl
@[simp] theorem setBench_time (b : Nat) (x : Bench) (s : State) : (setBench b x s).time = s.time := rfl
@[simp] theorem setBench_regs (b : Nat) (x : Bench) (s : State) : (setBench b x s).regs = s.regs := rfl
@[simp] theorem setBench_timed (b : Nat) (x : Bench) (s : State) : (setBench b x s).timed = s.timed := rfl
@[simp] theorem setBench_flash (b : Nat) (x : Bench) (s : State) : (setBench b x s).flash = s.flash := rfl
@[simp] theorem setBench_sump (b : Nat) (x : Bench) (s : State) : (setBench b x s).sump = s.sump := rfl
@[simp] theorem setBench_prot (b : Nat) (x : Bench) (s : State) : (setBench b x s).prot = s.prot := rfl
@[simp] theorem setBench_wear (b : Nat) (x : Bench) (s : State) : (setBench b x s).wear = s.wear := rfl
@[simp] theorem setBench_test (b : Nat) (x : Bench) (s : State) : (setBench b x s).test = s.test := rfl
@[simp] theorem setBench_hif (b : Nat) (x : Bench) (s : State) : (setBench b x s).hif = s.hif := rfl
@[simp] theorem setBench_pcie (b : Nat) (x : Bench) (s : State) : (setBench b x s).pcie = s.pcie := rfl
@[simp] theorem setBench_tun (b : Nat) (x : Bench) (s : State) : (setBench b x s).tun = s.tun := rfl
@[simp] theorem setBench_dma (b : Nat) (x : Bench) (s : State) : (setBench b x s).dma = s.dma := rfl
@[simp] theorem setBench_dmaWait (b : Nat) (x : Bench) (s : State) : (setBench b x s).dmaWait = s.dmaWait := rfl
@[simp] theorem setBench_localMem (b : Nat) (x : Bench) (s : State) : (setBench b x s).localMem = s.localMem := rfl
@[simp] theorem setBench_tunMem (b : Nat) (x : Bench) (s : State) : (setBench b x s).tunMem = s.tunMem := rfl
@[simp] theorem setBench_links (b : Nat) (x : Bench) (s : State) : (setBench b x s).links = s.links := rfl
@[simp] theorem setBench_node (b : Nat) (x : Bench) (s : State) : (setBench b x s).node = s.node := rfl
@[simp] theorem setBench_surveys (b : Nat) (x : Bench) (s : State) : (setBench b x s).surveys = s.surveys := rfl
@[simp] theorem setBench_linkQueries (b : Nat) (x : Bench) (s : State) : (setBench b x s).linkQueries = s.linkQueries := rfl
@[simp] theorem setBench_router (b : Nat) (x : Bench) (s : State) : (setBench b x s).router = s.router := rfl
@[simp] theorem setBench_tiles (b : Nat) (x : Bench) (s : State) : (setBench b x s).tiles = s.tiles := rfl
@[simp] theorem setBench_limits (b : Nat) (x : Bench) (s : State) : (setBench b x s).limits = s.limits := rfl
@[simp] theorem setBench_mem (b : Nat) (x : Bench) (s : State) :
    (setBench b x s).mem = { s.mem with benches := mapPut s.mem.benches b x } := rfl
@[simp] theorem setBench_fabric (b : Nat) (x : Bench) (s : State) : (setBench b x s).fabric = s.fabric := rfl
@[simp] theorem setBench_clock (b : Nat) (x : Bench) (s : State) : (setBench b x s).clock = s.clock := rfl
@[simp] theorem setBench_net (b : Nat) (x : Bench) (s : State) : (setBench b x s).net = s.net := rfl
@[simp] theorem setBench_ports (b : Nat) (x : Bench) (s : State) : (setBench b x s).ports = s.ports := rfl
@[simp] theorem setBench_ps (b : Nat) (x : Bench) (s : State) : (setBench b x s).ps = s.ps := rfl
@[simp] theorem setBench_mb (b : Nat) (x : Bench) (s : State) : (setBench b x s).mb = s.mb := rfl
@[simp] theorem setBench_scratch (b : Nat) (x : Bench) (s : State) : (setBench b x s).scratch = s.scratch := rfl

/-! ### setObj -/

@[simp] theorem setObj_pending (h : Nat) (o : BObj) (s : State) : (setObj h o s).pending = s.pending := rfl
@[simp] theorem setObj_free (h : Nat) (o : BObj) (s : State) : (setObj h o s).free = s.free := rfl
@[simp] theorem setObj_power (h : Nat) (o : BObj) (s : State) : (setObj h o s).power = s.power := rfl
@[simp] theorem setObj_time (h : Nat) (o : BObj) (s : State) : (setObj h o s).time = s.time := rfl
@[simp] theorem setObj_regs (h : Nat) (o : BObj) (s : State) : (setObj h o s).regs = s.regs := rfl
@[simp] theorem setObj_timed (h : Nat) (o : BObj) (s : State) : (setObj h o s).timed = s.timed := rfl
@[simp] theorem setObj_flash (h : Nat) (o : BObj) (s : State) : (setObj h o s).flash = s.flash := rfl
@[simp] theorem setObj_sump (h : Nat) (o : BObj) (s : State) : (setObj h o s).sump = s.sump := rfl
@[simp] theorem setObj_prot (h : Nat) (o : BObj) (s : State) : (setObj h o s).prot = s.prot := rfl
@[simp] theorem setObj_wear (h : Nat) (o : BObj) (s : State) : (setObj h o s).wear = s.wear := rfl
@[simp] theorem setObj_test (h : Nat) (o : BObj) (s : State) : (setObj h o s).test = s.test := rfl
@[simp] theorem setObj_hif (h : Nat) (o : BObj) (s : State) : (setObj h o s).hif = s.hif := rfl
@[simp] theorem setObj_pcie (h : Nat) (o : BObj) (s : State) : (setObj h o s).pcie = s.pcie := rfl
@[simp] theorem setObj_tun (h : Nat) (o : BObj) (s : State) : (setObj h o s).tun = s.tun := rfl
@[simp] theorem setObj_dma (h : Nat) (o : BObj) (s : State) : (setObj h o s).dma = s.dma := rfl
@[simp] theorem setObj_dmaWait (h : Nat) (o : BObj) (s : State) : (setObj h o s).dmaWait = s.dmaWait := rfl
@[simp] theorem setObj_localMem (h : Nat) (o : BObj) (s : State) : (setObj h o s).localMem = s.localMem := rfl
@[simp] theorem setObj_tunMem (h : Nat) (o : BObj) (s : State) : (setObj h o s).tunMem = s.tunMem := rfl
@[simp] theorem setObj_links (h : Nat) (o : BObj) (s : State) : (setObj h o s).links = s.links := rfl
@[simp] theorem setObj_node (h : Nat) (o : BObj) (s : State) : (setObj h o s).node = s.node := rfl
@[simp] theorem setObj_surveys (h : Nat) (o : BObj) (s : State) : (setObj h o s).surveys = s.surveys := rfl
@[simp] theorem setObj_linkQueries (h : Nat) (o : BObj) (s : State) : (setObj h o s).linkQueries = s.linkQueries := rfl
@[simp] theorem setObj_router (h : Nat) (o : BObj) (s : State) : (setObj h o s).router = s.router := rfl
@[simp] theorem setObj_tiles (h : Nat) (o : BObj) (s : State) : (setObj h o s).tiles = s.tiles := rfl
@[simp] theorem setObj_limits (h : Nat) (o : BObj) (s : State) : (setObj h o s).limits = s.limits := rfl
@[simp] theorem setObj_mem (h : Nat) (o : BObj) (s : State) :
    (setObj h o s).mem = { s.mem with objs := mapPut s.mem.objs h o } := rfl
@[simp] theorem setObj_fabric (h : Nat) (o : BObj) (s : State) : (setObj h o s).fabric = s.fabric := rfl
@[simp] theorem setObj_clock (h : Nat) (o : BObj) (s : State) : (setObj h o s).clock = s.clock := rfl
@[simp] theorem setObj_net (h : Nat) (o : BObj) (s : State) : (setObj h o s).net = s.net := rfl
@[simp] theorem setObj_ports (h : Nat) (o : BObj) (s : State) : (setObj h o s).ports = s.ports := rfl
@[simp] theorem setObj_ps (h : Nat) (o : BObj) (s : State) : (setObj h o s).ps = s.ps := rfl
@[simp] theorem setObj_mb (h : Nat) (o : BObj) (s : State) : (setObj h o s).mb = s.mb := rfl
@[simp] theorem setObj_scratch (h : Nat) (o : BObj) (s : State) : (setObj h o s).scratch = s.scratch := rfl

/-! ### fab -/

@[simp] theorem fab_pending (f : Fabric → Fabric) (s : State) : (fab f s).pending = s.pending := rfl
@[simp] theorem fab_free (f : Fabric → Fabric) (s : State) : (fab f s).free = s.free := rfl
@[simp] theorem fab_power (f : Fabric → Fabric) (s : State) : (fab f s).power = s.power := rfl
@[simp] theorem fab_time (f : Fabric → Fabric) (s : State) : (fab f s).time = s.time := rfl
@[simp] theorem fab_regs (f : Fabric → Fabric) (s : State) : (fab f s).regs = s.regs := rfl
@[simp] theorem fab_timed (f : Fabric → Fabric) (s : State) : (fab f s).timed = s.timed := rfl
@[simp] theorem fab_flash (f : Fabric → Fabric) (s : State) : (fab f s).flash = s.flash := rfl
@[simp] theorem fab_sump (f : Fabric → Fabric) (s : State) : (fab f s).sump = s.sump := rfl
@[simp] theorem fab_prot (f : Fabric → Fabric) (s : State) : (fab f s).prot = s.prot := rfl
@[simp] theorem fab_wear (f : Fabric → Fabric) (s : State) : (fab f s).wear = s.wear := rfl
@[simp] theorem fab_test (f : Fabric → Fabric) (s : State) : (fab f s).test = s.test := rfl
@[simp] theorem fab_hif (f : Fabric → Fabric) (s : State) : (fab f s).hif = s.hif := rfl
@[simp] theorem fab_pcie (f : Fabric → Fabric) (s : State) : (fab f s).pcie = s.pcie := rfl
@[simp] theorem fab_tun (f : Fabric → Fabric) (s : State) : (fab f s).tun = s.tun := rfl
@[simp] theorem fab_dma (f : Fabric → Fabric) (s : State) : (fab f s).dma = s.dma := rfl
@[simp] theorem fab_dmaWait (f : Fabric → Fabric) (s : State) : (fab f s).dmaWait = s.dmaWait := rfl
@[simp] theorem fab_localMem (f : Fabric → Fabric) (s : State) : (fab f s).localMem = s.localMem := rfl
@[simp] theorem fab_tunMem (f : Fabric → Fabric) (s : State) : (fab f s).tunMem = s.tunMem := rfl
@[simp] theorem fab_links (f : Fabric → Fabric) (s : State) : (fab f s).links = s.links := rfl
@[simp] theorem fab_node (f : Fabric → Fabric) (s : State) : (fab f s).node = s.node := rfl
@[simp] theorem fab_surveys (f : Fabric → Fabric) (s : State) : (fab f s).surveys = s.surveys := rfl
@[simp] theorem fab_linkQueries (f : Fabric → Fabric) (s : State) : (fab f s).linkQueries = s.linkQueries := rfl
@[simp] theorem fab_router (f : Fabric → Fabric) (s : State) : (fab f s).router = s.router := rfl
@[simp] theorem fab_tiles (f : Fabric → Fabric) (s : State) : (fab f s).tiles = s.tiles := rfl
@[simp] theorem fab_limits (f : Fabric → Fabric) (s : State) : (fab f s).limits = s.limits := rfl
@[simp] theorem fab_mem (f : Fabric → Fabric) (s : State) : (fab f s).mem = s.mem := rfl
@[simp] theorem fab_fabric (f : Fabric → Fabric) (s : State) :
    (fab f s).fabric = f s.fabric := rfl
@[simp] theorem fab_clock (f : Fabric → Fabric) (s : State) : (fab f s).clock = s.clock := rfl
@[simp] theorem fab_net (f : Fabric → Fabric) (s : State) : (fab f s).net = s.net := rfl
@[simp] theorem fab_ports (f : Fabric → Fabric) (s : State) : (fab f s).ports = s.ports := rfl
@[simp] theorem fab_ps (f : Fabric → Fabric) (s : State) : (fab f s).ps = s.ps := rfl
@[simp] theorem fab_mb (f : Fabric → Fabric) (s : State) : (fab f s).mb = s.mb := rfl
@[simp] theorem fab_scratch (f : Fabric → Fabric) (s : State) : (fab f s).scratch = s.scratch := rfl

/-! ### netMod -/

@[simp] theorem netMod_pending (f : Net → Net) (s : State) : (netMod f s).pending = s.pending := rfl
@[simp] theorem netMod_free (f : Net → Net) (s : State) : (netMod f s).free = s.free := rfl
@[simp] theorem netMod_power (f : Net → Net) (s : State) : (netMod f s).power = s.power := rfl
@[simp] theorem netMod_time (f : Net → Net) (s : State) : (netMod f s).time = s.time := rfl
@[simp] theorem netMod_regs (f : Net → Net) (s : State) : (netMod f s).regs = s.regs := rfl
@[simp] theorem netMod_timed (f : Net → Net) (s : State) : (netMod f s).timed = s.timed := rfl
@[simp] theorem netMod_flash (f : Net → Net) (s : State) : (netMod f s).flash = s.flash := rfl
@[simp] theorem netMod_sump (f : Net → Net) (s : State) : (netMod f s).sump = s.sump := rfl
@[simp] theorem netMod_prot (f : Net → Net) (s : State) : (netMod f s).prot = s.prot := rfl
@[simp] theorem netMod_wear (f : Net → Net) (s : State) : (netMod f s).wear = s.wear := rfl
@[simp] theorem netMod_test (f : Net → Net) (s : State) : (netMod f s).test = s.test := rfl
@[simp] theorem netMod_hif (f : Net → Net) (s : State) : (netMod f s).hif = s.hif := rfl
@[simp] theorem netMod_pcie (f : Net → Net) (s : State) : (netMod f s).pcie = s.pcie := rfl
@[simp] theorem netMod_tun (f : Net → Net) (s : State) : (netMod f s).tun = s.tun := rfl
@[simp] theorem netMod_dma (f : Net → Net) (s : State) : (netMod f s).dma = s.dma := rfl
@[simp] theorem netMod_dmaWait (f : Net → Net) (s : State) : (netMod f s).dmaWait = s.dmaWait := rfl
@[simp] theorem netMod_localMem (f : Net → Net) (s : State) : (netMod f s).localMem = s.localMem := rfl
@[simp] theorem netMod_tunMem (f : Net → Net) (s : State) : (netMod f s).tunMem = s.tunMem := rfl
@[simp] theorem netMod_links (f : Net → Net) (s : State) : (netMod f s).links = s.links := rfl
@[simp] theorem netMod_node (f : Net → Net) (s : State) : (netMod f s).node = s.node := rfl
@[simp] theorem netMod_surveys (f : Net → Net) (s : State) : (netMod f s).surveys = s.surveys := rfl
@[simp] theorem netMod_linkQueries (f : Net → Net) (s : State) : (netMod f s).linkQueries = s.linkQueries := rfl
@[simp] theorem netMod_router (f : Net → Net) (s : State) : (netMod f s).router = s.router := rfl
@[simp] theorem netMod_tiles (f : Net → Net) (s : State) : (netMod f s).tiles = s.tiles := rfl
@[simp] theorem netMod_limits (f : Net → Net) (s : State) : (netMod f s).limits = s.limits := rfl
@[simp] theorem netMod_mem (f : Net → Net) (s : State) : (netMod f s).mem = s.mem := rfl
@[simp] theorem netMod_fabric (f : Net → Net) (s : State) : (netMod f s).fabric = s.fabric := rfl
@[simp] theorem netMod_clock (f : Net → Net) (s : State) : (netMod f s).clock = s.clock := rfl
@[simp] theorem netMod_net (f : Net → Net) (s : State) :
    (netMod f s).net = f s.net := rfl
@[simp] theorem netMod_ports (f : Net → Net) (s : State) : (netMod f s).ports = s.ports := rfl
@[simp] theorem netMod_ps (f : Net → Net) (s : State) : (netMod f s).ps = s.ps := rfl
@[simp] theorem netMod_mb (f : Net → Net) (s : State) : (netMod f s).mb = s.mb := rfl
@[simp] theorem netMod_scratch (f : Net → Net) (s : State) : (netMod f s).scratch = s.scratch := rfl

/-! ### portMod -/

@[simp] theorem portMod_pending (p : Fin 12) (f : Port → Port) (s : State) : (portMod p f s).pending = s.pending := rfl
@[simp] theorem portMod_free (p : Fin 12) (f : Port → Port) (s : State) : (portMod p f s).free = s.free := rfl
@[simp] theorem portMod_power (p : Fin 12) (f : Port → Port) (s : State) : (portMod p f s).power = s.power := rfl
@[simp] theorem portMod_time (p : Fin 12) (f : Port → Port) (s : State) : (portMod p f s).time = s.time := rfl
@[simp] theorem portMod_regs (p : Fin 12) (f : Port → Port) (s : State) : (portMod p f s).regs = s.regs := rfl
@[simp] theorem portMod_timed (p : Fin 12) (f : Port → Port) (s : State) : (portMod p f s).timed = s.timed := rfl
@[simp] theorem portMod_flash (p : Fin 12) (f : Port → Port) (s : State) : (portMod p f s).flash = s.flash := rfl
@[simp] theorem portMod_sump (p : Fin 12) (f : Port → Port) (s : State) : (portMod p f s).sump = s.sump := rfl
@[simp] theorem portMod_prot (p : Fin 12) (f : Port → Port) (s : State) : (portMod p f s).prot = s.prot := rfl
@[simp] theorem portMod_wear (p : Fin 12) (f : Port → Port) (s : State) : (portMod p f s).wear = s.wear := rfl
@[simp] theorem portMod_test (p : Fin 12) (f : Port → Port) (s : State) : (portMod p f s).test = s.test := rfl
@[simp] theorem portMod_hif (p : Fin 12) (f : Port → Port) (s : State) : (portMod p f s).hif = s.hif := rfl
@[simp] theorem portMod_pcie (p : Fin 12) (f : Port → Port) (s : State) : (portMod p f s).pcie = s.pcie := rfl
@[simp] theorem portMod_tun (p : Fin 12) (f : Port → Port) (s : State) : (portMod p f s).tun = s.tun := rfl
@[simp] theorem portMod_dma (p : Fin 12) (f : Port → Port) (s : State) : (portMod p f s).dma = s.dma := rfl
@[simp] theorem portMod_dmaWait (p : Fin 12) (f : Port → Port) (s : State) : (portMod p f s).dmaWait = s.dmaWait := rfl
@[simp] theorem portMod_localMem (p : Fin 12) (f : Port → Port) (s : State) : (portMod p f s).localMem = s.localMem := rfl
@[simp] theorem portMod_tunMem (p : Fin 12) (f : Port → Port) (s : State) : (portMod p f s).tunMem = s.tunMem := rfl
@[simp] theorem portMod_links (p : Fin 12) (f : Port → Port) (s : State) : (portMod p f s).links = s.links := rfl
@[simp] theorem portMod_node (p : Fin 12) (f : Port → Port) (s : State) : (portMod p f s).node = s.node := rfl
@[simp] theorem portMod_surveys (p : Fin 12) (f : Port → Port) (s : State) : (portMod p f s).surveys = s.surveys := rfl
@[simp] theorem portMod_linkQueries (p : Fin 12) (f : Port → Port) (s : State) : (portMod p f s).linkQueries = s.linkQueries := rfl
@[simp] theorem portMod_router (p : Fin 12) (f : Port → Port) (s : State) : (portMod p f s).router = s.router := rfl
@[simp] theorem portMod_tiles (p : Fin 12) (f : Port → Port) (s : State) : (portMod p f s).tiles = s.tiles := rfl
@[simp] theorem portMod_limits (p : Fin 12) (f : Port → Port) (s : State) : (portMod p f s).limits = s.limits := rfl
@[simp] theorem portMod_mem (p : Fin 12) (f : Port → Port) (s : State) : (portMod p f s).mem = s.mem := rfl
@[simp] theorem portMod_fabric (p : Fin 12) (f : Port → Port) (s : State) : (portMod p f s).fabric = s.fabric := rfl
@[simp] theorem portMod_clock (p : Fin 12) (f : Port → Port) (s : State) : (portMod p f s).clock = s.clock := rfl
@[simp] theorem portMod_net (p : Fin 12) (f : Port → Port) (s : State) : (portMod p f s).net = s.net := rfl
@[simp] theorem portMod_ports (p : Fin 12) (f : Port → Port) (s : State) :
    (portMod p f s).ports = { s.ports with port := vmod s.ports.port p f } := rfl
@[simp] theorem portMod_ps (p : Fin 12) (f : Port → Port) (s : State) : (portMod p f s).ps = s.ps := rfl
@[simp] theorem portMod_mb (p : Fin 12) (f : Port → Port) (s : State) : (portMod p f s).mb = s.mb := rfl
@[simp] theorem portMod_scratch (p : Fin 12) (f : Port → Port) (s : State) : (portMod p f s).scratch = s.scratch := rfl

/-! ### psMod -/

@[simp] theorem psMod_pending (f : PowerStage → PowerStage) (s : State) : (psMod f s).pending = s.pending := rfl
@[simp] theorem psMod_free (f : PowerStage → PowerStage) (s : State) : (psMod f s).free = s.free := rfl
@[simp] theorem psMod_power (f : PowerStage → PowerStage) (s : State) : (psMod f s).power = s.power := rfl
@[simp] theorem psMod_time (f : PowerStage → PowerStage) (s : State) : (psMod f s).time = s.time := rfl
@[simp] theorem psMod_regs (f : PowerStage → PowerStage) (s : State) : (psMod f s).regs = s.regs := rfl
@[simp] theorem psMod_timed (f : PowerStage → PowerStage) (s : State) : (psMod f s).timed = s.timed := rfl
@[simp] theorem psMod_flash (f : PowerStage → PowerStage) (s : State) : (psMod f s).flash = s.flash := rfl
@[simp] theorem psMod_sump (f : PowerStage → PowerStage) (s : State) : (psMod f s).sump = s.sump := rfl
@[simp] theorem psMod_prot (f : PowerStage → PowerStage) (s : State) : (psMod f s).prot = s.prot := rfl
@[simp] theorem psMod_wear (f : PowerStage → PowerStage) (s : State) : (psMod f s).wear = s.wear := rfl
@[simp] theorem psMod_test (f : PowerStage → PowerStage) (s : State) : (psMod f s).test = s.test := rfl
@[simp] theorem psMod_hif (f : PowerStage → PowerStage) (s : State) : (psMod f s).hif = s.hif := rfl
@[simp] theorem psMod_pcie (f : PowerStage → PowerStage) (s : State) : (psMod f s).pcie = s.pcie := rfl
@[simp] theorem psMod_tun (f : PowerStage → PowerStage) (s : State) : (psMod f s).tun = s.tun := rfl
@[simp] theorem psMod_dma (f : PowerStage → PowerStage) (s : State) : (psMod f s).dma = s.dma := rfl
@[simp] theorem psMod_dmaWait (f : PowerStage → PowerStage) (s : State) : (psMod f s).dmaWait = s.dmaWait := rfl
@[simp] theorem psMod_localMem (f : PowerStage → PowerStage) (s : State) : (psMod f s).localMem = s.localMem := rfl
@[simp] theorem psMod_tunMem (f : PowerStage → PowerStage) (s : State) : (psMod f s).tunMem = s.tunMem := rfl
@[simp] theorem psMod_links (f : PowerStage → PowerStage) (s : State) : (psMod f s).links = s.links := rfl
@[simp] theorem psMod_node (f : PowerStage → PowerStage) (s : State) : (psMod f s).node = s.node := rfl
@[simp] theorem psMod_surveys (f : PowerStage → PowerStage) (s : State) : (psMod f s).surveys = s.surveys := rfl
@[simp] theorem psMod_linkQueries (f : PowerStage → PowerStage) (s : State) : (psMod f s).linkQueries = s.linkQueries := rfl
@[simp] theorem psMod_router (f : PowerStage → PowerStage) (s : State) : (psMod f s).router = s.router := rfl
@[simp] theorem psMod_tiles (f : PowerStage → PowerStage) (s : State) : (psMod f s).tiles = s.tiles := rfl
@[simp] theorem psMod_limits (f : PowerStage → PowerStage) (s : State) : (psMod f s).limits = s.limits := rfl
@[simp] theorem psMod_mem (f : PowerStage → PowerStage) (s : State) : (psMod f s).mem = s.mem := rfl
@[simp] theorem psMod_fabric (f : PowerStage → PowerStage) (s : State) : (psMod f s).fabric = s.fabric := rfl
@[simp] theorem psMod_clock (f : PowerStage → PowerStage) (s : State) : (psMod f s).clock = s.clock := rfl
@[simp] theorem psMod_net (f : PowerStage → PowerStage) (s : State) : (psMod f s).net = s.net := rfl
@[simp] theorem psMod_ports (f : PowerStage → PowerStage) (s : State) : (psMod f s).ports = s.ports := rfl
@[simp] theorem psMod_ps (f : PowerStage → PowerStage) (s : State) :
    (psMod f s).ps = f s.ps := rfl
@[simp] theorem psMod_mb (f : PowerStage → PowerStage) (s : State) : (psMod f s).mb = s.mb := rfl
@[simp] theorem psMod_scratch (f : PowerStage → PowerStage) (s : State) : (psMod f s).scratch = s.scratch := rfl

/-! ### startQuiet -/

@[simp] theorem startQuiet_pending (u : FenceUnit) (s : State) : (startQuiet u s).pending = s.pending := rfl
@[simp] theorem startQuiet_free (u : FenceUnit) (s : State) : (startQuiet u s).free = s.free := rfl
@[simp] theorem startQuiet_power (u : FenceUnit) (s : State) : (startQuiet u s).power = s.power := rfl
@[simp] theorem startQuiet_time (u : FenceUnit) (s : State) : (startQuiet u s).time = s.time := rfl
@[simp] theorem startQuiet_regs (u : FenceUnit) (s : State) : (startQuiet u s).regs = s.regs := rfl
@[simp] theorem startQuiet_timed (u : FenceUnit) (s : State) : (startQuiet u s).timed = s.timed := rfl
@[simp] theorem startQuiet_flash (u : FenceUnit) (s : State) : (startQuiet u s).flash = s.flash := rfl
@[simp] theorem startQuiet_sump (u : FenceUnit) (s : State) :
    (startQuiet u s).sump = { s.sump with insts := s.sump.insts.map fun e => if e.2.state = .active ∧ fenceUnit (e.1 / 256) (e.1 % 256) = some u then (e.1, { e.2 with quietFrom := s.time.refTime }) else e } := rfl
@[simp] theorem startQuiet_prot (u : FenceUnit) (s : State) : (startQuiet u s).prot = s.prot := rfl
@[simp] theorem startQuiet_wear (u : FenceUnit) (s : State) : (startQuiet u s).wear = s.wear := rfl
@[simp] theorem startQuiet_test (u : FenceUnit) (s : State) : (startQuiet u s).test = s.test := rfl
@[simp] theorem startQuiet_hif (u : FenceUnit) (s : State) : (startQuiet u s).hif = s.hif := rfl
@[simp] theorem startQuiet_pcie (u : FenceUnit) (s : State) : (startQuiet u s).pcie = s.pcie := rfl
@[simp] theorem startQuiet_tun (u : FenceUnit) (s : State) : (startQuiet u s).tun = s.tun := rfl
@[simp] theorem startQuiet_dma (u : FenceUnit) (s : State) : (startQuiet u s).dma = s.dma := rfl
@[simp] theorem startQuiet_dmaWait (u : FenceUnit) (s : State) : (startQuiet u s).dmaWait = s.dmaWait := rfl
@[simp] theorem startQuiet_localMem (u : FenceUnit) (s : State) : (startQuiet u s).localMem = s.localMem := rfl
@[simp] theorem startQuiet_tunMem (u : FenceUnit) (s : State) : (startQuiet u s).tunMem = s.tunMem := rfl
@[simp] theorem startQuiet_links (u : FenceUnit) (s : State) : (startQuiet u s).links = s.links := rfl
@[simp] theorem startQuiet_node (u : FenceUnit) (s : State) : (startQuiet u s).node = s.node := rfl
@[simp] theorem startQuiet_surveys (u : FenceUnit) (s : State) : (startQuiet u s).surveys = s.surveys := rfl
@[simp] theorem startQuiet_linkQueries (u : FenceUnit) (s : State) : (startQuiet u s).linkQueries = s.linkQueries := rfl
@[simp] theorem startQuiet_router (u : FenceUnit) (s : State) : (startQuiet u s).router = s.router := rfl
@[simp] theorem startQuiet_tiles (u : FenceUnit) (s : State) : (startQuiet u s).tiles = s.tiles := rfl
@[simp] theorem startQuiet_limits (u : FenceUnit) (s : State) : (startQuiet u s).limits = s.limits := rfl
@[simp] theorem startQuiet_mem (u : FenceUnit) (s : State) : (startQuiet u s).mem = s.mem := rfl
@[simp] theorem startQuiet_fabric (u : FenceUnit) (s : State) : (startQuiet u s).fabric = s.fabric := rfl
@[simp] theorem startQuiet_clock (u : FenceUnit) (s : State) : (startQuiet u s).clock = s.clock := rfl
@[simp] theorem startQuiet_net (u : FenceUnit) (s : State) : (startQuiet u s).net = s.net := rfl
@[simp] theorem startQuiet_ports (u : FenceUnit) (s : State) : (startQuiet u s).ports = s.ports := rfl
@[simp] theorem startQuiet_ps (u : FenceUnit) (s : State) : (startQuiet u s).ps = s.ps := rfl
@[simp] theorem startQuiet_mb (u : FenceUnit) (s : State) : (startQuiet u s).mb = s.mb := rfl
@[simp] theorem startQuiet_scratch (u : FenceUnit) (s : State) : (startQuiet u s).scratch = s.scratch := rfl

/-! ### protMod -/

@[simp] theorem protMod_pending (f : Prot → Prot) (s : State) : (protMod f s).pending = s.pending := rfl
@[simp] theorem protMod_free (f : Prot → Prot) (s : State) : (protMod f s).free = s.free := rfl
@[simp] theorem protMod_power (f : Prot → Prot) (s : State) : (protMod f s).power = s.power := rfl
@[simp] theorem protMod_time (f : Prot → Prot) (s : State) : (protMod f s).time = s.time := rfl
@[simp] theorem protMod_regs (f : Prot → Prot) (s : State) : (protMod f s).regs = s.regs := rfl
@[simp] theorem protMod_timed (f : Prot → Prot) (s : State) : (protMod f s).timed = s.timed := rfl
@[simp] theorem protMod_flash (f : Prot → Prot) (s : State) : (protMod f s).flash = s.flash := rfl
@[simp] theorem protMod_sump (f : Prot → Prot) (s : State) : (protMod f s).sump = s.sump := rfl
@[simp] theorem protMod_prot (f : Prot → Prot) (s : State) :
    (protMod f s).prot = f s.prot := rfl
@[simp] theorem protMod_wear (f : Prot → Prot) (s : State) : (protMod f s).wear = s.wear := rfl
@[simp] theorem protMod_test (f : Prot → Prot) (s : State) : (protMod f s).test = s.test := rfl
@[simp] theorem protMod_hif (f : Prot → Prot) (s : State) : (protMod f s).hif = s.hif := rfl
@[simp] theorem protMod_pcie (f : Prot → Prot) (s : State) : (protMod f s).pcie = s.pcie := rfl
@[simp] theorem protMod_tun (f : Prot → Prot) (s : State) : (protMod f s).tun = s.tun := rfl
@[simp] theorem protMod_dma (f : Prot → Prot) (s : State) : (protMod f s).dma = s.dma := rfl
@[simp] theorem protMod_dmaWait (f : Prot → Prot) (s : State) : (protMod f s).dmaWait = s.dmaWait := rfl
@[simp] theorem protMod_localMem (f : Prot → Prot) (s : State) : (protMod f s).localMem = s.localMem := rfl
@[simp] theorem protMod_tunMem (f : Prot → Prot) (s : State) : (protMod f s).tunMem = s.tunMem := rfl
@[simp] theorem protMod_links (f : Prot → Prot) (s : State) : (protMod f s).links = s.links := rfl
@[simp] theorem protMod_node (f : Prot → Prot) (s : State) : (protMod f s).node = s.node := rfl
@[simp] theorem protMod_surveys (f : Prot → Prot) (s : State) : (protMod f s).surveys = s.surveys := rfl
@[simp] theorem protMod_linkQueries (f : Prot → Prot) (s : State) : (protMod f s).linkQueries = s.linkQueries := rfl
@[simp] theorem protMod_router (f : Prot → Prot) (s : State) : (protMod f s).router = s.router := rfl
@[simp] theorem protMod_tiles (f : Prot → Prot) (s : State) : (protMod f s).tiles = s.tiles := rfl
@[simp] theorem protMod_limits (f : Prot → Prot) (s : State) : (protMod f s).limits = s.limits := rfl
@[simp] theorem protMod_mem (f : Prot → Prot) (s : State) : (protMod f s).mem = s.mem := rfl
@[simp] theorem protMod_fabric (f : Prot → Prot) (s : State) : (protMod f s).fabric = s.fabric := rfl
@[simp] theorem protMod_clock (f : Prot → Prot) (s : State) : (protMod f s).clock = s.clock := rfl
@[simp] theorem protMod_net (f : Prot → Prot) (s : State) : (protMod f s).net = s.net := rfl
@[simp] theorem protMod_ports (f : Prot → Prot) (s : State) : (protMod f s).ports = s.ports := rfl
@[simp] theorem protMod_ps (f : Prot → Prot) (s : State) : (protMod f s).ps = s.ps := rfl
@[simp] theorem protMod_mb (f : Prot → Prot) (s : State) : (protMod f s).mb = s.mb := rfl
@[simp] theorem protMod_scratch (f : Prot → Prot) (s : State) : (protMod f s).scratch = s.scratch := rfl

/-! ### storeMod -/

@[simp] theorem storeMod_pending (f : StoreCopy → StoreCopy) (s : State) : (storeMod f s).pending = s.pending := rfl
@[simp] theorem storeMod_free (f : StoreCopy → StoreCopy) (s : State) : (storeMod f s).free = s.free := rfl
@[simp] theorem storeMod_power (f : StoreCopy → StoreCopy) (s : State) : (storeMod f s).power = s.power := rfl
@[simp] theorem storeMod_time (f : StoreCopy → StoreCopy) (s : State) : (storeMod f s).time = s.time := rfl
@[simp] theorem storeMod_regs (f : StoreCopy → StoreCopy) (s : State) : (storeMod f s).regs = s.regs := rfl
@[simp] theorem storeMod_timed (f : StoreCopy → StoreCopy) (s : State) : (storeMod f s).timed = s.timed := rfl
@[simp] theorem storeMod_flash (f : StoreCopy → StoreCopy) (s : State) :
    (storeMod f s).flash = { s.flash with copies := vmap f s.flash.copies } := rfl
@[simp] theorem storeMod_sump (f : StoreCopy → StoreCopy) (s : State) : (storeMod f s).sump = s.sump := rfl
@[simp] theorem storeMod_prot (f : StoreCopy → StoreCopy) (s : State) : (storeMod f s).prot = s.prot := rfl
@[simp] theorem storeMod_wear (f : StoreCopy → StoreCopy) (s : State) : (storeMod f s).wear = s.wear := rfl
@[simp] theorem storeMod_test (f : StoreCopy → StoreCopy) (s : State) : (storeMod f s).test = s.test := rfl
@[simp] theorem storeMod_hif (f : StoreCopy → StoreCopy) (s : State) : (storeMod f s).hif = s.hif := rfl
@[simp] theorem storeMod_pcie (f : StoreCopy → StoreCopy) (s : State) : (storeMod f s).pcie = s.pcie := rfl
@[simp] theorem storeMod_tun (f : StoreCopy → StoreCopy) (s : State) : (storeMod f s).tun = s.tun := rfl
@[simp] theorem storeMod_dma (f : StoreCopy → StoreCopy) (s : State) : (storeMod f s).dma = s.dma := rfl
@[simp] theorem storeMod_dmaWait (f : StoreCopy → StoreCopy) (s : State) : (storeMod f s).dmaWait = s.dmaWait := rfl
@[simp] theorem storeMod_localMem (f : StoreCopy → StoreCopy) (s : State) : (storeMod f s).localMem = s.localMem := rfl
@[simp] theorem storeMod_tunMem (f : StoreCopy → StoreCopy) (s : State) : (storeMod f s).tunMem = s.tunMem := rfl
@[simp] theorem storeMod_links (f : StoreCopy → StoreCopy) (s : State) : (storeMod f s).links = s.links := rfl
@[simp] theorem storeMod_node (f : StoreCopy → StoreCopy) (s : State) : (storeMod f s).node = s.node := rfl
@[simp] theorem storeMod_surveys (f : StoreCopy → StoreCopy) (s : State) : (storeMod f s).surveys = s.surveys := rfl
@[simp] theorem storeMod_linkQueries (f : StoreCopy → StoreCopy) (s : State) : (storeMod f s).linkQueries = s.linkQueries := rfl
@[simp] theorem storeMod_router (f : StoreCopy → StoreCopy) (s : State) : (storeMod f s).router = s.router := rfl
@[simp] theorem storeMod_tiles (f : StoreCopy → StoreCopy) (s : State) : (storeMod f s).tiles = s.tiles := rfl
@[simp] theorem storeMod_limits (f : StoreCopy → StoreCopy) (s : State) : (storeMod f s).limits = s.limits := rfl
@[simp] theorem storeMod_mem (f : StoreCopy → StoreCopy) (s : State) : (storeMod f s).mem = s.mem := rfl
@[simp] theorem storeMod_fabric (f : StoreCopy → StoreCopy) (s : State) : (storeMod f s).fabric = s.fabric := rfl
@[simp] theorem storeMod_clock (f : StoreCopy → StoreCopy) (s : State) : (storeMod f s).clock = s.clock := rfl
@[simp] theorem storeMod_net (f : StoreCopy → StoreCopy) (s : State) : (storeMod f s).net = s.net := rfl
@[simp] theorem storeMod_ports (f : StoreCopy → StoreCopy) (s : State) : (storeMod f s).ports = s.ports := rfl
@[simp] theorem storeMod_ps (f : StoreCopy → StoreCopy) (s : State) : (storeMod f s).ps = s.ps := rfl
@[simp] theorem storeMod_mb (f : StoreCopy → StoreCopy) (s : State) : (storeMod f s).mb = s.mb := rfl
@[simp] theorem storeMod_scratch (f : StoreCopy → StoreCopy) (s : State) : (storeMod f s).scratch = s.scratch := rfl

/-! ### clk -/

@[simp] theorem clk_pending (f : Clock → Clock) (s : State) : (clk f s).pending = s.pending := rfl
@[simp] theorem clk_free (f : Clock → Clock) (s : State) : (clk f s).free = s.free := rfl
@[simp] theorem clk_power (f : Clock → Clock) (s : State) : (clk f s).power = s.power := rfl
@[simp] theorem clk_time (f : Clock → Clock) (s : State) : (clk f s).time = s.time := rfl
@[simp] theorem clk_regs (f : Clock → Clock) (s : State) : (clk f s).regs = s.regs := rfl
@[simp] theorem clk_timed (f : Clock → Clock) (s : State) : (clk f s).timed = s.timed := rfl
@[simp] theorem clk_flash (f : Clock → Clock) (s : State) : (clk f s).flash = s.flash := rfl
@[simp] theorem clk_sump (f : Clock → Clock) (s : State) : (clk f s).sump = s.sump := rfl
@[simp] theorem clk_prot (f : Clock → Clock) (s : State) : (clk f s).prot = s.prot := rfl
@[simp] theorem clk_wear (f : Clock → Clock) (s : State) : (clk f s).wear = s.wear := rfl
@[simp] theorem clk_test (f : Clock → Clock) (s : State) : (clk f s).test = s.test := rfl
@[simp] theorem clk_hif (f : Clock → Clock) (s : State) : (clk f s).hif = s.hif := rfl
@[simp] theorem clk_pcie (f : Clock → Clock) (s : State) : (clk f s).pcie = s.pcie := rfl
@[simp] theorem clk_tun (f : Clock → Clock) (s : State) : (clk f s).tun = s.tun := rfl
@[simp] theorem clk_dma (f : Clock → Clock) (s : State) : (clk f s).dma = s.dma := rfl
@[simp] theorem clk_dmaWait (f : Clock → Clock) (s : State) : (clk f s).dmaWait = s.dmaWait := rfl
@[simp] theorem clk_localMem (f : Clock → Clock) (s : State) : (clk f s).localMem = s.localMem := rfl
@[simp] theorem clk_tunMem (f : Clock → Clock) (s : State) : (clk f s).tunMem = s.tunMem := rfl
@[simp] theorem clk_links (f : Clock → Clock) (s : State) : (clk f s).links = s.links := rfl
@[simp] theorem clk_node (f : Clock → Clock) (s : State) : (clk f s).node = s.node := rfl
@[simp] theorem clk_surveys (f : Clock → Clock) (s : State) : (clk f s).surveys = s.surveys := rfl
@[simp] theorem clk_linkQueries (f : Clock → Clock) (s : State) : (clk f s).linkQueries = s.linkQueries := rfl
@[simp] theorem clk_router (f : Clock → Clock) (s : State) : (clk f s).router = s.router := rfl
@[simp] theorem clk_tiles (f : Clock → Clock) (s : State) : (clk f s).tiles = s.tiles := rfl
@[simp] theorem clk_limits (f : Clock → Clock) (s : State) : (clk f s).limits = s.limits := rfl
@[simp] theorem clk_mem (f : Clock → Clock) (s : State) : (clk f s).mem = s.mem := rfl
@[simp] theorem clk_fabric (f : Clock → Clock) (s : State) : (clk f s).fabric = s.fabric := rfl
@[simp] theorem clk_clock (f : Clock → Clock) (s : State) :
    (clk f s).clock = f s.clock := rfl
@[simp] theorem clk_net (f : Clock → Clock) (s : State) : (clk f s).net = s.net := rfl
@[simp] theorem clk_ports (f : Clock → Clock) (s : State) : (clk f s).ports = s.ports := rfl
@[simp] theorem clk_ps (f : Clock → Clock) (s : State) : (clk f s).ps = s.ps := rfl
@[simp] theorem clk_mb (f : Clock → Clock) (s : State) : (clk f s).mb = s.mb := rfl
@[simp] theorem clk_scratch (f : Clock → Clock) (s : State) : (clk f s).scratch = s.scratch := rfl

/-! ### wearMod -/

@[simp] theorem wearMod_pending (f : Wear → Wear) (s : State) : (wearMod f s).pending = s.pending := rfl
@[simp] theorem wearMod_free (f : Wear → Wear) (s : State) : (wearMod f s).free = s.free := rfl
@[simp] theorem wearMod_power (f : Wear → Wear) (s : State) : (wearMod f s).power = s.power := rfl
@[simp] theorem wearMod_time (f : Wear → Wear) (s : State) : (wearMod f s).time = s.time := rfl
@[simp] theorem wearMod_regs (f : Wear → Wear) (s : State) : (wearMod f s).regs = s.regs := rfl
@[simp] theorem wearMod_timed (f : Wear → Wear) (s : State) : (wearMod f s).timed = s.timed := rfl
@[simp] theorem wearMod_flash (f : Wear → Wear) (s : State) : (wearMod f s).flash = s.flash := rfl
@[simp] theorem wearMod_sump (f : Wear → Wear) (s : State) : (wearMod f s).sump = s.sump := rfl
@[simp] theorem wearMod_prot (f : Wear → Wear) (s : State) : (wearMod f s).prot = s.prot := rfl
@[simp] theorem wearMod_wear (f : Wear → Wear) (s : State) :
    (wearMod f s).wear = f s.wear := rfl
@[simp] theorem wearMod_test (f : Wear → Wear) (s : State) : (wearMod f s).test = s.test := rfl
@[simp] theorem wearMod_hif (f : Wear → Wear) (s : State) : (wearMod f s).hif = s.hif := rfl
@[simp] theorem wearMod_pcie (f : Wear → Wear) (s : State) : (wearMod f s).pcie = s.pcie := rfl
@[simp] theorem wearMod_tun (f : Wear → Wear) (s : State) : (wearMod f s).tun = s.tun := rfl
@[simp] theorem wearMod_dma (f : Wear → Wear) (s : State) : (wearMod f s).dma = s.dma := rfl
@[simp] theorem wearMod_dmaWait (f : Wear → Wear) (s : State) : (wearMod f s).dmaWait = s.dmaWait := rfl
@[simp] theorem wearMod_localMem (f : Wear → Wear) (s : State) : (wearMod f s).localMem = s.localMem := rfl
@[simp] theorem wearMod_tunMem (f : Wear → Wear) (s : State) : (wearMod f s).tunMem = s.tunMem := rfl
@[simp] theorem wearMod_links (f : Wear → Wear) (s : State) : (wearMod f s).links = s.links := rfl
@[simp] theorem wearMod_node (f : Wear → Wear) (s : State) : (wearMod f s).node = s.node := rfl
@[simp] theorem wearMod_surveys (f : Wear → Wear) (s : State) : (wearMod f s).surveys = s.surveys := rfl
@[simp] theorem wearMod_linkQueries (f : Wear → Wear) (s : State) : (wearMod f s).linkQueries = s.linkQueries := rfl
@[simp] theorem wearMod_router (f : Wear → Wear) (s : State) : (wearMod f s).router = s.router := rfl
@[simp] theorem wearMod_tiles (f : Wear → Wear) (s : State) : (wearMod f s).tiles = s.tiles := rfl
@[simp] theorem wearMod_limits (f : Wear → Wear) (s : State) : (wearMod f s).limits = s.limits := rfl
@[simp] theorem wearMod_mem (f : Wear → Wear) (s : State) : (wearMod f s).mem = s.mem := rfl
@[simp] theorem wearMod_fabric (f : Wear → Wear) (s : State) : (wearMod f s).fabric = s.fabric := rfl
@[simp] theorem wearMod_clock (f : Wear → Wear) (s : State) : (wearMod f s).clock = s.clock := rfl
@[simp] theorem wearMod_net (f : Wear → Wear) (s : State) : (wearMod f s).net = s.net := rfl
@[simp] theorem wearMod_ports (f : Wear → Wear) (s : State) : (wearMod f s).ports = s.ports := rfl
@[simp] theorem wearMod_ps (f : Wear → Wear) (s : State) : (wearMod f s).ps = s.ps := rfl
@[simp] theorem wearMod_mb (f : Wear → Wear) (s : State) : (wearMod f s).mb = s.mb := rfl
@[simp] theorem wearMod_scratch (f : Wear → Wear) (s : State) : (wearMod f s).scratch = s.scratch := rfl

/-! ### powerMod -/

@[simp] theorem powerMod_pending (f : Power → Power) (s : State) : (powerMod f s).pending = s.pending := rfl
@[simp] theorem powerMod_free (f : Power → Power) (s : State) : (powerMod f s).free = s.free := rfl
@[simp] theorem powerMod_power (f : Power → Power) (s : State) :
    (powerMod f s).power = f s.power := rfl
@[simp] theorem powerMod_time (f : Power → Power) (s : State) : (powerMod f s).time = s.time := rfl
@[simp] theorem powerMod_regs (f : Power → Power) (s : State) : (powerMod f s).regs = s.regs := rfl
@[simp] theorem powerMod_timed (f : Power → Power) (s : State) : (powerMod f s).timed = s.timed := rfl
@[simp] theorem powerMod_flash (f : Power → Power) (s : State) : (powerMod f s).flash = s.flash := rfl
@[simp] theorem powerMod_sump (f : Power → Power) (s : State) : (powerMod f s).sump = s.sump := rfl
@[simp] theorem powerMod_prot (f : Power → Power) (s : State) : (powerMod f s).prot = s.prot := rfl
@[simp] theorem powerMod_wear (f : Power → Power) (s : State) : (powerMod f s).wear = s.wear := rfl
@[simp] theorem powerMod_test (f : Power → Power) (s : State) : (powerMod f s).test = s.test := rfl
@[simp] theorem powerMod_hif (f : Power → Power) (s : State) : (powerMod f s).hif = s.hif := rfl
@[simp] theorem powerMod_pcie (f : Power → Power) (s : State) : (powerMod f s).pcie = s.pcie := rfl
@[simp] theorem powerMod_tun (f : Power → Power) (s : State) : (powerMod f s).tun = s.tun := rfl
@[simp] theorem powerMod_dma (f : Power → Power) (s : State) : (powerMod f s).dma = s.dma := rfl
@[simp] theorem powerMod_dmaWait (f : Power → Power) (s : State) : (powerMod f s).dmaWait = s.dmaWait := rfl
@[simp] theorem powerMod_localMem (f : Power → Power) (s : State) : (powerMod f s).localMem = s.localMem := rfl
@[simp] theorem powerMod_tunMem (f : Power → Power) (s : State) : (powerMod f s).tunMem = s.tunMem := rfl
@[simp] theorem powerMod_links (f : Power → Power) (s : State) : (powerMod f s).links = s.links := rfl
@[simp] theorem powerMod_node (f : Power → Power) (s : State) : (powerMod f s).node = s.node := rfl
@[simp] theorem powerMod_surveys (f : Power → Power) (s : State) : (powerMod f s).surveys = s.surveys := rfl
@[simp] theorem powerMod_linkQueries (f : Power → Power) (s : State) : (powerMod f s).linkQueries = s.linkQueries := rfl
@[simp] theorem powerMod_router (f : Power → Power) (s : State) : (powerMod f s).router = s.router := rfl
@[simp] theorem powerMod_tiles (f : Power → Power) (s : State) : (powerMod f s).tiles = s.tiles := rfl
@[simp] theorem powerMod_limits (f : Power → Power) (s : State) : (powerMod f s).limits = s.limits := rfl
@[simp] theorem powerMod_mem (f : Power → Power) (s : State) : (powerMod f s).mem = s.mem := rfl
@[simp] theorem powerMod_fabric (f : Power → Power) (s : State) : (powerMod f s).fabric = s.fabric := rfl
@[simp] theorem powerMod_clock (f : Power → Power) (s : State) : (powerMod f s).clock = s.clock := rfl
@[simp] theorem powerMod_net (f : Power → Power) (s : State) : (powerMod f s).net = s.net := rfl
@[simp] theorem powerMod_ports (f : Power → Power) (s : State) : (powerMod f s).ports = s.ports := rfl
@[simp] theorem powerMod_ps (f : Power → Power) (s : State) : (powerMod f s).ps = s.ps := rfl
@[simp] theorem powerMod_mb (f : Power → Power) (s : State) : (powerMod f s).mb = s.mb := rfl
@[simp] theorem powerMod_scratch (f : Power → Power) (s : State) : (powerMod f s).scratch = s.scratch := rfl

/-! ### flashMod -/

@[simp] theorem flashMod_pending (f : Flash → Flash) (s : State) : (flashMod f s).pending = s.pending := rfl
@[simp] theorem flashMod_free (f : Flash → Flash) (s : State) : (flashMod f s).free = s.free := rfl
@[simp] theorem flashMod_power (f : Flash → Flash) (s : State) : (flashMod f s).power = s.power := rfl
@[simp] theorem flashMod_time (f : Flash → Flash) (s : State) : (flashMod f s).time = s.time := rfl
@[simp] theorem flashMod_regs (f : Flash → Flash) (s : State) : (flashMod f s).regs = s.regs := rfl
@[simp] theorem flashMod_timed (f : Flash → Flash) (s : State) : (flashMod f s).timed = s.timed := rfl
@[simp] theorem flashMod_flash (f : Flash → Flash) (s : State) :
    (flashMod f s).flash = f s.flash := rfl
@[simp] theorem flashMod_sump (f : Flash → Flash) (s : State) : (flashMod f s).sump = s.sump := rfl
@[simp] theorem flashMod_prot (f : Flash → Flash) (s : State) : (flashMod f s).prot = s.prot := rfl
@[simp] theorem flashMod_wear (f : Flash → Flash) (s : State) : (flashMod f s).wear = s.wear := rfl
@[simp] theorem flashMod_test (f : Flash → Flash) (s : State) : (flashMod f s).test = s.test := rfl
@[simp] theorem flashMod_hif (f : Flash → Flash) (s : State) : (flashMod f s).hif = s.hif := rfl
@[simp] theorem flashMod_pcie (f : Flash → Flash) (s : State) : (flashMod f s).pcie = s.pcie := rfl
@[simp] theorem flashMod_tun (f : Flash → Flash) (s : State) : (flashMod f s).tun = s.tun := rfl
@[simp] theorem flashMod_dma (f : Flash → Flash) (s : State) : (flashMod f s).dma = s.dma := rfl
@[simp] theorem flashMod_dmaWait (f : Flash → Flash) (s : State) : (flashMod f s).dmaWait = s.dmaWait := rfl
@[simp] theorem flashMod_localMem (f : Flash → Flash) (s : State) : (flashMod f s).localMem = s.localMem := rfl
@[simp] theorem flashMod_tunMem (f : Flash → Flash) (s : State) : (flashMod f s).tunMem = s.tunMem := rfl
@[simp] theorem flashMod_links (f : Flash → Flash) (s : State) : (flashMod f s).links = s.links := rfl
@[simp] theorem flashMod_node (f : Flash → Flash) (s : State) : (flashMod f s).node = s.node := rfl
@[simp] theorem flashMod_surveys (f : Flash → Flash) (s : State) : (flashMod f s).surveys = s.surveys := rfl
@[simp] theorem flashMod_linkQueries (f : Flash → Flash) (s : State) : (flashMod f s).linkQueries = s.linkQueries := rfl
@[simp] theorem flashMod_router (f : Flash → Flash) (s : State) : (flashMod f s).router = s.router := rfl
@[simp] theorem flashMod_tiles (f : Flash → Flash) (s : State) : (flashMod f s).tiles = s.tiles := rfl
@[simp] theorem flashMod_limits (f : Flash → Flash) (s : State) : (flashMod f s).limits = s.limits := rfl
@[simp] theorem flashMod_mem (f : Flash → Flash) (s : State) : (flashMod f s).mem = s.mem := rfl
@[simp] theorem flashMod_fabric (f : Flash → Flash) (s : State) : (flashMod f s).fabric = s.fabric := rfl
@[simp] theorem flashMod_clock (f : Flash → Flash) (s : State) : (flashMod f s).clock = s.clock := rfl
@[simp] theorem flashMod_net (f : Flash → Flash) (s : State) : (flashMod f s).net = s.net := rfl
@[simp] theorem flashMod_ports (f : Flash → Flash) (s : State) : (flashMod f s).ports = s.ports := rfl
@[simp] theorem flashMod_ps (f : Flash → Flash) (s : State) : (flashMod f s).ps = s.ps := rfl
@[simp] theorem flashMod_mb (f : Flash → Flash) (s : State) : (flashMod f s).mb = s.mb := rfl
@[simp] theorem flashMod_scratch (f : Flash → Flash) (s : State) : (flashMod f s).scratch = s.scratch := rfl

/-! ### hifMod -/

@[simp] theorem hifMod_pending (f : HostIf → HostIf) (s : State) : (hifMod f s).pending = s.pending := rfl
@[simp] theorem hifMod_free (f : HostIf → HostIf) (s : State) : (hifMod f s).free = s.free := rfl
@[simp] theorem hifMod_power (f : HostIf → HostIf) (s : State) : (hifMod f s).power = s.power := rfl
@[simp] theorem hifMod_time (f : HostIf → HostIf) (s : State) : (hifMod f s).time = s.time := rfl
@[simp] theorem hifMod_regs (f : HostIf → HostIf) (s : State) : (hifMod f s).regs = s.regs := rfl
@[simp] theorem hifMod_timed (f : HostIf → HostIf) (s : State) : (hifMod f s).timed = s.timed := rfl
@[simp] theorem hifMod_flash (f : HostIf → HostIf) (s : State) : (hifMod f s).flash = s.flash := rfl
@[simp] theorem hifMod_sump (f : HostIf → HostIf) (s : State) : (hifMod f s).sump = s.sump := rfl
@[simp] theorem hifMod_prot (f : HostIf → HostIf) (s : State) : (hifMod f s).prot = s.prot := rfl
@[simp] theorem hifMod_wear (f : HostIf → HostIf) (s : State) : (hifMod f s).wear = s.wear := rfl
@[simp] theorem hifMod_test (f : HostIf → HostIf) (s : State) : (hifMod f s).test = s.test := rfl
@[simp] theorem hifMod_hif (f : HostIf → HostIf) (s : State) :
    (hifMod f s).hif = f s.hif := rfl
@[simp] theorem hifMod_pcie (f : HostIf → HostIf) (s : State) : (hifMod f s).pcie = s.pcie := rfl
@[simp] theorem hifMod_tun (f : HostIf → HostIf) (s : State) : (hifMod f s).tun = s.tun := rfl
@[simp] theorem hifMod_dma (f : HostIf → HostIf) (s : State) : (hifMod f s).dma = s.dma := rfl
@[simp] theorem hifMod_dmaWait (f : HostIf → HostIf) (s : State) : (hifMod f s).dmaWait = s.dmaWait := rfl
@[simp] theorem hifMod_localMem (f : HostIf → HostIf) (s : State) : (hifMod f s).localMem = s.localMem := rfl
@[simp] theorem hifMod_tunMem (f : HostIf → HostIf) (s : State) : (hifMod f s).tunMem = s.tunMem := rfl
@[simp] theorem hifMod_links (f : HostIf → HostIf) (s : State) : (hifMod f s).links = s.links := rfl
@[simp] theorem hifMod_node (f : HostIf → HostIf) (s : State) : (hifMod f s).node = s.node := rfl
@[simp] theorem hifMod_surveys (f : HostIf → HostIf) (s : State) : (hifMod f s).surveys = s.surveys := rfl
@[simp] theorem hifMod_linkQueries (f : HostIf → HostIf) (s : State) : (hifMod f s).linkQueries = s.linkQueries := rfl
@[simp] theorem hifMod_router (f : HostIf → HostIf) (s : State) : (hifMod f s).router = s.router := rfl
@[simp] theorem hifMod_tiles (f : HostIf → HostIf) (s : State) : (hifMod f s).tiles = s.tiles := rfl
@[simp] theorem hifMod_limits (f : HostIf → HostIf) (s : State) : (hifMod f s).limits = s.limits := rfl
@[simp] theorem hifMod_mem (f : HostIf → HostIf) (s : State) : (hifMod f s).mem = s.mem := rfl
@[simp] theorem hifMod_fabric (f : HostIf → HostIf) (s : State) : (hifMod f s).fabric = s.fabric := rfl
@[simp] theorem hifMod_clock (f : HostIf → HostIf) (s : State) : (hifMod f s).clock = s.clock := rfl
@[simp] theorem hifMod_net (f : HostIf → HostIf) (s : State) : (hifMod f s).net = s.net := rfl
@[simp] theorem hifMod_ports (f : HostIf → HostIf) (s : State) : (hifMod f s).ports = s.ports := rfl
@[simp] theorem hifMod_ps (f : HostIf → HostIf) (s : State) : (hifMod f s).ps = s.ps := rfl
@[simp] theorem hifMod_mb (f : HostIf → HostIf) (s : State) : (hifMod f s).mb = s.mb := rfl
@[simp] theorem hifMod_scratch (f : HostIf → HostIf) (s : State) : (hifMod f s).scratch = s.scratch := rfl

/-! ### dmaMod -/

@[simp] theorem dmaMod_pending (d : Fin 32) (f : DmaCh → DmaCh) (s : State) : (dmaMod d f s).pending = s.pending := rfl
@[simp] theorem dmaMod_free (d : Fin 32) (f : DmaCh → DmaCh) (s : State) : (dmaMod d f s).free = s.free := rfl
@[simp] theorem dmaMod_power (d : Fin 32) (f : DmaCh → DmaCh) (s : State) : (dmaMod d f s).power = s.power := rfl
@[simp] theorem dmaMod_time (d : Fin 32) (f : DmaCh → DmaCh) (s : State) : (dmaMod d f s).time = s.time := rfl
@[simp] theorem dmaMod_regs (d : Fin 32) (f : DmaCh → DmaCh) (s : State) : (dmaMod d f s).regs = s.regs := rfl
@[simp] theorem dmaMod_timed (d : Fin 32) (f : DmaCh → DmaCh) (s : State) : (dmaMod d f s).timed = s.timed := rfl
@[simp] theorem dmaMod_flash (d : Fin 32) (f : DmaCh → DmaCh) (s : State) : (dmaMod d f s).flash = s.flash := rfl
@[simp] theorem dmaMod_sump (d : Fin 32) (f : DmaCh → DmaCh) (s : State) : (dmaMod d f s).sump = s.sump := rfl
@[simp] theorem dmaMod_prot (d : Fin 32) (f : DmaCh → DmaCh) (s : State) : (dmaMod d f s).prot = s.prot := rfl
@[simp] theorem dmaMod_wear (d : Fin 32) (f : DmaCh → DmaCh) (s : State) : (dmaMod d f s).wear = s.wear := rfl
@[simp] theorem dmaMod_test (d : Fin 32) (f : DmaCh → DmaCh) (s : State) : (dmaMod d f s).test = s.test := rfl
@[simp] theorem dmaMod_hif (d : Fin 32) (f : DmaCh → DmaCh) (s : State) : (dmaMod d f s).hif = s.hif := rfl
@[simp] theorem dmaMod_pcie (d : Fin 32) (f : DmaCh → DmaCh) (s : State) : (dmaMod d f s).pcie = s.pcie := rfl
@[simp] theorem dmaMod_tun (d : Fin 32) (f : DmaCh → DmaCh) (s : State) : (dmaMod d f s).tun = s.tun := rfl
@[simp] theorem dmaMod_dma (d : Fin 32) (f : DmaCh → DmaCh) (s : State) :
    (dmaMod d f s).dma = vmod s.dma d f := rfl
@[simp] theorem dmaMod_dmaWait (d : Fin 32) (f : DmaCh → DmaCh) (s : State) : (dmaMod d f s).dmaWait = s.dmaWait := rfl
@[simp] theorem dmaMod_localMem (d : Fin 32) (f : DmaCh → DmaCh) (s : State) : (dmaMod d f s).localMem = s.localMem := rfl
@[simp] theorem dmaMod_tunMem (d : Fin 32) (f : DmaCh → DmaCh) (s : State) : (dmaMod d f s).tunMem = s.tunMem := rfl
@[simp] theorem dmaMod_links (d : Fin 32) (f : DmaCh → DmaCh) (s : State) : (dmaMod d f s).links = s.links := rfl
@[simp] theorem dmaMod_node (d : Fin 32) (f : DmaCh → DmaCh) (s : State) : (dmaMod d f s).node = s.node := rfl
@[simp] theorem dmaMod_surveys (d : Fin 32) (f : DmaCh → DmaCh) (s : State) : (dmaMod d f s).surveys = s.surveys := rfl
@[simp] theorem dmaMod_linkQueries (d : Fin 32) (f : DmaCh → DmaCh) (s : State) : (dmaMod d f s).linkQueries = s.linkQueries := rfl
@[simp] theorem dmaMod_router (d : Fin 32) (f : DmaCh → DmaCh) (s : State) : (dmaMod d f s).router = s.router := rfl
@[simp] theorem dmaMod_tiles (d : Fin 32) (f : DmaCh → DmaCh) (s : State) : (dmaMod d f s).tiles = s.tiles := rfl
@[simp] theorem dmaMod_limits (d : Fin 32) (f : DmaCh → DmaCh) (s : State) : (dmaMod d f s).limits = s.limits := rfl
@[simp] theorem dmaMod_mem (d : Fin 32) (f : DmaCh → DmaCh) (s : State) : (dmaMod d f s).mem = s.mem := rfl
@[simp] theorem dmaMod_fabric (d : Fin 32) (f : DmaCh → DmaCh) (s : State) : (dmaMod d f s).fabric = s.fabric := rfl
@[simp] theorem dmaMod_clock (d : Fin 32) (f : DmaCh → DmaCh) (s : State) : (dmaMod d f s).clock = s.clock := rfl
@[simp] theorem dmaMod_net (d : Fin 32) (f : DmaCh → DmaCh) (s : State) : (dmaMod d f s).net = s.net := rfl
@[simp] theorem dmaMod_ports (d : Fin 32) (f : DmaCh → DmaCh) (s : State) : (dmaMod d f s).ports = s.ports := rfl
@[simp] theorem dmaMod_ps (d : Fin 32) (f : DmaCh → DmaCh) (s : State) : (dmaMod d f s).ps = s.ps := rfl
@[simp] theorem dmaMod_mb (d : Fin 32) (f : DmaCh → DmaCh) (s : State) : (dmaMod d f s).mb = s.mb := rfl
@[simp] theorem dmaMod_scratch (d : Fin 32) (f : DmaCh → DmaCh) (s : State) : (dmaMod d f s).scratch = s.scratch := rfl

/-! ### tunMod -/

@[simp] theorem tunMod_pending (f : Tunnel → Tunnel) (s : State) : (tunMod f s).pending = s.pending := rfl
@[simp] theorem tunMod_free (f : Tunnel → Tunnel) (s : State) : (tunMod f s).free = s.free := rfl
@[simp] theorem tunMod_power (f : Tunnel → Tunnel) (s : State) : (tunMod f s).power = s.power := rfl
@[simp] theorem tunMod_time (f : Tunnel → Tunnel) (s : State) : (tunMod f s).time = s.time := rfl
@[simp] theorem tunMod_regs (f : Tunnel → Tunnel) (s : State) : (tunMod f s).regs = s.regs := rfl
@[simp] theorem tunMod_timed (f : Tunnel → Tunnel) (s : State) : (tunMod f s).timed = s.timed := rfl
@[simp] theorem tunMod_flash (f : Tunnel → Tunnel) (s : State) : (tunMod f s).flash = s.flash := rfl
@[simp] theorem tunMod_sump (f : Tunnel → Tunnel) (s : State) : (tunMod f s).sump = s.sump := rfl
@[simp] theorem tunMod_prot (f : Tunnel → Tunnel) (s : State) : (tunMod f s).prot = s.prot := rfl
@[simp] theorem tunMod_wear (f : Tunnel → Tunnel) (s : State) : (tunMod f s).wear = s.wear := rfl
@[simp] theorem tunMod_test (f : Tunnel → Tunnel) (s : State) : (tunMod f s).test = s.test := rfl
@[simp] theorem tunMod_hif (f : Tunnel → Tunnel) (s : State) : (tunMod f s).hif = s.hif := rfl
@[simp] theorem tunMod_pcie (f : Tunnel → Tunnel) (s : State) : (tunMod f s).pcie = s.pcie := rfl
@[simp] theorem tunMod_tun (f : Tunnel → Tunnel) (s : State) :
    (tunMod f s).tun = f s.tun := rfl
@[simp] theorem tunMod_dma (f : Tunnel → Tunnel) (s : State) : (tunMod f s).dma = s.dma := rfl
@[simp] theorem tunMod_dmaWait (f : Tunnel → Tunnel) (s : State) : (tunMod f s).dmaWait = s.dmaWait := rfl
@[simp] theorem tunMod_localMem (f : Tunnel → Tunnel) (s : State) : (tunMod f s).localMem = s.localMem := rfl
@[simp] theorem tunMod_tunMem (f : Tunnel → Tunnel) (s : State) : (tunMod f s).tunMem = s.tunMem := rfl
@[simp] theorem tunMod_links (f : Tunnel → Tunnel) (s : State) : (tunMod f s).links = s.links := rfl
@[simp] theorem tunMod_node (f : Tunnel → Tunnel) (s : State) : (tunMod f s).node = s.node := rfl
@[simp] theorem tunMod_surveys (f : Tunnel → Tunnel) (s : State) : (tunMod f s).surveys = s.surveys := rfl
@[simp] theorem tunMod_linkQueries (f : Tunnel → Tunnel) (s : State) : (tunMod f s).linkQueries = s.linkQueries := rfl
@[simp] theorem tunMod_router (f : Tunnel → Tunnel) (s : State) : (tunMod f s).router = s.router := rfl
@[simp] theorem tunMod_tiles (f : Tunnel → Tunnel) (s : State) : (tunMod f s).tiles = s.tiles := rfl
@[simp] theorem tunMod_limits (f : Tunnel → Tunnel) (s : State) : (tunMod f s).limits = s.limits := rfl
@[simp] theorem tunMod_mem (f : Tunnel → Tunnel) (s : State) : (tunMod f s).mem = s.mem := rfl
@[simp] theorem tunMod_fabric (f : Tunnel → Tunnel) (s : State) : (tunMod f s).fabric = s.fabric := rfl
@[simp] theorem tunMod_clock (f : Tunnel → Tunnel) (s : State) : (tunMod f s).clock = s.clock := rfl
@[simp] theorem tunMod_net (f : Tunnel → Tunnel) (s : State) : (tunMod f s).net = s.net := rfl
@[simp] theorem tunMod_ports (f : Tunnel → Tunnel) (s : State) : (tunMod f s).ports = s.ports := rfl
@[simp] theorem tunMod_ps (f : Tunnel → Tunnel) (s : State) : (tunMod f s).ps = s.ps := rfl
@[simp] theorem tunMod_mb (f : Tunnel → Tunnel) (s : State) : (tunMod f s).mb = s.mb := rfl
@[simp] theorem tunMod_scratch (f : Tunnel → Tunnel) (s : State) : (tunMod f s).scratch = s.scratch := rfl

/-! ### mbMod -/

@[simp] theorem mbMod_pending (n : Fin 2) (f : MbBus → MbBus) (s : State) : (mbMod n f s).pending = s.pending := rfl
@[simp] theorem mbMod_free (n : Fin 2) (f : MbBus → MbBus) (s : State) : (mbMod n f s).free = s.free := rfl
@[simp] theorem mbMod_power (n : Fin 2) (f : MbBus → MbBus) (s : State) : (mbMod n f s).power = s.power := rfl
@[simp] theorem mbMod_time (n : Fin 2) (f : MbBus → MbBus) (s : State) : (mbMod n f s).time = s.time := rfl
@[simp] theorem mbMod_regs (n : Fin 2) (f : MbBus → MbBus) (s : State) : (mbMod n f s).regs = s.regs := rfl
@[simp] theorem mbMod_timed (n : Fin 2) (f : MbBus → MbBus) (s : State) : (mbMod n f s).timed = s.timed := rfl
@[simp] theorem mbMod_flash (n : Fin 2) (f : MbBus → MbBus) (s : State) : (mbMod n f s).flash = s.flash := rfl
@[simp] theorem mbMod_sump (n : Fin 2) (f : MbBus → MbBus) (s : State) : (mbMod n f s).sump = s.sump := rfl
@[simp] theorem mbMod_prot (n : Fin 2) (f : MbBus → MbBus) (s : State) : (mbMod n f s).prot = s.prot := rfl
@[simp] theorem mbMod_wear (n : Fin 2) (f : MbBus → MbBus) (s : State) : (mbMod n f s).wear = s.wear := rfl
@[simp] theorem mbMod_test (n : Fin 2) (f : MbBus → MbBus) (s : State) : (mbMod n f s).test = s.test := rfl
@[simp] theorem mbMod_hif (n : Fin 2) (f : MbBus → MbBus) (s : State) : (mbMod n f s).hif = s.hif := rfl
@[simp] theorem mbMod_pcie (n : Fin 2) (f : MbBus → MbBus) (s : State) : (mbMod n f s).pcie = s.pcie := rfl
@[simp] theorem mbMod_tun (n : Fin 2) (f : MbBus → MbBus) (s : State) : (mbMod n f s).tun = s.tun := rfl
@[simp] theorem mbMod_dma (n : Fin 2) (f : MbBus → MbBus) (s : State) : (mbMod n f s).dma = s.dma := rfl
@[simp] theorem mbMod_dmaWait (n : Fin 2) (f : MbBus → MbBus) (s : State) : (mbMod n f s).dmaWait = s.dmaWait := rfl
@[simp] theorem mbMod_localMem (n : Fin 2) (f : MbBus → MbBus) (s : State) : (mbMod n f s).localMem = s.localMem := rfl
@[simp] theorem mbMod_tunMem (n : Fin 2) (f : MbBus → MbBus) (s : State) : (mbMod n f s).tunMem = s.tunMem := rfl
@[simp] theorem mbMod_links (n : Fin 2) (f : MbBus → MbBus) (s : State) : (mbMod n f s).links = s.links := rfl
@[simp] theorem mbMod_node (n : Fin 2) (f : MbBus → MbBus) (s : State) : (mbMod n f s).node = s.node := rfl
@[simp] theorem mbMod_surveys (n : Fin 2) (f : MbBus → MbBus) (s : State) : (mbMod n f s).surveys = s.surveys := rfl
@[simp] theorem mbMod_linkQueries (n : Fin 2) (f : MbBus → MbBus) (s : State) : (mbMod n f s).linkQueries = s.linkQueries := rfl
@[simp] theorem mbMod_router (n : Fin 2) (f : MbBus → MbBus) (s : State) : (mbMod n f s).router = s.router := rfl
@[simp] theorem mbMod_tiles (n : Fin 2) (f : MbBus → MbBus) (s : State) : (mbMod n f s).tiles = s.tiles := rfl
@[simp] theorem mbMod_limits (n : Fin 2) (f : MbBus → MbBus) (s : State) : (mbMod n f s).limits = s.limits := rfl
@[simp] theorem mbMod_mem (n : Fin 2) (f : MbBus → MbBus) (s : State) : (mbMod n f s).mem = s.mem := rfl
@[simp] theorem mbMod_fabric (n : Fin 2) (f : MbBus → MbBus) (s : State) : (mbMod n f s).fabric = s.fabric := rfl
@[simp] theorem mbMod_clock (n : Fin 2) (f : MbBus → MbBus) (s : State) : (mbMod n f s).clock = s.clock := rfl
@[simp] theorem mbMod_net (n : Fin 2) (f : MbBus → MbBus) (s : State) : (mbMod n f s).net = s.net := rfl
@[simp] theorem mbMod_ports (n : Fin 2) (f : MbBus → MbBus) (s : State) : (mbMod n f s).ports = s.ports := rfl
@[simp] theorem mbMod_ps (n : Fin 2) (f : MbBus → MbBus) (s : State) : (mbMod n f s).ps = s.ps := rfl
@[simp] theorem mbMod_mb (n : Fin 2) (f : MbBus → MbBus) (s : State) :
    (mbMod n f s).mb = vmod s.mb n f := rfl
@[simp] theorem mbMod_scratch (n : Fin 2) (f : MbBus → MbBus) (s : State) : (mbMod n f s).scratch = s.scratch := rfl

end Sys2Proof.Machine
end

