-- ==== Sys2Proof/Laws/Ops.lean ====
section
/-!
SUPPORT. What the shared operations of a host command do: which descriptors are taken, run, refused or held.
-/
namespace Sys2Proof.Machine

variable {h : CmdHdr} {bad : Bool} {run : Ticket → State → State} {s : State}
variable {tick : BitVec 64} {refuse : State → Option (Nat × Nat)} {pre : Nat → Ticket → State → State} {act : Action}

/-- `t` differs from `s` only in the hosts' memories and the PCIe endpoint. -/
def HostSide (s t : State) : Prop := ∃ a b p, t = { s with localMem := a, tunMem := b, pcie := p }

theorem HostSide.refl (s : State) : HostSide s s := ⟨_, _, _, rfl⟩

theorem HostSide.trans {s t u : State} (h1 : HostSide s t) (h2 : HostSide t u) : HostSide s u := by
  obtain ⟨a, b, p, rfl⟩ := h1
  obtain ⟨a', b', p', rfl⟩ := h2
  exact ⟨a', b', p', rfl⟩

theorem HostSide.foldl {β : Type} {g : State → β → State} (hg : ∀ s x, HostSide s (g s x)) :
    ∀ (l : List β) (s : State), HostSide s (l.foldl g s)
  | [], s => HostSide.refl s
  | x :: l, s => (hg s x).trans (HostSide.foldl hg l (g s x))

theorem hostSide_msixRaise (v : Nat) (s : State) : HostSide s (msixRaise v s) := by
  unfold msixRaise
  split
  · exact HostSide.refl s
  · split <;> exact ⟨_, _, _, rfl⟩

theorem hostSide_msixMod (v : Fin 64) (f : MsixEntry → MsixEntry) (s : State) : HostSide s (msixMod v f s) := by
  unfold msixMod
  dsimp only
  split
  · exact HostSide.trans ⟨_, _, _, rfl⟩ (hostSide_msixRaise _ _)
  · exact ⟨_, _, _, rfl⟩

theorem hostSide_bar2Store (off : Nat) (bs : List Byte) (s : State) : HostSide s (bar2Store off bs s) := by
  unfold bar2Store
  split
  · exact HostSide.refl s
  · refine HostSide.foldl (fun s i => ?_) _ s
    unfold msixWord
    split
    · exact HostSide.refl s
    · split
      · exact HostSide.refl s
      · split <;> exact hostSide_msixMod _ _ _

/-- The host's stores write only the memory of the ring owner's host and the endpoint's MSI-X table. -/
theorem hostSide_hostStores (l : List HostStore) (s : State) : HostSide s (hostStores l s) := by
  refine HostSide.foldl (fun s x => ?_) l s
  split
  · exact hostSide_bar2Store _ _ _
  · unfold setHostMem; split <;> exact ⟨_, _, _, rfl⟩

theorem hostStores_eq (l : List HostStore) (s : State) :
    hostStores l s = { s with localMem := (hostStores l s).localMem, tunMem := (hostStores l s).tunMem,
                              pcie := (hostStores l s).pcie } := by
  obtain ⟨a, b, p, e⟩ := hostSide_hostStores l s
  rw [e]

/-- Taking a descriptor changes the host interface, the owner's memory and the MSI-X table, nothing else. -/
theorem takenState_eq (h : CmdHdr) (s : State) :
    takenState h s = { s with hif := (takenState h s).hif, localMem := (takenState h s).localMem,
                              tunMem := (takenState h s).tunMem, pcie := (takenState h s).pcie } := by
  obtain ⟨a, b, p, e⟩ := hostSide_hostStores h.stores s
  unfold takenState accept; rw [e]

/-- The tick field reads the time alone. -/
theorem schedule_takenState (f : BitVec 64) (h : CmdHdr) (s : State) : schedule f (takenState h s) = schedule f s := by
  rw [takenState_eq]; rfl

theorem takenCmd_run {timed : Bool} (ht : Taken h timed s) (hb : bad = false) :
    takenCmd timed h bad run s = run (ticketOf h s) (takenState h s) := by
  subst hb
  simp only [takenCmd, ht.1, ht.2, if_true, Bool.or_false, Bool.false_eq_true, if_false]; rfl

theorem takenCmd_bad {timed : Bool} (ht : takeable h.ring h.ordered timed (hostStores h.stores s) = true)
    (hb : h.reservedSet = true ∨ bad = true) :
    takenCmd timed h bad run s = complete (ticketOf h s) St.badArg 0 (takenState h s) := by
  have : (h.reservedSet || bad) = true := by simpa using hb
  simp only [takenCmd, ht, this, if_true]; rfl

theorem takenCmd_waits {timed : Bool} (ht : takeable h.ring h.ordered timed (hostStores h.stores s) = false) :
    takenCmd timed h bad run s = hostStores h.stores s := by
  simp [takenCmd, ht]

theorem untimedCmd_run (ht : Taken h false s) (hb : bad = false) :
    untimedCmd h bad run s = run (ticketOf h s) (takenState h s) := takenCmd_run ht hb

theorem untimedCmd_bad (ht : takeable h.ring h.ordered false (hostStores h.stores s) = true)
    (hb : h.reservedSet = true ∨ bad = true) :
    untimedCmd h bad run s = complete (ticketOf h s) St.badArg 0 (takenState h s) := takenCmd_bad ht hb

theorem untimedCmd_waits (ht : takeable h.ring h.ordered false (hostStores h.stores s) = false) :
    untimedCmd h bad run s = hostStores h.stores s := takenCmd_waits ht

theorem timedCmd_held {n : Nat} {late : Bool} (ht : Taken h true s) (hb : bad = false) (hs : schedule tick s = some (n, late))
    (hr : refuse (takenState h s) = none) :
    timedCmd h tick bad refuse pre act s =
      hold n (ticketOf h s) late act (pre n { ticketOf h s with late := late } (takenState h s)) := by
  subst hb
  rw [← schedule_takenState tick h] at hs
  unfold takenState at hs hr
  simp only [timedCmd, ht.1, ht.2, if_true, Bool.or_false, Bool.false_eq_true, if_false, hs, hr]; rfl

theorem timedCmd_refused {n st sp : Nat} {late : Bool} (ht : Taken h true s) (hb : bad = false)
    (hs : schedule tick s = some (n, late)) (hr : refuse (takenState h s) = some (st, sp)) :
    timedCmd h tick bad refuse pre act s = complete (ticketOf h s) st sp (takenState h s) := by
  subst hb
  rw [← schedule_takenState tick h] at hs
  unfold takenState at hs hr
  simp only [timedCmd, ht.1, ht.2, if_true, Bool.or_false, Bool.false_eq_true, if_false, hs, hr]; rfl

theorem timedCmd_bad (ht : takeable h.ring h.ordered true (hostStores h.stores s) = true)
    (hb : h.reservedSet = true ∨ bad = true ∨ schedule tick s = none) :
    timedCmd h tick bad refuse pre act s = complete (ticketOf h s) St.badArg 0 (takenState h s) := by
  rw [← schedule_takenState tick h] at hb
  unfold takenState at hb
  simp only [timedCmd, ht, if_true]
  split
  · rfl
  · next hn =>
    have : schedule tick (accept h (hostStores h.stores s)).2 = none := by
      simp only [Bool.or_eq_true, not_or] at hn
      tauto
    simp only [this]; rfl

theorem timedCmd_waits (ht : takeable h.ring h.ordered true (hostStores h.stores s) = false) :
    timedCmd h tick bad refuse pre act s = hostStores h.stores s := by
  simp [timedCmd, ht]

theorem badTimed_taken (ht : takeable h.ring h.ordered true (hostStores h.stores s) = true) :
    badTimed h s = complete (ticketOf h s) St.badArg 0 (takenState h s) := by
  simp only [badTimed, ht, if_true]; rfl

/-- With nothing left to settle, settling changes nothing. -/
theorem settleN_eq (h : (s.sump.fences.all fun f => f.2) = true) : ∀ k, settleN k s = s
  | 0 => rfl
  | k + 1 => by
    have : (s.sump.fences.find? fun f => !f.2) = none := by
      simpa [List.find?_eq_none] using h
    simp [settleN, this]

/-- With no partner to tell of a change, nothing is told. -/
theorem tellPartners_eq (h : (fins 16).any (discoverStale s) = false) : tellPartners s = s := by
  have key : ∀ l : List (Fin 16), l.any (discoverStale s) = false →
      l.foldl (fun s (n : Fin 16) => if discoverStale s n then sendDiscover n s else s) s = s := by
    intro l
    induction l with
    | nil => intro _; rfl
    | cons n l ih =>
      intro hl
      simp only [List.any_cons, Bool.or_eq_false_iff] at hl
      simpa only [List.foldl_cons, hl.1, Bool.false_eq_true, if_false] using ih hl.2
  exact key _ h

theorem settle_eq (h : Settled s) : settle s = s := by
  simp [settle, settleN_eq h.1, h.2.1, tellPartners_eq h.2.2]

end Sys2Proof.Machine
end

