-- ==== Sys2Proof/Laws/Outer.lean ====
section
/-!
SUPPORT. The frame of the shared operations: raising a fault, reporting, completing a command, writing a register or host memory
and queueing a cell leave every block's own state as it is.
-/
namespace Sys2Proof.Machine

/-- `s` agrees with `c` on the state the shared operations do not write: all but the register file, the Sump, the host interface,
PCIe, the tunnel, the hosts' memories, the link queues, the node's sequence number, the late flag and the free-value counter. -/
def Outer (c s : State) : Prop :=
  s.power = c.power ∧ s.time = c.time ∧ s.timed = c.timed ∧ s.flash = c.flash ∧ s.prot = c.prot ∧ s.wear = c.wear ∧ s.test = c.test ∧ s.dma = c.dma ∧ s.dmaWait = c.dmaWait ∧ s.surveys = c.surveys ∧ s.linkQueries = c.linkQueries ∧ s.router = c.router ∧ s.tiles = c.tiles ∧ s.limits = c.limits ∧ s.mem = c.mem ∧ s.clock = c.clock ∧ s.net = c.net ∧ s.ports = c.ports ∧ s.ps = c.ps ∧ s.mb = c.mb ∧ s.scratch = c.scratch ∧ s.pending = c.pending

theorem Outer.refl (s : State) : Outer s s := by simp [Outer]

theorem Outer.trans {a b d : State} (h1 : Outer a b) (h2 : Outer b d) : Outer a d := by
  unfold Outer at *
  simp only [h2, h1, and_self]

theorem Outer.power {c s : State} (h : Outer c s) : s.power = c.power := by unfold Outer at h; tauto
theorem Outer.time {c s : State} (h : Outer c s) : s.time = c.time := by unfold Outer at h; tauto
theorem Outer.timed {c s : State} (h : Outer c s) : s.timed = c.timed := by unfold Outer at h; tauto
theorem Outer.flash {c s : State} (h : Outer c s) : s.flash = c.flash := by unfold Outer at h; tauto
theorem Outer.prot {c s : State} (h : Outer c s) : s.prot = c.prot := by unfold Outer at h; tauto
theorem Outer.wear {c s : State} (h : Outer c s) : s.wear = c.wear := by unfold Outer at h; tauto
theorem Outer.test {c s : State} (h : Outer c s) : s.test = c.test := by unfold Outer at h; tauto
theorem Outer.dma {c s : State} (h : Outer c s) : s.dma = c.dma := by unfold Outer at h; tauto
theorem Outer.dmaWait {c s : State} (h : Outer c s) : s.dmaWait = c.dmaWait := by unfold Outer at h; tauto
theorem Outer.surveys {c s : State} (h : Outer c s) : s.surveys = c.surveys := by unfold Outer at h; tauto
theorem Outer.linkQueries {c s : State} (h : Outer c s) : s.linkQueries = c.linkQueries := by unfold Outer at h; tauto
theorem Outer.router {c s : State} (h : Outer c s) : s.router = c.router := by unfold Outer at h; tauto
theorem Outer.tiles {c s : State} (h : Outer c s) : s.tiles = c.tiles := by unfold Outer at h; tauto
theorem Outer.limits {c s : State} (h : Outer c s) : s.limits = c.limits := by unfold Outer at h; tauto
theorem Outer.mem {c s : State} (h : Outer c s) : s.mem = c.mem := by unfold Outer at h; tauto
theorem Outer.clock {c s : State} (h : Outer c s) : s.clock = c.clock := by unfold Outer at h; tauto
theorem Outer.net {c s : State} (h : Outer c s) : s.net = c.net := by unfold Outer at h; tauto
theorem Outer.ports {c s : State} (h : Outer c s) : s.ports = c.ports := by unfold Outer at h; tauto
theorem Outer.ps {c s : State} (h : Outer c s) : s.ps = c.ps := by unfold Outer at h; tauto
theorem Outer.mb {c s : State} (h : Outer c s) : s.mb = c.mb := by unfold Outer at h; tauto
theorem Outer.scratch {c s : State} (h : Outer c s) : s.scratch = c.scratch := by unfold Outer at h; tauto
theorem Outer.pending {c s : State} (h : Outer c s) : s.pending = c.pending := by unfold Outer at h; tauto

theorem outer_mk {c : State} {x0 x1 x2 x3 x4 x5 x6 x7 x8 x9 x10 x11 x12 x13 x14 x15 x16 x17 x18 x19 x20 x21 x22 x23 x24 x25 x26 x27 x28 x29 x30 x31 x32} :
    Outer c (State.mk x0 x1 x2 x3 x4 x5 x6 x7 x8 x9 x10 x11 x12 x13 x14 x15 x16 x17 x18 x19 x20 x21 x22 x23 x24 x25 x26 x27 x28 x29 x30 x31 x32) ↔
      x2 = c.power ∧ x3 = c.time ∧ x5 = c.timed ∧ x6 = c.flash ∧ x8 = c.prot ∧ x9 = c.wear ∧ x10 = c.test ∧ x14 = c.dma ∧ x15 = c.dmaWait ∧ x20 = c.surveys ∧ x21 = c.linkQueries ∧ x22 = c.router ∧ x23 = c.tiles ∧ x24 = c.limits ∧ x25 = c.mem ∧ x27 = c.clock ∧ x28 = c.net ∧ x29 = c.ports ∧ x30 = c.ps ∧ x31 = c.mb ∧ x32 = c.scratch ∧ x0 = c.pending := Iff.rfl

theorem outer_foldl {c : State} {β : Type} {g : State → β → State} (hg : ∀ s x, Outer c s → Outer c (g s x)) (l : List β) :
    ∀ {s}, Outer c s → Outer c (l.foldl g s) := by
  induction l with
  | nil => intro s h; exact h
  | cons x l ih => intro s h; exact ih (hg _ _ h)

theorem outer_foldl_snd {c : State} {β γ : Type} {g : γ × State → β → γ × State}
    (hg : ∀ a x, Outer c a.2 → Outer c (g a x).2) (l : List β) : ∀ {a}, Outer c a.2 → Outer c (l.foldl g a).2 := by
  induction l with
  | nil => intro s h; exact h
  | cons x l ih => intro s h; exact ih (hg _ _ h)

theorem outer_regSet (off : Nat) (v : Word) (s : State) {cc : State}
    (hk : Outer cc s) : Outer cc (regSet off v s) := by
  unfold regSet
  repeat' first
    | with_reducible assumption
    | with_reducible refine outer_foldl (fun _ _ _ => ?_) _ ?_
    | with_reducible refine outer_foldl_snd (fun _ _ _ => ?_) _ ?_
    | with_reducible intro _
    | split
    | dsimp only [id]
    | (simp only [outer_mk]; change Outer cc _)

theorem outer_regMod (off : Nat) (f : Word → Word) (s : State) {cc : State}
    (hk : Outer cc s) : Outer cc (regMod off f s) := by
  unfold regMod
  repeat' first
    | with_reducible assumption
    | with_reducible apply outer_regSet
    | with_reducible refine outer_foldl (fun _ _ _ => ?_) _ ?_
    | with_reducible refine outer_foldl_snd (fun _ _ _ => ?_) _ ?_
    | with_reducible intro _
    | split
    | dsimp only [id]
    | (simp only [outer_mk]; change Outer cc _)

theorem outer_regSetFld (off hi lo v : Nat) (s : State) {cc : State}
    (hk : Outer cc s) : Outer cc (regSetFld off hi lo v s) := by
  unfold regSetFld
  repeat' first
    | with_reducible assumption
    | with_reducible apply outer_regMod
    | with_reducible refine outer_foldl (fun _ _ _ => ?_) _ ?_
    | with_reducible refine outer_foldl_snd (fun _ _ _ => ?_) _ ?_
    | with_reducible intro _
    | split
    | dsimp only [id]
    | (simp only [outer_mk]; change Outer cc _)

theorem outer_bump (off n : Nat) (s : State) {cc : State}
    (hk : Outer cc s) : Outer cc (bump off n s) := by
  unfold bump
  repeat' first
    | with_reducible assumption
    | with_reducible apply outer_regMod
    | with_reducible refine outer_foldl (fun _ _ _ => ?_) _ ?_
    | with_reducible refine outer_foldl_snd (fun _ _ _ => ?_) _ ?_
    | with_reducible intro _
    | split
    | dsimp only [id]
    | (simp only [outer_mk]; change Outer cc _)

theorem outer_bumpFld (off hi lo n : Nat) (s : State) {cc : State}
    (hk : Outer cc s) : Outer cc (bumpFld off hi lo n s) := by
  unfold bumpFld
  repeat' first
    | with_reducible assumption
    | with_reducible apply outer_regMod
    | with_reducible refine outer_foldl (fun _ _ _ => ?_) _ ?_
    | with_reducible refine outer_foldl_snd (fun _ _ _ => ?_) _ ?_
    | with_reducible intro _
    | split
    | dsimp only [id]
    | (simp only [outer_mk]; change Outer cc _)

theorem outer_sticky (off i : Nat) (s : State) {cc : State}
    (hk : Outer cc s) : Outer cc (sticky off i s) := by
  unfold sticky
  repeat' first
    | with_reducible assumption
    | with_reducible apply outer_regMod
    | with_reducible refine outer_foldl (fun _ _ _ => ?_) _ ?_
    | with_reducible refine outer_foldl_snd (fun _ _ _ => ?_) _ ?_
    | with_reducible intro _
    | split
    | dsimp only [id]
    | (simp only [outer_mk]; change Outer cc _)

theorem outer_setHostMem (m : List Host.Cell) (s : State) {cc : State}
    (hk : Outer cc s) : Outer cc (setHostMem m s) := by
  unfold setHostMem
  repeat' first
    | with_reducible assumption
    | with_reducible refine outer_foldl (fun _ _ _ => ?_) _ ?_
    | with_reducible refine outer_foldl_snd (fun _ _ _ => ?_) _ ?_
    | with_reducible intro _
    | split
    | dsimp only [id]
    | (simp only [outer_mk]; change Outer cc _)

theorem outer_msixRaise (v : Nat) (s : State) {cc : State}
    (hk : Outer cc s) : Outer cc (msixRaise v s) := by
  unfold msixRaise
  repeat' first
    | with_reducible assumption
    | with_reducible refine outer_foldl (fun _ _ _ => ?_) _ ?_
    | with_reducible refine outer_foldl_snd (fun _ _ _ => ?_) _ ?_
    | with_reducible intro _
    | split
    | dsimp only [id]
    | (simp only [outer_mk]; change Outer cc _)

theorem outer_msixMod (v : Fin 64) (f : MsixEntry → MsixEntry) (s : State) {cc : State}
    (hk : Outer cc s) : Outer cc (msixMod v f s) := by
  unfold msixMod
  repeat' first
    | with_reducible assumption
    | with_reducible apply outer_msixRaise
    | with_reducible refine outer_foldl (fun _ _ _ => ?_) _ ?_
    | with_reducible refine outer_foldl_snd (fun _ _ _ => ?_) _ ?_
    | with_reducible intro _
    | split
    | dsimp only [id]
    | (simp only [outer_mk]; change Outer cc _)

theorem outer_msixWord (off : Nat) (w : Word) (s : State) {cc : State}
    (hk : Outer cc s) : Outer cc (msixWord off w s) := by
  unfold msixWord
  repeat' first
    | with_reducible assumption
    | with_reducible apply outer_msixMod
    | with_reducible refine outer_foldl (fun _ _ _ => ?_) _ ?_
    | with_reducible refine outer_foldl_snd (fun _ _ _ => ?_) _ ?_
    | with_reducible intro _
    | split
    | dsimp only [id]
    | (simp only [outer_mk]; change Outer cc _)

theorem outer_bar2Store (off : Nat) (bs : List Byte) (s : State) {cc : State}
    (hk : Outer cc s) : Outer cc (bar2Store off bs s) := by
  unfold bar2Store
  repeat' first
    | with_reducible assumption
    | with_reducible apply outer_msixWord
    | with_reducible refine outer_foldl (fun _ _ _ => ?_) _ ?_
    | with_reducible refine outer_foldl_snd (fun _ _ _ => ?_) _ ?_
    | with_reducible intro _
    | split
    | dsimp only [id]
    | (simp only [outer_mk]; change Outer cc _)

theorem outer_hostStores (l : List HostStore) (s : State) {cc : State}
    (hk : Outer cc s) : Outer cc (hostStores l s) := by
  unfold hostStores
  repeat' first
    | with_reducible assumption
    | with_reducible apply outer_bar2Store
    | with_reducible apply outer_setHostMem
    | with_reducible refine outer_foldl (fun _ _ _ => ?_) _ ?_
    | with_reducible refine outer_foldl_snd (fun _ _ _ => ?_) _ ?_
    | with_reducible intro _
    | split
    | dsimp only [id]
    | (simp only [outer_mk]; change Outer cc _)

theorem outer_freshFree (w : Nat) (s : State) {cc : State}
    (hk : Outer cc s) : Outer cc (freshFree w s).2 := by
  unfold freshFree
  repeat' first
    | with_reducible assumption
    | with_reducible refine outer_foldl (fun _ _ _ => ?_) _ ?_
    | with_reducible refine outer_foldl_snd (fun _ _ _ => ?_) _ ?_
    | with_reducible intro _
    | split
    | dsimp only [id]
    | (simp only [outer_mk]; change Outer cc _)

theorem outer_setInst (src inst : Nat) (x : SumpInst) (s : State) {cc : State}
    (hk : Outer cc s) : Outer cc (setInst src inst x s) := by
  unfold setInst
  repeat' first
    | with_reducible assumption
    | with_reducible refine outer_foldl (fun _ _ _ => ?_) _ ?_
    | with_reducible refine outer_foldl_snd (fun _ _ _ => ?_) _ ?_
    | with_reducible intro _
    | split
    | dsimp only [id]
    | (simp only [outer_mk]; change Outer cc _)

theorem outer_report (ty index : Nat) (data : List Byte) (s : State) {cc : State}
    (hk : Outer cc s) : Outer cc (report ty index data s) := by
  unfold report
  repeat' first
    | with_reducible assumption
    | with_reducible refine outer_foldl (fun _ _ _ => ?_) _ ?_
    | with_reducible refine outer_foldl_snd (fun _ _ _ => ?_) _ ?_
    | with_reducible intro _
    | split
    | dsimp only [id]
    | (simp only [outer_mk]; change Outer cc _)

theorem outer_reportNow (ty index : Nat) (data : List Byte) (s : State) {cc : State}
    (hk : Outer cc s) : Outer cc (reportNow ty index data s) := by
  unfold reportNow
  repeat' first
    | with_reducible assumption
    | with_reducible refine outer_foldl (fun _ _ _ => ?_) _ ?_
    | with_reducible refine outer_foldl_snd (fun _ _ _ => ?_) _ ?_
    | with_reducible intro _
    | split
    | dsimp only [id]
    | (simp only [outer_mk]; change Outer cc _)

theorem outer_faultEvent (src inst transition : Nat) (s : State) {cc : State}
    (hk : Outer cc s) : Outer cc (faultEvent src inst transition s) := by
  unfold faultEvent
  repeat' first
    | with_reducible assumption
    | with_reducible apply outer_report
    | with_reducible refine outer_foldl (fun _ _ _ => ?_) _ ?_
    | with_reducible refine outer_foldl_snd (fun _ _ _ => ?_) _ ?_
    | with_reducible intro _
    | split
    | dsimp only [id]
    | (simp only [outer_mk]; change Outer cc _)

theorem outer_fenceFor (src inst : Nat) (s : State) {cc : State}
    (hk : Outer cc s) : Outer cc (fenceFor src inst s) := by
  unfold fenceFor
  repeat' first
    | with_reducible assumption
    | with_reducible apply outer_faultEvent
    | with_reducible refine outer_foldl (fun _ _ _ => ?_) _ ?_
    | with_reducible refine outer_foldl_snd (fun _ _ _ => ?_) _ ?_
    | with_reducible intro _
    | split
    | dsimp only [id]
    | (simp only [outer_mk]; change Outer cc _)

theorem outer_requestService (sev : Nat) (s : State) {cc : State}
    (hk : Outer cc s) : Outer cc (requestService sev s) := by
  unfold requestService
  repeat' first
    | with_reducible assumption
    | with_reducible apply outer_regSetFld
    | with_reducible refine outer_foldl (fun _ _ _ => ?_) _ ?_
    | with_reducible refine outer_foldl_snd (fun _ _ _ => ?_) _ ?_
    | with_reducible intro _
    | split
    | dsimp only [id]
    | (simp only [outer_mk]; change Outer cc _)

theorem outer_raise (src inst : Nat) (detail : Nat) (s : State) {cc : State}
    (hk : Outer cc s) : Outer cc (raise src inst detail s) := by
  unfold raise
  repeat' first
    | with_reducible assumption
    | with_reducible apply outer_requestService
    | with_reducible apply outer_fenceFor
    | with_reducible apply outer_faultEvent
    | with_reducible apply outer_setInst
    | with_reducible refine outer_foldl (fun _ _ _ => ?_) _ ?_
    | with_reducible refine outer_foldl_snd (fun _ _ _ => ?_) _ ?_
    | with_reducible intro _
    | split
    | dsimp only [id]
    | (simp only [outer_mk]; change Outer cc _)

theorem outer_linkMod (n : Fin 16) (f : Link → Link) (s : State) {cc : State}
    (hk : Outer cc s) : Outer cc (linkMod n f s) := by
  unfold linkMod
  repeat' first
    | with_reducible assumption
    | with_reducible refine outer_foldl (fun _ _ _ => ?_) _ ?_
    | with_reducible refine outer_foldl_snd (fun _ _ _ => ?_) _ ?_
    | with_reducible intro _
    | split
    | dsimp only [id]
    | (simp only [outer_mk]; change Outer cc _)

theorem outer_cellDrop (n : Fin 16) (s : State) {cc : State}
    (hk : Outer cc s) : Outer cc (cellDrop n s) := by
  unfold cellDrop
  repeat' first
    | with_reducible assumption
    | with_reducible apply outer_sticky
    | with_reducible apply outer_bump
    | with_reducible refine outer_foldl (fun _ _ _ => ?_) _ ?_
    | with_reducible refine outer_foldl_snd (fun _ _ _ => ?_) _ ?_
    | with_reducible intro _
    | split
    | dsimp only [id]
    | (simp only [outer_mk]; change Outer cc _)

theorem outer_queueCell (n : Fin 16) (c : Cell) (s : State) {cc : State}
    (hk : Outer cc s) : Outer cc (queueCell n c s) := by
  unfold queueCell
  repeat' first
    | with_reducible assumption
    | with_reducible apply outer_cellDrop
    | with_reducible apply outer_linkMod
    | with_reducible apply outer_raise
    | with_reducible refine outer_foldl (fun _ _ _ => ?_) _ ?_
    | with_reducible refine outer_foldl_snd (fun _ _ _ => ?_) _ ?_
    | with_reducible intro _
    | split
    | dsimp only [id]
    | (simp only [outer_mk]; change Outer cc _)

theorem outer_takeSeq (s : State) {cc : State}
    (hk : Outer cc s) : Outer cc (takeSeq s).2 := by
  unfold takeSeq
  repeat' first
    | with_reducible assumption
    | with_reducible refine outer_foldl (fun _ _ _ => ?_) _ ?_
    | with_reducible refine outer_foldl_snd (fun _ _ _ => ?_) _ ?_
    | with_reducible intro _
    | split
    | dsimp only [id]
    | (simp only [outer_mk]; change Outer cc _)

theorem outer_sendRouted (ty : Nat) (dst : BitVec 12) (hops : Nat) (route : BitVec 64) (body : List Byte) (s : State) {cc : State}
    (hk : Outer cc s) : Outer cc (sendRouted ty dst hops route body s) := by
  unfold sendRouted
  repeat' first
    | with_reducible assumption
    | with_reducible apply outer_takeSeq
    | with_reducible apply outer_queueCell
    | with_reducible apply outer_cellDrop
    | with_reducible refine outer_foldl (fun _ _ _ => ?_) _ ?_
    | with_reducible refine outer_foldl_snd (fun _ _ _ => ?_) _ ?_
    | with_reducible intro _
    | split
    | dsimp only [id]
    | (simp only [outer_mk]; change Outer cc _)

theorem outer_sendNeighbour (n : Fin 16) (ty : Nat) (body : List Byte) (s : State) {cc : State}
    (hk : Outer cc s) : Outer cc (sendNeighbour n ty body s) := by
  unfold sendNeighbour
  repeat' first
    | with_reducible assumption
    | with_reducible apply outer_queueCell
    | with_reducible refine outer_foldl (fun _ _ _ => ?_) _ ?_
    | with_reducible refine outer_foldl_snd (fun _ _ _ => ?_) _ ?_
    | with_reducible intro _
    | split
    | dsimp only [id]
    | (simp only [outer_mk]; change Outer cc _)

theorem outer_floodOn (except_ : Option (Fin 16)) (c : Cell) (s : State) {cc : State}
    (hk : Outer cc s) : Outer cc (floodOn except_ c s) := by
  unfold floodOn
  repeat' first
    | with_reducible assumption
    | with_reducible apply outer_queueCell
    | with_reducible refine outer_foldl (fun _ _ _ => ?_) _ ?_
    | with_reducible refine outer_foldl_snd (fun _ _ _ => ?_) _ ?_
    | with_reducible intro _
    | split
    | dsimp only [id]
    | (simp only [outer_mk]; change Outer cc _)

theorem outer_sendFlood (ty hops : Nat) (body : List Byte) (s : State) {cc : State}
    (hk : Outer cc s) : Outer cc (sendFlood ty hops body s) := by
  unfold sendFlood
  repeat' first
    | with_reducible assumption
    | with_reducible apply outer_floodOn
    | with_reducible apply outer_takeSeq
    | with_reducible refine outer_foldl (fun _ _ _ => ?_) _ ?_
    | with_reducible refine outer_foldl_snd (fun _ _ _ => ?_) _ ?_
    | with_reducible intro _
    | split
    | dsimp only [id]
    | (simp only [outer_mk]; change Outer cc _)

theorem outer_tunSend (r : TunReq) (s : State) {cc : State}
    (hk : Outer cc s) : Outer cc (tunSend r s) := by
  unfold tunSend
  repeat' first
    | with_reducible assumption
    | with_reducible apply outer_sendRouted
    | with_reducible refine outer_foldl (fun _ _ _ => ?_) _ ?_
    | with_reducible refine outer_foldl_snd (fun _ _ _ => ?_) _ ?_
    | with_reducible intro _
    | split
    | dsimp only [id]
    | (simp only [outer_mk]; change Outer cc _)

theorem outer_tunIssue (u : TunUse) (k : TunReqKind) (s : State) {cc : State}
    (hk : Outer cc s) : Outer cc (tunIssue u k s) := by
  unfold tunIssue
  repeat' first
    | with_reducible assumption
    | with_reducible apply outer_tunSend
    | with_reducible refine outer_foldl (fun _ _ _ => ?_) _ ?_
    | with_reducible refine outer_foldl_snd (fun _ _ _ => ?_) _ ?_
    | with_reducible intro _
    | split
    | dsimp only [id]
    | (simp only [outer_mk]; change Outer cc _)

theorem outer_useWrite (u : TunUse) (addr : Nat) (bs : List Byte) (s : State) {cc : State}
    (hk : Outer cc s) : Outer cc (useWrite u addr bs s) := by
  unfold useWrite
  repeat' first
    | with_reducible assumption
    | with_reducible apply outer_tunIssue
    | with_reducible apply outer_setHostMem
    | with_reducible refine outer_foldl (fun _ _ _ => ?_) _ ?_
    | with_reducible refine outer_foldl_snd (fun _ _ _ => ?_) _ ?_
    | with_reducible intro _
    | split
    | dsimp only [id]
    | (simp only [outer_mk]; change Outer cc _)

theorem outer_useRead (u : TunUse) (addr n : Nat) (s : State) {cc : State}
    (hk : Outer cc s) : Outer cc (useRead u addr n s) := by
  unfold useRead
  repeat' first
    | with_reducible assumption
    | with_reducible apply outer_tunIssue
    | with_reducible refine outer_foldl (fun _ _ _ => ?_) _ ?_
    | with_reducible refine outer_foldl_snd (fun _ _ _ => ?_) _ ?_
    | with_reducible intro _
    | split
    | dsimp only [id]
    | (simp only [outer_mk]; change Outer cc _)

theorem outer_hostWrite (addr : Nat) (bs : List Byte) (s : State) {cc : State}
    (hk : Outer cc s) : Outer cc (hostWrite addr bs s) := by
  unfold hostWrite
  repeat' first
    | with_reducible assumption
    | with_reducible apply outer_useWrite
    | with_reducible refine outer_foldl (fun _ _ _ => ?_) _ ?_
    | with_reducible refine outer_foldl_snd (fun _ _ _ => ?_) _ ?_
    | with_reducible intro _
    | split
    | dsimp only [id]
    | (simp only [outer_mk]; change Outer cc _)

theorem outer_hostReadReq (addr n : Nat) (s : State) {cc : State}
    (hk : Outer cc s) : Outer cc (hostReadReq addr n s) := by
  unfold hostReadReq
  repeat' first
    | with_reducible assumption
    | with_reducible apply outer_useRead
    | with_reducible refine outer_foldl (fun _ _ _ => ?_) _ ?_
    | with_reducible refine outer_foldl_snd (fun _ _ _ => ?_) _ ?_
    | with_reducible intro _
    | split
    | dsimp only [id]
    | (simp only [outer_mk]; change Outer cc _)

theorem outer_raiseVector (v : BitVec 6) (s : State) {cc : State}
    (hk : Outer cc s) : Outer cc (raiseVector v s) := by
  unfold raiseVector
  repeat' first
    | with_reducible assumption
    | with_reducible apply outer_tunIssue
    | with_reducible apply outer_msixRaise
    | with_reducible refine outer_foldl (fun _ _ _ => ?_) _ ?_
    | with_reducible refine outer_foldl_snd (fun _ _ _ => ?_) _ ?_
    | with_reducible intro _
    | split
    | dsimp only [id]
    | (simp only [outer_mk]; change Outer cc _)

theorem outer_setQueue (i : Fin 6) (q : RecQueue) (s : State) {cc : State}
    (hk : Outer cc s) : Outer cc (setQueue i q s) := by
  unfold setQueue
  repeat' first
    | with_reducible assumption
    | with_reducible refine outer_foldl (fun _ _ _ => ?_) _ ?_
    | with_reducible refine outer_foldl_snd (fun _ _ _ => ?_) _ ?_
    | with_reducible intro _
    | split
    | dsimp only [id]
    | (simp only [outer_mk]; change Outer cc _)

theorem outer_callIrq (i : Fin 6) (s : State) {cc : State}
    (hk : Outer cc s) : Outer cc (callIrq i s) := by
  unfold callIrq
  repeat' first
    | with_reducible assumption
    | with_reducible apply outer_raiseVector
    | with_reducible refine outer_foldl (fun _ _ _ => ?_) _ ?_
    | with_reducible refine outer_foldl_snd (fun _ _ _ => ?_) _ ?_
    | with_reducible intro _
    | split
    | dsimp only [id]
    | (simp only [outer_mk]; change Outer cc _)

theorem outer_writeRec (i : Fin 6) (size fl : Nat) (bytes : List Byte) (s : State) {cc : State}
    (hk : Outer cc s) : Outer cc (writeRec i size fl bytes s) := by
  unfold writeRec
  repeat' first
    | with_reducible assumption
    | with_reducible apply outer_setQueue
    | with_reducible apply outer_useWrite
    | with_reducible refine outer_foldl (fun _ _ _ => ?_) _ ?_
    | with_reducible refine outer_foldl_snd (fun _ _ _ => ?_) _ ?_
    | with_reducible intro _
    | split
    | dsimp only [id]
    | (simp only [outer_mk]; change Outer cc _)

theorem outer_recordLost (s : State) {cc : State}
    (hk : Outer cc s) : Outer cc (recordLost s) := by
  unfold recordLost
  repeat' first
    | with_reducible assumption
    | with_reducible apply outer_sticky
    | with_reducible apply outer_bump
    | with_reducible refine outer_foldl (fun _ _ _ => ?_) _ ?_
    | with_reducible refine outer_foldl_snd (fun _ _ _ => ?_) _ ?_
    | with_reducible intro _
    | split
    | dsimp only [id]
    | (simp only [outer_mk]; change Outer cc _)

theorem outer_ringDone (r : Fin 8) (s : State) {cc : State}
    (hk : Outer cc s) : Outer cc (ringDone r s) := by
  unfold ringDone
  repeat' first
    | with_reducible assumption
    | with_reducible refine outer_foldl (fun _ _ _ => ?_) _ ?_
    | with_reducible refine outer_foldl_snd (fun _ _ _ => ?_) _ ?_
    | with_reducible intro _
    | split
    | dsimp only [id]
    | (simp only [outer_mk]; change Outer cc _)

theorem outer_unreserve (cq : Fin 4) (old : Bool) (s : State) {cc : State}
    (hk : Outer cc s) : Outer cc (unreserve cq old s) := by
  unfold unreserve
  repeat' first
    | with_reducible assumption
    | with_reducible refine outer_foldl (fun _ _ _ => ?_) _ ?_
    | with_reducible refine outer_foldl_snd (fun _ _ _ => ?_) _ ?_
    | with_reducible intro _
    | split
    | dsimp only [id]
    | (simp only [outer_mk]; change Outer cc _)

theorem outer_postRec (r : Fin 8) (bytes : List Byte) (irq : Bool) (s : State) {cc : State}
    (hk : Outer cc s) : Outer cc (postRec r bytes irq s) := by
  unfold postRec
  repeat' first
    | with_reducible assumption
    | with_reducible apply outer_writeRec
    | with_reducible apply outer_callIrq
    | with_reducible refine outer_foldl (fun _ _ _ => ?_) _ ?_
    | with_reducible refine outer_foldl_snd (fun _ _ _ => ?_) _ ?_
    | with_reducible intro _
    | split
    | dsimp only [id]
    | (simp only [outer_mk]; change Outer cc _)

theorem outer_completeAt (tick : Nat) (t : Ticket) (status specific : Nat) (s0 : State) {cc : State}
    (hk : Outer cc s0) : Outer cc (completeAt tick t status specific s0) := by
  unfold completeAt
  repeat' first
    | with_reducible assumption
    | with_reducible apply outer_postRec
    | with_reducible apply outer_unreserve
    | with_reducible apply outer_ringDone
    | with_reducible apply outer_recordLost
    | with_reducible refine outer_foldl (fun _ _ _ => ?_) _ ?_
    | with_reducible refine outer_foldl_snd (fun _ _ _ => ?_) _ ?_
    | with_reducible intro _
    | split
    | dsimp only [id]
    | (simp only [outer_mk]; change Outer cc _)

theorem outer_complete (t : Ticket) (status specific : Nat) (s : State) {cc : State}
    (hk : Outer cc s) : Outer cc (complete t status specific s) := by
  unfold complete
  repeat' first
    | with_reducible assumption
    | with_reducible apply outer_completeAt
    | with_reducible refine outer_foldl (fun _ _ _ => ?_) _ ?_
    | with_reducible refine outer_foldl_snd (fun _ _ _ => ?_) _ ?_
    | with_reducible intro _
    | split
    | dsimp only [id]
    | (simp only [outer_mk]; change Outer cc _)

theorem outer_accept (h : CmdHdr) (s : State) {cc : State}
    (hk : Outer cc s) : Outer cc (accept h s).2 := by
  unfold accept
  repeat' first
    | with_reducible assumption
    | with_reducible refine outer_foldl (fun _ _ _ => ?_) _ ?_
    | with_reducible refine outer_foldl_snd (fun _ _ _ => ?_) _ ?_
    | with_reducible intro _
    | split
    | dsimp only [id]
    | (simp only [outer_mk]; change Outer cc _)

theorem outer_takenCmd (timed : Bool) (h : CmdHdr) (bad : Bool) (run : Ticket → State → State) (s0 : State) {cc : State}
    (h_run : ∀ a0 s1, Outer cc s1 → Outer cc (run a0 s1)) (hk : Outer cc s0) : Outer cc (takenCmd timed h bad run s0) := by
  unfold takenCmd
  repeat' first
    | with_reducible assumption
    | with_reducible apply h_run
    | with_reducible apply outer_accept
    | with_reducible apply outer_complete
    | with_reducible apply outer_hostStores
    | with_reducible refine outer_foldl (fun _ _ _ => ?_) _ ?_
    | with_reducible refine outer_foldl_snd (fun _ _ _ => ?_) _ ?_
    | with_reducible intro _
    | split
    | dsimp only [id]
    | (simp only [outer_mk]; change Outer cc _)

theorem outer_busTimed (h : CmdHdr) (s0 : State) {cc : State}
    (hk : Outer cc s0) : Outer cc (busTimed h s0) := by
  unfold busTimed
  repeat' first
    | with_reducible assumption
    | with_reducible apply outer_accept
    | with_reducible apply outer_complete
    | with_reducible apply outer_hostStores
    | with_reducible refine outer_foldl (fun _ _ _ => ?_) _ ?_
    | with_reducible refine outer_foldl_snd (fun _ _ _ => ?_) _ ?_
    | with_reducible intro _
    | split
    | dsimp only [id]
    | (simp only [outer_mk]; change Outer cc _)

theorem outer_resultWith (tick : Option Nat) (t : Ticket) (addr : Nat) (bytes : List Byte) (status specific : Nat) (s : State) {cc : State}
    (hk : Outer cc s) : Outer cc (resultWith tick t addr bytes status specific s) := by
  unfold resultWith
  repeat' first
    | with_reducible assumption
    | with_reducible apply outer_completeAt
    | with_reducible apply outer_useRead
    | with_reducible apply outer_useWrite
    | with_reducible refine outer_foldl (fun _ _ _ => ?_) _ ?_
    | with_reducible refine outer_foldl_snd (fun _ _ _ => ?_) _ ?_
    | with_reducible intro _
    | split
    | dsimp only [id]
    | (simp only [outer_mk]; change Outer cc _)

theorem outer_resultThen (t : Ticket) (addr : Nat) (bytes : List Byte) (status : Nat) (s : State) {cc : State}
    (hk : Outer cc s) : Outer cc (resultThen t addr bytes status s) := by
  unfold resultThen
  repeat' first
    | with_reducible assumption
    | with_reducible apply outer_resultWith
    | with_reducible refine outer_foldl (fun _ _ _ => ?_) _ ?_
    | with_reducible refine outer_foldl_snd (fun _ _ _ => ?_) _ ?_
    | with_reducible intro _
    | split
    | dsimp only [id]
    | (simp only [outer_mk]; change Outer cc _)

theorem outer_failResults (s : State) {cc : State}
    (hk : Outer cc s) : Outer cc (failResults s) := by
  unfold failResults
  repeat' first
    | with_reducible assumption
    | with_reducible apply outer_completeAt
    | with_reducible refine outer_foldl (fun _ _ _ => ?_) _ ?_
    | with_reducible refine outer_foldl_snd (fun _ _ _ => ?_) _ ?_
    | with_reducible intro _
    | split
    | dsimp only [id]
    | (simp only [outer_mk]; change Outer cc _)

theorem outer_resultCome (order : Nat) (s : State) {cc : State}
    (hk : Outer cc s) : Outer cc (resultCome order s) := by
  unfold resultCome
  repeat' first
    | with_reducible assumption
    | with_reducible apply outer_completeAt
    | with_reducible refine outer_foldl (fun _ _ _ => ?_) _ ?_
    | with_reducible refine outer_foldl_snd (fun _ _ _ => ?_) _ ?_
    | with_reducible intro _
    | split
    | dsimp only [id]
    | (simp only [outer_mk]; change Outer cc _)

end Sys2Proof.Machine
end

