-- ==== Sys2Proof/Laws/Vec.lean ====
section
/-!
SUPPORT. Reading a vector after one of its elements has been written.
-/
namespace Sys2Proof.Machine

variable {α : Type} {n : Nat}

theorem vset_get_self (v : Vector α n) (i : Fin n) (x : α) : (vset v i x)[i] = x := by simp [vset]

/-- The same with the index as a number, the form `simp` brings it to. -/
@[simp] theorem vset_get_self_val (v : Vector α n) (i : Fin n) (x : α) : (vset v i x)[i.val] = x := by simp [vset]

theorem vset_get_ne (v : Vector α n) (i j : Fin n) (x : α) (h : j ≠ i) : (vset v i x)[j] = v[j] := by
  have : i.val ≠ j.val := fun e => h (Fin.ext e.symm)
  simp [vset, Vector.getElem_set, this]

theorem vmod_get_self (v : Vector α n) (i : Fin n) (f : α → α) : (vmod v i f)[i] = f v[i] := by simp [vmod]

@[simp] theorem vmod_get_self_val (v : Vector α n) (i : Fin n) (f : α → α) : (vmod v i f)[i.val] = f v[i.val] := by simp [vmod]

theorem vmod_get_ne (v : Vector α n) (i j : Fin n) (f : α → α) (h : j ≠ i) : (vmod v i f)[j] = v[j] := vset_get_ne v i j _ h

theorem toFin?_some {k : Nat} {i : Fin n} (h : k = i.val) : toFin? n k = some i := by subst h; simp [toFin?]

theorem toFin?_none {k : Nat} (h : n ≤ k) : toFin? n k = none := by simp [toFin?, h]

end Sys2Proof.Machine
end

