-- ==== Sys2Proof/Machine/Line.lean ====
section
/-!
DEFINITION. The line of a Dorura link (R163, R165, R167, R172, R178): the 64b/66b blocks with their scrambler, and the marker,
slots and cells of a sub-frame and the training frame as the blocks that carry them.
-/
namespace Sys2Proof.Machine

/-- One block of the line code (R163): a data block (sync header 0b01) or a control block (0b10), and its 64 payload bits. -/
structure Block where
  control : Bool
  payload : BitVec 64
  deriving DecidableEq, Repr

/-- A data block: byte 0 in payload bits [7:0]. -/
def dataBlock (bs : List Byte) : Block := { control := false, payload := BitVec.ofNat 64 (ofLe (bs.take 8)) }

/-- A marker: a control block of type 0x4B with its seven bytes (R167, R178). -/
def markerBlock (bs : List Byte) : Block := { control := true, payload := BitVec.ofNat 64 (0x4B + ofLe (bs.take 7) * 256) }

/-- An idle block: a control block of type 0x1E with eight idle characters (R163). -/
def idleBlock : Block := { control := true, payload := 0x1E }

/-- Bytes as data blocks, byte 0 first. -/
def dataBlocks (bs : List Byte) : List Block := (List.range (ceilDiv bs.length 8)).map fun k => dataBlock (bs.drop (8 * k))

/-- The payload bits of a block, bit 0 first (R163). -/
def Block.bits (b : Block) : List Bool := (List.range 64).map fun i => b.payload.getLsbD i

/-- One step of the scrambler 1 + x^39 + x^58: its register holds the last 58 bits sent, the latest in bit 0. -/
def scrambleBit (st : BitVec 58) (b : Bool) : Bool × BitVec 58 :=
  let o := b ^^ (st.getLsbD 38 ^^ st.getLsbD 57)
  (o, (st <<< 1) ||| BitVec.ofNat 58 (b2n o))

/-- One step of the descrambler: its register holds the last 58 bits received. -/
def descrambleBit (st : BitVec 58) (b : Bool) : Bool × BitVec 58 :=
  (b ^^ (st.getLsbD 38 ^^ st.getLsbD 57), (st <<< 1) ||| BitVec.ofNat 58 (b2n b))

/-- Bits through a scrambler or a descrambler, and its register after them. -/
def throughBits (f : BitVec 58 → Bool → Bool × BitVec 58) : BitVec 58 → List Bool → List Bool × BitVec 58
  | st, [] => ([], st)
  | st, b :: bs =>
    let r := f st b
    let q := throughBits f r.2 bs
    (r.1 :: q.1, q.2)

/-- Blocks as the bits that leave (R163): the sync header first, then the scrambled payload from bit 0. -/
def lineBits : BitVec 58 → List Block → List Bool × BitVec 58
  | st, [] => ([], st)
  | st, b :: bs =>
    let r := throughBits scrambleBit st b.bits
    let q := lineBits r.2 bs
    ([b.control, !b.control] ++ r.1 ++ q.1, q.2)

/-- The seven bytes of a frame marker (R167). -/
def LineOut.markerBytes (l : LineOut) : List Byte :=
  let bs := leBytes 1 (0xD + l.sf.val * 16) ++ leBytes 4 l.tickLo.toNat ++
    leBytes 1 (b2n l.aligned + bitAt l.quarantine 1 + bitAt l.detaching 2)
  bs ++ [crc8 bs]

/-- The bytes of a slot (R168); one that the switch does not fill has zero samples and FLAGS 0 (R170). -/
def LineOut.slotBytes (l : LineOut) (s : State) (i : Nat) : List Byte :=
  let x := (mapGet l.slots i).getD (slotOf (List.replicate (spt s) 0) 0)
  slotData x.samples x.flags ++ [x.crc]

/-- A cell as 64 bytes (R172). -/
def cellWhole (c : Cell) : List Byte := cellBytes c ++ leBytes 4 (cellCrc c).toNat

/-- An empty cell position (R172). -/
def emptyCell : Cell := { ty := 0, mode := 0, hop := 0, hops := 0, src := 0, dst := 0, seq := 0, route := 0, body := [] }

/-- The data bytes of a sub-frame (R165, R169): its slots, slot 0 first, then its cell positions. -/
def LineOut.data (l : LineOut) (s : State) : List Byte :=
  let n := slotsPerSub s
  (List.range n).flatMap (fun i => l.slotBytes s (l.sf.val * n + i)) ++
    (List.range (cellPositions s)).flatMap fun k => cellWhole (l.cells.getD k emptyCell)

/-- The blocks of a sub-frame (R165): marker, data, and idle blocks until the next marker, `idle` of them. -/
def LineOut.blocks (l : LineOut) (s : State) (idle : Nat) : List Block :=
  markerBlock l.markerBytes :: (dataBlocks (l.data s) ++ List.replicate idle idleBlock)

/-- The seven bytes of a training marker (R178). -/
def TrainOut.bytes (t : TrainOut) : List Byte :=
  let bs := [0x0E] ++ leBytes 1 (t.preReq.toNat + t.postReq.toNat * 4 + bitAt t.preset 4) ++
    leBytes 1 (t.preStat.toNat + t.postStat.toNat * 4) ++ leBytes 1 (b2n t.rxReady) ++ [0, 0]
  bs ++ [crc8 bs]

/-- A training frame (R178): a training marker and 255 data blocks of zeros. -/
def TrainOut.blocks (t : TrainOut) : List Block := markerBlock t.bytes :: List.replicate 255 { control := false, payload := 0 }

end Sys2Proof.Machine
end

