-- ==== Sys2Proof/WellFormed.lean ====
section
/-!
DEFINITION. What a well-formed command is: the lengths of the parts that travel as lists, which the spec fixes (a cell's body,
the samples of a slot, a marker, the head of an image, a status block), and host stores that stay inside the address space. The meanings are total and do not
ask for it.
-/
namespace Sys2Proof

/-- A store of the host lies inside its 64-bit address space. -/
def HostStore.wf (x : HostStore) : Bool := decide (x.addr.toNat + x.bytes.length ≤ 2 ^ 64)

/-- A descriptor's header: its host stores are well-formed. -/
def CmdHdr.wf (h : CmdHdr) : Bool := h.stores.all HostStore.wf

/-- A cell carries 40 body bytes, 0x14–0x3B (R172). -/
def Cell.wf (c : Cell) : Bool := decide (c.body.length = 40)

/-- A tick brings two sense channels of S samples for each of 8 channels (R337). -/
def TickIn.wf (spt : Nat) (m : TickIn) : Bool := decide (m.sense.length = 16 * spt)

/-- What reading an image finds: 16 bytes of its header and 8 of its key block (R489), where the slot is not empty. -/
def ImageCheck.wf (c : ImageCheck) : Bool := c.empty || (decide (c.header.length = 16) && decide (c.keyBlock.length = 8))

/-- A well-formed command, at S samples per tick. -/
def Instr.wf (spt : Nat) : Instr → Bool
  | .tickBoundary x => x.wf spt
  | .tickKerfOpen | .tileCut .. | .subFrameStart .. | .tileLoadComplete .. | .scrub .. | .eyeSurveyComplete ..
  | .linkSignalDetect .. | .linkBlockLock .. | .linkEqComplete .. | .markerWindowExpiry ..
  | .linkSignalLoss .. | .trainTimeout .. | .retryWait .. | .discoverSend .. | .attachReqRepeat .. | .idAnnouncePeriodic
  | .linkBer .. | .pathReserveTimeout .. | .tentativeExpiry .. | .twinReadbackMismatch .. | .twinDigestTakeover ..
  | .doneTimeout .. | .globalResetWarm | .anchorLost | .anchorClaim | .dpllUpdate .. | .refInputFault ..
  | .alignWaitExpiry | .pllUnlock .. | .pllLock .. | .pllMeasStart .. | .pllMeasDone .. | .pulseCfgWrite ..
  | .cmpFire .. | .ethCtrlWrite .. | .ethLinkDown .. | .pauseReceived .. | .pauseExpiry .. | .pauseWatchdog ..
  | .pauseStuckClear .. | .pauseRefresh .. | .ptpMessage .. | .ptpMasterSend .. | .aoipPacketReceived .. | .portReady ..
  | .portStartTimeout .. | .startSplit .. | .postclkEnd .. | .portFrame .. | .portClockStop .. | .aesCsBlock ..
  | .psStartTimeout .. | .converterStop .. | .psPfreqWrite .. | .powerAllocate .. | .pilotEstimate .. | .ilimTrip .. | .shortCircuit ..
  | .psRetry .. | .psDc .. | .psDieTemp .. | .psRailOv .. | .psPvinLow | .pvinRestored | .psRailSag ..
  | .directTrackingResume .. | .remoteWakeWrite .. | .tunnelClaimTimeout .. | .tunResend | .tunnelLost
  | .dmaDescriptorComplete .. | .dmaBusError .. | .ringsStopped .. | .pciePerst .. | .crcStart .. | .crcDataB ..
  | .crcDataH .. | .crcDataW .. | .mbAddrNackRetry .. | .mbTargetAddress .. | .mbTargetByte .. | .mbTargetReadByte ..
  | .mbStop .. | .mbStuck .. | .mbRstReceived .. | .mbRstReleaseCheck .. | .mbTargetRequest .. | .mbRequestUnserved ..
  | .mbServeInband .. | .mbAlertServe .. | .mbAraRead .. | .mbTgtReqSet .. | .mbTgtReqClear .. | .faultQuietExpiry ..
  | .propose .. | .withdraw .. | .protConfirm .. | .protTimeout | .protStoreDone | .ageVddAdjust .. | .ageSurvey ..
  | .powerOn .. | .pinReset | .brownOut | .overTemperature | .overTemperatureRecover .. | .hostReady
  | .warmWrite .. | .warmReset | .watchdog | .setupLock .. | .storeRate .. | .glbTickLoRead ..
  | .sleepWake .. | .meterClear .. | .meterSrcWrite .. | .linkEnableWrite .. | .testDbgRead ..
  | .testDbgWrite .. | .testDbgDone .. | .traceEnable .. | .registerWrite .. | .refSignalDetect .. | .ethLinkUp ..
  | .pstageTickStep | .clampIdleRestart .. | .dieTempRecover .. | .tunnelRegTimeout .. | .mbBusFree ..
  | .mbXferTimeout .. | .mbRstDriveEnd .. | .storeWriteDone .. | .retrainSquelchEnd .. => true
  | .pollRound x | .hifModeWrite _ _ x | .wakeWrite x | .dmaDescriptorBegin _ x => x.all HostStore.wf
  | .routeSet h .. | .gainSet h .. | .routeClear h .. | .routeBatch h .. | .routeQuery h .. | .directSet h ..
  | .testgenSet h .. | .tileLoad h .. | .tileClear h .. | .tileSwap h .. | .rampSet h .. | .dmemRead h ..
  | .rampQuery h .. | .benchCreate h .. | .benchQuota h .. | .benchDelete h .. | .objAlloc h .. | .objFree h ..
  | .delaySet h .. | .playStart h .. | .playStop h .. | .captureCtrl h .. | .benchWrite h .. | .benchRead h ..
  | .snapTake h .. | .benchQuery h .. | .linkCmd h .. | .linkQuery h .. | .eyeSurvey h .. | .nodeIdSet h ..
  | .pathReserve h .. | .pathRelease h .. | .pathQuery h .. | .switchRead h .. | .pairSet h .. | .roleSet h ..
  | .globalArm h .. | .refForce h .. | .refQuery h .. | .pulseAlign h .. | .timeSet h .. | .cmpSet h ..
  | .timeQuery h .. | .aoipRxSet h .. | .aoipTxSet h .. | .aoipQuery h .. | .portStart h .. | .portStop h ..
  | .portQuery h .. | .aesQuery h .. | .psStart h .. | .psStop h .. | .psBudget h .. | .psFreqSet h .. | .psModel h ..
  | .psQuery h .. | .tunnelClaim h .. | .tunnelDrop h .. | .dmaCtrl h .. | .mbReset h .. | .sumpQuery h ..
  | .sumpClear h .. | .ageQuery h .. | .ageDecide h .. | .imgCommit h .. | .imgSelect h .. | .cfgSet h .. | .sleep h .. => h.wf
  | .paramWrite h x => h.wf && decide (x.data.length = 32)
  | .frameMarker _ x => decide (x.bytes.length = 7)
  | .trainingMarker _ x _ => decide (x.bytes.length = 7)
  | .imageVerified a b => a.wf && b.wf
  | .slotCheck x => x.wf
  | .imgCommitStepDone x => x.check.wf
  | .slotReceived _ x => decide (x.bytes.length = 4 * spt + 1)
  | .discover _ c | .linkCtrlCell _ c | .idAnnounce _ c | .pathSet _ c | .pathReply _ c | .pathClear _ c
  | .pathBroken _ c | .pairDigest _ c | .globalOpCell _ c | .adopt _ c | .doneCell _ c | .timeSync _ c | .tunClaim _ c
  | .tunClaimAck _ c | .tunYield _ c | .tunWrite _ c | .tunRead _ c | .tunData _ c | .tunIrq _ c | .tunAck _ c
  | .tunWake _ c | .tunReg _ c | .tunRegResp _ c | .cellReceived _ c .. => c.wf
  | .globalOp h x => h.wf && decide (x.arg.length = 24)
  | .refSecond x => decide (x.cands.length = 8)
  | .tickAlignment _ x | .captureEdge _ _ x => decide (x.ns.toNat < 1000000000)
  | .ethFrameReceived _ x => decide (14 ≤ x.bytes.length)
  | .aoipCsSet h _ _ _ x => h.wf && decide (x.length = 24)
  | .portSlots h x => h.wf && decide (x.masks.length = 4)
  | .aesCsSet h x => h.wf && decide (x.block.length = 24)
  | .tunnelReg h x => h.wf && decide (x.data.length ≤ 8)
  | .mbXfer h x .. => h.wf && decide (x.wdata.length = 24)

end Sys2Proof
end

