-- ==== Sys2Proof/Tests/Slice0.lean ====
section
/-!
SUPPORT. Tests of the model: the spec's worked examples; an ill-formed term for each check of `Instr.wf`, which refuses it; and
for every obligation with hypotheses one theorem (`test_meets_<Name>`) that meets the hypotheses of each of its clauses by a
concrete state and concrete operands. The definitions `z<Type>` are all-zero terms of a type; the states are built from the
state after reset.
-/
open Sys2Proof Sys2Proof.Machine
namespace Sys2Proof.Tests

set_option Elab.async false

def zAesCsSetArgs : AesCsSetArgs := { tick := 0, port := { aes := false, index := 0 }, subframe := 0, user := false, block := [] }
def zAgeDecideArgs : AgeDecideArgs := { tick := 0, id := 0, action := 0, kind := 0 }
def zAnchorEntry : AnchorEntry := { priority := 0, hops := 0, timeErr := 0, id := 0, cls := 0, beat := 0, gen := 0 }
def zAoipRxArgs : AoipRxArgs := { tick := 0, stream := 0, portA := 0, portB := 0, legB := false, format := 0, enable := false, channels := 0, firstCh := 0, ptime := 0, pt := 0, dstIp := 0, dstIpB := 0, udpPort := 0, udpPortB := 0, srcIp := 0, ssrc := 0, linkOffset := 0, ssrcMatch := false, vValid := false }
def zAoipTx : AoipTx := { on := false, cfg := { tick := 0, stream := 0, portA := 0, portB := 0, dup := false, format := 0, enable := false, channels := 0, firstCh := 0, ptime := 0, pt := 0, dstIp := 0, dstIpB := 0, udpPort := 0, dscp := 0, ttl := 0, ssrc := 0, dstMac := 0, vlan := 0, tsAdj := 0 }, seq := 0, sent := 0, late := 0, rtpLast := 0, buf := none, count := 0, cs := [], csNext := [] }
def zAoipTxArgs : AoipTxArgs := { tick := 0, stream := 0, portA := 0, portB := 0, dup := false, format := 0, enable := false, channels := 0, firstCh := 0, ptime := 0, pt := 0, dstIp := 0, dstIpB := 0, udpPort := 0, dscp := 0, ttl := 0, ssrc := 0, dstMac := 0, vlan := 0, tsAdj := 0 }
def zBObj : BObj := { bench := 0, kind := .line 0 [] none none, chan := 0, chans := 0, size := 0, extents := 0, words := [] }
def zBench : Bench := { quota := 0, granules := [], overQuota := false }
def zBenchDataArgs : BenchDataArgs := { handle := 0, offset := 0, addr := 0, length := 0 }
def zBlk : Blk := { samples := [], valid := false, ramp := false }
def zBridge : Bridge := { hops := 0, gen := 0, winPages := 0, route := 0, hca := 0, winBase := 0, xidNext := 0, executed := false, err := none, claim := none, claimAt := 0 }
def zCaptureCtrlArgs : CaptureCtrlArgs := { tick := 0, handle := 0, action := 0, startFrame := 0 }
def zCell : Cell := { ty := 0, mode := 0, hop := 0, hops := 0, src := 0, dst := 0, seq := 0, route := 0, body := [], resv := 0 }
def zCmdHdr : CmdHdr := { ring := 0, index := 0, tag := 0, irq := false, ordered := false, reservedSet := false, stores := [] }
def zCmpSetArgs : CmpSetArgs := { unit := 0, action := 0, arg := 0, periodic := false, report := false, pulseNs := 0, time := { sec := 0, ns := 0, frac := 0 }, period := 0 }
def zCommit : Commit := { ticket := { ring := 0, index := 0, tag := 0, irq := false, seq := 0, epoch := 0, takeover := 0, order := 0, late := false }, slot := 0, svnLock := false, length := 0, addr := 0, step := 0, copy0 := false, svn := 0, version := 0, crc := 0 }
def zDbgAccess : DbgAccess := { allowed := false, write := false, path := .bar0, addr := 0, data := 0 }
def zDelaySetArgs : DelaySetArgs := { tick := 0, handle := 0, mode := 0, law := 0, delay := 0, rampMs := 0 }
def zDirect : Direct := Direct.reset
def zDirectSetArgs : DirectSetArgs := { tick := 0, channel := 0, source := 0, dest := 0, rampMs := 0, gain := 0 }
def zDmaCtrlArgs : DmaCtrlArgs := { tick := 0, chMask := 0, action := 0 }
def zDmaCur : DmaCur := { desc := { own := false, irq := false, tag := 0, length := 0, hostAddr := 0, devAddr := 0, toHost := false, badArg := false }, index := 0, done := 0, firstTick := none, trunc := false }
def zDmemReadArgs : DmemReadArgs := { tile := 0, count := 0, waddr := 0, resultAddr := 0 }
def zEthFrame : EthFrame := { bytes := [], fcsOk := false, time := { sec := 0, ns := 0, frac := 0 } }
def zFirWish : FirWish := { preReq := 0, postReq := 0, preset := false }
def zFrameMarker : FrameMarker := { bytes := [], arrival := 0 }
def zFrameView : FrameView := { tag := none, etype := 0, body := 0, ipv4 := false, laterFragment := false, whole := false, proto := 0, udpPort := 0, payload := 0 }
def zGainSetArgs : GainSetArgs := { tick := 0, dest := 0, input := 0, gain := 0, rampMs := 0 }
def zGlobalArmArgs : GlobalArmArgs := { set := 0, handle := 0, count := 0, addr := 0 }
def zGlobalOp : GlobalOp := { orig := 0, opNo := 0, order := 0, kind := 0, tick := 0, groups := 0, arg := [], parent := none, children := [], reported := [], totals := { executed := 0, late := 0, refused := 0, lost := 0 }, execs := false, writing := false, ready := false, command := none }
def zGlobalOpArgs : GlobalOpArgs := { tick := 0, kind := 0, groups := 0, arg := [], resultAddr := 0 }
def zImageCheck : ImageCheck := { empty := false, header := [], keyBlock := [], keyHashOk := false, signatureOk := false, digestOk := false, crc := 0 }
def zImgCommitArgs : ImgCommitArgs := { slot := 0, svnLock := false, length := 0, addr := 0 }
def zLinkCmdArgs : LinkCmdArgs := { tick := 0, link := 0, action := 0 }
def zMbCur : MbCur := { ticket := { ring := 0, index := 0, tag := 0, irq := false, seq := 0, epoch := 0, takeover := 0, order := 0, late := false }, args := { bus := 0, addr := 0, wlen := 0, rlen := 0, wdata := [], resultAddr := 0 }, since := 0, arb := 0, nacks := 0, phase := .waitFree }
def zMbTgt : MbTgt := { read := false, bytes := [], nacked := false, word := 0, sent := 0 }
def zMbXferArgs : MbXferArgs := { bus := 0, addr := 0, wlen := 0, rlen := 0, wdata := [], resultAddr := 0 }
def zObjAllocArgs : ObjAllocArgs := { bench := 0, ty := 0, channel := 0, channels := 0, size := 0 }
def zOwner : Owner := { id := 0, gen := 0, eui := 0, hca := 0, retLinks := 0, hops := 0, link := 0 }
def zPage : Page := { rows := [], rowCount := 0, tickProg := none, bgProg := none, tReload := [], bReload := [], inMap := 0, outMap := 0, clearT := false, clearB := false, params := [], footprint := [], count := 0, buildId := 0 }
def zPair : Pair := { partner := 0, hops := 0, route := 0, groups := [], since := 0, compareFrom := 0, own := [], theirs := [], misses := 0, matched := false, lastCell := 0 }
def zPairSetArgs : PairSetArgs := { tick := 0, partner := 0, hops := 0, groups := 0, route := 0, compareFrom := 0, groupAddr := 0 }
def zParamWriteArgs : ParamWriteArgs := { tick := 0, tile := 0, count := 0, inline_ := false, stride := false, waddr := 0, data := [] }
def zPathBody : PathBody := { addCh := 0, copy := false, gen := 0, result := 0, dropCh := 0, tap := 0, failHop := 0, limit := 0, acc := 0, tickLo := 0, slots := [], ret := 0 }
def zPathRec : PathRec := { src := 0, addCh := 0, copy := false, gen := 0, hops := 0, dst := 0, route := 0, ticket := { ring := 0, index := 0, tag := 0, irq := false, seq := 0, epoch := 0, takeover := 0, order := 0, late := false }, tickField := 0, resultAddr := 0, reserving := false, live := false, latency := 0, reply := [], sent := 0 }
def zPathReserveArgs : PathReserveArgs := { tick := 0, addCh := 0, dropCh := 0, dst := 0, hops := 0, copy := false, gen := 0, route := 0, limitNs := 0, tapMask := 0, resultAddr := 0 }
def zPlayStartArgs : PlayStartArgs := { tick := 0, handle := 0, loop := false, startFrame := 0, loopStart := 0, gain := 0, rampMs := 0 }
def zPortFrameIn : PortFrameIn := { ahead := 0, onGrid := false, bits := 0, bad := false, rate := 0, phase := 0, slots := [], z := false }
def zPortSel : PortSel := { aes := false, index := 0 }
def zPortSlotsArgs : PortSlotsArgs := { tick := 0, port := { aes := false, index := 0 }, immediate := false, write := 0, masks := [] }
def zPowerMeasure : PowerMeasure := { pvin := 0, tcase := 0 }
def zProposal : Proposal := { id := 0, kind := 0, target := 0, value := 0 }
def zPsBudgetArgs : PsBudgetArgs := { tick := 0, ch := 0, watts := 0, attack := 0, release := 0 }
def zPsFreqArgs : PsFreqArgs := { tick := 0, pref := 0, min := 0, max := 0 }
def zPsModelArgs : PsModelArgs := { ch := 0, tile := 0, lookahead := 0, waddr := 0 }
def zPtpMsg : PtpMsg := { kind := .sync, domain := 0, l2 := false, vlan := none, requester := 0, sequence := 0, correction := 0, seconds := 0, nanos := 0, checksum := 0, ptpTimescale := false, utcOffset := 0, time := { sec := 0, ns := 0, frac := 0 }, portState := 0 }
def zRampSetArgs : RampSetArgs := { tick := 0, tile := 0, unit := 0, q29 := false, stride := false, release := false, waddr := 0, target := 0, from_ := 0, rampMs := 0 }
def zRegRow : RegRow := { name := "", base := 0, stride1 := 0, count1 := 0, stride2 := 0, count2 := 0, rw := 0, rwl := 0, rwp := 0, w1c := 0, wo := 0, reset := 0 }
def zRouteAct : RouteAct := { dest := 0, input := 0, source := 0, power := false, ms := 0, gain := 0 }
def zRouteBatchArgs : RouteBatchArgs := { tick := 0, addr := 0, count := 0, version := 0 }
def zRouteClearArgs : RouteClearArgs := { tick := 0, dest := 0, law := 0, rampMs := 0 }
def zRouteSetArgs : RouteSetArgs := { tick := 0, dest := 0, input := 0, law := 0, source := 0, rampMs := 0, gain := 0 }
def zRtpIn : RtpIn := { dstIp := 0, udpPort := 0, srcIp := 0, ssrc := 0, pt := 0, seq := 0, ts := 0, csrc := 0, ext := false, payload := [], sinceNs := 0 }
def zRtpSample : RtpSample := { ts := 0, data := [], labels := [] }
def zRxFrame : RxFrame := { queue := 0, bytes := [], time := none }
def zSecondIn : SecondIn := { cands := [], tempMk := 0 }
def zSleepArgs : SleepArgs := { tick := 0, wakeMask := 0, wakeTime := { sec := 0, ns := 0, frac := 0 } }
def zSleepPlan : SleepPlan := { at_ := 0, mask := 0, time := { sec := 0, ns := 0, frac := 0 } }
def zSlotIn : SlotIn := { slot := 0, bytes := [], crc := 0 }
def zSnapItem : SnapItem := { ramps := false, tile := 0, waddr := 0, count := 0 }
def zSnapTakeArgs : SnapTakeArgs := { tick := 0, handle := 0, count := 0, addr := 0 }
def zState : State := State.reset
def zStepEnd : StepEnd := { ok := false, check := { empty := false, header := [], keyBlock := [], keyHashOk := false, signatureOk := false, digestOk := false, crc := 0 } }
def zSumpClearArgs : SumpClearArgs := { source := 0, inst := 0, action := 0 }
def zSumpQueryArgs : SumpQueryArgs := { source := 0, first := 0, countM1 := 0, resultAddr := 0 }
def zSumpSource : SumpSource := { id := 0, name := "", instances := 0, severity := 0, quiet := 0, limit := 0, window := 0, safety := false }
def zSurvey : Survey := { ticket := { ring := 0, index := 0, tag := 0, irq := false, seq := 0, epoch := 0, takeover := 0, order := 0, late := false }, links := [] }
def zSwEntry : SwEntry := { fwd := none, drop := false, copy := false, state := .tentative, srcId := 0, addCh := 0, dropCh := 0, carry := false, since := 0, freeAt := 0, steps := 0, late := 0 }
def zSwitchReadArgs : SwitchReadArgs := { table := .incoming 0, first := 0, count := 0, resultAddr := 0 }
def zTestgenSetArgs : TestgenSetArgs := { tick := 0, gen := 0, wave := 0, level := 0, freq := 0, seed := 0 }
def zTickIn : TickIn := { dram := [], upsets := [], rail0 := 0, rail1 := 0, sense := [], late := [] }
def zTicket : Ticket := { ring := 0, index := 0, tag := 0, irq := false, seq := 0, epoch := 0, takeover := 0, order := 0, late := false }
def zTileLoad : TileLoad := { ticket := { ring := 0, index := 0, tag := 0, irq := false, seq := 0, epoch := 0, takeover := 0, order := 0, late := false }, addr := 0, length := 0 }
def zTileLoadArgs : TileLoadArgs := { addr := 0, length := 0, tile := 0 }
def zTimeVal : TimeVal := { sec := 0, ns := 0, frac := 0 }
def zTrainMarker : TrainMarker := { bytes := [] }
def zTunRegWait : TunRegWait := { ticket := { ring := 0, index := 0, tag := 0, irq := false, seq := 0, epoch := 0, takeover := 0, order := 0, late := false }, target := 0, rseq := 0, write := false, count := 0, resultAddr := 0, sent := 0 }
def zTunReq : TunReq := { xid := 0, kind := .write 0 [], use := .fetch, sent := 0, got := 0 }
def zTunnelClaimArgs : TunnelClaimArgs := { target := 0, hops := 0, gen := 0, winPages := 0, route := 0, hca := 0, winBase := 0 }
def zTunnelRegArgs : TunnelRegArgs := { target := 0, count := 0, write := false, offset := 0, data := [], resultAddr := 0 }
def S1 : State := State.reset
def hdr (st : List HostStore) : CmdHdr := { zCmdHdr with stores := st }
def tap0 (src : BitVec 16) : Tap := { source := src, input := 0, gain := Gain.mute, f0 := 0, up := true, power := false, n := 0, j := 0 }
def route1 (l : List Tap) : State := { S1 with router := { S1.router with routes := [(0x7000, l)] } }
def page1 : Page := { zPage with params := [(0, 8)] }
def paged (n : Fin 16) : State := tileMod n (fun t => { t with pages := Vector.replicate 2 (some page1) }) S1
def image1 : List Byte := [0x53, 0x50, 0x4E, 0x4C, 1, 0, 6, 0, 160, 0, 0, 0, 160, 222, 86, 225, 1, 0, 0, 0, 0, 0, 0xFF, 0xFF, 0, 0, 0, 0, 2, 0, 0, 0] ++
  List.replicate 80 0 ++ [1, 0] ++ List.replicate 14 0 ++ [1, 0, 0, 0, 144, 0, 0, 0, 16, 0, 0, 0, 0, 0, 0, 0] ++ List.replicate 15 0 ++ [1]
def loading : State := { tileMod 0 (fun t => { t with load := some { zTileLoad with length := 160 } }) S1 with localMem := memWrite [] 0 image1 }
def objS (o : BObj) : State := { S1 with mem := { S1.mem with objs := [(0, o)] } }
def benchS (q : Nat) : State := { S1 with mem := { S1.mem with benches := [(0, { zBench with quota := q })] } }
def clip1 : BObj := { zBObj with kind := .clip 0 none Gain.mute false false, chans := 1, size := 4 }
def snap1 : BObj := { zBObj with kind := .snap, size := 4 }
def lk (f : Link → Link) : State := linkMod 0 f S1
def pbody : List Byte := [1, 0, 0, 0, 0, 0, 0, 0, 2, 0, 0, 6, 1] ++ List.replicate 27 0
def disc1 : Link → Link := fun l => { l with state := .discovered, partner := some pbody }
def attS : State := lk (fun l => { l with state := .attached, partner := some pbody, align := true })
def cell0 (ty : Byte) (b : List Byte) : Cell := { zCell with ty := ty, body := (b ++ List.replicate 40 0).take 40 }
def RS : State := { S1 with power := { S1.power with stage := .hostReady } }
def path1 : PathRec := { zPathRec with hops := 1, reserving := true }
def pathS (p : PathRec) : State := fab (fun f => { f with paths := [p] }) S1
def srcCell (ty : Byte) (b : List Byte) : Cell := { cell0 ty b with mode := 1 }
def inc1 (e : SwEntry) : State := fab (fun f => { f with incoming := [(0, e)] }) attS
def twinS (d : Bool) : State := fab (fun f => { f with twins := Vector.replicate 8 { role := 2, driving := d }, pair := some { zPair with matched := true } }) S1
def candS (t : Nat) (c : CandState) : State :=
  regSetFld (Reg.refCfg 0) 3 1 t { S1 with clock := { S1.clock with cands := Vector.replicate 8 { Cand.reset with state := c } } }
theorem nodeNow_lt (s : State) (h : 0 < tickSpan s) : (nodeNow s).1 < boundaryTime s + tickSpan s :=
  Nat.add_lt_add_left (Nat.mod_lt _ h) _
def slot0 (s : State) (t : Int) : Int :=
  if t ≤ (depUnits s 0 : Int) then (depUnits s 0 : Int)
  else (depUnits s 0 : Int) + (-(((depUnits s 0 : Int) - t) / (unitTick s : Int))) * (unitTick s : Int)
theorem foldl_keeps {α β : Type} (P : β → Prop) (f : β → α → β) (hf : ∀ b a, P b → P (f b a)) :
    ∀ (l : List α) (b : β), P b → P (l.foldl f b)
  | [], _, h => h
  | a :: l, b, h => foldl_keeps P f hf l (f b a) (hf b a h)
theorem chooseSlot_some (s : State) (o : Fin 16) (t : Int) (hn : slotsPerTick s = 7167 + 1) (he : allEntries s = []) :
    ∃ i d, chooseSlot s o t = some (i, d) ∧ d ≤ slot0 s t := by
  suffices h : ∀ r, r = chooseSlot s o t → ∃ x, r = some x ∧ x.2 ≤ slot0 s t by
    obtain ⟨⟨i, d⟩, h1, h2⟩ := h _ rfl
    exact ⟨i, d, h1, h2⟩
  intro r hr
  rw [hr]
  unfold chooseSlot
  rw [hn, List.range_succ_eq_map, List.foldl_cons, he]
  apply foldl_keeps (fun r : Option (Nat × Int) => ∃ x, r = some x ∧ x.2 ≤ slot0 s t)
  · rintro b a ⟨x, rfl, hx⟩
    dsimp only
    split
    · exact ⟨x, rfl, hx⟩
    · split
      · split
        · exact ⟨_, rfl, by simp_all; omega⟩
        · exact ⟨x, rfl, hx⟩
      · split
        · exact ⟨_, rfl, by simp_all; omega⟩
        · exact ⟨x, rfl, hx⟩
  · refine ⟨(0, slot0 s t), ?_, Int.le_refl _⟩
    simp [slot0]
theorem pathAt_forward (s : State) (src : BitVec 12) (hops : Nat) (route : BitVec 64) (h : Nat) (ofs : Int) (b : PathBody)
    (hh : h ≠ hops) (ha : attached s (routeEntry route h) = true) (hn : slotsPerTick s = 7167 + 1) (he : allEntries s = [])
    (ht : bitOf b.tap.toNat h = false)
    (hd : slot0 s (if h = 0 then 1000 * (unitNs s : Int) else b.acc * (unitNs s : Int) + ofs + 1000 * (unitNs s : Int)) + 500 * (unitNs s : Int) ≤
      b.limit * (unitNs s : Int)) :
    ∃ r o e, pathAt s src hops route h ofs b = .forward r o e := by
  obtain ⟨i, d, h1, h2⟩ := chooseSlot_some s (routeEntry route h)
    (if h = 0 then 1000 * (unitNs s : Int) else b.acc * (unitNs s : Int) + ofs + 1000 * (unitNs s : Int)) hn he
  have hl : ¬ ((b.limit : Int) * (unitNs s : Int) < d + 500 * (unitNs s : Int)) := by omega
  unfold pathAt
  simp only [if_neg hh, ha, h1, ht, if_neg hl, Bool.not_true, Bool.and_false, Bool.false_and, Bool.false_eq_true, if_false]
  exact ⟨_, _, _, rfl⟩
def bOf (s : State) (a : PathReserveArgs) : PathBody :=
  { addCh := a.addCh, copy := a.copy, gen := a.gen, result := 0, dropCh := a.dropCh, tap := a.tapMask, failHop := 0, limit := if a.limitNs = 0 then tickNs s else a.limitNs.toNat, acc := 0, tickLo := BitVec.ofNat 32 (if a.tick = 0 then openTick s else a.tick.toNat), slots := List.replicate 8 0, ret := 0 }
def aRes : PathReserveArgs := { zPathReserveArgs with hops := 1, limitNs := 0xFFFFFFFF }
theorem forwards_reserve : ∃ r o e, pathAt attS attS.node.id 1 (BitVec.ofNat 64 aRes.route.toNat) 0 0 (bOf attS aRes) = .forward r o e :=
  pathAt_forward attS _ 1 _ 0 0 _ (by decide) (by decide +kernel) (by decide +kernel) (by decide +kernel) (by decide) (by decide +kernel)
def cPS : Cell := { srcCell 0x10 (List.replicate 8 0 ++ [255, 255, 255, 255]) with hops := 1 }
theorem forwards_cell : ∃ r o e, pathAt attS 0 1 cPS.route 0 (ofSixteenth attS attS.links[0].rxOfs)
    { pathBody cPS with ret := setRet (pathBody cPS).ret (cPS.hop.toNat - 1) 0 } = .forward r o e :=
  pathAt_forward attS _ 1 _ 0 _ _ (by decide) (by decide +kernel) (by decide +kernel) (by decide +kernel) (by decide +kernel)
    (by decide +kernel)
def ethS (f : EthPort → EthPort) (s : State) : State := ethMod 0 f s
def up0 : State := ethS (fun e => { e with up := true }) S1
def port0 : State := regSet (Reg.ethIpv4 0) 1 (regSet (Reg.ethCtrl 0) 1 S1)
def ptpS (v : Word) (st : BitVec 4) : State := regSet (Reg.ethPtpCfg 0) v (ethS (fun e => { e with ptpState := st }) up0)
def rxA : AoipRxArgs := { zAoipRxArgs with enable := true, channels := 1, pt := 96, linkOffset := 4096 }
def txA : AoipTxArgs := { zAoipTxArgs with enable := true, channels := 1, pt := 96, dstMac := 1 }
def rx1 : AoipRx := { AoipRx.fresh rxA with on := true }
def rxS (x : AoipRx) : State := { up0 with net := { up0.net with rx := [(0, x)] } }
def rtp0 (n : Nat) : RtpIn := { zRtpIn with pt := 96, payload := List.replicate n 0 }
def portS (f : Port → Port) : State := portMod 0 f S1
def fencedS (u : FenceUnit) : State := { S1 with sump := { S1.sump with fences := [(u, false)] } }
def aesS (b : AesBlock) : State := portMod 8 (fun x => { x with cs := Vector.replicate 2 b }) S1
def chS (f : PsCh → PsCh) : State := chMod 0 f S1
def modeS (n : Nat) (s : State) : State := regSetFld Reg.hifCtrl 1 0 n s
def hifS (f : HostIf → HostIf) (s : State) : State := { s with hif := f s.hif }
def ring1 : State :=
  { hifS (fun h => { h with polling := true, rings := Vector.replicate 8 { CmdRing.reset with log2 := 1, tail := 1 }, cqs := Vector.replicate 4 { RecQueue.reset with log2 := 4, phase := true } }) (modeS 1 S1) with localMem := [(2, 1)] }
def dmaS (f : DmaCh → DmaCh) (l : List Byte) : State :=
  { dmaMod 0 (fun c => f { c with state := .running, log2 := 1, tail := 1, mode := 1 })
      (hifS (fun h => { h with dcq := { RecQueue.reset with log2 := 4 } }) S1) with localMem := memWrite [] 0 l }
def cur1 : DmaCur := { desc := { own := true, irq := false, tag := 0, length := 1, hostAddr := 0, devAddr := 0, toHost := true, badArg := false }, index := 0, done := 0, firstTick := none, trunc := false }
def cur2 : DmaCur := { cur1 with desc := { cur1.desc with devAddr := 0x10000000 } }
def cur3 : DmaCur := { cur1 with desc := { cur1.desc with toHost := false } }
def copyS : State := dmaS (fun c => { c with cur := some cur2 }) []
def ownS (l : List TunReq) : State :=
  { hifS (fun h => { h with owner := some zOwner }) attS with tun := { attS.tun with unacked := l } }
def brS (b : Bridge) (l : List TunRegWait) : State := { attS with tun := { attS.tun with bridges := [(0, b)], regWaits := l } }
def mbS (f : MbBus → MbBus) (s : State) : State := mbMod 0 f s
def mbR (v : Word) : State := regSet (Reg.mbTgtReq 0) 1 (regSet (Reg.mbCtrl 0) v (mbS (fun b => { b with free := true }) RS))
def sumpS (src : Nat) (st : FaultState) (sev : Nat) (f : List (FenceUnit × Bool)) : State :=
  { S1 with sump := { S1.sump with insts := [(src * 256, { SumpInst.reset with state := st, sev := sev })], fences := f } }
def propS (p : Proposal) : State := { S1 with wear := { S1.wear with proposals := [p] } }
def goodCheck : ImageCheck :=
  { zImageCheck with header := [0x43, 0x52, 0x48, 0x49, 1, 0, 0, 0, 0, 0x20, 0, 0, 0, 0, 0, 0], keyBlock := [0x43, 0x4B, 0x59, 0x4B, 97, 0, 0, 0],
                     keyHashOk := true, signatureOk := true, digestOk := true }
def commitS (n : Nat) : State := { S1 with flash := { S1.flash with commit := some { zCommit with step := n } } }
def writeS (x : StoreWrite) : State := { S1 with flash := { S1.flash with writes := [x] } }
def validS (s : State) : State := { s with flash := { s.flash with slots := Vector.replicate 2 { s.flash.slots[0] with state := .valid } } }
def atTick (n : BitVec 64) (s : State) : State := { s with time := { s.time with tick := n } }
def later (s : State) : State := { s with time := { s.time with refTime := 10 ^ 10 } }
def haltS : State := dmaMod 0 (fun c => { c with state := .halted }) S1
def runS (s : State) : State := { s with clock := { s.clock with plls := vmap (fun (p : Pll) => { p with locked := true }) s.clock.plls } }
def frameOf (l : List Byte) : EthFrame := { zEthFrame with fcsOk := true, bytes := l ++ List.replicate (60 - l.length) 0 }
def stoodBy : State := { S1 with ps := { (chS fun x => { x with state := .fault }).ps with waits := [{ ticket := zTicket, tick := 0, results := [(0, none)] }] } }

/-! ### Ill-formed commands are refused by `Instr.wf` -/

def longStore : HostStore := { addr := BitVec.ofNat 64 (2 ^ 64 - 1), bytes := [0, 0], bar2 := false }
def badHdr : CmdHdr := hdr [longStore]
def shortCell : Cell := { zCell with body := [] }
theorem test_wf_store_past_the_top : Instr.wf 4 (.pollRound [longStore]) = false := by decide
theorem test_wf_mode_write_store : Instr.wf 4 (.hifModeWrite .bar0 0 [longStore]) = false := by decide
theorem test_wf_wake_store : Instr.wf 4 (.wakeWrite [longStore]) = false := by decide
theorem test_wf_dma_store : Instr.wf 4 (.dmaDescriptorBegin 0 [longStore]) = false := by decide
theorem test_wf_header : Instr.wf 4 (.benchQuery badHdr 0 0 0) = false := by decide
theorem test_wf_cell_body : Instr.wf 4 (.discover 0 shortCell) = false := by decide
theorem test_wf_sense_length : Instr.wf 4 (.tickBoundary { zTickIn with sense := [] }) = false := by decide
theorem test_wf_param_words : Instr.wf 4 (.paramWrite zCmdHdr zParamWriteArgs) = false := by decide
theorem test_wf_marker_bytes : Instr.wf 4 (.frameMarker 0 zFrameMarker) = false := by decide
theorem test_wf_slot_bytes : Instr.wf 4 (.slotReceived 0 zSlotIn) = false := by decide
theorem test_wf_global_arg : Instr.wf 4 (.globalOp zCmdHdr zGlobalOpArgs) = false := by decide
theorem test_wf_measures : Instr.wf 4 (.refSecond { cands := [], tempMk := 0 }) = false := by decide
theorem test_wf_alignment_ns : Instr.wf 4 (.tickAlignment 0 { zTimeVal with ns := 1000000000 }) = false := by decide
theorem test_wf_edge_ns : Instr.wf 4 (.captureEdge 0 true { zTimeVal with ns := 1000000000 }) = false := by decide
theorem test_wf_short_frame : Instr.wf 4 (.ethFrameReceived 0 zEthFrame) = false := by decide
theorem test_wf_stream_block : Instr.wf 4 (.aoipCsSet zCmdHdr 0 0 0 []) = false := by decide
theorem test_wf_port_masks : Instr.wf 4 (.portSlots zCmdHdr zPortSlotsArgs) = false := by decide
theorem test_wf_status_block : Instr.wf 4 (.aesCsSet zCmdHdr zAesCsSetArgs) = false := by decide
theorem test_wf_training_marker : Instr.wf 4 (.trainingMarker 0 zTrainMarker zFirWish) = false := by decide
theorem test_wf_image_header : Instr.wf 4 (.slotCheck zImageCheck) = false := by decide
theorem test_wf_tunnel_words : Instr.wf 4 (.tunnelReg zCmdHdr { zTunnelRegArgs with data := List.replicate 9 0 }) = false := by decide
theorem test_wf_bus_bytes : Instr.wf 4 (.mbXfer zCmdHdr zMbXferArgs .hang) = false := by decide
/-- Commands that are well-formed. -/
theorem test_wf_accepts : Instr.wf 4 (.pollRound [{ addr := 0, bytes := [1], bar2 := false }]) = true ∧ Instr.wf 4 (.discover 0 (cell0 1 [])) = true ∧
    Instr.wf 4 (.benchQuery zCmdHdr 0 0 0) = true ∧ Instr.wf 4 .watchdog = true := by decide

/-! ### The spec's worked examples -/

def ascii9 : List Byte := [0x31, 0x32, 0x33, 0x34, 0x35, 0x36, 0x37, 0x38, 0x39]
/-- 06_dorura_links: the check value of the CRC-8 of R168. -/
theorem test_crc8_check : crc8 ascii9 = 0xDF := by decide +kernel
/-- 10_serial_aes_ports: the check value of the AES3 CRCC of R324. -/
theorem test_aes_crc_check : crcResult 8 true false (crcFeedAll 8 0x1D true 0xFF ascii9) = 0x97 := by decide +kernel
/-- 13_matrix_crc: the running value and the result of the CRC-32C of R110. -/
theorem test_crc32c_check : crcFeedAll 32 0x1EDC6F41 true 0xFFFFFFFF ascii9 = 0x3EB69F38 ∧ crc32c ascii9 = 0xE3069283 := by decide +kernel
/-- 00_scope: fabric drop 300 and bench channel 37 as endpoint numbers. -/
theorem test_endpoint_numbers : ep 0 300 = 0x012C ∧ ep 6 37 = 0x6025 ∧ epNull 0xF000 = true := by decide
def ramp960 : Gain := { inv := false, target := some (-5120), start := 256 * (-1536), n := 960, j := 0 }
/-- 02_router: −6.0 dB to −20.0 dB over 960 samples: −6.0146, −13.0 and −20.0 dB at steps 1, 480 and 960. -/
theorem test_gain_ramp_levels : ramp960.levelAt 1 = -394172 ∧ ramp960.levelAt 480 = -13 * 65536 ∧ ramp960.levelAt 960 = -20 * 65536 := by decide +kernel
/-- 02_router: 10 ms at 96 kHz are 960 samples; 04_spindle: 1 ms are 96. -/
theorem test_ramp_samples : rampSamples 96000 4 10 = 960 ∧ rampSamples 96000 4 1 = 96 := by decide
/-- 04_spindle: −12.0 dB to 0.0 dB over 96 samples rises by 8,192 each. -/
theorem test_spindle_ramp : ({ inv := false, target := some 0, start := 256 * (-3072), n := 96, j := 0 } : Gain).levelAt 49 = -5875 * 65536 / 1000 := by
  decide +kernel
/-- 11_power_stage: four channels share 1,164 W, and with channel 0 at 240 W every channel has its budget. -/
theorem test_power_shares :
    shares 1164000 [(500000, 600000), (500000, 600000), (150000, 200000), (150000, 200000)] = [436500, 436500, 145500, 145500] ∧
    shares 1164000 [(480000, 240000), (500000, 600000), (150000, 200000), (150000, 200000)] = [240000, 600000, 200000, 200000] := by
  decide +kernel
/-- 11_power_stage: a budget of 240 W against 480 W is −3.01 dB, 145.5 W against 150 W is −0.13 dB, to 1/256 dB downward. -/
theorem test_budget_targets : budgetTarget 240000 480000 0 = some (-771) ∧ budgetTarget 145500 150000 0 = some (-34) := by decide +kernel
/-- 11_power_stage: 5,600 mΩ at 25 °C and 7,200 mΩ now: the coil stands at 97.7 °C. -/
theorem test_coil_temperature : ((match exec (.pilotEstimate 0 7200 50000) (regSet (Reg.psChTherm 0) 0x001915E0 (regSet (Reg.psChCfg 0) 0x100
    (chS fun x => { x with state := .running, demod := { vRe := 18, vIm := 0, iRe := 10, iIm := 0, n := 1 } }))) with
  | .next t => t.ps.ch[(0 : Fin 8)].tvc
  | _ => 0) : Int) = 977 := by decide +kernel
/-- 08_clocking: for 3,932,160 kHz entry 0x60 at 3,936,820 kHz comes first. -/
theorem test_nearest_band : ((bandTries (regSet (Reg.band 4 0) (BitVec.ofNat 32 (3901450 * 256 + 0x5C)) (regSet (Reg.band 4 1)
    (BitVec.ofNat 32 (3936820 * 256 + 0x60)) (regSet (Reg.band 4 2) (BitVec.ofNat 32 (3972310 * 256 + 0x64)) S1))) 4 3932160).map
    fun x => x.2.1) = [0x60, 0x5C, 0x64] := by decide +kernel
/-- 06_dorura_links: what the scrambler 1 + x^39 + x^58 sends, the descrambler takes back, both starting from one register. -/
theorem test_line_descrambled : (throughBits descrambleBit 7 (throughBits scrambleBit 7 (markerBlock [0x1D, 1, 2, 3, 4, 5, 6]).bits).1).1 =
    (markerBlock [0x1D, 1, 2, 3, 4, 5, 6]).bits := by decide +kernel
/-- 11_power_stage: at x = 0 both half-bridges stand at a duty of one half, and a full positive x at the rail's own voltage is
clamped to 0.98. -/
theorem test_duty : duties (dutyA 0 100 1000) = (2 ^ 31, 2 ^ 31) ∧ dutyOut (dutyA (2 ^ 31) 100 1000) = true ∧
    (duties (dutyA (2 ^ 31) 100 1000)).1 = 98 * 2 ^ 32 / 100 := by decide +kernel
/-- An empty queue idles; a command at the front is taken off it. -/
theorem test_idle_and_take : step S1 = .next S1 ∧
    (match step { S1 with pending := [.alignWaitExpiry] } with | .next t => t.pending.length | _ => 9) = 0 := ⟨rfl, by decide +kernel⟩

/-! ### The hypotheses of the obligations can be met -/

theorem test_meets_StepRunsFrontCommand :
  ∃ (c : Instr) (rest : List Instr) (s : State), s.pending = c :: rest :=
  ⟨(.tickKerfOpen : Instr), ([] : List Instr), ({ State.reset with pending := [.tickKerfOpen] } : State),
    by rfl⟩

theorem test_meets_EmptyQueueIdles :
  ∃ (s : State), s.pending = [] :=
  ⟨(State.reset : State),
    by rfl⟩

theorem test_meets_TickFieldSchedules :
  (∃ (f : BitVec 64), f = 0) ∧
  (∃ (s : State) (f : BitVec 64), 0 < f.toNat ∧ openTick s ≤ f.toNat ∧ f.toNat ≤ now s + 2 ^ 32) ∧
  (∃ (s : State) (f : BitVec 64), 0 < f.toNat ∧ f.toNat < openTick s) ∧
  (∃ (s : State) (f : BitVec 64), now s + 2 ^ 32 < f.toNat) ∧
  (∃ (h : CmdHdr) (f : BitVec 64) (s : State), Taken h true s ∧ now s + 2 ^ 32 < f.toNat) :=
  ⟨⟨(0 : BitVec 64),
    by rfl⟩,
  ⟨(State.reset : State), (1 : BitVec 64),
    by decide, by rfl, by decide⟩,
  ⟨({ State.reset with time := { S1.time with tick := 5 } } : State), (1 : BitVec 64),
    by decide, by decide⟩,
  ⟨(State.reset : State), (0xFFFFFFFFFFFFFFFF : BitVec 64),
    by decide⟩,
  ⟨(zCmdHdr : CmdHdr), (0xFFFFFFFFFFFFFFFF : BitVec 64), (State.reset : State),
    ⟨rfl, rfl⟩, by decide⟩⟩

theorem test_meets_RouterCommandsHeld :
  (∃ (h : CmdHdr) (a : RouteSetArgs) (i : Fin 4) (p : Bool) (ms : Nat) (s : State) (n : Nat) (late : Bool), Taken h true s ∧
    schedule a.tick s = some (n, late) ∧ a.input.toNat = i.val ∧ lawField s a.law = some p ∧ rampField s 1000 a.rampMs = some ms
    ∧ dstExists s a.dest = true ∧ (epNull a.source || srcExists s a.source) = true ∧ gainWordValid a.gain = true ∧ routeRefusal
    [{ dest := a.dest, input := i, source := a.source, power := p, ms := ms, gain := a.gain }] (takenState h s) = none) ∧
  (∃ (h : CmdHdr) (a : GainSetArgs) (i : Fin 4) (ms : Nat) (s : State) (n : Nat) (late : Bool), Taken h true s ∧ schedule a.tick
    s = some (n, late) ∧ a.input.toNat = i.val ∧ rampField s 10000 a.rampMs = some ms ∧ dstExists s a.dest = true ∧
    gainWordValid a.gain = true ∧ directOwned (takenState h s) a.dest none = false) ∧
  (∃ (h : CmdHdr) (a : RouteClearArgs) (p : Bool) (ms : Nat) (s : State) (n : Nat) (late : Bool), Taken h true s ∧ schedule
    a.tick s = some (n, late) ∧ lawField s a.law = some p ∧ rampField s 1000 a.rampMs = some ms ∧ dstExists s a.dest = true) ∧
  (∃ (h : CmdHdr) (a : DirectSetArgs) (ch : Fin 64) (ms : Nat) (s : State) (n : Nat) (late : Bool), Taken h true s ∧ schedule
    a.tick s = some (n, late) ∧ a.channel.toNat = ch.val ∧ rampField s 1000 a.rampMs = some ms ∧ gainWordValid a.gain = true ∧
    (epNull a.source = true ∨ (directSource s a.source = true ∧ directDest s a.dest = true ∧ directSync (takenState h s) false
    a.source = true ∧ directSync (takenState h s) true a.dest = true ∧ hasEntry (takenState h s) a.dest.toNat = false ∧
    directOwned (takenState h s) a.dest (some ch) = false))) ∧
  (∃ (h : CmdHdr) (a : TestgenSetArgs) (g : Fin 16) (s : State) (n : Nat) (late : Bool), Taken h true s ∧ schedule a.tick s =
    some (n, late) ∧ a.gen.toNat = g.val ∧ a.wave.toNat ≤ 3 ∧ gainWordValid a.level = true ∧ (a.wave.toNat = 1 → 1 ≤
    a.freq.toNat ∧ a.freq.toNat ≤ 500 * fs s) ∧ (a.wave.toNat = 2 → a.seed ≠ 0)) :=
  ⟨⟨(zCmdHdr : CmdHdr), ({ zRouteSetArgs with dest := 0x7000, source := 0x7001 } : RouteSetArgs), (0 : Fin 4), (false : Bool), (0 : Nat), (State.reset : State), (1 : Nat), (false : Bool),
    ⟨rfl, rfl⟩, by rfl, by rfl, by rfl, by rfl, by rfl, by rfl, by rfl, by rfl⟩,
  ⟨(zCmdHdr : CmdHdr), ({ zGainSetArgs with dest := 0xF000 } : GainSetArgs), (0 : Fin 4), (0 : Nat), (State.reset : State), (1 : Nat), (false : Bool),
    ⟨rfl, rfl⟩, by rfl, by rfl, by rfl, by rfl, by rfl, by rfl⟩,
  ⟨(zCmdHdr : CmdHdr), ({ zRouteClearArgs with dest := 0x700F } : RouteClearArgs), (false : Bool), (0 : Nat), (State.reset : State), (1 : Nat), (false : Bool),
    ⟨rfl, rfl⟩, by rfl, by rfl, by rfl, by rfl⟩,
  ⟨(zCmdHdr : CmdHdr), ({ zDirectSetArgs with source := 0xF000 } : DirectSetArgs), (0 : Fin 64), (0 : Nat), (State.reset : State), (1 : Nat), (false : Bool),
    ⟨rfl, rfl⟩, by rfl, by rfl, by rfl, by rfl, by decide⟩,
  ⟨(zCmdHdr : CmdHdr), (zTestgenSetArgs : TestgenSetArgs), (0 : Fin 16), (State.reset : State), (1 : Nat), (false : Bool),
    ⟨rfl, rfl⟩, by rfl, by rfl, by decide, by rfl, by decide, by decide⟩⟩

theorem test_meets_RouteBatchHeldAndQueryQueued :
  (∃ (h : CmdHdr) (a : RouteBatchArgs) (l : List RouteAct) (s : State) (n : Nat) (late : Bool), Taken h true s ∧ schedule a.tick
    s = some (n, late) ∧ dmaHalted s = false ∧ aligned8 a.addr = true ∧ 1 ≤ a.count.toNat ∧ a.count.toNat ≤ 4096 ∧
    (a.version.toNat = if s.power.compat then 1 else 2) ∧ batchList (hostStores h.stores s) (!s.power.compat) a.addr.toNat
    a.count.toNat = some l ∧ routeRefusal l (takenState h s) = none) ∧
  (∃ (h : CmdHdr) (dest : BitVec 16) (s : State), Taken h false s ∧ dstExists s dest = true) :=
  ⟨⟨(hdr [{ addr := 0, bytes := [0x00, 0x70, 0, 0, 0, 0, 0, 0, 0, 0, 0, 0, 0, 0, 0, 0], bar2 := false }] : CmdHdr), ({ zRouteBatchArgs with count := 1, version := 2 } : RouteBatchArgs), _, (State.reset : State), (1 : Nat), (false : Bool),
    ⟨rfl, rfl⟩, by rfl, by rfl, by rfl, by rfl, by decide, by rfl, rfl, by rfl⟩,
  ⟨(zCmdHdr : CmdHdr), (0x7000 : BitVec 16), (State.reset : State),
    ⟨rfl, rfl⟩, by rfl⟩⟩

theorem test_meets_RouteSetAtItsBoundary :
  (∃ (a : RouteAct) (n : Nat), 0 < n ∧ epNull a.source = true) ∧
  (∃ (taps : List Tap) (a : RouteAct) (n : Nat) (t : Tap) (more : List Tap), 0 < n ∧ epNull a.source = false ∧ (((taps.filter
    fun t => t.input = a.input).filter fun t => t.source = a.source) = t :: more)) ∧
  (∃ (taps : List Tap) (a : RouteAct) (n : Nat), 0 < n ∧ epNull a.source = false ∧ (∀ t ∈ taps, t.input = a.input → t.source ≠
    a.source) ∧ taps.length < 4) ∧
  (∃ (taps : List Tap) (a : RouteAct) (n : Nat), 0 < n ∧ epNull a.source = false ∧ (∀ t ∈ taps, t.input = a.input → t.source ≠
    a.source) ∧ 4 ≤ taps.length) ∧
  (∃ (a : RouteAct) (s : State) (l : List Tap), epNull a.dest = false ∧ routeChange (routeTaps s a.dest.toNat) a (rampSamples
    (fs s) (spt s) a.ms) = some l ∧ l ≠ []) ∧
  (∃ (a : RouteAct) (s : State), epNull a.dest = false ∧ routeChange (routeTaps s a.dest.toNat) a (rampSamples (fs s) (spt s)
    a.ms) = none) :=
  ⟨⟨({ zRouteAct with source := 0xF000 } : RouteAct), (1 : Nat),
    by decide, by rfl⟩,
  ⟨([tap0 0] : List Tap), (zRouteAct : RouteAct), (1 : Nat), (tap0 0 : Tap), ([] : List Tap),
    by decide, by rfl, by rfl⟩,
  ⟨([] : List Tap), (zRouteAct : RouteAct), (1 : Nat),
    by decide, by rfl, by decide, by decide⟩,
  ⟨([tap0 1, tap0 2, tap0 3, tap0 4] : List Tap), (zRouteAct : RouteAct), (1 : Nat),
    by decide, by rfl, by decide, by rfl⟩,
  ⟨({ zRouteAct with dest := 0x7000, source := 0x7001 } : RouteAct), (S1 : State), _,
    by rfl, rfl, by decide⟩,
  ⟨({ zRouteAct with dest := 0x7000, source := 0x7001, ms := 1 } : RouteAct), (route1 [tap0 1, tap0 2, tap0 3, tap0 4] : State),
    by rfl, by rfl⟩⟩

theorem test_meets_GainClearDirectAtTheirBoundary :
  (∃ (d : BitVec 16) (i : Fin 4) (s : State) (c : Tap), currentTap (routeTaps s d.toNat) i = some c) ∧
  (∃ (d : BitVec 16) (i : Fin 4) (s : State), currentTap (routeTaps s d.toNat) i = none) ∧
  (∃ (taps : List Tap) (i : Fin 4), (∀ t ∈ taps, t.input = i → t.n ≠ 0 ∧ t.up = false)) ∧
  (∃ (won : Obj → Bool) (d : BitVec 16) (ms : Nat) (s : State) (taps : List Tap), (∀ o, won o = false) ∧ mapGet s.router.routes
    d.toNat = some taps ∧ 0 < rampSamples (fs s) (spt s) ms) ∧
  (∃ (x : Direct) (a : BitVec 16), x.ends = none ∧ epNull a = false) ∧
  (∃ (x : Direct) (a : BitVec 16) (b : BitVec 16), x.ends = some (a, b) ∧ epNull a = false) ∧
  (∃ (x : Direct) (e : BitVec 16 × BitVec 16) (a : BitVec 16) (b : BitVec 16) (n : Nat), x.ends = some e ∧ e ≠ (a, b) ∧ epNull a
    = false ∧ 0 < n) ∧
  (∃ (x : Direct) (e : BitVec 16 × BitVec 16) (a : BitVec 16) (n : Nat), x.ends = some e ∧ epNull a = true ∧ 0 < n) ∧
  (∃ (c : Fin 64) (a : BitVec 16) (b : BitVec 16) (s : State), epNull a = false ∧ ((mapGet s.router.routes b.toNat).isSome =
    true ∨ directOwned s b (some c) = true)) ∧
  (∃ (c : Fin 64) (a : BitVec 16) (b : BitVec 16) (s : State), (epNull a = true ∨ ((mapGet s.router.routes b.toNat).isSome =
    false ∧ directOwned s b (some c) = false))) :=
  ⟨⟨(0x7000 : BitVec 16), (0 : Fin 4), (route1 [tap0 1] : State), (tap0 1 : Tap),
    by rfl⟩,
  ⟨(0 : BitVec 16), (0 : Fin 4), (State.reset : State),
    by rfl⟩,
  ⟨([] : List Tap), (0 : Fin 4),
    by decide⟩,
  ⟨(fun _ => false : Obj → Bool), (0x7000 : BitVec 16), (1 : Nat), (route1 [tap0 1] : State), ([tap0 1] : List Tap),
    (fun _ => rfl), by rfl, by decide⟩,
  ⟨(Direct.reset : Direct), (0 : BitVec 16),
    by rfl, by rfl⟩,
  ⟨({ zDirect with ends := some (0x2000, 0x8000) } : Direct), (0x2000 : BitVec 16), (0x8000 : BitVec 16),
    by rfl, by rfl⟩,
  ⟨({ zDirect with ends := some (0x2000, 0x8000) } : Direct), ((0x2000, 0x8000) : BitVec 16 × BitVec 16), (0x2001 : BitVec 16), (0x8000 : BitVec 16), (1 : Nat),
    by rfl, by decide, by rfl, by decide⟩,
  ⟨({ zDirect with ends := some (0x2000, 0x8000) } : Direct), ((0x2000, 0x8000) : BitVec 16 × BitVec 16), (0xF001 : BitVec 16), (1 : Nat),
    by rfl, by rfl, by decide⟩,
  ⟨(0 : Fin 64), (0 : BitVec 16), (0x7000 : BitVec 16), (route1 [tap0 1] : State),
    by rfl, (.inl rfl)⟩,
  ⟨(0 : Fin 64), (0 : BitVec 16), (0 : BitVec 16), (State.reset : State),
    by decide⟩⟩

theorem test_meets_TileLoadsAndQueriesTaken :
  (∃ (h : CmdHdr) (a : TileLoadArgs) (n : Fin 16) (s : State), Taken h false s ∧ a.tile.toNat = n.val ∧ aligned8 a.addr = true ∧
    pageBusy (takenState h s) n = false ∧ dmaHalted (takenState h s) = false) ∧
  (∃ (n : Fin 16) (l : TileLoad) (pg : Page) (init : List (Nat × List Word)) (s : State), s.tiles[n].load = some l ∧ dmaHalted s
    = false ∧ l.length ≤ 0x300000 ∧ readWaits (.dma 32) l.addr.toNat l.length s = false ∧ checkImage s s.tiles[n].page l.length
    (hostRead s l.addr.toNat l.length) = .good pg init) ∧
  (∃ (n : Fin 16) (l : TileLoad) (st : Nat) (sp : Nat) (s : State), s.tiles[n].load = some l ∧ dmaHalted s = false ∧ l.length ≤
    0x300000 ∧ readWaits (.dma 32) l.addr.toNat l.length s = false ∧ checkImage s s.tiles[n].page l.length (hostRead s
    l.addr.toNat l.length) = .bad st sp) ∧
  (∃ (h : CmdHdr) (tile : Byte) (n : Fin 16) (s : State), Taken h false s ∧ tile.toNat = n.val ∧ pageBusy (takenState h s) n =
    false) ∧
  (∃ (h : CmdHdr) (tile : Byte) (n : Fin 16) (s : State), Taken h false s ∧ tile.toNat = n.val ∧ pageBusy (takenState h s) n =
    true) ∧
  (∃ (h : CmdHdr) (a : DmemReadArgs) (n : Fin 16) (s : State), Taken h false s ∧ a.tile.toNat = n.val ∧ 1 ≤ a.count.toNat ∧
    a.count.toNat ≤ 256 ∧ a.resultAddr.toNat % 4 = 0) ∧
  (∃ (h : CmdHdr) (tile : Byte) (n : Fin 16) (s : State), Taken h false s ∧ tile.toNat = n.val) :=
  ⟨⟨(zCmdHdr : CmdHdr), (zTileLoadArgs : TileLoadArgs), (0 : Fin 16), (State.reset : State),
    ⟨rfl, rfl⟩, by rfl, by rfl, by rfl, by rfl⟩,
  ⟨(0 : Fin 16), ({ zTileLoad with length := 160 } : TileLoad), ({ zPage with rows := [(0, 1 <<< 120)], rowCount := 1, tickProg := some (0, 0), tReload := [0, 0, 0, 0], bReload := [0, 0, 0, 0], count := 2 } : Page), ([] : List (Nat × List Word)), (loading : State),
    by rfl, by rfl, by decide, by rfl, (by decide +kernel)⟩,
  ⟨(0 : Fin 16), ({ zTileLoad with length := 127 } : TileLoad), _, _, (tileMod 0 (fun t => { t with load := some { zTileLoad with length := 127 } }) S1 : State),
    by rfl, by rfl, by decide, by rfl, rfl⟩,
  ⟨(zCmdHdr : CmdHdr), (0 : Byte), (0 : Fin 16), (State.reset : State),
    ⟨rfl, rfl⟩, by rfl, by rfl⟩,
  ⟨(zCmdHdr : CmdHdr), (0 : Byte), (0 : Fin 16), (tileMod 0 (fun t => { t with load := some zTileLoad }) S1 : State),
    ⟨rfl, rfl⟩, by rfl, by rfl⟩,
  ⟨(zCmdHdr : CmdHdr), ({ zDmemReadArgs with count := 1 } : DmemReadArgs), (0 : Fin 16), (State.reset : State),
    ⟨rfl, rfl⟩, by rfl, by rfl, by decide, by rfl⟩,
  ⟨(zCmdHdr : CmdHdr), (0 : Byte), (0 : Fin 16), (State.reset : State),
    ⟨rfl, rfl⟩, by rfl⟩⟩

theorem test_meets_TileTimedCommandsHeld :
  (∃ (h : CmdHdr) (tick : BitVec 64) (mask : BitVec 16) (s : State) (n : Nat) (late : Bool), Taken h true s ∧ schedule tick s =
    some (n, late) ∧ mask ≠ 0 ∧ (∀ n : Fin 16, n ∈ maskUnits 16 mask.toNat → s.tiles[n].load = none ∧ s.tiles[n].standbyPage ≠
    none)) ∧
  (∃ (h : CmdHdr) (tick : BitVec 64) (mask : BitVec 16) (k : Fin 16) (s : State) (n : Nat) (late : Bool), Taken h true s ∧
    schedule tick s = some (n, late) ∧ mask ≠ 0 ∧ k ∈ maskUnits 16 mask.toNat ∧ s.tiles[k].load ≠ none) ∧
  (∃ (h : CmdHdr) (tick : BitVec 64) (mask : BitVec 16) (k : Fin 16) (s : State) (n : Nat) (late : Bool), Taken h true s ∧
    schedule tick s = some (n, late) ∧ mask ≠ 0 ∧ (∀ j : Fin 16, j ∈ maskUnits 16 mask.toNat → s.tiles[j].load = none) ∧ k ∈
    maskUnits 16 mask.toNat ∧ s.tiles[k].standbyPage = none) ∧
  (∃ (h : CmdHdr) (a : ParamWriteArgs) (k : Fin 16) (s : State) (n : Nat) (late : Bool), Taken h true s ∧ schedule a.tick s =
    some (n, late) ∧ a.tile.toNat = k.val ∧ a.inline_ = true ∧ paramBad a = false ∧ (∀ w ∈ paramWords a a.data,
    s.tiles[k].isParam w.1 = true)) ∧
  (∃ (h : CmdHdr) (a : ParamWriteArgs) (k : Fin 16) (s : State) (n : Nat) (late : Bool), Taken h true s ∧ schedule a.tick s =
    some (n, late) ∧ a.tile.toNat = k.val ∧ a.inline_ = true ∧ paramBad a = false ∧ (∃ w ∈ paramWords a a.data,
    s.tiles[k].isParam w.1 = false)) ∧
  (∃ (h : CmdHdr) (a : RampSetArgs) (k : Fin 16) (u : Fin 64) (ms : Nat) (s : State) (n : Nat) (late : Bool), Taken h true s ∧
    schedule a.tick s = some (n, late) ∧ a.tile.toNat = k.val ∧ a.unit.toNat = u.val ∧ rampBad s a = false ∧ rampField s 10000
    a.rampMs = some ms ∧ fenced s (.tile k) = false ∧ (a.release = true ∨ ∀ w ∈ (rampSet a).words (spt s), s.tiles[k].isParam w
    = true)) :=
  ⟨⟨(zCmdHdr : CmdHdr), (0 : BitVec 64), (1 : BitVec 16), (paged 0 : State), (1 : Nat), (false : Bool),
    ⟨rfl, rfl⟩, by rfl, by decide, by decide⟩,
  ⟨(zCmdHdr : CmdHdr), (0 : BitVec 64), (1 : BitVec 16), (0 : Fin 16), (tileMod 0 (fun t => { t with load := some zTileLoad }) S1 : State), (1 : Nat), (false : Bool),
    ⟨rfl, rfl⟩, by rfl, by decide, by decide, by decide⟩,
  ⟨(zCmdHdr : CmdHdr), (0 : BitVec 64), (1 : BitVec 16), (0 : Fin 16), (State.reset : State), (1 : Nat), (false : Bool),
    ⟨rfl, rfl⟩, by rfl, by decide, by decide, by decide, by rfl⟩,
  ⟨(zCmdHdr : CmdHdr), ({ zParamWriteArgs with count := 8, inline_ := true, data := List.replicate 32 0 } : ParamWriteArgs), (0 : Fin 16), (paged 0 : State), (1 : Nat), (false : Bool),
    ⟨rfl, rfl⟩, by rfl, by rfl, by rfl, by rfl, by decide⟩,
  ⟨(zCmdHdr : CmdHdr), ({ zParamWriteArgs with count := 1, waddr := 8, inline_ := true, data := List.replicate 32 0 } : ParamWriteArgs), (0 : Fin 16), (paged 0 : State), (1 : Nat), (false : Bool),
    ⟨rfl, rfl⟩, by rfl, by rfl, by rfl, by rfl, by decide⟩,
  ⟨(zCmdHdr : CmdHdr), ({ zRampSetArgs with release := true } : RampSetArgs), (0 : Fin 16), (0 : Fin 64), (0 : Nat), (State.reset : State), (1 : Nat), (false : Bool),
    ⟨rfl, rfl⟩, by rfl, by rfl, by rfl, by rfl, by rfl, by rfl, by decide⟩⟩

theorem test_meets_TileCommandsAtTheirBoundary :
  (∃ (t : Tile) (pg : Page), t.standbyPage = some pg) ∧
  (∃ (l : List (Fin 16)) (s : State), (∀ n ∈ l, fenced s (.tile n) = false ∧ s.tiles[n].standbyPage ≠ none)) ∧
  (∃ (l : List (Fin 16)) (n : Fin 16) (s : State), n ∈ l ∧ fenced s (.tile n) = true) ∧
  (∃ (l : List (Fin 16)) (n : Fin 16) (s : State), (∀ m ∈ l, fenced s (.tile m) = false) ∧ n ∈ l ∧ s.tiles[n].standbyPage =
    none) ∧
  (∃ (n : Fin 16) (l : List (Nat × Word)) (s : State), (∀ w ∈ l, s.tiles[n].isParam w.1 = true ∧ s.tiles[n].rampBound (spt s)
    none w.1 = false ∧ limitBound s n w.1 = false)) ∧
  (∃ (n : Fin 16) (l : List (Nat × Word)) (w : Nat × Word) (s : State), w ∈ l ∧ s.tiles[n].isParam w.1 = false) ∧
  (∃ (n : Fin 16) (a : RampSetArgs) (s : State), fenced s (.tile n) = false ∧ a.release = true) :=
  ⟨⟨({ Tile.reset with pages := Vector.replicate 2 (some page1) } : Tile), (page1 : Page),
    by rfl⟩,
  ⟨([] : List (Fin 16)), (State.reset : State),
    by decide⟩,
  ⟨([0] : List (Fin 16)), (0 : Fin 16), ({ State.reset with sump := { S1.sump with fences := [(.tile 0, true)] } } : State),
    by decide, by rfl⟩,
  ⟨([0] : List (Fin 16)), (0 : Fin 16), (State.reset : State),
    by decide, by decide, by rfl⟩,
  ⟨(0 : Fin 16), ([] : List (Nat × Word)), (State.reset : State),
    by decide⟩,
  ⟨(0 : Fin 16), ([(8, 1)] : List (Nat × Word)), ((8, 1) : Nat × Word), (paged 0 : State),
    by decide, by rfl⟩,
  ⟨(0 : Fin 16), ({ zRampSetArgs with release := true } : RampSetArgs), (State.reset : State),
    by rfl, by rfl⟩⟩

theorem test_meets_BenchesAndObjectsAllocated :
  (∃ (h : CmdHdr) (b : Byte) (q : Word) (s : State), Taken h false s ∧ b.toNat < 64 ∧ 1 ≤ q.toNat ∧ q.toNat ≤ 7936 ∧ benchOf
    (takenState h s) b.toNat = none ∧ quotaSum (takenState h s) + q.toNat ≤ 7936) ∧
  (∃ (h : CmdHdr) (b : Byte) (q : Word) (s : State), Taken h false s ∧ b.toNat < 64 ∧ 1 ≤ q.toNat ∧ q.toNat ≤ 7936 ∧ benchOf
    (takenState h s) b.toNat = none ∧ 7936 < quotaSum (takenState h s) + q.toNat) ∧
  (∃ (h : CmdHdr) (b : Byte) (q : Word) (x : Bench) (s : State), Taken h false s ∧ b.toNat < 64 ∧ 1 ≤ q.toNat ∧ q.toNat ≤ 7936 ∧
    benchOf (takenState h s) b.toNat = some x ∧ (q.toNat ≤ x.quota ∨ quotaSum (takenState h s) - x.quota + q.toNat ≤ 7936)) ∧
  (∃ (h : CmdHdr) (b : Byte) (x : Bench) (s : State), Taken h false s ∧ b.toNat < 64 ∧ benchOf (takenState h s) b.toNat = some x
    ∧ (∀ e ∈ s.mem.objs, e.2.bench.val ≠ b.toNat)) ∧
  (∃ (h : CmdHdr) (a : ObjAllocArgs) (bn : Fin 64) (b : Bench) (s : State), Taken h false s ∧ allocBad (takenState h s) a =
    false ∧ a.bench.toNat = bn.val ∧ benchOf s bn.val = some b ∧ a.channel.toNat + a.channels.toNat ≤ 4096 ∧ (∀ i, i <
    a.channels.toNat → chanBound s (a.channel.toNat + i) = false) ∧ s.mem.objs.length < 8192 ∧ b.granules.length + b.newGranules
    (objExtents s a) ≤ b.quota ∧ mappedAll s + b.newGranules (objExtents s a) ≤ 7936) ∧
  (∃ (h : CmdHdr) (a : ObjAllocArgs) (bn : Fin 64) (s : State), Taken h false s ∧ allocBad (takenState h s) a = false ∧
    a.bench.toNat = bn.val ∧ benchOf (takenState h s) bn.val = none) ∧
  (∃ (h : CmdHdr) (a : ObjAllocArgs) (bn : Fin 64) (b : Bench) (i : Nat) (s : State), Taken h false s ∧ allocBad (takenState h
    s) a = false ∧ a.bench.toNat = bn.val ∧ benchOf (takenState h s) bn.val = some b ∧ i < a.channels.toNat ∧ chanBound
    (takenState h s) (a.channel.toNat + i) = true) ∧
  (∃ (h : CmdHdr) (b : Fin 64) (bench : Byte) (hd : BitVec 16) (addr : BitVec 64) (x : Bench) (s : State), Taken h false s ∧
    bench.toNat = b.val ∧ aligned8 addr = true ∧ benchOf (takenState h s) b.val = some x ∧ (hd = 0 ∨ ∃ o, objOf (takenState h s)
    hd.toNat = some o ∧ o.bench = b)) :=
  ⟨⟨(zCmdHdr : CmdHdr), (0 : Byte), (7936 : Word), (State.reset : State),
    ⟨rfl, rfl⟩, by decide, by decide, by rfl, by rfl, by rfl⟩,
  ⟨(zCmdHdr : CmdHdr), (1 : Byte), (7936 : Word), (benchS 1 : State),
    ⟨rfl, rfl⟩, by decide, by decide, by rfl, by rfl, by decide⟩,
  ⟨(zCmdHdr : CmdHdr), (0 : Byte), (1 : Word), ({ zBench with quota := 2 } : Bench), (benchS 2 : State),
    ⟨rfl, rfl⟩, by decide, by rfl, by decide, by rfl, by decide⟩,
  ⟨(zCmdHdr : CmdHdr), (0 : Byte), ({ zBench with quota := 1 } : Bench), (benchS 1 : State),
    ⟨rfl, rfl⟩, by decide, by rfl, by decide⟩,
  ⟨(zCmdHdr : CmdHdr), ({ zObjAllocArgs with ty := 4, size := 1 } : ObjAllocArgs), (0 : Fin 64), ({ zBench with quota := 1 } : Bench), (benchS 1 : State),
    ⟨rfl, rfl⟩, by rfl, by rfl, by rfl, by decide, (fun i hi => absurd hi (by simp [zObjAllocArgs])), by decide, by rfl,
    by decide⟩,
  ⟨(zCmdHdr : CmdHdr), ({ zObjAllocArgs with ty := 4, size := 1 } : ObjAllocArgs), (0 : Fin 64), (State.reset : State),
    ⟨rfl, rfl⟩, by rfl, by rfl, by rfl⟩,
  ⟨(zCmdHdr : CmdHdr), ({ zObjAllocArgs with ty := 1, channels := 1, size := 240000 } : ObjAllocArgs), (0 : Fin 64), ({ zBench with quota := 1 } : Bench), (0 : Nat), ({ benchS 1 with mem := { (benchS 1).mem with objs := [(1, { zBObj with chans := 1 })] } } : State),
    ⟨rfl, rfl⟩, by rfl, by rfl, by rfl, by decide, by rfl⟩,
  ⟨(zCmdHdr : CmdHdr), (0 : Fin 64), (0 : Byte), (0 : BitVec 16), (0 : BitVec 64), ({ zBench with quota := 1 } : Bench), (benchS 1 : State),
    ⟨rfl, rfl⟩, by rfl, by rfl, by rfl, (.inl rfl)⟩⟩

theorem test_meets_BenchTimedCommandsHeld :
  (∃ (h : CmdHdr) (tick : BitVec 64) (hd : BitVec 16) (o : BObj) (s : State) (n : Nat) (late : Bool), Taken h true s ∧ schedule
    tick s = some (n, late) ∧ objOf s hd.toNat = some o) ∧
  (∃ (h : CmdHdr) (tick : BitVec 64) (hd : BitVec 16) (s : State) (n : Nat) (late : Bool), Taken h true s ∧ schedule tick s =
    some (n, late) ∧ objOf s hd.toNat = none) ∧
  (∃ (h : CmdHdr) (a : DelaySetArgs) (o : BObj) (p : Bool) (ms : Nat) (s : State) (n : Nat) (late : Bool), Taken h true s ∧
    schedule a.tick s = some (n, late) ∧ objOf s a.handle.toNat = some o ∧ o.kind.code = 1 ∧ a.delay.toNat ≤ o.size ∧
    a.law.toNat < 4 ∧ a.mode.toNat ≤ 1 ∧ lawField s (BitVec.ofNat 2 a.law.toNat) = some p ∧ rampField s 1000 a.rampMs = some ms) ∧
  (∃ (h : CmdHdr) (a : DelaySetArgs) (o : BObj) (p : Bool) (ms : Nat) (s : State) (n : Nat) (late : Bool), Taken h true s ∧
    schedule a.tick s = some (n, late) ∧ objOf s a.handle.toNat = some o ∧ o.kind.code ≠ 1 ∧ a.law.toNat < 4 ∧ a.mode.toNat ≤ 1
    ∧ lawField s (BitVec.ofNat 2 a.law.toNat) = some p ∧ rampField s 1000 a.rampMs = some ms) ∧
  (∃ (h : CmdHdr) (a : PlayStartArgs) (o : BObj) (ms : Nat) (s : State) (n : Nat) (late : Bool), Taken h true s ∧ schedule
    a.tick s = some (n, late) ∧ objOf s a.handle.toNat = some o ∧ o.kind.code = 2 ∧ a.startFrame.toNat < o.size ∧
    a.loopStart.toNat < o.size ∧ gainWordValid a.gain = true ∧ rampField s 1000 a.rampMs = some ms) ∧
  (∃ (h : CmdHdr) (tick : BitVec 64) (hd : BitVec 16) (r : BitVec 16) (o : BObj) (ms : Nat) (s : State) (n : Nat) (late : Bool),
    Taken h true s ∧ schedule tick s = some (n, late) ∧ objOf s hd.toNat = some o ∧ o.kind.code = 2 ∧ rampField s 1000 r = some
    ms) ∧
  (∃ (h : CmdHdr) (tick : BitVec 64) (hd : BitVec 16) (r : BitVec 16) (ms : Nat) (s : State) (n : Nat) (late : Bool), Taken h
    true s ∧ schedule tick s = some (n, late) ∧ objOf s hd.toNat = none ∧ rampField s 1000 r = some ms) ∧
  (∃ (h : CmdHdr) (a : CaptureCtrlArgs) (o : BObj) (s : State) (n : Nat) (late : Bool), Taken h true s ∧ schedule a.tick s =
    some (n, late) ∧ objOf s a.handle.toNat = some o ∧ o.kind.code = 3 ∧ 1 ≤ a.action.toNat ∧ a.action.toNat ≤ 3 ∧
    (a.action.toNat = 3 ∨ a.startFrame.toNat < o.size)) ∧
  (∃ (h : CmdHdr) (a : SnapTakeArgs) (o : BObj) (l : List SnapItem) (s : State) (n : Nat) (late : Bool), Taken h true s ∧
    schedule a.tick s = some (n, late) ∧ 1 ≤ a.count.toNat ∧ a.count.toNat ≤ 256 ∧ aligned8 a.addr = true ∧ dmaHalted s = false
    ∧ objOf s a.handle.toNat = some o ∧ o.kind.code = 4 ∧ snapList (hostStores h.stores s) a.addr.toNat a.count.toNat = some l ∧
    (l.foldl (fun x i => x + i.count) 0 ≤ o.size)) :=
  ⟨⟨(zCmdHdr : CmdHdr), (0 : BitVec 64), (0 : BitVec 16), (clip1 : BObj), (objS clip1 : State), (1 : Nat), (false : Bool),
    ⟨rfl, rfl⟩, by rfl, by rfl⟩,
  ⟨(zCmdHdr : CmdHdr), (0 : BitVec 64), (0 : BitVec 16), (State.reset : State), (1 : Nat), (false : Bool),
    ⟨rfl, rfl⟩, by rfl, by rfl⟩,
  ⟨(zCmdHdr : CmdHdr), (zDelaySetArgs : DelaySetArgs), (zBObj : BObj), (false : Bool), (0 : Nat), (objS zBObj : State), (1 : Nat), (false : Bool),
    ⟨rfl, rfl⟩, by rfl, by rfl, by rfl, by rfl, by decide, by decide, by rfl, by rfl⟩,
  ⟨(zCmdHdr : CmdHdr), (zDelaySetArgs : DelaySetArgs), (clip1 : BObj), (false : Bool), (0 : Nat), (objS clip1 : State), (1 : Nat), (false : Bool),
    ⟨rfl, rfl⟩, by rfl, by rfl, by decide, by decide, by decide, by rfl, by rfl⟩,
  ⟨(zCmdHdr : CmdHdr), ({ zPlayStartArgs with startFrame := 3, gain := 0x8000, rampMs := 1000 } : PlayStartArgs), (clip1 : BObj), (1000 : Nat), (objS clip1 : State), (1 : Nat), (false : Bool),
    ⟨rfl, rfl⟩, by rfl, by rfl, by rfl, by decide, by decide, by rfl, by rfl⟩,
  ⟨(zCmdHdr : CmdHdr), (0 : BitVec 64), (0 : BitVec 16), (1000 : BitVec 16), (clip1 : BObj), (1000 : Nat), (objS clip1 : State), (1 : Nat), (false : Bool),
    ⟨rfl, rfl⟩, by rfl, by rfl, by rfl, by rfl⟩,
  ⟨(zCmdHdr : CmdHdr), (0 : BitVec 64), (0 : BitVec 16), (0 : BitVec 16), (0 : Nat), (State.reset : State), (1 : Nat), (false : Bool),
    ⟨rfl, rfl⟩, by rfl, by rfl, by rfl⟩,
  ⟨(zCmdHdr : CmdHdr), ({ zCaptureCtrlArgs with action := 1, startFrame := 1 } : CaptureCtrlArgs), ({ zBObj with kind := .ring 0 0 false 0, size := 2 } : BObj), (objS { zBObj with kind := .ring 0 0 false 0, size := 2 } : State), (1 : Nat), (false : Bool),
    ⟨rfl, rfl⟩, by rfl, by rfl, by rfl, by rfl, by decide, by decide⟩,
  ⟨(hdr [{ addr := 0, bytes := [2, 0, 0, 0, 0, 0, 0, 0, 0, 1, 0, 0, 0, 0, 0, 0], bar2 := false }] : CmdHdr), ({ zSnapTakeArgs with count := 1 } : SnapTakeArgs), ({ snap1 with size := 256 } : BObj), ([{ zSnapItem with ramps := true, count := 256 }] : List SnapItem), (objS { snap1 with size := 256 } : State), (1 : Nat), (false : Bool),
    ⟨rfl, rfl⟩, by rfl, by rfl, by decide, by rfl, by rfl, by rfl, by rfl, by rfl, by rfl⟩⟩

theorem test_meets_BenchDataMoved :
  (∃ (h : CmdHdr) (a : BenchDataArgs) (o : BObj) (s : State), Taken h false s ∧ dataBad a = false ∧ objOf (takenState h s)
    a.handle.toNat = some o ∧ o.kind.code ≠ 1 ∧ a.offset.toNat + a.length.toNat ≤ 4 * o.wordCount ∧ o.kind.busy = false ∧
    dmaHalted (takenState h s) = false) ∧
  (∃ (h : CmdHdr) (a : BenchDataArgs) (o : BObj) (s : State), Taken h false s ∧ dataBad a = false ∧ objOf (takenState h s)
    a.handle.toNat = some o ∧ o.kind.code ≠ 1 ∧ a.offset.toNat + a.length.toNat ≤ 4 * o.wordCount ∧ o.kind.busy = true) ∧
  (∃ (h : CmdHdr) (a : BenchDataArgs) (o : BObj) (s : State), Taken h false s ∧ dataBad a = false ∧ objOf (takenState h s)
    a.handle.toNat = some o ∧ o.kind.code ≠ 1 ∧ a.offset.toNat + a.length.toNat ≤ 4 * o.wordCount ∧ dmaHalted (takenState h s) =
    false ∧ hifMode (takenState h s) ≠ 2) ∧
  (∃ (h : CmdHdr) (a : BenchDataArgs) (o : BObj) (u : State) (s : State), Taken h false s ∧ dataBad a = false ∧ objOf
    (takenState h s) a.handle.toNat = some o ∧ o.kind.code ≠ 1 ∧ a.offset.toNat + a.length.toNat ≤ 4 * o.wordCount ∧ dmaHalted
    (takenState h s) = false ∧ hifMode (takenState h s) = 2 ∧ (u = useRead (.result (ticketOf h s).order) (a.addr.toNat +
    a.length.toNat - 1) 1 (useWrite (.result (ticketOf h s).order) a.addr.toNat ((List.range (a.length.toNat / 4)).flatMap fun i
    => leBytes 4 (mapGetD 0 o.words (a.offset.toNat / 4 + i)).toNat) (takenState h s)))) ∧
  (∃ (p : BitVec 7) (s : State), regBit s Reg.scrubCtrl 0 = true ∧ s.power.state = .running ∧ p.toNat < 100) ∧
  (∃ (p : BitVec 7) (s : State), regBit s Reg.scrubCtrl 0 = true ∧ s.power.state = .running ∧ 100 ≤ p.toNat) :=
  ⟨⟨(zCmdHdr : CmdHdr), ({ zBenchDataArgs with length := 16 } : BenchDataArgs), (clip1 : BObj), (objS clip1 : State),
    ⟨rfl, rfl⟩, by rfl, by rfl, by decide, by rfl, by rfl, by rfl⟩,
  ⟨(zCmdHdr : CmdHdr), ({ zBenchDataArgs with length := 4 } : BenchDataArgs), ({ clip1 with kind := .clip 0 none Gain.mute true false } : BObj), (objS { clip1 with kind := .clip 0 none Gain.mute true false } : State),
    ⟨rfl, rfl⟩, by rfl, by rfl, by decide, by decide, by rfl⟩,
  ⟨(zCmdHdr : CmdHdr), ({ zBenchDataArgs with length := 4, offset := 12 } : BenchDataArgs), (clip1 : BObj), (objS clip1 : State),
    ⟨rfl, rfl⟩, by rfl, by rfl, by decide, by rfl, by rfl, by decide⟩,
  ⟨(zCmdHdr : CmdHdr), ({ zBenchDataArgs with length := 4 } : BenchDataArgs), (snap1 : BObj), _, (modeS 2 (objS snap1) : State),
    ⟨rfl, rfl⟩, by rfl, by rfl, by decide, by decide, by rfl, by rfl, rfl⟩,
  ⟨(99 : BitVec 7), (State.reset : State),
    by rfl, by rfl, by decide⟩,
  ⟨(100 : BitVec 7), (State.reset : State),
    by rfl, by rfl, by rfl⟩⟩

theorem test_meets_LinkTrainingSteps :
  (∃ (n : Fin 16) (s : State), s.links[n].state = .down ∧ linkEnabled s n = true ∧ s.links[n].detachHold = false ∧
    s.links[n].retryWait = false ∧ s.links[n].squelch = false) ∧
  (∃ (n : Fin 16) (s : State), s.links[n].state = .down ∧ linkEnabled s n = true ∧ s.links[n].signal = true ∧
    s.links[n].detachHold = false ∧ s.links[n].squelch = false ∧ s.links[n].retryWait = true ∧ mayHavePassed s s.links[n].failAt
    (retryLimit s n) = true) ∧
  (∃ (n : Fin 16) (s : State), s.links[n].state = .down ∧ linkEnabled s n = true ∧ s.links[n].signal = true ∧
    s.links[n].detachHold = false ∧ s.links[n].retryWait = false ∧ s.links[n].retrain = true) ∧
  (∃ (n : Fin 16) (s : State), mayHavePassed s s.links[n].failAt (retryLimit s n) = false) ∧
  (∃ (n : Fin 16) (s : State), s.links[n].retrain = false) ∧
  (∃ (n : Fin 16) (s : State), s.links[n].state = .training ∧ s.links[n].phase = 2) ∧
  (∃ (n : Fin 16) (s : State), s.links[n].state = .training ∧ s.links[n].phase = 3 ∧ s.links[n].readySeen < 2) ∧
  (∃ (n : Fin 16) (s : State), s.links[n].state = .training ∧ s.links[n].phase = 3 ∧ 2 ≤ s.links[n].readySeen) ∧
  (∃ (m : TrainMarker), m.checkOk = false) ∧
  (∃ (n : Fin 16) (m : TrainMarker) (s : State), s.links[n].state = .training ∧ s.links[n].framed = false ∧ m.checkOk = true ∧ 3
    ≤ s.links[n].phase) :=
  ⟨⟨(0 : Fin 16), (lk fun l => { l with squelch := false } : State),
    by rfl, by rfl, by rfl, by rfl, by rfl⟩,
  ⟨(0 : Fin 16), (later (lk fun l => { l with squelch := false, signal := true, retryWait := true }) : State),
    by rfl, by rfl, by rfl, by rfl, by rfl, by rfl, (by decide +kernel)⟩,
  ⟨(0 : Fin 16), (lk fun l => { l with signal := true, retrain := true } : State),
    by rfl, by rfl, by rfl, by rfl, by rfl, by rfl⟩,
  ⟨(0 : Fin 16), (State.reset : State),
    (by decide +kernel)⟩,
  ⟨(0 : Fin 16), (State.reset : State),
    by rfl⟩,
  ⟨(0 : Fin 16), (lk fun l => { l with state := .training, phase := 2 } : State),
    by rfl, by rfl⟩,
  ⟨(0 : Fin 16), (lk fun l => { l with state := .training, phase := 3 } : State),
    by rfl, by rfl, by decide⟩,
  ⟨(0 : Fin 16), (lk fun l => { l with state := .training, phase := 3, readySeen := 2 } : State),
    by rfl, by rfl, by rfl⟩,
  ⟨(zTrainMarker : TrainMarker),
    by rfl⟩,
  ⟨(0 : Fin 16), ({ zTrainMarker with bytes := [0x0E, 0, 0, 0, 0, 0, 182] } : TrainMarker), (lk fun l => { l with state := .training, phase := 3 } : State),
    by rfl, by rfl, (by decide +kernel), by rfl⟩⟩

theorem test_meets_LinkLossAndTimeouts :
  (∃ (n : Fin 16) (s : State), s.links[n].state ≠ .down ∧ s.links[n].partnerDetaching = false) ∧
  (∃ (n : Fin 16) (s : State), s.links[n].state = .training ∧ mayHavePassed s s.links[n].trainAt (trainLimit s n) = true) ∧
  (∃ (n : Fin 16) (s : State), s.links[n].align = true ∧ s.links[n].misses = 0) ∧
  (∃ (n : Fin 16) (s : State), s.links[n].align = true ∧ 1 ≤ s.links[n].misses) ∧
  (∃ (n : Fin 16) (s : State), mayHavePassed s s.links[n].berAt refSecond = true ∧ regFld s (Reg.linkBerLimit n) 15 0 ≠ 0 ∧
    regFld s (Reg.linkBerLimit n) 15 0 < s.links[n].berCount) ∧
  (∃ (n : Fin 16) (s : State), mayHavePassed s s.links[n].berAt refSecond = true ∧ s.links[n].berCount ≤ regFld s
    (Reg.linkBerLimit n) 15 0) ∧
  (∃ (n : Fin 16) (s : State), s.links[n].state = .discovered ∧ s.links[n].reqOpen = true ∧ checksPass s n = true ∧
    s.links[n].lastReq + 1024 ≤ now s) ∧
  (∃ (n : Fin 16) (s : State), s.links[n].framed = true ∧ s.links[n].heard = true ∧ s.links[n].lastDiscover + 1024 ≤ now s) ∧
  (∃ (s : State), s.node.periodAt + 65536 ≤ now s) :=
  ⟨⟨(0 : Fin 16), (lk fun l => { l with state := .attached } : State),
    by decide, by rfl⟩,
  ⟨(0 : Fin 16), (later (lk fun l => { l with state := .training }) : State),
    by rfl, (by decide +kernel)⟩,
  ⟨(0 : Fin 16), (lk fun l => { l with align := true } : State),
    by rfl, by rfl⟩,
  ⟨(0 : Fin 16), (lk fun l => { l with align := true, misses := 1 } : State),
    by rfl, by rfl⟩,
  ⟨(0 : Fin 16), (later (lk fun l => { l with berCount := 101 }) : State),
    (by decide +kernel), (by decide +kernel), (by decide +kernel)⟩,
  ⟨(0 : Fin 16), (later S1 : State),
    (by decide +kernel), (by decide +kernel)⟩,
  ⟨(0 : Fin 16), (atTick 1024 (lk fun l => { l with state := .discovered, reqOpen := true, partner := some pbody }) : State),
    by rfl, by rfl, (by decide +kernel), by rfl⟩,
  ⟨(0 : Fin 16), (atTick 1024 (lk fun l => { l with framed := true, heard := true }) : State),
    by rfl, by rfl, by rfl⟩,
  ⟨(atTick 65536 S1 : State),
    by rfl⟩⟩

theorem test_meets_LinkFramesAndCellsReceived :
  (∃ (n : Fin 16) (m : FrameMarker) (s : State), s.links[n].framed = true ∧ s.links[n].align = false ∧ markerGood m.bytes = true
    ∧ s.links[n].markerRun = 2 ∧ (m.bytes.getD 0 0).toNat / 16 % 16 = (s.links[n].lastSf.val + 1) % 16 ∧ withinTwo s (markerPos
    s m - s.links[n].markerAt) s.links[n].spacing = true) ∧
  (∃ (n : Fin 16) (m : FrameMarker) (s : State), s.links[n].framed = true ∧ (s.links[n].align = true → markerDue s.links[n] s m
    = true) ∧ markerGood m.bytes = false) ∧
  (∃ (n : Fin 16) (m : FrameMarker) (s : State), s.links[n].align = true ∧ markerDue s.links[n] s m = false) ∧
  (∃ (n : Fin 16) (m : FrameMarker) (s : State), s.links[n].framed = true ∧ s.links[n].align = true ∧ markerDue s.links[n] s m =
    true ∧ markerGood m.bytes = true ∧ (m.bytes.getD 0 0).toNat / 16 % 16 ≠ (s.links[n].lastSf.val + s.links[n].misses + 1) %
    16) ∧
  (∃ (n : Fin 16) (m : FrameMarker) (s : State), s.links[n].framed = true ∧ s.links[n].align = true ∧ markerDue s.links[n] s m =
    true ∧ markerGood m.bytes = true ∧ (m.bytes.getD 0 0).toNat / 16 % 16 = (s.links[n].lastSf.val + s.links[n].misses + 1) % 16
    ∧ (m.bytes.getD 5 0).getLsbD 1 = false) ∧
  (∃ (n : Fin 16) (x : SlotIn) (s : State), s.links[n].align = true ∧ s.links[n].state = .attached ∧ crc8 x.bytes = x.crc) ∧
  (∃ (n : Fin 16) (x : SlotIn) (s : State), s.links[n].align = true ∧ s.links[n].state ≠ .attached ∧ crc8 x.bytes ≠ x.crc) ∧
  (∃ (n : Fin 16) (c : Cell) (crc : Word) (s : State), s.links[n].align = true ∧ cellCrc c ≠ crc) ∧
  (∃ (n : Fin 16) (c : Cell) (crc : Word) (s : State), s.links[n].align = true ∧ cellCrc c = crc ∧ c.ty ≠ 0 ∧ cellClass c.ty =
    none) ∧
  (∃ (n : Fin 16) (c : Cell) (crc : Word) (k : Nat) (s : State), s.links[n].align = true ∧ cellCrc c = crc ∧ c.ty ≠ 0 ∧
    cellClass c.ty = some k ∧ c.ty.toNat / 4 ≠ 4) ∧
  (∃ (n : Fin 16) (c : Cell) (s : State) (v : State), Delivered n c s ∧ (v = resolveId (BitVec.ofNat 12 (bodyN c 0x1C 2)) (bodyN
    c 0x14 8) (linkMod n (fun l => { l with partner := some c.body, heard := true }) s))) ∧
  (∃ (n : Fin 16) (c : Cell) (s : State), Delivered n c s ∧ bodyN c 0x14 1 = 1 ∧ s.links[n].state = .discovered ∧ checksPass s n
    = true ∧ wouldRequest s n = true) ∧
  (∃ (n : Fin 16) (c : Cell) (s : State) (v : State), FloodFresh n c s ∧ v = markFlood c s ∧ bodyN c 0x14 8 ≠ (ownEui s).toNat ∧
    BitVec.ofNat 12 (bodyN c 0x1C 2) ≠ 0) ∧
  (∃ (n : Fin 16) (j : Fin 16) (s : State), s.links[n].framed = true ∧ s.links[n].squelch = false ∧ j.val ≠ 1) :=
  ⟨⟨(0 : Fin 16), ({ zFrameMarker with bytes := [0x1D, 0, 0, 0, 0, 0, 153] } : FrameMarker), (lk fun l => { l with framed := true, markerRun := 2 } : State),
    by rfl, by rfl, (by decide +kernel), by rfl, by rfl, (by decide +kernel)⟩,
  ⟨(0 : Fin 16), (zFrameMarker : FrameMarker), (lk fun l => { l with framed := true } : State),
    by rfl, by decide, by rfl⟩,
  ⟨(0 : Fin 16), (zFrameMarker : FrameMarker), (lk fun l => { l with align := true, spacing := 1000000000000000 } : State),
    by rfl, (by decide +kernel)⟩,
  ⟨(0 : Fin 16), ({ zFrameMarker with bytes := [0x0D, 0, 0, 0, 0, 0, 74] } : FrameMarker), (lk fun l => { l with framed := true, align := true, lastSf := 5 } : State),
    by rfl, by rfl, (by decide +kernel), (by decide +kernel), (by decide +kernel)⟩,
  ⟨(0 : Fin 16), ({ zFrameMarker with bytes := [0x1D, 0, 0, 0, 0, 0, 153] } : FrameMarker), (lk fun l => { l with framed := true, align := true } : State),
    by rfl, by rfl, (by decide +kernel), (by decide +kernel), (by decide +kernel), by rfl⟩,
  ⟨(0 : Fin 16), ({ zSlotIn with crc := 0 } : SlotIn), (attS : State),
    by rfl, by rfl, by rfl⟩,
  ⟨(0 : Fin 16), ({ zSlotIn with crc := 1 } : SlotIn), (lk fun l => { l with align := true } : State),
    by rfl, by decide, by decide⟩,
  ⟨(0 : Fin 16), (zCell : Cell), (0xFFFFFFFF : Word), (attS : State),
    by rfl, (by decide +kernel)⟩,
  ⟨(0 : Fin 16), (cell0 0xF0 [] : Cell), _, (attS : State),
    by rfl, rfl, by decide, by rfl⟩,
  ⟨(0 : Fin 16), (cell0 1 [] : Cell), _, (2 : Nat), (attS : State),
    by rfl, rfl, by decide, by rfl, by decide⟩,
  ⟨(0 : Fin 16), (cell0 1 pbody : Cell), (attS : State), _,
    ⟨by decide, by decide⟩, rfl⟩,
  ⟨(0 : Fin 16), (cell0 2 [1] : Cell), (lk disc1 : State),
    ⟨by decide, by decide⟩, by rfl, by rfl, by rfl, by rfl⟩,
  ⟨(0 : Fin 16), ({ cell0 3 pbody with mode := 2 } : Cell), (attS : State), _,
    ⟨by decide, by decide⟩, rfl, by decide, by decide⟩,
  ⟨(0 : Fin 16), (2 : Fin 16), (lk fun l => { l with framed := true, squelch := false } : State),
    by rfl, by rfl, by decide⟩⟩

theorem test_meets_LinkCommandsTakenAndApplied :
  (∃ (h : CmdHdr) (a : LinkCmdArgs) (s : State) (n : Nat) (late : Bool), Taken h true s ∧ schedule a.tick s = some (n, late) ∧
    a.link.toNat < 16 ∧ 1 ≤ a.action.toNat ∧ a.action.toNat ≤ 3) ∧
  (∃ (a : LinkCmdArgs) (n : Fin 16) (s : State), a.link.toNat = n.val ∧ a.action.toNat = 1 ∧ s.links[n].state = .discovered ∧
    linkEnabled s n = true ∧ checksPass s n = true ∧ s.links[n].attachDue = false) ∧
  (∃ (a : LinkCmdArgs) (n : Fin 16) (s : State), a.link.toNat = n.val ∧ a.action.toNat = 2 ∧ s.links[n].state = .attached ∧
    linkEnabled s n = true) ∧
  (∃ (a : LinkCmdArgs) (n : Fin 16) (s : State), a.link.toNat = n.val ∧ a.action.toNat = 3 ∧ s.links[n].state ≠ .quarantined ∧
    linkEnabled s n = true) ∧
  (∃ (a : LinkCmdArgs) (n : Fin 16) (s : State), a.link.toNat = n.val ∧ linkEnabled s n = false ∧ s.links[n].state ≠
    .quarantined ∧ 1 ≤ a.action.toNat ∧ a.action.toNat ≤ 3) ∧
  (∃ (h : CmdHdr) (link : Byte) (n : Fin 16) (s : State), Taken h false s ∧ link.toNat = n.val) ∧
  (∃ (h : CmdHdr) (m : BitVec 16) (s : State), Taken h false s ∧ (∀ n ∈ maskUnits 16 m.toNat, s.links[n].survey = false) ∧ (∀ n
    ∈ maskUnits 16 m.toNat, s.links[n].state = .attached ∨ s.links[n].state = .discovered)) ∧
  (∃ (v : Survey) (rest : List Survey) (s : State), s.surveys = v :: rest) ∧
  (∃ (h : CmdHdr) (id : BitVec 12) (s : State), Taken h false s ∧ id ≠ 0 ∧ id ≠ 0xFFF ∧ mapGet s.node.announced id.toNat = none) ∧
  (∃ (h : CmdHdr) (id : BitVec 12) (k : Nat) (s : State), Taken h false s ∧ id ≠ 0 ∧ id ≠ 0xFFF ∧ mapGet s.node.announced
    id.toNat = some k ∧ now s < k + 65536) :=
  ⟨⟨(zCmdHdr : CmdHdr), ({ zLinkCmdArgs with action := 3, link := 15 } : LinkCmdArgs), (State.reset : State), (1 : Nat), (false : Bool),
    ⟨rfl, rfl⟩, by rfl, by decide, by decide, by rfl⟩,
  ⟨({ zLinkCmdArgs with action := 1 } : LinkCmdArgs), (0 : Fin 16), (lk disc1 : State),
    by rfl, by rfl, by rfl, by rfl, by rfl, by rfl⟩,
  ⟨({ zLinkCmdArgs with action := 2 } : LinkCmdArgs), (0 : Fin 16), (attS : State),
    by rfl, by rfl, by rfl, by rfl⟩,
  ⟨({ zLinkCmdArgs with action := 3 } : LinkCmdArgs), (0 : Fin 16), (attS : State),
    by rfl, by rfl, by decide, by rfl⟩,
  ⟨({ zLinkCmdArgs with action := 3 } : LinkCmdArgs), (0 : Fin 16), (regSet (Reg.linkCtrl 0) 0 S1 : State),
    by rfl, by rfl, by decide, by decide, by rfl⟩,
  ⟨(zCmdHdr : CmdHdr), (15 : Byte), (15 : Fin 16), (State.reset : State),
    ⟨rfl, rfl⟩, by rfl⟩,
  ⟨(zCmdHdr : CmdHdr), (0 : BitVec 16), (State.reset : State),
    ⟨rfl, rfl⟩, by decide, by decide⟩,
  ⟨(zSurvey : Survey), ([] : List Survey), ({ State.reset with surveys := [zSurvey] } : State),
    by rfl⟩,
  ⟨(zCmdHdr : CmdHdr), (0xFFE : BitVec 12), (State.reset : State),
    ⟨rfl, rfl⟩, by decide, by decide, by rfl⟩,
  ⟨(zCmdHdr : CmdHdr), (1 : BitVec 12), (0 : Nat), ({ State.reset with node := { S1.node with announced := [(1, 0)] } } : State),
    ⟨rfl, rfl⟩, by decide, by decide, by rfl, by decide⟩⟩

theorem test_meets_PathCommandsTaken :
  (∃ (h : CmdHdr) (a : PathReserveArgs) (s : State) (w : Nat × Bool), Taken h true s ∧ (((hostStores h.stores
    s).fabric.paths.filter fun p => p.reserving).length < 64) ∧ reserveBad (hostStores h.stores s) a = false ∧ schedule a.tick
    (hostStores h.stores s) = some w) ∧
  (∃ (a : PathReserveArgs) (s : State), pathRec s a.addCh a.copy ≠ none) ∧
  (∃ (a : PathReserveArgs) (s : State), pathRec s a.addCh a.copy = none ∧ a.resultAddr ≠ 0 ∧ dmaHalted s = true) ∧
  (∃ (a : PathReserveArgs) (s : State), pathRec s a.addCh a.copy = none ∧ (a.resultAddr = 0 ∨ dmaHalted s = false) ∧ regFld s
    Reg.fswBudget 16 0 < slotsHeld s + a.hops.toNat) ∧
  (∃ (a : PathReserveArgs) (s : State) (b : PathBody) (r : PathBody) (o : Fin 16) (e : SwEntry), pathRec s a.addCh a.copy = none
    ∧ (a.resultAddr = 0 ∨ dmaHalted s = false) ∧ slotsHeld s + a.hops.toNat ≤ regFld s Reg.fswBudget 16 0 ∧ (b =
    { addCh := a.addCh, copy := a.copy, gen := a.gen, result := 0, dropCh := a.dropCh, tap := a.tapMask, failHop := 0, limit := if a.limitNs = 0 then tickNs s else a.limitNs.toNat, acc := 0, tickLo := BitVec.ofNat 32 (if a.tick = 0 then openTick s else a.tick.toNat), slots := List.replicate 8 0, ret := 0 })
    ∧ pathAt s s.node.id a.hops.toNat (BitVec.ofNat 64 a.route.toNat) 0 0 b = .forward r o e) ∧
  (∃ (c : BitVec 12) (copy : Bool) (p : PathRec) (s : State), pathRec s c copy = some p ∧ p.reserving = true ∧ p.sent + 16 ≤ now
    s) ∧
  (∃ (c : BitVec 12) (copy : Bool) (p : PathRec) (s : State), pathRec s c copy = some p ∧ now s < p.sent + 16) ∧
  (∃ (h : CmdHdr) (tick : BitVec 64) (c : BitVec 12) (copy : Bool) (s : State) (n : Nat) (late : Bool), Taken h true s ∧
    schedule tick s = some (n, late) ∧ channelExists s c = true ∧ pathRec (takenState h s) c copy ≠ none) ∧
  (∃ (h : CmdHdr) (c : BitVec 12) (copy : Bool) (p : PathRec) (s : State), Taken h false s ∧ channelExists s c = true ∧ pathRec
    (takenState h s) c copy = some p) ∧
  (∃ (h : CmdHdr) (c : BitVec 12) (copy : Bool) (s : State), Taken h false s ∧ channelExists s c = true ∧ pathRec (takenState h
    s) c copy = none) ∧
  (∃ (h : CmdHdr) (a : SwitchReadArgs) (l : Fin 16) (s : State), Taken h false s ∧ a.table = .incoming l ∧ a.count ≠ 0 ∧ a.first
    + a.count ≤ slotsPerTick s) ∧
  (∃ (h : CmdHdr) (a : PairSetArgs) (s : State) (n : Nat) (late : Bool), Taken h true s ∧ schedule a.tick s = some (n, late) ∧
    a.partner = 0) ∧
  (∃ (h : CmdHdr) (tick : BitVec 64) (port : Byte) (role : Byte) (p : Fin 8) (s : State) (n : Nat) (late : Bool), Taken h true s
    ∧ schedule tick s = some (n, late) ∧ port.toNat = p.val ∧ role.toNat ≤ 2 ∧ twinAllowed (takenState h s) p = true) :=
  ⟨⟨(zCmdHdr : CmdHdr), ({ zPathReserveArgs with hops := 8, limitNs := 1000 } : PathReserveArgs), (State.reset : State), _,
    ⟨rfl, rfl⟩, by decide, by rfl, rfl⟩,
  ⟨(zPathReserveArgs : PathReserveArgs), (pathS path1 : State),
    by decide⟩,
  ⟨({ zPathReserveArgs with resultAddr := 8 } : PathReserveArgs), (haltS : State),
    by rfl, by decide, by rfl⟩,
  ⟨({ zPathReserveArgs with addCh := 1, hops := 8 } : PathReserveArgs), (regSet Reg.fswBudget 8 (pathS path1) : State),
    by rfl, by decide, by decide⟩,
  (by
     obtain ⟨r, o, e, h⟩ := forwards_reserve
     exact ⟨aRes, attS, _, r, o, e, by decide +kernel, by decide +kernel, by decide +kernel, rfl, h⟩),
  ⟨(0 : BitVec 12), (false : Bool), (path1 : PathRec), (atTick 16 (pathS path1) : State),
    by rfl, by rfl, by rfl⟩,
  ⟨(0 : BitVec 12), (false : Bool), (path1 : PathRec), (pathS path1 : State),
    by rfl, by decide⟩,
  ⟨(zCmdHdr : CmdHdr), (0 : BitVec 64), (0 : BitVec 12), (false : Bool), (pathS path1 : State), (1 : Nat), (false : Bool),
    ⟨rfl, rfl⟩, by rfl, by rfl, by decide⟩,
  ⟨(zCmdHdr : CmdHdr), (0 : BitVec 12), (false : Bool), (path1 : PathRec), (pathS path1 : State),
    ⟨rfl, rfl⟩, by rfl, by rfl⟩,
  ⟨(zCmdHdr : CmdHdr), (0 : BitVec 12), (false : Bool), (State.reset : State),
    ⟨rfl, rfl⟩, by rfl, by rfl⟩,
  ⟨(zCmdHdr : CmdHdr), ({ zSwitchReadArgs with count := 1 } : SwitchReadArgs), (0 : Fin 16), (State.reset : State),
    ⟨rfl, rfl⟩, by rfl, by decide, by decide⟩,
  ⟨(zCmdHdr : CmdHdr), (zPairSetArgs : PairSetArgs), (State.reset : State), (1 : Nat), (false : Bool),
    ⟨rfl, rfl⟩, by rfl, by rfl⟩,
  ⟨(zCmdHdr : CmdHdr), (0 : BitVec 64), (0 : Byte), (2 : Byte), (0 : Fin 8), (regSetFld (Reg.portCfg 0) 3 2 1 (twinS true) : State), (1 : Nat), (false : Bool),
    ⟨rfl, rfl⟩, by rfl, by rfl, by rfl, by rfl⟩⟩

theorem test_meets_PathCellsActOnEntries :
  (∃ (n : Fin 16) (c : Cell) (s : State) (b : PathBody) (r : PathBody), pathCellHere s n c = true ∧ b =
    { pathBody c with ret := setRet (pathBody c).ret (c.hop.toNat - 1) n } ∧ pathAt s c.src c.hops.toNat c.route c.hop.toNat
    (ofSixteenth s s.links[n].rxOfs) b = .refuse r) ∧
  (∃ (n : Fin 16) (c : Cell) (s : State) (b : PathBody) (r : PathBody) (e : SwEntry), pathCellHere s n c = true ∧ b =
    { pathBody c with ret := setRet (pathBody c).ret (c.hop.toNat - 1) n } ∧ pathAt s c.src c.hops.toNat c.route c.hop.toNat
    (ofSixteenth s s.links[n].rxOfs) b = .arrived r e) ∧
  (∃ (n : Fin 16) (c : Cell) (s : State) (b : PathBody) (r : PathBody) (o : Fin 16) (e : SwEntry), pathCellHere s n c = true ∧ b
    = { pathBody c with ret := setRet (pathBody c).ret (c.hop.toNat - 1) n } ∧ pathAt s c.src c.hops.toNat c.route c.hop.toNat
    (ofSixteenth s s.links[n].rxOfs) b = .forward r o e) ∧
  (∃ (n : Fin 16) (c : Cell) (s : State), pathCellHere s n c = true ∧ c.hop = c.hops) ∧
  (∃ (n : Fin 16) (c : Cell) (s : State) (k : Nat) (e : SwEntry), pathCellHere s n c = true ∧ c.hop ≠ c.hops ∧ (pathBody
    c).result = 0 ∧ ((s.fabric.incoming.filter fun x => x.2.ofPath c.src (pathBody c).addCh (pathBody c).copy && x.2.toLink n &&
    decide (x.2.state = .tentative)) = [(k, e)])) ∧
  (∃ (p : PathRec) (b : PathBody) (s : State) (w : Nat × Bool), pathRec s b.addCh b.copy = some p ∧ p.reserving = true ∧
    b.result = 0 ∧ schedule p.tickField s = some w ∧ toldPoint s b.addCh b.copy = none) ∧
  (∃ (n : Fin 16) (c : Cell) (s : State) (k : Nat) (e : SwEntry), pathCellHere s n c = true ∧ c.hop ≠ c.hops ∧
    ((s.fabric.incoming.filter fun x => decide (x.1 / 16384 = n.val) && x.2.ofPath c.src (pathBody c).addCh (pathBody c).copy) =
    [(k, e)])) ∧
  (∃ (n : Fin 16) (c : Cell) (s : State) (k : Nat) (e : SwEntry) (o : Fin 16 × Nat), Delivered n c s ∧ ((s.fabric.add.filter fun
    x => x.2.ofPath c.src (pathBody c).addCh (pathBody c).copy && x.2.toLink n) = []) ∧ ((s.fabric.incoming.filter fun x =>
    x.2.ofPath c.src (pathBody c).addCh (pathBody c).copy && x.2.toLink n) = []) ∧ ((s.fabric.incoming.filter fun x =>
    x.2.ofPath c.src (pathBody c).addCh (pathBody c).copy && decide (x.1 / 16384 = n.val)) = [(k, e)]) ∧ e.fwd = some o) ∧
  (∃ (n : Fin 16) (c : Cell) (s : State) (p : Pair), Delivered n c s ∧ s.fabric.pair = some p ∧ c.src = p.partner) ∧
  (∃ (n : Fin 16) (slot : BitVec 14) (e : SwEntry) (s : State), mapGet s.fabric.incoming (slotKey n slot.toNat) = some e ∧
    e.state = .tentative ∧ e.since + 32 ≤ now s) :=
  ⟨⟨(0 : Fin 16), ({ srcCell 0x10 [] with hops := 1, route := 1 } : Cell), (attS : State), _, _,
    by rfl, rfl, rfl⟩,
  ⟨(0 : Fin 16), ({ srcCell 0x10 (List.replicate 8 0 ++ [255, 255]) with hop := 1, hops := 1 } : Cell), (attS : State), _, ({ pathBody ({ srcCell 0x10 (List.replicate 8 0 ++ [255, 255]) with hop := 1, hops := 1 }) with acc := 500 } : PathBody), ({ zSwEntry with fwd := none, drop := true, state := .tentative, late := 1 } : SwEntry),
    (by decide +kernel), (rfl), (by decide +kernel)⟩,
  (by
     obtain ⟨r, o, e, h⟩ := forwards_cell
     exact ⟨0, cPS, attS, _, r, o, e, by decide +kernel, rfl, h⟩),
  ⟨(0 : Fin 16), (srcCell 0x11 [] : Cell), (attS : State),
    by rfl, by rfl⟩,
  ⟨(0 : Fin 16), ({ srcCell 0x11 [] with hops := 1 } : Cell), (inc1 { zSwEntry with fwd := some (0, 5) } : State), (0 : Nat), ({ zSwEntry with fwd := some (0, 5) } : SwEntry),
    by rfl, by decide, by rfl, by rfl⟩,
  ⟨(path1 : PathRec), (zPathBody : PathBody), (pathS path1 : State), _,
    by rfl, by rfl, by rfl, rfl, by rfl⟩,
  ⟨(0 : Fin 16), ({ srcCell 0x12 [] with hops := 1 } : Cell), (inc1 zSwEntry : State), (0 : Nat), (zSwEntry : SwEntry),
    by rfl, by decide, by rfl⟩,
  ⟨(0 : Fin 16), (srcCell 0x13 [] : Cell), (inc1 { zSwEntry with fwd := some (1, 5) } : State), (0 : Nat), ({ zSwEntry with fwd := some (1, 5) } : SwEntry), ((1, 5) : Fin 16 × Nat),
    ⟨by decide, by decide⟩, by rfl, by rfl, by rfl, by rfl⟩,
  ⟨(0 : Fin 16), (srcCell 0x14 [] : Cell), (fab (fun f => { f with pair := some zPair }) attS : State), (zPair : Pair),
    ⟨by decide, by decide⟩, by rfl, by rfl⟩,
  ⟨(0 : Fin 16), (0 : BitVec 14), (zSwEntry : SwEntry), (atTick 32 (inc1 zSwEntry) : State),
    (by decide +kernel), by rfl, by rfl⟩⟩

theorem test_meets_PathActivationReleaseAndTwins :
  (∃ (c : BitVec 12) (copy : Bool) (p : PathRec) (e : SwEntry) (s : State), pathRec s c copy = some p ∧ mapGet s.fabric.add
    (addKey c copy) = some e ∧ p.resultAddr = 0) ∧
  (∃ (c : BitVec 12) (copy : Bool) (p : PathRec) (s : State), pathRec s c copy = some p ∧ p.reserving = false) ∧
  (∃ (a : PairSetArgs), a.partner = 0) ∧
  (∃ (a : PairSetArgs) (s : State), a.partner ≠ 0 ∧ (∀ p, s.fabric.pair = some p → p.partner = a.partner)) ∧
  (∃ (p : Fin 8) (s : State), twinAllowed s p = true) ∧
  (∃ (p : Fin 8) (s : State), s.fabric.twins[p].role ≠ 0 ∧ s.fabric.twins[p].driving = true) ∧
  (∃ (p : Fin 8) (s : State), s.fabric.twins[p].role = 2 ∧ s.fabric.twins[p].driving = false ∧ mayTakeOver s = true) ∧
  (∃ (p : Fin 8) (s : State), s.fabric.twins[p].role = 2 ∧ s.fabric.twins[p].driving = false ∧ mayTakeOver s = true ∧
    digestSilent s = true) :=
  ⟨⟨(0 : BitVec 12), (false : Bool), (path1 : PathRec), (zSwEntry : SwEntry), (fab (fun f => { f with add := [(0, zSwEntry)] }) (pathS path1) : State),
    by rfl, by rfl, by rfl⟩,
  ⟨(0 : BitVec 12), (false : Bool), (zPathRec : PathRec), (pathS zPathRec : State),
    by rfl, by rfl⟩,
  ⟨(zPairSetArgs : PairSetArgs),
    by rfl⟩,
  ⟨({ zPairSetArgs with partner := 1 } : PairSetArgs), (State.reset : State),
    by decide, (fun p h => by cases h)⟩,
  ⟨(0 : Fin 8), (regSetFld (Reg.portCfg 0) 3 2 1 (twinS true) : State),
    by rfl⟩,
  ⟨(0 : Fin 8), (twinS true : State),
    by decide, by rfl⟩,
  ⟨(0 : Fin 8), (twinS false : State),
    by rfl, by rfl, by rfl⟩,
  ⟨(0 : Fin 8), (atTick 2 (twinS false) : State),
    by rfl, by rfl, by rfl, by rfl⟩⟩

theorem test_meets_GlobalOperationsFloodAndReport :
  (∃ (h : CmdHdr) (a : GlobalArmArgs) (k : Fin 4) (l : List SnapItem) (o : BObj) (s : State), Taken h false s ∧ a.set.toNat =
    k.val ∧ 1 ≤ a.count.toNat ∧ a.count.toNat ≤ 256 ∧ aligned8 a.addr = true ∧ dmaHalted (takenState h s) = false ∧ snapList
    (takenState h s) a.addr.toNat a.count.toNat = some l ∧ objOf (takenState h s) a.handle.toNat = some o ∧ o.kind.code = 4 ∧
    (l.foldl (fun x i => x + i.count) 0 ≤ o.size)) ∧
  (∃ (h : CmdHdr) (a : GlobalOpArgs) (s : State), Taken h true s ∧ 1 ≤ a.kind.toNat ∧ a.kind.toNat ≤ 5 ∧ a.groups ≠ 0 ∧ a.tick ≠
    0 ∧ a.tick.toNat ≤ now s + 2 ^ 32 ∧ dmaHalted (takenState h s) = false ∧ a.tick.toNat < now (takenState h s) + globalLead
    (takenState h s)) ∧
  (∃ (h : CmdHdr) (a : GlobalOpArgs) (s : State), Taken h true s ∧ 1 ≤ a.kind.toNat ∧ a.kind.toNat ≤ 5 ∧ a.groups ≠ 0 ∧ a.tick ≠
    0 ∧ a.tick.toNat ≤ now s + 2 ^ 32 ∧ dmaHalted (takenState h s) = false ∧ now (takenState h s) + globalLead (takenState h s)
    ≤ a.tick.toNat ∧ 16 ≤ (takenState h s).fabric.ops.length) ∧
  (∃ (h : CmdHdr) (a : GlobalOpArgs) (s : State) (v : State), Taken h true s ∧ 1 ≤ a.kind.toNat ∧ a.kind.toNat ≤ 5 ∧ a.groups ≠
    0 ∧ a.tick ≠ 0 ∧ a.tick.toNat ≤ now s + 2 ^ 32 ∧ dmaHalted (takenState h s) = false ∧ now (takenState h s) + globalLead
    (takenState h s) ≤ a.tick.toNat ∧ s.fabric.ops.length < 16 ∧ v =
    { takenState h s with fabric := { s.fabric with opNo := s.fabric.opNo + 1, ops := s.fabric.ops ++ [{ orig := s.node.id, opNo := s.fabric.opNo, order := (ticketOf h s).order, kind := a.kind.toNat, tick := a.tick.toNat, groups := a.groups, arg := a.arg, parent := none, children := [], reported := [], totals := { executed := 0, late := 0, refused := 0, lost := 0 }, execs := decide (regGet s Reg.fswGroups &&& a.groups ≠ 0), writing := false, ready := false, command := some (ticketOf h s, a.resultAddr) }] } }) ∧
  (∃ (n : Fin 16) (c : Cell) (s : State) (v : State), FloodFresh n c s ∧ v = markFlood c s ∧ s.fabric.ops.length < 16 ∧ openTick
    s ≤ bodyN c 0x18 8) ∧
  (∃ (n : Fin 16) (c : Cell) (s : State) (f : GlobalOp → GlobalOp), Delivered n c s ∧ (∀ o : GlobalOp, f o = if o.orig =
    BitVec.ofNat 12 (bodyN c 0x14 2) ∧ o.opNo = BitVec.ofNat 16 (bodyN c 0x16 2) ∧ now s < o.tick ∧ n ∉ o.children then
    { o with children := o.children ++ [n] } else o)) ∧
  (∃ (n : Fin 16) (c : Cell) (s : State) (f : GlobalOp → GlobalOp), Delivered n c s ∧ (∀ o : GlobalOp, f o = if o.orig =
    BitVec.ofNat 12 (bodyN c 0x14 2) ∧ o.opNo = BitVec.ofNat 16 (bodyN c 0x16 2) ∧ n ∈ o.children ∧ n ∉ o.reported then
    { o with reported := o.reported ++ [n], totals := { executed := satN 32 (o.totals.executed + bodyN c 0x18 4), late := satN 32 (o.totals.late + bodyN c 0x1C 4), refused := satN 32 (o.totals.refused + bodyN c 0x20 4), lost := satN 32 (o.totals.lost + bodyN c 0x24 4) } }
    else o)) ∧
  (∃ (orig : BitVec 12) (no : BitVec 16) (o : GlobalOp) (s : State), opNamed s orig no = some o ∧ o.tick + 4 ≤ now s) ∧
  (∃ (n : Nat) (s : State), s.fabric.resetAt = some n ∧ n ≤ now s) :=
  ⟨⟨(hdr [{ addr := 0, bytes := [2, 0, 0, 0, 0, 0, 0, 0, 0, 1, 0, 0, 0, 0, 0, 0], bar2 := false }] : CmdHdr), ({ zGlobalArmArgs with count := 1 } : GlobalArmArgs), (0 : Fin 4), ([{ zSnapItem with ramps := true, count := 256 }] : List SnapItem), ({ snap1 with size := 256 } : BObj), (objS { snap1 with size := 256 } : State),
    ⟨rfl, rfl⟩, by rfl, by rfl, by decide, by rfl, by rfl, by rfl, by rfl, by rfl, by rfl⟩,
  ⟨(zCmdHdr : CmdHdr), ({ zGlobalOpArgs with kind := 1, groups := 1, tick := 1 } : GlobalOpArgs), (State.reset : State),
    ⟨rfl, rfl⟩, by rfl, by decide, by decide, by decide, by decide, by rfl, by decide⟩,
  ⟨(zCmdHdr : CmdHdr), ({ zGlobalOpArgs with kind := 5, groups := 1, tick := 1000 } : GlobalOpArgs), (fab (fun f => { f with ops := List.replicate 16 zGlobalOp }) S1 : State),
    ⟨rfl, rfl⟩, by decide, by rfl, by decide, by decide, by decide, by rfl, by decide, by rfl⟩,
  ⟨(zCmdHdr : CmdHdr), ({ zGlobalOpArgs with kind := 5, groups := 1, tick := 1000 } : GlobalOpArgs), ({ State.reset with node := { S1.node with id := 1 } } : State), _,
    ⟨rfl, rfl⟩, by decide, by rfl, by decide, by decide, by decide, by rfl, by decide, by decide, rfl⟩,
  ⟨(0 : Fin 16), ({ cell0 0x20 [0, 0, 1, 0, 1] with mode := 2 } : Cell), (attS : State), _,
    ⟨by decide, by decide⟩, rfl, by decide, by rfl⟩,
  ⟨(0 : Fin 16), (cell0 0x21 [] : Cell), (attS : State), _,
    ⟨by decide, by decide⟩, (fun _ => rfl)⟩,
  ⟨(0 : Fin 16), (cell0 0x22 [] : Cell), (attS : State), _,
    ⟨by decide, by decide⟩, (fun _ => rfl)⟩,
  ⟨(0 : BitVec 12), (0 : BitVec 16), (zGlobalOp : GlobalOp), (atTick 4 (fab (fun f => { f with ops := [zGlobalOp] }) S1) : State),
    by rfl, by rfl⟩,
  ⟨(7 : Nat), (atTick 7 (fab (fun f => { f with resetAt := some 7 }) S1) : State),
    by rfl, by rfl⟩⟩

theorem test_meets_TickBoundaryAdvancesTheTick :
  (∃ (s : State), s.power.state = .running ∧ s.time.kerf = false) ∧
  (∃ (n : Fin 16) (s : State), s.tiles[n].cutDue = true) ∧
  (∃ (s : State), s.power.state = .running ∧ tickRuns s = true) ∧
  (∃ (s : State), (s.power.state = .sleep ∨ (s.power.state = .running ∧ tickRuns s = false))) ∧
  (∃ (s : State), s.power.state = .off) :=
  ⟨⟨(State.reset : State),
    by rfl, by rfl⟩,
  ⟨(0 : Fin 16), (tileMod 0 (fun t => { t with cutDue := true }) S1 : State),
    by rfl⟩,
  ⟨(runS S1 : State),
    by rfl, by rfl⟩,
  ⟨({ State.reset with power := { S1.power with state := .sleep } } : State),
    by decide⟩,
  ⟨({ State.reset with power := { S1.power with state := .off } } : State),
    by rfl⟩⟩

theorem test_meets_LatchedActionsTakenByObject :
  (∃ (x : Timed × List Obj) (s : State), objsOf s x.1.act ≠ [] ∧ (∀ o ∈ objsOf s x.1.act, o ∈ x.2) ∧ (∀ a, x.1.act ≠ .ageDecide
    a)) ∧
  (∃ (x : Timed × List Obj) (s : State) (o : Obj), o ∈ objsOf s x.1.act ∧ o ∉ x.2) ∧
  (∃ (k : Nat) (x : Timed × List Obj), x.1.act.order = k) ∧
  (∃ (a : RouteAct) (s : State), (applyRoute a s).1 = true) :=
  ⟨⟨(({ tick := 1, ticket := zTicket, act := .testgenSet 0 zTestgenSetArgs }, [.gen 0]) : Timed × List Obj), (State.reset : State),
    by decide, by decide, (fun _ => by simp)⟩,
  ⟨(({ tick := 1, ticket := zTicket, act := .testgenSet 0 zTestgenSetArgs }, []) : Timed × List Obj), (State.reset : State), (.gen 0 : Obj),
    by decide, by decide⟩,
  ⟨(0 : Nat), (({ tick := 0, ticket := { ring := 0, index := 0, tag := 0, irq := false, seq := 0, epoch := 0, takeover := 0, order := 0, late := false }, act := .dmaCtrl { tick := 0, chMask := 0, action := 0 } }, []) : Timed × List Obj),
    by rfl⟩,
  ⟨(zRouteAct : RouteAct), (State.reset : State),
    by rfl⟩⟩

theorem test_meets_CandidatesQualifySelectAndAlign :
  (∃ (m : SecondIn) (s1 : State) (s : State), (s1 = reselect (crossCheck ((fins 8).foldl (fun s n => candSecond n (m.cands.getD
    n.val { present := false, ofsLocal := 0, ofsOutput := 0, servoNs := 0 }) s)
    { s with clock := { s.clock with temp := m.tempMk } }))) ∧ s1.clock.selected = none ∧ claimClass s1 ≠ 0) ∧
  (∃ (n : Fin 8) (s : State), s.clock.cands[n].state ≠ .disabled ∧ s.clock.cands[n].state ≠ .absent) ∧
  (∃ (n : Fin 8) (s : State), s.clock.cands[n].state = .absent ∧ candActive s n = true) ∧
  (∃ (s : State), isFollower s = false ∧ s.clock.selected = none) ∧
  (∃ (s : State), isFollower s = true ∧ s.clock.fabNew = false) ∧
  (∃ (x : Int) (e : Int) (f : Int) (g : Int) (n : Fin 8) (w : Nat) (s : State), isFollower s = false ∧ s.clock.selected = some n
    ∧ candType s n = 3 ∧ s.clock.dpll = .tracking ∧ e = phaseError s n x ∧ e.natAbs < 100 ∧ 10000000 ≤ s.clock.lowUs +
    (s.clock.sinceUs + 10) ∧ w = bandwidth s n * 6283185307 ∧ f = clampI (-(slope s * 10 ^ 13 : Nat)) (slope s * 10 ^ 13 : Nat)
    (-(2 * w * e)) ∧ g = s.clock.integ - roundDiv ((w : Int) ^ 2 * e * (s.clock.sinceUs + 10 : Nat)) (10 ^ 18)) ∧
  (∃ (x : Int) (e : Int) (f : Int) (n : Fin 8) (s : State), isFollower s = false ∧ s.clock.selected = some n ∧ candType s n = 3
    ∧ s.clock.dpll = .slew ∧ e = phaseError s n x ∧ 100 ≤ e ∧ belowThreshold s (bandwidth s n) e = false ∧ f = -(slope s * 10 ^
    13 : Nat)) ∧
  (∃ (n : Fin 8) (s : State), s.time.aligned = false ∧ s.clock.cands[n].state = .qualified ∧ candType s n = 2) ∧
  (∃ (n : Fin 8) (s : State), s.time.aligned = false ∧ s.clock.cands[n].state = .qualified ∧ candType s n = 6) ∧
  (∃ (n : Fin 8) (s : State), s.time.aligned = false ∧ s.clock.cands[n].state = .qualified ∧ (candType s n = 3 ∨ candType s n =
    4 ∨ candType s n = 5)) ∧
  (∃ (s : State), s.time.aligned = false ∧ s.power.stage = .hostReady ∧ s.power.readyAt + regFld s Reg.refAlignCtrl 7 0 *
    refSecond ≤ s.time.refTime ∧ (∀ n : Fin 8, s.clock.cands[n].state ≠ .qualified)) ∧
  (∃ (s : State), alignWaitOver s = false) ∧
  (∃ (s : State) (x : Timed), x ∈ s.timed) :=
  ⟨⟨(zSecondIn : SecondIn), _, (State.reset : State),
    rfl, (by decide +kernel), (by decide +kernel)⟩,
  ⟨(0 : Fin 8), (candS 2 .qualified : State),
    by decide, by decide⟩,
  ⟨(0 : Fin 8), (regSetFld (Reg.refCfg 0) 0 0 1 (candS 2 .absent) : State),
    by rfl, by rfl⟩,
  ⟨(State.reset : State),
    by rfl, by rfl⟩,
  ⟨(regSetFld Reg.anchorCtrl 0 0 0 attS : State),
    by rfl, by rfl⟩,
  ⟨(0 : Int), _, _, _, (0 : Fin 8), _, ({ candS 3 .qualified with clock := { (candS 3 .qualified).clock with selected := some 0, dpll := .tracking, lowUs := 9999990 } } : State),
    by rfl, by rfl, (by decide +kernel), by rfl, rfl, by decide, (by decide +kernel), rfl, rfl, rfl⟩,
  ⟨(1000 : Int), _, _, (0 : Fin 8), ({ candS 3 .qualified with clock := { (candS 3 .qualified).clock with selected := some 0, dpll := .slew, lowUs := 9999990 } } : State),
    by rfl, by rfl, (by decide +kernel), by rfl, rfl, (by decide +kernel), (by decide +kernel), rfl⟩,
  ⟨(0 : Fin 8), (candS 2 .qualified : State),
    by rfl, by rfl, by rfl⟩,
  ⟨(0 : Fin 8), (candS 6 .qualified : State),
    by rfl, by rfl, by rfl⟩,
  ⟨(0 : Fin 8), (candS 4 .qualified : State),
    by rfl, by rfl, (.inr (.inl (by decide)))⟩,
  ⟨({ RS with time := { S1.time with refTime := 28224000 * 300 } } : State),
    by rfl, by rfl, (by decide +kernel), (by decide +kernel)⟩,
  ⟨(State.reset : State),
    by rfl⟩,
  ⟨({ State.reset with timed := [{ tick := 0, ticket := zTicket, act := .testgenSet 0 zTestgenSetArgs }] } : State), ({ tick := 0, ticket := zTicket, act := .testgenSet 0 zTestgenSetArgs } : Timed),
    (List.mem_singleton.2 rfl)⟩⟩

theorem test_meets_AnchorHeardLostAndClaimed :
  (∃ (n : Fin 16) (c : Cell) (s : State), Delivered n c s) ∧
  (∃ (s : State), s.clock.isAnchor = false ∧ now s < s.clock.beatTick + s.clock.beatLag + 2) ∧
  (∃ (s : State) (a : AnchorEntry), s.clock.isAnchor = false ∧ s.clock.beatTick + s.clock.beatLag + 2 ≤ now s ∧ s.clock.anchor =
    some a ∧ s.clock.isStandby = false) ∧
  (∃ (s : State) (a : AnchorEntry), s.clock.isAnchor = false ∧ s.clock.beatTick + s.clock.beatLag + 2 ≤ now s ∧ s.clock.anchor =
    some a ∧ s.clock.isStandby = true) ∧
  (∃ (s : State) (t : Nat) (o : AnchorEntry), s.clock.betterSince = some t ∧ ownClaim s = some o ∧ s.clock.isAnchor = false ∧ t
    + wtrS s * refSecond ≤ s.time.refTime) :=
  ⟨⟨(0 : Fin 16), (cell0 4 [] : Cell), (attS : State),
    ⟨by decide, by decide⟩⟩,
  ⟨(State.reset : State),
    by rfl, by decide⟩,
  ⟨({ State.reset with time := { S1.time with tick := 3 }, clock := { S1.clock with anchor := some zAnchorEntry } } : State), (zAnchorEntry : AnchorEntry),
    by rfl, by rfl, by rfl, by rfl⟩,
  ⟨({ State.reset with time := { S1.time with tick := 3 }, clock := { S1.clock with anchor := some zAnchorEntry, isStandby := true } } : State), (zAnchorEntry : AnchorEntry),
    by rfl, by rfl, by rfl, by rfl⟩,
  ⟨({ State.reset with node := { S1.node with id := 1 }, time := { S1.time with aligned := true, refTime := 10 ^ 12 }, clock := { S1.clock with betterSince := some 0 } } : State), (0 : Nat), _,
    by rfl, rfl, by rfl, by decide⟩⟩

theorem test_meets_PllsPulsesAndForcedReference :
  (∃ (p : Fin 6) (v : Vector Pll 6) (s : State), p ≠ 4 ∧ p ≠ 3 ∧ v = vset s.clock.plls p
    { s.clock.plls[p] with locked := false }) ∧
  (∃ (v : Vector Pll 6) (s : State), v = vset s.clock.plls 4 { s.clock.plls[(4 : Fin 6)] with locked := false }) ∧
  (∃ (v : Vector Pll 6) (s : State), v = vset s.clock.plls 3 { s.clock.plls[(3 : Fin 6)] with locked := false }) ∧
  (∃ (p : Fin 6) (k : Nat) (f : BitVec 24) (x : Nat × Nat × Nat) (s : State), s.clock.plls[p].locked = false ∧ pllRequested s p
    = true ∧ s.power.stage = .hostReady ∧ (bandTries s p (vcoKhz s (coreStepped s) p))[k]? = some x ∧ 1000 * ((f.toNat : Int) -
    x.2.2).natAbs ≤ 5 * x.2.2) ∧
  (∃ (p : Fin 6) (k : Nat) (s : State), s.clock.plls[p].locked = false ∧ pllRequested s p = true ∧ s.power.stage = .hostReady ∧
    (bandTries s p (vcoKhz s (coreStepped s) p))[k]? = none) ∧
  (∃ (path : AccessPath) (v : Word) (s : State), path ≠ .mb0 ∧ regsOpen s = true ∧ fld v 3 3 = 1 ∧ fld v 2 0 < 6) ∧
  (∃ (p : Fin 6) (s : State), s.clock.measuring = some p.val) ∧
  (∃ (path : AccessPath) (s : State), path ≠ .mb0 ∧ regsOpen s = true) ∧
  (∃ (h : CmdHdr) (s : State), Taken h false s ∧ s.time.aligned = false) ∧
  (∃ (h : CmdHdr) (s : State), Taken h false s ∧ s.time.aligned = true) ∧
  (∃ (h : CmdHdr) (addr : BitVec 64) (s : State), Taken h false s ∧ aligned8 addr = true) ∧
  (∃ (h : CmdHdr) (tick : BitVec 64) (c : Byte) (s : State) (n : Nat) (late : Bool), Taken h true s ∧ schedule tick s = some (n,
    late) ∧ (c.toNat < 8 ∨ c = 0xFF)) ∧
  (∃ (h : CmdHdr) (tick : BitVec 64) (m : BitVec 10) (s : State) (n : Nat) (late : Bool), Taken h true s ∧ schedule tick s =
    some (n, late) ∧ m ≠ 0) ∧
  (∃ (n : Fin 8) (s : State), isFollower s = false ∧ (s.clock.cands[n].state = .qualified ∨ s.clock.cands[n].state =
    .waitRestore)) ∧
  (∃ (n : Fin 8) (s : State), isFollower s = false ∧ s.clock.cands[n].state ≠ .qualified ∧ s.clock.cands[n].state ≠
    .waitRestore) :=
  ⟨⟨(0 : Fin 6), _, (State.reset : State),
    by decide, by decide, rfl⟩,
  ⟨_, (State.reset : State),
    rfl⟩,
  ⟨_, (State.reset : State),
    rfl⟩,
  ⟨(5 : Fin 6), (0 : Nat), (4020000 : BitVec 24), ((0, 0, 4000000) : Nat × Nat × Nat), (regSet (Reg.band 5 0) (4000000 * 256) RS : State),
    by rfl, by rfl, by rfl, by rfl, by rfl⟩,
  ⟨(0 : Fin 6), (0 : Nat), (RS : State),
    by rfl, by rfl, by rfl, by rfl⟩,
  ⟨(.bar0 : AccessPath), (0xD : Word), (RS : State),
    by decide, by rfl, by rfl, by decide⟩,
  ⟨(5 : Fin 6), ({ State.reset with clock := { S1.clock with measuring := some 5 } } : State),
    by rfl⟩,
  ⟨(.bar0 : AccessPath), (RS : State),
    by decide, by rfl⟩,
  ⟨(zCmdHdr : CmdHdr), (State.reset : State),
    ⟨rfl, rfl⟩, by rfl⟩,
  ⟨(zCmdHdr : CmdHdr), ({ State.reset with time := { S1.time with aligned := true } } : State),
    ⟨rfl, rfl⟩, by rfl⟩,
  ⟨(zCmdHdr : CmdHdr), (0 : BitVec 64), (State.reset : State),
    ⟨rfl, rfl⟩, by rfl⟩,
  ⟨(zCmdHdr : CmdHdr), (0 : BitVec 64), (7 : Byte), (State.reset : State), (1 : Nat), (false : Bool),
    ⟨rfl, rfl⟩, by rfl, (.inl (by decide))⟩,
  ⟨(zCmdHdr : CmdHdr), (0 : BitVec 64), (0x200 : BitVec 10), (State.reset : State), (1 : Nat), (false : Bool),
    ⟨rfl, rfl⟩, by rfl, by decide⟩,
  ⟨(0 : Fin 8), (candS 2 .waitRestore : State),
    by rfl, (.inr (by decide))⟩,
  ⟨(0 : Fin 8), (State.reset : State),
    by rfl, by decide, by decide⟩⟩

theorem test_meets_ComparatorsAndCaptures :
  (∃ (h : CmdHdr) (a : CmpSetArgs) (u : Fin 32) (s : State), Taken h false s ∧ cmpBad a = false ∧ a.unit.toNat = u.val ∧
    a.action.toNat = 1 ∧ a.periodic = false ∧ (nodeNow (takenState h s)).1 < timeOf a.time) ∧
  (∃ (h : CmdHdr) (a : CmpSetArgs) (u : Fin 32) (s : State), Taken h false s ∧ cmpBad a = false ∧ a.unit.toNat = u.val ∧
    a.action.toNat = 1 ∧ a.periodic = false ∧ timeOf a.time ≤ (nodeNow (takenState h s)).1) ∧
  (∃ (h : CmdHdr) (a : CmpSetArgs) (u : Fin 32) (s : State) (n : Nat) (k : Nat), Taken h false s ∧ cmpBad a = false ∧
    a.unit.toNat = u.val ∧ a.action.toNat = 1 ∧ a.periodic = true ∧ n = (nodeNow (takenState h s)).1 ∧ n < timeOf a.time + k *
    a.period.toNat ∧ (k = 0 ∨ timeOf a.time + (k - 1) * a.period.toNat ≤ n)) ∧
  (∃ (h : CmdHdr) (a : CmpSetArgs) (k : Fin 4) (s : State), Taken h false s ∧ cmpBad a = false ∧ a.arg.toNat = k.val ∧ 2 ≤
    a.action.toNat ∧ a.action.toNat ≤ 4 ∧ evtOut (takenState h s) k = false) ∧
  (∃ (h : CmdHdr) (a : CmpSetArgs) (u : Fin 32) (s : State), Taken h false s ∧ cmpBad a = false ∧ a.unit.toNat = u.val ∧
    a.action.toNat = 0) ∧
  (∃ (u : Fin 32) (t : Nat) (c : Comparator) (s : State), timeRuns s = true ∧ c = s.net.cmps[u] ∧ c.next = some t ∧ t <
    boundaryTime s + tickSpan s ∧ c.period ≠ 0) ∧
  (∃ (u : Fin 32) (t : Nat) (c : Comparator) (s : State), timeRuns s = true ∧ c = s.net.cmps[u] ∧ c.next = some t ∧ t <
    boundaryTime s + tickSpan s ∧ c.period = 0) ∧
  (∃ (u : Fin 32) (s : State), s.net.cmps[u].action = 1 ∧ s.net.cmps[u].report = true) ∧
  (∃ (src : BitVec 6) (up : Bool) (u : Fin 16) (s : State), timeRuns s = true ∧ capSourceOk s src.toNat = true ∧ ((fins
    16).filter (fun u : Fin 16 => regBit s (Reg.timeCapCfg u) 0 && decide (capSource s u = src.toNat) && capEdge s u src.toNat
    up) = [u])) ∧
  (∃ (u : Fin 32) (s : State), (timeRuns s = false ∨ ∀ t, s.net.cmps[u].next = some t → boundaryTime s + tickSpan s ≤ t)) ∧
  (∃ (s : State), timeRuns s = false) ∧
  (∃ (u : Fin 16) (t : Nat) (t0 : Nat) (s : State), s.net.caps[u].time = some t0 ∧ t < t0 + 100 * 65536) ∧
  (∃ (h : CmdHdr) (addr : BitVec 64) (s : State), Taken h false s ∧ aligned8 addr = true) :=
  ⟨⟨(zCmdHdr : CmdHdr), ({ zCmpSetArgs with unit := 31, action := 1, time := { zTimeVal with sec := 1 } } : CmpSetArgs), (31 : Fin 32), (State.reset : State),
    ⟨rfl, rfl⟩, by rfl, by rfl, by rfl, by rfl, (lt_of_lt_of_le (nodeNow_lt _ (by decide)) (by decide))⟩,
  ⟨(zCmdHdr : CmdHdr), ({ zCmpSetArgs with unit := 31, action := 1 } : CmpSetArgs), (31 : Fin 32), (State.reset : State),
    ⟨rfl, rfl⟩, by rfl, by rfl, by rfl, by rfl, (Nat.zero_le _)⟩,
  ⟨(zCmdHdr : CmdHdr), ({ zCmpSetArgs with unit := 31, action := 1, time := { zTimeVal with sec := 1 }, periodic := true, period := 65536000 } : CmpSetArgs), (31 : Fin 32), (State.reset : State), _, (0 : Nat),
    ⟨rfl, rfl⟩, by rfl, by rfl, by rfl, by rfl, (rfl), (lt_of_lt_of_le (nodeNow_lt _ (by decide)) (by decide)), (.inl rfl)⟩,
  ⟨(zCmdHdr : CmdHdr), ({ zCmpSetArgs with action := 4, arg := 3, pulseNs := 10 } : CmpSetArgs), (3 : Fin 4), (State.reset : State),
    ⟨rfl, rfl⟩, by rfl, by rfl, by decide, by rfl, by rfl⟩,
  ⟨(zCmdHdr : CmdHdr), ({ zCmpSetArgs with unit := 31 } : CmpSetArgs), (31 : Fin 32), (State.reset : State),
    ⟨rfl, rfl⟩, by rfl, by rfl, by rfl⟩,
  ⟨(0 : Fin 32), (0 : Nat), _, (runS { S1 with net := { S1.net with cmps := Vector.replicate 32 { Comparator.off with next := some 0, period := 65536000 } } } : State),
    by rfl, (rfl), rfl, by decide, by decide⟩,
  ⟨(0 : Fin 32), (0 : Nat), _, (runS { S1 with net := { S1.net with cmps := Vector.replicate 32 { Comparator.off with next := some 0 } } } : State),
    by rfl, (rfl), rfl, by decide, by rfl⟩,
  ⟨(0 : Fin 32), ({ State.reset with net := { S1.net with cmps := Vector.replicate 32 { Comparator.off with action := 1, report := true } } } : State),
    by rfl, by rfl⟩,
  ⟨(0 : BitVec 6), (true : Bool), (0 : Fin 16), (runS (regSet (Reg.timeCapCfg 0) 7 S1) : State),
    by rfl, by rfl, by rfl⟩,
  ⟨(0 : Fin 32), (State.reset : State),
    by decide⟩,
  ⟨(State.reset : State),
    by rfl⟩,
  ⟨(0 : Fin 16), (6553599 : Nat), (0 : Nat), ({ State.reset with net := { S1.net with caps := Vector.replicate 16 { time := some 0, count := 1 } } } : State),
    by rfl, by decide⟩,
  ⟨(zCmdHdr : CmdHdr), (0 : BitVec 64), (State.reset : State),
    ⟨rfl, rfl⟩, by rfl⟩⟩

theorem test_meets_EthernetLinksAndFrames :
  (∃ (p : Fin 4) (s : State), s.net.eth[p].up = true) ∧
  (∃ (p : Fin 4) (s : State), s.net.eth[p].up = true) ∧
  (∃ (p : Fin 4) (s : State), ethMode s p ≠ 0 ∧ s.net.eth[p].up = false ∧ fenced s (.eth p) = false) ∧
  (∃ (path : AccessPath) (s : State), path ≠ .mb0 ∧ regsOpen s = true ∧ locked s = false) ∧
  (∃ (path : AccessPath) (s : State), path ≠ .mb0 ∧ regsOpen s = true ∧ locked s = true) ∧
  (∃ (p : Fin 4) (f : EthFrame) (s : State), s.power.state = .running ∧ s.net.eth[p].up = true ∧ fenced s (.eth p) = false ∧
    (f.fcsOk = false ∨ frameLen f.bytes < 64 ∨ maxFrame s p < frameLen f.bytes)) ∧
  (∃ (p : Fin 4) (f : EthFrame) (s : State), s.power.state = .running ∧ s.net.eth[p].up = true ∧ fenced s (.eth p) = false ∧
    f.fcsOk = true ∧ 64 ≤ frameLen f.bytes ∧ frameLen f.bytes ≤ maxFrame s p ∧ (frameView f.bytes).etype = 0x8808) ∧
  (∃ (p : Fin 4) (f : EthFrame) (s : State), s.power.state = .running ∧ s.net.eth[p].up = true ∧ fenced s (.eth p) = false ∧
    f.fcsOk = true ∧ 64 ≤ frameLen f.bytes ∧ frameLen f.bytes ≤ maxFrame s p ∧ (frameView f.bytes).etype ≠ 0x8808 ∧ (frameView
    f.bytes).etype ≠ 0x0806 ∧ (frameView f.bytes).ipv4 = false ∧ (frameView f.bytes).etype ≠ 0x88F7) ∧
  (∃ (p : Fin 4) (f : EthFrame) (s : State), ethRuns s p = true ∧ f.fcsOk = true ∧ 64 ≤ frameLen f.bytes ∧ frameLen f.bytes ≤
    maxFrame s p ∧ (frameView f.bytes).etype = 0x88F7 ∧ (frameView f.bytes).ipv4 = false ∧ regBit s (Reg.ethPtpCfg p) 0 = false) ∧
  (∃ (p : Fin 4) (f : EthFrame) (s : State), ethRuns s p = true ∧ f.fcsOk = true ∧ 64 ≤ frameLen f.bytes ∧ frameLen f.bytes ≤
    maxFrame s p ∧ (frameView f.bytes).etype = 0x0806 ∧ (frameView f.bytes).udp = false ∧ regGet s (Reg.ethIpv4 p) ≠ 0 ∧ frameN
    f.bytes ((frameView f.bytes).body + 24) 4 = (regGet s (Reg.ethIpv4 p)).toNat) ∧
  (∃ (p : Fin 4) (s : State), ethRuns s p = false) ∧
  (∃ (p : Fin 4) (f : EthFrame) (v : FrameView) (s : State), (∀ k : Fin 64, filterMatches s p k f.bytes v = false)) ∧
  (∃ (p : Fin 4) (f : EthFrame) (v : FrameView) (k : Fin 64) (s : State), v.laterFragment = false ∧ filterMatches s p k f.bytes
    v = true ∧ (∀ j : Fin 64, j < k → filterMatches s p j f.bytes v = false)) ∧
  (∃ (p : Fin 4) (f : RxFrame) (s : State), consumer s p f.queue = 0) ∧
  (∃ (p : Fin 4) (f : RxFrame) (s : State), consumer s p f.queue = 1 ∧ queueBytes s.net.eth[p].rx f.queue + frameLen f.bytes ≤
    queueLimit s p f.queue ∧ bufBytes s.net.eth[p].rx + frameLen f.bytes ≤ 524288) ∧
  (∃ (p : Fin 4) (f : RxFrame) (s : State), consumer s p f.queue = 1 ∧ (queueLimit s p f.queue < queueBytes s.net.eth[p].rx
    f.queue + frameLen f.bytes ∨ 524288 < bufBytes s.net.eth[p].rx + frameLen f.bytes)) :=
  ⟨⟨(0 : Fin 4), (up0 : State),
    by rfl⟩,
  ⟨(0 : Fin 4), (up0 : State),
    by rfl⟩,
  ⟨(0 : Fin 4), (port0 : State),
    by decide, by rfl, by rfl⟩,
  ⟨(.bar0 : AccessPath), (RS : State),
    by decide, by rfl, by rfl⟩,
  ⟨(.bar0 : AccessPath), (regSet Reg.glbLock 1 RS : State),
    by decide, by rfl, by rfl⟩,
  ⟨(0 : Fin 4), (zEthFrame : EthFrame), (up0 : State),
    by rfl, by rfl, by rfl, by decide⟩,
  ⟨(0 : Fin 4), ({ zEthFrame with fcsOk := true, bytes := List.replicate 12 0 ++ [0x88, 0x08] ++ List.replicate 46 0 } : EthFrame), (up0 : State),
    by rfl, by rfl, by rfl, by rfl, by rfl, by decide, by rfl⟩,
  ⟨(0 : Fin 4), ({ zEthFrame with fcsOk := true, bytes := List.replicate 12 0 ++ [0x12, 0x34] ++ List.replicate 46 0 } : EthFrame), (up0 : State),
    by rfl, by rfl, by rfl, by rfl, by rfl, by decide, (by decide +kernel), (by decide +kernel), (by decide +kernel),
    (by decide +kernel)⟩,
  ⟨(0 : Fin 4), (frameOf (List.replicate 12 0 ++ [0x88, 0xF7]) : EthFrame), (up0 : State),
    by rfl, by rfl, (by decide +kernel), (by decide +kernel), (by decide +kernel), (by decide +kernel), (by decide +kernel)⟩,
  ⟨(0 : Fin 4), (frameOf (List.replicate 12 0 ++ [0x08, 0x06] ++ List.replicate 24 0 ++ [0, 0, 0, 1]) : EthFrame), (regSet (Reg.ethIpv4 0) 1 up0 : State),
    by rfl, by rfl, (by decide +kernel), (by decide +kernel), (by decide +kernel), (by decide +kernel), (by decide +kernel),
    (by decide +kernel)⟩,
  ⟨(0 : Fin 4), (State.reset : State),
    by rfl⟩,
  ⟨(0 : Fin 4), (zEthFrame : EthFrame), (zFrameView : FrameView), (State.reset : State),
    by decide⟩,
  ⟨(0 : Fin 4), (zEthFrame : EthFrame), (zFrameView : FrameView), (0 : Fin 64), (regSet (Reg.ethFiltCtrl 0 0) 1 S1 : State),
    by rfl, by rfl, (fun j h => absurd h (Fin.not_lt_zero j))⟩,
  ⟨(0 : Fin 4), (zRxFrame : RxFrame), (State.reset : State),
    by rfl⟩,
  ⟨(0 : Fin 4), (zRxFrame : RxFrame), (regSet (Reg.ethQcfg 0 0) 0x00010001 S1 : State),
    by rfl, by decide, by decide⟩,
  ⟨(0 : Fin 4), (zRxFrame : RxFrame), (regSet (Reg.ethQcfg 0 0) 0x00000001 S1 : State),
    by rfl, (.inl (by decide +kernel))⟩⟩

theorem test_meets_PausePacesAnEthernetPort :
  (∃ (p : Fin 4) (s : State), ethRuns s p = true ∧ ((pauseEnables s p).2 = false ∨ pauseStuck s p = true)) ∧
  (∃ (p : Fin 4) (q : BitVec 16) (s : State), ethRuns s p = true ∧ (pauseEnables s p).2 = true ∧ pauseStuck s p = false ∧ q ≠ 0) ∧
  (∃ (p : Fin 4) (s : State), ethRuns s p = true ∧ (pauseEnables s p).2 = true ∧ pauseStuck s p = false ∧ s.net.eth[p].paused =
    true) ∧
  (∃ (p : Fin 4) (s : State), s.net.eth[p].paused = true ∧ mayHavePassed s s.net.eth[p].pauseEnds 0 = true) ∧
  (∃ (p : Fin 4) (s : State), (s.net.eth[p].paused = false ∨ mayHavePassed s s.net.eth[p].pauseEnds 0 = false)) ∧
  (∃ (p : Fin 4) (s : State), (s.net.eth[p].paused = false ∨ mayHavePassed s s.net.eth[p].pauseSince (watchdogUnits s p) =
    false)) ∧
  (∃ (p : Fin 4) (s : State), s.net.eth[p].paused = true ∧ mayHavePassed s s.net.eth[p].pauseSince (watchdogUnits s p) = true) ∧
  (∃ (p : Fin 4) (s : State), s.net.eth[p].up = true ∧ s.net.eth[p].paused = true) ∧
  (∃ (p : Fin 4) (s : State), s.net.eth[p].up = false) ∧
  (∃ (p : Fin 4) (s : State), s.net.eth[p].pausing = true ∧ s.net.eth[p].up = true ∧ (pauseEnables s p).1 = true ∧ regFld s
    (Reg.ethPauseCfg p) 22 16 * 524288 < bufBytes s.net.eth[p].rx * 100 ∧ mayHavePassed s s.net.eth[p].pauseSent (quantaUnits s
    p (pauseQuanta s p) / 2) = true) ∧
  (∃ (path : AccessPath) (s : State), path ≠ .mb0 ∧ regsOpen s = true) :=
  ⟨⟨(0 : Fin 4), (up0 : State),
    by rfl, (.inl (by decide +kernel))⟩,
  ⟨(0 : Fin 4), (1 : BitVec 16), (regSet (Reg.ethPauseCfg 0) 2 (ethS (fun e => { e with paused := true, pausing := true, rx := [{ zRxFrame with bytes := [0] }] }) up0) : State),
    by rfl, by rfl, by rfl, by decide⟩,
  ⟨(0 : Fin 4), (regSet (Reg.ethPauseCfg 0) 2 (ethS (fun e => { e with paused := true, pausing := true, rx := [{ zRxFrame with bytes := [0] }] }) up0) : State),
    by rfl, by rfl, by rfl, by rfl⟩,
  ⟨(0 : Fin 4), (regSet (Reg.ethPauseCfg 0) 2 (ethS (fun e => { e with paused := true, pausing := true, rx := [{ zRxFrame with bytes := [0] }] }) up0) : State),
    by rfl, by rfl⟩,
  ⟨(0 : Fin 4), (State.reset : State),
    (.inl (by decide +kernel))⟩,
  ⟨(0 : Fin 4), (State.reset : State),
    (.inl (by decide +kernel))⟩,
  ⟨(0 : Fin 4), (later (regSet (Reg.ethPauseCfg 0) 2 (ethS (fun e => { e with paused := true, pausing := true, rx := [{ zRxFrame with bytes := [0] }] }) up0)) : State),
    by rfl, (by decide +kernel)⟩,
  ⟨(0 : Fin 4), (regSet (Reg.ethPauseCfg 0) 1 (ethS (fun e => { e with paused := true, pausing := true, rx := [{ zRxFrame with bytes := [0] }] }) up0) : State),
    by rfl, by rfl⟩,
  ⟨(0 : Fin 4), (RS : State),
    by rfl⟩,
  ⟨(0 : Fin 4), (later (regSet (Reg.ethPauseCfg 0) 1 (ethS (fun e => { e with paused := true, pausing := true, rx := [{ zRxFrame with bytes := [0] }] }) up0)) : State),
    (by decide +kernel), (by decide +kernel), (by decide +kernel), (by decide +kernel), (by decide +kernel)⟩,
  ⟨(.bar0 : AccessPath), (RS : State),
    by decide, by rfl⟩⟩

theorem test_meets_PtpMessagesAnsweredAndForwarded :
  (∃ (p : Fin 4) (m : PtpMsg) (s : State), ethRuns s p = true ∧ m.kind = .pdelay ∧ ptpOn s p = true) ∧
  (∃ (p : Fin 4) (m : PtpMsg) (s : State), ethRuns s p = true ∧ m.kind ≠ .pdelay ∧ bufferFull s p 64 = false ∧ ptpOn s p = false
    ∧ tcOn s p = true) ∧
  (∃ (p : Fin 4) (m : PtpMsg) (s : State), ethRuns s p = true ∧ m.kind ≠ .pdelay ∧ bufferFull s p 64 = false ∧ tcOn s p = false
    ∧ ptpOn s p = true ∧ m.domain.toNat = ptpDomain s p ∧ m.l2 = ptpL2 s p ∧ m.vlan = ptpVlan s p) ∧
  (∃ (p : Fin 4) (m : PtpMsg) (s : State), ethRuns s p = true ∧ m.kind ≠ .pdelay ∧ bufferFull s p 64 = false ∧ tcOn s p = false
    ∧ m.domain.toNat ≠ ptpDomain s p) ∧
  (∃ (p : Fin 4) (m : PtpMsg) (s : State), ethRuns s p = true ∧ m.kind ≠ .pdelay ∧ bufferFull s p 64 = true) ∧
  (∃ (m : PtpMsg), m.kind = .announce ∧ m.ptpTimescale = false) ∧
  (∃ (p : Fin 4) (m : PtpMsg) (s : State), m.kind = .sync ∧ ptpStateOf s p m.portState ≠ 9) ∧
  (∃ (p : Fin 4) (s : State), s.net.eth[p].ptpState = 9 ∧ s.net.eth[p].delayReqAt = none) ∧
  (∃ (p : Fin 4) (m : PtpMsg) (s : State), m.kind = .delayReq ∧ s.net.eth[p].ptpState = 6) ∧
  (∃ (p : Fin 4) (x : BitVec 4) (s : State), (x = 5 ∨ x = 6) ∧ regBit s (Reg.ethPtpCfg p) 3 = true) ∧
  (∃ (m : PtpMsg), (m.kind = .sync ∨ m.kind = .delayReq) ∧ m.correction ≠ 0x7FFFFFFFFFFFFFFF) ∧
  (∃ (m : PtpMsg), ((m.kind ≠ .sync ∧ m.kind ≠ .delayReq) ∨ m.correction = 0x7FFFFFFFFFFFFFFF)) ∧
  (∃ (p : Fin 4) (s : State), ptpOn s p = true ∧ s.net.eth[p].ptpState = 6) ∧
  (∃ (p : Fin 4) (s : State), ptpOn s p = true ∧ s.net.eth[p].ptpState = 6) ∧
  (∃ (p : Fin 4) (s : State), s.net.eth[p].ptpState ≠ 6) ∧
  (∃ (p : Fin 4) (s : State), ptpOn s p = true) ∧
  (∃ (p : Fin 4) (s : State), ptpOn s p = true ∧ regBit s (Reg.ethPtpCfg p) 3 = true ∧ s.net.eth[p].ptpState = 6) :=
  ⟨⟨(0 : Fin 4), ({ zPtpMsg with kind := .pdelay } : PtpMsg), (ptpS 1 6 : State),
    by rfl, by rfl, by rfl⟩,
  ⟨(0 : Fin 4), (zPtpMsg : PtpMsg), (ptpS 2 6 : State),
    by rfl, by decide, by rfl, by rfl, by rfl⟩,
  ⟨(0 : Fin 4), (zPtpMsg : PtpMsg), (ptpS 1 6 : State),
    by rfl, by decide, by rfl, by rfl, by rfl, by rfl, by rfl, by rfl⟩,
  ⟨(0 : Fin 4), ({ zPtpMsg with domain := 1 } : PtpMsg), (up0 : State),
    by rfl, by decide, by rfl, by rfl, by decide⟩,
  ⟨(0 : Fin 4), (zPtpMsg : PtpMsg), (ethS (fun e => { e with rx := List.replicate 16 { zRxFrame with bytes := List.replicate 32764 0 } }) up0 : State),
    by rfl, by decide, (by decide +kernel)⟩,
  ⟨({ zPtpMsg with kind := .announce } : PtpMsg),
    by rfl, by rfl⟩,
  ⟨(0 : Fin 4), (zPtpMsg : PtpMsg), (State.reset : State),
    by rfl, by decide⟩,
  ⟨(0 : Fin 4), (ptpS 1 9 : State),
    by rfl, by rfl⟩,
  ⟨(0 : Fin 4), ({ zPtpMsg with kind := .delayReq } : PtpMsg), (ptpS 1 6 : State),
    by rfl, by rfl⟩,
  ⟨(0 : Fin 4), (5 : BitVec 4), (ptpS 8 0 : State),
    (.inl rfl), by rfl⟩,
  ⟨(zPtpMsg : PtpMsg),
    by decide, by decide⟩,
  ⟨({ zPtpMsg with correction := 0x7FFFFFFFFFFFFFFF } : PtpMsg),
    (.inr rfl)⟩,
  ⟨(0 : Fin 4), (ptpS 1 6 : State),
    by rfl, by rfl⟩,
  ⟨(0 : Fin 4), (ptpS 1 6 : State),
    by rfl, by rfl⟩,
  ⟨(0 : Fin 4), (State.reset : State),
    by decide⟩,
  ⟨(0 : Fin 4), (ptpS 1 1 : State),
    (by decide +kernel)⟩,
  ⟨(0 : Fin 4), (ptpS 9 6 : State),
    (by decide +kernel), (by decide +kernel), by rfl⟩⟩

theorem test_meets_AoipStreamsSetReceivedAndQueried :
  (∃ (h : CmdHdr) (a : AoipRxArgs) (s : State) (n : Nat) (late : Bool), Taken h true s ∧ schedule a.tick s = some (n, late) ∧
    a.enable = true ∧ streamBad s a.format.toNat a.channels.toNat a.firstCh.toNat a.ptime.toNat = false ∧ 96 ≤ a.pt.toNat ∧
    a.pt.toNat ≤ 127 ∧ packetSamples s a.ptime.toNat + spt s ≤ a.linkOffset.toNat ∧ a.linkOffset.toNat ≤ 32768 ∧ streamRefusal
    (takenState h s) a.format.toNat a.channels.toNat a.ptime.toNat ((rxLegs a).map (·.1)) = none) ∧
  (∃ (h : CmdHdr) (a : AoipTxArgs) (s : State) (n : Nat) (late : Bool), Taken h true s ∧ schedule a.tick s = some (n, late) ∧
    a.enable = true ∧ streamBad s a.format.toNat a.channels.toNat a.firstCh.toNat a.ptime.toNat = false ∧ 96 ≤ a.pt.toNat ∧
    a.pt.toNat ≤ 127 ∧ (multicast a.dstIp = true ∨ a.dstMac ≠ 0) ∧ streamRefusal (takenState h s) a.format.toNat
    a.channels.toNat a.ptime.toNat (txPorts a) = none) ∧
  (∃ (s : State) (f : Nat) (c : Nat) (t : Nat), (c = 0 ∨ 64 < c ∨ 1440 < payloadBytes s f c t)) ∧
  (∃ (s : State) (f : Nat) (c : Nat) (t : Nat) (l : List (Fin 4)) (p : Fin 4), 1 ≤ c ∧ c ≤ 64 ∧ payloadBytes s f c t ≤ 1440 ∧ p
    ∈ l ∧ ethMode s p = 0) ∧
  (∃ (h : CmdHdr) (tick : BitVec 64) (st : Byte) (pair : Byte) (block : List Byte) (x : AoipTx) (s : State) (n : Nat) (late :
    Bool), Taken h true s ∧ schedule tick s = some (n, late) ∧ mapGet s.net.tx st.toNat = some x ∧ x.cfg.format = 2 ∧ pair.toNat
    ≤ 31 ∧ block.length = 24) ∧
  (∃ (h : CmdHdr) (dir : Byte) (pair : Byte) (s : State), Taken h false s ∧ dir.toNat ≤ 1 ∧ pair.toNat ≤ 31) ∧
  (∃ (n : Fin 256) (a : AoipRxArgs) (x : AoipRx) (s : State), a.enable = true ∧ x ∈ rxOthers s n ∧ overlaps a.firstCh.toNat
    a.channels.toNat x.cfg.firstCh.toNat x.cfg.channels.toNat = true) ∧
  (∃ (n : Fin 256) (a : AoipRxArgs) (s : State), a.enable = true ∧ rxOthers s n = [] ∧ mapGet s.net.rx n = none ∧ rxWords s a ≤
    1048576) ∧
  (∃ (n : Fin 256) (a : AoipTxArgs) (p : Fin 4) (s : State), a.enable = true ∧ p ∈ txPorts a ∧ (txFits s p (a ::
    (s.net.tx.filter fun e => decide (e.1 ≠ n.val) && e.2.on).map (·.2.cfg)) = false)) ∧
  (∃ (n : Fin 256) (a : AoipTxArgs) (s : State), a.enable = true ∧ mapGet s.net.tx n = none ∧ (∀ p ∈ txPorts a, txFits s p (a ::
    (s.net.tx.filter fun e => decide (e.1 ≠ n.val) && e.2.on).map (·.2.cfg)) = true)) ∧
  (∃ (p : Fin 4) (x : RtpIn) (s : State), rxStreamOf s p x = none) ∧
  (∃ (p : Fin 4) (x : RtpIn) (n : Nat) (y : AoipRx) (e : RtpSample) (s : State), rxStreamOf s p x = some (n, y) ∧ ethRuns s p =
    true ∧ bufBytes s.net.eth[p].rx + (x.payload.length + 58) ≤ 524288 ∧ (rtpData x).length = payloadBytes s y.cfg.format.toNat
    y.cfg.channels.toNat y.cfg.ptime.toNat ∧ mapGet y.ring (x.ts.toNat % ringSize s y.cfg) = some e ∧ e.ts = x.ts.toNat) ∧
  (∃ (p : Fin 4) (x : RtpIn) (n : Nat) (r : Nat) (k : Nat) (y : AoipRx) (d : Int) (s : State), rxStreamOf s p x = some (n, y) ∧
    ethRuns s p = true ∧ bufBytes s.net.eth[p].rx + (x.payload.length + 58) ≤ 524288 ∧ (rtpData x).length = payloadBytes s
    y.cfg.format.toNat y.cfg.channels.toNat y.cfg.ptime.toNat ∧ r = ringSize s y.cfg ∧ k = packetSamples s y.cfg.ptime.toNat ∧
    (∀ e, mapGet y.ring (x.ts.toNat % r) = some e → e.ts ≠ x.ts.toNat) ∧ d = signed 32 (unsign 32 ((x.ts.toNat : Int) +
    y.cfg.linkOffset.toNat - (spt s * now s : Nat))) ∧ (x.sinceNs + 2000 : Nat) * (fs s : Int) ≤ ((((spt s * now s : Nat) : Int)
    + d) / (spt s : Int) - now s) * (spt s * 1000000000 : Nat) ∧ d + k - 1 < r) :=
  ⟨⟨(zCmdHdr : CmdHdr), (rxA : AoipRxArgs), (port0 : State), (1 : Nat), (false : Bool),
    ⟨rfl, rfl⟩, by rfl, by rfl, by rfl, by rfl, by decide, by decide, by decide, by rfl⟩,
  ⟨(zCmdHdr : CmdHdr), (txA : AoipTxArgs), (port0 : State), (1 : Nat), (false : Bool),
    ⟨rfl, rfl⟩, by rfl, by rfl, by rfl, by rfl, by decide, (.inr (by decide)), by rfl⟩,
  ⟨(State.reset : State), (0 : Nat), (0 : Nat), (0 : Nat),
    by decide⟩,
  ⟨(State.reset : State), (0 : Nat), (1 : Nat), (0 : Nat), ([0] : List (Fin 4)), (0 : Fin 4),
    by rfl, by decide, by decide, (List.mem_singleton.2 rfl), by rfl⟩,
  ⟨(zCmdHdr : CmdHdr), (0 : BitVec 64), (0 : Byte), (0 : Byte), (List.replicate 24 0 : List Byte), ({ zAoipTx with cfg := { txA with format := 2 } } : AoipTx), ({ State.reset with net := { S1.net with tx := [(0, { zAoipTx with cfg := { txA with format := 2 } })] } } : State), (1 : Nat), (false : Bool),
    ⟨rfl, rfl⟩, by rfl, by rfl, by rfl, by decide, by rfl⟩,
  ⟨(zCmdHdr : CmdHdr), (0 : Byte), (0 : Byte), (State.reset : State),
    ⟨rfl, rfl⟩, by decide, by decide⟩,
  ⟨(1 : Fin 256), (rxA : AoipRxArgs), (rx1 : AoipRx), (rxS rx1 : State),
    by rfl, (by decide +kernel), by rfl⟩,
  ⟨(0 : Fin 256), (rxA : AoipRxArgs), (State.reset : State),
    by rfl, by rfl, by rfl, by decide⟩,
  ⟨(0 : Fin 256), (txA : AoipTxArgs), (0 : Fin 4), (State.reset : State),
    by rfl, (by decide +kernel), by rfl⟩,
  ⟨(0 : Fin 256), (txA : AoipTxArgs), (port0 : State),
    by rfl, by rfl, (by decide +kernel)⟩,
  ⟨(0 : Fin 4), (zRtpIn : RtpIn), (State.reset : State),
    by rfl⟩,
  ⟨(0 : Fin 4), (rtp0 24 : RtpIn), (0 : Nat), ({ rx1 with ring := [(0, { zRtpSample with ts := 0 })] } : AoipRx), ({ zRtpSample with ts := 0 } : RtpSample), (rxS { rx1 with ring := [(0, { zRtpSample with ts := 0 })] } : State),
    by rfl, by rfl, by decide, by rfl, by rfl, by rfl⟩,
  ⟨(0 : Fin 4), (rtp0 24 : RtpIn), (0 : Nat), _, _, (rx1 : AoipRx), (4096 : Int), (rxS rx1 : State),
    by rfl, by rfl, by decide, by rfl, rfl, rfl, (fun e h => by cases h), (by decide +kernel), (by decide +kernel),
    (by decide +kernel)⟩⟩

theorem test_meets_PortCommandsTaken :
  (∃ (h : CmdHdr) (tick : BitVec 64) (port : PortSel) (p : Fin 12) (k : Nat) (s : State) (n : Nat) (late : Bool), Taken h true s
    ∧ schedule tick s = some (n, late) ∧ portOf port = some p ∧ k = asrcNeed p (regGet (takenState h s) (portCfgReg p))
    (pendingMasks (takenState h s) p) ∧ asrcOthers s p + k ≤ 256) ∧
  (∃ (h : CmdHdr) (tick : BitVec 64) (port : PortSel) (p : Fin 12) (s : State) (n : Nat) (late : Bool), Taken h true s ∧
    schedule tick s = some (n, late) ∧ portOf port = some p ∧ 256 < asrcOthers s p + asrcNeed p (regGet (takenState h s)
    (portCfgReg p)) (pendingMasks (takenState h s) p)) ∧
  (∃ (h : CmdHdr) (port : PortSel) (trig : Byte) (t : Fin 4) (p : Fin 12) (k : Nat) (s : State), Taken h true s ∧ portOf port =
    some p ∧ trig.toNat = t.val + 1 ∧ fenced s (.port p) = false ∧ s.ports.port[p].state = .stopped ∧ k = asrcNeed p (regGet
    (takenState h s) (portCfgReg p)) (pendingMasks (takenState h s) p) ∧ asrcOthers s p + k ≤ 256) ∧
  (∃ (h : CmdHdr) (port : PortSel) (trig : Byte) (p : Fin 12) (s : State), Taken h true s ∧ portOf port = some p ∧ 1 ≤
    trig.toNat ∧ trig.toNat ≤ 4 ∧ fenced s (.port p) = true) ∧
  (∃ (h : CmdHdr) (port : PortSel) (trig : Byte) (t : Fin 4) (p : Fin 12) (s : State), Taken h true s ∧ portOf port = some p ∧
    trig.toNat = t.val + 1 ∧ fenced s (.port p) = false ∧ s.ports.port[p].state ≠ .stopped) ∧
  (∃ (h : CmdHdr) (tick : BitVec 64) (port : PortSel) (p : Fin 12) (s : State) (n : Nat) (late : Bool), Taken h true s ∧
    schedule tick s = some (n, late) ∧ portOf port = some p) ∧
  (∃ (h : CmdHdr) (a : PortSlotsArgs) (p : Fin 8) (k : Nat) (s : State) (v : State) (n : Nat) (late : Bool), Taken h true s ∧
    schedule a.tick s = some (n, late) ∧ a.port.aes = false ∧ a.port.index.toFin = p ∧ a.immediate = false ∧ maskBad s p a =
    false ∧ a.masks.length = 4 ∧ (k = (if holdsAsrc (takenState h s) p then asrcNeed (serialPort p) (startCfg (takenState h s)
    p) (plannedMasks (takenState h s) p a) else 0)) ∧ asrcOthers s (serialPort p) + k ≤ 256 ∧ (v = (if holdsAsrc (takenState h
    s) p then setAsrc (serialPort p) k (takenState h s) else takenState h s))) ∧
  (∃ (h : CmdHdr) (a : PortSlotsArgs) (p : Fin 8) (k : Nat) (s : State) (v : State), Taken h false s ∧ a.tick = 0 ∧ a.port.aes =
    false ∧ a.port.index.toFin = p ∧ a.immediate = true ∧ maskBad s p a = false ∧ a.masks.length = 4 ∧ (k = (if holdsAsrc
    (takenState h s) p then asrcNeed (serialPort p) (startCfg (takenState h s) p) (plannedMasks (takenState h s) p a) else 0)) ∧
    asrcOthers s (serialPort p) + k ≤ 256 ∧ (v = (if holdsAsrc (takenState h s) p then setAsrc (serialPort p) k (takenState h s)
    else takenState h s))) ∧
  (∃ (h : CmdHdr) (a : AesCsSetArgs) (n : Fin 4) (s : State) (k : Nat) (late : Bool), Taken h true s ∧ schedule a.tick s = some
    (k, late) ∧ a.port.aes = true ∧ a.port.index.toNat = n.val ∧ a.block.length = 24) ∧
  (∃ (h : CmdHdr) (port : PortSel) (p : Fin 12) (addr : BitVec 64) (s : State), Taken h false s ∧ port.aes = false ∧ portOf port
    = some p ∧ aligned8 addr = true) ∧
  (∃ (h : CmdHdr) (port : PortSel) (p : Fin 12) (addr : BitVec 64) (s : State), Taken h false s ∧ port.aes = true ∧ portOf port
    = some p ∧ aligned8 addr = true) :=
  ⟨⟨(zCmdHdr : CmdHdr), (0 : BitVec 64), (zPortSel : PortSel), (0 : Fin 12), _, (State.reset : State), (1 : Nat), (false : Bool),
    ⟨rfl, rfl⟩, by rfl, by rfl, rfl, by decide⟩,
  ⟨(zCmdHdr : CmdHdr), (0 : BitVec 64), (zPortSel : PortSel), (0 : Fin 12), (portMod 1 (fun x => { x with asrc := 257 }) S1 : State), (1 : Nat), (false : Bool),
    ⟨rfl, rfl⟩, by rfl, by rfl, by decide⟩,
  ⟨(zCmdHdr : CmdHdr), (zPortSel : PortSel), (1 : Byte), (0 : Fin 4), (0 : Fin 12), _, (State.reset : State),
    ⟨rfl, rfl⟩, by rfl, by rfl, by rfl, by rfl, rfl, by decide⟩,
  ⟨(zCmdHdr : CmdHdr), (zPortSel : PortSel), (1 : Byte), (0 : Fin 12), (fencedS (.port 0) : State),
    ⟨rfl, rfl⟩, by rfl, by rfl, by decide, by rfl⟩,
  ⟨(zCmdHdr : CmdHdr), (zPortSel : PortSel), (1 : Byte), (0 : Fin 4), (0 : Fin 12), (portS fun x => { x with state := .running } : State),
    ⟨rfl, rfl⟩, by rfl, by rfl, by rfl, by decide⟩,
  ⟨(zCmdHdr : CmdHdr), (0 : BitVec 64), (zPortSel : PortSel), (0 : Fin 12), (State.reset : State), (1 : Nat), (false : Bool),
    ⟨rfl, rfl⟩, by rfl, by rfl⟩,
  ⟨(zCmdHdr : CmdHdr), ({ zPortSlotsArgs with masks := List.replicate 4 0 } : PortSlotsArgs), (0 : Fin 8), _, (State.reset : State), _, (1 : Nat), (false : Bool),
    ⟨rfl, rfl⟩, by rfl, by rfl, by rfl, by rfl, by rfl, by rfl, rfl, by decide, rfl⟩,
  ⟨(zCmdHdr : CmdHdr), ({ zPortSlotsArgs with masks := List.replicate 4 0, immediate := true } : PortSlotsArgs), (0 : Fin 8), _, (State.reset : State), _,
    ⟨rfl, rfl⟩, by rfl, by rfl, by rfl, by rfl, by rfl, by rfl, rfl, by decide, rfl⟩,
  ⟨(zCmdHdr : CmdHdr), ({ zAesCsSetArgs with port := { aes := true, index := 0 }, block := List.replicate 24 0 } : AesCsSetArgs), (0 : Fin 4), (State.reset : State), (1 : Nat), (false : Bool),
    ⟨rfl, rfl⟩, by rfl, by rfl, by rfl, by rfl⟩,
  ⟨(zCmdHdr : CmdHdr), (zPortSel : PortSel), (0 : Fin 12), (0 : BitVec 64), (State.reset : State),
    ⟨rfl, rfl⟩, by rfl, by rfl, by rfl⟩,
  ⟨(zCmdHdr : CmdHdr), ({ aes := true, index := 0 } : PortSel), (8 : Fin 12), (0 : BitVec 64), (State.reset : State),
    ⟨rfl, rfl⟩, by rfl, by rfl, by rfl⟩⟩

theorem test_meets_PortsStartRunAndStop :
  (∃ (p : Fin 12) (s : State), fenced s (.port p) = false ∧ s.ports.port[p].state = .stopped) ∧
  (∃ (p : Fin 12) (s : State), fenced s (.port p) = true ∧ s.ports.port[p].state = .stopped) ∧
  (∃ (p : Fin 12) (s : State), fenced s (.port p) = true ∧ s.ports.port[p].state ≠ .stopped) ∧
  (∃ (p : Fin 12) (s : State), fenced s (.port p) = false ∧ s.ports.port[p].state ≠ .stopped) ∧
  (∃ (p : Fin 12) (r : Word) (q : Word) (s : State), (s.ports.port[p].state = .starting ∨ s.ports.port[p].state = .fault) ∧
    s.ports.port[p].rateFault = false ∧ (portRole p s.ports.port[p].cfg ≠ 2 ∨ (2 ^ 26 ≤ q.toNat ∧ q.toNat ≤ 2 ^ 30 ∧ (isAes p =
    true → r.toNat ≤ 192000000)))) ∧
  (∃ (p : Fin 12) (s : State), s.ports.port[p].state = .starting ∧ s.ports.port[p].ready = false ∧ dataEarliest s
    s.ports.port[p] + ticksOfUs s 1000000 ≤ now s) ∧
  (∃ (p : Fin 12) (s : State), now s < dataEarliest s s.ports.port[p] + ticksOfUs s 1000000) ∧
  (∃ (p : Fin 8) (g : Nat) (s : State), s.ports.port[serialPort p].state = .starting ∧ s.ports.port[serialPort p].ready = false
    ∧ s.ports.port[serialPort p].group = some g ∧ dataEarliest s s.ports.port[serialPort p] + ticksOfUs s 100000 ≤ now s) ∧
  (∃ (p : Fin 12) (s : State), s.ports.port[p].state = .stopped) ∧
  (∃ (p : Fin 8) (s : State), s.ports.port[serialPort p].state = .running ∧ portRole (serialPort p) s.ports.port[serialPort
    p].cfg = 0) ∧
  (∃ (p : Fin 12) (s : State), s.ports.port[p].state = .stopping ∧ postclkOver s p = true) ∧
  (∃ (p : Fin 12) (s : State), portRole p s.ports.port[p].cfg ≠ 0 ∧ s.ports.port[p].clkPresent = true ∧ s.ports.port[p].state =
    .running) ∧
  (∃ (p : Fin 12) (s : State), portRole p s.ports.port[p].cfg ≠ 0 ∧ s.ports.port[p].clkPresent = true ∧ s.ports.port[p].state =
    .starting) ∧
  (∃ (p : Fin 12) (s : State), s.ports.port[p].state = .running) :=
  ⟨⟨(0 : Fin 12), (State.reset : State),
    by rfl, by rfl⟩,
  ⟨(0 : Fin 12), (fencedS (.port 0) : State),
    by rfl, by rfl⟩,
  ⟨(0 : Fin 12), ({ fencedS (.port 0) with ports := (portS fun x => { x with state := .running }).ports } : State),
    by rfl, by decide⟩,
  ⟨(0 : Fin 12), (portS fun x => { x with state := .running } : State),
    by rfl, by decide⟩,
  ⟨(0 : Fin 12), (0 : Word), (0 : Word), (portS fun x => { x with state := .starting } : State),
    (.inl (by decide +kernel)), by rfl, by decide⟩,
  ⟨(0 : Fin 12), (atTick 100000 (portS fun x => { x with state := .starting }) : State),
    by rfl, by rfl, (by decide +kernel)⟩,
  ⟨(0 : Fin 12), (State.reset : State),
    by decide⟩,
  ⟨(0 : Fin 8), (0 : Nat), (atTick 100000 (portS fun x => { x with state := .starting, group := some 0 }) : State),
    by rfl, by rfl, by rfl, (by decide +kernel)⟩,
  ⟨(0 : Fin 12), (State.reset : State),
    by rfl⟩,
  ⟨(0 : Fin 8), (portS fun x => { x with state := .running } : State),
    by rfl, by rfl⟩,
  ⟨(0 : Fin 12), (portS fun x => { x with state := .stopping } : State),
    by rfl, by rfl⟩,
  ⟨(0 : Fin 12), (portS fun x => { x with state := .running, cfg := 4, clkPresent := true } : State),
    by decide, by rfl, by rfl⟩,
  ⟨(0 : Fin 12), (portS fun x => { x with state := .starting, cfg := 4, clkPresent := true } : State),
    by decide, by rfl, by rfl⟩,
  ⟨(0 : Fin 12), (portS fun x => { x with state := .running } : State),
    by rfl⟩⟩

theorem test_meets_PortFramesAndStatusBlocksReceived :
  (∃ (p : Fin 12) (s : State), s.ports.port[p].state = .stopped) ∧
  (∃ (p : Fin 8) (s : State), s.ports.port[serialPort p].state = .running ∧ portRole (serialPort p) s.ports.port[serialPort
    p].cfg = 0) ∧
  (∃ (p : Fin 12) (f : PortFrameIn) (s : State) (v : State), s.ports.port[p].state = .running ∧ portRole p s.ports.port[p].cfg =
    1 ∧ (v = rateStep p (rateOff s p s.ports.port[p] f.rate.toNat) (portMod p (fun x =>
    { x with clkPresent := true, rate := f.rate, phase := f.phase, rates := (f.rate.toNat :: x.rates).take 8 }) s)) ∧ slipped v
    v.ports.port[p] = true) ∧
  (∃ (p : Fin 8) (s : State), s.ports.port[serialPort p].state = .starting ∧ portRole (serialPort p) s.ports.port[serialPort
    p].cfg = 0 ∧ s.ports.port[serialPort p].ready = true) ∧
  (∃ (p : Fin 12) (s : State), 2 ≤ s.ports.port[p].glitches) ∧
  (∃ (p : Fin 12) (s : State), s.ports.port[p].glitches < 2) ∧
  (∃ (n : Fin 4) (k : Fin 2) (l : List Byte) (s : State), s.ports.port[aesPort n].cs[k].ready = some l ∧ (l.headD 0).getLsbD 0 =
    true ∧ aesCrc l ≠ l.getD 23 0) ∧
  (∃ (n : Fin 4) (k : Fin 2) (l : List Byte) (g : List Byte) (s : State) (t : State), s.ports.port[aesPort n].cs[k].ready = some
    l ∧ (l.headD 0).getLsbD 0 = false ∧ s.ports.port[aesPort n].cs[k].good = some g ∧ (t = portMod (aesPort n) (fun x =>
    { x with cs := vset x.cs k { s.ports.port[aesPort n].cs[k] with ready := none } }) s)) :=
  ⟨⟨(0 : Fin 12), (State.reset : State),
    by rfl⟩,
  ⟨(0 : Fin 8), (portS fun x => { x with state := .running } : State),
    by rfl, by rfl⟩,
  ⟨(0 : Fin 12), ({ zPortFrameIn with rate := 48000000, phase := 1000000 } : PortFrameIn), (portS fun x => { x with state := .running, cfg := 4, dllLock := true } : State), _,
    by rfl, by rfl, rfl, (by decide +kernel)⟩,
  ⟨(0 : Fin 8), (portS fun x => { x with state := .starting, ready := true } : State),
    by rfl, by rfl, by rfl⟩,
  ⟨(0 : Fin 12), (portS fun x => { x with glitches := 2 } : State),
    by rfl⟩,
  ⟨(0 : Fin 12), (State.reset : State),
    by decide⟩,
  ⟨(0 : Fin 4), (0 : Fin 2), ([1] : List Byte), (aesS { AesBlock.reset with ready := some [1] } : State),
    by rfl, by rfl, by decide⟩,
  ⟨(0 : Fin 4), (0 : Fin 2), ([0] : List Byte), ([0] : List Byte), (aesS { AesBlock.reset with ready := some [0], good := some [0] } : State), _,
    by rfl, by rfl, by rfl, rfl⟩⟩

theorem test_meets_PowerStageCommandsTaken :
  (∃ (h : CmdHdr) (tick : BitVec 64) (mask : Byte) (s : State) (n : Nat) (late : Bool), Taken h true s ∧ schedule tick s = some
    (n, late) ∧ mask ≠ 0) ∧
  (∃ (h : CmdHdr) (tick : BitVec 64) (s : State) (n : Nat) (late : Bool), Taken h true s ∧ schedule tick s = some (n, late)) ∧
  (∃ (h : CmdHdr) (tick : BitVec 64) (mask : Byte) (ms : BitVec 16) (s : State) (n : Nat) (late : Bool), Taken h true s ∧
    schedule tick s = some (n, late) ∧ mask ≠ 0 ∧ (ms.toNat ≤ 1000 ∨ ms.toNat = 0xFFFF)) ∧
  (∃ (h : CmdHdr) (a : PsBudgetArgs) (c : Fin 8) (s : State) (n : Nat) (late : Bool), Taken h true s ∧ schedule a.tick s = some
    (n, late) ∧ a.ch.toNat = c.val ∧ a.watts.toNat ≤ 1250 ∧ ((1 ≤ a.attack.toNat ∧ a.attack.toNat ≤ 1000) ∨ a.attack.toNat =
    0xFFFF) ∧ ((10 ≤ a.release.toNat ∧ a.release.toNat ≤ 10000) ∨ a.release.toNat = 0xFFFF)) ∧
  (∃ (h : CmdHdr) (a : PsFreqArgs) (s : State) (n : Nat) (late : Bool), Taken h true s ∧ schedule a.tick s = some (n, late) ∧
    a.min.toNat ≤ a.pref.toNat ∧ a.pref.toNat ≤ a.max.toNat ∧ a.max.toNat ≤ 80) ∧
  (∃ (h : CmdHdr) (a : PsModelArgs) (c : Fin 8) (s : State), Taken h false s ∧ a.ch.toNat = c.val ∧ a.tile.toNat = 0xFF ∧
    a.lookahead = 0 ∧ a.waddr = 0) ∧
  (∃ (h : CmdHdr) (a : PsModelArgs) (c : Fin 8) (n : Fin 16) (s : State), Taken h false s ∧ a.ch.toNat = c.val ∧ a.tile.toNat =
    n.val ∧ a.lookahead = 0 ∧ a.waddr.toNat % 8 = 0 ∧ fenced s (.tile n) = false ∧ (∀ i, i < 8 → s.tiles[n].isParam
    (a.waddr.toNat + i) = true ∧ s.tiles[n].rampBound (spt s) none (a.waddr.toNat + i) = false ∧ limitBound
    { s with limits := vset s.limits c none } n (a.waddr.toNat + i) = false)) ∧
  (∃ (h : CmdHdr) (a : PsModelArgs) (n : Fin 16) (s : State), Taken h false s ∧ a.ch.toNat < 8 ∧ a.tile.toNat = n.val ∧
    a.lookahead = 0 ∧ a.waddr.toNat % 8 = 0 ∧ fenced s (.tile n) = true) ∧
  (∃ (h : CmdHdr) (ch : Byte) (c : Fin 8) (addr : BitVec 64) (s : State), Taken h false s ∧ ch.toNat = c.val ∧ aligned8 addr =
    true) :=
  ⟨⟨(zCmdHdr : CmdHdr), (0 : BitVec 64), (1 : Byte), (State.reset : State), (1 : Nat), (false : Bool),
    ⟨rfl, rfl⟩, by rfl, by decide⟩,
  ⟨(zCmdHdr : CmdHdr), (0 : BitVec 64), (State.reset : State), (1 : Nat), (false : Bool),
    ⟨rfl, rfl⟩, by rfl⟩,
  ⟨(zCmdHdr : CmdHdr), (0 : BitVec 64), (1 : Byte), (0 : BitVec 16), (State.reset : State), (1 : Nat), (false : Bool),
    ⟨rfl, rfl⟩, by rfl, by decide, by decide⟩,
  ⟨(zCmdHdr : CmdHdr), ({ zPsBudgetArgs with attack := 1, release := 10 } : PsBudgetArgs), (0 : Fin 8), (State.reset : State), (1 : Nat), (false : Bool),
    ⟨rfl, rfl⟩, by rfl, by rfl, by decide, (.inl (by decide)), (.inl (by decide))⟩,
  ⟨(zCmdHdr : CmdHdr), (zPsFreqArgs : PsFreqArgs), (State.reset : State), (1 : Nat), (false : Bool),
    ⟨rfl, rfl⟩, by rfl, by rfl, by rfl, by decide⟩,
  ⟨(zCmdHdr : CmdHdr), ({ zPsModelArgs with tile := 0xFF } : PsModelArgs), (0 : Fin 8), (State.reset : State),
    ⟨rfl, rfl⟩, by rfl, by rfl, by rfl, by rfl⟩,
  ⟨(zCmdHdr : CmdHdr), (zPsModelArgs : PsModelArgs), (0 : Fin 8), (0 : Fin 16), (paged 0 : State),
    ⟨rfl, rfl⟩, by rfl, by rfl, by rfl, by rfl, by rfl, (by decide +kernel)⟩,
  ⟨(zCmdHdr : CmdHdr), (zPsModelArgs : PsModelArgs), (0 : Fin 16), (fencedS (.tile 0) : State),
    ⟨rfl, rfl⟩, by decide, by rfl, by rfl, by rfl, by rfl⟩,
  ⟨(zCmdHdr : CmdHdr), (0 : Byte), (0 : Fin 8), (0 : BitVec 64), (State.reset : State),
    ⟨rfl, rfl⟩, by rfl, by rfl⟩⟩

theorem test_meets_ChannelsStartPlayAndStop :
  (∃ (c : Fin 8) (m : Nat) (s : State), maskUnits 8 m = [c] ∧ startOne s c = none) ∧
  (∃ (c : Fin 8) (s : State), s.ps.ch[c].state = .starting ∧ mayHavePassed s s.ps.ch[c].startAt (20 * psMs) = true) ∧
  (∃ (c : Fin 8) (s : State), s.ps.ch[c].state = .fault ∧ startAwaited s c = true ∧ mayHavePassed s s.ps.ch[c].startAt (20 *
    psMs) = true) ∧
  (∃ (c : Fin 8) (s : State), (s.ps.ch[c].state = .stopped ∨ s.ps.ch[c].state = .latched)) ∧
  (∃ (c : Fin 8) (s : State), s.ps.ch[c].state = .running) ∧
  (∃ (c : Fin 8) (s : State), s.ps.ch[c].state = .starting) ∧
  (∃ (c : Fin 8) (s : State), s.ps.ch[c].state = .fault) ∧
  (∃ (pref : Nat) (lo : Nat) (hi : Nat) (k : Nat) (s : State), lo ≤ pref ∧ pref ≤ hi ∧ hi ≤ 80 ∧ lo ≤ k ∧ k ≤ hi ∧ 20 ≤ margin s
    k ∧ (∀ j, lo ≤ j → j ≤ hi → 20 ≤ margin s j → ((k : Int) - pref).natAbs < ((j : Int) - pref).natAbs ∨ (((k : Int) -
    pref).natAbs = ((j : Int) - pref).natAbs ∧ k ≤ j))) ∧
  (∃ (g : Fin 2) (s : State), ((groupChs g).all (fun c => s.ps.ch[c].off) = true) ∧ mayHavePassed s s.ps.group[g].onAt (50 *
    psMs) = true) ∧
  (∃ (g : Fin 2) (s : State), directFed s g = false ∧ mayHavePassed s s.ps.group[g].directAt (50 * psMs) = true) ∧
  (∃ (g : Fin 2) (s : State), mayHavePassed s s.ps.group[g].onAt (50 * psMs) = false) ∧
  (∃ (g : Fin 2) (s : State), mayHavePassed s s.ps.group[g].directAt (50 * psMs) = false) ∧
  (∃ (c : Fin 8) (s : State), mayHavePassed s s.ps.ch[c].startAt (20 * psMs) = false) ∧
  (∃ (s : State), s.clock.plls[(4 : Fin 6)].locked = false ∧ timeRuns s = true) ∧
  (∃ (c : Fin 8) (s : State), s.ps.ch[c].playing = false) ∧
  (∃ (rail : Nat), 0 < rail) :=
  ⟨⟨(0 : Fin 8), (1 : Nat), (psMod (fun p => { p with sustained := 1 }) S1 : State),
    by rfl, by rfl⟩,
  ⟨(0 : Fin 8), (later (chS fun x => { x with state := .starting }) : State),
    (by decide +kernel), (by decide +kernel)⟩,
  ⟨(0 : Fin 8), (later stoodBy : State),
    (by decide +kernel), (by decide +kernel), (by decide +kernel)⟩,
  ⟨(0 : Fin 8), (State.reset : State),
    (.inl (by decide +kernel))⟩,
  ⟨(0 : Fin 8), (chS fun x => { x with state := .running } : State),
    by rfl⟩,
  ⟨(0 : Fin 8), (chS fun x => { x with state := .starting } : State),
    by rfl⟩,
  ⟨(0 : Fin 8), (stoodBy : State),
    by rfl⟩,
  ⟨(0 : Nat), (0 : Nat), (0 : Nat), (0 : Nat), (State.reset : State),
    by rfl, by rfl, by decide, by rfl, by rfl, by decide, (fun j _ h _ => .inr ⟨by rw [Nat.le_zero.1 h], Nat.zero_le _⟩)⟩,
  ⟨(0 : Fin 2), (later S1 : State),
    by rfl, (by decide +kernel)⟩,
  ⟨(0 : Fin 2), (later S1 : State),
    by rfl, (by decide +kernel)⟩,
  ⟨(0 : Fin 2), (State.reset : State),
    (by decide +kernel)⟩,
  ⟨(0 : Fin 2), (State.reset : State),
    (by decide +kernel)⟩,
  ⟨(0 : Fin 8), (State.reset : State),
    (by decide +kernel)⟩,
  ⟨({ S1 with clock := { (runS S1).clock with plls := vset (runS S1).clock.plls 4 (S1.clock.plls[(4 : Fin 6)]) } } : State),
    by rfl, by rfl⟩,
  ⟨(0 : Fin 8), (State.reset : State),
    by rfl⟩,
  ⟨(1 : Nat),
    by decide⟩⟩

theorem test_meets_PowerSharedByBudget :
  (∃ (s : State) (sh : List (Fin 8)), (sh = (fins 8).filter (fun c => decide (s.ps.ch[c].state = .running) || decide
    (s.ps.ch[c].state = .ramping)))) ∧
  (∃ (total : Nat) (l : List (Nat × Nat)), (l.foldl (fun a c => a + min c.1 c.2) 0 ≤ total)) ∧
  (∃ (a : Nat) (m : Nat), 0 < a ∧ m ≤ a) ∧
  (∃ (c : Fin 8) (g : Int) (b : Int) (s : State), s.ps.ch[c].aimed = none ∧ s.ps.ch[c].budget.n = 0 ∧ s.ps.ch[c].budget.aim =
    some b ∧ 655360 < 100 * (b - 256 * g).natAbs) ∧
  (∃ (c : Fin 8) (d : PsDemod) (e : BitVec 16) (i : Nat) (re : Nat) (weak : Nat) (tvc : Int) (s : State) (s1 : State) (s2 :
    State), d = s.ps.ch[c].demod ∧ re = (d.ohms e).toNat ∧ tvc = coilTemp s c re ∧ (weak = (if d.weakAt (pilotMv s c) i then
    s.ps.ch[c].weak + 1 else 0)) ∧ (s1 = chMod c (fun x =>
    { x with re := re, tvc := tvc, weak := weak, openLoad := decide (3 ≤ weak), vcTemp := decide (regFld s (Reg.psChTherm c) 15 0 ≠ 0) && decide (10 * (regFld s (Reg.psChLim c) 31 24 : Int) ≤ tvc), demod := PsDemod.reset })
    s) ∧ (s2 = (if regFld s (Reg.psChTherm c) 15 0 ≠ 0 ∧ 10 * (regFld s (Reg.psChLim c) 31 24 : Int) ≤ tvc then raise
    Src.psVcTemp c 0 (sticky Reg.psErrStat 6 s1) else s1)) ∧ pilotOf s c ≠ 0 ∧ s.ps.ch[c].playing = true ∧ d.n ≠ 0) ∧
  (∃ (d : PsDemod) (r : Nat), d.ratio = some r) ∧
  (∃ (c : Fin 8) (s : State), (pilotOf s c = 0 ∨ s.ps.ch[c].playing = false ∨ s.ps.ch[c].demod.n = 0)) ∧
  (∃ (c : Fin 8) (s : State), regFld s (Reg.psChTherm c) 15 0 ≠ 0) ∧
  (∃ (c : Fin 8) (s : State), regFld s (Reg.psChTherm c) 15 0 = 0) :=
  ⟨⟨(State.reset : State), _,
    rfl⟩,
  ⟨(0 : Nat), ([] : List (Nat × Nat)),
    by rfl⟩,
  ⟨(1 : Nat), (0 : Nat),
    by decide, by decide⟩,
  ⟨(0 : Fin 8), (0 : Int), (10000 : Int), (chS fun x => { x with budget := Lev.steady (some 10000) } : State),
    by rfl, by rfl, by rfl, by decide⟩,
  ⟨(0 : Fin 8), _, (7200 : BitVec 16), (50000 : Nat), _, _, _, (regSet (Reg.psChTherm 0) 0x001915E0 (regSet (Reg.psChCfg 0) 0x100 (chS fun x => { x with state := .running, demod := { vRe := 18, vIm := 0, iRe := 10, iIm := 0, n := 1 } })) : State), _, _,
    rfl, rfl, rfl, rfl, rfl, rfl, (by decide +kernel), by rfl, (by decide +kernel)⟩,
  ⟨({ vRe := 18, vIm := 0, iRe := 10, iIm := 0, n := 1 } : PsDemod), (7200 : Nat),
    (by decide +kernel)⟩,
  ⟨(0 : Fin 8), (regSet (Reg.psChCfg 0) 0x100 (chS fun x => { x with state := .running, weak := 2 }) : State),
    by decide⟩,
  ⟨(0 : Fin 8), (regSet (Reg.psChTherm 0) 0x001915E0 (regSet (Reg.psChCfg 0) 0x100 (chS fun x => { x with state := .running, demod := { vRe := 18, vIm := 0, iRe := 10, iIm := 0, n := 1 } })) : State),
    (by decide +kernel)⟩,
  ⟨(0 : Fin 8), (regSet (Reg.psChCfg 0) 0x100 (chS fun x => { x with state := .running, weak := 2 }) : State),
    by rfl⟩⟩

theorem test_meets_PowerStageProtected :
  (∃ (c : Fin 8) (s : State), s.ps.ch[c].playing = true) ∧
  (∃ (c : Fin 8) (s : State), s.ps.ch[c].playing = true) ∧
  (∃ (c : Fin 8) (s : State), s.ps.ch[c].playing = true) ∧
  (∃ (c : Fin 8) (s : State), s.ps.ch[c].off = false) ∧
  (∃ (c : Fin 8) (s : State), s.ps.ch[c].off = true) ∧
  (∃ (c : Fin 8) (code : Nat) (src : Nat) (bit : Nat) (s : State) (u : State), (u = raise src c code (sticky Reg.psErrStat bit
    (chMod c (fun x =>
    { x with state := .fault, fault := code, faultTick := now s, hw := none, retry := false, retryDue := false, retryWait := false, pause := .none, start := x.start.freeze })
    s)))) ∧
  (∃ (c : Fin 8) (s : State), s.ps.ch[c].state = .fault ∧ s.ps.ch[c].pause = .none ∧ s.ps.ch[c].fault = 4 ∧ (sumpInst s Src.psDc
    c).state ≠ .active) ∧
  (∃ (c : Fin 8) (s : State), s.ps.ch[c].state = .fault ∧ s.ps.ch[c].pause = .none ∧ s.ps.ch[c].fault = 5 ∧ (sumpInst s
    Src.psDieTemp c).state ≠ .active ∧ s.ps.ch[c].hot = true) ∧
  (∃ (p : PsPause) (c : Fin 8) (s : State), s.ps.ch[c].state = .fault ∧ s.ps.ch[c].pause = p) ∧
  (∃ (g : Fin 2) (s : State) (s1 : State), s.ps.group[g].on = true ∧ (s1 = raise Src.psRailSag g 0 (sticky Reg.psErrStat 4
    (groupMod g (fun x => { x with sag := x.sag + 1 }) s)))) :=
  ⟨⟨(0 : Fin 8), (chS fun x => { x with state := .running } : State),
    by rfl⟩,
  ⟨(0 : Fin 8), (chS fun x => { x with state := .running } : State),
    by rfl⟩,
  ⟨(0 : Fin 8), (chS fun x => { x with state := .running } : State),
    by rfl⟩,
  ⟨(0 : Fin 8), (chS fun x => { x with state := .running } : State),
    by rfl⟩,
  ⟨(0 : Fin 8), (State.reset : State),
    by rfl⟩,
  ⟨(0 : Fin 8), (0 : Nat), (0 : Nat), (0 : Nat), (State.reset : State), _,
    rfl⟩,
  ⟨(0 : Fin 8), (chS fun x => { x with state := .fault, fault := 4 } : State),
    by rfl, by rfl, by rfl, by decide⟩,
  ⟨(0 : Fin 8), (chS fun x => { x with state := .fault, fault := 5, hot := true } : State),
    by rfl, by rfl, by rfl, by decide, by rfl⟩,
  ⟨(.none : PsPause), (0 : Fin 8), (chS fun x => { x with state := .fault } : State),
    by rfl, by rfl⟩,
  ⟨(0 : Fin 2), (groupMod 0 (fun x => { x with on := true }) S1 : State), _,
    by rfl, rfl⟩⟩

theorem test_meets_RingsOwnedPolledAndStopped :
  (∃ (path : AccessPath) (l : List HostStore) (s : State) (t : State), path ≠ .mb0 ∧ regsOpen s = true ∧ (t = l.foldl (fun u x
    => if x.bar2 then bar2Store x.addr.toNat x.bytes u else { u with localMem := memWrite u.localMem x.addr.toNat x.bytes }) s)) ∧
  (∃ (v : Word) (s : State), hifMode (regSetFld Reg.hifCtrl 1 0 (fld v 1 0) s) = hifMode s) ∧
  (∃ (v : Word) (s : State), hifMode s = 0 ∧ hifMode (regSetFld Reg.hifCtrl 1 0 (fld v 1 0) s) = 1) ∧
  (∃ (s : State), hifMode s ≠ 0 ∧ s.hif.ringsStopped = false) ∧
  (∃ (l : List HostStore) (s : State) (t : State), t = pollOnce (hostStores l s)) ∧
  (∃ (s : State), s.hif.polling = true ∧ s.power.state = .running ∧ hifMode s ≠ 2 ∧ (hifMode s ≠ 1 ∨ s.pcie.perst = false)) ∧
  (∃ (s : State), s.hif.polling = true ∧ s.power.state = .running ∧ hifMode s = 2) ∧
  (∃ (s : State), s.hif.again = true ∧ roundRuns s = false) ∧
  (∃ (s : State), s.hif.polling = true ∧ s.power.state = .running ∧ hifMode s = 1 ∧ s.pcie.perst = true) ∧
  (∃ (s : State), visitRings s = (false, s)) ∧
  (∃ (s : State), (visitRings s).1 = true) ∧
  (∃ (r : Fin 8) (s : State), (s.hif.rings[r].log2 = 0 ∨ s.hif.rings[r].head = s.hif.rings[r].tail ∨ bitOf (desc (hostRead s
    (s.hif.rings[r].base.toNat + 64 * s.hif.rings[r].head) 64) 2 1) 0 = false)) ∧
  (∃ (l : List HostStore) (s : State) (t : State), t = hostStores l s ∧ t.pcie.perst = false ∧ t.power.state ≠ .sleep) ∧
  (∃ (l : List HostStore) (s : State) (t : State), t = hostStores l s ∧ t.pcie.perst = false ∧ t.power.state = .sleep) ∧
  (∃ (n : Fin 16) (c : Cell) (s : State), Delivered n c s ∧ fromOwner s c (bodyN c 0x14 1) = true) :=
  ⟨⟨(.bar0 : AccessPath), ([] : List HostStore), (RS : State), _,
    by decide, by rfl, rfl⟩,
  ⟨(0 : Word), (State.reset : State),
    by rfl⟩,
  ⟨(1 : Word), (State.reset : State),
    by rfl, by rfl⟩,
  ⟨(modeS 1 S1 : State),
    by decide, by rfl⟩,
  ⟨([] : List HostStore), (State.reset : State), _,
    rfl⟩,
  ⟨(hifS (fun h => { h with polling := true }) (modeS 0 S1) : State),
    by rfl, by rfl, by decide, by decide⟩,
  ⟨(hifS (fun h => { h with polling := true }) (modeS 2 S1) : State),
    by rfl, by rfl, by rfl⟩,
  ⟨(hifS (fun h => { h with again := true }) S1 : State),
    by rfl, by rfl⟩,
  ⟨({ hifS (fun h => { h with polling := true }) (modeS 1 S1) with pcie := { S1.pcie with perst := true } } : State),
    by rfl, by rfl, by rfl, by rfl⟩,
  ⟨(State.reset : State),
    by rfl⟩,
  ⟨(ring1 : State),
    by rfl⟩,
  ⟨(0 : Fin 8), (State.reset : State),
    (.inl (by decide +kernel))⟩,
  ⟨([] : List HostStore), ({ State.reset with pcie := { S1.pcie with perst := false } } : State), _,
    rfl, by rfl, by decide⟩,
  ⟨([] : List HostStore), ({ State.reset with pcie := { S1.pcie with perst := false }, power := { S1.power with state := .sleep } } : State), _,
    rfl, by rfl, by rfl⟩,
  ⟨(0 : Fin 16), (zCell : Cell), (hifS (fun h => { h with owner := some zOwner }) attS : State),
    ⟨by decide, by decide⟩, by rfl⟩⟩

theorem test_meets_DmaDescriptorsBegunEndedAndHalted :
  (∃ (h : CmdHdr) (a : DmaCtrlArgs) (s : State) (n : Nat) (late : Bool), Taken h true s ∧ schedule a.tick s = some (n, late) ∧
    a.chMask ≠ 0 ∧ 1 ≤ a.action.toNat ∧ a.action.toNat ≤ 4) ∧
  (∃ (a : DmaCtrlArgs) (d : Fin 32) (s : State), d ∈ maskUnits 32 a.chMask.toNat ∧ dmaAllows a.action.toNat s.dma[d].state =
    false) ∧
  (∃ (a : DmaCtrlArgs) (d : Fin 32) (s : State), maskUnits 32 a.chMask.toNat = [d] ∧ a.action = 1 ∧ s.dma[d].state = .stopped) ∧
  (∃ (d : Fin 32) (l : List HostStore) (x : DmaCur) (s : State) (t : State), t = hostStores l s ∧ t.dma[d].mode ≠ 4 ∧ dmaNext d
    t = some x ∧ x.desc.badArg = false) ∧
  (∃ (d : Fin 32) (l : List HostStore) (x : DmaCur) (s : State) (t : State), t = hostStores l s ∧ t.dma[d].mode ≠ 4 ∧ dmaNext d
    t = some x ∧ x.desc.badArg = true) ∧
  (∃ (d : Fin 32) (x : DmaCur) (s : State), dmaNext d s = some x) ∧
  (∃ (d : Fin 32) (x : DmaCur) (y : DmaCur) (k : Nat) (s : State) (u : State), s.dma[d].cur = some x ∧ s.dma[d].mode = 1 ∧
    copyWaits d x s = false ∧ dmaMove d x.desc (dmaLeft x) s = (k, none, u) ∧ y = { x with done := x.done + k }) ∧
  (∃ (d : Fin 32) (x : DmaCur) (k : Nat) (r : Resp) (a : Nat) (s : State) (u : State), s.dma[d].cur = some x ∧ s.dma[d].mode = 1
    ∧ copyWaits d x s = false ∧ dmaMove d x.desc (dmaLeft x) s = (k, some (r, a), u)) ∧
  (∃ (d : Fin 32) (x : DmaCur) (s : State), s.dma[d].cur = some x ∧ s.dma[d].mode = 1 ∧ copyWaits d x s = true) ∧
  (∃ (d : Fin 32) (x : DmaCur) (s : State), s.dma[d].cur = some x ∧ s.dma[d].mode = 4) ∧
  (∃ (s : State), dmaHalted s = false) ∧
  (∃ (s : State), dmaHalted s = true) :=
  ⟨⟨(zCmdHdr : CmdHdr), ({ zDmaCtrlArgs with chMask := 1, action := 1 } : DmaCtrlArgs), (State.reset : State), (1 : Nat), (false : Bool),
    ⟨rfl, rfl⟩, by rfl, by decide, by rfl, by decide⟩,
  ⟨({ zDmaCtrlArgs with chMask := 1, action := 2 } : DmaCtrlArgs), (0 : Fin 32), (State.reset : State),
    by decide, by rfl⟩,
  ⟨({ zDmaCtrlArgs with chMask := 1, action := 1 } : DmaCtrlArgs), (0 : Fin 32), (State.reset : State),
    by rfl, by rfl, by rfl⟩,
  ⟨(0 : Fin 32), ([] : List HostStore), _, (dmaS id ([1, 0, 0, 0, 1, 0, 0, 0]) : State), _,
    rfl, by decide, rfl, by rfl⟩,
  ⟨(0 : Fin 32), ([] : List HostStore), _, (dmaS id ([1]) : State), _,
    rfl, by decide, rfl, by rfl⟩,
  ⟨(0 : Fin 32), _, (dmaS id ([1, 0, 0, 0, 1, 0, 0, 0]) : State),
    rfl⟩,
  ⟨(0 : Fin 32), (cur2 : DmaCur), _, ((dmaMove 0 cur2.desc (dmaLeft cur2) copyS).1 : Nat), (copyS : State), ((dmaMove 0 cur2.desc (dmaLeft cur2) copyS).2.2 : State),
    by rfl, by rfl, by rfl, (Prod.ext rfl (Prod.ext (by decide +kernel) rfl)), rfl⟩,
  ⟨(0 : Fin 32), (cur1 : DmaCur), _, _, _, (dmaS (fun c => { c with cur := some cur1, mode := 1 }) [] : State), _,
    by rfl, by rfl, by rfl, rfl⟩,
  ⟨(0 : Fin 32), (cur3 : DmaCur), ({ modeS 2 (dmaS (fun c => { c with cur := some cur3 }) []) with tun := { S1.tun with unacked := [{ zTunReq with kind := .read 0 1, use := .dma 0 }] } } : State),
    by rfl, by rfl, (by decide +kernel)⟩,
  ⟨(0 : Fin 32), (cur1 : DmaCur), (dmaS (fun c => { c with cur := some cur1, mode := 4 }) [] : State),
    by rfl, by rfl⟩,
  ⟨(State.reset : State),
    by rfl⟩,
  ⟨(dmaMod 0 (fun c => { c with state := .halted }) S1 : State),
    by rfl⟩⟩

theorem test_meets_TunnelTargetServesItsOwner :
  (∃ (n : Fin 16) (c : Cell) (s : State), pathCellHere s n c = true ∧ c.hop.toNat < c.hops.toNat) ∧
  (∃ (n : Fin 16) (c : Cell) (s : State) (o : Owner), pathCellHere s n c = true ∧ c.hops.toNat ≤ c.hop.toNat ∧ o =
    { id := c.src, gen := BitVec.ofNat 8 (bodyN c 0x14 1), eui := BitVec.ofNat 64 (bodyN c 0x18 8), hca := BitVec.ofNat 64 (bodyN c 0x20 8), retLinks := BitVec.ofNat 64 (setRet (bodyN c 0x28 8) (c.hop.toNat - 1) n), hops := c.hops.toNat, link := n }) ∧
  (∃ (o : Owner) (s : State), (hifMode s ≠ 2 ∨ claimAllowed s o.eui.toNat = false)) ∧
  (∃ (o : Owner) (s : State), hifMode s = 2 ∧ claimAllowed s o.eui.toNat = true ∧ ownerOf s = none) ∧
  (∃ (o : Owner) (p : Owner) (s : State), hifMode s = 2 ∧ claimAllowed s o.eui.toNat = true ∧ ownerOf s = some p ∧ newer8 p.gen
    o.gen = true) ∧
  (∃ (s : State), s.hif.owner = none) ∧
  (∃ (n : Fin 16) (c : Cell) (s : State) (r : TunReq) (l : List TunReq), Delivered n c s ∧ fromOwner s c (bodyN c 0x16 1) = true
    ∧ bodyN c 0x17 1 = 0 ∧ s.tun.unacked = r :: l ∧ 1 ≤ (BitVec.ofNat 16 (bodyN c 0x14 2) - r.xid).toNat ∧ (BitVec.ofNat 16
    (bodyN c 0x14 2) - r.xid).toNat ≤ s.tun.unacked.length) ∧
  (∃ (n : Fin 16) (c : Cell) (s : State), Delivered n c s ∧ fromOwner s c (bodyN c 0x16 1) = true ∧ bodyN c 0x17 1 = 0 ∧
    s.tun.unacked = []) ∧
  (∃ (n : Fin 16) (c : Cell) (s : State) (r : TunReq) (a : BitVec 64) (len : Nat) (k : Nat), Delivered n c s ∧ fromOwner s c
    (bodyN c 0x19 1) = true ∧ (s.tun.unacked.find? (fun q => decide (q.xid.toNat = bodyN c 0x14 2)) = some r) ∧ r.kind = .read a
    len ∧ r.use = .fetch ∧ r.got < len ∧ bodyN c 0x16 2 = r.got ∧ bodyN c 0x1A 1 = 0 ∧ k = min (bodyN c 0x18 1) (len - r.got) ∧
    k ≤ (c.body.drop 8).length ∧ r.got + k < len) ∧
  (∃ (n : Fin 16) (c : Cell) (s : State) (r : TunReq) (a : BitVec 64) (len : Nat) (k : Nat), Delivered n c s ∧ fromOwner s c
    (bodyN c 0x19 1) = true ∧ (s.tun.unacked.find? (fun q => decide (q.xid.toNat = bodyN c 0x14 2)) = some r) ∧ r.kind = .read a
    len ∧ r.use = .fetch ∧ r.got < len ∧ bodyN c 0x16 2 = r.got ∧ bodyN c 0x1A 1 = 0 ∧ k = min (bodyN c 0x18 1) (len - r.got) ∧
    k ≤ (c.body.drop 8).length ∧ len ≤ r.got + k) ∧
  (∃ (r : TunReq) (l : List TunReq) (s : State), s.hif.owner.isSome = true ∧ s.tun.unacked = r :: l ∧ r.sent + max 1 (regFld s
    Reg.hifTunCfg 23 16) ≤ now s) ∧
  (∃ (r : TunReq) (l : List TunReq) (s : State), s.tun.unacked = r :: l ∧ now s < r.sent + max 1 (regFld s Reg.hifTunCfg 23 16)) ∧
  (∃ (s : State), s.tun.unacked = []) ∧
  (∃ (r : TunReq) (l : List TunReq) (s : State), s.hif.owner.isSome = true ∧ s.tun.unacked = r :: l ∧ s.hif.tunnelLost = false ∧
    s.tun.lastAck + lostTicks s ≤ now s) ∧
  (∃ (s : State), now s < s.tun.lastAck + lostTicks s) ∧
  (∃ (n : Fin 16) (c : Cell) (s : State) (o : Owner) (r : List Word × State), Delivered n c s ∧ s.hif.owner = some o ∧ fromOwner
    s c (bodyN c 0x14 1) = true ∧ regSpanOk (bodyN c 0x16 1) (bodyN c 0x18 4) = true ∧ (r = tunRegAccess (bitOf (bodyN c 0x15 1)
    0) (bodyN c 0x18 4) ((List.range 8).map fun i => BitVec.ofNat 32 (bodyN c (0x1C + 4 * i) 4)) (bodyN c 0x16 1) s)) :=
  ⟨⟨(0 : Fin 16), ({ srcCell 0x57 [] with hops := 1 } : Cell), (attS : State),
    by rfl, by decide⟩,
  ⟨(0 : Fin 16), (srcCell 0x57 [] : Cell), (attS : State), _,
    by rfl, by rfl, rfl⟩,
  ⟨(zOwner : Owner), (State.reset : State),
    (.inl (by decide +kernel))⟩,
  ⟨(zOwner : Owner), (modeS 2 S1 : State),
    by rfl, by rfl, by rfl⟩,
  ⟨(zOwner : Owner), ({ zOwner with gen := 1 } : Owner), (hifS (fun h => { h with owner := some { zOwner with gen := 1 } }) (modeS 2 S1) : State),
    by rfl, by rfl, by rfl, by rfl⟩,
  ⟨(State.reset : State),
    by rfl⟩,
  ⟨(0 : Fin 16), (cell0 0x54 [1] : Cell), (ownS [zTunReq] : State), (zTunReq : TunReq), ([] : List TunReq),
    ⟨by decide, by decide⟩, by rfl, by rfl, by rfl, by rfl, by rfl⟩,
  ⟨(0 : Fin 16), (cell0 0x54 [1] : Cell), (ownS [] : State),
    ⟨by decide, by decide⟩, by rfl, by rfl, by rfl⟩,
  ⟨(0 : Fin 16), (cell0 0x55 [0, 0, 0, 0, 1] : Cell), (ownS [{ zTunReq with kind := .read 0 2, use := .fetch }] : State), ({ zTunReq with kind := .read 0 2, use := .fetch } : TunReq), (0 : BitVec 64), (2 : Nat), _,
    ⟨by decide, by decide⟩, by rfl, by rfl, by rfl, by rfl, by decide, by rfl, by rfl, rfl, by decide, by decide⟩,
  ⟨(0 : Fin 16), (cell0 0x55 [0, 0, 0, 0, 1] : Cell), (ownS [{ zTunReq with kind := .read 0 1, use := .fetch }] : State), ({ zTunReq with kind := .read 0 1, use := .fetch } : TunReq), (0 : BitVec 64), (1 : Nat), _,
    ⟨by decide, by decide⟩, by rfl, by rfl, by rfl, by rfl, by decide, by rfl, by rfl, rfl, by decide, by rfl⟩,
  ⟨(zTunReq : TunReq), ([] : List TunReq), (atTick 256 (ownS [zTunReq]) : State),
    by rfl, by rfl, (by decide +kernel)⟩,
  ⟨(zTunReq : TunReq), ([] : List TunReq), (ownS [zTunReq] : State),
    by rfl, (by decide +kernel)⟩,
  ⟨(State.reset : State),
    by rfl⟩,
  ⟨(zTunReq : TunReq), ([] : List TunReq), (atTick 2400 (ownS [zTunReq]) : State),
    by rfl, by rfl, by rfl, (by decide +kernel)⟩,
  ⟨(State.reset : State),
    by decide⟩,
  ⟨(0 : Fin 16), (cell0 0x58 [0, 0, 1] : Cell), (ownS [] : State), (zOwner : Owner), _,
    ⟨by decide, by decide⟩, by rfl, by rfl, by rfl, rfl⟩⟩

theorem test_meets_TunnelServerBridgesItsTargets :
  (∃ (h : CmdHdr) (a : TunnelClaimArgs) (s : State), Taken h false s ∧ claimBad a = false ∧ bridgeOf (takenState h s) a.target =
    none ∧ s.tun.bridges.length < 1024) ∧
  (∃ (h : CmdHdr) (a : TunnelClaimArgs) (s : State), Taken h false s ∧ claimBad a = false ∧ bridgeOf (takenState h s) a.target =
    none ∧ 1024 ≤ s.tun.bridges.length) ∧
  (∃ (n : Fin 16) (c : Cell) (b : Bridge) (t : Ticket) (s : State), Delivered n c s ∧ bridgeOf s c.src = some b ∧ b.claim = some
    t ∧ bodyN c 0x14 1 = b.gen.toNat) ∧
  (∃ (n : BitVec 12) (b : Bridge) (t : Ticket) (s : State), bridgeOf s n = some b ∧ b.claim = some t ∧ b.claimAt + 16 ≤ now s) ∧
  (∃ (n : BitVec 12) (s : State), (∀ b, bridgeOf s n = some b → b.claim = none ∨ now s < b.claimAt + 16)) ∧
  (∃ (n : Fin 16) (c : Cell) (b : Bridge) (s : State), Delivered n c s ∧ bridgeOf s c.src = some b ∧ bodyN c 0x1E 2 =
    b.xidNext.toNat ∧ bodyN c 0x1D 1 = b.gen.toNat ∧ inWindowOf b (bodyN c 0x14 8) ((c.body.drop 12).take (min 28 (bodyN c 0x1C
    1))).length = true) ∧
  (∃ (n : Fin 16) (c : Cell) (b : Bridge) (s : State), Delivered n c s ∧ bridgeOf s c.src = some b ∧ (bodyN c 0x1E 2 ≠
    b.xidNext.toNat ∨ bodyN c 0x1D 1 ≠ b.gen.toNat)) ∧
  (∃ (n : Fin 16) (c : Cell) (b : Bridge) (s : State), Delivered n c s ∧ bridgeOf s c.src = some b ∧ bodyN c 0x1E 2 =
    b.xidNext.toNat ∧ bodyN c 0x20 1 = b.gen.toNat ∧ inWindowOf b (bodyN c 0x14 8) (min 4096 (bodyN c 0x1C 2)) = true) ∧
  (∃ (n : Fin 16) (c : Cell) (b : Bridge) (s : State), Delivered n c s ∧ bridgeOf s c.src = some b ∧ bodyN c 0x16 2 =
    b.xidNext.toNat ∧ bodyN c 0x15 1 = b.gen.toNat) ∧
  (∃ (n : Fin 16) (c : Cell) (b : Bridge) (s : State), Delivered n c s ∧ bridgeOf s c.src = some b ∧ b.claim = none) ∧
  (∃ (h : CmdHdr) (n : BitVec 12) (b : Bridge) (s : State), Taken h false s ∧ bridgeOf (takenState h s) n = some b ∧ b.claim =
    none) ∧
  (∃ (h : CmdHdr) (n : BitVec 12) (s : State), Taken h false s ∧ bridgeOf (takenState h s) n = none) ∧
  (∃ (h : CmdHdr) (a : TunnelRegArgs) (b : Bridge) (w : TunRegWait) (s : State), Taken h false s ∧ regSpanOk a.count.toNat
    a.offset.toNat = true ∧ bridgeOf (takenState h s) a.target = some b ∧ (a.write = true ∨ dmaHalted (takenState h s) = false)
    ∧ w =
    { ticket := (ticketOf h s), target := a.target, rseq := s.tun.rseq, write := a.write, count := a.count.toNat, resultAddr := a.resultAddr, sent := now s }) ∧
  (∃ (n : Fin 16) (c : Cell) (b : Bridge) (w : TunRegWait) (s : State), Delivered n c s ∧ bridgeOf s c.src = some b ∧ regWaitOf
    s c.src (bodyN c 0x17 1) = some w ∧ bodyN c 0x14 1 = b.gen.toNat ∧ w.write = true) ∧
  (∃ (n : Fin 16) (c : Cell) (b : Bridge) (w : TunRegWait) (s : State), Delivered n c s ∧ bridgeOf s c.src = some b ∧ regWaitOf
    s c.src (bodyN c 0x17 1) = some w ∧ bodyN c 0x14 1 = b.gen.toNat ∧ w.write = false ∧ bodyN c 0x15 1 = 0) ∧
  (∃ (n : BitVec 12) (q : Byte) (w : TunRegWait) (s : State), regWaitOf s n q.toNat = some w ∧ w.sent + 16 ≤ now s) ∧
  (∃ (n : BitVec 12) (q : Byte) (s : State), (∀ w, regWaitOf s n q.toNat = some w → now s < w.sent + 16)) ∧
  (∃ (v : Word) (b : Bridge) (s : State), bridgeOf s (BitVec.ofNat 12 v.toNat) = some b ∧ s.power.state = .running) :=
  ⟨⟨(zCmdHdr : CmdHdr), ({ zTunnelClaimArgs with hops := 1, winPages := 1 } : TunnelClaimArgs), (State.reset : State),
    ⟨rfl, rfl⟩, by rfl, by rfl, by decide⟩,
  ⟨(zCmdHdr : CmdHdr), ({ zTunnelClaimArgs with hops := 1, winPages := 1 } : TunnelClaimArgs), ({ State.reset with tun := { S1.tun with bridges := List.replicate 1024 (1, zBridge) } } : State),
    ⟨rfl, rfl⟩, by rfl, (by decide +kernel), (by decide +kernel)⟩,
  ⟨(0 : Fin 16), (cell0 0x56 [] : Cell), ({ zBridge with claim := some zTicket } : Bridge), (zTicket : Ticket), (brS ({ zBridge with claim := some zTicket }) [] : State),
    ⟨by decide, by decide⟩, by rfl, by rfl, by rfl⟩,
  ⟨(0 : BitVec 12), ({ zBridge with claim := some zTicket } : Bridge), (zTicket : Ticket), (atTick 16 (brS ({ zBridge with claim := some zTicket }) []) : State),
    by rfl, by rfl, by rfl⟩,
  ⟨(0 : BitVec 12), (S1 : State),
    (fun _ h => by cases h)⟩,
  ⟨(0 : Fin 16), (cell0 0x50 [] : Cell), (zBridge : Bridge), (brS zBridge [] : State),
    ⟨by decide, by decide⟩, by rfl, by rfl, by rfl, by rfl⟩,
  ⟨(0 : Fin 16), ({ cell0 0x50 [] with body := List.replicate 40 1 } : Cell), (zBridge : Bridge), (brS zBridge [] : State),
    ⟨by decide, by decide⟩, by rfl, (.inl (by decide +kernel))⟩,
  ⟨(0 : Fin 16), (cell0 0x52 [] : Cell), (zBridge : Bridge), (brS zBridge [] : State),
    ⟨by decide, by decide⟩, by rfl, by rfl, by rfl, by rfl⟩,
  ⟨(0 : Fin 16), (cell0 0x53 [] : Cell), (zBridge : Bridge), (brS zBridge [] : State),
    ⟨by decide, by decide⟩, by rfl, by rfl, by rfl⟩,
  ⟨(0 : Fin 16), (cell0 0x54 [] : Cell), (zBridge : Bridge), (brS zBridge [] : State),
    ⟨by decide, by decide⟩, by rfl, by rfl⟩,
  ⟨(zCmdHdr : CmdHdr), (0 : BitVec 12), (zBridge : Bridge), (brS zBridge [] : State),
    ⟨rfl, rfl⟩, by rfl, by rfl⟩,
  ⟨(zCmdHdr : CmdHdr), (0 : BitVec 12), (State.reset : State),
    ⟨rfl, rfl⟩, by rfl⟩,
  ⟨(zCmdHdr : CmdHdr), ({ zTunnelRegArgs with count := 1, write := true } : TunnelRegArgs), (zBridge : Bridge), _, (brS zBridge [] : State),
    ⟨rfl, rfl⟩, by rfl, by rfl, (.inl rfl), rfl⟩,
  ⟨(0 : Fin 16), (cell0 0x59 [] : Cell), (zBridge : Bridge), ({ zTunRegWait with write := true } : TunRegWait), (brS zBridge [{ zTunRegWait with write := true }] : State),
    ⟨by decide, by decide⟩, by rfl, by rfl, by rfl, by rfl⟩,
  ⟨(0 : Fin 16), (cell0 0x59 [] : Cell), (zBridge : Bridge), (zTunRegWait : TunRegWait), (brS zBridge [zTunRegWait] : State),
    ⟨by decide, by decide⟩, by rfl, by rfl, by rfl, by rfl, by rfl⟩,
  ⟨(0 : BitVec 12), (0 : Byte), (zTunRegWait : TunRegWait), (atTick 16 (brS zBridge [zTunRegWait]) : State),
    by rfl, by rfl⟩,
  ⟨(0 : BitVec 12), (0 : Byte), (S1 : State),
    (fun _ h => by cases h)⟩,
  ⟨(0 : Word), (zBridge : Bridge), (brS zBridge [] : State),
    by rfl, by rfl⟩⟩

theorem test_meets_BusControllerTransactions :
  (∃ (h : CmdHdr) (a : MbXferArgs) (s : State), Taken h false s ∧ xferBad a = false) ∧
  (∃ (h : CmdHdr) (bus : Byte) (s : State), Taken h false s ∧ bus.toNat ≤ 1) ∧
  (∃ (n : Fin 2) (t : Ticket) (l : List MbCmd) (s : State), s.mb[n].cur = none ∧ s.mb[n].rst = .none ∧ s.mb[n].queue = .reset t
    :: l) ∧
  (∃ (n : Fin 2) (t : Ticket) (a : MbXferArgs) (at_ : Nat) (s : State), s.mb[n].cur = none ∧ s.mb[n].rst = .none ∧ s.mb[n].queue
    = [.xfer t a at_] ∧ regBit s (Reg.mbCtrl n) 0 = true ∧ (a.rlen = 0 ∨ dmaHalted s = false) ∧ s.mb[n].free = false) ∧
  (∃ (c : MbCur), c.args.rlen = 0) ∧
  (∃ (c : MbCur) (s : State), c.args.rlen ≠ 0 ∧ dmaHalted s = false) ∧
  (∃ (n : Fin 2) (c : MbCur) (s : State), c.nacks < regFld s (Reg.mbCtrl n) 19 18) ∧
  (∃ (n : Fin 2) (c : MbCur) (s : State), regFld s (Reg.mbCtrl n) 19 18 ≤ c.nacks) ∧
  (∃ (c : MbCur) (k : Nat), k < c.args.wlen.toNat) ∧
  (∃ (n : Fin 2) (c : MbCur) (s : State), s.mb[n].cur = some c ∧ c.phase = .nackWait ∧ s.mb[n].others = false ∧ s.mb[n].stuck =
    false ∧ s.mb[n].rst = .none ∧ mayHavePassed s s.mb[n].nackAt (mbMs * 12 / 10) = true) ∧
  (∃ (n : Fin 2) (s : State), mayHavePassed s s.mb[n].nackAt (mbMs * 12 / 10) = false) ∧
  (∃ (n : Fin 2) (c : MbCur) (s : State), s.mb[n].rst = .none ∧ s.mb[n].cur = some c ∧ c.phase = .waitFree) ∧
  (∃ (n : Fin 2) (c : MbCur) (s : State), s.mb[n].cur = some c ∧ c.phase = .waitFree ∧ mayHavePassed s c.since (100 * mbMs) =
    true) ∧
  (∃ (n : Fin 2) (c : MbCur) (s : State), s.mb[n].cur = some c ∧ c.phase = .waitFree ∧ mayHavePassed s c.since (100 * mbMs) =
    false) ∧
  (∃ (n : Fin 2) (t : Ticket) (a : MbXferArgs) (at_ : Nat) (s : State), s.mb[n].cur = none ∧ s.mb[n].queue = [.xfer t a at_] ∧
    mayHavePassed s at_ (100 * mbMs) = true) ∧
  (∃ (n : Fin 2) (s : State), regFld s (Reg.mbCtrl n) 31 24 ≠ 0 ∧ s.mb[n].stuck = false ∧ regBit s (Reg.mbCtrl n) 14 = false) ∧
  (∃ (n : Fin 2) (s : State), s.mb[n].rst = .none) ∧
  (∃ (n : Fin 2) (t : Ticket) (s : State), s.mb[n].rst = .command t ∧ mayHavePassed s s.mb[n].rstAt (rstUnits s n) = true) ∧
  (∃ (n : Fin 2) (t : Ticket) (s : State), s.mb[n].rst = .command t ∧ mayHavePassed s s.mb[n].rstAt (rstUnits s n) = false) ∧
  (∃ (n : Fin 2) (k : Nat) (s : State), s.mb[n].rst = .none ∧ s.mb[n].riseAt = some k ∧ mayHavePassed s k mbMs = true) ∧
  (∃ (n : Fin 2) (s : State), (∀ k, s.mb[n].riseAt = some k → mayHavePassed s k mbMs = false)) :=
  ⟨⟨(zCmdHdr : CmdHdr), ({ zMbXferArgs with addr := 0x10 } : MbXferArgs), (State.reset : State),
    ⟨rfl, rfl⟩, by rfl⟩,
  ⟨(zCmdHdr : CmdHdr), (0 : Byte), (State.reset : State),
    ⟨rfl, rfl⟩, by decide⟩,
  ⟨(0 : Fin 2), (zTicket : Ticket), ([] : List MbCmd), (mbS (fun b => { b with queue := [.reset zTicket] }) S1 : State),
    by rfl, by rfl, by rfl⟩,
  ⟨(0 : Fin 2), (zTicket : Ticket), (zMbXferArgs : MbXferArgs), (0 : Nat), (regSet (Reg.mbCtrl 0) 1 (mbS (fun b => { b with queue := [.xfer zTicket zMbXferArgs 0] }) S1) : State),
    by rfl, by rfl, by rfl, by rfl, (.inl rfl), by rfl⟩,
  ⟨(zMbCur : MbCur),
    by rfl⟩,
  ⟨({ zMbCur with args := { zMbXferArgs with rlen := 1 } } : MbCur), (State.reset : State),
    by decide, by rfl⟩,
  ⟨(0 : Fin 2), (zMbCur : MbCur), (regSet (Reg.mbCtrl 0) 0x40000 S1 : State),
    by decide⟩,
  ⟨(0 : Fin 2), (zMbCur : MbCur), (State.reset : State),
    by rfl⟩,
  ⟨({ zMbCur with args := { zMbXferArgs with wlen := 1 } } : MbCur), (0 : Nat),
    by decide⟩,
  ⟨(0 : Fin 2), ({ zMbCur with phase := .nackWait } : MbCur), (later (mbS (fun b => { b with cur := some { zMbCur with phase := .nackWait } }) S1) : State),
    by rfl, by rfl, by rfl, by rfl, by rfl, (by decide +kernel)⟩,
  ⟨(0 : Fin 2), (State.reset : State),
    (by decide +kernel)⟩,
  ⟨(0 : Fin 2), ({ zMbCur with phase := .waitFree } : MbCur), (mbS (fun b => { b with cur := some { zMbCur with phase := .waitFree } }) S1 : State),
    by rfl, by rfl, by rfl⟩,
  ⟨(0 : Fin 2), ({ zMbCur with phase := .waitFree } : MbCur), (later (mbS (fun b => { b with cur := some { zMbCur with phase := .waitFree } }) S1) : State),
    by rfl, by rfl, (by decide +kernel)⟩,
  ⟨(0 : Fin 2), ({ zMbCur with phase := .waitFree } : MbCur), (mbS (fun b => { b with cur := some { zMbCur with phase := .waitFree } }) S1 : State),
    by rfl, by rfl, (by decide +kernel)⟩,
  ⟨(0 : Fin 2), (zTicket : Ticket), (zMbXferArgs : MbXferArgs), (0 : Nat), (later (mbS (fun b => { b with queue := [.xfer zTicket zMbXferArgs 0] }) S1) : State),
    by rfl, by rfl, (by decide +kernel)⟩,
  ⟨(0 : Fin 2), (regSet (Reg.mbCtrl 0) 0x1000000 S1 : State),
    by decide, by rfl, by rfl⟩,
  ⟨(0 : Fin 2), (State.reset : State),
    by rfl⟩,
  ⟨(0 : Fin 2), (zTicket : Ticket), (later (mbS (fun b => { b with rst := .command zTicket }) S1) : State),
    by rfl, (by decide +kernel)⟩,
  ⟨(0 : Fin 2), (zTicket : Ticket), (mbS (fun b => { b with rst := .command zTicket }) S1 : State),
    by rfl, (by decide +kernel)⟩,
  ⟨(0 : Fin 2), (0 : Nat), (later (mbS (fun b => { b with riseAt := some 0 }) S1) : State),
    by rfl, by rfl, (by decide +kernel)⟩,
  ⟨(0 : Fin 2), (State.reset : State),
    (fun _ h => by cases h)⟩⟩

theorem test_meets_BusTargetRoleAndRequests :
  (∃ (n : Fin 2) (b : Byte) (s : State) (u : State), (u = mbMod n (fun x =>
    { x with free := false, others := true, tgt := none, ack := false }) s) ∧ addressed u n b = false) ∧
  (∃ (n : Fin 2) (b : Byte) (s : State) (u : State), (u = mbMod n (fun x =>
    { x with free := false, others := true, tgt := none, ack := false }) s) ∧ addressed u n b = true ∧ regsOpen u = true ∧
    s.mb[n].wakeNack = none) ∧
  (∃ (n : Fin 2) (t : MbTgt) (s : State), s.mb[n].tgt = some t ∧ t.read = false ∧ t.nacked = false) ∧
  (∃ (t : MbTgt), t.bytes.length < 2) ∧
  (∃ (b : Byte) (t : MbTgt) (o : Nat), t.bytes.length = 2 ∧ offsetOf (t.bytes ++ [b]) = some o) ∧
  (∃ (n : Fin 2) (b : Byte) (t : MbTgt), ((t.bytes.length = 2 ∧ offsetOf (t.bytes ++ [b]) = none) ∨ (3 ≤ t.bytes.length ∧ n =
    0))) ∧
  (∃ (t : MbTgt) (s : State), 3 ≤ t.bytes.length ∧ (t.bytes.length + 1 - 3) % 4 = 0 ∧ s.mb[(1 : Fin 2)].ptr ≤ 0x3FFFC) ∧
  (∃ (n : Fin 2) (t : MbTgt) (s : State) (w : Word), s.mb[n].tgt = some t ∧ t.read = true ∧ t.sent % 4 ≠ 0 ∧ w = t.word) ∧
  (∃ (n : Fin 2) (t : MbTgt) (s : State) (w : Word), s.mb[n].tgt = some t ∧ t.read = true ∧ t.sent % 4 = 0 ∧ w = busRead (mbPath
    n) s s.mb[n].ptr) ∧
  (∃ (n : Fin 2) (s : State), s.mb[n].tgt.isSome = true) ∧
  (∃ (n : Fin 2) (t : MbTgt) (s : State), s.mb[n].tgt = some t ∧ t.read = false ∧ 3 < t.bytes.length ∧ (t.bytes.length - 3) % 4
    ≠ 0) ∧
  (∃ (n : Fin 2) (e : MbHeaderEnd) (s : State) (u : State), canRequest s n = true ∧ (u = mbMod n (fun x =>
    { x with free := false, others := decide (e = .lost), sent := BitVec.ofNat 8 (tgtAddr s n * 2 + 1) }) s)) ∧
  (∃ (n : Fin 2) (s : State), canRequest s n = true) ∧
  (∃ (n : Fin 2) (b : Byte) (s : State), canServe s n 12 = true ∧ addressed s n b = false ∧ b.getLsbD 0 = true) ∧
  (∃ (n : Fin 2) (s : State), canServe s n 13 = true ∧ s.mb[n].free = true ∧ pauseOver s s.mb[n].alertPause = true) ∧
  (∃ (n : Fin 2) (s : State) (u : State), regsOpen s = true ∧ alertHeld s n = true ∧ (u = mbMod n (fun x =>
    { x with free := false, others := true, sent := BitVec.ofNat 8 (tgtAddr s n * 2) }) s)) ∧
  (∃ (path : AccessPath) (s : State), path ≠ .mb0 ∧ regsOpen s = true) ∧
  (∃ (v : Word), flag v 0 = false ∧ flag v 1 = true) ∧
  (∃ (v : Word), flag v 0 = true ∧ flag v 1 = false) :=
  ⟨⟨(0 : Fin 2), (0 : Byte), (State.reset : State), _,
    rfl, by rfl⟩,
  ⟨(0 : Fin 2), (0x20 : Byte), (mbR 0x102 : State), _,
    rfl, by rfl, by rfl, by rfl⟩,
  ⟨(0 : Fin 2), (zMbTgt : MbTgt), (mbS (fun b => { b with tgt := some { zMbTgt with read := false } }) S1 : State),
    by rfl, by rfl, by rfl⟩,
  ⟨(zMbTgt : MbTgt),
    by decide⟩,
  ⟨(0 : Byte), ({ zMbTgt with bytes := [0, 0] } : MbTgt), (0 : Nat),
    by rfl, by rfl⟩,
  ⟨(0 : Fin 2), (0 : Byte), ({ zMbTgt with bytes := [0, 0, 0] } : MbTgt),
    (.inr ⟨by decide, rfl⟩)⟩,
  ⟨({ zMbTgt with bytes := [0, 0, 0, 0, 0, 0] } : MbTgt), (State.reset : State),
    by decide, by rfl, by decide⟩,
  ⟨(0 : Fin 2), ({ zMbTgt with read := true, sent := 1 } : MbTgt), (mbS (fun b => { b with tgt := some { zMbTgt with read := true, sent := 1 } }) S1 : State), _,
    by rfl, by rfl, by decide, rfl⟩,
  ⟨(0 : Fin 2), ({ zMbTgt with read := true } : MbTgt), (mbS (fun b => { b with tgt := some { zMbTgt with read := true } }) S1 : State), _,
    by rfl, by rfl, by rfl, rfl⟩,
  ⟨(0 : Fin 2), (mbS (fun b => { b with tgt := some { zMbTgt with read := true } }) S1 : State),
    by rfl⟩,
  ⟨(0 : Fin 2), ({ zMbTgt with bytes := [0, 0, 0, 0] } : MbTgt), (mbS (fun b => { b with tgt := some { zMbTgt with bytes := [0, 0, 0, 0] } }) S1 : State),
    by rfl, by rfl, by decide, by decide⟩,
  ⟨(0 : Fin 2), (.acked : MbHeaderEnd), (mbR 0x102 : State), _,
    by rfl, rfl⟩,
  ⟨(0 : Fin 2), (mbR 0x102 : State),
    by rfl⟩,
  ⟨(0 : Fin 2), (1 : Byte), (mbR 0x1001 : State),
    by rfl, by rfl, by rfl⟩,
  ⟨(0 : Fin 2), (mbR 0x2001 : State),
    by rfl, by rfl, by rfl⟩,
  ⟨(0 : Fin 2), (mbR 0x800 : State), _,
    by rfl, by rfl, rfl⟩,
  ⟨(.bar0 : AccessPath), (RS : State),
    by decide, by rfl⟩,
  ⟨(2 : Word),
    by rfl, by rfl⟩,
  ⟨(1 : Word),
    by rfl, by rfl⟩⟩

theorem test_meets_ReservedOffsetsReadZeroIgnoreWrites :
  (∃ (off : BitVec 18), regRow off.toNat = none) ∧
  (∃ (off : BitVec 18), regRow off.toNat = none) ∧
  (∃ (off : BitVec 18) (s : State), Settled s ∧ regRow off.toNat = none) :=
  ⟨⟨(2 : BitVec 18),
    (by decide +kernel)⟩,
  ⟨(2 : BitVec 18),
    (by decide +kernel)⟩,
  ⟨(2 : BitVec 18), (State.reset : State),
    ⟨by decide, by decide⟩, (by decide +kernel)⟩⟩

theorem test_meets_TickReadThroughItsCapture :
  (∃ (s : State), regsOpen s = true) ∧
  (∃ (s : State), regsOpen s = true) ∧
  (∃ (s : State), regsOpen s = true) :=
  ⟨⟨(RS : State),
    by rfl⟩,
  ⟨(RS : State),
    by rfl⟩,
  ⟨(RS : State),
    by rfl⟩⟩

theorem test_meets_RegisterWritesTakeTheirEffect :
  (∃ (path : AccessPath) (s : State), (path = .mb0 ∨ regsOpen s = false)) ∧
  (∃ (path : AccessPath) (s : State), path ≠ .mb0 ∧ regsOpen s = true) ∧
  (∃ (path : AccessPath) (s : State), path ≠ .mb0 ∧ regsOpen s = true) ∧
  (∃ (i : Nat), i < 32) ∧
  (∃ (r : RegRow) (off : Nat) (v : Word) (s : State) (u : State), flagCounts off = [] ∧ u = regSet off (storedValue r (locked s)
    (regGet s off) v) s) ∧
  (∃ (path : AccessPath) (s : State), path ≠ .mb0 ∧ regsOpen s = true) ∧
  (∃ (path : AccessPath) (s : State), path ≠ .mb0 ∧ regsOpen s = true) ∧
  (∃ (path : AccessPath) (s : State), path ≠ .mb0 ∧ regsOpen s = true) ∧
  (∃ (path : AccessPath) (n : Fin 16) (v : Word) (s : State), path ≠ .mb0 ∧ regsOpen s = true ∧ flag v 0 = true ∧ linkEnabled s
    n = false) ∧
  (∃ (path : AccessPath) (v : Word) (s : State), path ≠ .mb0 ∧ regsOpen s = true ∧ flag v 0 = false) ∧
  (∃ (path : AccessPath) (s : State), path ≠ .mb0 ∧ regsOpen s = true) :=
  ⟨⟨(.bar0 : AccessPath), (State.reset : State),
    (.inr (by decide))⟩,
  ⟨(.bar0 : AccessPath), (RS : State),
    by decide, by rfl⟩,
  ⟨(.bar0 : AccessPath), (RS : State),
    by decide, by rfl⟩,
  ⟨(0 : Nat),
    by decide⟩,
  ⟨(zRegRow : RegRow), (0 : Nat), (0 : Word), (State.reset : State), _,
    by rfl, rfl⟩,
  ⟨(.bar0 : AccessPath), (RS : State),
    by decide, by rfl⟩,
  ⟨(.bar0 : AccessPath), (RS : State),
    by decide, by rfl⟩,
  ⟨(.bar0 : AccessPath), (RS : State),
    by decide, by rfl⟩,
  ⟨(.bar0 : AccessPath), (0 : Fin 16), (1 : Word), (regSet (Reg.linkCtrl 0) 0 RS : State),
    by decide, by rfl, by rfl, by rfl⟩,
  ⟨(.bar0 : AccessPath), (0 : Word), (RS : State),
    by decide, by rfl, by rfl⟩,
  ⟨(.bar0 : AccessPath), (RS : State),
    by decide, by rfl⟩⟩

theorem test_meets_CheckValueUnitsFed :
  (∃ (path : AccessPath) (u : Fin 8) (v : Word) (s : State), path ≠ .mb0 ∧ regsOpen s = true ∧ u.val < 4 ∧ flag v 0 = true) ∧
  (∃ (path : AccessPath) (u : Fin 8) (s : State), path ≠ .mb0 ∧ regsOpen s = true ∧ u.val < 4) ∧
  (∃ (u : Fin 8), 4 ≤ u.val) ∧
  (∃ (u : Nat) (bytes : List Byte) (s : State) (t : State) (w : Nat) (v : Nat), w = 8 * 2 ^ regFld s (Reg.crcCfg u) 1 0 ∧ v =
    crcFeedAll w (regPair s (Reg.crcPolyLo u) (Reg.crcPolyHi u)) (regBit s (Reg.crcCfg u) 2) (regPair s (Reg.crcValueLo u)
    (Reg.crcValueHi u)) bytes ∧ t = crcFeedUnit u bytes s) ∧
  (∃ (w : Nat) (v : Nat) (b : Nat) (bb : Byte), 8 < w ∧ b < 256 ∧ v < 2 ^ w ∧ bb.toNat = b) ∧
  (∃ (w : Nat) (v : Nat), 0 < w ∧ v < 2 ^ w) ∧
  (∃ (u : Fin 8) (s : State), regsOpen s = true ∧ u.val < 4) :=
  ⟨⟨(.bar0 : AccessPath), (0 : Fin 8), (1 : Word), (RS : State),
    by decide, by rfl, by decide, by rfl⟩,
  ⟨(.bar0 : AccessPath), (0 : Fin 8), (RS : State),
    by decide, by rfl, by decide⟩,
  ⟨(4 : Fin 8),
    by rfl⟩,
  ⟨(0 : Nat), ([] : List Byte), (State.reset : State), _, (8 : Nat), _,
    (by decide +kernel), rfl, rfl⟩,
  ⟨(16 : Nat), (0 : Nat), (0 : Nat), (0 : Byte),
    by decide, by decide, by decide, by rfl⟩,
  ⟨(1 : Nat), (0 : Nat),
    by decide, by decide⟩,
  ⟨(0 : Fin 8), (RS : State),
    by rfl, by decide⟩⟩

theorem test_meets_DebugWindowAccess :
  (∃ (path : AccessPath) (v : Word) (s : State), (path = .bar0 ∨ path = .tunnelReg) ∧ regsOpen s = true ∧ locked s = false ∧
    s.test.dbg = none ∧ fld v 1 0 ≠ 0) ∧
  (∃ (a : DbgAccess) (s : State) (t : State), s.test.dbg = some a ∧ a.allowed = true ∧ (targetResp s (if a.path = .bar0 then 0
    else 1) a.addr 4 a.write = .okay) ∧ a.write = true ∧ t = { s with test := { s.test with dbg := none, resp := 0 } }) ∧
  (∃ (a : DbgAccess) (s : State) (t : State), s.test.dbg = some a ∧ a.allowed = true ∧ (targetResp s (if a.path = .bar0 then 0
    else 1) a.addr 4 a.write = .okay) ∧ a.write = false ∧ t = { s with test := { s.test with dbg := none, resp := 0 } }) ∧
  (∃ (a : DbgAccess) (r : Resp) (s : State) (t : State), s.test.dbg = some a ∧ (r = (if a.allowed then targetResp s (if a.path =
    .bar0 then 0 else 1) a.addr 4 a.write else .deny)) ∧ r ≠ .okay ∧ a.write = false ∧ t =
    { s with test := { s.test with dbg := none, resp := r.code } }) :=
  ⟨⟨(.bar0 : AccessPath), (1 : Word), (RS : State),
    (.inl rfl), by rfl, by rfl, by rfl, by decide⟩,
  ⟨({ zDbgAccess with write := true, addr := 0x10000000, allowed := true } : DbgAccess), ({ State.reset with test := { dbg := some { zDbgAccess with write := true, addr := 0x10000000, allowed := true }, resp := 0 } } : State), _,
    by rfl, by rfl, by rfl, by rfl, rfl⟩,
  ⟨({ zDbgAccess with addr := 0x10000000, allowed := true } : DbgAccess), ({ State.reset with test := { dbg := some { zDbgAccess with addr := 0x10000000, allowed := true }, resp := 0 } } : State), _,
    by rfl, by rfl, by rfl, by rfl, rfl⟩,
  ⟨({ zDbgAccess with addr := 0 } : DbgAccess), (.deny : Resp), ({ State.reset with test := { dbg := some { zDbgAccess with addr := 0 }, resp := 0 } } : State), _,
    by rfl, by rfl, by decide, by rfl, rfl⟩⟩

theorem test_meets_FaultsRaisedQuietedAndCleared :
  (∃ (src : Nat) (s : State), (sumpSource src = none ∨ severity s src = 0 ∨ s.power.state = .sleep)) ∧
  (∃ (src : Nat) (inst : Nat) (x : SumpSource) (s : State), sumpSource src = some x ∧ inst < x.instances ∧ 0 < severity s src ∧
    s.power.state ≠ .sleep ∧ (sumpInst s src inst).state = .clear ∧ regFld s (Reg.sumpCfg src) 7 4 = 0) ∧
  (∃ (src : Nat) (inst : Nat) (x : SumpSource) (u : FenceUnit) (s : State), sumpSource src = some x ∧ inst < x.instances ∧ 4 ≤
    severity s src ∧ s.power.state ≠ .sleep ∧ (sumpInst s src inst).state = .clear ∧ fenceUnit src inst = some u) ∧
  (∃ (src : Nat) (inst : Nat) (x : SumpSource) (s : State), sumpSource src = some x ∧ inst < x.instances ∧ 0 < severity s src ∧
    s.power.state ≠ .sleep ∧ (sumpInst s src inst).state = .latched) ∧
  (∃ (src : Byte) (inst : Byte) (s : State), (sumpInst s src.toNat inst.toNat).state = .active ∧ heldForRelease s src.toNat
    inst.toNat = false ∧ mayHavePassed s (sumpInst s src.toNat inst.toNat).quietFrom (sumpInst s src.toNat inst.toNat).quiet =
    true) ∧
  (∃ (src : Byte) (inst : Byte) (s : State), ((sumpInst s src.toNat inst.toNat).state ≠ .active ∨ heldForRelease s src.toNat
    inst.toNat = true ∨ mayHavePassed s (sumpInst s src.toNat inst.toNat).quietFrom (sumpInst s src.toNat inst.toNat).quiet =
    false)) ∧
  (∃ (h : CmdHdr) (a : SumpQueryArgs) (s : State), Taken h false s ∧ (a.first.toNat + a.countM1.toNat + 1 ≤ (sumpSource
    a.source.toNat).elim 0 (fun x => x.instances)) ∧ aligned8 a.resultAddr = true) ∧
  (∃ (h : CmdHdr) (a : SumpClearArgs) (s : State), Taken h false s ∧ (a.inst.toNat < (sumpSource a.source.toNat).elim 0 (fun x
    => x.instances)) ∧ a.action = 1 ∧ ((sumpInst s a.source.toNat a.inst.toNat).state ≠ .latched ∨ (sumpInst s a.source.toNat
    a.inst.toNat).sev ≠ 6)) ∧
  (∃ (h : CmdHdr) (a : SumpClearArgs) (s : State), Taken h false s ∧ (a.inst.toNat < (sumpSource a.source.toNat).elim 0 (fun x
    => x.instances)) ∧ (a.action = 1 ∨ a.action = 2 ∨ a.action = 3) ∧ (sumpInst s a.source.toNat a.inst.toNat).state = .latched
    ∧ (sumpInst s a.source.toNat a.inst.toNat).sev = 6) ∧
  (∃ (h : CmdHdr) (a : SumpClearArgs) (u : FenceUnit) (s : State), Taken h false s ∧ (a.inst.toNat < (sumpSource
    a.source.toNat).elim 0 (fun x => x.instances)) ∧ a.action = 2 ∧ fenceUnit a.source.toNat a.inst.toNat = some u ∧
    hostReleased u = true ∧ fenced s u = true ∧ unitLatched s u = false ∧ (sumpInst s a.source.toNat a.inst.toNat).state ≠
    .latched) ∧
  (∃ (h : CmdHdr) (a : SumpClearArgs) (u : FenceUnit) (s : State), Taken h false s ∧ (a.inst.toNat < (sumpSource
    a.source.toNat).elim 0 (fun x => x.instances)) ∧ a.action = 2 ∧ fenceUnit a.source.toNat a.inst.toNat = some u ∧
    hostReleased u = true ∧ fenced s u = true ∧ unitLatched s u = true ∧ ((sumpInst s a.source.toNat a.inst.toNat).state ≠
    .latched ∨ (sumpInst s a.source.toNat a.inst.toNat).sev ≠ 6)) ∧
  (∃ (src : Nat) (n : Nat) (s : State), (sumpInst s src n).state = .latched ∧ (sumpInst s src n).sev ≠ 6) ∧
  (∃ (u : FenceUnit), (∀ l, u ≠ .link l)) :=
  ⟨⟨(0xFF : Nat), (State.reset : State),
    (.inl (by decide +kernel))⟩,
  ⟨(0 : Nat), (0 : Nat), _, (State.reset : State),
    rfl, by decide, by decide, by decide, by rfl, by rfl⟩,
  ⟨(0x51 : Nat), (0 : Nat), _, (.tile 0 : FenceUnit), (State.reset : State),
    rfl, by decide, by rfl, by decide, by rfl, by rfl⟩,
  ⟨(0 : Nat), (0 : Nat), _, (sumpS 0 .latched 2 [] : State),
    rfl, by decide, by decide, by decide, by rfl⟩,
  ⟨(0 : Byte), (0 : Byte), (later (sumpS 0 .active 2 []) : State),
    by rfl, by rfl, (by decide +kernel)⟩,
  ⟨(0 : Byte), (0 : Byte), (State.reset : State),
    (.inl (by decide +kernel))⟩,
  ⟨(zCmdHdr : CmdHdr), (zSumpQueryArgs : SumpQueryArgs), (State.reset : State),
    ⟨rfl, rfl⟩, by decide, by rfl⟩,
  ⟨(zCmdHdr : CmdHdr), ({ zSumpClearArgs with action := 1 } : SumpClearArgs), (State.reset : State),
    ⟨rfl, rfl⟩, by decide, by rfl, (.inl (by decide +kernel))⟩,
  ⟨(zCmdHdr : CmdHdr), ({ zSumpClearArgs with action := 1 } : SumpClearArgs), (sumpS 0 .latched 6 [] : State),
    ⟨rfl, rfl⟩, by decide, (.inl rfl), by rfl, by rfl⟩,
  ⟨(zCmdHdr : CmdHdr), ({ zSumpClearArgs with action := 2, source := 0x51 } : SumpClearArgs), (.tile 0 : FenceUnit), (fencedS (.tile 0) : State),
    ⟨rfl, rfl⟩, by decide, by rfl, by rfl, by rfl, by rfl, by rfl, by decide⟩,
  ⟨(zCmdHdr : CmdHdr), ({ zSumpClearArgs with action := 2, source := 0x51 } : SumpClearArgs), (.tile 0 : FenceUnit), (sumpS 0x51 .latched 2 [(.tile 0, false)] : State),
    ⟨rfl, rfl⟩, by decide, by rfl, by rfl, by rfl, by rfl, by rfl, (.inr (by decide +kernel))⟩,
  ⟨(0 : Nat), (0 : Nat), (sumpS 0 .latched 2 [] : State),
    by rfl, by decide⟩,
  ⟨(.tile 0 : FenceUnit),
    (fun l h => by cases h)⟩⟩

theorem test_meets_ProtectedValuesTakeTwoClasses :
  (∃ (path : AccessPath) (v : Word) (s : State), pathClass path ≠ 3 ∧ regsOpen s = true ∧ fld v 1 0 = 1) ∧
  (∃ (path : AccessPath) (v : Word) (s : State), pathClass path ≠ 3 ∧ regsOpen s = true ∧ fld v 1 0 = 2) ∧
  (∃ (path : AccessPath) (s : State), pathClass path ≠ 3 ∧ regsOpen s = true) ∧
  (∃ (s : State), regsOpen s = true) ∧
  (∃ (c : Nat) (n : Nat) (s : State), c < 3 ∧ s.prot.proposed = false ∧ 0 < n ∧ n ≤ 16 ∧ (∀ k, k < n → itemOk s k = true)) ∧
  (∃ (c : Nat) (n : Nat) (s : State), c < 3 ∧ s.prot.proposed = false ∧ (n = 0 ∨ 16 < n ∨ ∃ k, k < n ∧ itemOk s k = false)) ∧
  (∃ (c : Nat) (s : State), c < 3 ∧ s.prot.proposed = true) ∧
  (∃ (c : Nat) (s : State), c < 3 ∧ s.prot.proposed = true) ∧
  (∃ (c : Nat) (s : State), c < 3 ∧ s.prot.proposed = false) ∧
  (∃ (c : Nat) (s : State), c < 3 ∧ s.prot.proposed = false) ∧
  (∃ (c : Nat) (s : State), c < 3 ∧ s.prot.proposed = true ∧ s.prot.classA.val = c) ∧
  (∃ (c : Nat) (v : Word) (s : State), c < 3 ∧ s.prot.proposed = true ∧ s.prot.classA.val ≠ c ∧ v ≠ crc32c (proposalBytes s)) ∧
  (∃ (c : Nat) (s : State), c < 3 ∧ s.prot.proposed = true ∧ s.prot.classA.val ≠ c) ∧
  (∃ (o : Nat) (s : State), s.prot.count = 1 ∧ o = (protItem s 0 0).toNat ∧ (o < 0x8400 ∨ 0x8800 ≤ o)) ∧
  (∃ (s : State), s.prot.proposed = true ∧ mayHavePassed s s.prot.proposedAt (10 * refSecond) = true) ∧
  (∃ (s : State), (s.prot.proposed = false ∨ mayHavePassed s s.prot.proposedAt (10 * refSecond) = false)) ∧
  (∃ (s : State), s.prot.storeBusy = true) ∧
  (∃ (s : State), s.prot.storeBusy = false) :=
  ⟨⟨(.bar0 : AccessPath), (1 : Word), (RS : State),
    by decide, by rfl, by rfl⟩,
  ⟨(.bar0 : AccessPath), (2 : Word), (RS : State),
    by decide, by rfl, by rfl⟩,
  ⟨(.bar0 : AccessPath), (RS : State),
    by decide, by rfl⟩,
  ⟨(RS : State),
    by rfl⟩,
  ⟨(0 : Nat), (1 : Nat), (regSet (Reg.protItemOfs 0) (BitVec.ofNat 32 (Reg.sumpCfg 0x30)) S1 : State),
    by decide, by rfl, by decide, by decide, (fun k hk => by rw [Nat.lt_one_iff.1 hk]; decide +kernel)⟩,
  ⟨(0 : Nat), (0 : Nat), (State.reset : State),
    by decide, by rfl, (.inl rfl)⟩,
  ⟨(0 : Nat), ({ State.reset with prot := { S1.prot with proposed := true, classA := 0, count := 1 } } : State),
    by decide, by rfl⟩,
  ⟨(0 : Nat), ({ State.reset with prot := { S1.prot with proposed := true, classA := 0, count := 1 } } : State),
    by decide, by rfl⟩,
  ⟨(0 : Nat), (State.reset : State),
    by decide, by rfl⟩,
  ⟨(0 : Nat), (State.reset : State),
    by decide, by rfl⟩,
  ⟨(0 : Nat), ({ State.reset with prot := { S1.prot with proposed := true, classA := 0, count := 1 } } : State),
    by decide, by rfl, by rfl⟩,
  ⟨(0 : Nat), (0 : Word), ({ State.reset with prot := { S1.prot with proposed := true, classA := 1, count := 1 } } : State),
    by decide, by rfl, by decide, (by decide +kernel)⟩,
  ⟨(0 : Nat), ({ State.reset with prot := { S1.prot with proposed := true, classA := 1, count := 1 } } : State),
    by decide, by rfl, by decide⟩,
  ⟨(0 : Nat), ({ State.reset with prot := { S1.prot with proposed := true, classA := 0, count := 1 } } : State),
    by rfl, (by decide +kernel), (.inl (by decide))⟩,
  ⟨(later { S1 with prot := { S1.prot with proposed := true, classA := 0, count := 1 } } : State),
    by rfl, (by decide +kernel)⟩,
  ⟨(State.reset : State),
    (.inl rfl)⟩,
  ⟨({ State.reset with prot := { S1.prot with storeBusy := true } } : State),
    by rfl⟩,
  ⟨(State.reset : State),
    by rfl⟩⟩

theorem test_meets_AgeingAdjustsSurveysAndDecides :
  (∃ (w : BitVec 16), 40 ≤ w.toNat ∧ w.toNat ≤ 80) ∧
  (∃ (w : BitVec 16) (s : State), w.toNat < 40 ∧ s.wear.vddSteps < 10 ∧ regBit s Reg.ageCtrl 0 = true ∧ (∀ t, s.wear.lastAdjust
    = some t → t + 10 * refSecond ≤ s.time.refTime)) ∧
  (∃ (w : BitVec 16) (s : State), 80 < w.toNat ∧ -10 < s.wear.vddSteps ∧ regBit s Reg.ageCtrl 0 = true ∧ (∀ t, s.wear.lastAdjust
    = some t → t + 10 * refSecond ≤ s.time.refTime)) ∧
  (∃ (w : BitVec 16) (s : State), (regBit s Reg.ageCtrl 0 = false ∨ ∃ t, s.wear.lastAdjust = some t ∧ s.time.refTime < t + 10 *
    refSecond) ∧ (w.toNat < 40 → s.wear.vddSteps < 10)) ∧
  (∃ (w : BitVec 16) (s : State), w.toNat < 40 ∧ 10 ≤ s.wear.vddSteps) ∧
  (∃ (k : Nat) (tg : Nat) (s : State), proposalPending s k tg = false) ∧
  (∃ (n : Fin 16) (h : Byte) (v : Byte) (s : State) (u : State), u = setEye n h v
    { s with wear := { s.wear with eyes := vset s.wear.eyes n h } }) ∧
  (∃ (r : BitVec 16) (s : State) (u : State), u = { s with wear := { s.wear with retention := r } }) ∧
  (∃ (h : CmdHdr) (s : State), Taken h false s) ∧
  (∃ (h : CmdHdr) (a : AgeDecideArgs) (p : Proposal) (s : State) (n : Nat) (late : Bool), Taken h true s ∧ schedule a.tick s =
    some (n, late) ∧ namedProposal s a = some p ∧ a.action = 2) ∧
  (∃ (h : CmdHdr) (a : AgeDecideArgs) (p : Proposal) (s : State) (n : Nat) (late : Bool), Taken h true s ∧ schedule a.tick s =
    some (n, late) ∧ namedProposal s a = some p ∧ a.action = 1 ∧ p.kind ≠ 4) ∧
  (∃ (h : CmdHdr) (a : AgeDecideArgs) (s : State) (n : Nat) (late : Bool), Taken h true s ∧ schedule a.tick s = some (n, late) ∧
    a.action = 3 ∧ 1 ≤ a.kind.toNat ∧ a.kind.toNat ≤ 4 ∧ inPlan s a.kind.toNat = true) ∧
  (∃ (h : CmdHdr) (a : AgeDecideArgs) (p : Proposal) (u : State) (s : State) (n : Nat) (late : Bool), Taken h true s ∧ schedule
    a.tick s = some (n, late) ∧ namedProposal s a = some p ∧ a.action = 1 ∧ p.kind = 4 ∧ programsMeet s 1100000000 = true ∧
    stepTick s ≤ a.tick.toNat ∧ u =
    { takenState h s with wear := { s.wear with step := some { ticket := { ticketOf h s with late := late }, at_ := n, onFab := false, revert := false } } }) ∧
  (∃ (h : CmdHdr) (a : AgeDecideArgs) (s : State) (n : Nat) (late : Bool), Taken h true s ∧ schedule a.tick s = some (n, late) ∧
    (a.action = 1 ∨ a.action = 2) ∧ namedProposal s a = none) ∧
  (∃ (a : AgeDecideArgs) (p : Proposal) (s : State), namedProposal s a = some p ∧ a.action = 2) ∧
  (∃ (a : AgeDecideArgs) (p : Proposal) (s : State), namedProposal s a = some p ∧ a.action = 1 ∧ p.kind = 2) ∧
  (∃ (a : AgeDecideArgs) (p : Proposal) (s : State), namedProposal s a = some p ∧ a.action = 1 ∧ p.kind = 3) ∧
  (∃ (a : AgeDecideArgs) (p : Proposal) (s : State), namedProposal s a = some p ∧ a.action = 1 ∧ p.kind = 4 ∧ s.clock.plls[(0 :
    Fin 6)].locked = true ∧ programsMeet s 1100000000 = true) ∧
  (∃ (a : AgeDecideArgs) (s : State), a.action = 3 ∧ a.kind = 2 ∧ s.wear.refresh ≠ 0) ∧
  (∃ (a : AgeDecideArgs) (s : State), a.action = 3 ∧ a.kind = 3 ∧ s.wear.ka ≠ 64) :=
  ⟨⟨(40 : BitVec 16),
    by rfl, by decide⟩,
  ⟨(0 : BitVec 16), (State.reset : State),
    by decide, by decide, by rfl, (fun t h => by cases h)⟩,
  ⟨(81 : BitVec 16), (State.reset : State),
    by decide, by decide, by rfl, (fun t h => by cases h)⟩,
  ⟨(0 : BitVec 16), (regSet Reg.ageCtrl 0 S1 : State),
    (.inl (by decide +kernel)), (fun _ => by decide)⟩,
  ⟨(0 : BitVec 16), ({ State.reset with wear := { S1.wear with vddSteps := 10 } } : State),
    by decide, by rfl⟩,
  ⟨(0 : Nat), (0 : Nat), (State.reset : State),
    by rfl⟩,
  ⟨(0 : Fin 16), (0 : Byte), (0 : Byte), (State.reset : State), _,
    rfl⟩,
  ⟨(0 : BitVec 16), (State.reset : State), _,
    rfl⟩,
  ⟨(zCmdHdr : CmdHdr), (State.reset : State),
    ⟨rfl, rfl⟩⟩,
  ⟨(zCmdHdr : CmdHdr), ({ zAgeDecideArgs with action := 2 } : AgeDecideArgs), ({ zProposal with kind := 1 } : Proposal), (propS ({ zProposal with kind := 1 }) : State), (1 : Nat), (false : Bool),
    ⟨rfl, rfl⟩, by rfl, by rfl, by rfl⟩,
  ⟨(zCmdHdr : CmdHdr), ({ zAgeDecideArgs with action := 1 } : AgeDecideArgs), ({ zProposal with kind := 1 } : Proposal), (propS ({ zProposal with kind := 1 }) : State), (1 : Nat), (false : Bool),
    ⟨rfl, rfl⟩, by rfl, by rfl, by rfl, by decide⟩,
  ⟨(zCmdHdr : CmdHdr), ({ zAgeDecideArgs with action := 3, kind := 2 } : AgeDecideArgs), ({ State.reset with wear := { S1.wear with refresh := 1 } } : State), (1 : Nat), (false : Bool),
    ⟨rfl, rfl⟩, by rfl, by rfl, by decide, by decide, by rfl⟩,
  ⟨(zCmdHdr : CmdHdr), ({ zAgeDecideArgs with action := 1, tick := 64 } : AgeDecideArgs), ({ zProposal with kind := 4 } : Proposal), _, (propS ({ zProposal with kind := 4 }) : State), (64 : Nat), (false : Bool),
    ⟨rfl, rfl⟩, (by decide +kernel), by rfl, by rfl, by rfl, by rfl, by decide, rfl⟩,
  ⟨(zCmdHdr : CmdHdr), ({ zAgeDecideArgs with action := 1 } : AgeDecideArgs), (State.reset : State), (1 : Nat), (false : Bool),
    ⟨rfl, rfl⟩, by rfl, (.inl rfl), by rfl⟩,
  ⟨({ zAgeDecideArgs with action := 2 } : AgeDecideArgs), ({ zProposal with kind := 1 } : Proposal), (propS ({ zProposal with kind := 1 }) : State),
    by rfl, by rfl⟩,
  ⟨({ zAgeDecideArgs with action := 1 } : AgeDecideArgs), ({ zProposal with kind := 2 } : Proposal), (propS ({ zProposal with kind := 2 }) : State),
    by rfl, by rfl, by rfl⟩,
  ⟨({ zAgeDecideArgs with action := 1 } : AgeDecideArgs), ({ zProposal with kind := 3 } : Proposal), (propS ({ zProposal with kind := 3 }) : State),
    by rfl, by rfl, by rfl⟩,
  ⟨({ zAgeDecideArgs with action := 1 } : AgeDecideArgs), ({ zProposal with kind := 4 } : Proposal), ({ propS ({ zProposal with kind := 4 }) with clock := { S1.clock with plls := S1.clock.plls.map fun x => { x with locked := true } } } : State),
    by rfl, by rfl, by rfl, by decide +kernel, by rfl⟩,
  ⟨({ zAgeDecideArgs with action := 3, kind := 2 } : AgeDecideArgs), ({ State.reset with wear := { S1.wear with refresh := 1 } } : State),
    by rfl, by rfl, by decide⟩,
  ⟨({ zAgeDecideArgs with action := 3, kind := 3 } : AgeDecideArgs), ({ State.reset with wear := { S1.wear with ka := 32 } } : State),
    by rfl, by rfl, by decide⟩⟩

theorem test_meets_ResetsTakeHold :
  (∃ (off : Nat), off ≠ Reg.glbMediaRate ∧ off ≠ Reg.glbRev ∧ off ≠ Reg.glbEuiLo ∧ off ≠ Reg.glbEuiHi) ∧
  (∃ (cold : Bool) (c : ResetCause) (s : State) (u : State), u = resetTo cold c s) ∧
  (∃ (s : State), s.flash.commit = none) ∧
  (∃ (p : Bool) (s : State), s.power.tooHot = false ∧ (p = true ∨ s.power.state ≠ .off)) ∧
  (∃ (s : State), s.power.tooHot = false ∧ s.power.state = .off) ∧
  (∃ (s : State), s.power.tooHot = true) ∧
  (∃ (s : State), s.power.tooHot = true ∧ s.power.state = .off ∧ s.power.unpowered = false) ∧
  (∃ (s : State), (s.power.tooHot = false ∨ s.power.state ≠ .off ∨ s.power.unpowered = true)) ∧
  (∃ (path : AccessPath) (s : State), path ≠ .mb0 ∧ regsOpen s = true) ∧
  (∃ (c : ResetCause) (s : State), s.power.warmAsked = some c ∧ (∀ x : Fin 8, s.ps.ch[x].off = true)) ∧
  (∃ (c : ResetCause) (s : State), s.power.warmAsked = some c ∧ mayHavePassed s s.power.warmAt (refSecond * 12 / 1000) = true) ∧
  (∃ (x : Fin 8) (s : State), s.ps.ch[x].off = false ∧ mayHavePassed s s.power.warmAt (refSecond * 12 / 1000) = false) ∧
  (∃ (s : State), s.power.warmAsked = none) ∧
  (∃ (s : State), s.power.state ≠ .off ∧ s.power.stage = .hostReady) ∧
  (∃ (s : State) (u : State), s.power.state ≠ .off ∧ s.power.stage ≠ .hostReady ∧ u = resetTo false .watchdog (bootFault
    Src.resetWatchdog 0 s)) :=
  ⟨⟨(0 : Nat),
    by decide, by decide, by decide, by decide⟩,
  ⟨(false : Bool), (.powerOn : ResetCause), (State.reset : State), _,
    rfl⟩,
  ⟨(State.reset : State),
    by rfl⟩,
  ⟨(false : Bool), (State.reset : State),
    by rfl, (.inr (by decide))⟩,
  ⟨({ State.reset with power := { S1.power with state := .off } } : State),
    by rfl, by rfl⟩,
  ⟨({ State.reset with power := { S1.power with tooHot := true } } : State),
    by rfl⟩,
  ⟨({ State.reset with power := { S1.power with state := .off, tooHot := true } } : State),
    by rfl, by rfl, by rfl⟩,
  ⟨(State.reset : State),
    (.inl rfl)⟩,
  ⟨(.bar0 : AccessPath), (RS : State),
    by decide, by rfl⟩,
  ⟨(.pin : ResetCause), ({ State.reset with power := { S1.power with warmAsked := some .pin } } : State),
    by rfl, by decide⟩,
  ⟨(.pin : ResetCause), (later { S1 with power := { S1.power with warmAsked := some .pin } } : State),
    by rfl, (by decide +kernel)⟩,
  ⟨(0 : Fin 8), (chS fun x => { x with state := .running } : State),
    by rfl, (by decide +kernel)⟩,
  ⟨(State.reset : State),
    by rfl⟩,
  ⟨(RS : State),
    by decide, by rfl⟩,
  ⟨(State.reset : State), _,
    by decide, by decide, rfl⟩⟩

theorem test_meets_BootVerifiesAnImageAndLoadsTheStore :
  (∃ (s : State), (s.power.stage ≠ .rom ∨ s.power.state ≠ .running)) ∧
  (∃ (a : ImageCheck) (b : ImageCheck) (x : Fin 2) (s : State), s.power.stage = .rom ∧ s.power.state = .running ∧ x = ptrSlot
    (latestPtr s) ∧ (slotBoots s x (if x = 0 then a else b) = true)) ∧
  (∃ (a : ImageCheck) (b : ImageCheck) (x : Fin 2) (y : Fin 2) (s : State), s.power.stage = .rom ∧ s.power.state = .running ∧ x
    = ptrSlot (latestPtr s) ∧ y ≠ x ∧ (slotBoots s x (if x = 0 then a else b) = false) ∧ (slotBoots s y (if y = 0 then a else b)
    = true)) ∧
  (∃ (a : ImageCheck) (b : ImageCheck) (s : State), s.power.stage = .rom ∧ s.power.state = .running ∧ slotBoots s 0 a = false ∧
    slotBoots s 1 b = false) ∧
  (∃ (s : State), (s.power.stage ≠ .verified ∨ s.power.state ≠ .running)) ∧
  (∃ (s : State), s.power.stage = .verified ∧ s.power.state = .running) ∧
  (∃ (y : Fin 2) (s : State), s.power.stage = .hostReady ∧ s.flash.commit = none ∧ y ≠ s.power.slot) ∧
  (∃ (s : State), (s.power.stage ≠ .hostReady ∨ s.flash.commit.isSome = true)) :=
  ⟨⟨(RS : State),
    (.inl (by decide))⟩,
  ⟨(goodCheck : ImageCheck), (zImageCheck : ImageCheck), _, (validS S1 : State),
    by rfl, by rfl, rfl, by rfl⟩,
  ⟨(zImageCheck : ImageCheck), (goodCheck : ImageCheck), (0 : Fin 2), (1 : Fin 2), (validS S1 : State),
    by rfl, by rfl, by rfl, by decide, by rfl, by rfl⟩,
  ⟨(zImageCheck : ImageCheck), (zImageCheck : ImageCheck), (State.reset : State),
    by rfl, by rfl, by rfl, by rfl⟩,
  ⟨(State.reset : State),
    (.inl (by decide))⟩,
  ⟨({ State.reset with power := { S1.power with stage := .verified } } : State),
    by rfl, by rfl⟩,
  ⟨(1 : Fin 2), (RS : State),
    by rfl, by rfl, by decide⟩,
  ⟨(State.reset : State),
    (.inl (by decide))⟩⟩

theorem test_meets_ImagesCommittedAndStoreWritten :
  (∃ (h : CmdHdr) (a : ImgCommitArgs) (s : State), Taken h false s ∧ a.slot.toNat ≤ 1 ∧ aligned8 a.addr = true ∧ s.flash.commit
    = none ∧ s.power.slot.val ≠ a.slot.toNat ∧ armedFor s a.slot.toNat = true ∧ dmaHalted s = false) ∧
  (∃ (h : CmdHdr) (a : ImgCommitArgs) (s : State), Taken h false s ∧ a.slot.toNat ≤ 1 ∧ aligned8 a.addr = true) ∧
  (∃ (e : StepEnd) (c : Commit) (s : State), s.flash.commit = some c ∧ c.step = 1 ∧ e.ok = true ∧ e.check.crc = c.crc ∧
    imageVerifies e.check s.flash.minSvn = true) ∧
  (∃ (e : StepEnd) (c : Commit) (s : State), s.flash.commit = some c ∧ c.step = 1 ∧ e.ok = true ∧ (e.check.crc ≠ c.crc ∨
    imageVerifies e.check s.flash.minSvn = false)) ∧
  (∃ (e : StepEnd) (c : Commit) (s : State), s.flash.commit = some c ∧ (c.step = 2 ∨ c.step = 3) ∧ e.ok = true) ∧
  (∃ (e : StepEnd) (c : Commit) (s : State), s.flash.commit = some c ∧ c.step = 4 ∧ e.ok = true) ∧
  (∃ (e : StepEnd) (c : Commit) (s : State), s.flash.commit = some c ∧ 2 ≤ c.step ∧ e.ok = false) ∧
  (∃ (e : StepEnd) (c : Commit) (s : State), s.flash.commit = some c ∧ c.step = 5 ∧ e.ok = true) ∧
  (∃ (s : State), s.flash.commit = none) ∧
  (∃ (c : Commit), c.step ≠ 5) ∧
  (∃ (h : CmdHdr) (n : Byte) (s : State), Taken h false s ∧ n.toNat ≤ 1 ∧ armedFor s n.toNat = true ∧ (regGet s Reg.protImgCrc =
    s.flash.slots[(if n.toNat = 1 then 1 else 0 : Fin 2)].crc) ∧ (s.flash.slots[(if n.toNat = 1 then 1 else 0 : Fin 2)].state =
    .valid) ∧ s.flash.commit = none) ∧
  (∃ (h : CmdHdr) (n : Byte) (s : State), Taken h false s ∧ n.toNat ≤ 1 ∧ (armedFor s n.toNat = false ∨ regGet s Reg.protImgCrc
    ≠ s.flash.slots[(if n.toNat = 1 then 1 else 0 : Fin 2)].crc)) ∧
  (∃ (h : CmdHdr) (p : BitVec 12) (s : State), Taken h false s ∧ p.toNat ≤ 4094) ∧
  (∃ (path : AccessPath) (v : Word) (s : State), path ≠ .mb0 ∧ regsOpen s = true ∧ flag v 8 = true ∧ locked s = false ∧ fld v 2
    0 < 6) ∧
  (∃ (path : AccessPath) (v : Word) (s : State), path ≠ .mb0 ∧ regsOpen s = true ∧ flag v 8 = true ∧ (locked s = true ∨ 6 ≤ fld
    v 2 0)) ∧
  (∃ (x : StoreWrite) (l : List StoreWrite) (t : Ticket) (s : State), s.flash.writes = x :: l ∧ x.ticket = some t ∧ x.kind =
    .prefId) ∧
  (∃ (x : StoreWrite) (l : List StoreWrite) (s : State), s.flash.writes = x :: l ∧ x.ticket = none ∧ x.kind = .mediaRate) ∧
  (∃ (x : StoreWrite) (l : List StoreWrite) (t : Ticket) (s : State), s.flash.writes = x :: l ∧ x.ticket = some t ∧ x.kind =
    .imgSelect) ∧
  (∃ (k : StoreKind) (s : State), (∀ x ∈ s.flash.writes, x.kind ≠ k)) :=
  ⟨⟨(zCmdHdr : CmdHdr), ({ zImgCommitArgs with slot := 1 } : ImgCommitArgs), (regSet Reg.protImgAuth 3 S1 : State),
    ⟨rfl, rfl⟩, by rfl, by rfl, by rfl, by decide, by rfl, by rfl⟩,
  ⟨(zCmdHdr : CmdHdr), (zImgCommitArgs : ImgCommitArgs), (State.reset : State),
    ⟨rfl, rfl⟩, by decide, by rfl⟩,
  ⟨({ ok := true, check := goodCheck } : StepEnd), ({ zCommit with step := 1 } : Commit), (commitS 1 : State),
    by rfl, by rfl, by rfl, by rfl, by rfl⟩,
  ⟨({ zStepEnd with ok := true } : StepEnd), ({ zCommit with step := 1 } : Commit), (commitS 1 : State),
    by rfl, by rfl, by rfl, (.inr (by decide))⟩,
  ⟨({ zStepEnd with ok := true } : StepEnd), ({ zCommit with step := 2 } : Commit), (commitS 2 : State),
    by rfl, (.inl rfl), by rfl⟩,
  ⟨({ zStepEnd with ok := true } : StepEnd), ({ zCommit with step := 4 } : Commit), (commitS 4 : State),
    by rfl, by rfl, by rfl⟩,
  ⟨(zStepEnd : StepEnd), ({ zCommit with step := 2 } : Commit), (commitS 2 : State),
    by rfl, by rfl, by rfl⟩,
  ⟨({ zStepEnd with ok := true } : StepEnd), ({ zCommit with step := 5 } : Commit), (commitS 5 : State),
    by rfl, by rfl, by rfl⟩,
  ⟨(State.reset : State),
    by rfl⟩,
  ⟨(zCommit : Commit),
    by decide⟩,
  ⟨(zCmdHdr : CmdHdr), (0 : Byte), (regSet Reg.protImgAuth 1 (validS S1) : State),
    ⟨rfl, rfl⟩, by decide, by rfl, by rfl, by rfl, by rfl⟩,
  ⟨(zCmdHdr : CmdHdr), (0 : Byte), (State.reset : State),
    ⟨rfl, rfl⟩, by decide, (.inl (by decide +kernel))⟩,
  ⟨(zCmdHdr : CmdHdr), (0 : BitVec 12), (State.reset : State),
    ⟨rfl, rfl⟩, by decide⟩,
  ⟨(.bar0 : AccessPath), (0x100 : Word), (RS : State),
    by decide, by rfl, by rfl, by rfl, by decide⟩,
  ⟨(.bar0 : AccessPath), (0x106 : Word), (RS : State),
    by decide, by rfl, by rfl, (.inr (by decide))⟩,
  ⟨({ kind := .prefId, ticket := some zTicket, value := 0 } : StoreWrite), ([] : List StoreWrite), (zTicket : Ticket), (writeS { kind := .prefId, ticket := some zTicket, value := 0 } : State),
    by rfl, by rfl, by rfl⟩,
  ⟨({ kind := .mediaRate, ticket := none, value := 0 } : StoreWrite), ([] : List StoreWrite), (writeS { kind := .mediaRate, ticket := none, value := 0 } : State),
    by rfl, by rfl, by rfl⟩,
  ⟨({ kind := .imgSelect, ticket := some zTicket, value := 0 } : StoreWrite), ([] : List StoreWrite), (zTicket : Ticket), (writeS { kind := .imgSelect, ticket := some zTicket, value := 0 } : State),
    by rfl, by rfl, by rfl⟩,
  ⟨(.mediaRate : StoreKind), (State.reset : State),
    by decide⟩⟩

theorem test_meets_SleepIsEnteredAndLeft :
  (∃ (h : CmdHdr) (a : SleepArgs) (s : State) (n : Nat) (late : Bool), Taken h true s ∧ schedule a.tick s = some (n, late) ∧
    a.wakeMask ≠ 0 ∧ (∀ k : Fin 4, bitOf a.wakeMask.toNat (3 + k.val) = true → evtOut s k = false) ∧ timeOk a.wakeTime = true ∧
    (bitOf a.wakeMask.toNat 7 = true ∨ timeOf a.wakeTime = 0)) ∧
  (∃ (s : State), sleepBusy s = true) ∧
  (∃ (s : State), sleepBusy s = false) ∧
  (∃ (p : SleepPlan) (s : State), s.power.sleepPlan = some p ∧ s.power.state = .running ∧ now s < p.at_ + 2) ∧
  (∃ (p : SleepPlan) (s : State), s.power.sleepPlan = some p ∧ s.power.state = .running ∧ p.at_ + 2 ≤ now s ∧ now s < p.at_ + 3) ∧
  (∃ (p : SleepPlan) (s : State), s.power.sleepPlan = some p ∧ s.power.state = .running ∧ p.at_ + 3 ≤ now s ∧ bitOf p.mask.toNat
    7 = false) ∧
  (∃ (n : Fin 8) (p : SleepPlan) (s : State), s.power.state = .sleep ∧ s.power.sleepPlan = some p ∧ bitOf p.mask.toNat n.val =
    true ∧ (n = 7 → timeOf p.time < boundaryTime s + tickSpan s)) ∧
  (∃ (n : Fin 8) (s : State), (s.power.state ≠ .sleep ∨ ∀ p, s.power.sleepPlan = some p → bitOf p.mask.toNat n.val = false) ∧ (n
    ≠ 7 ∨ wakeTimeCome s = true)) ∧
  (∃ (p : SleepPlan) (s : State), s.power.sleepPlan = some p ∧ boundaryTime s + tickSpan s ≤ timeOf p.time) :=
  ⟨⟨(zCmdHdr : CmdHdr), ({ zSleepArgs with wakeMask := 1 } : SleepArgs), (State.reset : State), (1 : Nat), (false : Bool),
    ⟨rfl, rfl⟩, by rfl, by decide, (fun k h => by revert h; revert k; decide), by rfl, (.inr (by decide))⟩,
  ⟨(commitS 1 : State),
    by rfl⟩,
  ⟨(State.reset : State),
    by rfl⟩,
  ⟨({ zSleepPlan with mask := 0 } : SleepPlan), ({ State.reset with power := { S1.power with sleepPlan := some ({ zSleepPlan with mask := 0 }) } } : State),
    by rfl, by rfl, by decide⟩,
  ⟨({ zSleepPlan with mask := 0 } : SleepPlan), ({ State.reset with power := { S1.power with sleepPlan := some ({ zSleepPlan with mask := 0 }) }, time := { S1.time with tick := 2 } } : State),
    by rfl, by rfl, by rfl, by decide⟩,
  ⟨({ zSleepPlan with mask := 0 } : SleepPlan), ({ State.reset with power := { S1.power with sleepPlan := some ({ zSleepPlan with mask := 0 }) }, time := { S1.time with tick := 3 } } : State),
    by rfl, by rfl, by rfl, by rfl⟩,
  ⟨(0 : Fin 8), ({ zSleepPlan with mask := 1 } : SleepPlan), ({ State.reset with power := { S1.power with sleepPlan := some ({ zSleepPlan with mask := 1 }), state := .sleep } } : State),
    by rfl, by rfl, by rfl, by decide⟩,
  ⟨(0 : Fin 8), (State.reset : State),
    (.inl (by decide)), by decide⟩,
  ⟨({ zSleepPlan with time := { zTimeVal with sec := 1 } } : SleepPlan), ({ State.reset with power := { S1.power with sleepPlan := some { zSleepPlan with time := { zTimeVal with sec := 1 } } } } : State),
    by rfl, (by decide +kernel)⟩⟩

theorem test_meets_HostMemoryAndCompletionRecords :
  (∃ (bs : List Byte), bs.length ≤ 2 ^ 64) ∧
  (∃ (a : Nat) (j : Nat) (bs : List Byte), (∀ i < bs.length, j % 2 ^ 64 ≠ (a + i) % 2 ^ 64)) ∧
  (∃ (s : State), hifMode s ≠ 2) ∧
  (∃ (s : State), dmaHalted s = false ∧ hifMode s ≠ 2) ∧
  (∃ (t : Ticket) (a : Nat) (bs : List Byte) (s : State) (v : State), dmaHalted s = false ∧ hifMode s = 2 ∧ v = useRead (.result
    t.order) (a + bs.length - 1) 1 (useWrite (.result t.order) a bs s)) ∧
  (∃ (s : State), dmaHalted s = true) ∧
  (∃ (t : Ticket) (st : Nat) (sp : Nat) (c : Fin 4) (q : RecQueue) (b : List Byte) (s : State), hifMode s ≠ 2 ∧ st ≠ 1 ∧ t.epoch
    = s.hif.epoch ∧ t.takeover = s.hif.takeover ∧ s.hif.dirOk = true ∧ s.hif.dirWait = false ∧ s.hif.ringsStopped = false ∧
    t.irq = false ∧ c = s.hif.rings[t.ring].cq ∧ q = s.hif.cqs[c] ∧ b = recordBytes t st sp (now s) false) ∧
  (∃ (h : CmdHdr) (s : State) (t : State), takeable h.ring h.ordered false (hostStores h.stores s) = true ∧ h.reservedSet = true
    ∧ t = settle (complete (ticketOf h s) 4 0 (takenState h s))) ∧
  (∃ (h : CmdHdr) (s : State) (t : State), takeable h.ring h.ordered true (hostStores h.stores s) = true ∧ h.reservedSet = true
    ∧ t = complete (ticketOf h s) 4 0 (takenState h s)) :=
  ⟨⟨([1] : List Byte),
    by decide⟩,
  ⟨(0 : Nat), (1 : Nat), ([1] : List Byte),
    by decide⟩,
  ⟨(State.reset : State),
    by decide⟩,
  ⟨(State.reset : State),
    by rfl, by decide⟩,
  ⟨(zTicket : Ticket), (0 : Nat), ([] : List Byte), (modeS 2 S1 : State), _,
    by rfl, by rfl, rfl⟩,
  ⟨(haltS : State),
    by rfl⟩,
  ⟨(zTicket : Ticket), (0 : Nat), (0 : Nat), _, _, _, (hifS (fun h => { h with dirOk := true }) S1 : State),
    by decide, by decide, by rfl, by rfl, by rfl, by rfl, by rfl, by rfl, rfl, rfl, rfl⟩,
  ⟨({ zCmdHdr with reservedSet := true } : CmdHdr), (State.reset : State), _,
    by rfl, by rfl, rfl⟩,
  ⟨({ zCmdHdr with reservedSet := true } : CmdHdr), (State.reset : State), _,
    by rfl, by rfl, rfl⟩⟩

theorem test_meets_EveryStepKeepsTheMemoriesAndTheQueue :
  ∃ (s : State) (t : State), MemoryInv s ∧ step s = .next t :=
  ⟨(State.reset : State), (State.reset : State),
    ⟨by decide, by decide⟩, by rfl⟩

theorem test_meets_EveryRunGoesOnAndServesTheQueueInOrder :
  ∃ (s : State), MemoryInv s :=
  ⟨(State.reset : State),
    ⟨by decide, by decide⟩⟩

end Sys2Proof.Tests
end

namespace Sys2Proof.Machine

/-! Sending a request over the tunnel leaves the hosts' memories and MODE of HIF_CTRL as they are. -/

section HostFrame

variable {s t : State}

/-- A register keeps its value when another one is written. -/
theorem regGet_regSet_ne {off o : Nat} (v : Word) (s : State) (h : off ≠ o) : regGet (regSet o v s) off = regGet s off := by
  unfold regGet
  rw [regSet_regs, regPut]
  split
  · rw [mapGet_mapErase_ne _ _ _ h]
  · rw [mapGet_mapPut_ne _ _ _ _ h]

/-- `t` has the hosts' memories of `s`, and the same ring owner. -/
def SameHost (s t : State) : Prop := hifMode t = hifMode s ∧ t.localMem = s.localMem ∧ t.tunMem = s.tunMem

theorem SameHost.refl (s : State) : SameHost s s := ⟨rfl, rfl, rfl⟩

theorem SameHost.hostMem_eq (h : SameHost s t) : hostMem t = hostMem s := by
  obtain ⟨hm, hl, ht⟩ := h
  simp only [hostMem, hm, hl, ht]

theorem sameHost_ite {c : Prop} [Decidable c] {a b : State} (ha : SameHost s a) (hb : SameHost s b) :
    SameHost s (if c then a else b) := by
  split
  · exact ha
  · exact hb

theorem sameHost_foldl {β : Type} {g : State → β → State} (hg : ∀ t x, SameHost s t → SameHost s (g t x)) (l : List β) :
    ∀ {t}, SameHost s t → SameHost s (l.foldl g t) := by
  induction l with
  | nil => intro t h; exact h
  | cons x l ih => intro t h; exact ih (hg _ _ h)

theorem SameHost.regSet {off : Nat} (v : Word) (ho : Reg.hifCtrl ≠ off) (h : SameHost s t) : SameHost s (regSet off v t) := by
  obtain ⟨hm, hl, ht⟩ := h
  refine ⟨?_, hl, ht⟩
  rw [← hm]
  unfold hifMode regFld
  rw [regGet_regSet_ne v t ho]

theorem SameHost.setSump (x : Sump) (h : SameHost s t) : SameHost s { t with sump := x } := h

theorem SameHost.cellDrop (n : Fin 16) (h : SameHost s t) : SameHost s (cellDrop n t) := by
  refine SameHost.regSet _ ?_ (SameHost.regSet _ ?_ h) <;> simp only [Reg.hifCtrl, Reg.linkErrStat, Reg.cellDropCount] <;> omega

theorem SameHost.requestService (sev : Nat) (h : SameHost s t) : SameHost s (requestService sev t) := by
  refine sameHost_foldl (fun u n hu => sameHost_ite (SameHost.regSet _ ?_ hu) hu) _ h
  simp only [Reg.hifCtrl, Reg.mbTgtReq]; omega

theorem SameHost.faultEvent (src inst transition : Nat) (h : SameHost s t) : SameHost s (faultEvent src inst transition t) :=
  sameHost_ite h h

theorem SameHost.fenceFor (src inst : Nat) (h : SameHost s t) : SameHost s (fenceFor src inst t) := by
  unfold Machine.fenceFor
  split
  · exact h
  · exact sameHost_ite h (SameHost.faultEvent _ _ _ h)

theorem SameHost.raise (src inst detail : Nat) (h : SameHost s t) : SameHost s (raise src inst detail t) := by
  have entered (x : SumpInst) (sev k : Nat) :
      SameHost s (Machine.faultEvent src inst k (Machine.requestService sev (setInst src inst x t))) :=
    SameHost.faultEvent _ _ _ (SameHost.requestService _ h)
  have maybeFenced (c : Prop) [Decidable c] (u : State) (hu : SameHost s u) :
      SameHost s (if c then Machine.fenceFor src inst u else u) := sameHost_ite (SameHost.fenceFor _ _ hu) hu
  unfold Machine.raise
  split
  · exact h
  · refine sameHost_ite h ?_
    dsimp only
    split
    · exact h
    · refine sameHost_ite ?_ (sameHost_ite ?_ ?_)
      · exact sameHost_ite (SameHost.setSump _ (maybeFenced _ _ (entered _ _ _))) (maybeFenced _ _ (entered _ _ _))
      · exact maybeFenced _ _ h
      · exact maybeFenced _ _ (entered _ _ _)

theorem SameHost.queueCell (n : Fin 16) (c : Cell) (h : SameHost s t) : SameHost s (queueCell n c t) :=
  sameHost_ite h (SameHost.raise _ _ _ (SameHost.cellDrop n h))

theorem SameHost.sendRouted (ty : Nat) (dst : BitVec 12) (hops : Nat) (route : BitVec 64) (body : List Byte)
    (h : SameHost s t) : SameHost s (sendRouted ty dst hops route body t) :=
  sameHost_ite (SameHost.queueCell _ _ h) (SameHost.cellDrop _ h)

theorem SameHost.tunSend (r : TunReq) (h : SameHost s t) : SameHost s (tunSend r t) := by
  unfold Machine.tunSend
  split
  · exact h
  · exact SameHost.sendRouted _ _ _ _ _ h

theorem SameHost.tunIssue (u : TunUse) (k : TunReqKind) (h : SameHost s t) : SameHost s (tunIssue u k t) :=
  sameHost_ite h (sameHost_ite (SameHost.tunSend _ h) h)

end HostFrame

/-! What the owner's host memory holds after the device has written it, and what a write, a read and a result do while the
owner is not reached over the tunnel. -/

/-- A memory gives back the bytes just written, when they do not run once round the address space. -/
theorem memRead_memWrite (bs : List Byte) : ∀ (m : List Host.Cell) (a : Nat), bs.length ≤ 2 ^ 64 →
    memRead (memWrite m a bs) a bs.length = bs := by
  induction bs with
  | nil => intro m a _; rfl
  | cons b bs ih =>
    intro m a hl
    rw [List.length_cons] at hl
    have apart : ∀ i < bs.length, a % 2 ^ 64 ≠ (a + 1 + i) % 2 ^ 64 := fun i hi => by omega
    have first : mapGetD memDefault (memWrite m a (b :: bs)) (a % 2 ^ 64) = b := by
      have kept := memWrite_other bs (mapPutD memDefault m (a % 2 ^ 64) b) (a + 1) a apart
      rwa [memRead_one, memRead_one, mapGetD_mapPutD_self, List.singleton_inj] at kept
    rw [List.length_cons, memRead, first, memWrite, ih _ _ (by omega)]

theorem hostMem_setHostMem (m : List Host.Cell) (s : State) : hostMem (setHostMem m s) = m := by
  by_cases h : hifMode s = 2
  · have h' : hifMode { s with tunMem := m } = 2 := h
    simp [setHostMem, hostMem, h, h']
  · have h' : ¬ hifMode { s with localMem := m } = 2 := h
    simp [setHostMem, hostMem, h, h']

/-- The owner's host memory after a write, whichever host owns the rings. -/
theorem hostMem_hostWrite (a : Nat) (bs : List Byte) (s : State) : hostMem (hostWrite a bs s) = memWrite (hostMem s) a bs := by
  have sent : SameHost (setHostMem (memWrite (hostMem s) a bs) s) (hostWrite a bs s) :=
    sameHost_ite (sameHost_foldl (fun _ _ h => SameHost.tunIssue _ _ h) _ (SameHost.refl _)) (SameHost.refl _)
  rw [sent.hostMem_eq, hostMem_setHostMem]

theorem useWrite_local (u : TunUse) (a : Nat) (bs : List Byte) {s : State} (h : hifMode s ≠ 2) :
    useWrite u a bs s = { s with localMem := memWrite s.localMem a bs } := by
  simp only [useWrite, setHostMem, hostMem, if_neg h]

theorem useRead_local (u : TunUse) (a n : Nat) {s : State} (h : hifMode s ≠ 2) : useRead u a n s = s := if_neg h

/-- A result that reaches a local owner is in its memory when the command completes (R376). -/
theorem resultWith_local (t : Ticket) (a st sp : Nat) (bs : List Byte) {s : State} (hd : dmaHalted s = false)
    (h : hifMode s ≠ 2) :
    resultWith none t a bs st sp s = complete t st sp { s with localMem := memWrite s.localMem a bs } := by
  have h' : hifMode { s with localMem := memWrite s.localMem a bs } ≠ 2 := h
  simp only [resultWith, hd, Bool.false_eq_true, if_false, if_neg h, useWrite_local _ _ _ h, useRead_local _ _ _ h']
  rfl

/-- Over the tunnel the completion waits for the read-back of the result (R376). -/
theorem resultWith_tunnel (t : Ticket) (a st sp : Nat) (bs : List Byte) {s : State} (hd : dmaHalted s = false)
    (h : hifMode s = 2) {v : State} (hv : v = useRead (.result t.order) (a + bs.length - 1) 1 (useWrite (.result t.order) a bs s)) :
    resultWith none t a bs st sp s = { v with tun := { v.tun with
      results := v.tun.results ++ [{ ticket := t, status := st, specific := sp, tick := none }] } } := by
  simp only [resultWith, hd, Bool.false_eq_true, if_false, if_pos h, ← hv]

/-- While the DMA engine is halted no result is written (R403). -/
theorem resultWith_halted (t : Ticket) (a st sp : Nat) (bs : List Byte) {s : State} (hd : dmaHalted s = true) :
    resultWith none t a bs st sp s = complete t St.busError 0 s := if_pos hd

/-! The completion record of a command (R374, R375): its length, and what writing it into the completion queue of a local
owner changes. -/

@[simp] theorem length_leBytes (n : Nat) : ∀ v : Nat, (leBytes n v).length = n := by
  induction n with
  | zero => intro v; rfl
  | succ n ih => intro v; rw [leBytes, List.length_cons, ih]

theorem length_recordBytes (t : Ticket) (st sp tick : Nat) (old : Bool) : (recordBytes t st sp tick old).length = 16 := by
  simp [recordBytes]

/-- A record as it is stored: PHASE in its FLAGS byte (R375). -/
def phased (b : List Byte) (phase : Bool) : List Byte := b.take 3 ++ [b.getD 3 0 ||| (if phase then 1 else 0)] ++ b.drop 4

theorem length_phased {b : List Byte} (h : b.length = 16) (phase : Bool) : (phased b phase).length = 16 := by
  simp [phased, h]

/-- A queue after one more record (R375): its write index advances, and PHASE turns at the wrap. -/
def RecQueue.advanced (q : RecQueue) : RecQueue :=
  { q with write := (q.write + 1) % 2 ^ q.log2, phase := if (q.write + 1) % 2 ^ q.log2 = 0 then !q.phase else q.phase }

theorem queueOf_cqSource (s : State) (c : Fin 4) : queueOf s (cqSource c) = s.hif.cqs[c] := by
  simp [queueOf, cqSource]

theorem setQueue_cqSource (c : Fin 4) (q : RecQueue) (s : State) :
    setQueue (cqSource c) q s = { s with hif := { s.hif with cqs := vset s.hif.cqs c q } } := by
  simp [setQueue, cqSource]

/-- A record without IRQ, written into the completion queue of its ring in the memory of a local owner. -/
theorem postRec_local (r : Fin 8) (b : List Byte) {c : Fin 4} {q : RecQueue} {s : State} (hm : hifMode s ≠ 2)
    (hc : s.hif.rings[r].cq = c) (hq : s.hif.cqs[c] = q) :
    postRec r b false s = { s with
      hif := { s.hif with cqs := vset s.hif.cqs c q.advanced },
      localMem := memWrite s.localMem (q.base.toNat + 16 * q.write) (phased b q.phase) } := by
  have hm' : hifMode { s with hif := { s.hif with cqs := vset s.hif.cqs c q.advanced } } ≠ 2 := hm
  simp only [postRec, Bool.false_eq_true, if_false, writeRec, hc, queueOf_cqSource, hq, setQueue_cqSource]
  exact useWrite_local _ _ _ hm'

/-- A command of the present owner, its directory read and its rings running, gives back its reservation and its place among
the outstanding commands of its ring, and its record is written (R372, R375). -/
theorem complete_current (t : Ticket) (st sp : Nat) {s : State} (hst : st ≠ St.okLate) (he : t.epoch = s.hif.epoch)
    (ho : t.takeover = s.hif.takeover) (hd : s.hif.dirOk = true) (hw : s.hif.dirWait = false)
    (hr : s.hif.ringsStopped = false) :
    complete t st sp s = postRec t.ring (recordBytes t st sp (now s) false) t.irq
      (ringDone t.ring (unreserve s.hif.rings[t.ring].cq false s)) := by
  simp [complete, completeAt, hst, he, ho, hd, hw, hr]

/-! The statement about host memory, completion records and malformed descriptors. -/

/-- The completion of a current command, as what it leaves in its record, its queue and its ring. -/
theorem complete_writes_record {t : Ticket} {st sp : Nat} {c : Fin 4} {q : RecQueue} {b : List Byte} {s : State} (hm : hifMode s ≠ 2)
    (hst : st ≠ St.okLate) (he : t.epoch = s.hif.epoch) (ho : t.takeover = s.hif.takeover) (hd : s.hif.dirOk = true)
    (hw : s.hif.dirWait = false) (hr : s.hif.ringsStopped = false) (hi : t.irq = false) (hc : c = s.hif.rings[t.ring].cq)
    (hq : q = s.hif.cqs[c]) (hb : b = recordBytes t st sp (now s) false) :
    ∃ u : State, complete t st sp s = u ∧ memRead u.localMem (q.base.toNat + 16 * q.write) 16 = phased b q.phase ∧
      u.hif.cqs[c] = { q.advanced with reserved := q.reserved - 1 } ∧
      u.hif.rings[t.ring].outstanding = s.hif.rings[t.ring].outstanding - 1 ∧
      u = { s with hif := u.hif, localMem := u.localMem } := by
  have hlen : (phased b q.phase).length = 16 := length_phased (hb ▸ length_recordBytes ..) _
  have hm' : hifMode (ringDone t.ring (unreserve c false s)) ≠ 2 := hm
  have hc' : (ringDone t.ring (unreserve c false s)).hif.rings[t.ring].cq = c := by simp [ringDone, unreserve, hc]
  have hq' : (ringDone t.ring (unreserve c false s)).hif.cqs[c] = { q with reserved := q.reserved - 1 } := by
    simp [ringDone, unreserve, hq]
  rw [complete_current t st sp hst he ho hd hw hr, hi, ← hb, ← hc, postRec_local t.ring b hm' hc' hq']
  refine ⟨_, rfl, ?_, ?_, ?_, rfl⟩
  · have reads := memRead_memWrite (phased b q.phase) s.localMem (q.base.toNat + 16 * q.write) (by omega)
    rwa [hlen] at reads
  · exact vset_get_self _ _ _
  · simp [ringDone, unreserve]

/-! ### The commands named, by their meanings -/

theorem exec_sumpQuery (h : CmdHdr) (a : SumpQueryArgs) (s : State) : exec (.sumpQuery h a) s = execSumpQuery h a s := rfl
theorem exec_sumpClear (h : CmdHdr) (a : SumpClearArgs) (s : State) : exec (.sumpClear h a) s = execSumpClear h a s := rfl
theorem exec_ageQuery (h : CmdHdr) (a : BitVec 64) (s : State) : exec (.ageQuery h a) s = execAgeQuery h a s := rfl
theorem exec_imgSelect (h : CmdHdr) (a : Byte) (s : State) : exec (.imgSelect h a) s = execImgSelect h a s := rfl
theorem exec_cfgSet (h : CmdHdr) (a : BitVec 12) (s : State) : exec (.cfgSet h a) s = execCfgSet h a s := rfl
theorem exec_ageDecide (h : CmdHdr) (a : AgeDecideArgs) (s : State) : exec (.ageDecide h a) s = execAgeDecide h a s := rfl
theorem exec_sleep (h : CmdHdr) (a : SleepArgs) (s : State) : exec (.sleep h a) s = execSleep h a s := rfl

section Malformed

variable {h : CmdHdr} {s : State} {bad : Bool} {tick : BitVec 64} {refuse : State → Option (Nat × Nat)}
  {pre : Nat → Ticket → State → State} {act : Action} {run : Ticket → State → State}

/-- An untimed command whose descriptor has a reserved bit set completes with BAD_ARG (R9). -/
theorem fin_untimedCmd_malformed (ht : takeable h.ring h.ordered false (hostStores h.stores s) = true) (hb : h.reservedSet = true) :
    fin (untimedCmd h bad run s) = .next (settle (complete (ticketOf h s) 4 0 (takenState h s))) := by
  rw [untimedCmd_bad ht (.inl hb), fin]; rfl

theorem fin_untimedCmd_waits (ht : takeable h.ring h.ordered false (hostStores h.stores s) = false) :
    fin (untimedCmd h bad run s) = .next (settle (hostStores h.stores s)) := by
  rw [untimedCmd_waits ht, fin]

/-- A timed command whose descriptor has a reserved bit set completes with BAD_ARG (R9). -/
theorem timedCmd_malformed (ht : takeable h.ring h.ordered true (hostStores h.stores s) = true) (hb : h.reservedSet = true) :
    timedCmd h tick bad refuse pre act s = complete (ticketOf h s) 4 0 (takenState h s) := timedCmd_bad ht (.inl hb)

/-- A rejecting AGE_DECIDE approves no clock step, so that its tick field stands as it is (R473). -/
theorem execAgeDecide_malformed {a : AgeDecideArgs} (ha : a.action = 2)
    (ht : takeable h.ring h.ordered true (hostStores h.stores s) = true) (hb : h.reservedSet = true) :
    execAgeDecide h a s = .next (complete (ticketOf h s) 4 0 (takenState h s)) := by
  have step : approvesStep s a = false := by simp [approvesStep, ha]
  simp [execAgeDecide, step, timedCmd_malformed ht hb]

end Malformed

/-- Settles O58: a write to host memory reads back because the requests it sends over the tunnel leave the owner's memory alone,
and a completion of a current command comes down to one record written into its queue. -/
theorem hostMemoryAndCompletionRecords : Obligations.HostMemoryAndCompletionRecords := by
  unfold Obligations.HostMemoryAndCompletionRecords
  refine ⟨?_, ?_, ?_, ?_, ?_, ?_, ?_, ?_, ?_, ?_⟩
  · intro a bs s hl
    rw [hostRead, hostMem_hostWrite, memRead_memWrite _ _ _ hl]
  · intro a j bs s hj
    rw [hostRead, hostMem_hostWrite, memWrite_other _ _ _ _ hj, hostRead]
  · intro a bs s hm
    exact useWrite_local _ a bs hm
  · intro t a st sp bs s hd hm
    exact resultWith_local t a st sp bs hd hm
  · intro t a st sp bs s v hd hm hv
    exact resultWith_tunnel t a st sp bs hd hm hv
  · intro t a st sp bs s hd
    exact resultWith_halted t a st sp bs hd
  · intro t st sp c q b s hm hst he ho hd hw hr hi hc hq hb
    exact complete_writes_record hm hst he ho hd hw hr hi hc hq hb
  · intro h a b n p ra s t ht hb e
    rw [e, exec_sumpQuery, exec_sumpClear, exec_ageQuery, exec_imgSelect, exec_cfgSet]
    exact ⟨fin_untimedCmd_malformed ht hb, fin_untimedCmd_malformed ht hb, fin_untimedCmd_malformed ht hb,
      fin_untimedCmd_malformed ht hb, fin_untimedCmd_malformed ht hb⟩
  · intro h a b s t ht hb e
    rw [e, exec_ageDecide, exec_sleep]
    exact ⟨execAgeDecide_malformed rfl ht hb, congrArg fin (timedCmd_malformed ht hb)⟩
  · intro h a b ra s
    rw [exec_sumpQuery, exec_ageQuery, exec_sleep]
    exact ⟨fun ht => ⟨fin_untimedCmd_waits ht, fin_untimedCmd_waits ht⟩, fun ht => congrArg fin (timedCmd_waits ht)⟩

end Sys2Proof.Machine

namespace Sys2Proof.Machine

/-! The tick field of a timed command (R23): one equation of `schedule` for each row of its table. -/

section TickField

variable {s : State} {f : BitVec 64}

theorem openTick_eq (s : State) : openTick s = if s.time.kerf then now s + 2 else now s + 1 := by
  unfold openTick
  split <;> rfl

/-- The first open tick lies one or two ticks ahead. -/
theorem openTick_le (s : State) : openTick s ≤ now s + 2 := by
  rw [openTick_eq]
  split <;> omega

theorem schedule_zero (s : State) : schedule 0 s = some (openTick s, false) := rfl

/-- A field more than 2^32 ticks ahead has no tick. -/
theorem schedule_far (h : now s + 2 ^ 32 < f.toNat) : schedule f s = none := by
  have nonzero : f.toNat ≠ 0 := by omega
  simp only [schedule, if_neg nonzero, if_pos h]

/-- A field whose tick is still open keeps its tick. -/
theorem schedule_open (h0 : 0 < f.toNat) (ho : openTick s ≤ f.toNat) (hf : f.toNat ≤ now s + 2 ^ 32) :
    schedule f s = some (f.toNat, false) := by
  simp only [schedule, if_neg h0.ne', if_neg hf.not_gt, if_pos ho]

/-- A passed field takes the first open tick, late. -/
theorem schedule_passed (h0 : 0 < f.toNat) (ho : f.toNat < openTick s) : schedule f s = some (openTick s, true) := by
  have near : ¬ now s + 2 ^ 32 < f.toNat := by
    have := openTick_le s
    omega
  simp only [schedule, if_neg h0.ne', if_neg near, if_neg ho.not_ge]

end TickField

theorem okOf_eq (t : Ticket) : okOf t = if t.late then 1 else 0 := rfl

/-- Settles O3: each row of the table is one branch of `schedule`, and a taken command whose field has no tick is malformed. -/
theorem tickFieldSchedules : Obligations.TickFieldSchedules := by
  unfold Obligations.TickFieldSchedules
  refine ⟨?_, ?_, ?_, ?_, openTick_eq, okOf_eq, ?_⟩
  · rintro s _ rfl
    exact schedule_zero s
  · intro s f h0 ho hf
    exact schedule_open h0 ho hf
  · intro s f h0 ho
    exact schedule_passed h0 ho
  · intro s f hf
    exact schedule_far hf
  · intro h f refuse pre act s ht hf
    exact timedCmd_bad ht.1 (.inr (.inr (schedule_far hf)))

/-! What the work at the end of a tick leaves alone. -/

section TickFrame

variable {s t u : State}

/-- `t` differs from `s` only in the ports and in the free values drawn. -/
def PortSide (s t : State) : Prop := ∃ k p, t = { s with free := k, ports := p }

theorem PortSide.trans (h1 : PortSide s t) (h2 : PortSide t u) : PortSide s u := by
  obtain ⟨_, _, rfl⟩ := h1
  obtain ⟨k, p, rfl⟩ := h2
  exact ⟨k, p, rfl⟩

theorem PortSide.foldl {β : Type} {g : State → β → State} (hg : ∀ s x, PortSide s (g s x)) :
    ∀ (l : List β) (s : State), PortSide s (l.foldl g s)
  | [], _ => ⟨_, _, rfl⟩
  | x :: l, s => (hg s x).trans (PortSide.foldl hg l (g s x))

theorem portSide_commitAt (p : Fin 8) (w : BitVec 4) (l : List Word) (n : Nat) (s : State) :
    PortSide s (commitAt p w l n s) := by
  unfold commitAt
  dsimp only
  split <;> exact ⟨_, _, rfl⟩

/-- The commits of the port masks change the ports alone (R312). -/
theorem portSide_commitsAtKerf (s : State) : PortSide s (commitsAtKerf s) := by
  refine PortSide.foldl (fun s p => ?_) _ s
  split
  · split
    · exact portSide_commitAt ..
    · exact ⟨_, _, rfl⟩
  · exact ⟨_, _, rfl⟩

theorem commitsAtKerf_time (s : State) : (commitsAtKerf s).time = s.time := by
  obtain ⟨k, p, e⟩ := portSide_commitsAtKerf s
  rw [e]

theorem openKerf_eq (s : State) : openKerf s = { commitsAtKerf s with time := { s.time with kerf := true } } := by
  simp only [openKerf, commitsAtKerf_time]

/-- `t` stands in the tick of `s`, with the same actions latched: it agrees with `s` in the operating state, in the counter, the
rate and the time elapsed, and in node time. -/
structure SameTick (s t : State) : Prop where
  power : t.power = s.power
  tick : t.time.tick = s.time.tick
  rate : t.time.rate = s.time.rate
  refTime : t.time.refTime = s.time.refTime
  nodeUnits : t.clock.nodeUnits = s.clock.nodeUnits
  timed : t.timed = s.timed

theorem SameTick.refl (s : State) : SameTick s s := ⟨rfl, rfl, rfl, rfl, rfl, rfl⟩

theorem SameTick.trans (h1 : SameTick s t) (h2 : SameTick t u) : SameTick s u where
  power := h2.power.trans h1.power
  tick := h2.tick.trans h1.tick
  rate := h2.rate.trans h1.rate
  refTime := h2.refTime.trans h1.refTime
  nodeUnits := h2.nodeUnits.trans h1.nodeUnits
  timed := h2.timed.trans h1.timed

theorem SameTick.foldl {β : Type} {g : State → β → State} (hg : ∀ s x, SameTick s (g s x)) :
    ∀ (l : List β) (s : State), SameTick s (l.foldl g s)
  | [], s => SameTick.refl s
  | x :: l, s => (hg s x).trans (SameTick.foldl hg l (g s x))

/-- What the shared operations write is no part of the tick. -/
theorem Outer.sameTick (h : Outer s t) : SameTick s t :=
  ⟨h.power, by rw [h.time], by rw [h.time], by rw [h.time], by rw [h.clock], h.timed⟩

/-- The length of the tick follows from the mode and the rate (R13). -/
theorem SameTick.tickUnits_eq (h : SameTick s t) : tickUnits t = tickUnits s := by
  simp only [tickUnits, spt, fs, h.power, h.rate]

theorem sameTick_openKerf (s : State) : SameTick s (openKerf s) := by
  obtain ⟨k, p, e⟩ := portSide_commitsAtKerf s
  rw [openKerf_eq, e]
  exact ⟨rfl, rfl, rfl, rfl, rfl, rfl⟩

theorem sameTick_tileMod (n : Fin 16) (f : Tile → Tile) (s : State) : SameTick s (tileMod n f s) := ⟨rfl, rfl, rfl, rfl, rfl, rfl⟩

theorem sameTick_upsetRow (s : State) (x : RowUpset) : SameTick s (upsetRow s x) := sameTick_tileMod ..

theorem sameTick_overrun (n : Fin 16) (s : State) : SameTick s (overrun n s) := by
  unfold overrun
  exact (sameTick_tileMod n _ s).trans (outer_raise _ _ _ _ (Outer.refl _)).sameTick

theorem sameTick_showTick (n : Fin 16) (s : State) : SameTick s (showTick n s) := by
  unfold showTick
  refine SameTick.trans (Outer.sameTick (outer_regSetFld _ _ _ _ _ ?_)) (sameTick_tileMod n _ _)
  split
  · refine outer_regSet _ _ _ ?_
    split
    · exact Outer.refl s
    · exact outer_regMod _ _ _ (outer_regSetFld _ _ _ _ _ (Outer.refl s))
  · refine outer_regSetFld _ _ _ _ _ ?_
    split
    · exact Outer.refl s
    · exact outer_regMod _ _ _ (outer_regSetFld _ _ _ _ _ (Outer.refl s))

theorem sameTick_cutTiles (s : State) : SameTick s (cutTiles s) := by
  refine SameTick.foldl (fun s n => SameTick.trans ?_ (sameTick_showTick n _)) _ s
  split
  · exact sameTick_overrun n s
  · exact SameTick.refl s

theorem sameTick_traceRecord (s : State) : SameTick s (traceRecord s) := by
  unfold traceRecord
  split
  · exact (outer_regSetFld _ _ _ _ _ (outer_regSet _ _ _ (Outer.refl s))).sameTick
  · exact SameTick.refl s

theorem sameTick_raiseDue (s : State) : SameTick s (raiseDue s) := by
  refine SameTick.foldl (fun s i => ?_) _ s
  have marked : SameTick s (hifMod (fun h => { h with irqs := vset h.irqs i { raised := s.hif.irqs[i].due, due := false } }) s) :=
    ⟨rfl, rfl, rfl, rfl, rfl, rfl⟩
  dsimp only
  split
  · exact marked.trans (outer_raiseVector _ _ (Outer.refl _)).sameTick
  · exact marked

/-- `t` stands at the opening of the tick after the one `s` stands in, with the same actions latched (R16). -/
structure NextTick (s t : State) : Prop where
  tick : t.time.tick = s.time.tick + 1
  kerf : t.time.kerf = false
  refTime : t.time.refTime = s.time.refTime + tickUnits s
  nodeUnits : t.clock.nodeUnits = s.clock.nodeUnits + tickUnits s
  timed : t.timed = s.timed

theorem nextTick_countTick (s : State) : NextTick s (countTick s) := ⟨rfl, rfl, rfl, rfl, rfl⟩

theorem SameTick.nextTick (h : SameTick s t) (n : NextTick t u) : NextTick s u where
  tick := by rw [n.tick, h.tick]
  kerf := n.kerf
  refTime := by rw [n.refTime, h.refTime, h.tickUnits_eq]
  nodeUnits := by rw [n.nodeUnits, h.nodeUnits, h.tickUnits_eq]
  timed := n.timed.trans h.timed

theorem NextTick.advancePulses (n : NextTick s t) : NextTick s (advancePulses t) := ⟨n.tick, n.kerf, n.refTime, n.nodeUnits, n.timed⟩

theorem nextTick_endTick (s : State) : NextTick s (endTick s) := by
  have opened : SameTick s (if s.time.kerf then s else openKerf s) := by
    split
    · exact SameTick.refl s
    · exact sameTick_openKerf s
  have ended := (opened.trans (sameTick_cutTiles _)).trans (sameTick_traceRecord _)
  exact (ended.nextTick (nextTick_countTick _)).advancePulses

end TickFrame

/-- The node as it opens the tick that begins: upsets and due interrupts first, then the tick that ends is closed and counted. -/
def countedState (m : TickIn) (s : State) : State := endTick (raiseDue (m.upsets.foldl upsetRow s))

theorem nextTick_countedState (m : TickIn) (s : State) : NextTick s (countedState m s) :=
  ((SameTick.foldl sameTick_upsetRow m.upsets s).trans (sameTick_raiseDue _)).nextTick (nextTick_endTick _)

/-! The tick's commands, by the state of the node. -/

section TickCommands

variable {m : TickIn} {s : State}

theorem exec_tickKerfOpen_running (hp : s.power.state = .running) (hk : s.time.kerf = false) :
    exec .tickKerfOpen s = .next (settle (openKerf s)) := by
  simp [exec, execTickKerfOpen, hp, hk, fin]

theorem exec_tileCut_due {n : Fin 16} (h : s.tiles[n].cutDue = true) : exec (.tileCut n) s = .next (overrun n s) := by
  simp only [exec, execTileCut, h, if_true]

theorem exec_tickBoundary_running (hp : s.power.state = .running) (hr : tickRuns s = true) :
    exec (.tickBoundary m) s = .next (settle (runBoundary m s)) := by
  simp only [exec, execTickBoundary, hp, hr, if_true, fin]

/-- In sleep, and while the tick's domains stand still, the boundary only counts (R252, R496). -/
theorem exec_tickBoundary_counts (h : s.power.state = .sleep ∨ (s.power.state = .running ∧ tickRuns s = false)) :
    exec (.tickBoundary m) s = .next (countTick s) := by
  rcases h with hp | ⟨hp, hr⟩
  · simp only [exec, execTickBoundary, hp]
  · simp only [exec, execTickBoundary, hp, hr, Bool.false_eq_true, if_false]

theorem exec_tickBoundary_off (hp : s.power.state = .off) : exec (.tickBoundary m) s = .next s := by
  simp only [exec, execTickBoundary, hp]

end TickCommands

/-- Settles O22: what precedes the count at a boundary stays in the tick that ends (`SameTick`), so that the latched actions find
the node one tick on. -/
theorem tickBoundaryAdvancesTheTick : Obligations.TickBoundaryAdvancesTheTick := by
  unfold Obligations.TickBoundaryAdvancesTheTick
  refine ⟨?_, ?_, ?_, ?_, ?_⟩
  · intro s hp hk
    rw [exec_tickKerfOpen_running hp hk, openKerf_eq]
  · intro n s hc
    exact exec_tileCut_due hc
  · intro m s hp hr
    have next := nextTick_countedState m s
    exact ⟨countedState m s, exec_tickBoundary_running hp hr, next.tick, next.kerf, next.refTime, next.nodeUnits, next.timed⟩
  · intro m s hp
    exact ⟨countTick s, exec_tickBoundary_counts hp, rfl, rfl, rfl, rfl⟩
  · intro m s hp
    exact exec_tickBoundary_off hp

/-! The latched actions at their boundary (R20, R129). -/

section Latched

variable {x : Timed × List Obj} {s : State}

/-- An action all of whose objects are won away completes with OK. -/
theorem applyLatched_won (hne : objsOf s x.1.act ≠ []) (hall : ∀ o ∈ objsOf s x.1.act, o ∈ x.2)
    (hage : ∀ a, x.1.act ≠ .ageDecide a) : applyLatched x s = complete x.1.ticket 0 0 s := by
  have won : objsOf s x.1.act ≠ [] ∧ ((objsOf s x.1.act).all fun o => x.2.contains o) = true :=
    ⟨hne, by simpa using hall⟩
  rw [applyLatched, if_pos won]
  split
  · next a e => exact absurd e (hage a)
  · rfl

/-- An action that keeps an object takes its effect. -/
theorem applyLatched_kept {o : Obj} (ho : o ∈ objsOf s x.1.act) (hx : o ∉ x.2) :
    applyLatched x s = applyAction x.1.ticket (fun p => x.2.contains p) x.1.act s := by
  have kept : ¬ (objsOf s x.1.act ≠ [] ∧ ((objsOf s x.1.act).all fun o => x.2.contains o) = true) := by
    rintro ⟨-, hall⟩
    exact hx (by simpa using List.all_eq_true.mp hall o ho)
  rw [applyLatched, if_neg kept]

theorem runOrder_append_cons (k : Nat) (l m : List (Timed × List Obj)) (hk : x.1.act.order = k) :
    runOrder k (l ++ x :: m) s = runOrder k m (applyLatched x (runOrder k l s)) := by
  simp only [runOrder, List.filter_append, List.filter_cons, hk, decide_true, if_true, List.foldl_append, List.foldl_cons]

/-- The record of an action that took effect: OK, or OK_LATE. -/
theorem finish_ok (t : Ticket) (s : State) : finish t (St.ok, s) = complete t (if t.late then 1 else 0) 0 s := rfl

theorem applyAction_routeSet (t : Ticket) (won : Obj → Bool) (a : RouteAct) (s : State) (h : (applyRoute a s).1 = true) :
    applyAction t won (.routeSet a) s = complete t (if t.late then 1 else 0) 0 (applyRoute a s).2 := by
  simp only [applyAction, h, if_true, finish_ok]

end Latched

/-- Settles O23: `applyLatched` turns on whether some object of the action is not won away, and `runOrder` is a fold over the
actions of one place. -/
theorem latchedActionsTakenByObject : Obligations.LatchedActionsTakenByObject := by
  unfold Obligations.LatchedActionsTakenByObject
  refine ⟨?_, ?_, ?_, ?_, ?_, applyAction_routeSet⟩
  · intro x s hne hall hage
    exact applyLatched_won hne hall hage
  · intro x s o ho hx
    exact applyLatched_kept ho hx
  · intro s g t l
    rfl
  · intro s l o g
    rfl
  · intro k l m x s hk
    exact runOrder_append_cons k l m hk

/-! The route, gain, clear, direct and generator commands at their acceptance (R36–R64). -/

section RouterHeld

variable {h : CmdHdr} {s : State} {n ms : Nat} {late p : Bool}

/-- A route entry whose fields are valid. -/
theorem routeEntryOf_valid {dest source : BitVec 16} {k : Nat} {i : Fin 4} {g : Word} (hi : k = i.val)
    (hd : dstExists s dest = true) (hs : (epNull source || srcExists s source) = true) (hg : gainWordValid g = true) :
    routeEntryOf s dest k (some p) source (some ms) g =
      some { dest := dest, input := i, source := source, power := p, ms := ms, gain := g } := by
  simp only [routeEntryOf, toFin?_some hi, hd, hs, hg, Bool.and_self, if_true]

theorem exec_routeSet_held {a : RouteSetArgs} {i : Fin 4} (ht : Taken h true s) (hn : schedule a.tick s = some (n, late))
    (hi : a.input.toNat = i.val) (hl : lawField s a.law = some p) (hm : rampField s 1000 a.rampMs = some ms)
    (hd : dstExists s a.dest = true) (hs : (epNull a.source || srcExists s a.source) = true) (hg : gainWordValid a.gain = true)
    {e : RouteAct} (he : e = { dest := a.dest, input := i, source := a.source, power := p, ms := ms, gain := a.gain })
    (hr : routeRefusal [e] (takenState h s) = none) :
    exec (.routeSet h a) s = .next (hold n (ticketOf h s) late (.routeSet e)
      (if e.needsEntry then allocEntry e.dest.toNat (takenState h s) else takenState h s)) := by
  subst he
  simp only [exec, execRouteSet, hl, hm, routeEntryOf_valid hi hd hs hg, timedCmd_held ht rfl hn hr]

theorem exec_gainSet_held {a : GainSetArgs} {i : Fin 4} (ht : Taken h true s) (hn : schedule a.tick s = some (n, late))
    (hi : a.input.toNat = i.val) (hm : rampField s 10000 a.rampMs = some ms) (hd : dstExists s a.dest = true)
    (hg : gainWordValid a.gain = true) (ho : directOwned (takenState h s) a.dest none = false) :
    exec (.gainSet h a) s = .next (hold n (ticketOf h s) late (.gainSet a.dest i a.gain ms) (takenState h s)) := by
  have wellFormed : (!(dstExists s a.dest && gainWordValid a.gain)) = false := by simp [hd, hg]
  simp only [exec, execGainSet, toFin?_some hi, hm]
  rw [timedCmd_held ht wellFormed hn (by simp [ho])]
  rfl

theorem exec_routeClear_held {a : RouteClearArgs} (ht : Taken h true s) (hn : schedule a.tick s = some (n, late))
    (hl : lawField s a.law = some p) (hm : rampField s 1000 a.rampMs = some ms) (hd : dstExists s a.dest = true) :
    exec (.routeClear h a) s = .next (hold n (ticketOf h s) late (.routeClear a.dest p ms) (takenState h s)) := by
  simp only [exec, execRouteClear, hl, hm]
  rw [timedCmd_held ht (by simp [hd]) hn rfl]
  rfl

/-- A direct path is not refused when it is a release, or when both its ends are synchronous and its destination is free (R61,
R62). -/
theorem exec_directSet_held {a : DirectSetArgs} {ch : Fin 64} (ht : Taken h true s) (hn : schedule a.tick s = some (n, late))
    (hc : a.channel.toNat = ch.val) (hm : rampField s 1000 a.rampMs = some ms) (hg : gainWordValid a.gain = true)
    (hv : epNull a.source = true ∨ (directSource s a.source = true ∧ directDest s a.dest = true ∧
      directSync (takenState h s) false a.source = true ∧ directSync (takenState h s) true a.dest = true ∧
      hasEntry (takenState h s) a.dest.toNat = false ∧ directOwned (takenState h s) a.dest (some ch) = false)) :
    exec (.directSet h a) s = .next (hold n (ticketOf h s) late (.directSet ch a.source a.dest a.gain ms) (takenState h s)) := by
  simp only [exec, execDirectSet, toFin?_some hc, hm]
  rcases hv with hz | ⟨hs, hd, hss, hsd, he, ho⟩
  · rw [timedCmd_held ht (by simp [hg, hz]) hn (by simp [hz])]
    rfl
  · rw [timedCmd_held ht (by simp [hg, hs, hd]) hn (by simp [hss, hsd, he, ho])]
    rfl

theorem exec_testgenSet_held {a : TestgenSetArgs} {g : Fin 16} (ht : Taken h true s) (hn : schedule a.tick s = some (n, late))
    (hgen : a.gen.toNat = g.val) (hw : a.wave.toNat ≤ 3) (hg : gainWordValid a.level = true)
    (hsine : a.wave.toNat = 1 → 1 ≤ a.freq.toNat ∧ a.freq.toNat ≤ 500 * fs s) (hnoise : a.wave.toNat = 2 → a.seed ≠ 0) :
    exec (.testgenSet h a) s = .next (hold n (ticketOf h s) late (.testgenSet g a) (takenState h s)) := by
  have sineOk : (decide (a.wave.toNat = 1) && !(decide (1 ≤ a.freq.toNat) && decide (a.freq.toNat ≤ 500 * fs s))) = false := by
    simpa using hsine
  have noiseOk : (decide (a.wave.toNat = 2) && decide (a.seed = 0)) = false := by
    simpa using hnoise
  simp only [exec, execTestgenSet, toFin?_some hgen]
  rw [timedCmd_held ht (by simp only [sineOk, noiseOk, hg, hw.not_gt, decide_false, Bool.not_true, Bool.or_self]) hn rfl]
  rfl

end RouterHeld

/-- Settles O4: every field check of the five commands passes, so that each comes down to `timedCmd_held`. -/
theorem routerCommandsHeld : Obligations.RouterCommandsHeld := by
  unfold Obligations.RouterCommandsHeld
  refine ⟨?_, ?_, ?_, ?_, ?_⟩
  · intro h a i p ms s n late ht hn hi hl hm hd hs hg hr
    exact exec_routeSet_held ht hn hi hl hm hd hs hg rfl hr
  · intro h a i ms s n late ht hn hi hm hd hg ho
    exact exec_gainSet_held ht hn hi hm hd hg ho
  · intro h a p ms s n late ht hn hl hm hd
    exact exec_routeClear_held ht hn hl hm hd
  · intro h a ch ms s n late ht hn hc hm hg hv
    exact exec_directSet_held ht hn hc hm hg hv
  · intro h a g s n late ht hn hgen hw hg hsine hnoise
    exact exec_testgenSet_held ht hn hgen hw hg hsine hnoise

end Sys2Proof.Machine

namespace Sys2Proof.Machine

/-! A ROUTE_SET at its boundary (R57–R59): what `routeChange` makes of the taps of a destination, for each kind of source, and
what `applyRoute` then does to the table. -/

section RouteChange

variable {taps : List Tap} {a : RouteAct} {n : Nat}

/-- Toward a null source the taps of the input fall, and the taps of the other inputs stay. -/
theorem routeChange_null (hn : 0 < n) (hz : epNull a.source = true) :
    routeChange taps a n = some ((taps.filter fun t => t.input ≠ a.input) ++
      (taps.filter fun t => t.input = a.input).map fun t => t.fade false a.power n) := by
  simp only [routeChange, hz, if_true, if_neg hn.ne']

/-- Toward the source of a tap it holds, that tap rises and the other taps of the input fall. -/
theorem routeChange_held {t : Tap} {more : List Tap} (hn : 0 < n) (hz : epNull a.source = false)
    (hs : ((taps.filter fun t => t.input = a.input).filter fun t => t.source = a.source) = t :: more) :
    routeChange taps a n = some ((taps.filter fun t => t.input ≠ a.input) ++
      [{ t.fade true a.power n with gain := t.gain.rampTo a.gain n }] ++
      ((taps.filter fun t => t.input = a.input).filter fun t => t.source ≠ a.source).map fun t => t.fade false a.power n) := by
  simp only [routeChange, hz, hs, Bool.false_eq_true, if_false, if_neg hn.ne']

section NewSource

variable (hnew : ∀ t ∈ taps, t.input = a.input → t.source ≠ a.source)
include hnew

theorem filter_source_new : ((taps.filter fun t => t.input = a.input).filter fun t => t.source = a.source) = [] := by
  rw [List.filter_eq_nil_iff]
  intro t ht
  obtain ⟨hmem, hin⟩ := List.mem_filter.mp ht
  simpa using hnew t hmem (by simpa using hin)

theorem filter_source_ne_new :
    ((taps.filter fun t => t.input = a.input).filter fun t => t.source ≠ a.source) = taps.filter fun t => t.input = a.input := by
  rw [List.filter_eq_self]
  intro t ht
  obtain ⟨hmem, hin⟩ := List.mem_filter.mp ht
  simpa using hnew t hmem (by simpa using hin)

/-- Toward a new source with a physical tap free, a new tap rises from 0 and every tap of the input falls. -/
theorem routeChange_new (hn : 0 < n) (hz : epNull a.source = false) (hfree : taps.length < 4) :
    routeChange taps a n = some ((taps.filter fun t => t.input ≠ a.input) ++
      ((taps.filter fun t => t.input = a.input).map fun t => t.fade false a.power n) ++
      [{ source := a.source, input := a.input, gain := Gain.ofWord a.gain, f0 := 0, up := true, power := a.power,
         n := n, j := 0 }]) := by
  simp only [routeChange, hz, filter_source_new hnew, filter_source_ne_new hnew, Bool.false_eq_true, if_false, if_neg hn.ne',
    if_pos hfree]

theorem routeChange_full (hn : 0 < n) (hz : epNull a.source = false) (hfull : 4 ≤ taps.length) : routeChange taps a n = none := by
  simp only [routeChange, hz, filter_source_new hnew, Bool.false_eq_true, if_false, if_neg hn.ne', if_neg hfull.not_gt]

end NewSource

variable {s : State}

theorem applyRoute_changed {l : List Tap} (hd : epNull a.dest = false)
    (hc : routeChange (routeTaps s a.dest.toNat) a (rampSamples (fs s) (spt s) a.ms) = some l) (hl : l ≠ []) :
    applyRoute a s = (true, setTaps a.dest.toNat l s) := by
  simp only [applyRoute, hd, hc, hl, Bool.false_eq_true, if_false, false_and]

theorem applyRoute_noTap (hd : epNull a.dest = false)
    (hc : routeChange (routeTaps s a.dest.toNat) a (rampSamples (fs s) (spt s) a.ms) = none) : applyRoute a s = (false, s) := by
  simp only [applyRoute, hd, hc, Bool.false_eq_true, if_false]

end RouteChange

/-- The record of an action that found itself refused at its boundary. -/
theorem finish_refused (t : Ticket) {st : Nat} (s : State) (h : st ≠ St.ok) : finish t (st, s) = complete t st 0 s := by
  simp only [finish, if_neg h]

/-- Settles O6: the boundary's outcome is `routeChange` by the kind of source, and its two answers are the two records. -/
theorem routeSetAtItsBoundary : Obligations.RouteSetAtItsBoundary := by
  unfold Obligations.RouteSetAtItsBoundary
  refine ⟨?_, ?_, ?_, ?_, ?_, ?_⟩
  · intro taps a n hn hz
    exact ⟨_, routeChange_null hn hz, rfl⟩
  · intro taps a n t more hn hz hs
    exact ⟨_, routeChange_held hn hz hs, List.append_assoc ..⟩
  · intro taps a n hn hz hnew hfree
    exact ⟨_, routeChange_new hnew hn hz hfree, rfl⟩
  · intro taps a n hn hz hnew hfull
    exact routeChange_full hnew hn hz hfull
  · intro t won a s l hd hc hl
    have changed := applyRoute_changed hd hc hl
    rw [applyAction_routeSet t won a s (by rw [changed]), changed, okOf_eq]
  · intro t won a s hd hc
    simp only [applyAction, applyRoute_noTap hd hc, Bool.false_eq_true, if_false]
    exact finish_refused t s (by decide)

/-! GAIN_SET, ROUTE_CLEAR, DIRECT_SET and TESTGEN_SET at their boundary (R50, R55, R60–R64). -/

/-- An input whose every tap falls has no current tap (R50). -/
theorem currentTap_falling {taps : List Tap} {i : Fin 4} (h : ∀ t ∈ taps, t.input = i → t.n ≠ 0 ∧ t.up = false) :
    currentTap taps i = none := by
  have noRising : taps.find? (fun t => t.input = i && t.fading && t.up) = none := by
    rw [List.find?_eq_none]
    intro t ht
    simpa using fun hin _ => (h t ht hin).2
  have noSteady : taps.find? (fun t => t.input = i && !t.fading) = none := by
    rw [List.find?_eq_none]
    intro t ht
    simpa [Tap.fading] using fun hin => (h t ht hin).1
  simp only [currentTap, noRising, noSteady]

section GainAndClear

variable {d ms : Nat} {i : Fin 4} {g : Word} {s : State}

theorem applyGain_current {c : Tap} (h : currentTap (routeTaps s d) i = some c) :
    applyGain d i g ms s = (true, setTaps d ((routeTaps s d).map fun x =>
      if x = c then { x with gain := x.gain.rampTo g (rampSamples (fs s) (spt s) ms) } else x) s) := by
  simp only [applyGain, h]

theorem applyGain_noTap (h : currentTap (routeTaps s d) i = none) : applyGain d i g ms s = (false, s) := by
  simp only [applyGain, h]

/-- A clear that no later action overrides makes every tap fall. -/
theorem applyClear_ramp {taps : List Tap} {power : Bool} {skip : Nat → Bool} (hk : ∀ k, skip k = false)
    (hd : mapGet s.router.routes d = some taps) (hn : 0 < rampSamples (fs s) (spt s) ms) :
    applyClear d power ms skip s =
      setTaps d (taps.map fun x => x.fade false power (rampSamples (fs s) (spt s) ms)) s := by
  simp only [applyClear, hd, if_neg hn.ne', hk, Bool.false_eq_true, if_false]

end GainAndClear

section DirectPath

variable {x : Direct} {e : BitVec 16 × BitVec 16} {a b : BitVec 16} {g : Word} {n : Nat} {y : Blk}

/-- A DIRECT_SET on an inactive channel ramps from mute (R64). -/
theorem directChange_inactive (hx : x.ends = none) (hz : epNull a = false) :
    directChange x a b g n y = { x.takes y with ends := some (a, b), gain := Gain.mute.rampTo g n, next := none, releasing := false,
                                                left := 0 } := by
  simp only [directChange, hx, hz, Bool.false_eq_true, if_false]

theorem directChange_sameEnds (hx : x.ends = some (a, b)) (hz : epNull a = false) :
    directChange x a b g n y = { x with gain := x.gain.rampTo g n, next := none, releasing := false, left := 0 } := by
  simp only [directChange, hx, hz, Bool.false_eq_true, if_false, if_true]

/-- With other ends the channel ramps to mute first and keeps the change for the end of that ramp (R64). -/
theorem directChange_otherEnds (hx : x.ends = some e) (he : e ≠ (a, b)) (hz : epNull a = false) (hn : 0 < n) :
    directChange x a b g n y =
      { x with gain := x.gain.rampTo x.gain.muteWord n, next := some { source := a, dest := b, gain := g, n := n },
               releasing := false, left := n } := by
  simp only [directChange, hx, hz, Bool.false_eq_true, if_false, if_neg he, if_neg hn.ne']

/-- A null source ramps to mute and then releases (R64). -/
theorem directChange_release (hx : x.ends = some e) (hz : epNull a = true) (hn : 0 < n) :
    directChange x a b g n y = { x with gain := x.gain.rampTo x.gain.muteWord n, next := none, releasing := true, left := n } := by
  simp only [directChange, hx, hz, if_true, if_neg hn.ne']

variable {c : Fin 64} {ms : Nat} {s : State}

/-- A destination that the router or another channel holds is refused at the boundary too (R62). -/
theorem applyDirect_owned (hz : epNull a = false)
    (ho : (mapGet s.router.routes b.toNat).isSome = true ∨ directOwned s b (some c) = true) :
    applyDirect c a b g ms s = (some 0x42, s) := by
  have refused : (!epNull a && ((mapGet s.router.routes b.toNat).isSome || directOwned s b (some c))) = true := by
    simpa [hz] using ho
  simp only [applyDirect, refused, if_true]

theorem applyDirect_free
    (hf : epNull a = true ∨ ((mapGet s.router.routes b.toNat).isSome = false ∧ directOwned s b (some c) = false)) :
    applyDirect c a b g ms s = (none, { s with router := { s.router with
      directs := vset s.router.directs c
        (directChange s.router.directs[c] a b g (rampSamples (fs s) (spt s) ms) (sourceBlk s a.toNat)) } }) := by
  have taken : (!epNull a && ((mapGet s.router.routes b.toNat).isSome || directOwned s b (some c))) = false := by
    rcases hf with hz | ⟨hr, hd⟩
    · simp [hz]
    · simp [hr, hd]
  simp only [applyDirect, taken, Bool.false_eq_true, if_false]

end DirectPath

/-- Settles O7: the four commands at their boundary, each by what its own effect does in the case at hand. -/
theorem gainClearDirectAtTheirBoundary : Obligations.GainClearDirectAtTheirBoundary := by
  unfold Obligations.GainClearDirectAtTheirBoundary
  refine ⟨?_, ?_, fun _ _ => currentTap_falling, ?_, ?_, ?_, ?_, ?_, ?_, ?_, ?_⟩
  · intro t won d i g ms s c hc
    simp only [applyAction, applyGain_current hc, if_true, finish_ok, okOf_eq]
  · intro t won d i g ms s hc
    simp only [applyAction, applyGain_noTap hc, Bool.false_eq_true, if_false]
    exact finish_refused t s (by decide)
  · intro t won d p ms s taps hw hd hn
    simp only [applyAction, applyClear_ramp (fun _ => hw _) hd hn, finish_ok, okOf_eq]
    rfl
  · intro x a b g n y hx hz
    exact directChange_inactive hx hz
  · intro x a b g n y hx hz
    exact directChange_sameEnds hx hz
  · intro x e a b g n y hx he hz hn
    exact directChange_otherEnds hx he hz hn
  · intro x e a b g n y hx hz hn
    exact directChange_release hx hz hn
  · intro t won c a b g ms s hz ho
    simp only [applyAction, applyDirect_owned hz ho, Option.getD_some]
    exact finish_refused t s (by decide)
  · intro t won c a b g ms s hf
    simp only [applyAction, applyDirect_free hf, Option.getD_none, finish_ok, okOf_eq]
  · intro t won g a s
    exact ⟨_, rfl, rfl, rfl, rfl, rfl, fun hw => if_pos hw⟩

/-! ROUTE_BATCH and ROUTE_QUERY at their acceptance (R51–R53). -/

section BatchAndQuery

variable {h : CmdHdr} {s : State}

/-- A batch whose shape is right and whose whole list reads as valid entries is held with that list. -/
theorem exec_routeBatch_held {a : RouteBatchArgs} {l : List RouteAct} {n : Nat} {late : Bool} (ht : Taken h true s)
    (hn : schedule a.tick s = some (n, late)) (hd : dmaHalted s = false) (ha : aligned8 a.addr = true) (h1 : 1 ≤ a.count.toNat)
    (h2 : a.count.toNat ≤ 4096) (hv : a.version.toNat = if s.power.compat then 1 else 2)
    (hl : batchList (hostStores h.stores s) (!s.power.compat) a.addr.toNat a.count.toNat = some l)
    (hr : routeRefusal l (takenState h s) = none) :
    exec (.routeBatch h a) s = .next (hold n (ticketOf h s) late (.routeBatch l)
      ((newDests (takenState h s) l).foldl (fun u d => allocEntry d u) (takenState h s))) := by
  have version : a.version.toNat = if (!s.power.compat) = true then 2 else 1 := by
    rw [hv]; cases s.power.compat <;> rfl
  have shape : (aligned8 a.addr && decide (1 ≤ a.count.toNat) && decide (a.count.toNat ≤ 4096) &&
      decide (a.version.toNat = if (!s.power.compat) = true then 2 else 1)) = true := by
    simp only [ha, h1, h2, ← version, decide_true, Bool.and_self]
  simp only [exec, execRouteBatch, shape, hd, hl, Bool.and_false, Bool.false_eq_true, if_false, if_true, timedCmd_held ht rfl hn hr]

theorem exec_routeQuery_taken {dest : BitVec 16} (addr : BitVec 64) (ht : Taken h false s) (hd : dstExists s dest = true) :
    exec (.routeQuery h dest addr) s = .next
      { takenState h s with router := { (takenState h s).router with
          queries := (takenState h s).router.queries ++ [{ ticket := ticketOf h s, dest := dest, addr := addr }] } } := by
  simp only [exec, execRouteQuery, hd, Bool.not_true, untimedCmd_run ht rfl]

end BatchAndQuery

/-- Settles O5: the checks of the batch and of the query pass, so that they come down to `timedCmd_held` and `untimedCmd_run`. -/
theorem routeBatchHeldAndQueryQueued : Obligations.RouteBatchHeldAndQueryQueued := by
  unfold Obligations.RouteBatchHeldAndQueryQueued
  refine ⟨?_, ?_⟩
  · intro h a l s n late ht hn hd ha h1 h2 hv hl hr
    exact exec_routeBatch_held ht hn hd ha h1 h2 hv hl hr
  · intro h dest addr s ht hd
    exact exec_routeQuery_taken addr ht hd

/-! The values after reset (R528): a register not written reads its row's reset value, and memory not written reads 0. -/

theorem regGet_reset (off : Nat) : regGet State.reset off = regReset off := rfl

/-- A row lies outside an interval of offsets: it ends before it, or begins after it. -/
def RegRow.outside (lo hi : Nat) (r : RegRow) : Bool :=
  decide (r.base + max 1 (r.stride1 * r.count1) ≤ lo) || decide (hi ≤ r.base)

theorem RegRow.covers_eq_false_of_outside {r : RegRow} {lo hi off : Nat} (h : r.outside lo hi = true) (hlo : lo ≤ off)
    (hhi : off < hi) : r.covers off = false := by
  simp only [RegRow.outside, Bool.or_eq_true, decide_eq_true_eq] at h
  by_cases hb : off < r.base
  · simp only [RegRow.covers, if_pos hb]
  have after : r.base + max 1 (r.stride1 * r.count1) ≤ lo := h.resolve_right (by omega)
  by_cases h0 : r.stride1 = 0
  · simp only [RegRow.covers, if_neg hb, if_pos h0, decide_eq_false_iff_not]
    omega
  · have beyond : ¬ (off - r.base) / r.stride1 < r.count1 := by
      rw [Nat.div_lt_iff_lt_mul (Nat.pos_of_ne_zero h0), mul_comm]
      omega
    simp only [RegRow.covers, if_neg hb, if_neg h0, beyond, decide_false, Bool.false_and]

/-- An offset that some row covers has the reset value `v` if every row reaching into an interval around it has. -/
theorem regReset_of_interval {v : Word} {lo hi off : Nat} (hs : ¬ (0x8400 ≤ off ∧ off < 0x8800)) (hlo : lo ≤ off) (hhi : off < hi)
    (hall : ∀ q ∈ regRows, q.outside lo hi = true ∨ q.reset = v) (hex : ∃ r ∈ regRows, r.covers off = true) :
    regReset off = v := by
  obtain ⟨q, hq⟩ := Option.isSome_iff_exists.mp (List.find?_isSome.mpr hex)
  have covers : q.covers off = true := List.find?_some (p := fun r : RegRow => r.covers off) hq
  have reset : q.reset = v := (hall q (List.mem_of_find?_eq_some hq)).resolve_left fun out => by
    simp [RegRow.covers_eq_false_of_outside out hlo hhi] at covers
  simp only [regReset, regRow, if_neg hs, hq, reset]

/-- The row of METER_SRC_e (R71). -/
def meterSrcRow : RegRow := ⟨"METER_SRC_e", 0xD400, 0x4, 1024, 0x0, 1, 0xFFFF, 0x0, 0x0, 0x0, 0x0, 0xF000⟩

theorem meterSrcRow_mem : meterSrcRow ∈ regRows := by decide

theorem meterSrcRow_covers (e : Fin 1024) : meterSrcRow.covers (Reg.meterSrc e) = true := by
  simp [RegRow.covers, meterSrcRow, Reg.meterSrc]

/-- No other row reaches into the offsets of METER_SRC_e. -/
theorem regRows_meterSrc : ∀ q ∈ regRows, q.outside 0xD400 0xE400 = true ∨ q.reset = 0xF000 := by decide +kernel

theorem regReset_meterSrc (e : Fin 1024) : regReset (Reg.meterSrc e) = 0xF000 := by
  have he := e.isLt
  have offset : Reg.meterSrc e = 0xD400 + 0x4 * e.val := rfl
  exact regReset_of_interval (by omega) (by omega) (by omega) regRows_meterSrc ⟨_, meterSrcRow_mem, meterSrcRow_covers e⟩

/-- Memory that nothing has written reads as zeros. -/
theorem memRead_nil (a n : Nat) : memRead [] a n = List.replicate n 0 := by
  induction n generalizing a with
  | zero => rfl
  | succ n ih => rw [memRead, ih, List.replicate_succ]; rfl

theorem hostMem_reset : hostMem State.reset = [] := by
  unfold hostMem
  split <;> rfl

theorem memoryInv_reset : MemoryInv State.reset := ⟨rfl, rfl, rfl⟩

/-- A link that is not framed has told its partner nothing that could have changed (R181). -/
theorem discoverStale_unframed {s : State} {n : Fin 16} (h : s.links[n].framed = false) : discoverStale s n = false := by
  simp only [discoverStale, h, Bool.false_and]

theorem settled_reset : Settled State.reset := by
  refine ⟨rfl, rfl, ?_⟩
  rw [List.any_eq_false]
  intro n _
  have unframed : State.reset.links[n].framed = false := by simp [State.reset, Link.reset]
  simp [discoverStale_unframed unframed]

theorem regReset_psCh : ∀ c : Fin 8, regReset (Reg.psChCfg c) = 0x00140064 ∧ regReset (Reg.psChBudget c) = 0x4E2 := by decide

theorem psCh_reset_stopped (c : Fin 8) : State.reset.ps.ch[c].state = .stopped := by
  simp [State.reset, PowerStage.reset, PsCh.reset]

/-- Settles O57: the registers by the rows that cover them, the rest by the state after reset. -/
theorem resetLeavesTheGivenValues : Obligations.ResetLeavesTheGivenValues := by
  unfold Obligations.ResetLeavesTheGivenValues
  simp only [regGet_reset]
  refine ⟨?_, ?_, regReset_meterSrc, ?_, ?_, ?_, memoryInv_reset, settled_reset, ?_⟩
  · decide
  · decide
  · decide
  · intro c
    obtain ⟨cfg, budget⟩ := regReset_psCh c
    exact ⟨cfg, budget, psCh_reset_stopped c⟩
  · exact ⟨rfl, rfl, rfl, rfl, rfl, rfl, rfl, rfl, rfl, rfl, rfl⟩
  · intro a n
    rw [hostRead, hostMem_reset, memRead_nil]

end Sys2Proof.Machine

namespace Sys2Proof.Machine

/-! A TILE_SWAP on one tile (R125, R126): the page it activates, what it clears, and what it leaves alone. -/

section TileSwap

variable {t : Tile} {pg : Page}

/-- The registers of a bank after a swap to an image with its CLEAR flag set (R126). -/
def Bank.cleared (b : Bank) : Bank := { b with v := [], a := [], p := Vector.replicate 8 Ptr.reset }

/-- Bank B at the first row of a background program, its counters inactive and no result in flight (R125). -/
def Bank.restarted (b : Bank) (bgProg : Option (Nat × Nat)) : Bank :=
  { b with flights := [], ctr := Vector.replicate 4 none, rbase := 0, pc := bgProg.elim 0 (·.1) }

theorem standby_eq (t : Tile) : standby t = 1 - t.active := by
  have other : ∀ a : Fin 2, (if a = 0 then (1 : Fin 2) else 0) = 1 - a := by decide
  exact other t.active

theorem Tile.swap_active (t : Tile) : t.swap.active = 1 - t.active := standby_eq t

theorem Tile.swap_bankT (h : t.standbyPage = some pg) :
    t.swap.bankT = if pg.clearT then t.bankT.cleared else t.bankT := by
  have active : Tile.page { t with active := standby t } = some pg := h
  simp only [Tile.swap, active, Option.elim_some, Bank.cleared]

theorem Tile.swap_bankB (h : t.standbyPage = some pg) :
    t.swap.bankB = if pg.clearB then (t.bankB.restarted pg.bgProg).cleared else t.bankB.restarted pg.bgProg := by
  have active : Tile.page { t with active := standby t } = some pg := h
  simp only [Tile.swap, active, Option.elim_some, Option.bind_some, Bank.cleared, Bank.restarted]

/-- Whatever the standby page holds, no result of bank B is in flight after a swap, its counters are inactive and its window
base is 0 (R125). -/
theorem Tile.swap_bankB_restarted (t : Tile) :
    t.swap.bankB.flights = [] ∧ t.swap.bankB.ctr = Vector.replicate 4 none ∧ t.swap.bankB.rbase = 0 := by
  unfold Tile.swap
  dsimp only
  split <;> exact ⟨rfl, rfl, rfl⟩

end TileSwap

/-! TILE_SWAP, PARAM_WRITE and RAMP_SET at their boundary (R126–R128, R133, R134): one equation per outcome. -/

section TileBoundary

variable {l : List (Fin 16)} {n : Fin 16} {s : State} {words : List (Nat × Word)}

theorem any_fenced_eq_false (h : ∀ m ∈ l, fenced s (.tile m) = false) : (l.any fun m => fenced s (.tile m)) = false := by
  simpa [List.any_eq_false] using h

theorem applySwap_unfenced (h : ∀ m ∈ l, fenced s (.tile m) = false ∧ s.tiles[m].standbyPage ≠ none) :
    applySwap l s = (0, l.foldl (fun u m => tileMod m Tile.swap u) s) := by
  have loaded : (l.any fun m => decide (s.tiles[m].standbyPage = none)) = false := by
    simpa only [List.any_eq_false, decide_eq_true_eq] using fun m hm => (h m hm).2
  simp only [applySwap, any_fenced_eq_false fun m hm => (h m hm).1, loaded, Bool.false_eq_true, if_false]
  rfl

theorem applySwap_fenced (hn : n ∈ l) (hf : fenced s (.tile n) = true) : applySwap l s = (0x48, s) :=
  if_pos (List.any_eq_true.mpr ⟨n, hn, hf⟩)

theorem applySwap_empty (hf : ∀ m ∈ l, fenced s (.tile m) = false) (hn : n ∈ l) (he : s.tiles[n].standbyPage = none) :
    applySwap l s = (0x45, s) := by
  have empty : (l.any fun m => decide (s.tiles[m].standbyPage = none)) = true :=
    List.any_eq_true.mpr ⟨n, hn, decide_eq_true he⟩
  simp only [applySwap, any_fenced_eq_false hf, empty, Bool.false_eq_true, if_false, if_true]

theorem applyParams_free (h : ∀ w ∈ words, s.tiles[n].isParam w.1 = true ∧ s.tiles[n].rampBound (spt s) none w.1 = false ∧
      limitBound s n w.1 = false) :
    applyParams n words s = (0, words.foldl (fun u w => writeWord n w.1 w.2 u) s) := by
  have params : (words.all fun w => s.tiles[n].isParam w.1) = true := List.all_eq_true.mpr fun w hw => (h w hw).1
  have noRamp : (words.any fun w => s.tiles[n].rampBound (spt s) none w.1) = false := by
    simpa only [List.any_eq_false, Bool.not_eq_true] using fun w hw => (h w hw).2.1
  have noLimit : (words.any fun w => limitBound s n w.1) = false := by
    simpa only [List.any_eq_false, Bool.not_eq_true] using fun w hw => (h w hw).2.2
  simp only [applyParams, params, noRamp, noLimit, Bool.not_true, Bool.false_eq_true, if_false]
  rfl

/-- A word outside every PARAM region keeps the list from being all parameters. -/
theorem all_isParam_eq_false {w : Nat × Word} {t : Tile} (hw : w ∈ words) (hp : t.isParam w.1 = false) :
    (words.all fun w => t.isParam w.1) = false :=
  List.all_eq_false.mpr ⟨w, hw, Bool.eq_false_iff.mp hp⟩

theorem applyParams_notParam {w : Nat × Word} (hw : w ∈ words) (hp : s.tiles[n].isParam w.1 = false) :
    applyParams n words s = (0x46, s) := by
  simp only [applyParams, all_isParam_eq_false hw hp, Bool.not_false, if_true]

theorem applyRampSet_release (u : Fin 64) {a : RampSetArgs} (ms : Nat) (hf : fenced s (.tile n) = false)
    (hr : a.release = true) :
    applyRampSet n u a ms s = (0, tileMod n (fun t => { t with units := vset t.units u RampUnit.reset }) s) := by
  simp only [applyRampSet, hf, hr, Bool.false_eq_true, if_false, if_true]
  rfl

end TileBoundary

/-- Settles O10: a swap of one tile is the restart of bank B and the clearing of the banks the image flags, and the commands at
their boundary turn on the fence and on the words' regions and bindings. -/
theorem tileCommandsAtTheirBoundary : Obligations.TileCommandsAtTheirBoundary := by
  unfold Obligations.TileCommandsAtTheirBoundary
  refine ⟨?_, ?_, ?_, ?_, ?_, ?_, ?_, ?_⟩
  · intro t
    exact ⟨t.swap_active, rfl, rfl, rfl, rfl, t.swap_bankB_restarted⟩
  · intro t pg h
    rw [Tile.swap_bankT h, Tile.swap_bankB h]
    refine ⟨fun hT => ?_, fun hT => ?_, fun hB => ?_, ?_⟩
    · rw [if_pos hT]; exact ⟨rfl, rfl, rfl⟩
    · rw [hT]; rfl
    · rw [hB]; exact ⟨rfl, rfl, rfl⟩
    · split <;> rfl
  · intro l s h
    exact applySwap_unfenced h
  · intro l n s hn hf
    exact applySwap_fenced hn hf
  · intro l n s hf hn he
    exact applySwap_empty hf hn he
  · intro n l s h
    exact applyParams_free h
  · intro n l w s hw hp
    exact applyParams_notParam hw hp
  · intro n u a ms s hf hr
    exact applyRampSet_release u ms hf hr

/-! What the taking of a descriptor leaves of the tiles, the fences and the tick's length. -/

@[simp] theorem takenState_tiles (h : CmdHdr) (s : State) : (takenState h s).tiles = s.tiles := by rw [takenState_eq]

@[simp] theorem fenced_takenState (h : CmdHdr) (s : State) (u : FenceUnit) : fenced (takenState h s) u = fenced s u := by
  rw [takenState_eq]; rfl

@[simp] theorem spt_takenState (h : CmdHdr) (s : State) : spt (takenState h s) = spt s := by rw [takenState_eq]; rfl

/-! TILE_SWAP, PARAM_WRITE and RAMP_SET at their acceptance (R125, R128, R132–R134). -/

section TileHeld

variable {h : CmdHdr} {s : State} {n : Nat} {late : Bool}

section Swap

variable {tick : BitVec 64} {mask : BitVec 16} {k : Fin 16}

theorem exec_tileSwap_held (ht : Taken h true s) (hn : schedule tick s = some (n, late)) (hm : mask ≠ 0)
    (hl : ∀ j : Fin 16, j ∈ maskUnits 16 mask.toNat → s.tiles[j].load = none ∧ s.tiles[j].standbyPage ≠ none) :
    exec (.tileSwap h tick mask) s = .next (hold n (ticketOf h s) late (.tileSwap mask) (takenState h s)) := by
  have idle : ((maskUnits 16 mask.toNat).any fun (j : Fin 16) => s.tiles[j].load.isSome) = false := by
    simpa only [List.any_eq_false, Option.not_isSome_iff_eq_none] using fun j hj => (hl j hj).1
  have loaded : ((maskUnits 16 mask.toNat).any fun (j : Fin 16) => decide (s.tiles[j].standbyPage = none)) = false := by
    simpa only [List.any_eq_false, decide_eq_true_eq] using fun j hj => (hl j hj).2
  simp only [exec, execTileSwap]
  rw [timedCmd_held ht (decide_eq_false hm) hn (by
    simp only [takenState_tiles, idle, loaded, Bool.false_eq_true, if_false])]
  rfl

theorem exec_tileSwap_busy (ht : Taken h true s) (hn : schedule tick s = some (n, late)) (hm : mask ≠ 0)
    (hk : k ∈ maskUnits 16 mask.toNat) (hl : s.tiles[k].load ≠ none) :
    exec (.tileSwap h tick mask) s = .next (complete (ticketOf h s) 0x44 0 (takenState h s)) := by
  have busy : ((maskUnits 16 mask.toNat).any fun (j : Fin 16) => s.tiles[j].load.isSome) = true :=
    List.any_eq_true.mpr ⟨k, hk, Option.isSome_iff_ne_none.mpr hl⟩
  simp only [exec, execTileSwap]
  rw [timedCmd_refused (st := 0x44) (sp := 0) ht (decide_eq_false hm) hn (by simp only [takenState_tiles, busy, if_true])]

theorem exec_tileSwap_empty (ht : Taken h true s) (hn : schedule tick s = some (n, late)) (hm : mask ≠ 0)
    (hl : ∀ j : Fin 16, j ∈ maskUnits 16 mask.toNat → s.tiles[j].load = none) (hk : k ∈ maskUnits 16 mask.toNat)
    (he : s.tiles[k].standbyPage = none) :
    exec (.tileSwap h tick mask) s = .next (complete (ticketOf h s) 0x45 0 (takenState h s)) := by
  have idle : ((maskUnits 16 mask.toNat).any fun (j : Fin 16) => s.tiles[j].load.isSome) = false := by
    simpa only [List.any_eq_false, Option.not_isSome_iff_eq_none] using hl
  have empty : ((maskUnits 16 mask.toNat).any fun (j : Fin 16) => decide (s.tiles[j].standbyPage = none)) = true :=
    List.any_eq_true.mpr ⟨k, hk, decide_eq_true he⟩
  simp only [exec, execTileSwap]
  rw [timedCmd_refused (st := 0x45) (sp := 0) ht (decide_eq_false hm) hn (by
    simp only [takenState_tiles, idle, empty, Bool.false_eq_true, if_false, if_true])]

end Swap

section Param

variable {a : ParamWriteArgs} {k : Fin 16}

/-- Inline words are the descriptor's own: no host memory is read for them, so that a halted DMA engine does not matter. -/
theorem exec_paramWrite_inline (hk : a.tile.toNat = k.val) (hi : a.inline_ = true) :
    exec (.paramWrite h a) s = .next (timedCmd h a.tick (paramBad a)
      (fun u => if (paramWords a a.data).all fun w => u.tiles[k].isParam w.1 then none else some (0x46, 0))
      noPre (.paramWrite k (paramWords a a.data)) s) := by
  simp only [exec, execParamWrite, toFin?_some hk, hi, Bool.not_true, Bool.and_false, Bool.false_and, Bool.false_eq_true,
    if_false, if_true]

theorem exec_paramWrite_held (ht : Taken h true s) (hn : schedule a.tick s = some (n, late)) (hk : a.tile.toNat = k.val)
    (hi : a.inline_ = true) (hb : paramBad a = false) (hp : ∀ w ∈ paramWords a a.data, s.tiles[k].isParam w.1 = true) :
    exec (.paramWrite h a) s = .next (hold n (ticketOf h s) late (.paramWrite k (paramWords a a.data)) (takenState h s)) := by
  have params : ((paramWords a a.data).all fun w => s.tiles[k].isParam w.1) = true := List.all_eq_true.mpr hp
  rw [exec_paramWrite_inline hk hi, timedCmd_held ht hb hn (by simp only [takenState_tiles, params, if_true])]
  rfl

theorem exec_paramWrite_notParam (ht : Taken h true s) (hn : schedule a.tick s = some (n, late)) (hk : a.tile.toNat = k.val)
    (hi : a.inline_ = true) (hb : paramBad a = false) (hp : ∃ w ∈ paramWords a a.data, s.tiles[k].isParam w.1 = false) :
    exec (.paramWrite h a) s = .next (complete (ticketOf h s) 0x46 0 (takenState h s)) := by
  obtain ⟨w, hw, hp⟩ := hp
  rw [exec_paramWrite_inline hk hi, timedCmd_refused (st := 0x46) (sp := 0) ht hb hn (by
    simp only [takenState_tiles, all_isParam_eq_false hw hp, Bool.false_eq_true, if_false])]

end Param

theorem exec_rampSet_held {a : RampSetArgs} {k : Fin 16} {u : Fin 64} {ms : Nat} (ht : Taken h true s)
    (hn : schedule a.tick s = some (n, late)) (hk : a.tile.toNat = k.val) (hu : a.unit.toNat = u.val)
    (hb : rampBad s a = false) (hm : rampField s 10000 a.rampMs = some ms) (hf : fenced s (.tile k) = false)
    (hp : a.release = true ∨ ∀ w ∈ (rampSet a).words (spt s), s.tiles[k].isParam w = true) :
    exec (.rampSet h a) s = .next (hold n (ticketOf h s) late (.rampSet k u a ms) (takenState h s)) := by
  have params : (a.release || ((rampSet a).words (spt s)).all s.tiles[k].isParam) = true := by
    simpa only [Bool.or_eq_true, List.all_eq_true] using hp
  simp only [exec, execRampSet, toFin?_some hk, toFin?_some hu, hm]
  rw [timedCmd_held ht hb hn (by
    simp only [takenState_tiles, fenced_takenState, spt_takenState, hf, params, Bool.false_eq_true, if_false, if_true])]
  rfl

end TileHeld

/-- Settles O9: the checks at acceptance read the tiles, which the taking of the descriptor leaves as they are, so that each case
comes down to `timedCmd_held` or `timedCmd_refused`. -/
theorem tileTimedCommandsHeld : Obligations.TileTimedCommandsHeld := by
  unfold Obligations.TileTimedCommandsHeld
  refine ⟨?_, ?_, ?_, ?_, ?_, ?_⟩
  · intro h tick mask s n late ht hn hm hl
    exact exec_tileSwap_held ht hn hm hl
  · intro h tick mask k s n late ht hn hm hk hl
    exact exec_tileSwap_busy ht hn hm hk hl
  · intro h tick mask k s n late ht hn hm hl hk he
    exact exec_tileSwap_empty ht hn hm hl hk he
  · intro h a k s n late ht hn hk hi hb hp
    exact exec_paramWrite_held ht hn hk hi hb hp
  · intro h a k s n late ht hn hk hi hb hp
    exact exec_paramWrite_notParam ht hn hk hi hb hp
  · intro h a k u ms s n late ht hn hk hu hb hm hf hp
    exact exec_rampSet_held ht hn hk hu hb hm hf hp

/-! TILE_LOAD, its end, TILE_CLEAR, DMEM_READ and RAMP_QUERY (R111, R123, R124, R130, R135). -/

section TileUntimed

variable {h : CmdHdr} {s : State} {n : Fin 16}

theorem exec_tileLoad_taken {a : TileLoadArgs} (ht : Taken h false s) (hk : a.tile.toNat = n.val) (ha : aligned8 a.addr = true)
    (hb : pageBusy (takenState h s) n = false) (hd : dmaHalted (takenState h s) = false) :
    exec (.tileLoad h a) s = .next (tileMod n (fun x =>
      { x with load := some { ticket := ticketOf h s, addr := a.addr, length := a.length.toNat } })
      (hostReadReq a.addr.toNat (imageBytes a.length.toNat) (tileMod n Tile.emptyStandby (takenState h s)))) := by
  simp only [exec, execTileLoad, toFin?_some hk]
  rw [untimedCmd_run ht (by simp [ha])]
  simp only [hb, hd, Bool.false_eq_true, if_false]

section LoadComplete

variable {l : TileLoad}

/-- The machine once the image of a load has been read: the load has ended, and CRC_7 holds the image's check value (R423). -/
def imageRead (n : Fin 16) (l : TileLoad) (s : State) : State :=
  crcLeft 7 (crc32c (imageCrcBytes (hostRead s l.addr.toNat l.length)))
    (imageCrcBytes (hostRead s l.addr.toNat l.length)).length (tileMod n (fun t => { t with load := none }) s)

theorem imageBytes_of_le {k : Nat} (h : k ≤ 0x300000) : imageBytes k = k := if_pos h

theorem exec_tileLoadComplete_good {pg : Page} {init : List (Nat × List Word)} (hl : s.tiles[n].load = some l)
    (hd : dmaHalted s = false) (hlen : l.length ≤ 0x300000) (hw : readWaits (.dma 32) l.addr.toNat l.length s = false)
    (hc : checkImage s s.tiles[n].page l.length (hostRead s l.addr.toNat l.length) = .good pg init) :
    exec (.tileLoadComplete n) s = .next (complete l.ticket 0 pg.count (tileMod n (fun t =>
      { t with pages := vset t.pages (standby t) (some pg),
               mem := init.foldl (fun m e => mapPutList 0 m e.1 e.2) t.mem }) (imageRead n l s))) := by
  simp only [exec, execTileLoadComplete, hl, imageBytes_of_le hlen, hd, hw, hc, Bool.false_eq_true, if_false]
  rfl

theorem exec_tileLoadComplete_bad {st sp : Nat} (hl : s.tiles[n].load = some l) (hd : dmaHalted s = false)
    (hlen : l.length ≤ 0x300000) (hw : readWaits (.dma 32) l.addr.toNat l.length s = false)
    (hc : checkImage s s.tiles[n].page l.length (hostRead s l.addr.toNat l.length) = .bad st sp) :
    exec (.tileLoadComplete n) s = .next (complete l.ticket st sp (imageRead n l s)) := by
  simp only [exec, execTileLoadComplete, hl, imageBytes_of_le hlen, hd, hw, hc, Bool.false_eq_true, if_false]
  rfl

end LoadComplete

/-- A TILE_CLEAR of an existing tile turns on PAGE_BUSY alone (R122, R124). -/
theorem exec_tileClear_taken {tile : Byte} (ht : Taken h false s) (hk : tile.toNat = n.val) :
    exec (.tileClear h tile) s = .next (if pageBusy (takenState h s) n then complete (ticketOf h s) 0x44 0 (takenState h s)
      else complete (ticketOf h s) 0 0 (tileMod n Tile.emptyStandby (takenState h s))) := by
  simp only [exec, execTileClear, toFin?_some hk]
  rw [untimedCmd_run ht rfl]
  rfl

theorem exec_dmemRead_taken {a : DmemReadArgs} (ht : Taken h false s) (hk : a.tile.toNat = n.val) (h1 : 1 ≤ a.count.toNat)
    (h2 : a.count.toNat ≤ 256) (ha : a.resultAddr.toNat % 4 = 0) :
    exec (.dmemRead h a) s = .next (tileMod n (fun x => { x with reads := x.reads ++
      [{ ticket := ticketOf h s, waddr := a.waddr.toNat, count := a.count.toNat, addr := a.resultAddr }] }) (takenState h s)) := by
  have wellFormed : (decide (a.count.toNat = 0) || decide (256 < a.count.toNat) || decide (a.resultAddr.toNat % 4 ≠ 0)) = false := by
    simp only [Bool.or_eq_false_iff, decide_eq_false_iff_not]
    omega
  simp only [exec, execDmemRead, toFin?_some hk]
  rw [untimedCmd_run ht wellFormed]

theorem exec_rampQuery_taken {tile : Byte} (addr : BitVec 64) (ht : Taken h false s) (hk : tile.toNat = n.val) :
    exec (.rampQuery h tile addr) s =
      .next (tileMod n (fun x => { x with queries := x.queries ++ [(ticketOf h s, addr)] }) (takenState h s)) := by
  simp only [exec, execRampQuery, toFin?_some hk]
  rw [untimedCmd_run ht rfl]

end TileUntimed

/-- Settles O8: the fields of each command pass its checks, so that it comes down to `untimedCmd_run`, and the end of a load to
what `checkImage` finds. -/
theorem tileLoadsAndQueriesTaken : Obligations.TileLoadsAndQueriesTaken := by
  unfold Obligations.TileLoadsAndQueriesTaken
  refine ⟨?_, ?_, ?_, ?_, ?_, ?_, ?_⟩
  · intro h a n s ht hk ha hb hd
    exact exec_tileLoad_taken ht hk ha hb hd
  · intro n l pg init s hl hd hlen hw hc
    exact exec_tileLoadComplete_good hl hd hlen hw hc
  · intro n l st sp s hl hd hlen hw hc
    exact exec_tileLoadComplete_bad hl hd hlen hw hc
  · intro h tile n s ht hk hb
    rw [exec_tileClear_taken ht hk, hb]; rfl
  · intro h tile n s ht hk hb
    rw [exec_tileClear_taken ht hk, hb]; rfl
  · intro h a n s ht hk h1 h2 ha
    exact exec_dmemRead_taken ht hk h1 h2 ha
  · intro h tile addr n s ht hk
    exact exec_rampQuery_taken addr ht hk

end Sys2Proof.Machine

namespace Sys2Proof.Machine

/-! What the taking of a descriptor leaves of the objects and the DMA channels. -/

@[simp] theorem objOf_takenState (h : CmdHdr) (s : State) (k : Nat) : objOf (takenState h s) k = objOf s k := by
  rw [takenState_eq]; rfl

@[simp] theorem dmaHalted_takenState (h : CmdHdr) (s : State) : dmaHalted (takenState h s) = dmaHalted s := by
  rw [takenState_eq]; rfl

/-! The object that a timed command needs (R155): one equation of `needObj` for each of its outcomes. -/

section NeedObj

variable {hd : BitVec 16} {ty : Nat} {range : BObj → Bool} {o : BObj} {s : State}

theorem needObj_missing (ho : objOf s hd.toNat = none) : needObj hd ty range s = some (0x41, 0) := by
  simp only [needObj, ho]

theorem needObj_wrongType (ho : objOf s hd.toNat = some o) (hk : o.kind.code ≠ ty) :
    needObj hd ty range s = some (0x46, 0) := by
  simp only [needObj, ho, if_pos hk]

theorem needObj_fits (ho : objOf s hd.toNat = some o) (hk : o.kind.code = ty) (hr : range o = true) :
    needObj hd ty range s = none := by
  simp only [needObj, ho, hk, ne_eq, not_true_eq_false, if_false, hr, if_true]

end NeedObj

/-! OBJ_FREE, DELAY_SET, PLAY_START, PLAY_STOP, CAPTURE_CTRL and SNAP_TAKE at their acceptance (R144, R148–R155). -/

section ObjectHeld

variable {h : CmdHdr} {s : State} {n ms : Nat} {late : Bool} {o : BObj} {tick : BitVec 64} {hd : BitVec 16}

theorem exec_objFree_held (ht : Taken h true s) (hn : schedule tick s = some (n, late)) (ho : objOf s hd.toNat = some o) :
    exec (.objFree h tick hd) s = .next (hold n (ticketOf h s) late (.objFree hd.toNat) (takenState h s)) := by
  simp only [exec, execObjFree]
  rw [timedCmd_held ht rfl hn (by simp only [objOf_takenState, ho, Option.isSome_some, if_true])]
  rfl

theorem exec_objFree_missing (ht : Taken h true s) (hn : schedule tick s = some (n, late)) (ho : objOf s hd.toNat = none) :
    exec (.objFree h tick hd) s = .next (complete (ticketOf h s) 0x41 0 (takenState h s)) := by
  simp only [exec, execObjFree]
  rw [timedCmd_refused (st := 0x41) (sp := 0) ht rfl hn (by
    simp only [objOf_takenState, ho, Option.isSome_none, Bool.false_eq_true, if_false])]

section Delay

variable {a : DelaySetArgs} {p : Bool}

/-- With a valid LAW, RAMP_MS and MODE, a DELAY_SET turns on its object alone (R148). -/
theorem exec_delaySet_valid (hlaw : a.law.toNat < 4) (hl : lawField s (BitVec.ofNat 2 a.law.toNat) = some p)
    (hm : rampField s 1000 a.rampMs = some ms) :
    exec (.delaySet h a) s = .next (timedCmd h a.tick (decide (1 < a.mode.toNat))
      (needObj a.handle 1 fun o => decide (a.delay.toNat ≤ o.size)) noPre
      (.delaySet a.handle.toNat (decide (a.mode = 1)) p a.delay.toNat ms) s) := by
  simp only [exec, execDelaySet, if_pos hlaw, hl, hm]

theorem exec_delaySet_held (ht : Taken h true s) (hn : schedule a.tick s = some (n, late))
    (ho : objOf s a.handle.toNat = some o) (hk : o.kind.code = 1) (hdelay : a.delay.toNat ≤ o.size) (hlaw : a.law.toNat < 4)
    (hmode : a.mode.toNat ≤ 1) (hl : lawField s (BitVec.ofNat 2 a.law.toNat) = some p)
    (hm : rampField s 1000 a.rampMs = some ms) :
    exec (.delaySet h a) s = .next (hold n (ticketOf h s) late
      (.delaySet a.handle.toNat (decide (a.mode = 1)) p a.delay.toNat ms) (takenState h s)) := by
  rw [exec_delaySet_valid hlaw hl hm, timedCmd_held ht (decide_eq_false hmode.not_gt) hn
    (needObj_fits ((objOf_takenState ..).trans ho) hk (decide_eq_true hdelay))]
  rfl

theorem exec_delaySet_wrongType (ht : Taken h true s) (hn : schedule a.tick s = some (n, late))
    (ho : objOf s a.handle.toNat = some o) (hk : o.kind.code ≠ 1) (hlaw : a.law.toNat < 4) (hmode : a.mode.toNat ≤ 1)
    (hl : lawField s (BitVec.ofNat 2 a.law.toNat) = some p) (hm : rampField s 1000 a.rampMs = some ms) :
    exec (.delaySet h a) s = .next (complete (ticketOf h s) 0x46 0 (takenState h s)) := by
  rw [exec_delaySet_valid hlaw hl hm, timedCmd_refused ht (decide_eq_false hmode.not_gt) hn
    (needObj_wrongType ((objOf_takenState ..).trans ho) hk)]

end Delay

theorem exec_playStart_held {a : PlayStartArgs} (ht : Taken h true s) (hn : schedule a.tick s = some (n, late))
    (ho : objOf s a.handle.toNat = some o) (hk : o.kind.code = 2) (hstart : a.startFrame.toNat < o.size)
    (hloop : a.loopStart.toNat < o.size) (hg : gainWordValid a.gain = true) (hm : rampField s 1000 a.rampMs = some ms) :
    exec (.playStart h a) s = .next (hold n (ticketOf h s) late (.playStart a.handle.toNat
      (if a.loop then some a.loopStart.toNat else none) a.startFrame.toNat a.gain ms) (takenState h s)) := by
  simp only [exec, execPlayStart, hm]
  rw [timedCmd_held ht (by simp only [hg, Bool.not_true]) hn (needObj_fits ((objOf_takenState ..).trans ho) hk
    (by simp only [hstart, hloop, decide_true, Bool.and_self]))]
  rfl

/-- With a valid RAMP_MS a PLAY_STOP turns on its object alone (R151). -/
theorem exec_playStop_valid {r : BitVec 16} (hm : rampField s 1000 r = some ms) :
    exec (.playStop h tick hd r) s =
      .next (timedCmd h tick false (needObj hd 2 fun _ => true) noPre (.playStop hd.toNat ms) s) := by
  simp only [exec, execPlayStop, hm]

theorem exec_playStop_held {r : BitVec 16} (ht : Taken h true s) (hn : schedule tick s = some (n, late))
    (ho : objOf s hd.toNat = some o) (hk : o.kind.code = 2) (hm : rampField s 1000 r = some ms) :
    exec (.playStop h tick hd r) s = .next (hold n (ticketOf h s) late (.playStop hd.toNat ms) (takenState h s)) := by
  rw [exec_playStop_valid hm, timedCmd_held ht rfl hn (needObj_fits ((objOf_takenState ..).trans ho) hk rfl)]
  rfl

theorem exec_playStop_missing {r : BitVec 16} (ht : Taken h true s) (hn : schedule tick s = some (n, late))
    (ho : objOf s hd.toNat = none) (hm : rampField s 1000 r = some ms) :
    exec (.playStop h tick hd r) s = .next (complete (ticketOf h s) 0x41 0 (takenState h s)) := by
  rw [exec_playStop_valid hm, timedCmd_refused ht rfl hn (needObj_missing ((objOf_takenState ..).trans ho))]

/-- START_FRAME of a CAPTURE_CTRL must lie in the ring unless its ACTION is 3 (R152). -/
theorem exec_captureCtrl_held {a : CaptureCtrlArgs} (ht : Taken h true s) (hn : schedule a.tick s = some (n, late))
    (ho : objOf s a.handle.toNat = some o) (hk : o.kind.code = 3) (h1 : 1 ≤ a.action.toNat) (h3 : a.action.toNat ≤ 3)
    (hr : a.action.toNat = 3 ∨ a.startFrame.toNat < o.size) :
    exec (.captureCtrl h a) s = .next (hold n (ticketOf h s) late
      (.captureCtrl a.handle.toNat a.action.toNat a.startFrame.toNat) (takenState h s)) := by
  have wellFormed : (decide (a.action.toNat = 0) || decide (3 < a.action.toNat)) = false := by
    simp only [Bool.or_eq_false_iff, decide_eq_false_iff_not]
    omega
  have inRange : (decide (a.action.toNat = 3) || decide (a.startFrame.toNat < o.size)) = true := by
    simpa only [Bool.or_eq_true, decide_eq_true_eq] using hr
  simp only [exec, execCaptureCtrl]
  rw [timedCmd_held ht wellFormed hn (needObj_fits ((objOf_takenState ..).trans ho) hk inRange)]
  rfl

section Snap

variable {a : SnapTakeArgs} {l : List SnapItem}

/-- A SNAP_TAKE is not refused when its list reads as valid items that the snapshot has room for (R154, R155). -/
theorem snapRefusal_fits (hrun : dmaHalted s = false) (ho : objOf s a.handle.toNat = some o) (hk : o.kind.code = 4)
    (hfit : l.foldl (fun x i => x + i.count) 0 ≤ o.size) : snapRefusal a (some l) s = none := by
  simp only [snapRefusal, needObj_fits (range := fun _ => true) ho hk rfl, hrun, Bool.false_eq_true, if_false]
  exact needObj_fits (range := fun o => decide (l.foldl (fun x i => x + i.count) 0 ≤ o.size)) ho hk (decide_eq_true hfit)

theorem exec_snapTake_held (ht : Taken h true s) (hn : schedule a.tick s = some (n, late)) (h1 : 1 ≤ a.count.toNat)
    (h256 : a.count.toNat ≤ 256) (ha : aligned8 a.addr = true) (hrun : dmaHalted s = false)
    (ho : objOf s a.handle.toNat = some o) (hk : o.kind.code = 4)
    (hl : snapList (hostStores h.stores s) a.addr.toNat a.count.toNat = some l)
    (hfit : l.foldl (fun x i => x + i.count) 0 ≤ o.size) :
    exec (.snapTake h a) s = .next (hold n (ticketOf h s) late (.snapTake a.handle.toNat l) (takenState h s)) := by
  have wellFormed : (decide (a.count.toNat = 0) || decide (256 < a.count.toNat) || !aligned8 a.addr) = false := by
    simp only [ha, Bool.not_true, Bool.or_false, Bool.or_eq_false_iff, decide_eq_false_iff_not]
    omega
  simp only [exec, execSnapTake, hl]
  rw [timedCmd_held ht wellFormed hn
    (snapRefusal_fits ((dmaHalted_takenState h s).trans hrun) ((objOf_takenState ..).trans ho) hk hfit)]
  rfl

end Snap

end ObjectHeld

/-- Settles O12: the objects and the DMA channels stand as they were when the descriptor is taken, so that what `needObj` finds
decides between `timedCmd_held` and `timedCmd_refused`. -/
theorem benchTimedCommandsHeld : Obligations.BenchTimedCommandsHeld := by
  unfold Obligations.BenchTimedCommandsHeld
  refine ⟨?_, ?_, ?_, ?_, ?_, ?_, ?_, ?_, ?_⟩
  · intro h tick hd o s n late ht hn ho
    exact exec_objFree_held ht hn ho
  · intro h tick hd s n late ht hn ho
    exact exec_objFree_missing ht hn ho
  · intro h a o p ms s n late ht hn ho hk hd hlaw hmode hl hm
    exact exec_delaySet_held ht hn ho hk hd hlaw hmode hl hm
  · intro h a o p ms s n late ht hn ho hk hlaw hmode hl hm
    exact exec_delaySet_wrongType ht hn ho hk hlaw hmode hl hm
  · intro h a o ms s n late ht hn ho hk hstart hloop hg hm
    exact exec_playStart_held ht hn ho hk hstart hloop hg hm
  · intro h tick hd r o ms s n late ht hn ho hk hm
    exact exec_playStop_held ht hn ho hk hm
  · intro h tick hd r ms s n late ht hn ho hm
    exact exec_playStop_missing ht hn ho hm
  · intro h a o s n late ht hn ho hk h1 h3 hr
    exact exec_captureCtrl_held ht hn ho hk h1 h3 hr
  · intro h a o l s n late ht hn h1 h256 ha hd ho hk hl hfit
    exact exec_snapTake_held ht hn h1 h256 ha hd ho hk hl hfit

/-! BENCH_WRITE and BENCH_READ (R153): the object that the range fits, the words the host's bytes hold, and the bytes its words
make. -/

section BenchData

variable {h : CmdHdr} {a : BenchDataArgs} {o : BObj} {s : State}

theorem dataObj_fits (ho : objOf s a.handle.toNat = some o) (hk : o.kind.code ≠ 1)
    (hfit : a.offset.toNat + a.length.toNat ≤ 4 * o.wordCount) : dataObj s a = .inr o := by
  simp only [dataObj, ho, if_neg hk, if_neg hfit.not_gt]

/-- LENGTH of a well-formed command is a whole number of words (R156). -/
theorem four_dvd_of_dataBad_eq_false (hb : dataBad a = false) : a.length.toNat % 4 = 0 := by
  simp only [dataBad, Bool.or_eq_false_iff, decide_eq_false_iff_not, not_not] at hb
  obtain ⟨_, whole⟩ := hb
  exact whole

/-- The words that `n` bytes of host memory at an address hold (R153). -/
def hostWords (addr n : Nat) (s : State) : List Word :=
  (List.range (n / 4)).map fun i => BitVec.ofNat 32 (ofLe (((hostRead s addr n).drop (4 * i)).take 4))

/-- The object after a BENCH_WRITE: the host's words from its OFFSET on, its other words as they were. -/
def BObj.written (o : BObj) (a : BenchDataArgs) (s : State) : BObj :=
  { o with words := mapPutList 0 o.words (a.offset.toNat / 4) (hostWords a.addr.toNat a.length.toNat s) }

/-- The object's bytes from OFFSET on, as BENCH_READ writes them. -/
def BObj.dataBytes (o : BObj) (a : BenchDataArgs) : List Byte :=
  (List.range (a.length.toNat / 4)).flatMap fun i => leBytes 4 (mapGetD 0 o.words (a.offset.toNat / 4 + i)).toNat

theorem BObj.length_dataBytes (hb : dataBad a = false) : (o.dataBytes a).length = a.length.toNat := by
  have whole := four_dvd_of_dataBad_eq_false hb
  simp only [BObj.dataBytes, List.length_flatMap, length_leBytes, List.map_const', List.length_range, List.sum_replicate,
    smul_eq_mul]
  omega

theorem exec_benchWrite_taken (ht : Taken h false s) (hb : dataBad a = false)
    (ho : objOf (takenState h s) a.handle.toNat = some o) (hk : o.kind.code ≠ 1)
    (hfit : a.offset.toNat + a.length.toNat ≤ 4 * o.wordCount) :
    exec (.benchWrite h a) s = .next (if o.kind.busy then complete (ticketOf h s) 0x44 0 (takenState h s)
      else if dmaHalted (takenState h s) then complete (ticketOf h s) 8 0 (takenState h s)
      else complete (ticketOf h s) 0 0 (setObj a.handle.toNat (o.written a (takenState h s)) (takenState h s))) := by
  simp only [exec, execBenchWrite]
  rw [untimedCmd_run ht hb]
  simp only [dataObj_fits ho hk hfit]
  rfl

/-- A BENCH_READ that meets no DRAM error has the object's bytes as its result (R153, R159). -/
theorem exec_benchRead_taken (ht : Taken h false s) (hb : dataBad a = false)
    (ho : objOf (takenState h s) a.handle.toNat = some o) (hk : o.kind.code ≠ 1)
    (hfit : a.offset.toNat + a.length.toNat ≤ 4 * o.wordCount) (hd : dmaHalted (takenState h s) = false) :
    exec (.benchRead h a []) s =
      .next (resultWith none (ticketOf h s) a.addr.toNat (o.dataBytes a) 0 0 (takenState h s)) := by
  simp only [exec, execBenchRead]
  rw [untimedCmd_run ht hb]
  simp only [dataObj_fits ho hk hfit, hd, Bool.false_eq_true, if_false]
  rfl

end BenchData

/-! A stretch of the scrubber (R160). -/

section Scrub

variable {errors : List DramError} {p : BitVec 7} {s : State}

/-- With SCRUB enabled on a running node, the errors are counted, then the progress is shown or the pass ends. -/
theorem exec_scrub_running (he : regBit s Reg.scrubCtrl 0 = true) (hp : s.power.state = .running) :
    exec (.scrub errors p) s = .next (if p.toNat < 100
      then regSetFld Reg.scrubStat 30 24 p.toNat (errors.foldl (fun u e => dramError e u) s)
      else regSetFld Reg.scrubStat 30 24 0 (bumpFld Reg.scrubStat 15 0 1 (errors.foldl (fun u e => dramError e u) s))) := by
  simp only [exec, execScrub, he, hp, Bool.not_true, ne_eq, not_true_eq_false, decide_false, Bool.or_self, Bool.false_eq_true,
    if_false]
  split <;> rfl

end Scrub

/-- Settles O13: the checks of both commands pass on the object the range fits, a read comes down to the result rule of the local
owner or of the tunnel, and a stretch of the scrubber to whether its pass has ended. -/
theorem benchDataMoved : Obligations.BenchDataMoved := by
  unfold Obligations.BenchDataMoved
  refine ⟨?_, ?_, ?_, ?_, ?_, ?_⟩
  · intro h a o s ht hb ho hk hfit hbusy hd
    rw [exec_benchWrite_taken ht hb ho hk hfit, hbusy, hd]
    rfl
  · intro h a o s ht hb ho hk hfit hbusy
    rw [exec_benchWrite_taken ht hb ho hk hfit, if_pos hbusy]
  · intro h a o s ht hb ho hk hfit hd hm
    rw [exec_benchRead_taken ht hb ho hk hfit hd, resultWith_local _ _ _ _ _ hd hm]
    simp only [setHostMem, hostMem, if_neg hm]
    rfl
  · intro h a o u s ht hb ho hk hfit hd hm hu
    rw [exec_benchRead_taken ht hb ho hk hfit hd,
      resultWith_tunnel (v := u) _ _ _ _ _ hd hm (by rw [BObj.length_dataBytes hb]; exact hu)]
  · intro errors p s he hp h100
    rw [exec_scrub_running he hp, if_pos h100]
  · intro errors p s he hp h100
    rw [exec_scrub_running he hp, if_neg h100.not_gt]

end Sys2Proof.Machine

namespace Sys2Proof.Machine

/-! One link changed: what it holds then, and that every other link stays. -/

section OneLink

variable {n : Fin 16} {f : Link → Link} {l : Link} {s : State}

theorem linkMod_link (n : Fin 16) (f : Link → Link) (s : State) : (linkMod n f s).links[n] = f s.links[n] :=
  vmod_get_self s.links n f

/-- A change of a link is known by what it makes of the link as it stands. -/
theorem linkMod_eq (h : f s.links[n] = l) : linkMod n f s = { s with links := vset s.links n l } := by
  rw [← h]; rfl

theorem linkMod_linkMod (n : Fin 16) (f g : Link → Link) (s : State) :
    linkMod n g (linkMod n f s) = linkMod n (fun l => g (f l)) s := by
  simp [linkMod, vmod, vset]

theorem agreeOff_vset {α : Type} {k : Nat} (i : Fin k) (v : Vector α k) (x : α) : AgreeOff i (vset v i x) v :=
  fun j hj => vset_get_ne v i j x hj

/-- A link that enters another state holds it with the tick of the change, and the change is reported (R190, R380). -/
theorem setLinkState_enters {x : LinkSt} (h : s.links[n].state ≠ x) :
    ∃ e, setLinkState n x s = { linkMod n (fun l => { l with state := x, changeTick := now s }) s with hif := e } := by
  unfold setLinkState
  rw [if_neg h]
  exact ⟨_, rfl⟩

end OneLink

/-! The start of training (R176, R177). -/

section Start

variable {n : Fin 16} {f : Link → Link} {s : State} {c : Instr}

/-- Nothing on the link itself holds it back from training: it is DOWN with signal, without detach hold or RETRY_WAIT, and its
transmitter is not squelched. -/
structure Link.MayTrain (l : Link) : Prop where
  down : l.state = .down
  signal : l.signal = true
  detachHold : l.detachHold = false
  retryWait : l.retryWait = false
  squelch : l.squelch = false

/-- A link that enters TRAINING at the present tick. -/
def Link.inTraining (l : Link) (s : State) : Link :=
  { l with phase := 2, trainAt := s.time.refTime, state := .training, changeTick := now s }

theorem startTraining_starts (he : linkEnabled s n = true) (h : s.links[n].MayTrain) :
    ∃ e, startTraining n s = { s with links := vset s.links n (s.links[n].inTraining s), hif := e } := by
  have free : s.links[n].state = .down ∧ s.links[n].signal ∧ linkEnabled s n ∧ !s.links[n].detachHold ∧ !s.links[n].retryWait ∧
      !s.links[n].squelch := by
    simp only [h.down, h.signal, he, h.detachHold, h.retryWait, h.squelch, Bool.not_false, and_self]
  have stillDown : (linkMod n (fun l => { l with phase := 2, trainAt := s.time.refTime }) s).links[n].state ≠ .training := by
    rw [linkMod_link, h.down]
    decide
  obtain ⟨e, entered⟩ := setLinkState_enters stillDown
  refine ⟨e, ?_⟩
  simp only [startTraining]
  rw [if_pos free, entered, linkMod_linkMod]
  rfl

/-- A command that changes a link and lets it train, where the change leaves nothing to hold it back. -/
theorem exec_starts (hc : exec c s = fin (startTraining n (linkMod n f s))) (he : linkEnabled s n = true)
    (h : (f s.links[n]).MayTrain) :
    ∃ u, exec c s = .next (settle u) ∧ u.links[n] = (f s.links[n]).inTraining s ∧ AgreeOff n u.links s.links ∧
      u = { s with links := u.links, hif := u.hif } := by
  obtain ⟨e, started⟩ := startTraining_starts (s := linkMod n f s) he ((linkMod_link n f s).symm ▸ h)
  refine ⟨_, hc, ?_⟩
  rw [started, linkMod_link]
  exact ⟨vset_get_self .., fun j hj => (agreeOff_vset _ _ _ j hj).trans (agreeOff_vset _ _ _ j hj), rfl⟩

theorem exec_retryWait_passed (hr : s.links[n].retryWait = true) (hp : mayHavePassed s s.links[n].failAt (retryLimit s n) = true) :
    exec (.retryWait n) s = fin (startTraining n (linkMod n (fun l => { l with retryWait := false }) s)) :=
  if_pos ⟨hr, hp⟩

theorem exec_retryWait_early (hp : mayHavePassed s s.links[n].failAt (retryLimit s n) = false) :
    exec (.retryWait n) s = .next s :=
  if_neg fun ⟨_, passed⟩ => Bool.false_ne_true (hp.symm.trans passed)

theorem exec_retrainSquelchEnd_retraining (hr : s.links[n].retrain = true) :
    exec (.retrainSquelchEnd n) s =
      fin (startTraining n (linkMod n (fun l => { l with squelch := false, retrain := false }) s)) :=
  if_pos hr

theorem exec_retrainSquelchEnd_idle (hr : s.links[n].retrain = false) : exec (.retrainSquelchEnd n) s = .next s :=
  if_neg (Bool.eq_false_iff.mp hr)

end Start

/-! The steps of training (R177, R178). -/

section Training

variable {n : Fin 16} {m : TrainMarker} {w : FirWish} {l : Link} {s : State}

theorem exec_linkBlockLock_phase2 (hs : s.links[n].state = .training) (hp : s.links[n].phase = 2) :
    exec (.linkBlockLock n) s =
      .next (settle { s with links := vset s.links n { s.links[n] with blockLock := true, phase := 3 } }) :=
  congrArg fin (linkMod_eq (if_pos ⟨hs, hp⟩))

/-- At the own eye margin RX_READY is sent, and the handover is due once the partner has sent it twice in a row. -/
theorem exec_linkEqComplete_phase3 {c : BitVec 4} {k : Nat} {ready : Bool} (hs : s.links[n].state = .training)
    (hp : s.links[n].phase = 3) (hr : decide (2 ≤ s.links[n].readySeen) = ready) (hk : (if ready then 4 else 3) = k) :
    exec (.linkEqComplete n c) s = .next (settle
      { s with links := vset s.links n { s.links[n] with
          ctle := c, train := { s.links[n].train with rxReady := true }, phase := k, handover := ready } }) := by
  subst hr hk
  exact congrArg fin (linkMod_eq (if_pos ⟨hs, hp⟩))

theorem exec_trainingMarker_bad (hm : m.checkOk = false) :
    exec (.trainingMarker n m w) s = .next (settle { s with links := vset s.links n s.links[n] }) :=
  congrArg fin (linkMod_eq (if_neg fun ⟨_, _, good, _⟩ => Bool.false_ne_true (hm.symm.trans good)))

/-- A step of a coefficient stays within 40 beside another, where the values allowed to it do. -/
theorem firStep_sum_le {req stat : BitVec 2} {v x : Nat} {ok : Nat → Bool} (h : v + x ≤ 40) (hok : ∀ y, ok y = true → y + x ≤ 40) :
    (firStep req stat v ok).1 + x ≤ 40 := by
  unfold firStep
  split
  · exact h
  split
  · exact h
  split <;> split
  · next allowed => exact hok _ allowed
  · exact h
  · dsimp only; omega
  · exact h

theorem firAnswer_preset (hp : m.preset = true) : (firAnswer l m).pre = 0 ∧ (firAnswer l m).post = 8 := by
  simp only [firAnswer, hp, if_true, and_self]

/-- The answer to a marker keeps MAIN at 24 or more: PRE and POST together stay within 40 (R178). -/
theorem firAnswer_sum_le (h : l.pre.toNat + l.post.toNat ≤ 40) : (firAnswer l m).pre.toNat + (firAnswer l m).post.toNat ≤ 40 := by
  unfold firAnswer
  split
  · exact Nat.le_of_ble_eq_true rfl
  · simp only [BitVec.toNat_ofNat]
    refine (Nat.add_le_add (Nat.mod_le _ _) (Nat.mod_le _ _)).trans ?_
    rw [Nat.add_comm]
    refine firStep_sum_le ?_ fun y hy => ?_
    · rw [Nat.add_comm]
      refine firStep_sum_le h fun y hy => ?_
      simp only [Bool.and_eq_true, decide_eq_true_eq] at hy
      exact hy.2
    · simp only [Bool.and_eq_true, decide_eq_true_eq] at hy
      omega

/-- What a link in TRAINING from phase 3 on makes of a training marker with a good CHECK (R177, R178). -/
def Link.trainedBy (l : Link) (m : TrainMarker) (w : FirWish) : Link :=
  let seen := if m.rxReady then l.readySeen + 1 else 0
  let go : Bool := decide (2 ≤ seen) && l.train.rxReady
  { firAnswer l m with
    readySeen := seen, handover := go || l.handover, phase := if go || l.handover then 4 else (firAnswer l m).phase,
    train := { (firAnswer l m).train with
      preReq := nextReq l.train.preReq m.preStat w.preReq, postReq := nextReq l.train.postReq m.postStat w.postReq,
      preset := w.preset } }

theorem exec_trainingMarker_good (hs : s.links[n].state = .training) (hf : s.links[n].framed = false) (hm : m.checkOk = true)
    (hp : 3 ≤ s.links[n].phase) :
    exec (.trainingMarker n m w) s = .next (settle { s with links := vset s.links n (s.links[n].trainedBy m w) }) :=
  congrArg fin (linkMod_eq (if_pos ⟨hs, by rw [hf]; rfl, hm, hp⟩))

end Training

/-- Settles O14: each start of training is `startTraining` on a link that nothing holds back (`Link.MayTrain`), and PRE + POST
stays within 40 because each coefficient's step does beside the other. -/
theorem linkTrainingSteps : Obligations.LinkTrainingSteps := by
  unfold Obligations.LinkTrainingSteps
  refine ⟨?_, ?_, ?_, ?_, ?_, ?_, ?_, ?_, ?_, ?_⟩
  · intro n s hd he hh hr hq
    exact exec_starts (f := fun l => { l with signal := true }) rfl he ⟨hd, rfl, hh, hr, hq⟩
  · intro n s hd he hs hh hq hr hp
    exact exec_starts (exec_retryWait_passed hr hp) he ⟨hd, hs, hh, rfl, hq⟩
  · intro n s hd he hs hh hr ht
    exact exec_starts (exec_retrainSquelchEnd_retraining ht) he ⟨hd, hs, hh, hr, rfl⟩
  · intro n s hp
    exact exec_retryWait_early hp
  · intro n s hr
    exact exec_retrainSquelchEnd_idle hr
  · intro n s hs hp
    exact exec_linkBlockLock_phase2 hs hp
  · intro n c s hs hp hr
    exact exec_linkEqComplete_phase3 hs hp (decide_eq_false hr.not_ge) rfl
  · intro n c s hs hp hr
    exact exec_linkEqComplete_phase3 hs hp (decide_eq_true hr) rfl
  · intro n m w s hm
    exact exec_trainingMarker_bad hm
  · intro n m w s hs hf hm hp
    refine ⟨_, exec_trainingMarker_good hs hf hm hp, ?_, ?_, ?_, agreeOff_vset _ _ _, rfl⟩
    · rw [vset_get_self]; rfl
    · rw [vset_get_self]; exact firAnswer_preset
    · rw [vset_get_self]; exact firAnswer_sum_le

end Sys2Proof.Machine

namespace Sys2Proof.Machine

/-! The loss of a link and failed training (R176, R179, R180). -/

section Loss

variable {n : Fin 16} {s : State}

/-- A link that is not DOWN goes DOWN, counted and with LINK_DOWN raised. -/
theorem linkDown_counted (h : s.links[n].state ≠ .down) :
    linkDown n true true s = raise Src.linkDown n 0 (bumpFld (Reg.linkEvents n) 15 0 1
      (setLinkState n .down (breakEntries n (linkMod n Link.dropped s)))) := by
  simp only [linkDown, if_neg h, if_true]

/-- A loss that the partner did not announce is counted and raises LINK_DOWN (R186). -/
theorem linkLost_unannounced (h : s.links[n].partnerDetaching = false) : linkLost n s = linkDown n true true s := by
  simp only [linkLost, h, Bool.not_false]

theorem exec_linkSignalLoss_up {gone : Bool} (hs : s.links[n].state ≠ .down) (hd : s.links[n].partnerDetaching = false) :
    exec (.linkSignalLoss n gone) s =
      .next (settle (linkMod n (fun l => { l with signal := l.signal && !gone, blockLock := false })
        (raise Src.linkDown n 0 (bumpFld (Reg.linkEvents n) 15 0 1
          (setLinkState n .down (breakEntries n (linkMod n Link.dropped s))))))) := by
  simp only [exec, execLinkSignalLoss, linkLost_unannounced hd, linkDown_counted hs, fin]

theorem exec_trainTimeout_passed (hs : s.links[n].state = .training)
    (hp : mayHavePassed s s.links[n].trainAt (trainLimit s n) = true) :
    exec (.trainTimeout n) s =
      .next (settle (linkMod n (fun l => { l with retryWait := true, failAt := s.time.refTime }) (linkDown n true true
        (raise Src.linkTrainFail n 0 (sticky (Reg.linkErrStat n) 5 (bumpFld (Reg.linkEvents n) 31 16 1 s)))))) :=
  if_pos ⟨hs, hp⟩

end Loss

/-! Missing markers and bit errors (R179, R187). -/

section Markers

variable {n : Fin 16} {s : State}

/-- An aligned link after a missing marker: counted, its sub-frame bad. -/
def markerMissed (n : Fin 16) (s : State) : State :=
  linkMod n (fun l => { l with misses := l.misses + 1, sfBad := true })
    (sticky (Reg.linkErrStat n) 2 (bump (Reg.markerMissCount n) 1 s))

theorem missMarker_aligned (ha : s.links[n].align = true) :
    missMarker n s = if 2 ≤ s.links[n].misses + 1 then linkLost n (markerMissed n s) else markerMissed n s := by
  simp only [missMarker, ha, Bool.not_true, Bool.false_eq_true, if_false]
  rfl

theorem exec_markerWindowExpiry_first (ha : s.links[n].align = true) (hm : s.links[n].misses = 0) :
    exec (.markerWindowExpiry n) s = .next (settle (markerMissed n s)) := by
  have first : ¬ 2 ≤ s.links[n].misses + 1 := by omega
  simp only [exec, execMarkerWindowExpiry, missMarker_aligned ha, if_neg first, fin]

theorem exec_markerWindowExpiry_second (ha : s.links[n].align = true) (hm : 1 ≤ s.links[n].misses) :
    exec (.markerWindowExpiry n) s = .next (settle (linkLost n (markerMissed n s))) := by
  have second : 2 ≤ s.links[n].misses + 1 := by omega
  simp only [exec, execMarkerWindowExpiry, missMarker_aligned ha, if_pos second, fin]

/-- The end of a second of slot CRC errors: the count starts again, and LINK_BER is raised above a limit that is set. -/
theorem exec_linkBer_passed (hp : mayHavePassed s s.links[n].berAt refSecond = true) :
    exec (.linkBer n) s = .next (settle
      (if regFld s (Reg.linkBerLimit n) 15 0 ≠ 0 ∧ regFld s (Reg.linkBerLimit n) 15 0 < s.links[n].berCount
        then raise Src.linkBer n 0 (linkMod n (fun l => { l with berCount := 0, berAt := s.time.refTime }) s)
        else linkMod n (fun l => { l with berCount := 0, berAt := s.time.refTime }) s)) :=
  if_pos hp

end Markers

/-! The cells of a link that are repeated (R181, R183, R184). -/

section Repeats

variable {n : Fin 16} {s : State}

theorem exec_attachReqRepeat_due (hs : s.links[n].state = .discovered) (ho : s.links[n].reqOpen = true)
    (hc : checksPass s n = true) (hl : s.links[n].lastReq + 1024 ≤ now s) :
    exec (.attachReqRepeat n) s = .next (settle (requestAttach n s)) :=
  if_pos ⟨hs, ho, hc, hl⟩

theorem exec_discoverSend_due (hf : s.links[n].framed = true) (hh : s.links[n].heard = true)
    (hl : s.links[n].lastDiscover + 1024 ≤ now s) : exec (.discoverSend n) s = .next (settle (sendDiscover n s)) :=
  if_pos ⟨hf, hh, hl⟩

theorem exec_idAnnouncePeriodic_due (hp : s.node.periodAt + 65536 ≤ now s) :
    exec .idAnnouncePeriodic s = .next (settle (announce { s with node := { s.node with periodAt := now s } })) :=
  if_pos hp

end Repeats

/-- Settles O15: a loss is `linkDown` with both its count and its fault, and a missing marker turns on whether one is missing
already. -/
theorem linkLossAndTimeouts : Obligations.LinkLossAndTimeouts := by
  unfold Obligations.LinkLossAndTimeouts
  refine ⟨?_, ?_, ?_, ?_, ?_, ?_, ?_, ?_, ?_⟩
  · intro n gone s hs hd
    exact exec_linkSignalLoss_up hs hd
  · intro n s hs hp
    exact exec_trainTimeout_passed hs hp
  · intro n s ha hm
    exact exec_markerWindowExpiry_first ha hm
  · intro n s ha hm
    exact exec_markerWindowExpiry_second ha hm
  · intro n s hp hl hb
    rw [exec_linkBer_passed hp, if_pos ⟨hl, hb⟩]
  · intro n s hp hb
    rw [exec_linkBer_passed hp, if_neg fun ⟨_, more⟩ => more.not_ge hb]
  · intro n s hs ho hc hl
    exact exec_attachReqRepeat_due hs ho hc hl
  · intro n s hf hh hl
    exact exec_discoverSend_due hf hh hl
  · intro s hp
    exact exec_idAnnouncePeriodic_due hp

end Sys2Proof.Machine

namespace Sys2Proof.Machine

/-! The frame markers that a link receives (R177, R179). -/

section FrameMarkers

variable {n : Fin 16} {m : FrameMarker} {s : State}

/-- On an aligned link a marker outside the window of the expected one is none. -/
theorem exec_frameMarker_outside (ha : s.links[n].align = true) (hd : markerDue s.links[n] s m = false) :
    exec (.frameMarker n m) s = .next s :=
  if_pos (.inr ⟨ha, by rw [hd]; rfl⟩)

/-- A framed link does not pass over a marker that is not outside its window. -/
theorem frameMarker_looked (hf : s.links[n].framed = true) (hd : s.links[n].align = true → markerDue s.links[n] s m = true) :
    ¬ (!s.links[n].framed ∨ (s.links[n].align ∧ !markerDue s.links[n] s m)) := by
  rintro (unframed | ⟨aligned, outside⟩)
  · rw [hf] at unframed
    exact Bool.false_ne_true unframed
  · rw [hd aligned] at outside
    exact Bool.false_ne_true outside

theorem exec_frameMarker_bad (hf : s.links[n].framed = true) (hd : s.links[n].align = true → markerDue s.links[n] s m = true)
    (hm : markerGood m.bytes = false) : exec (.frameMarker n m) s = .next (settle (missMarker n s)) :=
  (if_neg (frameMarker_looked hf hd)).trans (if_pos (by rw [hm]; rfl))

/-- A good marker on an aligned link, in its window: a miss with another index than the expected one, else heard. -/
theorem exec_frameMarker_aligned (hf : s.links[n].framed = true) (ha : s.links[n].align = true)
    (hd : markerDue s.links[n] s m = true) (hm : markerGood m.bytes = true) :
    exec (.frameMarker n m) s =
      if (m.bytes.getD 0 0).toNat / 16 % 16 ≠ (s.links[n].lastSf.val + s.links[n].misses + 1) % 16 then
        .next (settle (missMarker n s))
      else if (linkMod n (fun l => l.hear s m) s).links[n].partnerQuarantine ∧ s.links[n].state = .attached then
        .next (settle (partnerQuarantined n (linkMod n (fun l => l.hear s m) s)))
      else .next (settle (tryDiscovered n (linkMod n (fun l => l.hear s m) s))) :=
  (if_neg (frameMarker_looked hf fun _ => hd)).trans ((if_neg (by simp [hm])).trans (if_neg (by rw [ha]; decide)))

/-- A good marker on a framed link that is not aligned counts toward the three that acquire alignment. -/
theorem exec_frameMarker_unaligned (hf : s.links[n].framed = true) (ha : s.links[n].align = false)
    (hm : markerGood m.bytes = true) {k x : Nat} (hr : markerRunOf s.links[n] s m = (k, x)) :
    exec (.frameMarker n m) s = .next (settle (tryDiscovered n { s with links := vset s.links n { (s.links[n].hear s m) with
      markerRun := k, spacing := x, align := decide (3 ≤ k), phase := if 3 ≤ k then 5 else 4 } })) := by
  have looked := frameMarker_looked (m := m) hf fun aligned => absurd (ha.symm.trans aligned) Bool.false_ne_true
  refine (if_neg looked).trans ((if_neg (by simp [hm])).trans ((if_pos (by rw [ha]; rfl)).trans ?_))
  rw [hr]
  rfl

/-- After two markers in a row, one with the next index at their spacing is the third. -/
theorem markerRunOf_third {l : Link} (hr : l.markerRun = 2) (hi : (m.bytes.getD 0 0).toNat / 16 % 16 = (l.lastSf.val + 1) % 16)
    (hw : withinTwo s (markerPos s m - l.markerAt) l.spacing = true) : markerRunOf l s m = (3, l.spacing) := by
  simp only [markerRunOf, hr, hi, hw]
  rfl

theorem Link.hear_spacing (l : Link) : (l.hear s m).spacing = l.spacing := by
  unfold Link.hear
  dsimp only
  split <;> rfl

theorem Link.hear_partnerQuarantine (l : Link) : (l.hear s m).partnerQuarantine = (m.bytes.getD 5 0).getLsbD 1 := by
  unfold Link.hear
  dsimp only
  split <;> rfl

/-- What a link holds with the marker that acquires alignment. -/
def Link.aligns (l : Link) (s : State) (m : FrameMarker) : Link :=
  { (l.hear s m) with markerRun := 3, align := true, phase := 5 }

theorem exec_frameMarker_acquires (hf : s.links[n].framed = true) (ha : s.links[n].align = false)
    (hm : markerGood m.bytes = true) (hr : s.links[n].markerRun = 2)
    (hi : (m.bytes.getD 0 0).toNat / 16 % 16 = (s.links[n].lastSf.val + 1) % 16)
    (hw : withinTwo s (markerPos s m - s.links[n].markerAt) s.links[n].spacing = true) :
    exec (.frameMarker n m) s =
      .next (settle (tryDiscovered n { s with links := vset s.links n (s.links[n].aligns s m) })) := by
  have kept : s.links[n].aligns s m = { (s.links[n].hear s m) with
      markerRun := 3, spacing := s.links[n].spacing, align := true, phase := 5 } := by
    rw [Link.aligns, ← Link.hear_spacing (s := s) (m := m) s.links[n]]
  rw [exec_frameMarker_unaligned hf ha hm (markerRunOf_third hr hi hw), kept]
  rfl

end FrameMarkers

/-! The slots and cells that a link receives (R170, R173, R174). -/

section Received

variable {n : Fin 16} {c : Cell} {f : State → State} {s : State}

/-- A cell that is this node's own is delivered. -/
theorem receiveCell_delivered (h : Delivered n c s) : receiveCell n c f s = f s := by
  obtain ⟨accepted, mode | ⟨mode, atEnd, own⟩⟩ := h
  · simp [receiveCell, accepted, mode]
  · simp [receiveCell, accepted, mode, atEnd, own]

/-- A flood cell that has not been seen is marked, delivered, and forwarded. -/
theorem receiveCell_flood (h : FloodFresh n c s) : receiveCell n c f s = forwardFlood n c (f (markFlood c s)) := by
  obtain ⟨accepted, mode, fresh⟩ := h
  simp [receiveCell, accepted, mode, fresh]

/-- The slot that a link received, as its bytes hold it (R168). -/
def receivedSlot (x : SlotIn) (s : State) : Slot :=
  { samples := (List.range (spt s)).map fun i => BitVec.ofNat 32 (ofLe ((x.bytes.drop (4 * i)).take 4)),
    flags := x.bytes.getD (4 * spt s) 0, crc := x.crc }

theorem exec_slotReceived_good {x : SlotIn} (ha : s.links[n].align = true) (hs : s.links[n].state = .attached)
    (hc : crc8 x.bytes = x.crc) :
    exec (.slotReceived n x) s =
      .next (settle (switchSlot n x.slot (receivedSlot x s) (!s.links[n].sfBad && !fenced s (.link n)) s)) := by
  simp only [exec, execSlotReceived, ha, hs, hc, Bool.not_true, Bool.false_eq_true, if_false, ne_eq, not_true_eq_false,
    decide_true, if_true, Bool.true_and, fin]
  rfl

/-- A slot with a bad CRC on a link that is not ATTACHED is counted, and goes no further. -/
theorem exec_slotReceived_bad {x : SlotIn} (ha : s.links[n].align = true) (hs : s.links[n].state ≠ .attached)
    (hc : crc8 x.bytes ≠ x.crc) :
    exec (.slotReceived n x) s = .next (settle (linkMod n (fun l => { l with berCount := l.berCount + 1 })
      (sticky (Reg.linkErrStat n) 0 (bump (Reg.slotCrcCount n) 1 s)))) := by
  simp only [exec, execSlotReceived, ha, hs, hc, Bool.not_true, Bool.false_eq_true, if_false, ne_eq, not_false_eq_true,
    decide_false, if_true, fin]

theorem exec_cellReceived_bad {crc : Word} (ha : s.links[n].align = true) (hc : cellCrc c ≠ crc) :
    exec (.cellReceived n c crc) s = .next (settle (sticky (Reg.linkErrStat n) 1 (bump (Reg.cellCrcCount n) 1 s))) := by
  simp only [exec, execCellReceived, ha, Bool.not_true, Bool.false_eq_true, if_false, if_pos hc, fin]

theorem exec_cellReceived_reserved {crc : Word} (ha : s.links[n].align = true) (hc : cellCrc c = crc) (ht : c.ty ≠ 0)
    (hk : cellClass c.ty = none) :
    exec (.cellReceived n c crc) s = .next (settle (sticky (Reg.linkErrStat n) 4 (cellDrop n s))) := by
  simp only [exec, execCellReceived, ha, hc, hk, if_neg ht, Bool.not_true, Bool.false_eq_true, if_false, ne_eq, not_true_eq_false,
    fin]

/-- A cell goes by its MODE, of any type but those of the path cells (0x10 to 0x13), which come in commands of their own. -/
theorem exec_cellReceived_typed {crc : Word} {k : Nat} (ha : s.links[n].align = true) (hc : cellCrc c = crc) (ht : c.ty ≠ 0)
    (hk : cellClass c.ty = some k) (h4 : c.ty.toNat / 4 ≠ 4) :
    exec (.cellReceived n c crc) s = .next (settle (receiveCell n c (fun u => u) s)) := by
  simp only [exec, execCellReceived, ha, hc, hk, if_neg ht, if_neg h4, Bool.not_true, Bool.false_eq_true, if_false, ne_eq,
    not_true_eq_false, fin]
  rfl

theorem exec_discover_delivered (h : Delivered n c s) {v : State}
    (hv : v = resolveId (BitVec.ofNat 12 (bodyN c 0x1C 2)) (bodyN c 0x14 8)
      (linkMod n (fun l => { l with partner := some c.body, heard := true }) s)) :
    exec (.discover n c) s = .next (settle (if v.links[n].state = .training then tryDiscovered n v else runChecks n v)) := by
  subst hv
  simp only [exec, execDiscover, receiveCell_delivered h, fin]

/-- An ATTACH_REQ that the node would make itself is acknowledged (R183). -/
theorem exec_linkCtrlCell_request (h : Delivered n c s) (ha : bodyN c 0x14 1 = 1) (hs : s.links[n].state = .discovered)
    (hc : checksPass s n = true) (hw : wouldRequest s n = true) :
    exec (.linkCtrlCell n c) s = .next (settle (sendCtrl n 2 0 0 s)) := by
  simp only [exec, execLinkCtrlCell, receiveCell_delivered h, ha, hs, hc, hw, true_or, and_self, if_true, fin]

@[simp] theorem ownEui_markFlood (c : Cell) (s : State) : ownEui (markFlood c s) = ownEui s := by
  unfold markFlood
  split <;> rfl

@[simp] theorem now_markFlood (c : Cell) (s : State) : now (markFlood c s) = now s := by
  unfold markFlood
  split <;> rfl

/-- An ID that another node announces is noted with the tick, and a duplicate of the own one is resolved (R184, R188). -/
theorem exec_idAnnounce_fresh (h : FloodFresh n c s) {v : State} (hv : v = markFlood c s)
    (he : bodyN c 0x14 8 ≠ (ownEui s).toNat) (hi : BitVec.ofNat 12 (bodyN c 0x1C 2) ≠ 0) :
    exec (.idAnnounce n c) s = .next (settle (forwardFlood n c (resolveId (BitVec.ofNat 12 (bodyN c 0x1C 2)) (bodyN c 0x14 8)
      { v with node := { v.node with
          announced := mapPut v.node.announced (BitVec.ofNat 12 (bodyN c 0x1C 2)).toNat (now s) } }))) := by
  subst hv
  have other : bodyN c 0x14 8 ≠ (ownEui (markFlood c s)).toNat ∧ BitVec.ofNat 12 (bodyN c 0x1C 2) ≠ 0 := by
    rw [ownEui_markFlood]
    exact ⟨he, hi⟩
  simp only [exec, execIdAnnounce, receiveCell_flood h, if_pos other, now_markFlood, fin]

end Received

/-! The sub-frames that a link sends (R165–R172). -/

section SubFrame

variable {n j : Fin 16} {s : State}

/-- What a framed, unsquelched link sends in a sub-frame other than 1, the one of the TIME_SYNC cells: its marker, the slots of an
ATTACHED link that is neither fenced nor detaching, and cells. No other part of the node changes. -/
theorem exec_subFrameStart_sends (hf : s.links[n].framed = true) (hq : s.links[n].squelch = false) (hj : j.val ≠ 1) :
    ∃ l cells, exec (.subFrameStart n j) s = .next (settle { s with links := vset s.links n l }) ∧
      l.line = { sf := j, tickLo := BitVec.ofNat 32 (now s), aligned := s.links[n].align, quarantine := fenced s (.link n),
                 detaching := s.links[n].detaching, cells := cells,
                 slots := if s.links[n].state = .attached ∧ fenced s (.link n) = false ∧ s.links[n].detaching = false
                   then slotsToSend s n j.val else [] } := by
  have sends : ¬ (!s.links[n].framed ∨ s.links[n].squelch) := by simp only [hf, hq]; decide
  have carries : (decide (s.links[n].state = .attached) && !fenced s (.link n) && !s.links[n].detaching) =
      decide (s.links[n].state = .attached ∧ fenced s (.link n) = false ∧ s.links[n].detaching = false) := by
    simp [Bool.and_assoc]
  simp only [exec, execSubFrameStart, if_neg sends, carries, hj, decide_false, Bool.false_and, Bool.false_eq_true, if_false,
    decide_eq_true_eq]
  exact ⟨_, _, rfl, rfl⟩

end SubFrame

/-- Settles O16: a marker is looked at unless it lies outside its window, a cell that is the node's own is delivered and a new
flood cell is also forwarded, and a sub-frame's line is written out. -/
theorem linkFramesAndCellsReceived : Obligations.LinkFramesAndCellsReceived := by
  unfold Obligations.LinkFramesAndCellsReceived
  refine ⟨?_, ?_, ?_, ?_, ?_, ?_, ?_, ?_, ?_, ?_, ?_, ?_, ?_, ?_⟩
  · intro n m s hf ha hm hr hi hw
    exact ⟨_, exec_frameMarker_acquires hf ha hm hr hi hw, _, rfl, vset_get_self .., agreeOff_vset _ _ _, rfl⟩
  · intro n m s hf hd hm
    exact exec_frameMarker_bad hf hd hm
  · intro n m s ha hd
    exact exec_frameMarker_outside ha hd
  · intro n m s hf ha hd hm hi
    rw [exec_frameMarker_aligned hf ha hd hm, if_pos hi]
  · intro n m s hf ha hd hm hi hq
    rw [exec_frameMarker_aligned hf ha hd hm, if_neg (not_not.mpr hi), linkMod_link, Link.hear_partnerQuarantine, hq,
      if_neg fun ⟨shown, _⟩ => Bool.false_ne_true shown]
  · intro n x s ha hs hc
    exact exec_slotReceived_good ha hs hc
  · intro n x s ha hs hc
    exact exec_slotReceived_bad ha hs hc
  · intro n c crc s ha hc
    exact exec_cellReceived_bad ha hc
  · intro n c crc s ha hc ht hk
    exact exec_cellReceived_reserved ha hc ht hk
  · intro n c crc k s ha hc ht hk h4
    exact exec_cellReceived_typed ha hc ht hk h4
  · intro n c s v h hv
    exact exec_discover_delivered h hv
  · intro n c s h ha hs hc hw
    exact exec_linkCtrlCell_request h ha hs hc hw
  · intro n c s v h hv he hi
    exact exec_idAnnounce_fresh h hv he hi
  · intro n j s hf hq hj
    obtain ⟨l, cells, sent, line⟩ := exec_subFrameStart_sends hf hq hj
    refine ⟨_, sent, ?_, ?_, ?_, ?_, ?_, agreeOff_vset _ _ _, rfl⟩ <;> rw [vset_get_self, line]

end Sys2Proof.Machine

namespace Sys2Proof.Machine

/-! What the taking of a descriptor leaves of the links and the node's identity. -/

@[simp] theorem takenState_links (h : CmdHdr) (s : State) : (takenState h s).links = s.links := by rw [takenState_eq]

@[simp] theorem takenState_node (h : CmdHdr) (s : State) : (takenState h s).node = s.node := by rw [takenState_eq]

@[simp] theorem now_takenState (h : CmdHdr) (s : State) : now (takenState h s) = now s := by rw [takenState_eq]; rfl

/-! LINK_CMD (R183, R186, R189), as it is taken and at its boundary. -/

section LinkCmd

variable {a : LinkCmdArgs} {n : Fin 16} {s : State}

theorem exec_linkCmd_held {h : CmdHdr} {k : Nat} {late : Bool} (ht : Taken h true s) (hn : schedule a.tick s = some (k, late))
    (hl : a.link.toNat < 16) (h1 : 1 ≤ a.action.toNat) (h3 : a.action.toNat ≤ 3) :
    exec (.linkCmd h a) s = .next (settle (hold k (ticketOf h s) late (.linkCmd a) (takenState h s))) := by
  have wellFormed : (!(decide (1 ≤ a.action.toNat) && decide (a.action.toNat ≤ 3))) = false := by
    rw [decide_eq_true h1, decide_eq_true h3]
    rfl
  simp only [exec, execLinkCmd, toFin?_some (i := ⟨_, hl⟩) rfl]
  rw [timedCmd_held ht wellFormed hn rfl]
  rfl

theorem applyLinkCmd_attach (hl : a.link.toNat = n.val) (ha : a.action.toNat = 1) (hs : s.links[n].state = .discovered)
    (he : linkEnabled s n = true) (hc : checksPass s n = true) (hd : s.links[n].attachDue = false) :
    applyLinkCmd a s = (0, requestAttach n (linkMod n (fun l => { l with wantAttach := true }) s)) := by
  simp only [applyLinkCmd, toFin?_some hl, ha, hs, he, hc, hd, Bool.not_true, Bool.not_false, Bool.and_self, Bool.false_eq_true,
    if_false, if_true]
  rfl

theorem applyLinkCmd_detach (hl : a.link.toNat = n.val) (ha : a.action.toNat = 2) (hs : s.links[n].state = .attached)
    (he : linkEnabled s n = true) :
    applyLinkCmd a s = (0, sendCtrl n 3 0 (now s) (linkMod n (fun l =>
      { l with detaching := true, detachAt := some (now s), wantAttach := false, reqOpen := false, attachDue := false })
      (breakEntries n s))) := by
  simp only [applyLinkCmd, toFin?_some hl, ha, hs, he, Bool.not_true, Bool.false_eq_true, if_false]
  rfl

/-- RETRAIN acts in every state but QUARANTINED. -/
theorem applyLinkCmd_retrain (hl : a.link.toNat = n.val) (ha : a.action.toNat = 3) (hs : s.links[n].state ≠ .quarantined)
    (he : linkEnabled s n = true) :
    applyLinkCmd a s = (0, linkMod n (fun l =>
      { l with squelch := true, retrain := true, detachHold := false, retryWait := false }) (linkDown n true false s)) := by
  cases hst : s.links[n].state with
  | quarantined => exact absurd hst hs
  | down | training | discovered | attached =>
    simp only [applyLinkCmd, toFin?_some hl, ha, hst, he, Bool.not_true, Bool.false_eq_true, if_false]
    rfl

/-- A disabled link answers every ACTION with LINK_DISABLED, whatever its state. -/
theorem applyLinkCmd_disabled (hl : a.link.toNat = n.val) (he : linkEnabled s n = false) : applyLinkCmd a s = (0x41, s) := by
  simp only [applyLinkCmd, toFin?_some hl, he, Bool.not_false, if_true]
  split <;> rfl

end LinkCmd

/-! LINK_QUERY, EYE_SURVEY and NODE_ID_SET (R188, R190, R191). -/

section Untimed

variable {h : CmdHdr} {s : State}

theorem exec_linkQuery_taken {link : Byte} {addr : BitVec 64} {n : Fin 16} (ht : Taken h false s) (hl : link.toNat = n.val) :
    exec (.linkQuery h link addr) s = .next (settle { (takenState h s) with
      linkQueries := (takenState h s).linkQueries ++ [{ ticket := ticketOf h s, link := n, addr := addr }] }) := by
  simp only [exec, execLinkQuery, toFin?_some hl]
  rw [untimedCmd_run ht rfl]
  rfl

/-- When no named link is in a survey and all are ATTACHED or DISCOVERED, the survey is of all that are named. -/
theorem exec_eyeSurvey_taken {m : BitVec 16} (ht : Taken h false s) (hf : ∀ n ∈ maskUnits 16 m.toNat, s.links[n].survey = false)
    (hs : ∀ n ∈ maskUnits 16 m.toNat, s.links[n].state = .attached ∨ s.links[n].state = .discovered) :
    exec (.eyeSurvey h m) s =
      .next (settle ((maskUnits 16 m.toNat).foldl (fun u n => linkMod n (fun l => { l with survey := true }) u)
        { (takenState h s) with
          surveys := (takenState h s).surveys ++ [{ ticket := ticketOf h s, links := maskUnits 16 m.toNat }] })) := by
  have free : ((maskUnits 16 m.toNat).any fun n => (takenState h s).links[n].survey) = false := by
    rw [takenState_links, List.any_eq_false]
    exact fun n hn => Bool.eq_false_iff.mp (hf n hn)
  have all : ((maskUnits 16 m.toNat).filter fun n => decide ((takenState h s).links[n].state = .attached) ||
      decide ((takenState h s).links[n].state = .discovered)) = maskUnits 16 m.toNat := by
    rw [takenState_links, List.filter_eq_self]
    exact fun n hn => by rw [Bool.or_eq_true, decide_eq_true_eq, decide_eq_true_eq]; exact hs n hn
  simp only [exec, execEyeSurvey]
  rw [untimedCmd_run ht rfl]
  simp only [free, all, Bool.false_eq_true, if_false]
  rfl

theorem exec_eyeSurveyComplete_oldest {r : List EyeResult} {v : Survey} {rest : List Survey} (hv : s.surveys = v :: rest) :
    exec (.eyeSurveyComplete r) s = .next (settle (complete v.ticket 0 0
      ((r.filter fun x => v.links.contains x.link).foldl (fun u x => setEye x.link x.eyeH x.eyeV u)
        (v.links.foldl (fun u n => linkMod n (fun l => { l with survey := false }) u) { s with surveys := rest })))) := by
  simp only [exec, execEyeSurveyComplete, hv]
  rfl

/-- Another node has announced the ID within 65,536 ticks (R188). -/
def idInUse (id : BitVec 12) (s : State) : Bool :=
  match mapGet s.node.announced id.toNat with
  | some k => decide (now s < k + 65536)
  | none => false

theorem exec_nodeIdSet_taken {id : BitVec 12} (ht : Taken h false s) (h0 : id ≠ 0) (hF : id ≠ 0xFFF) :
    exec (.nodeIdSet h id) s = .next (settle (if idInUse id s then complete (ticketOf h s) 0x42 0 (takenState h s)
      else complete (ticketOf h s) 0 0 (takeId id 1 (takenState h s)))) := by
  have wellFormed : (decide (id = 0) || decide (id = 0xFFF)) = false := by
    rw [decide_eq_false h0, decide_eq_false hF]
    rfl
  simp only [exec, execNodeIdSet]
  rw [untimedCmd_run ht wellFormed, takenState_node, now_takenState]
  rfl

end Untimed

/-- Settles O17: a taken LINK_CMD comes down to `timedCmd_held`, its effect to the state of the link, and a NODE_ID_SET to whether
the ID is in use. -/
theorem linkCommandsTakenAndApplied : Obligations.LinkCommandsTakenAndApplied := by
  unfold Obligations.LinkCommandsTakenAndApplied
  refine ⟨?_, ?_, ?_, ?_, ?_, ?_, ?_, ?_, ?_, ?_⟩
  · intro h a s n late ht hn hl h1 h3
    exact exec_linkCmd_held ht hn hl h1 h3
  · intro a n s hl ha hs he hc hd
    exact applyLinkCmd_attach hl ha hs he hc hd
  · intro a n s hl ha hs he
    exact applyLinkCmd_detach hl ha hs he
  · intro a n s hl ha hs he
    exact applyLinkCmd_retrain hl ha hs he
  · intro a n s hl he _ _ _
    exact applyLinkCmd_disabled hl he
  · intro h link addr n s ht hl
    exact exec_linkQuery_taken ht hl
  · intro h m s ht hf hs
    exact exec_eyeSurvey_taken ht hf hs
  · intro r v rest s hv
    exact exec_eyeSurveyComplete_oldest hv
  · intro h id s ht h0 hF hi
    rw [exec_nodeIdSet_taken ht h0 hF, idInUse, hi, if_neg Bool.false_ne_true]
  · intro h id k s ht h0 hF hi hk
    rw [exec_nodeIdSet_taken ht h0 hF, idInUse, hi, if_pos (decide_eq_true hk)]

end Sys2Proof.Machine

namespace Sys2Proof.Machine

/-! PATH_RESERVE (R200–R205, R209): its acceptance, and one equation of `reservePath` for each of its outcomes. -/

section Reserve

variable {h : CmdHdr} {a : PathReserveArgs} {t : Ticket} {s : State}

/-- A well-formed PATH_RESERVE is taken while fewer than 64 reservations are in progress (R205). -/
theorem exec_pathReserve_taken {w : Nat × Bool} (ht : Taken h true s)
    (hroom : ((hostStores h.stores s).fabric.paths.filter fun p => p.reserving).length < 64)
    (hb : reserveBad (hostStores h.stores s) a = false) (hn : schedule a.tick (hostStores h.stores s) = some w) :
    exec (.pathReserve h a) s = .next (settle (reservePath a (ticketOf h s) (takenState h s))) := by
  obtain ⟨takes, unreserved⟩ := ht
  have wellFormed : (h.reservedSet || reserveBad (hostStores h.stores s) a ||
      (schedule a.tick (hostStores h.stores s)).isNone) = false := by
    rw [unreserved, hb, hn]
    rfl
  have runs : (takeable h.ring h.ordered true (hostStores h.stores s) &&
      decide (((hostStores h.stores s).fabric.paths.filter fun p => p.reserving).length < 64)) = true := by
    rw [takes, decide_eq_true hroom]
    rfl
  simp only [exec, execPathReserve, runs, wellFormed, if_true, Bool.false_eq_true, if_false]
  rfl

theorem reservePath_busy (hp : pathRec s a.addCh a.copy ≠ none) : reservePath a t s = complete t 0x44 0 s :=
  if_pos (Option.isSome_iff_ne_none.mpr hp)

/-- The body of the PATH_SET that a reservation sends (R201). -/
def reserveBody (a : PathReserveArgs) (s : State) : PathBody :=
  { addCh := a.addCh, copy := a.copy, gen := a.gen, result := 0, dropCh := a.dropCh, tap := a.tapMask, failHop := 0,
    limit := if a.limitNs = 0 then tickNs s else a.limitNs.toNat, acc := 0,
    tickLo := BitVec.ofNat 32 (if a.tick = 0 then openTick s else a.tick.toNat), slots := List.replicate 8 0, ret := 0 }

/-- The record of a path while it is being reserved. -/
def reserveRecord (a : PathReserveArgs) (t : Ticket) (s : State) : PathRec :=
  { src := s.node.id, addCh := a.addCh, copy := a.copy, gen := a.gen, hops := a.hops.toNat, dst := a.dst, route := a.route,
    ticket := t, tickField := a.tick, resultAddr := a.resultAddr, reserving := true, live := false, latency := 0, reply := [],
    sent := now s }

/-- A command that needs no answer, or finds the DMA engine running, is not stopped by a halted channel (R403). -/
theorem not_and_halted {addr : BitVec 64} (hr : addr = 0 ∨ dmaHalted s = false) : ¬ (addr ≠ 0 ∧ dmaHalted s = true) := by
  rintro ⟨addressed, halted⟩
  rcases hr with zero | running
  · exact addressed zero
  · exact Bool.false_ne_true (running.symm.trans halted)

section NewPath

variable (hp : pathRec s a.addCh a.copy = none)
include hp

theorem reservePath_halted (hr : a.resultAddr ≠ 0) (hd : dmaHalted s = true) : reservePath a t s = complete t 8 0 s :=
  (if_neg (by rw [hp]; decide)).trans (if_pos ⟨hr, hd⟩)

variable (hr : a.resultAddr = 0 ∨ dmaHalted s = false)
include hr

theorem reservePath_overBudget (hb : regFld s Reg.fswBudget 16 0 < slotsHeld s + a.hops.toNat) :
    reservePath a t s = complete t 3 0 s :=
  (if_neg (by rw [hp]; decide)).trans ((if_neg (not_and_halted hr)).trans (if_pos hb))

/-- A path within the budget whose first hop has a slot is recorded, and its PATH_SET leaves under a tentative add entry. -/
theorem reservePath_forwards {r : PathBody} {o : Fin 16} {e : SwEntry}
    (hb : slotsHeld s + a.hops.toNat ≤ regFld s Reg.fswBudget 16 0)
    (hf : pathAt s s.node.id a.hops.toNat (BitVec.ofNat 64 a.route.toNat) 0 0 (reserveBody a s) = .forward r o e) :
    reservePath a t s = queuePath 0x10 s.node.id a.dst a.hops.toNat (BitVec.ofNat 64 a.route.toNat) r
      (fab (fun f => { f with add := mapPut s.fabric.add (addKey a.addCh a.copy) e })
        (updateUse (fab (fun f => { f with paths := f.paths ++ [reserveRecord a t s] }) s))) := by
  refine (if_neg (by rw [hp]; decide)).trans ((if_neg (not_and_halted hr)).trans
    ((if_neg (Nat.not_lt.mpr hb)).trans ?_))
  simp only [reserveBody] at hf
  simp only [hf]
  rfl

end NewPath

end Reserve

/-! PATH_RESERVE_TIMEOUT (R204). -/

section ReserveTimeout

variable {c : BitVec 12} {copy : Bool} {p : PathRec} {s : State}

theorem exec_pathReserveTimeout_due (hp : pathRec s c copy = some p) (hr : p.reserving = true) (hd : p.sent + 16 ≤ now s) :
    exec (.pathReserveTimeout c copy) s = .next (settle (complete p.ticket 9 0 (clearPath p s))) := by
  simp only [exec, execPathReserveTimeout, hp, if_pos (And.intro hr hd)]
  rfl

theorem exec_pathReserveTimeout_early (hp : pathRec s c copy = some p) (hd : now s < p.sent + 16) :
    exec (.pathReserveTimeout c copy) s = .next s := by
  have waits : ¬ (p.reserving = true ∧ p.sent + 16 ≤ now s) := fun due => Nat.not_le.mpr hd due.2
  simp only [exec, execPathReserveTimeout, hp, if_neg waits]

end ReserveTimeout

/-! PATH_RELEASE, PATH_QUERY and SWITCH_READ as they are taken (R197, R199, R207). -/

section PathTaken

variable {h : CmdHdr} {c : BitVec 12} {copy : Bool} {s : State}

theorem exec_pathRelease_held {tick : BitVec 64} {n : Nat} {late : Bool} (ht : Taken h true s)
    (hn : schedule tick s = some (n, late)) (hc : channelExists s c = true) (hp : pathRec (takenState h s) c copy ≠ none) :
    exec (.pathRelease h tick c copy) s =
      .next (settle (hold n (ticketOf h s) late (.pathRelease c copy) (takenState h s))) := by
  simp only [exec, execPathRelease]
  rw [timedCmd_held ht (by rw [hc]; rfl) hn (if_pos (Option.isSome_iff_ne_none.mpr hp))]
  rfl

theorem exec_pathQuery_known {addr : BitVec 64} {p : PathRec} (ht : Taken h false s) (hc : channelExists s c = true)
    (hp : pathRec (takenState h s) c copy = some p) :
    exec (.pathQuery h c copy addr) s = .next (settle (resultThen (ticketOf h s) addr.toNat
      (Config.pathQueryBytes p.hops p.latency (if p.reserving then 1 else if p.live then 3 else 2)) 0 (takenState h s))) := by
  simp only [exec, execPathQuery]
  rw [untimedCmd_run ht (by rw [hc]; rfl), hp]
  rfl

theorem exec_pathQuery_unknown {addr : BitVec 64} (ht : Taken h false s) (hc : channelExists s c = true)
    (hp : pathRec (takenState h s) c copy = none) :
    exec (.pathQuery h c copy addr) s = .next (settle (complete (ticketOf h s) 0x45 0 (takenState h s))) := by
  simp only [exec, execPathQuery]
  rw [untimedCmd_run ht (by rw [hc]; rfl), hp]
  rfl

/-- A SWITCH_READ of slots that an incoming table has. -/
theorem exec_switchRead_incoming {a : SwitchReadArgs} {l : Fin 16} (ht : Taken h false s) (hl : a.table = .incoming l)
    (h0 : a.count ≠ 0) (hs : a.first + a.count ≤ slotsPerTick s) :
    exec (.switchRead h a) s = .next (settle (resultThen (ticketOf h s) a.resultAddr.toNat
      ((List.range a.count).flatMap fun i => entryBytes (mapGet (takenState h s).fabric.incoming (slotKey l (a.first + i)))) 0
      (takenState h s))) := by
  have inTable : (decide (a.count = 0) || decide (slotsPerTick s < a.first + a.count)) = false := by
    rw [decide_eq_false h0, decide_eq_false (Nat.not_lt.mpr hs)]
    rfl
  simp only [exec, execSwitchRead, hl]
  rw [untimedCmd_run ht inTable]
  rfl

end PathTaken

/-! PAIR_SET and ROLE_SET as they are taken (R214, R219). -/

section PairTaken

variable {h : CmdHdr} {n : Nat} {late : Bool} {s : State}

theorem exec_pairSet_ends {a : PairSetArgs} (ht : Taken h true s) (hn : schedule a.tick s = some (n, late))
    (hp : a.partner = 0) :
    exec (.pairSet h a) s = .next (settle (hold n (ticketOf h s) late (.pairSet a []) (takenState h s))) := by
  simp only [exec, execPairSet, hp, decide_true, Bool.true_or, Bool.not_true, Bool.and_false, Bool.false_and, Bool.false_eq_true,
    if_false, if_true]
  rw [timedCmd_held ht rfl hn rfl]
  rfl

theorem exec_roleSet_held {tick : BitVec 64} {port role : Byte} {p : Fin 8} (ht : Taken h true s)
    (hn : schedule tick s = some (n, late)) (hp : port.toNat = p.val) (hr : role.toNat ≤ 2)
    (ha : twinAllowed (takenState h s) p = true) :
    exec (.roleSet h tick port role) s = .next (hold n (ticketOf h s) late (.roleSet p role.toNat) (takenState h s)) := by
  simp only [exec, execRoleSet, toFin?_some hp]
  rw [timedCmd_held ht (decide_eq_false (Nat.not_lt.mpr hr)) hn (if_pos ha)]
  rfl

end PairTaken

/-- Settles O18: a reservation goes through the branches of `reservePath`, its timeout is a `clearPath`, and the commands held or
answered come down to `timedCmd_held` and `untimedCmd_run`. -/
theorem pathCommandsTaken : Obligations.PathCommandsTaken := by
  unfold Obligations.PathCommandsTaken
  refine ⟨?_, ?_, ?_, ?_, ?_, ?_, ?_, ?_, ?_, ?_, ?_, ?_, ?_⟩
  · intro h a s w ht hroom hb hn
    exact exec_pathReserve_taken ht hroom hb hn
  · intro a t s hp
    exact reservePath_busy hp
  · intro a t s hp hr hd
    exact reservePath_halted hp hr hd
  · intro a t s hp hr hb
    exact reservePath_overBudget hp hr hb
  · intro a t s b r o e hp hr hb hbody hf
    subst hbody
    exact ⟨reserveRecord a t s, _, rfl, rfl, rfl, rfl, rfl, rfl, reservePath_forwards hp hr hb hf⟩
  · intro c copy p s hp hr hd
    exact ⟨clearBody p s, rfl, rfl, rfl, rfl, exec_pathReserveTimeout_due hp hr hd⟩
  · intro c copy p s hp hd
    exact exec_pathReserveTimeout_early hp hd
  · intro h tick c copy s n late ht hn hc hp
    exact exec_pathRelease_held ht hn hc hp
  · intro h c copy addr p s ht hc hp
    exact exec_pathQuery_known ht hc hp
  · intro h c copy addr s ht hc hp
    exact exec_pathQuery_unknown ht hc hp
  · intro h a l s ht hl h0 hs
    exact exec_switchRead_incoming ht hl h0 hs
  · intro h a s n late ht hn hp
    exact exec_pairSet_ends ht hn hp
  · intro h tick port role p s n late ht hn hp hr ha
    exact exec_roleSet_held ht hn hp hr ha

end Sys2Proof.Machine

namespace Sys2Proof.Machine

/-! PATH_SET as it reaches a node (R202, R203, R205): one equation for each answer of `pathAt`. -/

section PathSet

variable {n : Fin 16} {c : Cell} {s : State} {r : PathBody} {e : SwEntry}

/-- The body of a PATH_SET with the link it arrived on in RET_LINKS (R202). -/
def arrivedBody (n : Fin 16) (c : Cell) : PathBody := { pathBody c with ret := setRet (pathBody c).ret (c.hop.toNat - 1) n }

/-- What a node answers to the PATH_SET that reaches it on a link. -/
def pathSetAnswer (n : Fin 16) (c : Cell) (s : State) : PathAnswer :=
  pathAt s c.src c.hops.toNat c.route c.hop.toNat (ofSixteenth s s.links[n].rxOfs) (arrivedBody n c)

/-- The table key of the slot that a PATH_SET names on its arrival link. -/
def arrivalKey (n : Fin 16) (c : Cell) : Nat := slotKey n ((arrivedBody n c).slots.getD (c.hop.toNat - 1) 0)

variable (hc : pathCellHere s n c = true)
include hc

theorem exec_pathSet_refused (hp : pathSetAnswer n c s = .refuse r) :
    exec (.pathSet n c) s = .next (settle (sendReply c.src c.hop.toNat r s)) := by
  simp only [pathSetAnswer, arrivedBody] at hp
  simp only [exec, execPathSet, hc, Bool.not_true, Bool.false_eq_true, if_false, hp, fin]

theorem exec_pathSet_arrived (hp : pathSetAnswer n c s = .arrived r e) :
    exec (.pathSet n c) s = .next (settle (sendReply c.src c.hop.toNat r
      (fab (fun f => { f with incoming := mapPut f.incoming (arrivalKey n c) { e with state := .active } }) s))) := by
  simp only [pathSetAnswer, arrivedBody] at hp
  simp only [exec, execPathSet, hc, Bool.not_true, Bool.false_eq_true, if_false, hp, fin, arrivalKey, arrivedBody]

theorem exec_pathSet_forwarded {o : Fin 16} (hp : pathSetAnswer n c s = .forward r o e) :
    exec (.pathSet n c) s = .next (settle (queueCell o
      { c with hop := c.hop + 1, body := (r.bytes ++ List.replicate 40 0).take 40 }
      (fab (fun f => { f with incoming := mapPut f.incoming (arrivalKey n c) e }) s))) := by
  simp only [pathSetAnswer, arrivedBody] at hp
  simp only [exec, execPathSet, hc, Bool.not_true, Bool.false_eq_true, if_false, hp, fin, arrivalKey, arrivedBody]

end PathSet

/-! PATH_REPLY and PATH_CLEAR along the route, and the answer at its end (R203, R204, R207, R209). -/

section PathReply

variable {n : Fin 16} {c : Cell} {s : State} {k : Nat} {e : SwEntry}

theorem exec_pathReply_ends (hc : pathCellHere s n c = true) (he : c.hop = c.hops) :
    exec (.pathReply n c) s = .next (settle (pathAnswered (pathBody c) c.body s)) := by
  simp only [exec, execPathReply, hc, Bool.not_true, Bool.false_eq_true, if_false, if_pos he, fin]

/-- A PATH_REPLY that passes with RESULT 0 makes the one tentative entry of its path toward its link active. -/
theorem exec_pathReply_passes (hc : pathCellHere s n c = true) (he : c.hop ≠ c.hops) (hr : (pathBody c).result = 0)
    (hm : (s.fabric.incoming.filter fun x => x.2.ofPath c.src (pathBody c).addCh (pathBody c).copy && x.2.toLink n &&
      decide (x.2.state = .tentative)) = [(k, e)]) :
    exec (.pathReply n c) s = .next (settle (forwardCell c
      (fab (fun f => { f with incoming := mapPut f.incoming k { e with state := .active } }) s))) := by
  simp only [exec, execPathReply, hc, Bool.not_true, Bool.false_eq_true, if_false, if_neg he, hm, List.foldl_cons, List.foldl_nil,
    if_pos hr, fin]

/-- A PATH_CLEAR that passes lets the one entry of its path on its link go. -/
theorem exec_pathClear_passes (hc : pathCellHere s n c = true) (he : c.hop ≠ c.hops)
    (hm : (s.fabric.incoming.filter fun x =>
      decide (x.1 / 16384 = n.val) && x.2.ofPath c.src (pathBody c).addCh (pathBody c).copy) = [(k, e)]) :
    exec (.pathClear n c) s = .next (settle (forwardCell c
      (releaseIncoming k (max (now s + 1) (fullTick s (pathBody c).tickLo)) s))) := by
  simp only [exec, execPathClear, hc, Bool.not_true, Bool.false_eq_true, if_false, if_neg he, hm, List.foldl_cons, List.foldl_nil,
    fin]

/-- A reservation that is answered with RESULT 0, with no other copy told of a drop point, waits for its tick. -/
theorem pathAnswered_reserved {b : PathBody} {bytes : List Byte} {p : PathRec} {w : Nat × Bool}
    (hp : pathRec s b.addCh b.copy = some p) (hr : p.reserving = true) (h0 : b.result = 0)
    (hn : schedule p.tickField s = some w) (ht : toldPoint s b.addCh b.copy = none) :
    pathAnswered b bytes s = hold w.1 p.ticket w.2 (.pathActivate b.addCh b.copy)
      (setPath b.addCh b.copy (fun q => { q with reserving := false, latency := b.acc, reply := bytes }) s) := by
  simp only [pathAnswered, hp, hr, Bool.not_true, Bool.false_eq_true, if_false, if_pos h0, hn, Option.getD_some, ht]

end PathReply

/-! PATH_BROKEN and PAIR_DIGEST as they are delivered (R208, R216), and the expiry of a tentative entry (R204). -/

section PathDelivered

variable {n : Fin 16} {c : Cell} {s : State} {e : SwEntry}

/-- A PATH_BROKEN that only finds a downstream entry of its path lets it go and passes on the way the entry forwards. -/
theorem exec_pathBroken_downstream {k : Nat} {o : Fin 16 × Nat} (h : Delivered n c s)
    (hown : (s.fabric.add.filter fun x => x.2.ofPath c.src (pathBody c).addCh (pathBody c).copy && x.2.toLink n) = [])
    (hup : (s.fabric.incoming.filter fun x => x.2.ofPath c.src (pathBody c).addCh (pathBody c).copy && x.2.toLink n) = [])
    (hdown : (s.fabric.incoming.filter fun x =>
      x.2.ofPath c.src (pathBody c).addCh (pathBody c).copy && decide (x.1 / 16384 = n.val)) = [(k, e)])
    (he : e.fwd = some o) :
    exec (.pathBroken n c) s = .next (settle (sendOneHop o.1 0x13 c.src c.body (releaseIncoming k (now s + 1) s))) := by
  simp only [exec, execPathBroken, receiveCell_delivered h, hown, hup, hdown, List.foldl_cons, List.foldl_nil, he, fin]

/-- A run of writes at the keys base + b leaves each of them with its value. -/
theorem mapGet_foldl_mapPut {α : Type} (base : Nat) (f : Nat → α) {b : Nat} : ∀ (l : List Nat) (m : List (Nat × α)),
    b ∈ l ∨ mapGet m (base + b) = some (f b) →
    mapGet (l.foldl (fun m x => mapPut m (base + x) (f x)) m) (base + b) = some (f b)
  | [], m, h => h.resolve_left List.not_mem_nil
  | x :: l, m, h => by
    refine mapGet_foldl_mapPut base f l _ ?_
    by_cases hx : b = x
    · subst hx
      exact .inr (mapGet_mapPut_self ..)
    · rw [mapGet_mapPut_ne _ _ _ _ fun same => hx (Nat.add_left_cancel same)]
      exact h.imp_left fun mem => (List.mem_cons.mp mem).resolve_left hx

theorem mem_setBits {k v b : Nat} (hb : b < k) (hv : bitOf v b = true) : b ∈ setBits k v :=
  List.mem_filter.mpr ⟨List.mem_range.mpr hb, hv⟩

/-- The partner's digests of a tick by group, once a PAIR_DIGEST has brought those it holds (R216). -/
def digestsWith (c : Cell) (old : List (Nat × Word)) : List (Nat × Word) :=
  (setBits 8 (bodyN c 0x1A 1)).foldl
    (fun l b => mapPut l (bodyN c 0x18 2 + b) (BitVec.ofNat 32 (bodyN c (0x1C + 4 * b) 4))) old

theorem mapGet_digestsWith {b : Nat} (old : List (Nat × Word)) (hb : b < 8) (hv : bitOf (bodyN c 0x1A 1) b = true) :
    mapGet (digestsWith c old) (bodyN c 0x18 2 + b) = some (BitVec.ofNat 32 (bodyN c (0x1C + 4 * b) 4)) :=
  mapGet_foldl_mapPut _ (fun b => BitVec.ofNat 32 (bodyN c (0x1C + 4 * b) 4)) _ _ (.inl (mem_setBits hb hv))

/-- The tick whose digests a PAIR_DIGEST holds. -/
def digestTick (c : Cell) (s : State) : Nat := fullTick s (BitVec.ofNat 32 (bodyN c 0x14 4))

theorem exec_pairDigest_partner {p : Pair} (h : Delivered n c s) (hp : s.fabric.pair = some p) (hs : c.src = p.partner) :
    exec (.pairDigest n c) s = .next (settle (fab (fun f =>
      { f with pair := some { p with
          theirs := mapPut p.theirs (digestTick c s) (digestsWith c ((mapGet p.theirs (digestTick c s)).getD [])),
          lastCell := now s } }) s)) := by
  simp only [exec, execPairDigest, receiveCell_delivered h, hp, hs, ne_eq, not_true_eq_false, if_false, fin]
  rfl

theorem exec_tentativeExpiry_due {slot : BitVec 14} (he : mapGet s.fabric.incoming (slotKey n slot.toNat) = some e)
    (ht : e.state = .tentative) (hd : e.since + 32 ≤ now s) :
    exec (.tentativeExpiry n slot) s = .next (settle (freeIncoming (slotKey n slot.toNat) s)) := by
  simp only [exec, execTentativeExpiry, he, if_pos (And.intro ht hd), fin]

end PathDelivered

/-- Settles O19: a PATH_SET goes by the answer of `pathAt`, the other path cells act on the one entry of their path, and the
digests of a PAIR_DIGEST are written at keys of their own. -/
theorem pathCellsActOnEntries : Obligations.PathCellsActOnEntries := by
  unfold Obligations.PathCellsActOnEntries
  refine ⟨?_, ?_, ?_, ?_, ?_, ?_, ?_, ?_, ?_, ?_⟩
  · intro n c s b r hc hb hp
    subst hb
    exact exec_pathSet_refused hc hp
  · intro n c s b r e hc hb hp
    subst hb
    exact exec_pathSet_arrived hc hp
  · intro n c s b r o e hc hb hp
    subst hb
    exact exec_pathSet_forwarded hc hp
  · intro n c s hc he
    exact exec_pathReply_ends hc he
  · intro n c s k e hc he hr hm
    exact exec_pathReply_passes hc he hr hm
  · intro p b bytes s w hp hr h0 hn ht
    exact pathAnswered_reserved hp hr h0 hn ht
  · intro n c s k e hc he hm
    exact exec_pathClear_passes hc he hm
  · intro n c s k e o h hown hup hdown he
    exact exec_pathBroken_downstream h hown hup hdown he
  · intro n c s p h hp hs
    exact ⟨_, exec_pairDigest_partner h hp hs, fun b hb hv => mapGet_digestsWith _ hb hv⟩
  · intro n slot e s he ht hd
    exact exec_tentativeExpiry_due he ht hd

end Sys2Proof.Machine

namespace Sys2Proof.Machine

/-! The activation and the release of a path at their boundary (R203, R207). -/

section PathBoundary

variable {c : BitVec 12} {copy : Bool} {p : PathRec} {s : State}

/-- The activation of a path that is to write no answer into host memory. -/
theorem applyActivate_unaddressed {t : Ticket} {e : SwEntry} (hp : pathRec s c copy = some p)
    (he : mapGet s.fabric.add (addKey c copy) = some e) (hr : p.resultAddr = 0) :
    applyActivate t c copy s = complete t (okOf t) p.latency (setPath c copy (fun q => { q with live := true })
      (fab (fun f => { f with add := mapPut f.add (addKey c copy) { e with state := .active } }) s)) := by
  simp only [applyActivate, hp, he, if_neg (not_and_halted (.inl hr)), if_pos hr]

/-- A path that is not being reserved any more is given up at its release. -/
theorem applyRelease_reserved (hp : pathRec s c copy = some p) (hr : p.reserving = false) :
    applyRelease c copy s = (0, clearPath p s) := by
  simp only [applyRelease, hp, hr, Bool.false_eq_true, if_false]
  rfl

end PathBoundary

/-! PAIR_SET and ROLE_SET at their boundary (R214, R219). -/

section PairBoundary

variable {a : PairSetArgs} {l : List (Nat × Nat)} {s : State}

/-- Only another partner than the one a PAIR_SET names stands in its way. -/
theorem otherPartner_eq_false {id : BitVec 12} (h : ∀ p, s.fabric.pair = some p → id ≠ 0 → p.partner = id) :
    otherPartner s id = false := by
  unfold otherPartner
  split
  · next p hp =>
    rw [Bool.and_eq_false_imp, decide_eq_true_eq]
    exact fun named => decide_eq_false (not_not.mpr (h p hp named))
  · rfl

theorem applyPairSet_ends (ha : a.partner = 0) :
    applyPairSet a l s = (0, { s with fabric := { s.fabric with pair := none } }) :=
  (if_neg (Bool.eq_false_iff.mp (otherPartner_eq_false fun _ _ named => absurd ha named))).trans (if_pos ha)

/-- The pairing that a PAIR_SET starts: no digest kept, no miss counted. -/
def startedPair (a : PairSetArgs) (l : List (Nat × Nat)) (s : State) : Pair :=
  { partner := a.partner, hops := a.hops.toNat, route := a.route, groups := l, since := now s,
    compareFrom := a.compareFrom.toNat, own := [], theirs := [], misses := 0, matched := false, lastCell := now s }

theorem applyPairSet_starts (ha : a.partner ≠ 0) (hp : ∀ p, s.fabric.pair = some p → p.partner = a.partner) :
    applyPairSet a l s = (0, { s with fabric := { s.fabric with pair := some (startedPair a l s) } }) :=
  (if_neg (Bool.eq_false_iff.mp (otherPartner_eq_false fun p kept _ => hp p kept))).trans (if_neg ha)

theorem applyRole_allowed {p : Fin 8} (role : Nat) (h : twinAllowed s p = true) :
    applyRole p role s =
      (0, { s with fabric := { s.fabric with twins := vset s.fabric.twins p { role := role, driving := decide (role = 1) } } }) :=
  if_pos h

end PairBoundary

/-! The takeover of a twin bus (R218, R219, R325). -/

section Takeover

variable {p : Fin 8} {s : State}

/-- A driver that reads back other bits than its own releases its lanes and counts the overlap. -/
theorem exec_twinReadbackMismatch_driver {pos : Byte} (hr : s.fabric.twins[p].role ≠ 0)
    (hd : s.fabric.twins[p].driving = true) :
    exec (.twinReadbackMismatch p pos) s = .next (twinEvent p 1 pos.toNat (bumpFld (Reg.portTwinCount p) 15 0 1
      (fab (fun f => { f with twins := vmod f.twins p fun t => { t with driving := false } }) s))) :=
  (if_neg hr).trans (if_pos hd)

section Standby

variable (hr : s.fabric.twins[p].role = 2) (hd : s.fabric.twins[p].driving = false) (hm : mayTakeOver s = true)
include hr hd hm

theorem exec_twinReadbackMismatch_standby {pos : Byte} :
    exec (.twinReadbackMismatch p pos) s = .next (takeOver p pos.toNat s) :=
  (if_neg (by rw [hr]; decide)).trans ((if_neg (by rw [hd]; decide)).trans (if_pos ⟨hr, hm⟩))

theorem exec_twinDigestTakeover_silent (hs : digestSilent s = true) :
    exec (.twinDigestTakeover p) s = .next (takeOver p 0 s) :=
  if_pos ⟨hr, by rw [hd]; rfl, hm, hs⟩

end Standby

end Takeover

/-- Settles O20: each clause is one branch of its meaning, the release of a path being a `clearPath` and both takeovers
`takeOver`. -/
theorem pathActivationReleaseAndTwins : Obligations.PathActivationReleaseAndTwins := by
  unfold Obligations.PathActivationReleaseAndTwins
  refine ⟨?_, ?_, ?_, ?_, ?_, ?_, ?_, ?_⟩
  · intro t c copy p e s hp he hr
    exact applyActivate_unaddressed hp he hr
  · intro c copy p s hp hr
    exact ⟨clearBody p s, rfl, rfl, rfl, applyRelease_reserved hp hr⟩
  · intro a l s ha
    exact applyPairSet_ends ha
  · intro a l s ha hp
    exact ⟨startedPair a l s, applyPairSet_starts ha hp, rfl, rfl, rfl, rfl, rfl, rfl, rfl⟩
  · intro p role s h
    exact applyRole_allowed role h
  · intro p pos s hr hd
    exact exec_twinReadbackMismatch_driver hr hd
  · intro p pos s hr hd hm
    exact exec_twinReadbackMismatch_standby hr hd hm
  · intro p s hr hd hm hs
    exact exec_twinDigestTakeover_silent hr hd hm hs

end Sys2Proof.Machine

namespace Sys2Proof.Machine

/-! What the taking of a descriptor, and the mark of a flood cell, leave of the switch. -/

@[simp] theorem takenState_fabric (h : CmdHdr) (s : State) : (takenState h s).fabric = s.fabric := by rw [takenState_eq]

@[simp] theorem participates_takenState (h : CmdHdr) (s : State) (g : Word) :
    participates (takenState h s) g = participates s g := by
  rw [takenState_eq]; rfl

@[simp] theorem openTick_markFlood (c : Cell) (s : State) : openTick (markFlood c s) = openTick s := by
  unfold markFlood
  split <;> rfl

@[simp] theorem fabric_markFlood (c : Cell) (s : State) : (markFlood c s).fabric = s.fabric := by
  unfold markFlood
  split <;> rfl

/-! GLOBAL_ARM (R222). -/

section GlobalArm

variable {h : CmdHdr} {a : GlobalArmArgs} {s : State}

theorem exec_globalArm_fits {k : Fin 4} {l : List SnapItem} {o : BObj} (ht : Taken h false s) (hk : a.set.toNat = k.val)
    (h1 : 1 ≤ a.count.toNat) (h256 : a.count.toNat ≤ 256) (ha : aligned8 a.addr = true)
    (hd : dmaHalted (takenState h s) = false) (hl : snapList (takenState h s) a.addr.toNat a.count.toNat = some l)
    (ho : objOf (takenState h s) a.handle.toNat = some o) (hs : o.kind.code = 4)
    (hfit : l.foldl (fun x i => x + i.count) 0 ≤ o.size) :
    exec (.globalArm h a) s = .next (settle (complete (ticketOf h s) 0 0
      (fab (fun f => { f with armed := vset f.armed k (some (a.handle.toNat, l)) }) (takenState h s)))) := by
  have wellFormed : (decide (a.count.toNat = 0) || decide (256 < a.count.toNat) || !aligned8 a.addr) = false := by
    simp only [ha, Bool.not_true, Bool.or_false, Bool.or_eq_false_iff, decide_eq_false_iff_not]
    omega
  have fits := needObj_fits (range := fun o => decide (l.foldl (fun x i => x + i.count) 0 ≤ o.size)) ho hs (decide_eq_true hfit)
  simp only [exec, execGlobalArm, toFin?_some hk]
  rw [untimedCmd_run ht wellFormed]
  simp only [hd, hl, fits, Bool.false_eq_true, if_false]
  rfl

end GlobalArm

/-! GLOBAL_OP at its originator (R222, R223). -/

section GlobalOp

variable {h : CmdHdr} {a : GlobalOpArgs} {s : State}

/-- The operation that a GLOBAL_OP starts at its originator. -/
def originatedOp (a : GlobalOpArgs) (t : Ticket) (s : State) : GlobalOp :=
  { orig := s.node.id, opNo := s.fabric.opNo, order := t.order, kind := a.kind.toNat, tick := a.tick.toNat, groups := a.groups,
    arg := a.arg, parent := none, children := [], reported := [], totals := Totals.zero, execs := participates s a.groups,
    writing := false, ready := false, command := some (t, a.resultAddr) }

/-- The originator with its operation held under the next number. -/
def holdingOp (a : GlobalOpArgs) (t : Ticket) (s : State) : State :=
  fab (fun f => { f with opNo := s.fabric.opNo + 1, ops := f.ops ++ [originatedOp a t s] }) s

/-- A GLOBAL_OP that is not refused is held, and flooded by a node that has an ID (R185). -/
def originateOp (a : GlobalOpArgs) (t : Ticket) (s : State) : State :=
  if s.node.id = 0 then holdingOp a t s
  else sendFlood 0x20 (diameter (holdingOp a t s)) (globalBody s.fabric.opNo a) (holdingOp a t s)

/-- A well-formed GLOBAL_OP is refused without its lead or with 16 operations pending, else originated. -/
theorem exec_globalOp_taken (ht : Taken h true s) (h1 : 1 ≤ a.kind.toNat) (h5 : a.kind.toNat ≤ 5) (hg : a.groups ≠ 0)
    (h0 : a.tick ≠ 0) (hf : a.tick.toNat ≤ now s + 2 ^ 32) (hd : dmaHalted (takenState h s) = false) :
    exec (.globalOp h a) s = .next (settle (
      if a.tick.toNat < now (takenState h s) + globalLead (takenState h s) then complete (ticketOf h s) 0x40 0 (takenState h s)
      else if 16 ≤ (takenState h s).fabric.ops.length then complete (ticketOf h s) 0x41 0 (takenState h s)
      else originateOp a (ticketOf h s) (takenState h s))) := by
  have wellFormed : (decide (a.kind.toNat = 0) || decide (5 < a.kind.toNat) || decide (a.groups = 0) || decide (a.tick = 0) ||
      decide (now s + 2 ^ 32 < a.tick.toNat)) = false := by
    rw [decide_eq_false (by omega : ¬ a.kind.toNat = 0), decide_eq_false (Nat.not_lt.mpr h5), decide_eq_false hg,
      decide_eq_false h0, decide_eq_false (Nat.not_lt.mpr hf)]
    rfl
  simp only [exec, execGlobalOp]
  rw [takenCmd_run ht wellFormed]
  simp only [hd, Bool.false_eq_true, if_false]
  rfl

theorem holdingOp_takenState (t : Ticket) :
    holdingOp a t (takenState h s) = { takenState h s with fabric := { s.fabric with
      opNo := s.fabric.opNo + 1, ops := s.fabric.ops ++ [originatedOp a t s] } } := by
  simp only [holdingOp, originatedOp, fab, takenState_fabric, takenState_node, participates_takenState]

end GlobalOp

/-! The cells of a global operation (R223–R225). -/

section GlobalCells

variable {n : Fin 16} {c : Cell} {s : State}

/-- The operation of a GLOBAL_OP cell, held while the schedule for its tick is open. -/
def receivedOp (n : Fin 16) (c : Cell) (s : State) : GlobalOp :=
  { orig := c.src, opNo := BitVec.ofNat 16 (bodyN c 0x14 2), order := s.hif.order, kind := bodyN c 0x16 1, tick := bodyN c 0x18 8,
    groups := BitVec.ofNat 32 (bodyN c 0x20 4), arg := (c.body.drop 16).take 24, parent := some n, children := [], reported := [],
    totals := Totals.zero, execs := participates s (BitVec.ofNat 32 (bodyN c 0x20 4)), writing := false, ready := false,
    command := none }

theorem exec_globalOpCell_open (h : FloodFresh n c s) {v : State} (hv : v = markFlood c s) (hops : s.fabric.ops.length < 16)
    (ho : openTick s ≤ bodyN c 0x18 8) :
    exec (.globalOpCell n c) s = .next (settle (forwardFlood n c (tryDone c.src (BitVec.ofNat 16 (bodyN c 0x14 2))
      (sendOneHop n 0x21 v.node.id (opName (receivedOp n c v))
        (fab (fun f => { f with ops := f.ops ++ [receivedOp n c v] })
          { v with hif := { v.hif with order := v.hif.order + 1 } }))))) := by
  subst hv
  have room : ¬ globalMax ≤ (markFlood c s).fabric.ops.length := by
    rw [fabric_markFlood]
    exact Nat.not_le.mpr hops
  have onTime : decide (bodyN c 0x18 8 < openTick (markFlood c s)) = false := by
    rw [openTick_markFlood]
    exact decide_eq_false (Nat.not_lt.mpr ho)
  simp only [exec, execGlobalOpCell, receiveCell_flood h, if_neg room, onTime, Bool.false_and, Bool.not_false, Bool.and_true,
    Bool.false_eq_true, if_false, fin]
  rfl

/-- A change of the operation of a name, as one map over the operations. -/
theorem setOp_eq_map {orig : BitVec 12} {no : BitVec 16} {f g : GlobalOp → GlobalOp}
    (hg : ∀ o : GlobalOp, g o = if o.orig = orig ∧ o.opNo = no then f o else o) :
    setOp orig no f s = { s with fabric := { s.fabric with ops := s.fabric.ops.map g } } := by
  have named : (fun o : GlobalOp => if o.named orig no then f o else o) = g := by
    funext o
    simp only [hg o, GlobalOp.named, Bool.and_eq_true, decide_eq_true_eq]
  rw [← named]
  rfl

/-- An ADOPT makes its sender a child of the operation it names, before the operation's tick and once (R224). -/
theorem exec_adopt_delivered (h : Delivered n c s) {f : GlobalOp → GlobalOp} (hf : ∀ o : GlobalOp, f o =
      if o.orig = BitVec.ofNat 12 (bodyN c 0x14 2) ∧ o.opNo = BitVec.ofNat 16 (bodyN c 0x16 2) ∧ now s < o.tick ∧ n ∉ o.children
      then { o with children := o.children ++ [n] } else o) :
    exec (.adopt n c) s = .next (settle { s with fabric := { s.fabric with ops := s.fabric.ops.map f } }) := by
  simp only [exec, execAdopt, receiveCell_delivered h, fin]
  rw [setOp_eq_map (g := f)]
  intro o
  simp only [hf o, ite_and, Bool.not_eq_true', List.contains_eq_mem, decide_eq_false_iff_not]

/-- A DONE adds its totals to those of the operation it names, once for each child (R225). -/
theorem exec_doneCell_delivered (h : Delivered n c s) {f : GlobalOp → GlobalOp} (hf : ∀ o : GlobalOp, f o =
      if o.orig = BitVec.ofNat 12 (bodyN c 0x14 2) ∧ o.opNo = BitVec.ofNat 16 (bodyN c 0x16 2) ∧ n ∈ o.children ∧ n ∉ o.reported
      then { o with
             reported := o.reported ++ [n]
             totals := {
               executed := satN 32 (o.totals.executed + bodyN c 0x18 4), late := satN 32 (o.totals.late + bodyN c 0x1C 4)
               refused := satN 32 (o.totals.refused + bodyN c 0x20 4), lost := satN 32 (o.totals.lost + bodyN c 0x24 4) } }
      else o) :
    exec (.doneCell n c) s = .next (settle (tryDone (BitVec.ofNat 12 (bodyN c 0x14 2)) (BitVec.ofNat 16 (bodyN c 0x16 2))
      { s with fabric := { s.fabric with ops := s.fabric.ops.map f } })) := by
  simp only [exec, execDoneCell, receiveCell_delivered h, fin]
  rw [setOp_eq_map (g := f)]
  intro o
  simp only [hf o, ite_and, Bool.not_eq_true', List.contains_eq_mem, decide_eq_false_iff_not, decide_eq_true_eq]

end GlobalCells

/-! The end of the wait for the children's reports (R225), and the warm reset that follows a GLOBAL_RESET (R221). -/

section GlobalEnds

variable {s : State}

theorem exec_doneTimeout_due {orig : BitVec 12} {no : BitVec 16} {o : GlobalOp} (ho : opNamed s orig no = some o)
    (hd : o.tick + 4 ≤ now s) :
    exec (.doneTimeout orig no) s = .next (settle (sendDone { o with totals := { o.totals with
      lost := satN 32 (o.totals.lost + (o.children.filter fun l => !o.reported.contains l).length) } } s)) := by
  simp only [exec, execDoneTimeout, ho, if_neg (Nat.not_lt.mpr hd), fin]

theorem exec_globalResetWarm_due {n : Nat} (hr : s.fabric.resetAt = some n) (hd : n ≤ now s) :
    exec .globalResetWarm s = .next (resetTo false .globalReset s) :=
  if_pos (by rw [hr]; exact decide_eq_true hd)

end GlobalEnds

/-- Settles O21: a taken GLOBAL_OP comes down to the three outcomes of `exec_globalOp_taken`, and a cell that names an operation to
a map over the operations. -/
theorem globalOperationsFloodAndReport : Obligations.GlobalOperationsFloodAndReport := by
  unfold Obligations.GlobalOperationsFloodAndReport
  refine ⟨?_, ?_, ?_, ?_, ?_, ?_, ?_, ?_, ?_⟩
  · intro h a k l o s ht hk h1 h256 ha hd hl ho hs hfit
    exact exec_globalArm_fits ht hk h1 h256 ha hd hl ho hs hfit
  · intro h a s ht h1 h5 hg h0 hf hd hlead
    rw [exec_globalOp_taken ht h1 h5 hg h0 hf hd, if_pos hlead]
  · intro h a s ht h1 h5 hg h0 hf hd hlead hfull
    rw [exec_globalOp_taken ht h1 h5 hg h0 hf hd, if_neg (Nat.not_lt.mpr hlead), if_pos hfull]
  · intro h a s v ht h1 h5 hg h0 hf hd hlead hroom hv
    have held : v = holdingOp a (ticketOf h s) (takenState h s) := hv.trans (holdingOp_takenState _).symm
    have room : ¬ 16 ≤ (takenState h s).fabric.ops.length := by
      rw [takenState_fabric]
      exact Nat.not_le.mpr hroom
    rw [exec_globalOp_taken ht h1 h5 hg h0 hf hd, if_neg (Nat.not_lt.mpr hlead), if_neg room, originateOp, ← held,
      takenState_node, takenState_fabric]
  · intro n c s v h hv hops ho
    exact ⟨receivedOp n c v, rfl, rfl, rfl, rfl, rfl, rfl, rfl, rfl, rfl, rfl, exec_globalOpCell_open h hv hops ho⟩
  · intro n c s f h hf
    exact exec_adopt_delivered h hf
  · intro n c s f h hf
    exact exec_doneCell_delivered h hf
  · intro orig no o s ho hd
    exact exec_doneTimeout_due ho hd
  · intro n s hr hd
    exact exec_globalResetWarm_due hr hd

end Sys2Proof.Machine

namespace Sys2Proof.Machine

/-! TIME_SYNC (R244, R245). -/

section TimeSync

variable {n : Fin 16} {c : Cell} {s : State}

/-- What a TIME_SYNC tells its link of fabric time, in quarter picoseconds (R245). -/
def syncedTime (n : Fin 16) (c : Cell) (s : State) : LinkTime :=
  { theta := s.links[n].rxOfs * 125 - signed 32 (bodyN c 0x14 4) * 125 - 2 * bodyN c 0x18 2 + 2 * s.links[n].lag -
      signed 16 (regFld s (Reg.fabAsym n) 15 0) * 125,
    delay := s.links[n].rxOfs * 125 + signed 32 (bodyN c 0x14 4) * 125 - 2 * s.links[n].lag - 2 * bodyN c 0x18 2 +
      signed 16 (regFld s (Reg.fabAsym n) 15 0) * 125,
    flags := BitVec.ofNat 8 (bodyN c 0x1A 1), anchor := anchorAt c 0x1C, standby := anchorAt c 0x24, at_ := now s }

theorem exec_timeSync_delivered (h : Delivered n c s) :
    exec (.timeSync n c) s = .next (settle { s with clock := { s.clock with
      ofLink := vset s.clock.ofLink n (some (syncedTime n c s)),
      fabNew := s.clock.fabNew || newerBeat s n (syncedTime n c s) } }) := by
  simp only [exec, execTimeSync, receiveCell_delivered h, fin]
  rfl

end TimeSync

/-! The loss of the anchor (R248). -/

section AnchorLost

variable {s : State}

theorem exec_anchorLost_early (hd : now s < s.clock.beatTick + s.clock.beatLag + 2) : exec .anchorLost s = .next s :=
  if_pos (.inr hd)

/-- The anchor followed so far, declared lost with ANCHOR_LOST raised. -/
def anchorDeclaredLost (a : AnchorEntry) (s : State) : State :=
  raise Src.anchorLost 0 0 { s with clock := { s.clock with lost := some a } }

theorem outer_anchorDeclaredLost (a : AnchorEntry) (s : State) :
    Outer { s with clock := { s.clock with lost := some a } } (anchorDeclaredLost a s) := outer_raise _ _ _ _ (Outer.refl _)

/-- The upstream link toward a standby that is followed from now on, the one so far where none leads there. -/
def standbyUpstream (s : State) : Option (Fin 16) :=
  ((s.clock.standby.bind fun b => (upstreamFor s b.id LinkTime.standby).orElse fun _ => upstreamFor s b.id LinkTime.anchor).map
    (·.1)).orElse fun _ => s.clock.upstream

/-- The node that follows its standby's time. -/
def followsStandby (s : State) : State :=
  { s with clock := { s.clock with
      anchor := s.clock.standby, standby := none, beatTick := now s, upstream := standbyUpstream s } }

/-- The standby that has claimed anchorship with a generation, under a claim of its own. -/
def claimsAsStandby (own : Option AnchorEntry) (g : Byte) (s : State) : State :=
  { s with clock := { s.clock with
      isAnchor := true, isStandby := false, gen := g, upstream := none, betterSince := none, standby := none,
      anchor := own.map fun x => { x with gen := g } } }

variable {a : AnchorEntry} (hn : s.clock.isAnchor = false) (hd : s.clock.beatTick + s.clock.beatLag + 2 ≤ now s)
  (ha : s.clock.anchor = some a)
include hn hd

/-- The newest beat of another node's anchorship is old enough to declare its anchor lost. -/
theorem anchor_overdue : ¬ (s.clock.isAnchor = true ∨ now s < s.clock.beatTick + s.clock.beatLag + 2) := by
  rw [hn, not_or]
  exact ⟨Bool.false_ne_true, Nat.not_lt.mpr hd⟩

include ha

theorem exec_anchorLost_follower (hs : s.clock.isStandby = false) :
    exec .anchorLost s = .next (settle (anchorChanged s.clock.anchor (followsStandby (anchorDeclaredLost a s)))) := by
  have standbyKept : (anchorDeclaredLost a s).clock.standby = s.clock.standby := by rw [(outer_anchorDeclaredLost a s).clock]
  have nowKept : now (anchorDeclaredLost a s) = now s := by rw [now, (outer_anchorDeclaredLost a s).time]; rfl
  simp only [exec, execAnchorLost, if_neg (anchor_overdue hn hd), ha, hs, Bool.false_eq_true, if_false, fin]
  rw [followsStandby, standbyUpstream, nowKept, ← standbyKept]
  rfl

theorem exec_anchorLost_standby (hs : s.clock.isStandby = true) :
    exec .anchorLost s = .next (settle (reselect (anchorChanged s.clock.anchor
      (claimsAsStandby (ownClaim s) (s.clock.gen + 1) (anchorDeclaredLost a s))))) := by
  simp only [exec, execAnchorLost, if_neg (anchor_overdue hn hd), ha, hs, if_true, fin]
  rfl

end AnchorLost

/-! The claim of a node that ranks better than the anchor (R247). -/

section AnchorClaim

variable {s : State}

theorem exec_anchorClaim_due {t : Nat} {o : AnchorEntry} (hb : s.clock.betterSince = some t) (ho : ownClaim s = some o)
    (hn : s.clock.isAnchor = false) (hd : t + wtrS s * refSecond ≤ s.time.refTime) :
    exec .anchorClaim s = .next (settle (reselect (anchorChanged s.clock.anchor { s with clock := { s.clock with
      isAnchor := true, isStandby := false, gen := s.clock.gen + 1, upstream := none, betterSince := none,
      anchor := some { o with gen := s.clock.gen + 1 } } }))) := by
  have due : ¬ (s.clock.isAnchor = true ∨ s.time.refTime < t + wtrS s * refSecond) := by
    rw [hn, not_or]
    exact ⟨Bool.false_ne_true, Nat.not_lt.mpr hd⟩
  simp only [exec, execAnchorClaim, hb, ho, if_neg due, fin]
  rfl

end AnchorClaim

/-- Settles O25: a TIME_SYNC changes what its link holds of fabric time, and raising ANCHOR_LOST leaves the clock and the time as
they are, so that the standby's entry is the one kept before. -/
theorem anchorHeardLostAndClaimed : Obligations.AnchorHeardLostAndClaimed := by
  unfold Obligations.AnchorHeardLostAndClaimed
  refine ⟨?_, ?_, ?_, ?_, ?_⟩
  · intro n c s h
    exact ⟨syncedTime n c s, _, exec_timeSync_delivered h, agreeOff_vset _ _ _, vset_get_self .., rfl, rfl,
      BitVec.toNat_ofNat .., rfl, rfl, rfl⟩
  · intro s _ hd
    exact exec_anchorLost_early hd
  · intro s a hn hd ha hs
    exact ⟨_, followsStandby (anchorDeclaredLost a s), rfl, exec_anchorLost_follower hn hd ha hs, rfl, rfl, rfl, rfl⟩
  · intro s a hn hd ha hs
    exact ⟨_, claimsAsStandby (ownClaim s) (s.clock.gen + 1) (anchorDeclaredLost a s), rfl,
      exec_anchorLost_standby hn hd ha hs, rfl, rfl, rfl, rfl, rfl⟩
  · intro s t o hb ho hn hd
    exact exec_anchorClaim_due hb ho hn hd

end Sys2Proof.Machine

namespace Sys2Proof.Machine

@[simp] theorem sticky_clock (off i : Nat) (s : State) : (sticky off i s).clock = s.clock := rfl

/-! The measured second, input faults and detected signals of the candidates (R231–R236). -/

section Candidates

variable {n : Fin 8} {s : State}

theorem candMod_cand (n : Fin 8) (f : Cand → Cand) (s : State) : (candMod n f s).clock.cands[n] = f s.clock.cands[n] :=
  vmod_get_self s.clock.cands n f

theorem disqualify_state (n : Fin 8) (st : CandState) (s : State) : (disqualify n st s).clock.cands[n].state = st := by
  unfold disqualify
  dsimp only
  split <;> exact congrArg Cand.state (candMod_cand n _ s)

/-- The second's measurements judged: every candidate, then the cross-check and the selection. -/
def secondJudged (m : SecondIn) (s : State) : State :=
  reselect (crossCheck ((fins 8).foldl (fun s n =>
    candSecond n (m.cands.getD n.val { present := false, ofsLocal := 0, ofsOutput := 0, servoNs := 0 }) s)
    { s with clock := { s.clock with temp := m.tempMk } }))

theorem learnSecond_unselected (h : s.clock.selected = none) : learnSecond s = s := by
  simp only [learnSecond, h]

theorem exec_refSecond_unselected {m : SecondIn} (hs : (secondJudged m s).clock.selected = none)
    (hc : claimClass (secondJudged m s) ≠ 0) :
    exec (.refSecond m) s = .next (settle { secondJudged m s with clock := { (secondJudged m s).clock with timeErr := 0xFFFF } }) := by
  unfold secondJudged at hs hc
  simp only [exec, execRefSecond, clk, learnSecond_unselected hs, if_neg hc, fin]
  rfl

theorem exec_refInputFault_present {f : RefFault} (hd : s.clock.cands[n].state ≠ .disabled)
    (ha : s.clock.cands[n].state ≠ .absent) :
    exec (.refInputFault n f) s =
      .next (settle (reselect (disqualify n (if f = .stop then .absent else .qualifying) s))) := by
  simp only [exec]
  unfold execRefInputFault
  split
  · next h => exact absurd h hd
  · next h => exact absurd h ha
  · cases f <;> simp only [fin, reduceCtorEq, if_true, if_false]

theorem exec_refSignalDetect_absent (ha : s.clock.cands[n].state = .absent) (he : candActive s n = true) :
    exec (.refSignalDetect n) s = .next { s with clock := { s.clock with
      cands := vset s.clock.cands n { s.clock.cands[n] with state := .qualifying, left := qualS s } } } :=
  if_pos ⟨ha, he⟩

end Candidates

/-! One update of the DPLL (R228, R236, R237, R242). -/

section Dpll

variable {x e : Int} {n : Fin 8} {bw lim dt : Nat} {c : Clock} {s : State}

/-- The clock at an update: the offset of the last word has accumulated, 10 µs more have passed. -/
def accumulated (s : State) : State :=
  { s with clock := { s.clock with accum := s.clock.accum + (s.clock.integ + s.clock.corr), sinceUs := s.clock.sinceUs + 10 } }

/-- The next control word is written from the output's offset. -/
def wordWritten (s : State) : State :=
  { s with clock := { s.clock with fcw := controlWord (s.clock.integ + s.clock.corr) } }

theorem exec_dpllUpdate (x : Int) (s : State) :
    exec (.dpllUpdate x) s = .next (settle (wordWritten (loopUpdate x (accumulated s)))) := rfl

theorem loopUpdate_unselected (hf : isFollower s = false) (hs : s.clock.selected = none) :
    loopUpdate x s = { s with clock := { s.clock with integ := holdFreq s, corr := 0 } } := by
  simp only [loopUpdate, loopBandwidth, hf, hs, Bool.false_eq_true, if_false, Option.map_none, clk]

theorem loopUpdate_noBeat (hf : isFollower s = true) (hb : s.clock.fabNew = false) : loopUpdate x s = s := by
  simp only [loopUpdate, loopBandwidth, hf, hb, if_true, Bool.false_eq_true, if_false]

theorem loopUpdate_selected (hf : isFollower s = false) (hs : s.clock.selected = some n) :
    loopUpdate x s = dpllStep (bandwidth s n) s.clock.sinceUs (decide (candType s n = 1) || decide (candType s n = 2))
      (phaseError s n x) s := by
  simp only [loopUpdate, loopBandwidth, hf, hs, Bool.false_eq_true, if_false, Option.map_some]

/-- The time for which the error has stayed below 100 ns, `dt` µs later. -/
def lowAfter (dt : Nat) (e : Int) (c : Clock) : Nat := if e.natAbs < 100 then c.lowUs + dt else 0

/-- A phase error of an input that carries no time can raise no TIME_FAR. -/
theorem dpllStep_noTime (bw dt : Nat) (e : Int) (s : State) :
    dpllStep bw dt false e s = { s with clock := loopStep bw (slope s * 10 ^ 13) dt e { s.clock with
      error := clampI (-2147483648) 2147483647 e, lowUs := lowAfter dt e s.clock,
      dpll := dpllAfter (belowThreshold s bw e) (lowAfter dt e s.clock) s.clock.dpll,
      timeFar := false, sinceUs := 0, fabNew := false } } := rfl

theorem loopStep_slew_ahead (hd : c.dpll = .slew) (he : 0 < e) : loopStep bw lim dt e c = { c with corr := -lim } := by
  simp only [loopStep, hd, he, if_true]

theorem loopStep_follows (hd : c.dpll ≠ .slew) :
    loopStep bw lim dt e c = { c with
      corr := clampI (-lim) lim (-(2 * (bw * 6283185307 : Nat) * e)),
      integ := c.integ - roundDiv ((bw * 6283185307 : Nat) ^ 2 * e * dt) (10 ^ 18) } := if_neg hd

/-! An update toward WCK, which carries no time. -/

section Wck

variable (hf : isFollower s = false) (hs : s.clock.selected = some n) (ht : candType s n = 3)
include hf hs ht

theorem exec_dpllUpdate_wck (x : Int) : exec (.dpllUpdate x) s = .next (settle (wordWritten
    (dpllStep (bandwidth s n) (s.clock.sinceUs + 10) false (phaseError s n x) (accumulated s)))) := by
  have carriesNoTime : (decide (candType (accumulated s) n = 1) || decide (candType (accumulated s) n = 2)) = false := by
    have kept : candType (accumulated s) n = 3 := ht
    rw [kept]
    rfl
  rw [exec_dpllUpdate, loopUpdate_selected (s := accumulated s) hf hs, carriesNoTime]
  rfl

theorem exec_dpllUpdate_locks {f g : Int} (hd : s.clock.dpll = .tracking) (he : (phaseError s n x).natAbs < 100)
    (hl : 10000000 ≤ s.clock.lowUs + (s.clock.sinceUs + 10))
    (hcorr : f = clampI (-(slope s * 10 ^ 13 : Nat)) (slope s * 10 ^ 13 : Nat)
      (-(2 * (bandwidth s n * 6283185307 : Nat) * phaseError s n x)))
    (hinteg : g = s.clock.integ -
      roundDiv ((bandwidth s n * 6283185307 : Nat) ^ 2 * phaseError s n x * (s.clock.sinceUs + 10 : Nat)) (10 ^ 18)) :
    exec (.dpllUpdate x) s = .next (settle { s with clock := { s.clock with
      accum := s.clock.accum + (s.clock.integ + s.clock.corr), sinceUs := 0, fabNew := false,
      error := clampI (-2147483648) 2147483647 (phaseError s n x), lowUs := s.clock.lowUs + (s.clock.sinceUs + 10),
      dpll := .locked, timeFar := false, corr := f, integ := g, fcw := controlWord (g + f) } }) := by
  have low : lowAfter (s.clock.sinceUs + 10) (phaseError s n x) (accumulated s).clock = s.clock.lowUs + (s.clock.sinceUs + 10) :=
    if_pos he
  have locks (below : Bool) : dpllAfter below (s.clock.lowUs + (s.clock.sinceUs + 10)) (accumulated s).clock.dpll = .locked := by
    have kept : (accumulated s).clock.dpll = .tracking := hd
    rw [kept]
    exact if_pos hl
  rw [exec_dpllUpdate_wck hf hs ht, dpllStep_noTime, low, locks, loopStep_follows DpllState.noConfusion, hcorr, hinteg]
  rfl

theorem exec_dpllUpdate_slews (hd : s.clock.dpll = .slew) (he : 100 ≤ phaseError s n x)
    (hb : belowThreshold s (bandwidth s n) (phaseError s n x) = false) :
    exec (.dpllUpdate x) s = .next (settle { s with clock := { s.clock with
      accum := s.clock.accum + (s.clock.integ + s.clock.corr), sinceUs := 0, fabNew := false,
      error := clampI (-2147483648) 2147483647 (phaseError s n x), lowUs := 0, timeFar := false,
      corr := -(slope s * 10 ^ 13 : Nat), fcw := controlWord (s.clock.integ + -(slope s * 10 ^ 13 : Nat)) } }) := by
  have low : lowAfter (s.clock.sinceUs + 10) (phaseError s n x) (accumulated s).clock = 0 := if_neg (by omega)
  have slews : dpllAfter (belowThreshold (accumulated s) (bandwidth s n) (phaseError s n x)) 0 (accumulated s).clock.dpll = .slew := by
    have kept : (accumulated s).clock.dpll = .slew := hd
    have above : belowThreshold (accumulated s) (bandwidth s n) (phaseError s n x) = false := hb
    rw [kept, above]
    rfl
  rw [exec_dpllUpdate_wck hf hs ht, dpllStep_noTime, low, slews, loopStep_slew_ahead rfl (by omega), ← hd]
  rfl

end Wck

end Dpll

/-! Tick alignment (R241). -/

section Alignment

variable {n : Fin 8} {t : TimeVal} {s : State}

section First

variable (ha : s.time.aligned = false) (hq : s.clock.cands[n].state = .qualified)
include ha hq

theorem not_aligned_or_unqualified : ¬ (s.time.aligned = true ∨ s.clock.cands[n].state ≠ .qualified) := by
  simp only [ha, hq, Bool.false_eq_true, ne_eq, not_true, or_self, not_false_iff]

theorem exec_tickAlignment_ptp (ht : candType s n = 2) : exec (.tickAlignment n t) s = .next (alignAt (unitsOf t) s) := by
  simp only [exec, execTickAlignment, if_neg (not_aligned_or_unqualified ha hq), ht]

theorem exec_tickAlignment_pps (ht : candType s n = 6) : exec (.tickAlignment n t) s =
    .next (alignAt ((s.clock.nodeUnits + refSecond / 2) / refSecond * refSecond) s) := by
  simp only [exec, execTickAlignment, if_neg (not_aligned_or_unqualified ha hq), ht]

theorem exec_tickAlignment_edge (ht : candType s n = 3 ∨ candType s n = 4 ∨ candType s n = 5) :
    exec (.tickAlignment n t) s = .next (alignEdge s) := by
  simp only [exec, execTickAlignment, if_neg (not_aligned_or_unqualified ha hq)]
  obtain ht | ht | ht := ht <;> rw [ht] <;> rfl

end First

theorem alignWaitOver_none_qualified (hr : s.power.stage = .hostReady)
    (hw : s.power.readyAt + regFld s Reg.refAlignCtrl 7 0 * refSecond ≤ s.time.refTime)
    (hn : ∀ n : Fin 8, s.clock.cands[n].state ≠ .qualified) : alignWaitOver s = true := by
  have none_qualified : (fins 8).any (fun n : Fin 8 => decide (s.clock.cands[n].state = .qualified) && candActive s n) = false := by
    rw [List.any_eq_false]
    intro n _
    rw [decide_eq_false (hn n), Bool.false_and]
    exact Bool.false_ne_true
  simp only [alignWaitOver, none_qualified, hr, hw, decide_true, Bool.not_false, Bool.and_self]

theorem exec_alignWaitExpiry_over (ha : s.time.aligned = false) (hw : alignWaitOver s = true) :
    exec .alignWaitExpiry s = .next (alignAt s.clock.nodeUnits s) := by
  simp only [exec, execAlignWaitExpiry, ha, hw, Bool.not_true, Bool.false_eq_true, or_self, if_false]

theorem exec_alignWaitExpiry_early (hw : alignWaitOver s = false) : exec .alignWaitExpiry s = .next s := by
  simp only [exec, execAlignWaitExpiry, hw, Bool.not_false, or_true, if_true]

/-- A timed action under a counter that has been loaded, whose first open tick is `o` (R16, R23). -/
def Timed.reloaded (o : Nat) (x : Timed) : Timed :=
  if o ≤ x.tick then x else { x with tick := o, ticket := { x.ticket with late := true } }

theorem timed_loadTick (k : Nat) (ns : Int) (s : State) :
    (loadTick k ns s).timed = s.timed.map (Timed.reloaded (openTick (loadTick k ns s))) := rfl

theorem Timed.reloaded_act (o : Nat) (x : Timed) : (x.reloaded o).act = x.act := by
  unfold Timed.reloaded; split <;> rfl

theorem Timed.reloaded_tick (o : Nat) (x : Timed) : (x.reloaded o).tick = max x.tick o := by
  unfold Timed.reloaded
  split
  · next h => exact (max_eq_left h).symm
  · next h => exact (max_eq_right (Nat.le_of_not_le h)).symm

theorem Timed.reloaded_late {o : Nat} {x : Timed} (h : (x.reloaded o).tick ≠ x.tick) : (x.reloaded o).ticket.late = true := by
  unfold Timed.reloaded at h ⊢
  split
  · next ho => simp only [if_pos ho, ne_eq, not_true] at h
  · rfl

end Alignment

/-- Settles O24: with nothing selected a second learns nothing; an update of the DPLL is a step of its loop between the
accumulation and the next word (`exec_dpllUpdate`); the alignments all load the counter. -/
theorem candidatesQualifySelectAndAlign : Obligations.CandidatesQualifySelectAndAlign := by
  unfold Obligations.CandidatesQualifySelectAndAlign
  refine ⟨?_, ?_, ?_, ?_, ?_, ?_, ?_, ?_, ?_, ?_, ?_, ?_, ?_, ?_, ?_, ?_⟩
  · rintro m _ s rfl hs hc
    exact exec_refSecond_unselected hs hc
  · intro n f s hd ha
    exact exec_refInputFault_present hd ha
  · exact disqualify_state
  · intro n s ha he
    exact ⟨_, exec_refSignalDetect_absent ha he, agreeOff_vset _ _ _, vset_get_self ..⟩
  · intro x s hf hs
    rw [exec_dpllUpdate, loopUpdate_unselected (s := accumulated s) hf hs]
    rfl
  · intro x s hf hb
    rw [exec_dpllUpdate, loopUpdate_noBeat (s := accumulated s) hf hb]
    rfl
  · rintro x _ f g n _ s hf hs ht hd rfl he hl rfl hcorr hinteg
    exact exec_dpllUpdate_locks hf hs ht hd he hl hcorr hinteg
  · rintro x _ _ n s hf hs ht hd rfl he hb rfl
    exact exec_dpllUpdate_slews hf hs ht hd he hb
  · intro n t s ha hq ht
    exact exec_tickAlignment_ptp ha hq ht
  · intro n t s ha hq ht
    exact exec_tickAlignment_pps ha hq ht
  · intro n t s ha hq ht
    exact exec_tickAlignment_edge ha hq ht
  · intro s ha hr hw hn
    exact exec_alignWaitExpiry_over ha (alignWaitOver_none_qualified hr hw hn)
  · intro s hw
    exact exec_alignWaitExpiry_early hw
  · intro u s
    exact ⟨rfl, rfl, rfl⟩
  · intro s
    exact ⟨rfl, rfl, rfl, rfl⟩
  · intro k ns s x hx
    exact ⟨_, timed_loadTick k ns s ▸ List.mem_map_of_mem hx, Timed.reloaded_act .., Timed.reloaded_tick .., Timed.reloaded_late⟩

end Sys2Proof.Machine

namespace Sys2Proof.Machine

/-! Registers: what is written reads back, and the writes that do more than store (R525, R526). -/

section Registers

variable {s : State} {v : Word} {off i : Nat}

theorem regGet_regSet_self (off : Nat) (v : Word) (s : State) : regGet (regSet off v s) off = v := by
  unfold regGet
  rw [regSet_regs, regPut]
  split
  · next h => rw [mapGet_mapErase_self, Option.getD_none, h]
  · rw [mapGet_mapPut_self, Option.getD_some]

theorem regGet_regSetFld_ne {o : Nat} (hi lo k : Nat) (s : State) (h : off ≠ o) :
    regGet (regSetFld o hi lo k s) off = regGet s off := regGet_regSet_ne _ _ h

theorem flag_setFld_one (w : Word) (h : i < 32) : flag (setFld w i i 1) i = true := by
  have value : 1 % 2 ^ (i + 1 - i) * 2 ^ i = 2 ^ i := by
    rw [Nat.add_sub_cancel_left, Nat.one_mod_two_pow_eq_one.mpr Nat.one_pos, Nat.one_mul]
  rw [flag, setFld, value, BitVec.getLsbD_or, BitVec.getLsbD_ofNat, decide_eq_true h, Nat.testBit_two_pow_self, Bool.and_self,
    Bool.or_true]

theorem regBit_regSetFld_one (off : Nat) (s : State) (h : i < 32) : regBit (regSetFld off i i 1 s) off i = true := by
  rw [regBit, regSetFld, regMod, regGet_regSet_self, flag_setFld_one _ h]

theorem flag_of_fld_one (h : fld v i i = 1) : flag v i = true := by
  rw [fld, bitsOf, Nat.add_sub_cancel_left, pow_one] at h
  rw [flag, BitVec.getLsbD, Nat.testBit_eq_decide_div_mod_eq, h, decide_eq_true rfl]

/-- A write below the protection registers, whose register does more than store, has that effect. -/
theorem regWrite_lowWrite {mode : Word → State → State} {path : AccessPath} {t : State} (hr : (regRow off).isSome = true)
    (ho : off < 0x8400) (he : off ≠ Reg.dmaErrStat) (hw : lowWrite mode off v s = some t) : regWrite mode path off v s = t := by
  obtain ⟨r, hr⟩ := Option.isSome_iff_exists.mp hr
  have notProt : ¬ (0x9000 ≤ off ∧ off < 0xA000) := by omega
  have notSump : ¬ (0x8400 ≤ off ∧ off < 0x8800) := by omega
  have low : off < 0x10000 := by omega
  simp only [regWrite, hr, if_neg notProt, if_neg notSump, if_neg he, if_pos low, hw, Option.getD_some]

theorem busWrite_open {path : AccessPath} (hp : path ≠ .mb0) (ho : regsOpen s = true) :
    busWrite path off v s = regWrite setMode path off v s := by
  have served : ¬ (path = .mb0 ∨ (!regsOpen s) = true) := by simp [hp, ho]
  rw [busWrite, pathWrite, if_neg served]

end Registers

/-! The PLLs: a lost lock (R252), a lock (R250, R258) and a measurement (R251). -/

section Plls

variable {p : Fin 6} {k : Nat} {f : BitVec 24} {s : State}

/-- The PLL has lost its lock: its sticky bit is set and PLL_UNLOCK raised. -/
def unlocked (p : Fin 6) (s : State) : State :=
  raise Src.pllUnlock p 0 (sticky Reg.clkUnlockStat p
    { s with clock := { s.clock with plls := vset s.clock.plls p { s.clock.plls[p] with locked := false } } })

theorem exec_pllUnlock_other (h4 : p ≠ 4) (h3 : p ≠ 3) : exec (.pllUnlock p) s = .next (settle (unlocked p s)) := by
  simp only [exec, execPllUnlock, if_neg h4, if_neg h3, fin]
  rfl

theorem exec_pllUnlock_media (s : State) : exec (.pllUnlock 4) s = .next (settle (stopMasters (unlocked 4 s))) := rfl

theorem exec_pllUnlock_serdes (s : State) : exec (.pllUnlock 3) s = .next (settle
    ((fins 16).foldl (fun s n => if s.links[n].state = .down then s else linkLost n s) (unlocked 3 s))) := rfl

theorem lockPll_miss {step : Bool} (hx : (bandTries s p (vcoKhz s step p))[k]? = none) :
    lockPll p step k f s = (false, raise Src.pllBandMiss p 0 (sticky Reg.clkUnlockStat (8 + p.val)
      { s with clock := { s.clock with plls := vset s.clock.plls p { s.clock.plls[p] with locked := false } } })) := by
  simp only [lockPll, hx, setPll, clk]

theorem lockPll_near {step : Bool} {x : Nat × Nat × Nat} (hx : (bandTries s p (vcoKhz s step p))[k]? = some x)
    (hf : 1000 * ((f.toNat : Int) - x.2.2).natAbs ≤ 5 * x.2.2) :
    lockPll p step k f s =
      (true, { s with clock := { s.clock with plls := vset s.clock.plls p { locked := true, band := x.2.1 } } }) := by
  simp only [lockPll, hx, setPll, clk, decide_eq_false hf.not_gt, Bool.false_eq_true, if_false]

section Requested

variable (hl : s.clock.plls[p].locked = false) (hr : pllRequested s p = true) (hs : s.power.stage = .hostReady)
include hl hr hs

theorem pll_may_lock : ¬ (s.clock.plls[p].locked = true ∨ (!pllRequested s p) = true ∨
    (s.power.stage ≠ .verified ∧ s.power.stage ≠ .hostReady)) := by
  simp only [hl, hr, hs, Bool.false_eq_true, Bool.not_true, ne_eq, not_true, and_false, or_self, not_false_iff]

theorem exec_pllLock_near {x : Nat × Nat × Nat} (hx : (bandTries s p (vcoKhz s (coreStepped s) p))[k]? = some x)
    (hf : 1000 * ((f.toNat : Int) - x.2.2).natAbs ≤ 5 * x.2.2) :
    exec (.pllLock p k f) s = .next (settle (domainStarts p
      { s with clock := { s.clock with plls := vset s.clock.plls p { locked := true, band := x.2.1 } } })) := by
  simp only [exec, execPllLock, if_neg (pll_may_lock hl hr hs), lockPll_near hx hf, if_true, fin]

theorem exec_pllLock_miss (hx : (bandTries s p (vcoKhz s (coreStepped s) p))[k]? = none) :
    exec (.pllLock p k f) s = .next (settle (raise Src.pllBandMiss p 0 (sticky Reg.clkUnlockStat (8 + p.val)
      { s with clock := { s.clock with plls := vset s.clock.plls p { s.clock.plls[p] with locked := false } } }))) := by
  simp only [exec, execPllLock, if_neg (pll_may_lock hl hr hs), lockPll_miss hx, Bool.false_eq_true, if_false, fin]

end Requested

/-- A measurement of PLL `k` has been started. -/
def measuringPll (k : Nat) (s : State) : State :=
  { regSet Reg.pllMeasCtrl (BitVec.ofNat 32 k) s with clock := { s.clock with measuring := some k } }

theorem startMeasure_start {v : Word} (h3 : fld v 3 3 = 1) (h6 : fld v 2 0 < 6) : startMeasure v s = measuringPll (fld v 2 0) s := by
  simp only [startMeasure, flag_of_fld_one h3, if_true, Nat.add_zero, if_pos h6]
  rfl

theorem exec_pllMeasStart_open {path : AccessPath} {v : Word} (hp : path ≠ .mb0) (ho : regsOpen s = true) :
    exec (.pllMeasStart path v) s = .next (settle (startMeasure v s)) := by
  have row : (regRow Reg.pllMeasCtrl).isSome = true := by decide
  simp only [exec, execPllMeasStart, writeCmd, fin, busWrite_open hp ho]
  rw [regWrite_lowWrite row (by decide) (by decide) rfl]

/-- A measurement has ended: no PLL is being measured, PLL_MEAS holds the band and the frequency, DONE is set. -/
def measured (p : Fin 6) (f : BitVec 24) (s : State) : State :=
  regSetFld Reg.pllMeasCtrl 31 31 1 (regSet Reg.pllMeas (BitVec.ofNat 32 (s.clock.plls[p].band % 256 + f.toNat * 256))
    { s with clock := { s.clock with measuring := none } })

theorem exec_pllMeasDone_measuring (h : s.clock.measuring = some p.val) : exec (.pllMeasDone f) s = .next (measured p f s) := by
  simp only [exec, execPllMeasDone, h, vgetD, dif_pos p.isLt]
  rfl

end Plls

/-! PULSE_CFG_m and the commands of the clocking (R241, R255, R259, R260). -/

section ClockCommands

@[simp] theorem takenState_clock (h : CmdHdr) (s : State) : (takenState h s).clock = s.clock := by rw [takenState_eq]

@[simp] theorem takenState_time (h : CmdHdr) (s : State) : (takenState h s).time = s.time := by rw [takenState_eq]

variable {h : CmdHdr} {n : Nat} {late : Bool} {s : State}

theorem exec_pulseCfgWrite_open {path : AccessPath} {v : Word} (m : Fin 2) (hp : path ≠ .mb0) (ho : regsOpen s = true) :
    exec (.pulseCfgWrite path m v) s = .next (settle (writePulseCfg m v s)) := by
  have row : ∀ m : Fin 2, (regRow (Reg.pulseCfg m)).isSome = true := by decide
  have below : ∀ m : Fin 2, Reg.pulseCfg m < 0x8400 ∧ Reg.pulseCfg m ≠ Reg.dmaErrStat := by decide
  have effect : lowWrite setMode (Reg.pulseCfg m) v s = some (writePulseCfg m v s) := by
    match m with
    | 0 => rfl
    | 1 => rfl
  simp only [exec, execPulseCfgWrite, writeCmd, fin, busWrite_open hp ho]
  rw [regWrite_lowWrite (row m) (below m).1 (below m).2 effect]

theorem exec_timeSet_unaligned {sec : BitVec 64} (ht : Taken h false s) (ha : s.time.aligned = false) :
    exec (.timeSet h sec) s = .next (settle (complete (ticketOf h s) 0 0 { (takenState h s) with clock := { s.clock with
      nodeUnits := sec.toNat * refSecond + s.clock.nodeUnits % refSecond, timeSet := true } })) := by
  simp only [exec, execTimeSet, fin]
  rw [untimedCmd_run ht rfl]
  simp only [takenState_time, ha, Bool.false_eq_true, if_false, clk, takenState_clock]
  rfl

theorem exec_timeSet_aligned {sec : BitVec 64} (ht : Taken h false s) (ha : s.time.aligned = true) :
    exec (.timeSet h sec) s = .next (settle (complete (ticketOf h s) 0x40 0 (takenState h s))) := by
  simp only [exec, execTimeSet, fin]
  rw [untimedCmd_run ht rfl]
  simp only [takenState_time, ha, if_true]

theorem exec_refQuery_taken {addr : BitVec 64} (ht : Taken h false s) (ha : aligned8 addr = true) :
    exec (.refQuery h addr) s = .next (settle { (takenState h s) with clock := { s.clock with
      queries := s.clock.queries ++ [(ticketOf h s, addr)] } }) := by
  simp only [exec, execRefQuery, fin]
  rw [untimedCmd_run ht (by rw [ha]; rfl)]
  simp only [clk, takenState_clock]

theorem exec_refForce_held {tick : BitVec 64} {c : Byte} (ht : Taken h true s) (hn : schedule tick s = some (n, late))
    (hc : c.toNat < 8 ∨ c = 0xFF) :
    exec (.refForce h tick c) s = .next (settle (hold n (ticketOf h s) late (.refForce (toFin? 8 c.toNat)) (takenState h s))) := by
  by_cases hff : c = 0xFF
  · have free : toFin? 8 c.toNat = none := toFin?_none (by rw [hff]; decide)
    simp only [exec, execRefForce, if_pos hff, free, fin]
    rw [timedCmd_held ht rfl hn rfl]
    rfl
  · have slot : toFin? 8 c.toNat = some ⟨c.toNat, hc.resolve_right hff⟩ := toFin?_some rfl
    simp only [exec, execRefForce, if_neg hff, slot, fin]
    rw [timedCmd_held ht rfl hn rfl]
    rfl

theorem exec_pulseAlign_held {tick : BitVec 64} {m : BitVec 10} (ht : Taken h true s) (hn : schedule tick s = some (n, late))
    (hm : m ≠ 0) :
    exec (.pulseAlign h tick m) s = .next (settle (hold n (ticketOf h s) late (.pulseAlign m) (takenState h s))) := by
  simp only [exec, execPulseAlign, fin]
  rw [timedCmd_held ht (decide_eq_false hm) hn rfl]
  rfl

end ClockCommands

/-! REF_FORCE at its boundary (R260). -/

section ForcedReference

variable {n : Fin 8} {s : State}

theorem applyRefForce_selectable (hf : isFollower s = false)
    (hc : s.clock.cands[n].state = .qualified ∨ s.clock.cands[n].state = .waitRestore) :
    applyRefForce (some n) s = (0, reselect { s with clock := { s.clock with
      cands := vset s.clock.cands n { s.clock.cands[n] with state := .qualified, left := 0, everQualified := true },
      forced := some n } }) := by
  have selectable : ¬ (s.clock.cands[n].state ≠ .qualified ∧ s.clock.cands[n].state ≠ .waitRestore) := by tauto
  simp only [applyRefForce, hf, Bool.false_and, Bool.false_eq_true, if_false, if_neg selectable]
  rfl

theorem applyRefForce_refused (hf : isFollower s = false) (hq : s.clock.cands[n].state ≠ .qualified)
    (hw : s.clock.cands[n].state ≠ .waitRestore) : applyRefForce (some n) s = (0x41, s) := by
  simp only [applyRefForce, hf, Bool.false_and, Bool.false_eq_true, if_false, if_pos (And.intro hq hw)]

end ForcedReference

/-- Settles O26: the register writes have the effects of PLL_MEAS_CTRL and PULSE_CFG_m, the lock and its loss go by the band that
is tried and by the PLL, and the commands come down to `untimedCmd_run` and `timedCmd_held`. -/
theorem pllsPulsesAndForcedReference : Obligations.PllsPulsesAndForcedReference := by
  unfold Obligations.PllsPulsesAndForcedReference
  refine ⟨?_, ?_, ?_, ?_, ?_, ?_, ?_, ?_, ?_, ?_, ?_, ?_, ?_, ?_, ?_⟩
  · rintro p _ s h4 h3 rfl
    exact exec_pllUnlock_other h4 h3
  · rintro _ s rfl
    exact exec_pllUnlock_media s
  · rintro _ s rfl
    exact exec_pllUnlock_serdes s
  · intro p k f x s hl hr hs hx hf
    exact exec_pllLock_near hl hr hs hx hf
  · intro p k f s hl hr hs hx
    exact exec_pllLock_miss hl hr hs hx
  · intro path v s hp ho h3 h6
    refine ⟨measuringPll (fld v 2 0) s, ?_, rfl, regGet_regSet_self _ _ s, fun off hoff => regGet_regSet_ne _ s hoff, rfl⟩
    rw [exec_pllMeasStart_open hp ho, startMeasure_start h3 h6]
  · intro f p s hm
    refine ⟨measured p f s, exec_pllMeasDone_measuring hm, ?_, regBit_regSetFld_one _ _ (by decide), ?_, rfl⟩
    · rw [measured, regGet_regSetFld_ne _ _ _ _ (by decide), regGet_regSet_self]
    · intro off hmeas hctrl
      rw [measured, regGet_regSetFld_ne _ _ _ _ hctrl, regGet_regSet_ne _ _ hmeas]
      rfl
  · intro path m v s hp ho
    exact exec_pulseCfgWrite_open m hp ho
  · intro h sec s ht ha
    exact exec_timeSet_unaligned ht ha
  · intro h sec s ht ha
    exact exec_timeSet_aligned ht ha
  · intro h addr s ht ha
    exact exec_refQuery_taken ht ha
  · intro h tick c s n late ht hn hc
    exact exec_refForce_held ht hn hc
  · intro h tick m s n late ht hn hm
    exact exec_pulseAlign_held ht hn hm
  · intro n s hf hc
    exact ⟨_, agreeOff_vset _ _ _, vset_get_self .., applyRefForce_selectable hf hc⟩
  · intro n s hf hq hw
    exact applyRefForce_refused hf hq hw

end Sys2Proof.Machine

namespace Sys2Proof.Machine

/-! What the taking of a descriptor leaves of the ports' network. -/

@[simp] theorem takenState_net (h : CmdHdr) (s : State) : (takenState h s).net = s.net := by rw [takenState_eq]

/-! CMP_SET (R273, R279, R280): one equation per outcome. -/

section CmpSet

variable {h : CmdHdr} {a : CmpSetArgs} {s : State}

/-- A unit as a CMP_SET that only reports leaves it (R279, R280), its first fire being at `next`. -/
def plainCmp (a : CmpSetArgs) (period : Nat) (next : Option Nat) : Comparator :=
  { action := 1, arg := a.arg.toNat, report := a.report, pulse := a.pulseNs.toNat, period := period, next := next }

theorem period_pos_of_cmpBad_eq_false (hb : cmpBad a = false) (hp : a.periodic = true) : 0 < a.period.toNat := by
  simp only [cmpBad, hp, if_true, Bool.or_eq_false_iff, decide_eq_false_iff_not, Nat.not_lt] at hb
  omega

/-- The first fire of a periodic unit that does not lie in the past (R280). -/
theorem firstPeriodic_eq {first n p k : Nat} (hp : 0 < p) (hn : n < first + k * p) (hk : k = 0 ∨ first + (k - 1) * p ≤ n) :
    (if n < first then first else first + ((n - first) / p + 1) * p) = first + k * p := by
  rcases hk with rfl | hk
  · rw [if_pos (by omega), Nat.zero_mul, Nat.add_zero]
  · cases k with
    | zero => rw [if_pos (by omega), Nat.zero_mul, Nat.add_zero]
    | succ j =>
      rw [Nat.add_sub_cancel] at hk
      rw [Nat.succ_mul] at hn
      have periods : (n - first) / p = j := Nat.div_eq_of_lt_le (by omega) (by rw [Nat.succ_mul]; omega)
      rw [if_neg (by omega), periods]

section Taken

variable (ht : Taken h false s) (hb : cmpBad a = false)
include ht hb

/-- An action toward an EVT pin that is no output is refused with PIN_INPUT. -/
theorem exec_cmpSet_pinInput {k : Fin 4} (hk : a.arg.toNat = k.val) (h2 : 2 ≤ a.action.toNat) (h4 : a.action.toNat ≤ 4)
    (he : evtOut (takenState h s) k = false) :
    exec (.cmpSet h a) s = .next (settle (complete (ticketOf h s) 0x43 0 (takenState h s))) := by
  have pin : (⟨a.arg.toNat % 4, Nat.mod_lt _ (by decide)⟩ : Fin 4) = k := Fin.ext (by simp only [hk]; omega)
  simp only [exec, execCmpSet, fin]
  rw [untimedCmd_run ht hb]
  simp only [pin, h2, h4, he, Bool.not_false, and_self, if_true]

variable {u : Fin 32} (hu : a.unit.toNat = u.val)
include hu

theorem exec_cmpSet_off (ha : a.action.toNat = 0) :
    exec (.cmpSet h a) s = .next (settle (complete (ticketOf h s) 0 0 (cmpMod u Comparator.off (takenState h s)))) := by
  have unit : (⟨a.unit.toNat % 32, Nat.mod_lt _ (by decide)⟩ : Fin 32) = u := Fin.ext (by simp only [hu]; omega)
  simp only [exec, execCmpSet, fin]
  rw [untimedCmd_run ht hb]
  simp only [unit, ha, Nat.le_zero, OfNat.ofNat_ne_zero, false_and, if_false, if_true]
  rfl

/-- What a unit that only reports does at acceptance goes by its time and its period. -/
theorem exec_cmpSet_plain (ha : a.action.toNat = 1) :
    exec (.cmpSet h a) s = .next (settle (
      if a.periodic then complete (ticketOf h s) 0 0 (cmpMod u (plainCmp a a.period.toNat (some
        (if (nodeNow (takenState h s)).1 < timeOf a.time then timeOf a.time
          else timeOf a.time + (((nodeNow (takenState h s)).1 - timeOf a.time) / a.period.toNat + 1) * a.period.toNat)))
        (nodeNow (takenState h s)).2)
      else if (nodeNow (takenState h s)).1 < timeOf a.time then
        complete (ticketOf h s) 0 0 (cmpMod u (plainCmp a 0 (some (timeOf a.time))) (nodeNow (takenState h s)).2)
      else complete (ticketOf h s) 1 0 (cmpFire u (nodeNow (takenState h s)).1
        (cmpMod u (plainCmp a 0 none) (nodeNow (takenState h s)).2)))) := by
  have unit : (⟨a.unit.toNat % 32, Nat.mod_lt _ (by decide)⟩ : Fin 32) = u := Fin.ext (by simp only [hu]; omega)
  have noPin : ¬ (2 ≤ 1 ∧ 1 ≤ 4 ∧ (!evtOut (takenState h s) ⟨a.arg.toNat % 4, Nat.mod_lt _ (by decide)⟩) = true) := by
    omega
  simp only [exec, execCmpSet, fin]
  rw [untimedCmd_run ht hb]
  simp only [unit, ha, if_neg noPin, if_neg Nat.one_ne_zero, plainCmp, St.ok, St.okLate]
  cases a.periodic <;> simp only [Bool.false_eq_true, if_false, if_true]

theorem exec_cmpSet_ahead (ha : a.action.toNat = 1) (hp : a.periodic = false)
    (hn : (nodeNow (takenState h s)).1 < timeOf a.time) :
    exec (.cmpSet h a) s = .next (settle (complete (ticketOf h s) 0 0
      (cmpMod u (plainCmp a 0 (some (timeOf a.time))) (nodeNow (takenState h s)).2))) := by
  rw [exec_cmpSet_plain ht hb hu ha, if_neg (by simp [hp]), if_pos hn]

theorem exec_cmpSet_passed (ha : a.action.toNat = 1) (hp : a.periodic = false)
    (hn : timeOf a.time ≤ (nodeNow (takenState h s)).1) :
    exec (.cmpSet h a) s = .next (settle (complete (ticketOf h s) 1 0 (cmpFire u (nodeNow (takenState h s)).1
      (cmpMod u (plainCmp a 0 none) (nodeNow (takenState h s)).2)))) := by
  rw [exec_cmpSet_plain ht hb hu ha, if_neg (by simp [hp]), if_neg hn.not_gt]

theorem exec_cmpSet_periodic {k : Nat} (ha : a.action.toNat = 1) (hp : a.periodic = true)
    (hn : (nodeNow (takenState h s)).1 < timeOf a.time + k * a.period.toNat)
    (hk : k = 0 ∨ timeOf a.time + (k - 1) * a.period.toNat ≤ (nodeNow (takenState h s)).1) :
    exec (.cmpSet h a) s = .next (settle (complete (ticketOf h s) 0 0
      (cmpMod u (plainCmp a a.period.toNat (some (timeOf a.time + k * a.period.toNat))) (nodeNow (takenState h s)).2))) := by
  rw [exec_cmpSet_plain ht hb hu ha, if_pos hp, firstPeriodic_eq (period_pos_of_cmpBad_eq_false hb hp) hn hk]

end Taken

end CmpSet

/-! A comparator's fire (R279, R280). -/

section CmpFire

variable {u : Fin 32} {t : Nat} {s : State}

theorem cmpDue_due (hr : timeRuns s = true) (hn : s.net.cmps[u].next = some t) (hd : t < boundaryTime s + tickSpan s) :
    cmpDue s u = some t := by
  rw [cmpDue, if_pos hr, hn, Option.filter_some, if_pos (decide_eq_true hd)]

theorem cmpDue_none (h : timeRuns s = false ∨ ∀ t, s.net.cmps[u].next = some t → boundaryTime s + tickSpan s ≤ t) :
    cmpDue s u = none := by
  rcases h with hr | hn
  · rw [cmpDue, if_neg (by simp [hr])]
  · unfold cmpDue
    split
    · exact Option.filter_eq_none_iff.mpr fun t ht => by simpa using hn t ht
    · rfl

theorem exec_cmpFire_due (hr : timeRuns s = true) (hn : s.net.cmps[u].next = some t) (hd : t < boundaryTime s + tickSpan s) :
    exec (.cmpFire u) s = .next (settle (cmpFire u t (cmpMod u { s.net.cmps[u] with
      next := if s.net.cmps[u].period = 0 then none else some (t + s.net.cmps[u].period) } s))) := by
  simp only [exec, execCmpFire, cmpDue_due hr hn hd, fin]

theorem exec_cmpFire_notDue (h : timeRuns s = false ∨ ∀ t, s.net.cmps[u].next = some t → boundaryTime s + tickSpan s ≤ t) :
    exec (.cmpFire u) s = .next s := by
  simp only [exec, execCmpFire, cmpDue_none h]

theorem cmpFire_reports (ha : s.net.cmps[u].action = 1) (hr : s.net.cmps[u].report = true) :
    cmpFire u t s = report 0x0403 u (timeBytes t) s := by
  simp only [cmpFire, ha, hr, if_true]

end CmpFire

/-! Captures and TIME_QUERY (R281, R282). -/

section Captures

variable {u : Fin 16} {t t0 : Nat} {src : BitVec 6} {up : Bool} {s : State}

theorem exec_captureEdge_taken {v : TimeVal} (hr : timeRuns s = true) (ho : capSourceOk s src.toNat = true)
    (hf : ((fins 16).filter fun u : Fin 16 => regBit s (Reg.timeCapCfg u) 0 && decide (capSource s u = src.toNat) &&
      capEdge s u src.toNat up) = [u]) :
    exec (.captureEdge src up v) s = .next (settle (captureOne u (toNode s (timeOf v)) s)) := by
  simp only [exec, execCaptureEdge, hr, ho, and_self, if_true, hf, fin, List.foldl_cons, List.foldl_nil]

theorem exec_captureEdge_stopped {v : TimeVal} (hr : timeRuns s = false) : exec (.captureEdge src up v) s = .next s := by
  simp only [exec, execCaptureEdge, hr, Bool.false_eq_true, false_and, if_false]

/-- An edge within 100 ns of the unit's previous capture is lost. -/
theorem captureOne_close (hc : s.net.caps[u].time = some t0) (hd : t < t0 + 100 * 65536) :
    captureOne u t s = sticky Reg.timeCapStat u s := by
  simp only [captureOne, hc, decide_eq_true hd, if_true]

theorem exec_timeQuery_taken {h : CmdHdr} {addr : BitVec 64} (ht : Taken h false s) (ha : aligned8 addr = true) :
    exec (.timeQuery h addr) s = .next (settle (resultThen (ticketOf h s) addr.toNat (timeBytes (nodeNow (takenState h s)).1 ++
      leBytes 8 (now s) ++ leBytes 8 0 ++ (s.net.caps.toList.flatMap fun c => timeBytes (c.time.getD 0)) ++
      (s.net.caps.toList.flatMap fun c => leBytes 4 c.count)) 0 (nodeNow (takenState h s)).2)) := by
  have network : (nodeNow (takenState h s)).2.net = s.net := takenState_net h s
  have tick : now (nodeNow (takenState h s)).2 = now s := now_takenState h s
  simp only [exec, execTimeQuery, fin]
  rw [untimedCmd_run ht (by rw [ha]; rfl)]
  simp only [network, tick]
  rfl

end Captures

/-- Settles O27: CMP_SET comes down to `exec_cmpSet_plain`, whose cases go by the unit's time and period, and a fire to
`cmpDue`. -/
theorem comparatorsAndCaptures : Obligations.ComparatorsAndCaptures := by
  unfold Obligations.ComparatorsAndCaptures
  refine ⟨?_, ?_, ?_, ?_, ?_, ?_, ?_, ?_, ?_, ?_, ?_, ?_, ?_⟩
  · intro h a u s ht hb hu ha hp hn
    exact exec_cmpSet_ahead ht hb hu ha hp hn
  · intro h a u s ht hb hu ha hp hn
    exact exec_cmpSet_passed ht hb hu ha hp hn
  · rintro h a u s _ k ht hb hu ha hp rfl hn hk
    exact exec_cmpSet_periodic ht hb hu ha hp hn hk
  · intro h a k s ht hb hk h2 h4 he
    exact exec_cmpSet_pinInput ht hb hk h2 h4 he
  · intro h a u s ht hb hu ha
    exact exec_cmpSet_off ht hb hu ha
  · rintro u t _ s hr rfl hn hd hp
    rw [exec_cmpFire_due hr hn hd, if_neg hp]
  · rintro u t _ s hr rfl hn hd hp
    rw [exec_cmpFire_due hr hn hd, if_pos hp]
  · intro u t s ha hr
    exact cmpFire_reports ha hr
  · intro src up t u s hr ho hf
    exact exec_captureEdge_taken hr ho hf
  · intro u s h
    exact exec_cmpFire_notDue h
  · intro src up t s hr
    exact exec_captureEdge_stopped hr
  · intro u t t0 s hc hd
    exact captureOne_close hc hd
  · intro h addr s ht ha
    exact exec_timeQuery_taken ht ha

end Sys2Proof.Machine

namespace Sys2Proof.Machine

/-! One Ethernet port changed: what it holds then, and that every other port stays. -/

theorem agreeOff_vmod {α : Type} {k : Nat} (i : Fin k) (v : Vector α k) (f : α → α) : AgreeOff i (vmod v i f) v :=
  agreeOff_vset i v _

theorem ethMod_eth (p : Fin 4) (f : EthPort → EthPort) (s : State) : (ethMod p f s).net.eth[p] = f s.net.eth[p] :=
  vmod_get_self _ p f

/-- A change of one port, as a change of the ports' vector. -/
theorem ethMod_port (p : Fin 4) (f : EthPort → EthPort) (s : State) :
    ∃ v : Vector EthPort 4, ethMod p f s = { s with net := { s.net with eth := v } } ∧ AgreeOff p v s.net.eth ∧
      v[p] = f s.net.eth[p] :=
  ⟨(ethMod p f s).net.eth, rfl, agreeOff_vmod p _ f, ethMod_eth p f s⟩

/-! The link of a port (R264, R265). -/

section EthLink

variable {p : Fin 4} {s : State}

theorem exec_ethLinkDown_up (hu : s.net.eth[p].up = true) :
    exec (.ethLinkDown p) s = .next (settle (raise Src.ethLinkDown p 0 (ethDown p s))) := by
  simp only [exec, execEthLinkDown, hu, if_true, fin]

/-- A port as the loss of its link leaves it. -/
def EthPort.lost (e : EthPort) : EthPort :=
  { e with up := false, blockLock := false, fecLock := false, anDone := false, anPause := false, paused := false,
           pausing := false, tx := [], ptpState := 1 }

theorem ethDown_up (hu : s.net.eth[p].up = true) : ethDown p s = report 0x0501 p [0] (ethMod p EthPort.lost s) := by
  rw [ethDown, if_pos hu]
  rfl

/-- A port as a found link leaves it. -/
def EthPort.found (fec an anPause : Bool) (e : EthPort) : EthPort :=
  { e with up := true, blockLock := true, fecLock := fec, anDone := an, anPause := anPause }

theorem exec_ethLinkUp_found (fec an : Bool) (hm : ethMode s p ≠ 0) (hu : s.net.eth[p].up = false)
    (hf : fenced s (.eth p) = false) :
    exec (.ethLinkUp p fec an) s = .next (settle (report 0x0501 p [1] (ethMod p
      (EthPort.found (decide (ethMode s p = 3) && regBit s (Reg.ethCtrl p) 3 && fec)
        (decide (ethMode s p = 1) && regBit s (Reg.ethCtrl p) 4)
        (decide (ethMode s p = 1) && regBit s (Reg.ethCtrl p) 4 && an)) s))) := by
  have mayComeUp : ¬ (ethMode s p = 0 ∨ s.net.eth[p].up = true ∨ fenced s (.eth p) = true) := by
    simp only [hm, hu, hf, Bool.false_eq_true, or_self, not_false_eq_true]
  simp only [exec, execEthLinkUp, if_neg mayComeUp, fin]
  rfl

end EthLink

/-! Writes of a port's registers that do more than store (R265, R271). -/

section EthRegisters

variable {p : Fin 4} {v : Word} {path : AccessPath} {s : State} {off : Nat}

/-- A write of a register at or above 0x1_0000 that does more than store has that effect. -/
theorem regWrite_highWrite {mode : Word → State → State} {t : State} (hr : (regRow off).isSome = true) (ho : 0x10000 ≤ off)
    (hw : highWrite path off v s = some t) : regWrite mode path off v s = t := by
  obtain ⟨r, hr⟩ := Option.isSome_iff_exists.mp hr
  have notProt : ¬ (0x9000 ≤ off ∧ off < 0xA000) := by omega
  have notSump : ¬ (0x8400 ≤ off ∧ off < 0x8800) := by omega
  have notDma : off ≠ Reg.dmaErrStat := by
    have : Reg.dmaErrStat < 0x10000 := by decide
    omega
  have high : ¬ off < 0x10000 := by omega
  simp only [regWrite, hr, if_neg notProt, if_neg notSump, if_neg notDma, if_neg high, hw, Option.getD_some]

/-- The registers of an Ethernet port whose write does more than store, by their place on the port's page. -/
theorem highWrite_eth {k : Nat} (p : Fin 4) (path : AccessPath) (v : Word) (s : State) (ho : off = 0x30000 + k + 0x1000 * p.val)
    (hk : k < 0x1000) :
    highWrite path off v s =
      if k = 0 then some (if locked s then s else writeEthCtrl p v s)
      else if k = 0x28 then some (writePauseStat p v s)
      else if k = 0x30 then (regRow off).map fun r => ptpCfgWritten p (ptpOn s p) (plainWrite r path off v s)
      else none := by
  have hp := p.isLt
  have notLink : ¬ (0x28000 ≤ off ∧ off < 0x2C000 ∧ off % 0x400 = 0) := by omega
  have inPorts : 0x30000 ≤ off ∧ off < 0x34000 := by omega
  have port : (off - 0x30000) / 0x1000 = p.val := by omega
  have place : off % 0x1000 = k := by omega
  rw [highWrite, if_neg notLink, if_pos inPorts, toFin?_some port, Option.bind_some, place]

theorem exec_ethCtrlWrite_open (hp : path ≠ .mb0) (ho : regsOpen s = true) :
    exec (.ethCtrlWrite path p v) s = .next (settle (if locked s then s else writeEthCtrl p v s)) := by
  have row : ∀ p : Fin 4, (regRow (Reg.ethCtrl p)).isSome = true := by decide
  have high : ∀ p : Fin 4, 0x10000 ≤ Reg.ethCtrl p := by decide
  simp only [exec, execEthCtrlWrite, writeCmd, fin, busWrite_open hp ho]
  rw [regWrite_highWrite (row p) (high p) (highWrite_eth (k := 0) p path v s rfl (by decide))]

theorem exec_pauseStuckClear_open (hp : path ≠ .mb0) (ho : regsOpen s = true) :
    exec (.pauseStuckClear path p v) s = .next (settle (writePauseStat p v s)) := by
  have row : ∀ p : Fin 4, (regRow (Reg.ethPauseStat p)).isSome = true := by decide
  have high : ∀ p : Fin 4, 0x10000 ≤ Reg.ethPauseStat p := by decide
  simp only [exec, execPauseStuckClear, writeCmd, fin, busWrite_open hp ho]
  rw [regWrite_highWrite (row p) (high p) (highWrite_eth (k := 0x28) p path v s rfl (by decide))]

end EthRegisters

/-! The frames that a port receives (R264, R266): one equation for each step of the classification. -/

section EthFrames

variable {p : Fin 4} {f : EthFrame} {s : State}

theorem ethRuns_running (hr : s.power.state = .running) (hu : s.net.eth[p].up = true) (hf : fenced s (.eth p) = false) :
    ethRuns s p = true := by
  simp only [ethRuns, hr, hu, hf, decide_true, Bool.not_false, Bool.and_self]

theorem exec_ethFrameReceived_idle (hr : ethRuns s p = false) : exec (.ethFrameReceived p f) s = .next s := by
  simp only [exec, execEthFrameReceived, hr, Bool.not_false, if_true]

theorem exec_ethFrameReceived_bad (hr : ethRuns s p = true)
    (hb : f.fcsOk = false ∨ frameLen f.bytes < 64 ∨ maxFrame s p < frameLen f.bytes) :
    exec (.ethFrameReceived p f) s = .next (settle (rxDrop p s)) := by
  have bad : (!f.fcsOk || decide (frameLen f.bytes < 64) || decide (maxFrame s p < frameLen f.bytes)) = true := by
    simpa [or_assoc] using hb
  simp only [exec, execEthFrameReceived, hr, bad, Bool.not_true, Bool.false_eq_true, if_false, if_true, fin]

section Good

variable (hr : ethRuns s p = true) (hc : f.fcsOk = true) (hl : 64 ≤ frameLen f.bytes) (hm : frameLen f.bytes ≤ maxFrame s p)
include hc hl hm

theorem frame_not_bad : (!f.fcsOk || decide (frameLen f.bytes < 64) || decide (maxFrame s p < frameLen f.bytes)) = false := by
  simp [hc, hl, hm]

include hr

theorem exec_ethFrameReceived_macControl (he : (frameView f.bytes).etype = 0x8808) :
    exec (.ethFrameReceived p f) s = .next s := by
  simp only [exec, execEthFrameReceived, hr, frame_not_bad hc hl hm, he, Bool.not_true, Bool.false_eq_true, if_false, if_true]

/-- A frame that is neither IPv4 nor ARP, and no PTP message that the port takes, goes on to the filters. -/
theorem exec_ethFrameReceived_steered (h8 : (frameView f.bytes).etype ≠ 0x8808) (h6 : (frameView f.bytes).etype ≠ 0x0806)
    (hi : (frameView f.bytes).ipv4 = false)
    (hp : (frameView f.bytes).etype ≠ 0x88F7 ∨ regBit s (Reg.ethPtpCfg p) 0 = false) :
    exec (.ethFrameReceived p f) s = .next (settle (enqueueRx p (steer s p f (frameView f.bytes)) s)) := by
  have notUdp : (frameView f.bytes).udp = false := by simp [FrameView.udp, hi]
  have notPtp : ((frameView f.bytes).ptp && !(frameView f.bytes).laterFragment && regBit s (Reg.ethPtpCfg p) 0) = false := by
    rcases hp with hp | hp
    · simp [FrameView.ptp, hp, notUdp]
    · simp [hp]
  simp only [exec, execEthFrameReceived, hr, frame_not_bad hc hl hm, h8, h6, hi, notUdp, notPtp, Bool.not_true,
    Bool.false_and, Bool.false_eq_true, false_and, if_false, fin]

/-- An ARP frame for the port's own address passes through the buffer. -/
theorem exec_ethFrameReceived_arp (he : (frameView f.bytes).etype = 0x0806) (hu : (frameView f.bytes).udp = false)
    (ha : regGet s (Reg.ethIpv4 p) ≠ 0)
    (ht : frameN f.bytes ((frameView f.bytes).body + 24) 4 = (regGet s (Reg.ethIpv4 p)).toNat) :
    exec (.ethFrameReceived p f) s = .next (settle (if 524288 < bufBytes s.net.eth[p].rx + frameLen f.bytes
      then rxDrop p s else passBuffer p (frameLen f.bytes) s)) := by
  have notPtp : (frameView f.bytes).ptp = false := by simp [FrameView.ptp, he, hu]
  have control : ¬ (0x0806 : Nat) = 0x8808 := by decide
  have own : True ∧ regGet s (Reg.ethIpv4 p) ≠ 0 ∧
      frameN f.bytes ((frameView f.bytes).body + 24) 4 = (regGet s (Reg.ethIpv4 p)).toNat := ⟨trivial, ha, ht⟩
  simp only [exec, execEthFrameReceived, hr, frame_not_bad hc hl hm, he, if_neg control, notPtp, if_pos own, Bool.not_true,
    Bool.false_and, Bool.false_eq_true, if_false, fin]
  congr 2
  exact if_congr decide_eq_true_iff rfl rfl

end Good

end EthFrames

/-! The queue of a frame (R266, R267) and the receive buffer (R268). -/

section EthQueues

variable {p : Fin 4} {s : State}

theorem steer_unmatched {f : EthFrame} {v : FrameView} (h : ∀ k : Fin 64, filterMatches s p k f.bytes v = false) :
    steer s p f v = { queue := 15, bytes := f.bytes, time := none } := by
  have noHit : (fins 64).find? (fun k => filterMatches s p k f.bytes v) = none := List.find?_eq_none.mpr fun k _ => by simp [h k]
  simp only [steer, noHit, ite_self]

theorem find?_fins_first {n : Nat} {q : Fin n → Bool} {k : Fin n} (hk : q k = true) (hj : ∀ j : Fin n, j < k → q j = false) :
    (fins n).find? q = some k := by
  refine List.find?_eq_some_iff_getElem.mpr ⟨hk, k.val, by simp [fins], by simp [fins], fun j hlt => ?_⟩
  simpa [fins] using hj ⟨j, by omega⟩ hlt

theorem steer_matched {f : EthFrame} {v : FrameView} {k : Fin 64} (hv : v.laterFragment = false)
    (hk : filterMatches s p k f.bytes v = true) (hj : ∀ j : Fin 64, j < k → filterMatches s p j f.bytes v = false) :
    steer s p f v = { queue := ⟨regFld s (Reg.ethFiltCtrl p k) 11 8 % 16, Nat.mod_lt _ (by decide)⟩, bytes := f.bytes,
                      time := if regBit s (Reg.ethFiltCtrl p k) 6 then some (rxStamp s p f.time) else none } := by
  simp only [steer, hv, Bool.false_eq_true, if_false, find?_fins_first hk hj]
  rfl

variable {f : RxFrame}

theorem enqueueRx_discards (hc : consumer s p f.queue = 0) : enqueueRx p f s = s := by
  simp only [enqueueRx, hc]

theorem enqueueRx_full (hc : consumer s p f.queue = 1)
    (hf : queueLimit s p f.queue < queueBytes s.net.eth[p].rx f.queue + frameLen f.bytes ∨
      rxBuffer < bufBytes s.net.eth[p].rx + frameLen f.bytes) : enqueueRx p f s = rxDrop p s := by
  simp only [enqueueRx, hc, if_pos hf]

theorem enqueueRx_kept (hc : consumer s p f.queue = 1)
    (hq : queueBytes s.net.eth[p].rx f.queue + frameLen f.bytes ≤ queueLimit s p f.queue)
    (hb : bufBytes s.net.eth[p].rx + frameLen f.bytes ≤ rxBuffer) :
    enqueueRx p f s = pauseCheck p (bufBytes s.net.eth[p].rx) (ethMod p (fun e => { e with rx := e.rx ++ [f] }) s) := by
  have fits : ¬ (queueLimit s p f.queue < queueBytes s.net.eth[p].rx f.queue + frameLen f.bytes ∨
      rxBuffer < bufBytes s.net.eth[p].rx + frameLen f.bytes) := by omega
  simp only [enqueueRx, hc, if_neg fits, if_true]

end EthQueues

/-- Settles O28: a frame is followed through the steps of its classification, and a write of ETH_CTRL is one of `highWrite`. -/
theorem ethernetLinksAndFrames : Obligations.EthernetLinksAndFrames := by
  unfold Obligations.EthernetLinksAndFrames
  refine ⟨?_, ?_, ?_, ?_, ?_, ?_, ?_, ?_, ?_, ?_, ?_, ?_, ?_, ?_, ?_, ?_⟩
  · intro p s hu
    exact exec_ethLinkDown_up hu
  · intro p s hu
    obtain ⟨v, hv, off, self⟩ := ethMod_port p EthPort.lost s
    exact ⟨v, by rw [ethDown_up hu, hv], off, self⟩
  · intro p fec an s hm hu hf
    obtain ⟨v, hv, off, self⟩ := ethMod_port p _ s
    exact ⟨v, by rw [exec_ethLinkUp_found fec an hm hu hf, hv], off, self⟩
  · intro path p v s hp ho hl
    rw [exec_ethCtrlWrite_open hp ho, if_neg (by simp [hl])]
    rfl
  · intro path p v s hp ho hl
    rw [exec_ethCtrlWrite_open hp ho, if_pos hl]
  · intro p f s hr hu hf hb
    exact exec_ethFrameReceived_bad (ethRuns_running hr hu hf) hb
  · intro p f s hr hu hf hc hl hm he
    exact exec_ethFrameReceived_macControl (ethRuns_running hr hu hf) hc hl hm he
  · intro p f s hr hu hf hc hl hm h8 h6 hi h7
    exact exec_ethFrameReceived_steered (ethRuns_running hr hu hf) hc hl hm h8 h6 hi (.inl h7)
  · intro p f s hr hc hl hm he hi hp
    exact exec_ethFrameReceived_steered hr hc hl hm (by simp [he]) (by simp [he]) hi (.inr hp)
  · intro p f s hr hc hl hm he hu ha ht
    exact exec_ethFrameReceived_arp hr hc hl hm he hu ha ht
  · intro p f s hr
    exact exec_ethFrameReceived_idle hr
  · intro p f v s h
    exact steer_unmatched h
  · intro p f v k s hv hk hj
    have queue : regFld s (Reg.ethFiltCtrl p k) 11 8 % 16 = regFld s (Reg.ethFiltCtrl p k) 11 8 := Nat.mod_mod _ _
    rw [steer_matched hv hk hj]
    exact ⟨queue, rfl, rfl⟩
  · intro p f s hc
    exact enqueueRx_discards hc
  · intro p f s hc hq hb
    obtain ⟨v, hv, off, self⟩ := ethMod_port p (fun e => { e with rx := e.rx ++ [f] }) s
    exact ⟨v, off, self, by rw [enqueueRx_kept hc hq hb, hv]⟩
  · intro p f s hc hf
    exact enqueueRx_full hc hf

end Sys2Proof.Machine

namespace Sys2Proof.Machine

/-! A received PAUSE (R270, R271): one equation per outcome. -/

section PauseReceived

/-- A port as a PAUSE of so many units of refTime leaves it. -/
def EthPort.pausedAt (refTime units : Nat) (e : EthPort) : EthPort :=
  { e with paused := true, pauseSince := if e.paused then e.pauseSince else refTime, pauseEnds := refTime + units }

variable {p : Fin 4} {q : BitVec 16} {s : State} (hr : ethRuns s p = true)
include hr

theorem exec_pauseReceived_ignored (hi : (pauseEnables s p).2 = false ∨ pauseStuck s p = true) :
    exec (.pauseReceived p q) s = .next (settle (bump (Reg.ethPauseIgnCount p) 1 s)) := by
  have ignored : (!(pauseEnables s p).2 || pauseStuck s p) = true := by simpa using hi
  simp only [exec, execPauseReceived, hr, ignored, Bool.not_true, Bool.false_eq_true, if_false, if_true, fin]

variable (he : (pauseEnables s p).2 = true) (hs : pauseStuck s p = false)
include he hs

theorem exec_pauseReceived_pauses (hq : q ≠ 0) :
    exec (.pauseReceived p q) s = .next (ethMod p (EthPort.pausedAt s.time.refTime (quantaUnits s p q.toNat)) s) := by
  simp only [exec, execPauseReceived, hr, he, hs, if_neg hq, Bool.not_true, Bool.or_self, Bool.false_eq_true, if_false]
  rfl

theorem exec_pauseReceived_resumes (hp : s.net.eth[p].paused = true) :
    exec (.pauseReceived p 0) s = .next (settle (resumePort p s)) := by
  simp only [exec, execPauseReceived, hr, he, hs, hp, Bool.not_true, Bool.or_self, Bool.false_eq_true, if_false, if_true, fin]

end PauseReceived

/-! The end of a pause, its watchdog, and the PAUSE toward the partner (R269–R271). -/

section PauseTimes

variable {p : Fin 4} {s : State}

theorem exec_pauseExpiry_passed (hp : s.net.eth[p].paused = true) (ht : mayHavePassed s s.net.eth[p].pauseEnds 0 = true) :
    exec (.pauseExpiry p) s = .next (settle (resumePort p s)) := by
  simp only [exec, execPauseExpiry, hp, ht, and_self, if_true, fin]

theorem exec_pauseExpiry_early (h : s.net.eth[p].paused = false ∨ mayHavePassed s s.net.eth[p].pauseEnds 0 = false) :
    exec (.pauseExpiry p) s = .next s := by
  have early : ¬ (s.net.eth[p].paused = true ∧ mayHavePassed s s.net.eth[p].pauseEnds 0 = true) := by
    rcases h with h | h <;> simp only [h, Bool.false_eq_true, false_and, and_false, not_false_eq_true]
  simp only [exec, execPauseExpiry, if_neg early]

theorem exec_pauseWatchdog_passed (hp : s.net.eth[p].paused = true)
    (ht : mayHavePassed s s.net.eth[p].pauseSince (watchdogUnits s p) = true) :
    exec (.pauseWatchdog p) s =
      .next (settle (raise Src.ethPauseStuck p 0 (sticky (Reg.ethPauseStat p) 0 (resumePort p s)))) := by
  simp only [exec, execPauseWatchdog, hp, ht, and_self, if_true, fin]

theorem exec_pauseWatchdog_early
    (h : s.net.eth[p].paused = false ∨ mayHavePassed s s.net.eth[p].pauseSince (watchdogUnits s p) = false) :
    exec (.pauseWatchdog p) s = .next s := by
  have early : ¬ (s.net.eth[p].paused = true ∧ mayHavePassed s s.net.eth[p].pauseSince (watchdogUnits s p) = true) := by
    rcases h with h | h <;> simp only [h, Bool.false_eq_true, false_and, and_false, not_false_eq_true]
  simp only [exec, execPauseWatchdog, if_neg early]

theorem launch_paused (f : TxFrame) (hu : s.net.eth[p].up = true) (hp : s.net.eth[p].paused = true) :
    launch p f s = ethMod p (fun e => { e with tx := e.tx ++ [f] }) s := by
  simp only [launch, hu, hp, Bool.not_true, Bool.false_eq_true, if_false, if_true]

theorem launch_down (f : TxFrame) (hu : s.net.eth[p].up = false) : launch p f s = s := by
  simp only [launch, hu, Bool.not_false, if_true]

/-- A port as a PAUSE toward the partner leaves it. -/
def EthPort.pausesPartner (quanta ends refTime : Nat) (e : EthPort) : EthPort :=
  { e with pausing := true, pauseUntil := ends, pauseSent := refTime, sent := e.sent ++ [.pause (BitVec.ofNat 16 quanta)] }

/-- A PAUSE that is sent and does not end one. -/
theorem sendPause_up {quanta : Nat} (hq : quanta ≠ 0) (hu : s.net.eth[p].up = true) :
    sendPause p quanta s = ethMod p (EthPort.pausesPartner quanta
      (boundaryTime s + quanta * 512000 / max 1 (lineMbps (ethMode s p)) * 65536) s.time.refTime) s := by
  simp only [sendPause, hu, if_true, decide_eq_true hq]
  rfl

theorem exec_pauseRefresh_due (hp : s.net.eth[p].pausing = true) (he : (pauseEnables s p).1 = true)
    (hl : pauseLow s p < bufBytes s.net.eth[p].rx * 100)
    (ht : mayHavePassed s s.net.eth[p].pauseSent (quantaUnits s p (pauseQuanta s p) / 2) = true) :
    exec (.pauseRefresh p) s = .next (sendPause p (pauseQuanta s p) s) := by
  simp only [exec, execPauseRefresh, hp, he, decide_eq_true hl, ht, Bool.and_self, if_true]

end PauseTimes

/-- Settles O29: each of the commands has one equation per outcome, and what they change of the port is `ethMod_port`. -/
theorem pausePacesAnEthernetPort : Obligations.PausePacesAnEthernetPort := by
  unfold Obligations.PausePacesAnEthernetPort
  refine ⟨?_, ?_, ?_, ?_, ?_, ?_, ?_, ?_, ?_, ?_, ?_⟩
  · intro p q s hr hi
    exact exec_pauseReceived_ignored hr hi
  · intro p q s hr he hs hq
    obtain ⟨v, hv, off, self⟩ := ethMod_port p (EthPort.pausedAt s.time.refTime (quantaUnits s p q.toNat)) s
    exact ⟨v, by rw [exec_pauseReceived_pauses hr he hs hq, hv], off, self⟩
  · intro p s hr he hs hp
    exact exec_pauseReceived_resumes hr he hs hp
  · intro p s hp ht
    exact exec_pauseExpiry_passed hp ht
  · intro p s h
    exact exec_pauseExpiry_early h
  · intro p s h
    exact exec_pauseWatchdog_early h
  · intro p s hp ht
    exact exec_pauseWatchdog_passed hp ht
  · intro p f s hu hp
    obtain ⟨v, hv, off, self⟩ := ethMod_port p (fun e => { e with tx := e.tx ++ [f] }) s
    exact ⟨v, by rw [launch_paused f hu hp, hv], off, self⟩
  · intro p f s hu
    exact launch_down f hu
  · intro p s hp hu he hl ht
    have nonzero : pauseQuanta s p ≠ 0 := by unfold pauseQuanta; omega
    obtain ⟨v, hv, off, self⟩ := ethMod_port p (EthPort.pausesPartner (pauseQuanta s p)
      (boundaryTime s + pauseQuanta s p * 512000 / max 1 (lineMbps (ethMode s p)) * 65536) s.time.refTime) s
    exact ⟨v, by rw [exec_pauseRefresh_due hp he hl ht, sendPause_up nonzero hu, hv], off, self⟩
  · intro path p v s hp ho
    exact exec_pauseStuckClear_open hp ho

end Sys2Proof.Machine

namespace Sys2Proof.Machine

/-! A PTP message as it reaches a port (R268, R274, R275, R277): one equation per way it goes. -/

section PtpMessage

variable {p : Fin 4} {m : PtpMsg} {s : State} (hr : ethRuns s p = true)
include hr

theorem exec_ptpMessage_pdelay (hk : m.kind = .pdelay) (ho : ptpOn s p = true) :
    exec (.ptpMessage p m) s = .next (settle (rxDrop p s)) := by
  simp only [exec, execPtpMessage, hr, hk, ho, Bool.not_true, Bool.true_or, Bool.false_eq_true, if_false, if_true, fin]

variable (hk : m.kind ≠ .pdelay)
include hk

theorem exec_ptpMessage_full (hb : bufferFull s p 64 = true) : exec (.ptpMessage p m) s = .next (settle (rxDrop p s)) := by
  simp only [exec, execPtpMessage, hr, hb, if_neg hk, Bool.not_true, Bool.false_eq_true, if_false, if_true, fin]

variable (hb : bufferFull s p 64 = false)
include hb

theorem exec_ptpMessage_transparent (ho : ptpOn s p = false) (hc : tcOn s p = true) :
    exec (.ptpMessage p m) s = .next (settle (tcForward p m (passBuffer p 64 s))) := by
  simp only [exec, execPtpMessage, hr, hb, hc, ho, if_neg hk, Bool.not_true, Bool.false_and, Bool.false_eq_true, if_false,
    if_true, fin]

variable (hc : tcOn s p = false)
include hc

theorem exec_ptpMessage_own (ho : ptpOn s p = true) (hd : m.domain.toNat = ptpDomain s p) (hl : m.l2 = ptpL2 s p)
    (hv : m.vlan = ptpVlan s p) :
    exec (.ptpMessage p m) s = .next (settle (ptpInstance p m (passBuffer p 64 s))) := by
  simp only [exec, execPtpMessage, hr, hb, hc, ho, decide_eq_true hd, decide_eq_true hl, decide_eq_true hv, if_neg hk,
    Bool.not_true, Bool.and_self, Bool.false_eq_true, if_false, if_true, fin]

theorem exec_ptpMessage_otherDomain (hd : m.domain.toNat ≠ ptpDomain s p) :
    exec (.ptpMessage p m) s = .next (settle (passBuffer p 64 s)) := by
  simp only [exec, execPtpMessage, hr, hb, hc, decide_eq_false hd, if_neg hk, Bool.not_true, Bool.and_false, Bool.false_and,
    Bool.false_eq_true, if_false, fin]

end PtpMessage

/-! A message at the port's PTP clock (R272, R273, R276, R278). -/

section PtpInstance

variable {p : Fin 4} {m : PtpMsg} {s : State}

theorem ptpInstance_otherTimescale (hk : m.kind = .announce) (ht : m.ptpTimescale = false) :
    ptpInstance p m s = ethMod p (fun e => { e with arb := true }) s := by
  simp only [ptpInstance, hk, ht, Bool.not_false, and_self, if_true]

/-- A port as a Sync leaves it that brings its PTP clock to a state. -/
def EthPort.synced (st : BitVec 4) (master : Int) (rx : Nat) (e : EthPort) : EthPort :=
  { e with ptpState := st, rxTime := some rx, masterTime := some master }

theorem sendDelayReq_notSlave (h : s.net.eth[p].ptpState ≠ 9) : sendDelayReq p s = s := by
  simp only [sendDelayReq, h, false_and, if_false]

theorem ptpInstance_sync (hk : m.kind = .sync) (hs : ptpStateOf s p m.portState ≠ 9) :
    ptpInstance p m s = ethMod p (EthPort.synced (ptpStateOf s p m.portState) (ptpTimeIn m) (rxStamp s p m.time)) s := by
  have noSlave : (ethMod p (EthPort.synced (ptpStateOf s p m.portState) (ptpTimeIn m) (rxStamp s p m.time)) s).net.eth[p].ptpState
      ≠ 9 := by
    rwa [ethMod_eth]
  have synced := sendDelayReq_notSlave noSlave
  simp only [ptpInstance, hk, reduceCtorEq, false_and, true_or, if_false, if_true]
  exact synced

/-- A port as a first Delay_Req of its own leaves it. -/
def EthPort.asked (refTime : Nat) (e : EthPort) : EthPort := { e with delayReqAt := some refTime, reqSeq := e.reqSeq + 1 }

theorem sendDelayReq_first (hs : s.net.eth[p].ptpState = 9) (hd : s.net.eth[p].delayReqAt = none) :
    sendDelayReq p s = launch p (.ptp (some (ptpHead s p (ptpIntervals s p).2.2)) (.delayReq s.net.eth[p].reqSeq))
      (ethMod p (EthPort.asked s.time.refTime) s) := by
  simp only [sendDelayReq, hs, hd, and_self, if_true]
  rfl

/-- A port as a Delay_Req leaves it that brings its PTP clock to a state. -/
def EthPort.heard (st : BitVec 4) (rx : Nat) (e : EthPort) : EthPort := { e with ptpState := st, rxTime := some rx }

theorem ptpInstance_delayReq (hk : m.kind = .delayReq) (hs : s.net.eth[p].ptpState = 6) :
    ptpInstance p m s = launch p (.ptp (some (ptpHead s p (ptpIntervals s p).2.2))
      (.delayResp m.requester m.sequence (ptpTime (rxStamp s p m.time))))
      (ethMod p (EthPort.heard (ptpStateOf s p m.portState) (rxStamp s p m.time)) s) := by
  simp only [ptpInstance, hk, hs, reduceCtorEq, false_and, or_self, and_self, if_false, if_true]
  rfl

/-- SLAVE_ONLY keeps a PTP clock out of PRE_MASTER and MASTER. -/
theorem ptpStateOf_slaveOnly {x : BitVec 4} (hx : x = 5 ∨ x = 6) (hs : regBit s (Reg.ethPtpCfg p) 3 = true) :
    ptpStateOf s p x = 4 := by
  have slave : slaveOnly s p = true := hs
  rcases hx with rfl | rfl <;> simp [ptpStateOf, slave]

end PtpInstance

/-! The residence time of a message (R274), and what a PTP clock sends (R278). -/

section PtpSend

variable {m : PtpMsg} {p : Fin 4} {s : State}

theorem corrected_event (r : Int) (hk : m.kind = .sync ∨ m.kind = .delayReq) (hc : m.correction ≠ 0x7FFFFFFFFFFFFFFF) :
    corrected m r = { m with correction := m.correction + BitVec.ofInt 64 r, checksum := if m.l2 then m.checksum else 0 } :=
  if_pos ⟨hk, hc⟩

theorem corrected_other (r : Int) (h : (m.kind ≠ .sync ∧ m.kind ≠ .delayReq) ∨ m.correction = 0x7FFFFFFFFFFFFFFF) :
    corrected m r = m :=
  if_neg (by tauto)

theorem exec_ptpMasterSend_sync (ho : ptpOn s p = true) (hs : s.net.eth[p].ptpState = 6) :
    exec (.ptpMasterSend p false) s =
      .next (settle (launch p (.ptp (some (ptpHead s p (ptpIntervals s p).1)) (.sync none)) s)) := by
  simp only [exec, execPtpMasterSend, ho, decide_eq_true hs, Bool.and_self, if_true, Bool.false_eq_true, if_false, fin]

theorem exec_ptpMasterSend_announce (ho : ptpOn s p = true) (hs : s.net.eth[p].ptpState = 6) :
    exec (.ptpMasterSend p true) s =
      .next (settle (launch p (.ptp (some (ptpHead s p (ptpIntervals s p).2.1)) (announceOf s p).1) (announceOf s p).2)) := by
  simp only [exec, execPtpMasterSend, ho, decide_eq_true hs, Bool.and_self, if_true, fin]

theorem exec_ptpMasterSend_notMaster (a : Bool) (hs : s.net.eth[p].ptpState ≠ 6) : exec (.ptpMasterSend p a) s = .next s := by
  simp only [exec, execPtpMasterSend, decide_eq_false hs, Bool.and_false, Bool.false_eq_true, if_false]

end PtpSend

/-! A write of ETH_PTP_CFG (R276). -/

section PtpCfg

variable {p : Fin 4} {s : State}

theorem ptpCfgWritten_on (ho : ptpOn s p = true) : (ptpCfgWritten p false s).net.eth[p].ptpState = 1 := by
  rw [ptpCfgWritten, if_pos (by simp [ho]), ethMod_eth]

theorem ptpCfgWritten_slaveOnly (ho : ptpOn s p = true) (hs : regBit s (Reg.ethPtpCfg p) 3 = true)
    (hm : s.net.eth[p].ptpState = 6) : (ptpCfgWritten p true s).net.eth[p].ptpState = 4 := by
  rw [ptpCfgWritten, if_neg (by simp [ho]), if_pos ⟨hs, .inr hm⟩, ethMod_eth]

end PtpCfg

/-- Settles O30: a message is followed on its way through the port, and what its PTP clock keeps of it is `ethMod_port`. -/
theorem ptpMessagesAnsweredAndForwarded : Obligations.PtpMessagesAnsweredAndForwarded := by
  unfold Obligations.PtpMessagesAnsweredAndForwarded
  refine ⟨?_, ?_, ?_, ?_, ?_, ?_, ?_, ?_, ?_, ?_, ?_, ?_, ?_, ?_, ?_, ?_, ?_, ?_⟩
  · intro p m s hr hk ho
    exact exec_ptpMessage_pdelay hr hk ho
  · intro p m s hr hk hb ho hc
    exact exec_ptpMessage_transparent hr hk hb ho hc
  · intro p m s hr hk hb hc ho hd hl hv
    exact exec_ptpMessage_own hr hk hb hc ho hd hl hv
  · intro p m s hr hk hb hc hd
    exact exec_ptpMessage_otherDomain hr hk hb hc hd
  · intro p m s hr hk hb
    exact exec_ptpMessage_full hr hk hb
  · intro p m s hk ht
    rw [ptpInstance_otherTimescale hk ht]
    exact ethMod_port p _ s
  · intro p m s hk hs
    rw [ptpInstance_sync hk hs]
    exact ethMod_port p _ s
  · intro p s hs hd
    obtain ⟨v, hv, off, self⟩ := ethMod_port p (EthPort.asked s.time.refTime) s
    exact ⟨v, by rw [sendDelayReq_first hs hd, hv], off, self⟩
  · intro p m s hk hs
    obtain ⟨v, hv, off, self⟩ := ethMod_port p (EthPort.heard (ptpStateOf s p m.portState) (rxStamp s p m.time)) s
    exact ⟨v, by rw [ptpInstance_delayReq hk hs, hv], off, self⟩
  · intro p x s hx hs
    exact ptpStateOf_slaveOnly hx hs
  · intro m r hk hc
    exact corrected_event r hk hc
  · intro m r h
    exact corrected_other r h
  · intro t i m
    rfl
  · intro p s ho hs
    exact exec_ptpMasterSend_sync ho hs
  · intro p s ho hs
    exact exec_ptpMasterSend_announce ho hs
  · intro p s hs a
    exact exec_ptpMasterSend_notMaster a hs
  · intro p s ho
    exact ptpCfgWritten_on ho
  · intro p s ho hs hm
    exact ptpCfgWritten_slaveOnly ho hs hm

end Sys2Proof.Machine

namespace Sys2Proof.Machine

/-! The AoIP commands at their acceptance (R286, R298–R300). -/

section AoipTaken

variable {h : CmdHdr} {n : Nat} {late : Bool} {s : State}

theorem streamRefusal_payload {f c t : Nat} (l : List (Fin 4)) (hc : c = 0 ∨ 64 < c ∨ 1440 < payloadBytes s f c t) :
    streamRefusal s f c t l = some (0x61, 0) := if_pos hc

theorem streamRefusal_portOff {f c t : Nat} {l : List (Fin 4)} {p : Fin 4} (h1 : 1 ≤ c) (h64 : c ≤ 64)
    (hb : payloadBytes s f c t ≤ 1440) (hp : p ∈ l) (hm : ethMode s p = 0) : streamRefusal s f c t l = some (0x62, 0) := by
  have fits : ¬ (c = 0 ∨ 64 < c ∨ 1440 < payloadBytes s f c t) := by omega
  have off : l.any (portOff s) = true := List.any_eq_true.mpr ⟨p, hp, by simp [portOff, hm]⟩
  rw [streamRefusal, if_neg fits, if_pos off]

theorem exec_aoipRxSet_held {a : AoipRxArgs} (ht : Taken h true s) (hn : schedule a.tick s = some (n, late)) (he : a.enable = true)
    (hb : streamBad s a.format.toNat a.channels.toNat a.firstCh.toNat a.ptime.toNat = false) (h96 : 96 ≤ a.pt.toNat)
    (h127 : a.pt.toNat ≤ 127) (hlo : packetSamples s a.ptime.toNat + spt s ≤ a.linkOffset.toNat)
    (hhi : a.linkOffset.toNat ≤ 32768)
    (hr : streamRefusal (takenState h s) a.format.toNat a.channels.toNat a.ptime.toNat ((rxLegs a).map (·.1)) = none) :
    exec (.aoipRxSet h a) s = .next (settle (hold n (ticketOf h s) late (.aoipRx a.stream.toFin a) (takenState h s))) := by
  simp only [exec, execAoipRxSet, fin]
  rw [timedCmd_held ht (by simp [hb, h96, h127, hlo, hhi]) hn (by simpa only [he, if_true] using hr)]
  rfl

theorem exec_aoipTxSet_held {a : AoipTxArgs} (ht : Taken h true s) (hn : schedule a.tick s = some (n, late)) (he : a.enable = true)
    (hb : streamBad s a.format.toNat a.channels.toNat a.firstCh.toNat a.ptime.toNat = false) (h96 : 96 ≤ a.pt.toNat)
    (h127 : a.pt.toNat ≤ 127) (hd : multicast a.dstIp = true ∨ a.dstMac ≠ 0)
    (hr : streamRefusal (takenState h s) a.format.toNat a.channels.toNat a.ptime.toNat (txPorts a) = none) :
    exec (.aoipTxSet h a) s = .next (settle (hold n (ticketOf h s) late (.aoipTx a.stream.toFin a) (takenState h s))) := by
  have addressed : (!multicast a.dstIp && decide (a.dstMac = 0)) = false := by
    rcases hd with hd | hd <;> simp only [hd, decide_false, Bool.not_true, Bool.false_and, Bool.and_false]
  simp only [exec, execAoipTxSet, fin]
  rw [timedCmd_held ht (by simp only [he, hb, h96, h127, addressed, decide_true, Bool.and_self, Bool.not_true, Bool.or_self,
    Bool.and_false]) hn (by simpa only [he, if_true] using hr)]
  rfl

theorem exec_aoipCsSet_held {tick : BitVec 64} {st pair : Byte} {block : List Byte} {x : AoipTx} (ht : Taken h true s)
    (hn : schedule tick s = some (n, late)) (hx : mapGet s.net.tx st.toNat = some x) (hf : x.cfg.format = 2)
    (hp : pair.toNat ≤ 31) (hl : block.length = 24) :
    exec (.aoipCsSet h tick st pair block) s =
      .next (settle (hold n (ticketOf h s) late (.aoipCs st.toFin pair.toNat block) (takenState h s))) := by
  simp only [exec, execAoipCsSet, fin, hx, Option.map_some, decide_eq_true hf, Option.getD_some]
  rw [timedCmd_held ht (by simp [hp, hl]) hn rfl]
  rfl

theorem exec_aoipQuery_taken {dir st pair : Byte} {addr : BitVec 64} (ht : Taken h false s) (hd : dir.toNat ≤ 1)
    (hp : pair.toNat ≤ 31) :
    exec (.aoipQuery h dir st pair addr) s = .next (settle { (takenState h s) with net := { s.net with
      queries := s.net.queries ++
        [{ ticket := ticketOf h s, tx := decide (dir.toNat = 1), stream := st.toFin, pair := pair.toNat, addr := addr }] } }) := by
  simp only [exec, execAoipQuery, fin]
  rw [untimedCmd_run ht (by simp [hd, hp])]
  simp only [netMod, takenState_net]

end AoipTaken

/-! The AoIP settings at their boundary (R289, R296, R297, R299). -/

section AoipBoundary

variable {n : Fin 256} {s : State}

theorem applyAoipRx_channelClash {a : AoipRxArgs} {x : AoipRx} (he : a.enable = true) (hx : x ∈ rxOthers s n)
    (ho : overlaps a.firstCh.toNat a.channels.toNat x.cfg.firstCh.toNat x.cfg.channels.toNat = true) :
    applyAoipRx n a s = (0x60, s) := by
  have clash : ((rxOthers s n).any fun x =>
      overlaps a.firstCh.toNat a.channels.toNat x.cfg.firstCh.toNat x.cfg.channels.toNat ||
        (rxLegs a).any fun l => (rxLegs x.cfg).any fun m => decide (l = m)) = true :=
    List.any_eq_true.mpr ⟨x, hx, by simp [ho]⟩
  simp only [applyAoipRx, he, clash, Bool.not_true, Bool.false_eq_true, if_false, if_true]

theorem applyAoipRx_fresh {a : AoipRxArgs} (he : a.enable = true) (ho : rxOthers s n = []) (hn : mapGet s.net.rx n = none)
    (hw : rxWords s a ≤ 1048576) :
    applyAoipRx n a s =
      (0, igmpLegs a true { s with net := { s.net with rx := mapPut s.net.rx n (AoipRx.fresh a) } }) := by
  simp only [applyAoipRx, he, ho, hn, Bool.not_true, Bool.false_eq_true, if_false, List.any_nil, List.foldl_nil,
    if_neg hw.not_gt, Option.filter_none]
  rfl

/-- The settings of the transmit streams, with the one that is set. -/
def txSettings (s : State) (n : Fin 256) (a : AoipTxArgs) : List AoipTxArgs :=
  a :: (s.net.tx.filter fun e => decide (e.1 ≠ n.val) && e.2.on).map (·.2.cfg)

theorem applyAoipTx_overBudget {a : AoipTxArgs} {p : Fin 4} (he : a.enable = true) (hp : p ∈ txPorts a)
    (hf : txFits s p (txSettings s n a) = false) : applyAoipTx n a s = (3, s) := by
  have exceeds : ((txPorts a).any fun p => !txFits s p (txSettings s n a)) = true :=
    List.any_eq_true.mpr ⟨p, hp, by simp [hf]⟩
  rw [txSettings] at exceeds
  simp only [applyAoipTx, he, exceeds, Bool.not_true, Bool.false_eq_true, if_false, if_true]
  rfl

/-- A transmit stream that begins. -/
def AoipTx.fresh (a : AoipTxArgs) (seq : BitVec 16) : AoipTx :=
  { on := true, cfg := a, seq := seq, sent := 0, late := 0, rtpLast := 0, buf := none, count := 0, cs := [], csNext := [] }

theorem applyAoipTx_fresh {a : AoipTxArgs} (he : a.enable = true) (hn : mapGet s.net.tx n = none)
    (hf : ∀ p ∈ txPorts a, txFits s p (txSettings s n a) = true) :
    applyAoipTx n a s = (0, { s with free := s.free + 1, net := { s.net with
      tx := mapPut s.net.tx n (AoipTx.fresh a (BitVec.ofNat 16 (freshFree 16 s).1)) } }) := by
  have fits : ((txPorts a).any fun p => !txFits s p (txSettings s n a)) = false :=
    List.any_eq_false.mpr fun p hp => by simp [hf p hp]
  rw [txSettings] at fits
  simp only [applyAoipTx, he, fits, hn, Bool.not_true, Bool.false_eq_true, if_false, Option.filter_none, Option.elim_none]
  rfl

end AoipBoundary

/-! A frame that passes through the receive buffer changes the ports alone (R268, R269). -/

section PassBuffer

variable {s t : State}

/-- `t` differs from `s` in the Ethernet ports alone. -/
def EthSide (s t : State) : Prop := ∃ v, t = { s with net := { s.net with eth := v } }

theorem ethSide_sendPause (p : Fin 4) (quanta : Nat) (s : State) : EthSide s (sendPause p quanta s) := by
  unfold sendPause
  split
  · exact ⟨_, rfl⟩
  · exact ⟨s.net.eth, rfl⟩

theorem ethSide_pauseMove (p : Fin 4) (was occ : Nat) (s : State) : EthSide s (pauseMove p was occ s) := by
  unfold pauseMove
  split
  · exact ethSide_sendPause ..
  · split
    · exact ethSide_sendPause ..
    · exact ⟨s.net.eth, rfl⟩

theorem EthSide.trans {u : State} (h1 : EthSide s t) (h2 : EthSide t u) : EthSide s u := by
  obtain ⟨v, rfl⟩ := h1
  obtain ⟨w, rfl⟩ := h2
  exact ⟨w, rfl⟩

theorem ethSide_passBuffer (p : Fin 4) (n : Nat) (s : State) : EthSide s (passBuffer p n s) :=
  (ethSide_pauseMove ..).trans (ethSide_pauseMove ..)

theorem EthSide.rx_eq (h : EthSide s t) : t.net.rx = s.net.rx := by obtain ⟨v, rfl⟩ := h; rfl

theorem EthSide.now_eq (h : EthSide s t) : now t = now s := by obtain ⟨v, rfl⟩ := h; rfl

theorem EthSide.fs_eq (h : EthSide s t) : fs t = fs s := by obtain ⟨v, rfl⟩ := h; rfl

theorem EthSide.spt_eq (h : EthSide s t) : spt t = spt s := by obtain ⟨v, rfl⟩ := h; rfl

theorem EthSide.packetSamples_eq (h : EthSide s t) (k : Nat) : packetSamples t k = packetSamples s k := by
  simp only [packetSamples, h.fs_eq]

theorem EthSide.payloadBytes_eq (h : EthSide s t) (f c k : Nat) : payloadBytes t f c k = payloadBytes s f c k := by
  simp only [payloadBytes, h.packetSamples_eq]

theorem EthSide.ringSize_eq (h : EthSide s t) (a : AoipRxArgs) : ringSize t a = ringSize s a := by
  simp only [ringSize, h.packetSamples_eq, h.spt_eq]

end PassBuffer

/-! A received packet of a stream (R288–R292). -/

section AoipPacket

variable {p : Fin 4} {x : RtpIn} {n : Nat} {y : AoipRx} {s : State}

theorem satN_eq_min (w n : Nat) : satN w n = min (2 ^ w - 1) n := by
  have := Nat.two_pow_pos w
  unfold satN
  split <;> omega

/-- A sequence number that arrives changes the gaps and the last number alone. -/
theorem trackSeq_eq (y : AoipRx) (q : BitVec 16) (b : Nat) : ∃ l g, trackSeq y q b = { y with lastSeq := l, gaps := g } := by
  unfold trackSeq
  split
  · exact ⟨_, _, rfl⟩
  · dsimp only
    split <;> exact ⟨_, _, rfl⟩

/-- How far ahead of the position at hand a packet's first sample position lies (R287, R288). -/
def rtpLead (s : State) (a : AoipRxArgs) (x : RtpIn) : Int :=
  signed 32 (unsign 32 ((x.ts.toNat : Int) + a.linkOffset.toNat - (spt s * now s : Nat)))

/-- The boundary that hands a packet's first sample over. -/
def rtpBoundary (s : State) (a : AoipRxArgs) (x : RtpIn) : Int := (((spt s * now s : Nat) : Int) + rtpLead s a x) / (spt s : Int)

/-- The time a packet has to spare, in ns times the sample rate. -/
def rtpSpare (s : State) (a : AoipRxArgs) (x : RtpIn) : Int :=
  (rtpBoundary s a x - now s) * (spt s * 1000000000 : Nat) - (x.sinceNs + 2000 : Nat) * (fs s : Int)

/-- A stream that has seen a packet's sequence number. -/
def AoipRx.tracked (s : State) (x : RtpIn) (y : AoipRx) : AoipRx := trackSeq y x.seq (rtpBoundary s y.cfg x).toNat

/-- A stream as a packet leaves it that it has already, that comes late, or that comes early. -/
def AoipRx.duplicate (z : AoipRx) : AoipRx := { z with dup := satN 32 (z.dup + 1) }
def AoipRx.tooLate (z : AoipRx) : AoipRx := { z with late := satN 32 (z.late + 1) }
def AoipRx.tooEarly (z : AoipRx) : AoipRx := { z with early := satN 32 (z.early + 1) }

/-- A stream as a packet leaves it that comes in time. -/
def AoipRx.placed (s : State) (x : RtpIn) (a : AoipRxArgs) (z : AoipRx) : AoipRx :=
  { z with
    ring := (rtpSamples a x.ts.toNat (rtpData x) (packetSamples s a.ptime.toNat)).foldl
      (fun m e => mapPut m (e.ts % ringSize s a) e) z.ring
    packets := satN 32 (z.packets + 1)
    marginMin := some (match z.marginMin with
      | none => (rtpSpare s a x / (fs s : Int)).toNat
      | some m => min m (rtpSpare s a x / (fs s : Int)).toNat) }

theorem exec_aoipPacketReceived_noStream (hx : rxStreamOf s p x = none) : exec (.aoipPacketReceived p x) s = .next s := by
  simp only [exec, execAoipPacketReceived, hx]

/-- A packet has passed through the buffer, and its stream stands as `z`. -/
def putRx (p : Fin 4) (x : RtpIn) (n : Nat) (z : AoipRx) (s : State) : State :=
  rxMod n (fun _ => z) (passBuffer p (x.payload.length + 58) s)

theorem putRx_eq (p : Fin 4) (x : RtpIn) (n : Nat) (z : AoipRx) (s : State) :
    putRx p x n z s = { passBuffer p (x.payload.length + 58) s with
      net := { (passBuffer p (x.payload.length + 58) s).net with rx := mapModify s.net.rx n fun _ => z } } := by
  rw [← (ethSide_passBuffer p (x.payload.length + 58) s).rx_eq]
  rfl

section Taken

variable (hx : rxStreamOf s p x = some (n, y)) (hr : ethRuns s p = true)
  (hb : bufBytes s.net.eth[p].rx + (x.payload.length + 58) ≤ rxBuffer)
  (hl : (rtpData x).length = payloadBytes s y.cfg.format.toNat y.cfg.channels.toNat y.cfg.ptime.toNat)
include hx hr hb hl

/-- A packet of a stream's length, at a port that runs and has room for it, is placed by its timestamp. -/
theorem exec_aoipPacketReceived_stream :
    exec (.aoipPacketReceived p x) s =
      if (mapGet y.ring (x.ts.toNat % ringSize s y.cfg)).any fun e => e.ts = x.ts.toNat then
        .next (putRx p x n (y.tracked s x).duplicate s)
      else if rtpSpare s y.cfg x < 0 then
        fin (sticky Reg.aoipErrStat 0 (putRx p x n (y.tracked s x).tooLate s))
      else if ((spt s * now s : Nat) : Int) + ringSize s y.cfg ≤
          ((spt s * now s : Nat) : Int) + rtpLead s y.cfg x + packetSamples s y.cfg.ptime.toNat - 1 then
        fin (sticky Reg.aoipErrStat 1 (putRx p x n (y.tracked s x).tooEarly s))
      else .next (putRx p x n ((y.tracked s x).placed s x y.cfg) s) := by
  have side := ethSide_passBuffer p (x.payload.length + 58) s
  have runs : (decide (s.power.state ≠ .running) || !s.net.eth[p].up || fenced s (.eth p)) = false := by
    simpa [ethRuns, and_assoc] using hr
  have room : bufferFull s p (x.payload.length + 58) = false := decide_eq_false hb.not_gt
  simp only [exec, execAoipPacketReceived, hx, runs, room, side.payloadBytes_eq, side.packetSamples_eq, side.ringSize_eq,
    side.spt_eq, side.now_eq, side.fs_eq, hl, ne_eq, not_true_eq_false, Bool.false_eq_true, if_false]
  rfl

/-- A packet whose first sample is in the ring already counts as duplicate. -/
theorem exec_aoipPacketReceived_duplicate {e : RtpSample} (he : mapGet y.ring (x.ts.toNat % ringSize s y.cfg) = some e)
    (ht : e.ts = x.ts.toNat) :
    exec (.aoipPacketReceived p x) s = .next (putRx p x n (y.tracked s x).duplicate s) := by
  rw [exec_aoipPacketReceived_stream hx hr hb hl, if_pos (by simp [he, ht])]

/-- A packet that is neither there nor late nor early goes to its ring. -/
theorem exec_aoipPacketReceived_placed
    (he : ∀ e, mapGet y.ring (x.ts.toNat % ringSize s y.cfg) = some e → e.ts ≠ x.ts.toNat) (hs : 0 ≤ rtpSpare s y.cfg x)
    (hd : rtpLead s y.cfg x + packetSamples s y.cfg.ptime.toNat - 1 < ringSize s y.cfg) :
    exec (.aoipPacketReceived p x) s = .next (putRx p x n ((y.tracked s x).placed s x y.cfg) s) := by
  have absent : ¬ ((mapGet y.ring (x.ts.toNat % ringSize s y.cfg)).any fun e => e.ts = x.ts.toNat) = true := by
    simpa [Option.any_eq_true] using he
  have inTime : ¬ rtpSpare s y.cfg x < 0 := Int.not_lt.mpr hs
  have notEarly : ¬ ((spt s * now s : Nat) : Int) + ringSize s y.cfg ≤
      ((spt s * now s : Nat) : Int) + rtpLead s y.cfg x + packetSamples s y.cfg.ptime.toNat - 1 := by omega
  rw [exec_aoipPacketReceived_stream hx hr hb hl, if_neg absent, if_neg inTime, if_neg notEarly]

end Taken

end AoipPacket

/-- Settles O31: the commands come down to `timedCmd_held` and `untimedCmd_run`, and a stream's packet to the equation that sorts
it by its timestamp. -/
theorem aoipStreamsSetReceivedAndQueried : Obligations.AoipStreamsSetReceivedAndQueried := by
  unfold Obligations.AoipStreamsSetReceivedAndQueried
  refine ⟨?_, ?_, ?_, ?_, ?_, ?_, ?_, ?_, ?_, ?_, ?_, ?_, ?_⟩
  · intro h a s n late ht hn he hb h96 h127 hlo hhi hr
    exact exec_aoipRxSet_held ht hn he hb h96 h127 hlo hhi hr
  · intro h a s n late ht hn he hb h96 h127 hd hr
    exact exec_aoipTxSet_held ht hn he hb h96 h127 hd hr
  · intro s f c t l hc
    exact streamRefusal_payload l hc
  · intro s f c t l p h1 h64 hb hp hm
    exact streamRefusal_portOff h1 h64 hb hp hm
  · intro h tick st pair block x s n late ht hn hx hf hp hl
    exact exec_aoipCsSet_held ht hn hx hf hp hl
  · intro h dir st pair addr s ht hd hp
    exact exec_aoipQuery_taken ht hd hp
  · intro n a x s he hx ho
    exact applyAoipRx_channelClash he hx ho
  · intro n a s he ho hn hw
    exact applyAoipRx_fresh he ho hn hw
  · intro n a p s he hp hf
    exact applyAoipTx_overBudget he hp hf
  · intro n a s he hn hf
    exact ⟨_, applyAoipTx_fresh he hn hf⟩
  · intro p x s hx
    exact exec_aoipPacketReceived_noStream hx
  · intro p x n y e s hx hr hb hl he ht
    obtain ⟨l, g, tracked⟩ := trackSeq_eq y x.seq (rtpBoundary s y.cfg x).toNat
    refine ⟨(y.tracked s x).duplicate, ?_, ?_⟩
    · rw [exec_aoipPacketReceived_duplicate hx hr hb hl he ht, putRx_eq]
    · rw [AoipRx.tracked, tracked]
      exact ⟨satN_eq_min 32 _, rfl, rfl, rfl, rfl⟩
  · rintro p x n _ _ y _ s hx hr hb hl rfl rfl he rfl hs hd
    obtain ⟨l, g, tracked⟩ := trackSeq_eq y x.seq (rtpBoundary s y.cfg x).toNat
    refine ⟨(y.tracked s x).placed s x y.cfg, ?_, ?_⟩
    · rw [exec_aoipPacketReceived_placed hx hr hb hl he (Int.sub_nonneg_of_le hs) hd, putRx_eq]
    · rw [AoipRx.tracked, tracked]
      exact ⟨satN_eq_min 32 _, rfl, rfl, rfl, rfl⟩

end Sys2Proof.Machine

namespace Sys2Proof.Machine

/-! What the taking of a descriptor leaves of the ports, and the ASRC channels that are left for one (R320). -/

@[simp] theorem takenState_ports (h : CmdHdr) (s : State) : (takenState h s).ports = s.ports := by rw [takenState_eq]

@[simp] theorem asrcFull_takenState (h : CmdHdr) (s : State) (p : Fin 12) (k : Nat) :
    asrcFull (takenState h s) p k = asrcFull s p k := by
  rw [asrcFull, asrcFull, asrcOthers, asrcOthers, takenState_ports]

theorem asrcFull_fits {s : State} {p : Fin 12} {k : Nat} (hk : asrcOthers s p + k ≤ 256) : asrcFull s p k = none :=
  if_neg hk.not_gt

theorem asrcFull_full {s : State} {p : Fin 12} {k : Nat} (hk : 256 < asrcOthers s p + k) : asrcFull s p k = some (0x41, 0) :=
  if_pos hk

/-- The ASRC channels that a start accepted now needs. -/
def startNeed (p : Fin 12) (s : State) : Nat := asrcNeed p (regGet s (portCfgReg p)) (pendingMasks s p)

/-! PORT_START and PORT_STOP as they are taken (R314–R316, R320, R326). -/

section PortStartTaken

variable {h : CmdHdr} {tick : BitVec 64} {port : PortSel} {p : Fin 12} {s : State} {n : Nat} {late : Bool}

/-- A start without a trigger is a timed command. -/
theorem exec_portStart_timed (hp : portOf port = some p) :
    exec (.portStart h tick port 0) s = fin (timedCmd h tick false (fun s => asrcFull s p (startNeed p s))
      (fun _ _ s => if s.ports.port[p].state = .stopped then setAsrc p (startNeed p s) s else s) (.portStart p) s) := by
  have inRange : ¬ (4 < (0 : Byte).toNat ∨ ((0 : Byte) ≠ 0 ∧ tick ≠ 0)) := by simp
  simp only [exec, execPortStart, hp]
  rw [if_neg inRange, if_true]
  rfl

theorem exec_portStart_held (ht : Taken h true s) (hn : schedule tick s = some (n, late)) (hp : portOf port = some p)
    (hk : asrcOthers s p + startNeed p (takenState h s) ≤ 256) :
    exec (.portStart h tick port 0) s = .next (settle (hold n (ticketOf h s) late (.portStart p)
      (if s.ports.port[p].state = .stopped then setAsrc p (startNeed p (takenState h s)) (takenState h s)
      else takenState h s))) := by
  have fits : asrcFull (takenState h s) p (startNeed p (takenState h s)) = none := by
    rw [asrcFull_takenState, asrcFull_fits hk]
  rw [exec_portStart_timed hp, fin, timedCmd_held ht rfl hn fits, takenState_ports]

theorem exec_portStart_asrcFull (ht : Taken h true s) (hn : schedule tick s = some (n, late)) (hp : portOf port = some p)
    (hk : 256 < asrcOthers s p + startNeed p (takenState h s)) :
    exec (.portStart h tick port 0) s = .next (settle (complete (ticketOf h s) 0x41 0 (takenState h s))) := by
  have full : asrcFull (takenState h s) p (startNeed p (takenState h s)) = some (0x41, 0) := by
    rw [asrcFull_takenState, asrcFull_full hk]
  rw [exec_portStart_timed hp, fin, timedCmd_refused ht rfl hn full]

/-- A port that a start trigger is to start (R315). -/
def Port.onTrigger (t : Ticket) (k : Fin 4) (x : Port) : Port := { x with state := .armed, armed := some (t, k), fireAt := none }

/-- A port with one more start that waits for its trigger. -/
def Port.waiting (t : Ticket) (k : Fin 4) (x : Port) : Port := { x with waits := x.waits ++ [(t, k, none)] }

/-- What a start on a trigger does as it is taken: the four cases of R315 and R320. -/
theorem exec_portStart_trigger {trig : Byte} {t : Fin 4} (ht : Taken h true s) (hp : portOf port = some p)
    (hi : trig.toNat = t.val + 1) :
    exec (.portStart h 0 port trig) s = fin (
      if fenced s (.port p) then complete (ticketOf h s) St.fenced 0 (takenState h s)
      else if s.ports.port[p].state ≠ .stopped then portMod p (Port.waiting (ticketOf h s) t) (takenState h s)
      else (asrcFull s p (startNeed p (takenState h s))).elim
        (setAsrc p (startNeed p (takenState h s)) (portMod p (Port.onTrigger (ticketOf h s) t) (takenState h s)))
        fun r => complete (ticketOf h s) r.1 r.2 (takenState h s)) := by
  obtain ⟨takes, noReserved⟩ := ht
  have inRange : ¬ (4 < trig.toNat ∨ (trig ≠ 0 ∧ (0 : BitVec 64) ≠ 0)) := by
    have := t.isLt
    simp only [ne_eq, not_true_eq_false, and_false, or_false]
    omega
  have nonzero : trig ≠ 0 := by
    rintro rfl
    simp at hi
  have slot : (⟨(trig.toNat - 1) % 4, Nat.mod_lt _ (by decide)⟩ : Fin 4) = t := by
    have := t.isLt
    exact Fin.ext (by simp only [hi]; omega)
  have state : (accept h (hostStores h.stores s)).2 = takenState h s := rfl
  have ticket : (accept h (hostStores h.stores s)).1 = ticketOf h s := rfl
  simp only [exec, execPortStart, hp, if_neg inRange, if_neg nonzero, takes, noReserved, if_true, Bool.false_eq_true, if_false,
    slot, state, ticket, startNeed, fenced_takenState, takenState_ports, asrcFull_takenState]
  split
  · rfl
  · split
    · rfl
    · cases asrcFull s p _ <;> rfl

theorem exec_portStop_held (ht : Taken h true s) (hn : schedule tick s = some (n, late)) (hp : portOf port = some p) :
    exec (.portStop h tick port) s = .next (settle (hold n (ticketOf h s) late (.portStop p) (takenState h s))) := by
  simp only [exec, execPortStop, hp, fin]
  rw [timedCmd_held ht rfl hn rfl]
  rfl

end PortStartTaken

/-! PORT_SLOTS, AES_CS_SET and the queries as they are taken (R311, R312, R320, R324, R327, R328). -/

section PortSlotsTaken

variable {h : CmdHdr} {p : Fin 8} {s : State} {n : Nat} {late : Bool}

/-- The ASRC channels that new masks need as their descriptor is taken, and the machine that has allocated them. -/
def slotsNeed (h : CmdHdr) (p : Fin 8) (a : PortSlotsArgs) (s : State) : Nat :=
  if holdsAsrc (takenState h s) p then
    asrcNeed (serialPort p) (startCfg (takenState h s) p) (plannedMasks (takenState h s) p a)
  else 0

def slotsTaken (h : CmdHdr) (p : Fin 8) (a : PortSlotsArgs) (s : State) : State :=
  if holdsAsrc (takenState h s) p then setAsrc (serialPort p) (slotsNeed h p a s) (takenState h s) else takenState h s

theorem exec_portSlots_held {a : PortSlotsArgs} (ht : Taken h true s) (hn : schedule a.tick s = some (n, late))
    (ha : a.port.aes = false) (hp : a.port.index.toFin = p) (hi : a.immediate = false) (hm : maskBad s p a = false)
    (hl : a.masks.length = 4) (hk : asrcOthers s (serialPort p) + slotsNeed h p a s ≤ 256) :
    exec (.portSlots h a) s =
      .next (settle (hold n (ticketOf h s) late (.portSlots p a.write a.masks) (slotsTaken h p a s))) := by
  have fits : asrcFull (takenState h s) (serialPort p) (slotsNeed h p a s) = none := by
    rw [asrcFull_takenState, asrcFull_fits hk]
  simp only [exec, execPortSlots, hp, hi, fin, Bool.false_eq_true, if_false]
  rw [timedCmd_held ht (by simp [ha, hm, hl]) hn fits]
  rfl

theorem exec_portSlots_immediate {a : PortSlotsArgs} (ht : Taken h false s) (h0 : a.tick = 0)
    (ha : a.port.aes = false) (hp : a.port.index.toFin = p) (hi : a.immediate = true) (hm : maskBad s p a = false)
    (hl : a.masks.length = 4) (hk : asrcOthers s (serialPort p) + slotsNeed h p a s ≤ 256) :
    exec (.portSlots h a) s =
      .next (settle (complete (ticketOf h s) 0 0 (commitNow p a.write a.masks (slotsTaken h p a s)))) := by
  have fits : asrcFull (takenState h s) (serialPort p) (slotsNeed h p a s) = none := by
    rw [asrcFull_takenState, asrcFull_fits hk]
  simp only [exec, execPortSlots, hp, hi, fin, if_true]
  rw [untimedCmd_run ht (by simp [ha, hm, hl, h0]), ← slotsNeed, fits]
  rfl

theorem exec_aesCsSet_held {a : AesCsSetArgs} {k : Fin 4} (ht : Taken h true s) (hn : schedule a.tick s = some (n, late))
    (ha : a.port.aes = true) (hk : a.port.index.toNat = k.val) (hl : a.block.length = 24) :
    exec (.aesCsSet h a) s =
      .next (settle (hold n (ticketOf h s) late (.aesCs k a.subframe.toFin a.user a.block) (takenState h s))) := by
  have transceiver : (⟨a.port.index.toNat % 4, Nat.mod_lt _ (by decide)⟩ : Fin 4) = k :=
    Fin.ext (by simp only [hk]; omega)
  simp only [exec, execAesCsSet, fin, transceiver]
  rw [timedCmd_held ht (by simp [ha, hk, hl]; omega) hn rfl]
  rfl

theorem portQuery_taken {q : Fin 12} {addr : BitVec 64} (ht : Taken h false s) (ha : aligned8 addr = true) :
    portQuery h (some q) addr s = .next (settle { (takenState h s) with ports := { s.ports with
      queries := s.ports.queries ++ [{ ticket := ticketOf h s, port := q, addr := addr }] } }) := by
  rw [portQuery, fin, untimedCmd_run ht (by simp [ha])]
  simp only [takenState_ports]

end PortSlotsTaken

/-- Settles O32: the timed commands come down to `timedCmd_held` with the ASRC channels judged by `asrcFull`, a start on a trigger
to the cases of `exec_portStart_trigger`, and both queries to `portQuery_taken`. -/
theorem portCommandsTaken : Obligations.PortCommandsTaken := by
  unfold Obligations.PortCommandsTaken
  refine ⟨?_, ?_, ?_, ?_, ?_, ?_, ?_, ?_, ?_, ?_, ?_⟩
  · rintro h tick port p _ s n late ht hn hp rfl hk
    exact exec_portStart_held ht hn hp hk
  · intro h tick port p s n late ht hn hp hk
    exact exec_portStart_asrcFull ht hn hp hk
  · rintro h port trig t p _ s ht hp hi hf hs rfl hk
    have fits : asrcFull s p (startNeed p (takenState h s)) = none := asrcFull_fits hk
    rw [exec_portStart_trigger ht hp hi, hf, if_neg Bool.false_ne_true, if_neg (not_not.mpr hs), fits]
    rfl
  · intro h port trig p s ht hp h1 h4 hf
    have slot : trig.toNat = (⟨trig.toNat - 1, by omega⟩ : Fin 4).val + 1 := (Nat.sub_add_cancel h1).symm
    rw [exec_portStart_trigger ht hp slot, if_pos hf]
    rfl
  · intro h port trig t p s ht hp hi hf hs
    rw [exec_portStart_trigger ht hp hi, hf, if_neg Bool.false_ne_true, if_pos hs]
    rfl
  · intro h tick port p s n late ht hn hp
    exact exec_portStop_held ht hn hp
  · rintro h a p _ s _ n late ht hn ha hp hi hm hl rfl hk rfl
    exact exec_portSlots_held ht hn ha hp hi hm hl hk
  · rintro h a p _ s _ ht h0 ha hp hi hm hl rfl hk rfl
    exact exec_portSlots_immediate ht h0 ha hp hi hm hl hk
  · intro h a n s k late ht hn ha hk hl
    exact exec_aesCsSet_held ht hn ha hk hl
  · intro h port p addr s ht ha hp h8
    simp only [exec, execPortQuery, ha, Bool.false_eq_true, if_false, hp]
    exact portQuery_taken ht h8
  · intro h port p addr s ht ha hp h8
    simp only [exec, execAesQuery, ha, if_true, hp]
    exact portQuery_taken ht h8

end Sys2Proof.Machine

namespace Sys2Proof.Machine

/-! One port changed: what it holds then, and that every other port stays. -/

theorem portMod_port (p : Fin 12) (f : Port → Port) (s : State) : (portMod p f s).ports.port[p] = f s.ports.port[p] :=
  vmod_get_self _ p f

/-- A change of one port, as a change of the ports' vector. -/
theorem portMod_change (p : Fin 12) (f : Port → Port) (s : State) :
    ∃ v : Vector Port 12, portMod p f s = { s with ports := { s.ports with port := v } } ∧ AgreeOff p v s.ports.port ∧
      v[p] = f s.ports.port[p] :=
  ⟨(portMod p f s).ports.port, rfl, agreeOff_vmod p _ f, portMod_port p f s⟩

/-- A change of one port turns on what it makes of that port as it stands. -/
theorem portMod_congr {p : Fin 12} {f g : Port → Port} {s : State} (e : f s.ports.port[p] = g s.ports.port[p]) :
    portMod p f s = portMod p g s := by
  rw [portMod, vmod, e]
  rfl

@[simp] theorem isAes_serialPort (p : Fin 8) : isAes (serialPort p) = false :=
  decide_eq_false p.isLt.not_ge

/-! The start and the stop of a port at their boundary (R314, R316, R326). -/

section PortBoundary

variable {p : Fin 12} {s : State}

theorem applyPortStart_begins (hf : fenced s (.port p) = false) (hs : s.ports.port[p].state = .stopped) :
    applyPortStart p s = (0, beginPort p none (preclkOf s p) s) := by
  rw [applyPortStart, if_neg (not_not.mpr hs), hf, if_neg Bool.false_ne_true]
  rfl

theorem applyPortStart_fenced (hf : fenced s (.port p) = true) (hs : s.ports.port[p].state = .stopped) :
    applyPortStart p s = (0xA, setAsrc p 0 s) := by
  rw [applyPortStart, if_neg (not_not.mpr hs), if_pos hf]
  rfl

theorem applyPortStart_notStopped (hs : s.ports.port[p].state ≠ .stopped) :
    applyPortStart p s = (if fenced s (.port p) then 0xA else 0x40, s) := if_pos hs

theorem applyPortStop_stopped (hs : s.ports.port[p].state = .stopped) : applyPortStop p s = (0x40, s) := by
  simp only [applyPortStop, hs]

/-- A serial port that runs its POSTCLK frames. -/
def Port.postclk (x : Port) : Port :=
  { x with state := .stopping, postLeft := fld x.seq 31 16, dataOn := false, ready := false, group := none, outFade := none }

theorem applyPortStop_master {q : Fin 8} (hs : s.ports.port[serialPort q].state = .running)
    (hr : portRole (serialPort q) s.ports.port[serialPort q].cfg = 0) :
    applyPortStop (serialPort q) s = (0, portMod (serialPort q) Port.postclk s) := by
  simp only [applyPortStop, hs, hr, isAes_serialPort, ne_eq, not_true_eq_false, decide_false, Bool.and_false, Bool.false_and,
    Bool.false_eq_true, if_false]
  rfl

theorem exec_postclkEnd_over (hs : s.ports.port[p].state = .stopping) (ho : postclkOver s p = true) :
    exec (.postclkEnd p) s = .next (settle (enterStopped p s)) := if_pos ⟨hs, ho⟩

end PortBoundary

/-! Readiness, and the lack of it (R314, R315, R319, R320). -/

section PortReadiness

variable {p : Fin 12} {s : State}

/-- A port of a role that has acquired its frames and locked. -/
def Port.acquired (role : Nat) (r q : Word) (x : Port) : Port :=
  { x with ready := true, clkPresent := true, frameAlign := true, dllLock := decide (role ≠ 2), asrcLock := decide (role = 2),
           rate := r, ratio := if role = 2 then q else 0, glitches := 0, lockPhase := x.phase }

theorem exec_portReady_acquired {r q : Word} (hs : s.ports.port[p].state = .starting ∨ s.ports.port[p].state = .fault)
    (hf : s.ports.port[p].rateFault = false)
    (hr : portRole p s.ports.port[p].cfg ≠ 2 ∨
      (2 ^ 26 ≤ q.toNat ∧ q.toNat ≤ 2 ^ 30 ∧ (isAes p = true → r.toNat ≤ 192000000))) :
    exec (.portReady p r q) s = .next (portMod p (Port.acquired (portRole p s.ports.port[p].cfg) r q) s) := by
  simp only [exec, execPortReady]
  rw [if_pos ⟨hs, by rw [hf]; rfl, hr.imp_right fun ⟨lo, hi, aes⟩ => ⟨lo, hi, by simpa [imp_iff_not_or] using aes⟩⟩]
  rfl

theorem startLate_iff {x : Port} {us : Nat} :
    startLate s x us = true ↔ x.state = .starting ∧ x.ready = false ∧ dataEarliest s x + ticksOfUs s us ≤ now s := by
  simp [startLate, and_assoc]

theorem exec_portStartTimeout_late (hl : startLate s s.ports.port[p] 1000000 = true) :
    exec (.portStartTimeout p) s = .next (settle (raise Src.portClkLost p 0 s)) := if_pos hl

theorem exec_portStartTimeout_early (hl : ¬ startLate s s.ports.port[p] 1000000 = true) :
    exec (.portStartTimeout p) s = .next s := if_neg hl

theorem exec_startSplit_late {q : Fin 8} {g : Nat} (hl : startLate s s.ports.port[serialPort q] 100000 = true)
    (hg : s.ports.port[serialPort q].group = some g) :
    exec (.startSplit (serialPort q)) s =
      .next (sticky (Reg.portErrStat q) 4 (portMod (serialPort q) (fun x => { x with group := none }) s)) := by
  simp only [exec, execStartSplit, hl, hg, Option.isSome_some, and_self, if_true, isAes_serialPort, Bool.false_eq_true, if_false]
  rfl

end PortReadiness

/-! A clock that stops (R316–R318). -/

section PortClock

variable {p : Fin 12} {s : State}

/-- A port whose clock is not there. -/
def Port.clockless (x : Port) : Port := { x with clkPresent := false, rate := 0, rates := [] }

theorem exec_portClockStop_running (hr : portRole p s.ports.port[p].cfg ≠ 0) (hc : s.ports.port[p].clkPresent = true)
    (hs : s.ports.port[p].state = .running) :
    exec (.portClockStop p) s = .next (settle (raise Src.portClkLost p 0 (sticky (portErrReg p) 0
      (portMod p (fun x => { x with clkLosses := satN 32 (x.clkLosses + 1) }) (portFault p (portMod p Port.clockless s)))))) := by
  simp only [exec, execPortClockStop, hr, hc, hs, fin, Bool.not_true, Bool.false_eq_true, false_or, false_and, if_false,
    reduceCtorEq, decide_false, Bool.or_self, true_or, if_true]
  rfl

theorem exec_portClockStop_starting (hr : portRole p s.ports.port[p].cfg ≠ 0) (hc : s.ports.port[p].clkPresent = true)
    (hs : s.ports.port[p].state = .starting) :
    exec (.portClockStop p) s = .next (portFault p (portMod p Port.clockless s)) := by
  simp only [exec, execPortClockStop, hr, hc, hs, Bool.not_true, Bool.false_eq_true, false_or, false_and, if_false,
    reduceCtorEq, decide_false, Bool.or_self]
  rfl

/-- A port that has lost its frames: a running one is in FAULT. -/
def Port.faulted (x : Port) : Port :=
  { x with state := if x.state = .running then .fault else x.state, ready := false, frameAlign := false, dllLock := false,
           asrcLock := false, glitches := 0, cs := vmap (fun (b : AesBlock) => { b with bits := none }) x.cs,
           user := vmap (fun (b : AesBlock) => { b with bits := none }) x.user }

theorem portFault_eq (p : Fin 12) (s : State) : portFault p s = portMod p Port.faulted s := by
  refine portMod_congr ?_
  dsimp only [Port.faulted]
  split <;> rfl

end PortClock

/-- Settles O33: each boundary and event has an equation per outcome, and what it changes of the port is `portMod_change`. -/
theorem portsStartRunAndStop : Obligations.PortsStartRunAndStop := by
  unfold Obligations.PortsStartRunAndStop
  refine ⟨?_, ?_, ?_, ?_, ?_, ?_, ?_, ?_, ?_, ?_, ?_, ?_, ?_, ?_⟩
  · intro p s hf hs
    rw [applyPortStart_begins hf hs, beginPort]
    obtain ⟨v, hv, off, self⟩ := portMod_change p _ s
    exact ⟨v, by rw [hv], off, by simp only [self, and_self]⟩
  · intro p s hf hs
    exact applyPortStart_fenced hf hs
  · intro p s hf hs
    rw [applyPortStart_notStopped hs, if_pos hf]
  · intro p s hf hs
    rw [applyPortStart_notStopped hs, hf, if_neg Bool.false_ne_true]
  · intro p r q s hs hf hr
    exact exec_portReady_acquired hs hf hr
  · intro p s hs hr hl
    exact exec_portStartTimeout_late (startLate_iff.mpr ⟨hs, hr, hl⟩)
  · intro p s he
    exact exec_portStartTimeout_early fun hl => he.not_ge (startLate_iff.mp hl).2.2
  · intro p g s hs hr hg hl
    exact exec_startSplit_late (startLate_iff.mpr ⟨hs, hr, hl⟩) hg
  · intro p s hs
    exact applyPortStop_stopped hs
  · intro p s hs hr
    exact applyPortStop_master hs hr
  · intro p s hs ho
    rw [exec_postclkEnd_over hs ho, enterStopped]
    obtain ⟨v, hv, off, self⟩ := portMod_change p _ s
    exact ⟨v, by rw [hv], off, by simp only [self, and_self]⟩
  · intro p s hr hc hs
    exact exec_portClockStop_running hr hc hs
  · intro p s hr hc hs
    exact exec_portClockStop_starting hr hc hs
  · intro p s hs
    rw [portFault_eq]
    refine ⟨?_, ?_, agreeOff_vmod p _ _⟩ <;> simp only [portMod_port, Port.faulted, hs, if_true]

end Sys2Proof.Machine

namespace Sys2Proof.Machine

/-! The frames that a port receives (R306, R314, R317, R318): one equation for a port that runs or acquires its frames, and one
for a serial master, which checks nothing. -/

section PortFrames

variable {p : Fin 12} {f : PortFrameIn} {s : State}

/-- A port that has seen the clock and the rate of a frame. -/
def Port.clocked (f : PortFrameIn) (x : Port) : Port :=
  { x with clkPresent := true, rate := f.rate, phase := f.phase, rates := (f.rate.toNat :: x.rates).take 8 }

/-- The sample position that a frame carries. -/
def framePos (s : State) (f : PortFrameIn) : Nat := spt s * now s + f.ahead.val

theorem exec_portFrame_stopped (hs : s.ports.port[p].state = .stopped) :
    exec (.portFrame p f) s = .next (portMod p (Port.clocked f) s) := by
  simp only [exec, execPortFrame, hs]
  rfl

theorem exec_portFrame_slipped (hs : s.ports.port[p].state = .running) (hr : portRole p s.ports.port[p].cfg = 1) {v : State}
    (hv : v = rateStep p (rateOff s p s.ports.port[p] f.rate.toNat) (portMod p (Port.clocked f) s))
    (hl : slipped v v.ports.port[p] = true) :
    exec (.portFrame p f) s = .next (settle (resync p (raise Src.dllSlip p 0 v))) := by
  subst hv
  unfold Port.clocked at hl ⊢
  simp only [exec, execPortFrame, hs, hr, ne_eq, one_ne_zero, not_false_eq_true, decide_true, Bool.true_and, if_true, hl, fin]

/-- A frame of a serial master goes to its input buffer while it runs, and is kept while it waits to turn data on. -/
theorem exec_portFrame_master (hs : s.ports.port[p].state = .running ∨ s.ports.port[p].state = .starting)
    (hr : portRole p s.ports.port[p].cfg = 0) :
    exec (.portFrame p f) s = fin (
      if s.ports.port[p].state = .running then goodFrame p (framePos s f) f (portMod p (Port.clocked f) s)
      else if s.ports.port[p].ready then keepFrame p (framePos s f) f (portMod p (Port.clocked f) s)
      else portMod p (Port.clocked f) s) := by
  have clocked : (portMod p (Port.clocked f) s).ports.port[p] = Port.clocked f s.ports.port[p] := portMod_port p _ s
  unfold Port.clocked at clocked ⊢
  rcases hs with running | starting
  · simp only [exec, execPortFrame, running, hr, clocked, ne_eq, not_true_eq_false, decide_false, Bool.false_and,
      Bool.false_eq_true, if_false, if_true, or_self]
    rfl
  · simp only [exec, execPortFrame, starting, hr, clocked, ne_eq, not_true_eq_false, decide_false, Bool.false_and,
      Bool.false_eq_true, if_false, reduceCtorEq, not_false_eq_true, or_self, if_true, Bool.not_false, Bool.and_true]
    rfl

theorem goodFrame_serial (q : Fin 8) (pos : Nat) (f : PortFrameIn) (s : State) :
    goodFrame (serialPort q) pos f s = portMod (serialPort q) (fun x => { x with
      inBuf := mapPut s.ports.port[serialPort q].inBuf pos
        (.frame (f.slots.map fun w : Word => (some (w <<< (32 - slotWidth s)), true))),
      glitches := 0 }) s := by
  simp only [goodFrame, frameSlots, isAes_serialPort, Bool.false_eq_true, if_false, if_true]
  exact portMod_congr rfl

end PortFrames

/-! Glitches (R318). -/

section Glitches

variable {p : Fin 12} {pos : Nat} {g : Bool} {s : State}

theorem glitch_third (hg : 2 ≤ s.ports.port[p].glitches) :
    glitch p pos g s = resync p (countSpall p (if isAes p then 2 else 1) s) := if_pos hg

/-- A port with one more glitch in its row. -/
def Port.glitched (p : Fin 12) (pos : Nat) (onGrid : Bool) (x : Port) : Port :=
  { x with glitches := x.glitches + 1, inBuf := mapPut x.inBuf pos .spall,
           lostOut := if isAes p then x.lostOut else x.lostOut ++ [pos - (if onGrid then 1 else 2)],
           cs := vmap (fun (b : AesBlock) => { b with bits := none }) x.cs,
           user := vmap (fun (b : AesBlock) => { b with bits := none }) x.user }

theorem glitch_counted (hg : s.ports.port[p].glitches < 2) :
    glitch p pos g s = countSpall p (if isAes p then 2 else 1) (portMod p (Port.glitched p pos g) s) := if_neg hg.not_ge

end Glitches

/-! The channel-status blocks of a transceiver (R324). -/

section ChannelStatus

variable {n : Fin 4} {k : Fin 2} {l : List Byte} {s : State}

/-- A port whose channel-status block of a subframe stands as `b`. -/
def Port.withCs (k : Fin 2) (b : AesBlock) (x : Port) : Port := { x with cs := vset x.cs k b }

/-- A transceiver whose complete block has been taken up. -/
def csTaken (n : Fin 4) (k : Fin 2) (s : State) : State :=
  portMod (aesPort n) (Port.withCs k { s.ports.port[aesPort n].cs[k] with ready := none }) s

/-- A transceiver that has kept a block as its last good one. -/
def csKept (n : Fin 4) (k : Fin 2) (l : List Byte) (s : State) : State :=
  portMod (aesPort n) (Port.withCs k { s.ports.port[aesPort n].cs[k] with ready := none, good := some l }) (csTaken n k s)

theorem exec_aesCsBlock_badCrc (hl : s.ports.port[aesPort n].cs[k].ready = some l) (hp : (l.headD 0).getLsbD 0 = true)
    (hc : aesCrc l ≠ l.getD 23 0) :
    exec (.aesCsBlock n k) s = .next (settle (raise Src.aesCsCrc n 0 (sticky (Reg.aesErrStat n) 5
      (bumpFld (Reg.aesErrCount n) 31 16 1 (csTaken n k s))))) := by
  simp only [exec, execAesCsBlock, hl, hp, decide_eq_true hc, Bool.and_self, if_true, fin]
  rfl

theorem exec_aesCsBlock_kept {g : List Byte} (hl : s.ports.port[aesPort n].cs[k].ready = some l)
    (hp : (l.headD 0).getLsbD 0 = false) (hg : s.ports.port[aesPort n].cs[k].good = some g) :
    exec (.aesCsBlock n k) s = .next (if g = l then csKept n k l s
      else settle (report 0x0503 n [BitVec.ofNat 8 k] (sticky (Reg.aesErrStat n) 6 (csKept n k l s)))) := by
  simp only [exec, execAesCsBlock, hl, hp, Bool.false_and, Bool.false_eq_true, if_false, fin]
  split
  · next g' hg' =>
    obtain rfl : g' = g := Option.some.inj (hg'.symm.trans hg)
    split <;> rfl
  · next hn => exact absurd (hn.symm.trans hg) nofun

end ChannelStatus

/-- Settles O34: a frame goes by the state and the role of its port, a glitch by the row it continues, and a block by its CRC and
the last good one. -/
theorem portFramesAndStatusBlocksReceived : Obligations.PortFramesAndStatusBlocksReceived := by
  unfold Obligations.PortFramesAndStatusBlocksReceived
  refine ⟨?_, ?_, ?_, ?_, ?_, ?_, ?_, ?_, ?_⟩
  · intro p f s hs
    exact exec_portFrame_stopped hs
  · intro p f s hs hr
    rw [exec_portFrame_master (.inl hs) hr, if_pos hs]
    rfl
  · intro p f s v hs hr hv hl
    exact exec_portFrame_slipped hs hr hv hl
  · intro p f s hs hr hy
    rw [exec_portFrame_master (.inr hs) hr, if_neg (by rw [hs]; decide), if_pos hy]
    rfl
  · intro p pos f s
    exact goodFrame_serial p pos f s
  · intro p pos g s hg
    exact glitch_third hg
  · intro p pos g s hg
    obtain ⟨v, hv, off, self⟩ := portMod_change p (Port.glitched p pos g) s
    exact ⟨v, by rw [glitch_counted hg, hv], off, by rw [self]; exact ⟨rfl, rfl, rfl⟩⟩
  · intro n k l s hl hp hc
    exact exec_aesCsBlock_badCrc hl hp hc
  · rintro n k l g s _ hl hp hg rfl
    exact ⟨csKept n k l s, rfl, exec_aesCsBlock_kept hl hp hg⟩

end Sys2Proof.Machine

namespace Sys2Proof.Machine

/-! One channel of the power stage changed, and the mapped vectors read at an index. -/

theorem vmap_get {α β : Type} {n : Nat} (f : α → β) (v : Vector α n) (i : Fin n) : (vmap f v)[i] = f v[i] := by
  simp [vmap]

theorem vmapIdx_get {α β : Type} {n : Nat} (f : Fin n → α → β) (v : Vector α n) (i : Fin n) :
    (vmapIdx f v)[i] = f i v[i] := by
  simp [vmapIdx, vgen, fins]

theorem chMod_ch (c : Fin 8) (f : PsCh → PsCh) (s : State) : (chMod c f s).ps.ch[c] = f s.ps.ch[c] :=
  vmod_get_self _ c f

theorem chMod_ch_ne {c d : Fin 8} (f : PsCh → PsCh) (s : State) (h : d ≠ c) : (chMod c f s).ps.ch[d] = s.ps.ch[d] :=
  vmod_get_ne _ c d f h

/-- A change of one channel turns on what it makes of that channel as it stands. -/
theorem chMod_congr {c : Fin 8} {f g : PsCh → PsCh} {s : State} (e : f s.ps.ch[c] = g s.ps.ch[c]) :
    chMod c f s = chMod c g s := by
  simp only [chMod, psMod, vmod, e]

theorem chMod_chMod (c : Fin 8) (f g : PsCh → PsCh) (s : State) :
    chMod c g (chMod c f s) = chMod c (fun x => g (f x)) s := by
  simp [chMod, psMod, vmod, vset]

/-! The budget gains (R350, R351). -/

section Budget

variable {c : Fin 8} {s u : State}

/-- A budget ramp aims the gain of its channel, and changes nothing else. -/
theorem budgetRamp_eq (c : Fin 8) (t : Option Int) (s : State) :
    budgetRamp c t s = chMod c (fun y => { y with aimed := (budgetRamp c t s).ps.ch[c].aimed }) s := by
  refine chMod_congr ?_
  rw [budgetRamp, chMod_ch]
  dsimp only
  split_ifs <;> rfl

/-- The new aim turns on the channel's present gain and ramp times, and on the tick's length. -/
theorem budgetRamp_aimed_congr (t : Option Int) (hp : u.power = s.power) (ht : u.time = s.time)
    (ha : u.ps.ch[c].aimed = s.ps.ch[c].aimed) (hb : u.ps.ch[c].budget = s.ps.ch[c].budget)
    (hk : u.ps.ch[c].attack = s.ps.ch[c].attack) (hr : u.ps.ch[c].release = s.ps.ch[c].release) :
    (budgetRamp c t u).ps.ch[c].aimed = (budgetRamp c t s).ps.ch[c].aimed := by
  have tick : fs u = fs s ∧ spt u = spt s := by simp only [fs, spt, hp, ht, and_self]
  simp only [budgetRamp, chMod_ch, apply_ite PsCh.aimed, ha, hb, hk, hr, tick]

/-- A gain that stands more than 0.1 dB off its goal moves there. -/
theorem budgetRamp_moves {g b : Int} (ha : s.ps.ch[c].aimed = none) (hn : s.ps.ch[c].budget.n = 0)
    (hb : s.ps.ch[c].budget.aim = some b) (hm : 655360 < 100 * (b - 256 * g).natAbs) :
    (budgetRamp c (some g) s).ps.ch[c].aimed = some (some (256 * g),
      rampSamples (fs s) (spt s) (if 256 * g < b then s.ps.ch[c].attack else s.ps.ch[c].release)) := by
  simp only [budgetRamp, chMod_ch, ha, hb, Lev.now, hn, hm, Option.map_some, decide_true, decide_eq_true_eq, Bool.not_true,
    Bool.false_eq_true, if_true, if_false]

theorem budgetTarget_mute (m k : Nat) : budgetTarget 0 m k = none := rfl

theorem budgetTarget_covered {a m : Nat} (k : Nat) (ha : 0 < a) (hm : m ≤ a) :
    budgetTarget a m k = some (max (-30720 : Int) (0 - 768 * (k : Int))) := by
  simp only [budgetTarget, if_neg ha.ne', if_pos hm, Option.map_some]

theorem shares_fit {total : Nat} {l : List (Nat × Nat)} (h : l.foldl (fun a c => a + min c.1 c.2) 0 ≤ total) :
    shares total l = l.map (·.2) := if_pos h

theorem length_shares (total : Nat) (l : List (Nat × Nat)) : (shares total l).length = l.length := by
  unfold shares
  split <;> simp

end Budget

/-! The sharing of the available power (R349, R350). -/

section Sharing

/-- The channels that share the power. -/
def sharing (s : State) : List (Fin 8) :=
  (fins 8).filter fun c => decide (s.ps.ch[c].state = .running) || decide (s.ps.ch[c].state = .ramping)

theorem nodup_sharing (s : State) : (sharing s).Nodup := (List.nodup_finRange 8).filter _

/-- The budget target of a channel that is allowed `a` in a machine (R350, R344). -/
def shareTarget (s : State) (c : Fin 8) (a : Nat) : Option Int :=
  budgetTarget a s.ps.ch[c].raw (if s.ps.ch[c].state = .running then s.ps.group[groupOf c].sag else 0)

/-- A channel is allowed its share, and its budget gain aimed at the target of it. -/
def giveShare (s : State) (z : Fin 8 × Nat) : State :=
  budgetRamp z.1 (shareTarget s z.1 z.2) (chMod z.1 (fun x => { x with allowed := z.2 }) s)

/-- A channel with its share, as the sharing leaves it. -/
def PsCh.shared (s : State) (z : Fin 8 × Nat) (x : PsCh) : PsCh :=
  { x with allowed := z.2, aimed := (budgetRamp z.1 (shareTarget s z.1 z.2) s).ps.ch[z.1].aimed }

theorem giveShare_eq (s : State) (z : Fin 8 × Nat) : giveShare s z = chMod z.1 (PsCh.shared s z) s := by
  have aimed := budgetRamp_aimed_congr (c := z.1) (s := s) (u := chMod z.1 (fun x => { x with allowed := z.2 }) s)
    (shareTarget s z.1 z.2) rfl rfl (by rw [chMod_ch]) (by rw [chMod_ch]) (by rw [chMod_ch]) (by rw [chMod_ch])
  rw [giveShare, budgetRamp_eq, aimed, chMod_chMod]
  rfl

/-- What a channel's share makes of it turns on that channel, and on what no share changes. -/
theorem PsCh.shared_giveShare {s : State} {y z : Fin 8 × Nat} (h : z.1 ≠ y.1) :
    PsCh.shared (giveShare s y) z = PsCh.shared s z := by
  have same : (giveShare s y).ps.ch[z.1] = s.ps.ch[z.1] := by rw [giveShare_eq, chMod_ch_ne _ _ h]
  have target : shareTarget (giveShare s y) z.1 z.2 = shareTarget s z.1 z.2 := by
    rw [shareTarget, same]
    rfl
  have aimed := budgetRamp_aimed_congr (c := z.1) (s := s) (u := giveShare s y) (shareTarget s z.1 z.2) rfl rfl
    (by rw [same]) (by rw [same]) (by rw [same]) (by rw [same])
  funext x
  rw [PsCh.shared, PsCh.shared, target, aimed]

/-- The shares of different channels, given one after the other, each act on the machine as it stood before. -/
theorem foldl_giveShare (l : List (Fin 8 × Nat)) (s : State) (hl : (l.map (·.1)).Nodup) :
    ∃ v : Vector PsCh 8, l.foldl giveShare s = { s with ps := { s.ps with ch := v } } ∧
      (∀ c, c ∉ l.map (·.1) → v[c] = s.ps.ch[c]) ∧ ∀ z ∈ l, v[z.1] = PsCh.shared s z s.ps.ch[z.1] := by
  induction l generalizing s with
  | nil => exact ⟨s.ps.ch, rfl, fun _ _ => rfl, fun _ hz => absurd hz List.not_mem_nil⟩
  | cons y l ih =>
    rw [List.map_cons, List.nodup_cons] at hl
    obtain ⟨fresh, rest⟩ := hl
    obtain ⟨v, hv, off, on⟩ := ih (giveShare s y) rest
    have other (c : Fin 8) (hc : c ≠ y.1) : (giveShare s y).ps.ch[c] = s.ps.ch[c] := by rw [giveShare_eq, chMod_ch_ne _ _ hc]
    refine ⟨v, hv, fun c hc => ?_, fun z hz => ?_⟩
    · rw [List.map_cons, List.mem_cons, not_or] at hc
      rw [off c hc.2, other c hc.1]
    · rcases List.mem_cons.mp hz with rfl | hz
      · rw [off _ fresh, giveShare_eq, chMod_ch]
      · have apart : z.1 ≠ y.1 := fun e => fresh (e ▸ List.mem_map_of_mem hz)
        rw [on z hz, PsCh.shared_giveShare apart, other _ apart]

/-- The shares that the sharing channels get of the sustained power. -/
def sharesOf (s : State) : List Nat :=
  shares (1000 * s.ps.sustained) ((sharing s).map fun c => (s.ps.ch[c].raw, 1000 * s.ps.ch[c].watts))

theorem length_sharesOf (s : State) : (sharesOf s).length = (sharing s).length := by
  rw [sharesOf, length_shares, List.length_map]

/-- The machine before the shares are given: no channel is allowed anything, and a sag ends where the rail holds again. -/
def unshared (s : State) : State :=
  let sum (g : Fin 2) : Nat :=
    (((sharing s).zip (sharesOf s)).filter fun z => decide (groupOf z.1 = g)).foldl (fun b z => b + z.2) 0
  psMod (fun p => { p with
    ch := vmap (fun x => { x with allowed := 0 }) p.ch,
    group := vmapIdx (fun g x => { x with sag := if railHolds x then 0 else x.sag, limit := railLimits s sum g }) p.group }) s

theorem allocate_eq (s : State) : allocate s = ((sharing s).zip (sharesOf s)).foldl giveShare (unshared s) := rfl

theorem unshared_ch (s : State) (c : Fin 8) : (unshared s).ps.ch[c] = { s.ps.ch[c] with allowed := 0 } := vmap_get _ _ c

theorem unshared_group (s : State) (g : Fin 2) : (unshared s).ps.group[g] = { s.ps.group[g] with
    sag := if railHolds s.ps.group[g] then 0 else s.ps.group[g].sag, limit := (unshared s).ps.group[g].limit } := by
  have read : (unshared s).ps.group[g] = _ := vmapIdx_get _ _ g
  rw [read]

/-- The machine that has taken the measured supply, the available power and the raw powers. -/
def powerMeasured (m : PowerMeasure) (s : State) : State :=
  psMod (fun p => { p with
    pvin := m.pvin, tcase := m.tcase, sustained := (availPower s m).1, peak := (availPower s m).2,
    ch := vmap (fun x => { x with raw := rawPower s x }) p.ch }) s

theorem exec_powerAllocate (m : PowerMeasure) (s : State) : exec (.powerAllocate m) s = .next (allocate (powerMeasured m s)) := rfl

/-- Each sharing channel stands with its share in the list of both. -/
theorem exists_share {s : State} {c : Fin 8} (hc : c ∈ sharing s) : ∃ a, (c, a) ∈ (sharing s).zip (sharesOf s) := by
  rw [← List.map_fst_zip (length_sharesOf s).ge] at hc
  obtain ⟨⟨d, a⟩, hz, rfl⟩ := List.mem_map.mp hc
  exact ⟨a, hz⟩

/-- The sharing changes the channels and the groups alone: what it makes of each of them. -/
theorem allocate_shares (s : State) : ∃ v : Vector PsCh 8,
    allocate s = { s with ps := { s.ps with ch := v, group := (unshared s).ps.group } } ∧
    (∀ c, c ∉ sharing s → v[c] = { s.ps.ch[c] with allowed := 0 }) ∧
    (∀ c ∈ sharing s, v[c] = { s.ps.ch[c] with allowed := v[c].allowed, aimed := v[c].aimed } ∧
      v[c].aimed = (budgetRamp c (shareTarget (unshared s) c v[c].allowed) (unshared s)).ps.ch[c].aimed) ∧
    (sharing s).map (fun c => v[c].allowed) = sharesOf s := by
  have keys : ((sharing s).zip (sharesOf s)).map (·.1) = sharing s := List.map_fst_zip (length_sharesOf s).ge
  have values : ((sharing s).zip (sharesOf s)).map (·.2) = sharesOf s := List.map_snd_zip (length_sharesOf s).le
  obtain ⟨v, hv, off, on⟩ := foldl_giveShare ((sharing s).zip (sharesOf s)) (unshared s) (by rw [keys]; exact nodup_sharing s)
  rw [keys] at off
  refine ⟨v, hv, fun c hc => by rw [off c hc, unshared_ch], fun c hc => ?_, ?_⟩
  · obtain ⟨a, ha⟩ := exists_share hc
    rw [on _ ha, PsCh.shared, unshared_ch]
    exact ⟨rfl, rfl⟩
  · calc (sharing s).map (fun c => v[c].allowed)
        = (((sharing s).zip (sharesOf s)).map (·.1)).map (fun c => v[c].allowed) := by rw [keys]
      _ = ((sharing s).zip (sharesOf s)).map (fun z => v[z.1].allowed) := List.map_map
      _ = ((sharing s).zip (sharesOf s)).map (·.2) := List.map_congr_left fun z hz => by rw [on z hz, PsCh.shared]
      _ = sharesOf s := values

end Sharing

theorem powerMeasured_ch (m : PowerMeasure) (s : State) (c : Fin 8) :
    (powerMeasured m s).ps.ch[c] = { s.ps.ch[c] with raw := rawPower s s.ps.ch[c] } := vmap_get _ _ c

theorem sharing_powerMeasured (m : PowerMeasure) (s : State) : sharing (powerMeasured m s) = sharing s := by
  simp only [sharing, powerMeasured_ch]

theorem sharesOf_powerMeasured (m : PowerMeasure) (s : State) : sharesOf (powerMeasured m s) =
    shares (1000 * (availPower s m).1) ((sharing s).map fun c => (rawPower s s.ps.ch[c], 1000 * s.ps.ch[c].watts)) := by
  simp only [sharesOf, sharing_powerMeasured, powerMeasured_ch]
  rfl

/-! The estimate of the voice coil (R338, R354). -/

section Pilot

variable {c : Fin 8} {e : BitVec 16} {i : Nat} {s : State}

/-- A channel with its estimate: the resistance, the coil temperature and the weak readings in a row. -/
def PsCh.estimated (s : State) (c : Fin 8) (re weak : Nat) (x : PsCh) : PsCh :=
  { x with
    re := re, tvc := coilTemp s c re, weak := weak, openLoad := decide (3 ≤ weak),
    vcTemp := decide (regFld s (Reg.psChTherm c) 15 0 ≠ 0) && decide (10 * (regFld s (Reg.psChLim c) 31 24 : Int) ≤ coilTemp s c re),
    demod := PsDemod.reset }

theorem exec_pilotEstimate_idle (h : pilotOf s c = 0 ∨ s.ps.ch[c].playing = false ∨ s.ps.ch[c].demod.n = 0) :
    exec (.pilotEstimate c e i) s = .next (chMod c (fun x => { x with demod := PsDemod.reset }) s) := if_pos h

theorem exec_pilotEstimate_taken {re weak : Nat} {s1 s2 : State} (hre : re = (s.ps.ch[c].demod.ohms e).toNat)
    (hw : weak = if s.ps.ch[c].demod.weakAt (pilotMv s c) i then s.ps.ch[c].weak + 1 else 0)
    (h1 : s1 = chMod c (PsCh.estimated s c re weak) s)
    (h2 : s2 = if regFld s (Reg.psChTherm c) 15 0 ≠ 0 ∧ 10 * (regFld s (Reg.psChLim c) 31 24 : Int) ≤ coilTemp s c re
      then raise Src.psVcTemp c 0 (sticky Reg.psErrStat 6 s1) else s1)
    (hp : pilotOf s c ≠ 0) (hy : s.ps.ch[c].playing = true) (hn : s.ps.ch[c].demod.n ≠ 0) :
    exec (.pilotEstimate c e i) s =
      .next (settle (if 3 ≤ weak then raise Src.psOpenLoad c 0 (sticky Reg.psErrStat 5 s2) else s2)) := by
  have busy : ¬ (pilotOf s c = 0 ∨ s.ps.ch[c].playing = false ∨ s.ps.ch[c].demod.n = 0) :=
    not_or.mpr ⟨hp, not_or.mpr ⟨ne_false_of_eq_true hy, hn⟩⟩
  subst hre hw h1 h2
  simp only [exec, execPilotEstimate, if_neg busy, Bool.and_eq_true, decide_eq_true_eq, fin]
  rfl

/-- The estimate lies within 1 % of the ratio demodulated. -/
theorem ohms_near {d : PsDemod} {r : Nat} (h : d.ratio = some r) :
    99 * r ≤ 100 * (d.ohms e).toNat ∧ 100 * (d.ohms e).toNat ≤ 101 * r := by
  have held : (d.ohms e).toNat = min 65535 (max ((99 * r + 100 - 1) / 100) (min (101 * r / 100) e.toNat)) := by
    simp only [PsDemod.ohms, h, ceilDiv, BitVec.toNat_ofNat]
    exact Nat.mod_eq_of_lt (by omega)
  have fits : r ≤ 65535 := by
    unfold PsDemod.ratio at h
    dsimp only at h
    split at h
    · exact nomatch h
    · next hr =>
      obtain rfl := Option.some.inj h
      omega
  have above : (99 * r + 100 - 1) / 100 ≤ r := by omega
  rw [held]
  omega

theorem coilTemp_referenced {re : Nat} (h : regFld s (Reg.psChTherm c) 15 0 ≠ 0) : coilTemp s c re =
    10 * signed 8 (regFld s (Reg.psChTherm c) 23 16) + ((re : Int) - regFld s (Reg.psChTherm c) 15 0) * 1000000 /
      ((regFld s (Reg.psChTherm c) 15 0 * (if regBit s (Reg.psChCfg c) 11 then 403 else 393) : Nat) : Int) := if_neg h

theorem coilTemp_unreferenced {re : Nat} (h : regFld s (Reg.psChTherm c) 15 0 = 0) : coilTemp s c re = s.ps.ch[c].tvc :=
  if_pos h

end Pilot

/-- Settles O37: the sharing gives one channel after the other its share, which `foldl_giveShare` brings to one change of each
channel of the measured machine. -/
theorem powerSharedByBudget : Obligations.PowerSharedByBudget := by
  unfold Obligations.PowerSharedByBudget
  refine ⟨?_, ?_, length_shares, budgetTarget_mute, ?_, ?_, ?_, ?_, ?_, ?_, ?_, ?_⟩
  · rintro m s _ rfl
    obtain ⟨v, hv, off, on, allowed⟩ := allocate_shares (powerMeasured m s)
    rw [sharing_powerMeasured] at off on allowed
    rw [sharesOf_powerMeasured] at allowed
    refine ⟨allocate (powerMeasured m s), v, (unshared (powerMeasured m s)).ps.group, exec_powerAllocate m s, hv, fun c hc => ?_,
      fun c hc => ?_, allowed, unshared_group (powerMeasured m s)⟩
    · rw [off c hc, powerMeasured_ch]
    · obtain ⟨share, aim⟩ := on c hc
      have stands : (unshared (powerMeasured m s)).ps.ch[c] = { s.ps.ch[c] with raw := rawPower s s.ps.ch[c], allowed := 0 } := by
        rw [unshared_ch, powerMeasured_ch]
      rw [powerMeasured_ch] at share
      refine ⟨share, ?_⟩
      have raw : v[c].raw = rawPower s s.ps.ch[c] := by rw [share]
      rw [aim, shareTarget, stands, raw]
      exact budgetRamp_aimed_congr _ rfl rfl (by rw [stands]) (by rw [stands]) (by rw [stands]) (by rw [stands])
  · intro total l h
    exact shares_fit h
  · intro a m k ha hm
    exact budgetTarget_covered k ha hm
  · intro c t s
    exact ⟨_, budgetRamp_eq c t s⟩
  · intro c g b s ha hn hb hm
    exact budgetRamp_moves ha hn hb hm
  · rintro c _ e i re weak _ s s1 s2 rfl hre rfl hw h1 h2 hp hy hn
    exact exec_pilotEstimate_taken hre hw h1 h2 hp hy hn
  · intro d e r h
    exact ohms_near h
  · intro c e i s h
    exact exec_pilotEstimate_idle h
  · intro c re s h
    exact coilTemp_referenced h
  · intro c re s h
    exact coilTemp_unreferenced h

end Sys2Proof.Machine

namespace Sys2Proof.Machine

/-! What the taking of a descriptor leaves of the power stage and the limit words. -/

@[simp] theorem takenState_ps (h : CmdHdr) (s : State) : (takenState h s).ps = s.ps := by rw [takenState_eq]

@[simp] theorem takenState_limits (h : CmdHdr) (s : State) : (takenState h s).limits = s.limits := by rw [takenState_eq]

/-! The power-stage commands as they are taken (R341, R346, R347, R351, R360–R362). -/

section PowerTaken

variable {h : CmdHdr} {tick : BitVec 64} {mask : Byte} {c : Fin 8} {s : State} {n : Nat} {late : Bool}

/-- The channel that a field of a command names. -/
theorem channel_eq {k : Nat} (hk : k = c.val) : (⟨k % 8, Nat.mod_lt _ (by decide)⟩ : Fin 8) = c :=
  Fin.ext ((Nat.mod_eq_of_lt (by omega)).trans hk)

theorem exec_psStart_held (ht : Taken h true s) (hn : schedule tick s = some (n, late)) (hm : mask ≠ 0) :
    exec (.psStart h tick mask) s =
      .next (settle (hold n (ticketOf h s) late (.psStart mask.toNat) (takenState h s))) := by
  simp only [exec, execPsStart, fin]
  rw [timedCmd_held ht (decide_eq_false hm) hn rfl]
  rfl

theorem exec_psStart_noChannel (ht : Taken h true s) :
    exec (.psStart h tick 0) s = .next (settle (complete (ticketOf h s) 4 0 (takenState h s))) := by
  simp only [exec, execPsStart, fin, decide_true]
  rw [timedCmd_bad ht.1 (.inr (.inl rfl))]
  rfl

theorem exec_psStop_held {ms : BitVec 16} (ht : Taken h true s) (hn : schedule tick s = some (n, late)) (hm : mask ≠ 0)
    (hr : ms.toNat ≤ 1000 ∨ ms.toNat = 0xFFFF) :
    exec (.psStop h tick mask ms) s = .next (settle (hold n (ticketOf h s) late
      (.psStop mask.toNat (if ms.toNat = 0xFFFF then 10 else ms.toNat)) (takenState h s))) := by
  have short : (if ms.toNat = 0xFFFF then 10 else ms.toNat) ≤ 1000 := by split <;> omega
  simp only [exec, execPsStop, fin]
  rw [timedCmd_held ht (Bool.or_eq_false_iff.mpr ⟨decide_eq_false hm, decide_eq_false short.not_gt⟩) hn rfl]
  rfl

theorem exec_psBudget_held {a : PsBudgetArgs} (ht : Taken h true s) (hn : schedule a.tick s = some (n, late))
    (hc : a.ch.toNat = c.val) (hw : a.watts.toNat ≤ 1250)
    (ha : (1 ≤ a.attack.toNat ∧ a.attack.toNat ≤ 1000) ∨ a.attack.toNat = 0xFFFF)
    (hr : (10 ≤ a.release.toNat ∧ a.release.toNat ≤ 10000) ∨ a.release.toNat = 0xFFFF) :
    exec (.psBudget h a) s = .next (settle (hold n (ticketOf h s) late (.psBudget c a.watts.toNat
      (if a.attack.toNat = 0xFFFF then 20 else a.attack.toNat)
      (if a.release.toNat = 0xFFFF then 500 else a.release.toNat)) (takenState h s))) := by
  have attack : 1 ≤ (if a.attack.toNat = 0xFFFF then 20 else a.attack.toNat) ∧
      (if a.attack.toNat = 0xFFFF then 20 else a.attack.toNat) ≤ 1000 := by split <;> omega
  have release : 10 ≤ (if a.release.toNat = 0xFFFF then 500 else a.release.toNat) ∧
      (if a.release.toNat = 0xFFFF then 500 else a.release.toNat) ≤ 10000 := by split <;> omega
  have channel : a.ch.toNat ≤ 7 := by omega
  simp only [exec, execPsBudget, fin, channel_eq hc]
  rw [timedCmd_held ht _ hn rfl]
  · rfl
  · simp only [Bool.or_eq_false_iff, decide_eq_false_iff_not]
    omega

theorem exec_psFreqSet_held {a : PsFreqArgs} (ht : Taken h true s) (hn : schedule a.tick s = some (n, late))
    (h1 : a.min.toNat ≤ a.pref.toNat) (h2 : a.pref.toNat ≤ a.max.toNat) (h3 : a.max.toNat ≤ 80) :
    exec (.psFreqSet h a) s = .next (settle (hold n (ticketOf h s) late
      (.psFreq a.pref.toNat a.min.toNat a.max.toNat) (takenState h s))) := by
  simp only [exec, execPsFreqSet, fin]
  rw [timedCmd_held ht (by simp [h1, h2, h3]) hn rfl]
  rfl

theorem exec_psQuery_taken {ch : Byte} {addr : BitVec 64} (ht : Taken h false s) (hc : ch.toNat = c.val)
    (ha : aligned8 addr = true) : exec (.psQuery h ch addr) s =
      .next (settle { takenState h s with ps := { s.ps with queries := s.ps.queries ++ [(ticketOf h s, c, addr)] } }) := by
  have channel : ch.toNat ≤ 7 := by omega
  simp only [exec, execPsQuery, fin, channel_eq hc]
  rw [untimedCmd_run ht (by simp [channel, ha]), psMod, takenState_ps]

end PowerTaken

/-! PS_MODEL (R352): what it makes of a channel's binding. -/

section Model

variable {h : CmdHdr} {a : PsModelArgs} {c : Fin 8} {n : Fin 16} {s : State}

/-- The machine in which a channel's binding has been replaced, with no look-ahead. -/
def rebound (c : Fin 8) (b : Option LimitBind) (h : CmdHdr) (s : State) : State :=
  { chMod c (fun x => { x with lookahead := 0 }) (takenState h s) with limits := vset s.limits c b }

/-- The eight words that a model names. -/
def modelWords (a : PsModelArgs) : List Nat := (List.range 8).map fun i => a.waddr.toNat + i

theorem forall_modelWords {p : Nat → Prop} (hp : ∀ i, i < 8 → p (a.waddr.toNat + i)) : ∀ w ∈ modelWords a, p w := by
  simpa [modelWords] using hp

/-- A word of a tile is bound, by a ramp unit or as the limit word of another channel. -/
def wordBound (s : State) (c : Fin 8) (n : Fin 16) (w : Nat) : Bool :=
  s.tiles[n].rampBound (spt s) none w || limitBound { s with limits := vset s.limits c none } n w

theorem exec_psModel_unbinds (ht : Taken h false s) (hc : a.ch.toNat = c.val) (hn : a.tile.toNat = 0xFF)
    (hl : a.lookahead = 0) (hw : a.waddr = 0) :
    exec (.psModel h a) s = .next (settle (complete (ticketOf h s) 0 0 (rebound c none h s))) := by
  have channel : a.ch.toNat ≤ 7 := by omega
  simp only [exec, execPsModel, fin, channel_eq hc]
  rw [untimedCmd_run ht (by simp [channel, hn, hl, hw]), if_pos hn, takenState_limits]
  rfl

/-- What a model of a tile does as it is taken: its words are bound, or it is refused. -/
theorem exec_psModel_tile (ht : Taken h false s) (hc : a.ch.toNat = c.val) (hn : a.tile.toNat = n.val)
    (hl : a.lookahead = 0) (hw : a.waddr.toNat % 8 = 0) :
    exec (.psModel h a) s = .next (settle (
      if (!((modelWords a).all s.tiles[n].isParam) || (modelWords a).any (wordBound s c n) || fenced s (.tile n)) = true then
        complete (ticketOf h s) 0x43 0 (takenState h s)
      else complete (ticketOf h s) 0 0 (rebound c (some { tile := n, waddr := a.waddr.toNat }) h s))) := by
  have channel : a.ch.toNat ≤ 7 := by omega
  have low : a.tile.toNat ≤ 15 := by omega
  have bound : a.tile.toNat ≠ 0xFF := by omega
  have tile : (⟨a.tile.toNat % 16, Nat.mod_lt _ (by decide)⟩ : Fin 16) = n := Fin.ext (by simp only [hn]; omega)
  simp only [exec, execPsModel, fin, channel_eq hc, tile]
  rw [untimedCmd_run ht (by simp [channel, low, hl, hw]), if_neg bound, takenState_limits, takenState_tiles, spt_takenState,
    fenced_takenState, hl]
  rfl

theorem exec_psModel_binds (ht : Taken h false s) (hc : a.ch.toNat = c.val) (hn : a.tile.toNat = n.val)
    (hl : a.lookahead = 0) (hw : a.waddr.toNat % 8 = 0) (hf : fenced s (.tile n) = false)
    (hi : ∀ i, i < 8 → s.tiles[n].isParam (a.waddr.toNat + i) = true ∧
      s.tiles[n].rampBound (spt s) none (a.waddr.toNat + i) = false ∧
      limitBound { s with limits := vset s.limits c none } n (a.waddr.toNat + i) = false) :
    exec (.psModel h a) s = .next (settle (complete (ticketOf h s) 0 0
      (rebound c (some { tile := n, waddr := a.waddr.toNat }) h s))) := by
  have params : (modelWords a).all s.tiles[n].isParam = true :=
    List.all_eq_true.mpr (forall_modelWords fun i h8 => (hi i h8).1)
  have unbound : (modelWords a).any (wordBound s c n) = false :=
    List.any_eq_false.mpr (forall_modelWords fun i h8 => by
      obtain ⟨-, ramp, limit⟩ := hi i h8
      rw [wordBound, ramp, limit]
      exact Bool.false_ne_true)
  rw [exec_psModel_tile ht hc hn hl hw, params, unbound, hf]
  rfl

theorem exec_psModel_fenced (ht : Taken h false s) (hc : a.ch.toNat < 8) (hn : a.tile.toNat = n.val)
    (hl : a.lookahead = 0) (hw : a.waddr.toNat % 8 = 0) (hf : fenced s (.tile n) = true) :
    exec (.psModel h a) s = .next (settle (complete (ticketOf h s) 0x43 0 (takenState h s))) := by
  rw [exec_psModel_tile (c := ⟨a.ch.toNat, hc⟩) ht rfl hn hl hw, if_pos (by rw [hf, Bool.or_true])]

end Model

/-- Settles O35: the timed commands come down to `timedCmd_held`, PS_MODEL to what it makes of the channel's binding. -/
theorem powerStageCommandsTaken : Obligations.PowerStageCommandsTaken := by
  unfold Obligations.PowerStageCommandsTaken
  refine ⟨?_, ?_, ?_, ?_, ?_, ?_, ?_, ?_, ?_⟩
  · intro h tick mask s n late ht hn hm
    exact exec_psStart_held ht hn hm
  · intro h tick s n late ht _
    exact exec_psStart_noChannel ht
  · intro h tick mask ms s n late ht hn hm hr
    exact exec_psStop_held ht hn hm hr
  · intro h a c s n late ht hn hc hw ha hr
    exact exec_psBudget_held ht hn hc hw ha hr
  · intro h a s n late ht hn h1 h2 h3
    exact exec_psFreqSet_held ht hn h1 h2 h3
  · intro h a c s ht hc hn hl hw
    exact exec_psModel_unbinds ht hc hn hl hw
  · intro h a c n s ht hc hn hl hw hf hi
    exact exec_psModel_binds ht hc hn hl hw hf hi
  · intro h a n s ht hc hn hl hw hf
    exact exec_psModel_fenced ht hc hn hl hw hf
  · intro h ch c addr s ht hc ha
    exact exec_psQuery_taken ht hc ha

end Sys2Proof.Machine

namespace Sys2Proof.Machine

/-! The start of a channel (R346). -/

section ChannelStart

variable {c : Fin 8} {s : State}

theorem groupMod_group (g : Fin 2) (f : PsGroup → PsGroup) (s : State) :
    (groupMod g f s).ps.group[g] = f s.ps.group[g] := vmod_get_self _ g f

/-- The lifting of a fence leaves the power stage as it is. -/
@[simp] theorem unfenceCh_ps (c : Fin 8) (s : State) : (unfenceCh c s).ps = s.ps := by
  unfold unfenceCh
  split
  · exact (outer_faultEvent _ _ _ _ (Outer.refl _)).ps
  · rfl

/-- A channel whose start has begun at a time. -/
def PsCh.begun (retry : Bool) (at_ : Nat) (x : PsCh) : PsCh :=
  { x with
    state := .starting, start := Lev.steady none, mute := if retry then x.mute else Lev.steady (some 0),
    fault := if retry then x.fault else 0, retry := retry, retryDue := false, retryWait := false, pause := .none, hw := none,
    startAt := at_ }

theorem startCh_ps (c : Fin 8) (retry : Bool) (s : State) : (startCh c retry s).ps =
    (groupMod (groupOf c) (fun g => { g with on := true }) (chMod c (PsCh.begun retry s.time.refTime) s)).ps := by
  simp only [startCh, groupMod, psMod_ps, unfenceCh_ps]
  rfl

theorem startCh_ch (c : Fin 8) (retry : Bool) (s : State) :
    (startCh c retry s).ps.ch[c] = PsCh.begun retry s.time.refTime s.ps.ch[c] := by
  rw [startCh_ps]
  exact chMod_ch c _ s

theorem startCh_off (c : Fin 8) (retry : Bool) (s : State) : AgreeOff c (startCh c retry s).ps.ch s.ps.ch := by
  rw [startCh_ps]
  exact agreeOff_vmod c _ _

theorem startCh_on (c : Fin 8) (retry : Bool) (s : State) : (startCh c retry s).ps.group[groupOf c].on = true := by
  rw [startCh_ps, groupMod_group]

theorem applyPsStart_one {t : Ticket} {m : Nat} (hm : maskUnits 8 m = [c]) (hs : startOne s c = none) {s1 : State}
    (h1 : s1 = startCh c false (chMod c (fun x => { x with vfs := vfsOf s c }) s)) :
    applyPsStart t m (fun _ => false) s =
      psMod (fun p => { p with waits := p.waits ++ [{ ticket := t, tick := now s1, results := [(c, none)] }] }) s1 := by
  subst h1
  simp only [applyPsStart, hm, List.map_cons, List.map_nil, Bool.false_eq_true, if_false, hs]
  rfl

/-- A channel that has stopped, with nothing of a start or a retry left. -/
def PsCh.halted (x : PsCh) : PsCh :=
  { x with state := .stopped, retry := false, retryDue := false, retryWait := false, pause := .none }

theorem exec_psStartTimeout_due
    (hs : s.ps.ch[c].state = .starting ∨ (s.ps.ch[c].state = .fault ∧ startAwaited s c = true))
    (hp : mayHavePassed s s.ps.ch[c].startAt (20 * psMs) = true) :
    exec (.psStartTimeout c) s = .next (settle (psComplete (psResult c 9 (chMod c PsCh.halted s)))) := if_pos ⟨hs, hp⟩

theorem exec_psStartTimeout_early (hp : mayHavePassed s s.ps.ch[c].startAt (20 * psMs) = false) :
    exec (.psStartTimeout c) s = .next s := if_neg fun h => ne_true_of_eq_false hp h.2

end ChannelStart

/-! The stop of a channel (R347). -/

section ChannelStop

variable {c : Fin 8} {ms : Nat} {s : State}

theorem stopOne_refused (hs : s.ps.ch[c].state = .stopped ∨ s.ps.ch[c].state = .latched) : stopOne ms c s = (0x40, s) := by
  rcases hs with hs | hs <;> simp only [stopOne, hs]

theorem stopOne_running (hs : s.ps.ch[c].state = .running) : stopOne ms c s = (0, chMod c (fun x =>
    { x with
      state := if rampSamples (fs s) (spt s) ms = 0 then .stopped else .stopping, start := x.start.freeze,
      mute := x.mute.ramp none (rampSamples (fs s) (spt s) ms), retry := false }) s) := by
  simp only [stopOne, hs]
  rfl

theorem stopOne_starting (hs : s.ps.ch[c].state = .starting) :
    stopOne ms c s = (0, psResult c 7 (chMod c (fun x => { x with state := .stopped, retry := false }) s)) := by
  simp only [stopOne, hs]
  rfl

theorem stopOne_fault (hs : s.ps.ch[c].state = .fault) :
    stopOne ms c s = (0, psResult c 7 (chMod c PsCh.halted s)) := by
  simp only [stopOne, hs]
  rfl

end ChannelStop

/-! The switching frequency (R341). -/

section Frequency

/-- In a list whose elements stand in a strict order, the first that satisfies a predicate is the least. -/
theorem find?_eq_some_of_pairwise {α : Type} {R : α → α → Prop} {p : α → Bool} {k : α} {l : List α} (hl : l.Pairwise R)
    (hk : k ∈ l) (hp : p k = true) (hm : ∀ j ∈ l, p j = true → ¬ R j k) : l.find? p = some k := by
  induction l with
  | nil => exact absurd hk List.not_mem_nil
  | cons x l ih =>
    rw [List.pairwise_cons] at hl
    rcases List.mem_cons.mp hk with rfl | hk
    · exact List.find?_cons_of_pos hp
    · rw [List.find?_cons_of_neg fun hx => hm x List.mem_cons_self hx (hl.1 k hk)]
      exact ih hl.2 hk fun j hj => hm j (List.mem_cons_of_mem x hj)

/-- A code stands nearer to the preferred one, or as near and below it. -/
def Nearer (pref i j : Nat) : Prop :=
  ((i : Int) - pref).natAbs < ((j : Int) - pref).natAbs ∨ (((i : Int) - pref).natAbs = ((j : Int) - pref).natAbs ∧ i < j)

/-- The codes at a distance from the preferred one, as `codeOrder` lists them. -/
theorem mem_codes_at {pref lo hi d k : Nat} :
    k ∈ (if d ≤ pref ∧ lo ≤ pref - d then [pref - d] else []) ++ (if d ≠ 0 ∧ pref + d ≤ hi then [pref + d] else []) ↔
      (k + d = pref ∧ lo ≤ k) ∨ (d ≠ 0 ∧ k = pref + d ∧ k ≤ hi) := by
  rw [List.mem_append]
  split <;> split <;> simp <;> omega

theorem mem_codeOrder {pref lo hi k : Nat} (hp : pref ≤ 80) (hhi : hi ≤ 80) :
    k ∈ codeOrder pref lo hi ↔ (k ≤ pref ∧ lo ≤ k) ∨ (pref < k ∧ k ≤ hi) := by
  simp only [codeOrder, List.mem_flatMap, mem_codes_at, List.mem_range]
  refine ⟨fun ⟨d, _, h⟩ => by omega, fun h => ⟨((k : Int) - pref).natAbs, by omega, by omega⟩⟩

/-- The codes are listed by their distance, ties to the lower. -/
theorem pairwise_codeOrder (pref lo hi : Nat) : (codeOrder pref lo hi).Pairwise (Nearer pref) := by
  refine List.pairwise_flatMap.mpr ⟨fun d _ => ?_, List.pairwise_lt_range.imp fun hd x hx y hy => ?_⟩
  · split <;> split <;> simp [Nearer]
    omega
  · rw [mem_codes_at] at hx hy
    unfold Nearer
    omega

theorem applyPsFreq_nearest {pref lo hi k : Nat} {s : State} (h1 : lo ≤ pref) (h2 : pref ≤ hi) (h3 : hi ≤ 80) (h4 : lo ≤ k)
    (h5 : k ≤ hi) (hm : 20 ≤ margin s k) (hj : ∀ j, lo ≤ j → j ≤ hi → 20 ≤ margin s j →
      ((k : Int) - pref).natAbs < ((j : Int) - pref).natAbs ∨
        (((k : Int) - pref).natAbs = ((j : Int) - pref).natAbs ∧ k ≤ j)) :
    applyPsFreq pref lo hi s = (0, k + margin s k * 65536, psMod (fun p => { p with code := k }) s) := by
  have inRange (j : Nat) : j ∈ codeOrder pref lo hi ↔ lo ≤ j ∧ j ≤ hi := by
    rw [mem_codeOrder (by omega) h3]
    omega
  have pick : (codeOrder pref lo hi).find? (fun j => decide (20 ≤ margin s j)) = some k := by
    refine find?_eq_some_of_pairwise (pairwise_codeOrder pref lo hi) ((inRange k).mpr ⟨h4, h5⟩) (decide_eq_true hm) fun j hl hp => ?_
    obtain ⟨above, below⟩ := (inRange j).mp hl
    have farther := hj j above below (of_decide_eq_true hp)
    unfold Nearer
    omega
  simp only [applyPsFreq, pick]
  rfl

end Frequency

/-! The converters and the rails (R33, R347). -/

section Converters

variable {g : Fin 2} {s : State}

theorem exec_converterStop_due (ho : (groupChs g).all (fun c => s.ps.ch[c].off) = true)
    (hp : mayHavePassed s s.ps.group[g].onAt (50 * psMs) = true) : exec (.converterStop g) s =
      .next (groupMod g (fun x => { x with on := false, ready := false, up := false, target := 0 }) s) := if_pos ⟨ho, hp⟩

theorem exec_converterStop_early (hp : mayHavePassed s s.ps.group[g].onAt (50 * psMs) = false) :
    exec (.converterStop g) s = .next s := if_neg fun h => ne_true_of_eq_false hp h.2

theorem exec_directTrackingResume_due (hd : directFed s g = false)
    (hp : mayHavePassed s s.ps.group[g].directAt (50 * psMs) = true) :
    exec (.directTrackingResume g) s = .next (groupMod g (fun x => { x with direct := false }) s) :=
  if_neg (not_or.mpr ⟨ne_true_of_eq_false hd, ne_false_of_eq_true hp⟩)

theorem exec_directTrackingResume_early (hp : mayHavePassed s s.ps.group[g].directAt (50 * psMs) = false) :
    exec (.directTrackingResume g) s = .next s := if_pos (.inr hp)

end Converters

/-! The modulator (R336, R339). -/

section Modulator

theorem exec_pstageTickStep_unlocked {s : State} (hl : s.clock.plls[(4 : Fin 6)].locked = false) (ht : timeRuns s = true) :
    exec .pstageTickStep s = .next (settle (endMutes ((fins 8).foldl (fun s c => playCh none s c) s))) :=
  if_neg (not_or.mpr ⟨ne_true_of_eq_false hl, by simp [ht]⟩)

theorem playCh_silent (b : Option Blk) {c : Fin 8} {s : State} (hy : s.ps.ch[c].playing = false) :
    playCh b s c = chMod c (fun x => { x with out := [], drive := [] }) s :=
  if_pos (by rw [hy]; rfl)

theorem dutyA_rail (x : Int) (vfs : Nat) {rail : Nat} (hr : 0 < rail) :
    dutyA x vfs rail = 2 ^ 31 + 10 * x * (vfs : Int) / (rail : Int) := if_neg hr.ne'

theorem duties_clamped (d : Int) :
    (duties d).2 = 2 ^ 32 - (duties d).1 ∧ 100 * (duties d).1 ≤ 98 * 2 ^ 32 ∧ 2 * 2 ^ 32 < 100 * (duties d).1 + 100 ∧
      (dutyOut d = false → (duties d).1 = d) := by
  simp only [duties, dutyOut, Bool.or_eq_false_iff, decide_eq_false_iff_not]
  refine ⟨trivial, by omega, by omega, fun ⟨low, high⟩ => by omega⟩

end Modulator

/-- Settles O36: one equation per outcome of a start, a stop and each event; the frequency is the first of `codeOrder` with margin,
which lists the codes by their distance. -/
theorem channelsStartPlayAndStop : Obligations.ChannelsStartPlayAndStop := by
  unfold Obligations.ChannelsStartPlayAndStop
  refine ⟨?_, ?_, ?_, ?_, ?_, ?_, ?_, ?_, ?_, ?_, ?_, ?_, ?_, ?_, ?_, ?_, playCh_silent, dutyA_rail, duties_clamped⟩
  · intro c s
    rfl
  · intro t c m s hm hs
    exact ⟨_, rfl, applyPsStart_one hm hs rfl⟩
  · intro c s
    exact ⟨by rw [startCh_ch, PsCh.begun], startCh_on c false s, by rw [startCh_ch, PsCh.begun], startCh_off c false s⟩
  · intro c s hs hp
    exact exec_psStartTimeout_due (.inl hs) hp
  · intro c s hs ha hp
    exact exec_psStartTimeout_due (.inr ⟨hs, ha⟩) hp
  · intro ms c s hs
    exact stopOne_refused hs
  · intro ms c s hs
    exact stopOne_running hs
  · intro ms c s hs
    exact stopOne_starting hs
  · intro ms c s hs
    exact stopOne_fault hs
  · intro pref lo hi k s h1 h2 h3 h4 h5 hm hj
    exact applyPsFreq_nearest h1 h2 h3 h4 h5 hm hj
  · intro g s ho hp
    exact exec_converterStop_due ho hp
  · intro g s hd hp
    exact exec_directTrackingResume_due hd hp
  · intro g s hp
    exact exec_converterStop_early hp
  · intro g s hp
    exact exec_directTrackingResume_early hp
  · intro c s hp
    exact exec_psStartTimeout_early hp
  · intro s hl ht
    exact exec_pstageTickStep_unlocked hl ht

end Sys2Proof.Machine

namespace Sys2Proof.Machine

/-! Trips, shorts, DC and hot junctions (R355, R356, R358). -/

section Faulted

variable {c : Fin 8} {s : State}

theorem exec_ilimTrip_playing (hy : s.ps.ch[c].playing = true) :
    exec (.ilimTrip c) s = .next (bump (Reg.psChIlimCount c) 1 s) := if_pos hy

theorem exec_shortCircuit_playing {k : ShortClass} (hy : s.ps.ch[c].playing = true) :
    exec (.shortCircuit c k) s = .next (settle (faultCh c (shortCode k) Src.psShort 8 s)) := if_pos hy

theorem exec_psDc_playing (hy : s.ps.ch[c].playing = true) :
    exec (.psDc c) s = .next (settle (faultCh c 4 Src.psDc 9 s)) := if_pos hy

theorem exec_psDieTemp (c : Fin 8) (s : State) : exec (.psDieTemp c) s = .next (settle (chMod c (fun x => { x with hot := true })
    (if s.ps.ch[c].off then raise Src.psDieTemp c 5 (sticky Reg.psErrStat 7 s) else faultCh c 5 Src.psDieTemp 7 s))) := rfl

/-- A channel whose fault has been recorded. -/
def PsCh.faulted (code at_ : Nat) (x : PsCh) : PsCh :=
  { x with
    state := .fault, fault := code, faultTick := at_, hw := none, retry := false, retryDue := false, retryWait := false,
    pause := .none, start := x.start.freeze }

/-- A fault of a channel is recorded, flagged and raised, and where the Sump latches it the channel is LATCHED. -/
theorem faultCh_raised {code src bit : Nat} {u : State}
    (hu : u = raise src c code (sticky Reg.psErrStat bit (chMod c (PsCh.faulted code (now s)) s))) :
    faultCh c code src bit s =
      if (sumpInst u src c).state = .latched then chMod c (fun x => { x with state := .latched }) u else u := by
  subst hu
  rfl

end Faulted

/-! The retry of a channel in FAULT (R357, R358). -/

section Retries

variable {c : Fin 8} {s : State}

section Quiet

variable (hs : s.ps.ch[c].state = .fault) (hp : s.ps.ch[c].pause = .none)
  (ha : (sumpInst s (faultSource s.ps.ch[c].fault) c).state ≠ .active)
include hs hp ha

/-- After the quiet period of its fault a channel retries, or waits until its junction has cooled. -/
theorem exec_psRetry_quiet : exec (.psRetry c) s = .next (chMod c (fun x =>
    if x.hot = true ∧ x.fault = 5 then { x with retryWait := true } else { x with retryDue := true }) s) := if_pos ⟨hs, hp, ha⟩

theorem exec_psRetry_due (hh : ¬ (s.ps.ch[c].hot = true ∧ s.ps.ch[c].fault = 5)) :
    exec (.psRetry c) s = .next (chMod c (fun x => { x with retryDue := true }) s) :=
  (exec_psRetry_quiet hs hp ha).trans (congrArg _ (chMod_congr (if_neg hh)))

theorem exec_psRetry_hot (hh : s.ps.ch[c].hot = true ∧ s.ps.ch[c].fault = 5) :
    exec (.psRetry c) s = .next (chMod c (fun x => { x with retryWait := true }) s) :=
  (exec_psRetry_quiet hs hp ha).trans (congrArg _ (chMod_congr (if_pos hh)))

end Quiet

theorem exec_dieTempRecover (c : Fin 8) (s : State) : exec (.dieTempRecover c) s = .next (chMod c (fun x =>
    { x with hot := false, retryDue := x.retryDue || x.retryWait, retryWait := false }) s) := rfl

end Retries

/-! The supplies (R344, R345, R358). -/

section Supplies

variable {g : Fin 2} {s : State}

theorem exec_psRailOv (g : Fin 2) (s : State) : exec (.psRailOv g) s =
    .next (settle (raise Src.psRailOv g 0 (sticky Reg.psErrStat 3 ((groupChs g).foldl (muteCh .fault .railOv) s)))) := rfl

theorem exec_clampIdleRestart (g : Fin 2) (s : State) :
    exec (.clampIdleRestart g) s = .next (settle (restart .railOv (groupChs g) s)) := rfl

theorem exec_pvinRestored (s : State) : exec .pvinRestored s = .next (settle (restart .pvinLow (fins 8) s)) := rfl

theorem restart_waiting {p : PsPause} {c : Fin 8} (hs : s.ps.ch[c].state = .fault) (hp : s.ps.ch[c].pause = p) :
    restart p [c] s = startCh c false s := if_pos ⟨hs, hp⟩

/-- A converter that does not run. -/
def PsGroup.stopped (x : PsGroup) : PsGroup := { x with on := false, ready := false, up := false, target := 0 }

/-- A low supply mutes every channel and stops both converters. -/
theorem exec_psPvinLow (s : State) : exec .psPvinLow s = .next (settle (raise Src.psPvinLow 0 0 (sticky Reg.psErrStat 2
    { muteAll .fault .pvinLow s with ps := { (muteAll .fault .pvinLow s).ps with
      group := vmap PsGroup.stopped (muteAll .fault .pvinLow s).ps.group } }))) := rfl

theorem exec_psRailSag_on {s1 : State} (hg : s.ps.group[g].on = true)
    (h1 : s1 = raise Src.psRailSag g 0 (sticky Reg.psErrStat 4 (groupMod g (fun x => { x with sag := x.sag + 1 }) s))) :
    exec (.psRailSag g) s = .next (settle (((groupChs g).filter fun c => decide (s1.ps.ch[c].state = .running)).foldl (fun s c =>
      budgetRamp c (budgetTarget s.ps.ch[c].allowed s.ps.ch[c].raw s.ps.group[g].sag) s) s1)) := by
  subst h1
  exact if_neg (by rw [hg]; exact Bool.false_ne_true)

end Supplies

/-- Settles O38: one equation per event, and `faultCh_raised` for what the faults of a channel share. -/
theorem powerStageProtected : Obligations.PowerStageProtected := by
  unfold Obligations.PowerStageProtected
  refine ⟨?_, ?_, ?_, ?_, ?_, ?_, ?_, ?_, exec_dieTempRecover, exec_psRailOv, exec_clampIdleRestart, ?_, exec_pvinRestored, ?_, ?_⟩
  · intro c s hy
    exact exec_ilimTrip_playing hy
  · intro c k s hy
    rw [exec_shortCircuit_playing hy]
    cases k <;> rfl
  · intro c s hy
    exact exec_psDc_playing hy
  · intro c s ho
    rw [exec_psDieTemp, ho, if_neg Bool.false_ne_true]
  · intro c s ho
    rw [exec_psDieTemp, if_pos ho]
  · intro c code src bit s u hu
    exact faultCh_raised hu
  · intro c s hs hp hf ha
    exact exec_psRetry_due hs hp (by rw [hf]; exact ha) fun h => by rw [hf] at h; exact absurd h.2 (by decide)
  · intro c s hs hp hf ha hh
    exact exec_psRetry_hot hs hp (by rw [hf]; exact ha) ⟨hh, hf⟩
  · intro s
    refine ⟨_, exec_psPvinLow s, fun g => ?_⟩
    rw [vmap_get]
    exact ⟨rfl, rfl, rfl⟩
  · intro p c s hs hp
    exact restart_waiting hs hp
  · intro g s s1 hg h1
    exact exec_psRailSag_on hg h1

end Sys2Proof.Machine

namespace Sys2Proof.Machine

/-! What a reset makes of a commit (R492), and of the registers (R528). -/

section Reset

variable {cold : Bool} {cause : ResetCause} {s : State} {off : Nat}

/-- Cutting a commit short changes the flash and the free-value counter, and keeps the rollback counter. -/
theorem cutCommit_eq (s : State) : ∃ (f : Flash) (k : Nat), cutCommit s = { s with flash := f, free := k } ∧
    f.commit = none ∧ f.minSvn = s.flash.minSvn := by
  unfold cutCommit
  split
  · next h => exact ⟨s.flash, s.free, rfl, h, rfl⟩
  · dsimp only
    split
    · split
      · exact ⟨_, _, rfl, rfl, rfl⟩
      · exact ⟨_, _, rfl, rfl, rfl⟩
    · exact ⟨_, _, rfl, rfl, rfl⟩

theorem cutCommit_idle (h : s.flash.commit = none) : cutCommit s = s := by
  simp only [cutCommit, h]

/-- A key that a filtered table drops is not in it. -/
theorem mapGet_filter_dropped {α : Type} {p : Nat × α → Bool} {k : Nat} (hk : ∀ v, p (k, v) = false) (m : List (Nat × α)) :
    mapGet (m.filter p) k = none := by
  induction m with
  | nil => rfl
  | cons e m ih =>
    rw [List.filter_cons]
    split
    · next he =>
      have other : k ≠ e.1 := by
        rintro rfl
        exact Bool.false_ne_true ((hk e.2).symm.trans he)
      rw [mapGet, if_neg other, ih]
    · exact ih

theorem mapGet_moduleRegs (s : State) (h1 : off ≠ Reg.glbRev) (h2 : off ≠ Reg.glbEuiLo) (h3 : off ≠ Reg.glbEuiHi) :
    mapGet (moduleRegs s) off = none :=
  mapGet_filter_dropped (fun _ => by simp [h1, h2, h3]) s.regs

/-- Every register but the module data and the media rate is at its reset value after a reset. -/
theorem regGet_resetTo (cold : Bool) (cause : ResetCause) (s : State) (h0 : off ≠ Reg.glbMediaRate) (h1 : off ≠ Reg.glbRev)
    (h2 : off ≠ Reg.glbEuiLo) (h3 : off ≠ Reg.glbEuiHi) : regGet (resetTo cold cause s) off = regReset off := by
  obtain ⟨v, hv⟩ : ∃ v, (resetTo cold cause s).regs =
      (regSet Reg.glbMediaRate v { s with regs := moduleRegs (cutCommit s) }).regs := ⟨_, rfl⟩
  have written : regGet (resetTo cold cause s) off =
      regGet (regSet Reg.glbMediaRate v { s with regs := moduleRegs (cutCommit s) }) off := by
    rw [regGet, regGet, hv]
  rw [written, regGet_regSet_ne v _ h0, regGet, mapGet_moduleRegs _ h1 h2 h3]
  rfl

end Reset

/-! The cold resets (R479, R482, R498, R513). -/

section Cold

variable {compat pvinAbsent : Bool} {s : State}

theorem exec_powerOn_cooled {cause : ResetCause} (hh : s.power.tooHot = false)
    (hc : (if pvinAbsent ∨ s.power.state ≠ .off then ResetCause.powerOn else s.power.cause) = cause) :
    exec (.powerOn compat pvinAbsent) s = .next { resetTo true cause s with
      power := { (resetTo true cause s).power with state := .running, compat := compat, unpowered := false } } := by
  subst hc
  exact if_neg (by simp [hh])

theorem exec_powerOn_hot (hh : s.power.tooHot = true) :
    exec (.powerOn compat pvinAbsent) s = .next { s with power := { s.power with unpowered := false } } := if_pos hh

/-- A fault that the next boot is to raise is on its list. -/
theorem mem_bootFault (src inst : Nat) (s : State) : (src, inst) ∈ (bootFault src inst s).power.bootFaults := by
  show (src, inst) ∈ if s.power.bootFaults.any (· = (src, inst)) then _ else _
  split
  · next h => simpa using h
  · simp

theorem resetTo_cause (cold : Bool) (c : ResetCause) (s : State) : (resetTo cold c s).power.cause = strongest s c := by
  obtain ⟨f, k, cut, -⟩ := cutCommit_eq s
  rw [resetTo, cut]
  rfl

/-- A module that a brown-out holds off, with its fault noted for the next boot. -/
def brownedOut (s : State) : State := bootFault Src.resetBrownout 0 (coldOff .brownOut s)

theorem exec_brownOut (s : State) :
    exec .brownOut s = .next (powerMod (fun p => { p with unpowered := true }) (brownedOut s)) := rfl

theorem exec_overTemperature (s : State) :
    exec .overTemperature s = .next (powerMod (fun p => { p with tooHot := true }) (brownedOut s)) := rfl

theorem brownedOut_power (s : State) : (brownedOut s).power.state = .off ∧
    (brownedOut s).power.cause = strongest s .brownOut ∧ (Src.resetBrownout, 0) ∈ (brownedOut s).power.bootFaults :=
  ⟨rfl, resetTo_cause true .brownOut s, mem_bootFault _ _ _⟩

theorem exec_overTemperatureRecover_cooled (hh : s.power.tooHot = true) (hs : s.power.state = .off)
    (hu : s.power.unpowered = false) :
    exec (.overTemperatureRecover compat) s = .next { resetTo true .brownOut s with
      power := { (resetTo true .brownOut s).power with state := .running, compat := compat, tooHot := false } } :=
  if_pos ⟨hh, hs, hu⟩

theorem exec_overTemperatureRecover_still (h : s.power.tooHot = false ∨ s.power.state ≠ .off ∨ s.power.unpowered = true) :
    exec (.overTemperatureRecover compat) s = .next { s with power := { s.power with tooHot := false } } :=
  if_neg fun ⟨hot, off, powered⟩ => by simp [hot, off, powered] at h

end Cold

/-! The warm resets (R359, R484, R486, R529). -/

section Warm

variable {cause : ResetCause} {s : State}

theorem exec_warmWrite_open {path : AccessPath} {v : Word} (hp : path ≠ .mb0) (ho : regsOpen s = true) :
    exec (.warmWrite path v) s =
      .next (settle (if flag v 0 ∧ fld v 15 8 = 0xA5 then requestWarm .warmRequest s else s)) := by
  have row : (regRow Reg.glbReset).isSome = true := by decide
  simp only [exec, execWarmWrite, writeCmd, fin, busWrite_open hp ho]
  rw [regWrite_lowWrite row (by decide) (by decide) rfl]
  rfl

theorem requestWarm_merged (h : s.power.warmAsked.isSome = true) : requestWarm cause s = s := if_pos h

/-- The first request starts the mute ramps and notes its cause. -/
theorem requestWarm_first (h : s.power.warmAsked = none) : requestWarm cause s = powerMod
    (fun p => { p with warmAsked := some cause, warmAt := s.time.refTime }) (muteAll .stopped .none s) :=
  if_neg (by simp [h])

/-- A requested warm reset takes hold where every channel is off or its time is over. -/
theorem exec_warmReset_asked (h : s.power.warmAsked = some cause) : exec .warmReset s =
    if (fins 8).all (fun c => s.ps.ch[c].off) = true ∨ mayHavePassed s s.power.warmAt (refSecond * 12 / 1000) = true then
      .next (resetTo false cause s)
    else .next s := by
  simp only [exec, execWarmReset, h]

theorem exec_warmReset_due (h : s.power.warmAsked = some cause) (hd : (∀ x : Fin 8, s.ps.ch[x].off = true) ∨
    mayHavePassed s s.power.warmAt (refSecond * 12 / 1000) = true) :
    exec .warmReset s = .next (resetTo false cause s) := by
  rw [exec_warmReset_asked h, if_pos (hd.imp_left fun off => List.all_eq_true.mpr fun x _ => off x)]

theorem exec_warmReset_unasked (h : s.power.warmAsked = none) : exec .warmReset s = .next s := by
  simp only [exec, execWarmReset, h]

theorem exec_warmReset_early {x : Fin 8} (hx : s.ps.ch[x].off = false)
    (hp : mayHavePassed s s.power.warmAt (refSecond * 12 / 1000) = false) : exec .warmReset s = .next s := by
  have sounding : ¬ (fins 8).all (fun c => s.ps.ch[c].off) = true := fun all => by
    have off := List.all_eq_true.mp all x (List.mem_finRange x)
    exact Bool.false_ne_true (hx.symm.trans off)
  cases h : s.power.warmAsked with
  | none => exact exec_warmReset_unasked h
  | some cause => rw [exec_warmReset_asked h, if_neg (not_or.mpr ⟨sounding, ne_true_of_eq_false hp⟩)]

theorem exec_watchdog_running (hs : s.power.state ≠ .off) (hr : s.power.stage = .hostReady) :
    exec .watchdog s = .next (requestWarm .watchdog (bootFault Src.resetWatchdog 0 s)) := by
  simp only [exec, execWatchdog, if_neg hs, if_pos hr]

theorem resetTo_watchdogs (cold : Bool) (c : ResetCause) (s : State) :
    (resetTo cold c s).power.watchdogs = s.power.watchdogs := by
  obtain ⟨f, k, cut, -⟩ := cutCommit_eq s
  rw [resetTo, cut]

/-- Before HOST_READY the watchdog resets at once, and its second in a row marks the chosen slot. -/
theorem exec_watchdog_booting {u : State} (hs : s.power.state ≠ .off) (hr : s.power.stage ≠ .hostReady)
    (hu : u = resetTo false .watchdog (bootFault Src.resetWatchdog 0 s)) : exec .watchdog s =
      .next (if s.power.watchdogs = 0 then { u with power := { u.power with watchdogs := 1 } }
        else markChosen { u with power := { u.power with watchdogs := s.power.watchdogs + 1 } }) := by
  have count : u.power.watchdogs = s.power.watchdogs := by
    rw [hu, resetTo_watchdogs]
    rfl
  simp only [exec, execWatchdog, if_neg hs, if_neg hr, ← hu, powerMod, count]
  by_cases first : s.power.watchdogs = 0
  · rw [if_pos first, if_neg (by omega), first]
  · rw [if_neg first, if_pos (by omega)]

end Warm

/-- Settles O53: what a reset leaves goes through `cutCommit_eq`, the registers through the table that keeps the module data alone,
and each reset event has an equation per outcome. -/
theorem resetsTakeHold : Obligations.ResetsTakeHold := by
  unfold Obligations.ResetsTakeHold
  refine ⟨?_, ?_, ?_, ?_, ?_, ?_, fun _ => rfl, ?_, ?_, ?_, ?_, ?_, ?_, ?_, ?_, ?_, ?_, ?_, ?_⟩
  · intro cold c s off h0 h1 h2 h3
    exact regGet_resetTo cold c s h0 h1 h2 h3
  · rintro cold c s _ rfl
    obtain ⟨f, k, cut, idle, svn⟩ := cutCommit_eq s
    rw [resetTo, cut]
    exact ⟨rfl, rfl, rfl, rfl, rfl, rfl, rfl, rfl, rfl, rfl, rfl, rfl, rfl, rfl, idle, rfl, rfl, rfl, svn, rfl, rfl⟩
  · intro s h
    refine ⟨?_, fun _ => rfl, fun _ => ?_⟩
    · rw [resetTo, cutCommit_idle h]
    · rw [resetTo, cutCommit_idle h]
      exact ⟨rfl, rfl⟩
  · intro c p s hh hp
    exact exec_powerOn_cooled hh (if_pos hp)
  · intro c s hh hs
    exact exec_powerOn_cooled hh (if_neg (by simp [hs]))
  · intro c p s hh
    exact exec_powerOn_hot hh
  · intro s
    obtain ⟨off, cause, noted⟩ := brownedOut_power s
    exact ⟨_, exec_brownOut s, off, rfl, cause, noted, rfl⟩
  · intro s
    obtain ⟨off, cause, noted⟩ := brownedOut_power s
    exact ⟨_, exec_overTemperature s, off, rfl, cause, noted, rfl⟩
  · intro c s hh hs hu
    exact exec_overTemperatureRecover_cooled hh hs hu
  · intro c s h
    exact exec_overTemperatureRecover_still h
  · intro path v s hp ho
    exact exec_warmWrite_open hp ho
  · intro c s
    refine ⟨requestWarm_merged, fun h => ?_⟩
    rw [requestWarm_first h]
    exact ⟨rfl, rfl⟩
  · intro c s h ho
    exact exec_warmReset_due h (.inl ho)
  · intro c s h hp
    exact exec_warmReset_due h (.inr hp)
  · intro x s hx hp
    exact exec_warmReset_early hx hp
  · intro s h
    exact exec_warmReset_unasked h
  · intro s hs hr
    exact exec_watchdog_running hs hr
  · intro s u hs hr hu
    exact exec_watchdog_booting hs hr hu

end Sys2Proof.Machine

namespace Sys2Proof.Machine

/-! One step, and the run it starts (R371, R376, R410): the frame of every command (`kept_exec`) is the frame of every step. -/

section Steps

variable {c : Instr} {rest : List Instr} {s : State}

theorem step_cons (h : s.pending = c :: rest) : step s = exec c { s with pending := rest } := by
  rw [step, h]

theorem step_nil (h : s.pending = []) : step s = .next s := by
  rw [step, h]

/-- Every step goes on, serves the front of the queue and keeps the memories canonical. -/
theorem step_kept (h : MemoryInv s) : KeptOut s.pending.tail (step s) := by
  obtain ⟨hl, ht, hs⟩ := h
  cases q : s.pending with
  | nil => exact ⟨s, step_nil q, q, hl, ht, hs⟩
  | cons c rest =>
    rw [step_cons q]
    exact kept_exec c _ ⟨rfl, hl, ht, hs⟩

theorem Kept.memoryInv {p : List Instr} (h : Kept p s) : MemoryInv s := h.2

/-- The state after one step; every step from canonical memories goes on (`step_stepNext`). -/
def stepNext (s : State) : State := afterOf (step s) s

theorem step_stepNext (h : MemoryInv s) : step s = .next (stepNext s) ∧ Kept s.pending.tail (stepNext s) := by
  obtain ⟨t, ht, kept⟩ := step_kept h
  rw [stepNext, ht]
  exact ⟨rfl, kept⟩

/-- After `i` steps the first `i` waiting commands have left the queue. -/
theorem iterate_stepNext_kept (h : MemoryInv s) (i : Nat) : Kept (s.pending.drop i) (stepNext^[i] s) := by
  induction i with
  | zero => exact ⟨rfl, h⟩
  | succ i ih =>
    have next := (step_stepNext ih.memoryInv).2
    rwa [ih.1, List.tail_drop, ← Function.iterate_succ_apply' stepNext] at next

end Steps

/-- Settles O59: `step_kept` for the outcome at hand. -/
theorem everyStepKeepsTheMemoriesAndTheQueue : Obligations.EveryStepKeepsTheMemoriesAndTheQueue := by
  unfold Obligations.EveryStepKeepsTheMemoriesAndTheQueue
  intro s t h hs
  obtain ⟨u, hu, kept⟩ := step_kept h
  obtain rfl : u = t := by simpa [hu] using hs
  exact ⟨kept.memoryInv, kept.1⟩

/-- Settles O60: the run is the iteration of `stepNext`, whose queue is the rest of the first one. -/
theorem everyRunGoesOnAndServesTheQueueInOrder : Obligations.EveryRunGoesOnAndServesTheQueueInOrder := by
  unfold Obligations.EveryRunGoesOnAndServesTheQueueInOrder
  intro s h
  refine ⟨fun i => stepNext^[i] s, rfl, fun i => ?_⟩
  have kept := iterate_stepNext_kept h i
  have goesOn : step (stepNext^[i] s) = .next (stepNext^[i + 1] s) := by
    rw [Function.iterate_succ_apply']
    exact (step_stepNext kept.memoryInv).1
  refine ⟨goesOn, kept.1, kept.memoryInv, fun c hc => ?_, fun hi => ?_⟩
  · obtain ⟨hi, rfl⟩ := List.getElem?_eq_some_iff.mp hc
    rw [← step_cons (kept.1.trans (List.drop_eq_getElem_cons hi))]
    exact goesOn
  · have idle := step_nil (kept.1.trans (List.drop_eq_nil_of_le hi))
    rw [goesOn] at idle
    simpa using idle

/-- Settles O1: the front of the queue is the one case of `step` that runs a command. -/
theorem stepRunsFrontCommand : Obligations.StepRunsFrontCommand := by
  unfold Obligations.StepRunsFrontCommand
  intro c rest s h
  exact step_cons h

/-- Settles O2: an empty queue is the other case of `step`. -/
theorem emptyQueueIdles : Obligations.EmptyQueueIdles := by
  unfold Obligations.EmptyQueueIdles
  intro s h
  exact step_nil h

/-! Reserved offsets (R524), and the captured tick number (R531). -/

section RegisterAccess

variable {path : AccessPath} {off : Nat} {s : State}

theorem busRead_open (h : regsOpen s = true) : busRead path s off = regView path s off := if_pos h

theorem ne_of_regRow_none {o : Nat} (h : regRow off = none) (ho : (regRow o).isSome = true) : off ≠ o := by
  rintro rfl
  rw [h] at ho
  exact Bool.false_ne_true ho

theorem busRead_reserved (h : regRow off = none) : busRead path s off = 0 := by
  have notBoot : off ≠ Reg.bootStat := ne_of_regRow_none h (by decide)
  unfold busRead
  split
  · simp [regView, h]
  · simp [notBoot]

theorem afterRead_of_ne (h : off ≠ Reg.glbTickLo) : afterRead path off s = s := if_neg fun x => h x.2

theorem regWrite_reserved {mode : Word → State → State} {v : Word} (h : regRow off = none) :
    regWrite mode path off v s = s := by
  simp only [regWrite, h]

theorem busWrite_reserved {v : Word} (h : regRow off = none) : busWrite path off v s = s := by
  unfold busWrite pathWrite
  split
  · rfl
  · exact regWrite_reserved h

/-- A register below 0x1_0000 that shows state held elsewhere reads what it shows. -/
theorem regView_lowView {v : Word} (hr : (regRow off).isSome = true) (ho : off < 0x10000)
    (hv : lowView path s off = some v) : regView path s off = v := by
  obtain ⟨r, hr⟩ := Option.isSome_iff_exists.mp hr
  simp [regView, hr, ho, hv]

theorem busRead_tickLo (h : regsOpen s = true) : busRead path s Reg.glbTickLo = BitVec.ofNat 32 (now s) := by
  rw [busRead_open h, regView_lowView (by decide) (by decide) rfl]

theorem busRead_tickHi (h : regsOpen s = true) : busRead path s Reg.glbTickHi = capturedHi s path := by
  rw [busRead_open h, regView_lowView (by decide) (by decide) rfl]

theorem exec_glbTickLoRead_open (h : regsOpen s = true) : exec (.glbTickLoRead path) s = .next (captureTick path s) := by
  simp only [exec, execGlbTickLoRead, afterRead, h, and_self, if_true]

/-- A capture is the tick number's high half on its own path, and the other paths keep theirs. -/
theorem capturedHi_captureTick (path q : AccessPath) (s : State) :
    capturedHi (captureTick path s) q = if q = path then BitVec.ofNat 32 (now s / 2 ^ 32) else capturedHi s q := by
  cases path <;> cases q <;> rfl

end RegisterAccess

/-- Settles O45: a reserved offset has no row, which the read, the capture and the write all ask for first. -/
theorem reservedOffsetsReadZeroIgnoreWrites : Obligations.ReservedOffsetsReadZeroIgnoreWrites := by
  unfold Obligations.ReservedOffsetsReadZeroIgnoreWrites
  refine ⟨?_, ?_, ?_⟩
  · intro path off s h
    exact busRead_reserved h
  · intro path off s h
    exact afterRead_of_ne (ne_of_regRow_none h (by decide))
  · intro path off v s hs h
    simp only [exec, execRegisterWrite, writeCmd, fin, busWrite_reserved h, settle_eq hs]

/-- Settles O46: the read leaves `captureTick`, which writes the capture of its own path alone. -/
theorem tickReadThroughItsCapture : Obligations.TickReadThroughItsCapture := by
  unfold Obligations.TickReadThroughItsCapture
  refine ⟨?_, ?_, ?_⟩
  · intro path s h
    exact busRead_tickLo h
  · intro path s h
    have stillOpen : regsOpen (captureTick path s) = true := by cases path <;> exact h
    refine ⟨captureTick path s, exec_glbTickLoRead_open h, ?_, fun q hq => ?_, ?_⟩
    · rw [busRead_tickHi stillOpen, capturedHi_captureTick, if_pos rfl]
    · rw [busRead_tickHi stillOpen, busRead_tickHi h, capturedHi_captureTick, if_neg hq]
    · cases path <;> exact ⟨rfl, rfl, rfl, rfl, rfl, rfl⟩
  · intro path s h
    exact busRead_tickHi h

end Sys2Proof.Machine

namespace Sys2Proof.Machine

/-! The check-value units (R420–R425): their registers as they are written and read, and what a feed leaves in them. -/

section CheckValues

variable {path : AccessPath} {u : Fin 8} {v : Word} {s : State} {off : Nat}

theorem lowWrite_crc {mode : Word → State → State} (hlo : 0x7000 ≤ off) (hhi : off < 0x7200) :
    lowWrite mode off v s = crcWrite (off - 0x7000) v s := by
  unfold lowWrite
  split
  case h_12 => exact if_pos ⟨hlo, hhi⟩
  all_goals omega

/-- A write of a unit's register at place `k` that does more than store has that effect. -/
theorem busWrite_crc {k : Nat} {t : State} (hp : path ≠ .mb0) (ho : regsOpen s = true) (hoff : off = 0x7000 + k + 0x40 * u.val)
    (hk : k < 0x40) (hr : (regRow off).isSome = true) (hw : crcWrite (k + 0x40 * u.val) v s = some t) :
    busWrite path off v s = t := by
  have hu := u.isLt
  have notDma : off ≠ Reg.dmaErrStat := by
    have : Reg.dmaErrStat < 0x7000 := by decide
    omega
  have place : off - 0x7000 = k + 0x40 * u.val := by omega
  rw [busWrite_open hp ho, regWrite_lowWrite hr (by omega) notDma]
  rw [lowWrite_crc (by omega) (by omega), place, hw]

theorem regRow_crc : ∀ u : Fin 8, (regRow (Reg.crcCtrl u)).isSome = true ∧ (regRow (Reg.crcDataB u)).isSome = true ∧
    (regRow (Reg.crcDataH u)).isSome = true ∧ (regRow (Reg.crcDataW u)).isSome = true := by decide

theorem crcPlace {u k : Nat} (hk : k < 0x40) : (k + 0x40 * u) / 0x40 = u ∧ (k + 0x40 * u) % 0x40 = k := by omega

theorem exec_crcStart_open (hp : path ≠ .mb0) (ho : regsOpen s = true) (hu : u.val < 4) (hv : flag v 0 = true) :
    exec (.crcStart path u v) s = .next (settle (crcStart u s)) := by
  obtain ⟨unit, place⟩ := crcPlace (u := u.val) (k := 0x14) (by decide)
  have effect : crcWrite (0x14 + 0x40 * u.val) v s = some (crcStart u s) := by
    simp only [crcWrite, unit, place, if_neg (Nat.not_le.mpr hu), hv, if_true]
  exact congrArg fin (busWrite_crc hp ho rfl (by decide) (regRow_crc u).1 effect)

/-- A write to one of the three feed registers takes as many bytes as the register is wide. -/
theorem crcWrite_feed {k n : Nat} (hk : k = 0x28 ∧ n = 1 ∨ k = 0x2C ∧ n = 2 ∨ k = 0x30 ∧ n = 4) (hu : u.val < 4) :
    crcWrite (k + 0x40 * u.val) v s = some (crcFeedUnit u (leBytes n v.toNat) s) := by
  obtain ⟨unit, place⟩ := crcPlace (u := u.val) (k := k) (by omega)
  rcases hk with ⟨rfl, rfl⟩ | ⟨rfl, rfl⟩ | ⟨rfl, rfl⟩ <;>
    simp only [crcWrite, unit, place, if_neg (Nat.not_le.mpr hu)]

theorem exec_crcData_open (hp : path ≠ .mb0) (ho : regsOpen s = true) (hu : u.val < 4) :
    exec (.crcDataB path u v) s = .next (settle (crcFeedUnit u (leBytes 1 v.toNat) s)) ∧
    exec (.crcDataH path u v) s = .next (settle (crcFeedUnit u (leBytes 2 v.toNat) s)) ∧
    exec (.crcDataW path u v) s = .next (settle (crcFeedUnit u (leBytes 4 v.toNat) s)) := by
  obtain ⟨-, dataB, dataH, dataW⟩ := regRow_crc u
  exact ⟨congrArg fin (busWrite_crc hp ho rfl (by decide) dataB (crcWrite_feed (.inl ⟨rfl, rfl⟩) hu)),
    congrArg fin (busWrite_crc hp ho rfl (by decide) dataH (crcWrite_feed (.inr (.inl ⟨rfl, rfl⟩)) hu)),
    congrArg fin (busWrite_crc hp ho rfl (by decide) dataW (crcWrite_feed (.inr (.inr ⟨rfl, rfl⟩)) hu))⟩

/-- A write to a unit that the CH4096 itself feeds changes nothing, on any path. -/
theorem busWrite_crcOwn {k : Nat} (hoff : off = 0x7000 + k + 0x40 * u.val) (hk : k < 0x40) (hu : 4 ≤ u.val)
    (hr : (regRow off).isSome = true) : busWrite path off v s = s := by
  by_cases closed : path = .mb0 ∨ (!regsOpen s) = true
  · exact if_pos closed
  · obtain ⟨hp, ho⟩ := not_or.mp closed
    have own : 4 ≤ (k + 0x40 * u.val) / 0x40 := by omega
    exact busWrite_crc hp (by simpa using ho) hoff hk hr (if_pos own)

theorem exec_crc_own (hu : 4 ≤ u.val) :
    exec (.crcStart path u v) s = .next (settle s) ∧ exec (.crcDataB path u v) s = .next (settle s) ∧
    exec (.crcDataH path u v) s = .next (settle s) ∧ exec (.crcDataW path u v) s = .next (settle s) := by
  obtain ⟨ctrl, dataB, dataH, dataW⟩ := regRow_crc u
  exact ⟨congrArg fin (busWrite_crcOwn (k := 0x14) rfl (by decide) hu ctrl),
    congrArg fin (busWrite_crcOwn (k := 0x28) rfl (by decide) hu dataB),
    congrArg fin (busWrite_crcOwn (k := 0x2C) rfl (by decide) hu dataH),
    congrArg fin (busWrite_crcOwn (k := 0x30) rfl (by decide) hu dataW)⟩

theorem crcWidth_le (s : State) (u : Nat) : crcWidth s u ≤ 64 := by
  have code : regFld s (Reg.crcCfg u) 1 0 < 4 := Nat.mod_lt _ (by decide)
  have power : 2 ^ regFld s (Reg.crcCfg u) 1 0 ≤ 2 ^ 3 := Nat.pow_le_pow_right (by decide) (by omega)
  rw [crcWidth]
  omega

/-- A value written into a pair of registers reads back, modulo 2^64. -/
theorem regPair_regSet {lo hi : Nat} (y : Nat) (s : State) (h : lo ≠ hi) :
    regPair (regSet hi (BitVec.ofNat 32 (y / 2 ^ 32)) (regSet lo (BitVec.ofNat 32 y) s)) lo hi = y % 2 ^ 64 := by
  rw [regPair, regGet_regSet_ne _ _ h, regGet_regSet_self, regGet_regSet_self, BitVec.toNat_ofNat, BitVec.toNat_ofNat]
  omega

theorem crcValueLo_ne_hi (u : Nat) : Reg.crcValueLo u ≠ Reg.crcValueHi u := by
  simp only [Reg.crcValueLo, Reg.crcValueHi]; omega

theorem crcCount_ne_value (u : Nat) : Reg.crcCount u ≠ Reg.crcValueLo u ∧ Reg.crcCount u ≠ Reg.crcValueHi u := by
  simp only [Reg.crcCount, Reg.crcValueLo, Reg.crcValueHi]; omega

/-- The low W bits of VALUE are those of the value loaded. -/
theorem regPair_setCrcValue (u x : Nat) (s : State) :
    regPair (setCrcValue u x s) (Reg.crcValueLo u) (Reg.crcValueHi u) % 2 ^ crcWidth s u = x % 2 ^ crcWidth s u := by
  have fits : 2 ^ crcWidth s u ∣ 2 ^ 64 := pow_dvd_pow 2 (crcWidth_le s u)
  rw [setCrcValue]
  rw [regPair_regSet _ _ (crcValueLo_ne_hi u), Nat.mod_mod_of_dvd _ fits, Nat.mul_add_mod', Nat.mod_mod]

theorem regGet_bump_self (off n : Nat) (s : State) :
    regGet (bump off n s) off = BitVec.ofNat 32 (satN 32 ((regGet s off).toNat + n)) := regGet_regSet_self _ _ _

theorem regGet_bump_ne {o : Nat} (n : Nat) (s : State) (h : off ≠ o) : regGet (bump o n s) off = regGet s off :=
  regGet_regSet_ne _ _ h

theorem regGet_setCrcValue_ne (u x : Nat) (s : State) (hl : off ≠ Reg.crcValueLo u) (hh : off ≠ Reg.crcValueHi u) :
    regGet (setCrcValue u x s) off = regGet s off := by
  rw [setCrcValue]
  rw [regGet_regSet_ne _ _ hh, regGet_regSet_ne _ _ hl]

/-- What a feed leaves in VALUE and COUNT (R421). -/
theorem crcFeedUnit_value_count {u w x : Nat} {bytes : List Byte} (hw : w = crcWidth s u)
    (hx : x = crcFeedAll w (regPair s (Reg.crcPolyLo u) (Reg.crcPolyHi u)) (regBit s (Reg.crcCfg u) 2)
      (regPair s (Reg.crcValueLo u) (Reg.crcValueHi u)) bytes) :
    regPair (crcFeedUnit u bytes s) (Reg.crcValueLo u) (Reg.crcValueHi u) % 2 ^ w = x % 2 ^ w ∧
      regGet (crcFeedUnit u bytes s) (Reg.crcCount u) =
        BitVec.ofNat 32 (min (2 ^ 32 - 1) ((regGet s (Reg.crcCount u)).toNat + bytes.length)) := by
  obtain ⟨notLo, notHi⟩ := crcCount_ne_value u
  have fed : crcFeedUnit u bytes s = bump (Reg.crcCount u) bytes.length (setCrcValue u x s) := by
    rw [crcFeedUnit, hx, hw]
  rw [fed, hw]
  constructor
  · rw [regPair, regGet_bump_ne _ _ notLo.symm, regGet_bump_ne _ _ notHi.symm]
    exact regPair_setCrcValue u x s
  · rw [regGet_bump_self, regGet_setCrcValue_ne _ _ _ notLo notHi, satN_eq_min]

theorem crcFeed_unreflected {w poly x : Nat} {b : Byte} (hw : 8 < w) (hx : x < 2 ^ w) :
    crcFeed w poly false x b = crcShift w poly 8 (Nat.xor x (b.toNat * 2 ^ (w - 8))) := by
  have wide : w ≠ 8 := by omega
  simp only [crcFeed, if_neg wide, Nat.mod_eq_of_lt hx, Bool.false_eq_true, if_false]

/-- One shift: the bit that leaves the register is its highest one. -/
theorem crcShift_step {w poly k x : Nat} (hw : 0 < w) (hx : x < 2 ^ w) :
    crcShift w poly (k + 1) x = crcShift w poly k
      (if x / 2 ^ (w - 1) = 1 then Nat.xor (x * 2 % 2 ^ w) (poly % 2 ^ w) else x * 2 % 2 ^ w) := by
  have double : 2 ^ w = 2 * 2 ^ (w - 1) := by rw [← Nat.pow_succ', Nat.succ_eq_add_one, Nat.sub_add_cancel hw]
  have top : x / 2 ^ (w - 1) < 2 := Nat.div_lt_of_lt_mul (by rwa [Nat.mul_comm, ← double])
  rw [crcShift, Nat.mod_eq_of_lt top]

theorem lowView_crc (hlo : 0x7000 ≤ off) (hhi : off < 0x7200) : lowView path s off = none := by
  unfold lowView
  split
  case h_39 => rfl
  all_goals omega

theorem busRead_crcResultLo (ho : regsOpen s = true) (hu : u.val < 4) :
    busRead path s (Reg.crcResultLo u) = BitVec.ofNat 32 (crcResultOf s u) := by
  have row : ∀ u : Fin 8, (regRow (Reg.crcResultLo u)).isSome = true := by decide
  obtain ⟨r, hr⟩ := Option.isSome_iff_exists.mp (row u)
  obtain ⟨off, hoff⟩ : ∃ off, off = Reg.crcResultLo u := ⟨_, rfl⟩
  have at_ : off = 0x7020 + 0x40 * u.val := hoff
  have notRef : ¬ (0x2048 ≤ off ∧ off < 0x20C0) := by omega
  have unit : (off - 0x7000) / 0x40 = u.val := by omega
  have place : (off - 0x7000) % 0x40 = 0x20 := by omega
  have low : off < 0x10000 := by omega
  have array : lowArray s off = some (BitVec.ofNat 32 (crcResultOf s u)) := by
    rw [lowArray, if_neg notRef, if_pos ⟨by omega, by omega⟩, crcRead]
    simp only [unit, place]
  rw [← hoff] at hr ⊢
  rw [busRead_open ho, regView]
  simp only [hr, Option.isNone_some, Bool.false_eq_true, if_false, if_pos low,
    lowView_crc (path := path) (s := s) (by omega : 0x7000 ≤ off) (by omega), array, Option.orElse_none, Option.getD_some]

end CheckValues

/-- Settles O48: a write goes to `crcWrite`, a feed leaves its value in the low W bits of VALUE, and RESULT is read through
`crcRead`. -/
theorem checkValueUnitsFed : Obligations.CheckValueUnitsFed := by
  unfold Obligations.CheckValueUnitsFed
  refine ⟨?_, ?_, ?_, ?_, ?_, ?_, ?_⟩
  · intro path u v s hp ho hu hv
    exact exec_crcStart_open hp ho hu hv
  · intro path u v s hp ho hu
    exact exec_crcData_open hp ho hu
  · intro path u v s hu
    exact exec_crc_own hu
  · rintro u bytes s _ w v hw hv rfl
    exact crcFeedUnit_value_count hw hv
  · rintro w poly v b hw - hv bb rfl
    exact crcFeed_unreflected hw hv
  · intro w poly k v hw hv
    exact crcShift_step hw hv
  · intro path u s ho hu
    exact busRead_crcResultLo ho hu

/-! The debug window (R418, R419, R532). -/

section DebugWindow

variable {path : AccessPath} {v : Word} {s : State} {a : DbgAccess}

/-- The access that a write of TEST_DBG_CTRL starts. -/
def dbgStarted (path : AccessPath) (v : Word) (s : State) : DbgAccess :=
  let addr := (regGet s Reg.testDbgAddrLo).toNat + fld (regGet s Reg.testDbgAddrHi) 1 0 * 2 ^ 32
  { allowed := regionAllows s addr (!flag v 0), write := !flag v 0, path := path, addr := addr, data := regGet s Reg.testDbgData }

theorem writeDbgCtrl_starts (hp : path = .bar0 ∨ path = .tunnelReg) (hl : locked s = false) (hd : s.test.dbg = none)
    (hv : fld v 1 0 ≠ 0) :
    writeDbgCtrl path v s = { s with test := { s.test with dbg := some (dbgStarted path v s) } } := by
  refine if_neg ?_
  rcases hp with rfl | rfl <;> simp [hl, hd, hv]

theorem busWrite_testDbgCtrl (hp : path ≠ .mb0) (ho : regsOpen s = true) :
    busWrite path Reg.testDbgCtrl v s = writeDbgCtrl path v s := by
  rw [busWrite_open hp ho]
  exact regWrite_highWrite (by decide) (by decide) rfl

/-- The response to a window access that no target word spoils: the regions' answer as they stood, then the matrix's. -/
def dbgResp (a : DbgAccess) (s : State) : Resp :=
  if a.allowed then targetResp s (if a.path = .bar0 then 0 else 1) a.addr 4 a.write else .deny

theorem exec_testDbgDone_write (hd : s.test.dbg = some a) (hr : dbgResp a s = .okay) (hw : a.write = true) :
    exec (.testDbgDone false) s = .next (settle (devWrite setMode a.path a.addr (leBytes 4 a.data.toNat) (endWindow .okay s))) := by
  rw [dbgResp, hw] at hr
  simp only [exec, execTestDbgDone, hd, Master.pcieIn, Master.tunnel, hr, hw, Bool.false_eq_true, and_false, if_false, if_true, fin]

theorem exec_testDbgDone_read (hd : s.test.dbg = some a) (hr : dbgResp a s = .okay) (hw : a.write = false) :
    exec (.testDbgDone false) s = .next (settle (regSet Reg.testDbgData
      (BitVec.ofNat 32 (ofLe (devRead a.path a.addr 4 (endWindow .okay s)).1)) (devRead a.path a.addr 4 (endWindow .okay s)).2)) := by
  rw [dbgResp, hw] at hr
  simp only [exec, execTestDbgDone, hd, Master.pcieIn, Master.tunnel, hr, hw, Bool.false_eq_true, and_false, if_false, if_true, fin]

theorem exec_testDbgDone_error {e : Bool} {r : Resp} (hd : s.test.dbg = some a) (hr : r = dbgResp a s) (hn : r ≠ .okay)
    (hw : a.write = false) :
    exec (.testDbgDone e) s = .next (settle (regSet Reg.testDbgData 0
      (matrixError r (if a.path = .bar0 then 0 else 1) false a.addr (endWindow r s)))) := by
  rw [dbgResp, hw] at hr
  simp only [exec, execTestDbgDone, hd, Master.pcieIn, Master.tunnel, ← hr, hn, hw, false_and, Bool.false_eq_true, if_false, fin]

end DebugWindow

/-- Settles O49: a write of TEST_DBG_CTRL is `writeDbgCtrl`, and the end of the access goes by the response. -/
theorem debugWindowAccess : Obligations.DebugWindowAccess := by
  unfold Obligations.DebugWindowAccess
  refine ⟨?_, ?_, ?_, ?_⟩
  · intro path v s hp ho hl hd hv
    have served : path ≠ .mb0 := by rcases hp with rfl | rfl <;> simp
    have starts : fin (busWrite path Reg.testDbgCtrl v s) =
        .next (settle { s with test := { s.test with dbg := some (dbgStarted path v s) } }) := by
      rw [busWrite_testDbgCtrl served ho, writeDbgCtrl_starts hp hl hd hv, fin]
    exact ⟨dbgStarted path v s, starts, starts, rfl, rfl, rfl, rfl, rfl⟩
  · rintro a s _ hd ha hr hw rfl
    exact exec_testDbgDone_write hd ((if_pos ha).trans hr) hw
  · rintro a s _ hd ha hr hw rfl
    exact exec_testDbgDone_read hd ((if_pos ha).trans hr) hw
  · rintro a e r s _ hd hr hn hw rfl
    exact exec_testDbgDone_error hd hr hn hw

end Sys2Proof.Machine

namespace Sys2Proof.Machine

/-! What taking a descriptor leaves as it is: the fields the control tunnel and the chapters after it read. -/

section TakenFields

variable (h : CmdHdr) (s : State)

@[simp] theorem takenState_tun : (takenState h s).tun = s.tun := by rw [takenState_eq]
@[simp] theorem takenState_wear : (takenState h s).wear = s.wear := by rw [takenState_eq]
@[simp] theorem takenState_sump : (takenState h s).sump = s.sump := by rw [takenState_eq]
@[simp] theorem takenState_flash : (takenState h s).flash = s.flash := by rw [takenState_eq]
@[simp] theorem takenState_power : (takenState h s).power = s.power := by rw [takenState_eq]
@[simp] theorem regGet_takenState (off : Nat) : regGet (takenState h s) off = regGet s off := by rw [takenState_eq]; rfl

end TakenFields

/-! The server's side of the tunnel (R387, R390, R391): its bridge entries, and a request served or answered. -/

section TunnelServer

variable {h : CmdHdr} {s : State} {n : Fin 16} {c : Cell} {b : Bridge} {t : Ticket} {target : BitVec 12}

/-- Withdrawing does nothing where no claim of the target waits for its answer. -/
theorem withdrawClaim_none (hb : (bridgeOf s target).bind (fun b => b.claim) = none) : withdrawClaim target s = s := by
  rw [withdrawClaim, hb]

theorem exec_tunnelClaim_run {a : TunnelClaimArgs} (ht : Taken h false s) (ha : claimBad a = false)
    (hb : bridgeOf (takenState h s) a.target = none) (hroom : s.tun.bridges.length < 1024) :
    exec (.tunnelClaim h a) s = .next (settle (sendRouted 0x55 a.target a.hops.toNat a.route
      ([a.gen, 0, 0, 0] ++ leBytes 8 (ownEui (takenState h s)).toNat ++ leBytes 8 a.hca.toNat) (setBridge a.target
      { hops := a.hops.toNat, gen := a.gen, winPages := a.winPages.toNat, route := a.route, hca := a.hca, winBase := a.winBase,
        xidNext := 0, executed := false, err := none, claim := some (ticketOf h s), claimAt := now s } (takenState h s)))) := by
  have room : ¬ 1024 ≤ s.tun.bridges.length := Nat.not_le.mpr hroom
  have noClaim : (bridgeOf (takenState h s) a.target).bind (fun b => b.claim) = none := by rw [hb]; rfl
  simp only [exec, execTunnelClaim, untimedCmd_run ht ha, takenState_tun, room, and_false, if_false, withdrawClaim_none noClaim,
    now_takenState, fin]

theorem exec_tunnelClaim_full {a : TunnelClaimArgs} (ht : Taken h false s) (ha : claimBad a = false)
    (hb : bridgeOf (takenState h s) a.target = none) (hfull : 1024 ≤ s.tun.bridges.length) :
    exec (.tunnelClaim h a) s = .next (settle (complete (ticketOf h s) 0x61 0 (takenState h s))) := by
  simp only [exec, execTunnelClaim, untimedCmd_run ht ha, hb, takenState_tun, hfull, Option.isNone_none, and_self, if_true, fin]

theorem exec_tunClaimAck_claimed (hd : Delivered n c s) (hb : bridgeOf s c.src = some b) (hc : b.claim = some t)
    (hg : bodyN c 0x14 1 = b.gen.toNat) :
    exec (.tunClaimAck n c) s = .next (settle (complete t (bodyN c 0x15 1) 0 (setBridge c.src { b with claim := none } s))) := by
  simp only [exec, execTunClaimAck, receiveCell_delivered hd, claimAcked, hb, hc, hg, if_true, fin]

theorem exec_tunnelClaimTimeout_due (hb : bridgeOf s target = some b) (hc : b.claim = some t) (hn : b.claimAt + 16 ≤ now s) :
    exec (.tunnelClaimTimeout target) s = .next (settle (complete t 9 0 (dropBridge target s))) := by
  simp only [exec, execTunnelClaimTimeout, hb, hc, hn, if_true, fin]; rfl

theorem exec_tunnelClaimTimeout_early (hb : ∀ b, bridgeOf s target = some b → b.claim = none ∨ now s < b.claimAt + 16) :
    exec (.tunnelClaimTimeout target) s = .next s := by
  simp only [exec, execTunnelClaimTimeout]
  cases hx : bridgeOf s target with
  | none => rfl
  | some b =>
    cases hc : b.claim with
    | none => simp only [hc]
    | some t =>
      have early : now s < b.claimAt + 16 := (hb b hx).resolve_left (by simp [hc])
      simp only [hc, if_neg (Nat.not_le.mpr early)]

variable {xid gen : Nat} {run : Bridge → State → Bridge × State}

theorem serveReq_inOrder (hb : bridgeOf s c.src = some b) (hx : xid = b.xidNext.toNat) (hg : gen = b.gen.toNat) :
    serveReq c xid gen run s =
      setBridge c.src { (run b s).1 with xidNext := b.xidNext + 1, executed := true } (run b s).2 := by
  simp only [serveReq, hb, hx, hg, and_self, if_true]

theorem serveReq_outOfOrder (hb : bridgeOf s c.src = some b) (ho : xid ≠ b.xidNext.toNat ∨ gen ≠ b.gen.toNat) :
    serveReq c xid gen run s = sendAck c.src b s := by
  have other : ¬ (xid = b.xidNext.toNat ∧ gen = b.gen.toNat) := by tauto
  simp only [serveReq, hb, other, if_false]

theorem exec_tunWrite_inOrder (hd : Delivered n c s) (hb : bridgeOf s c.src = some b) (hx : bodyN c 0x1E 2 = b.xidNext.toNat)
    (hg : bodyN c 0x1D 1 = b.gen.toNat)
    (hw : inWindowOf b (bodyN c 0x14 8) ((c.body.drop 12).take (min 28 (bodyN c 0x1C 1))).length = true) :
    exec (.tunWrite n c) s = .next (settle (setBridge c.src { b with xidNext := b.xidNext + 1, executed := true }
      { s with localMem := memWrite s.localMem (bodyN c 0x14 8) ((c.body.drop 12).take (min 28 (bodyN c 0x1C 1))) })) := by
  simp only [exec, execTunWrite, receiveCell_delivered hd, serveReq_inOrder hb hx hg, serveWrite, hw, if_true, fin]

theorem exec_tunWrite_outOfOrder (hd : Delivered n c s) (hb : bridgeOf s c.src = some b)
    (ho : bodyN c 0x1E 2 ≠ b.xidNext.toNat ∨ bodyN c 0x1D 1 ≠ b.gen.toNat) :
    exec (.tunWrite n c) s = .next (settle (sendAck c.src b s)) := by
  simp only [exec, execTunWrite, receiveCell_delivered hd, serveReq_outOfOrder hb ho, fin]

theorem exec_tunRead_inOrder (hd : Delivered n c s) (hb : bridgeOf s c.src = some b) (hx : bodyN c 0x1E 2 = b.xidNext.toNat)
    (hg : bodyN c 0x20 1 = b.gen.toNat) (hw : inWindowOf b (bodyN c 0x14 8) (min 4096 (bodyN c 0x1C 2)) = true) :
    exec (.tunRead n c) s = .next (settle (setBridge c.src { b with xidNext := b.xidNext + 1, executed := true }
      ((dataCells (bodyN c 0x1E 2) b.gen (memRead s.localMem (bodyN c 0x14 8) (min 4096 (bodyN c 0x1C 2)))).foldl
        (fun s x => sendRouted 0x52 c.src b.hops b.route x s) s))) := by
  simp only [exec, execTunRead, receiveCell_delivered hd, serveReq_inOrder hb hx hg, serveRead, hw, if_true, fin]

theorem exec_tunIrq_inOrder (hd : Delivered n c s) (hb : bridgeOf s c.src = some b) (hx : bodyN c 0x16 2 = b.xidNext.toNat)
    (hg : bodyN c 0x15 1 = b.gen.toNat) :
    exec (.tunIrq n c) s = .next (settle (setBridge c.src { b with xidNext := b.xidNext + 1, executed := true }
      (msixRaise (bodyN c 0x14 1 % 64) s))) := by
  simp only [exec, execTunIrq, receiveCell_delivered hd, serveReq_inOrder hb hx hg, fin]

theorem exec_tunYield_bridged (hd : Delivered n c s) (hb : bridgeOf s c.src = some b) (hc : b.claim = none) :
    exec (.tunYield n c) s = .next (settle (report 0x0F12 0 (leBytes 2 (bodyN c 0x16 2 % 4096) ++ leBytes 1 (bodyN c 0x14 1))
      (dropBridge c.src s))) := by
  have noClaim : (bridgeOf s c.src).bind (fun b => b.claim) = none := by rw [hb]; exact hc
  simp only [exec, execTunYield, receiveCell_delivered hd, withdrawClaim_none noClaim, hb, Option.isNone_some, Bool.false_eq_true,
    if_false, fin]

theorem exec_tunnelDrop_bridged (ht : Taken h false s) (hb : bridgeOf (takenState h s) target = some b) (hc : b.claim = none) :
    exec (.tunnelDrop h target) s = .next (settle (complete (ticketOf h s) 0 0 (dropBridge target (takenState h s)))) := by
  have noClaim : (bridgeOf (takenState h s) target).bind (fun b => b.claim) = none := by rw [hb]; exact hc
  simp only [exec, execTunnelDrop, untimedCmd_run ht rfl, withdrawClaim_none noClaim, hb, Option.isNone_some, Bool.false_eq_true,
    if_false, fin]
  rfl

theorem exec_tunnelDrop_none (ht : Taken h false s) (hb : bridgeOf (takenState h s) target = none) :
    exec (.tunnelDrop h target) s = .next (settle (complete (ticketOf h s) 0x62 0 (takenState h s))) := by
  simp only [exec, execTunnelDrop, untimedCmd_run ht rfl, hb, Option.isNone_none, if_true, fin]

theorem exec_tunnelReg_sent {a : TunnelRegArgs} {w : TunRegWait} (ht : Taken h false s)
    (ha : regSpanOk a.count.toNat a.offset.toNat = true) (hb : bridgeOf (takenState h s) a.target = some b)
    (hr : a.write = true ∨ dmaHalted (takenState h s) = false)
    (hw : w = { ticket := ticketOf h s, target := a.target, rseq := s.tun.rseq, write := a.write, count := a.count.toNat,
                resultAddr := a.resultAddr, sent := now s }) :
    exec (.tunnelReg h a) s = .next (settle (sendRouted 0x59 a.target b.hops b.route
      ([b.gen, (if a.write then 1 else 0), a.count, s.tun.rseq] ++ leBytes 4 a.offset.toNat ++
        (if a.write then (a.data.take a.count.toNat).flatMap fun x => leBytes 4 x.toNat else []))
      { (takenState h s) with tun := { s.tun with rseq := s.tun.rseq + 1, regWaits := s.tun.regWaits ++ [w] } })) := by
  have served : (!a.write && dmaHalted (takenState h s)) = false := by
    rcases hr with hr | hr <;> simp [hr]
  have code : BitVec.ofNat 8 (b2n a.write) = if a.write then 1 else 0 := by cases a.write <;> rfl
  subst hw
  simp only [exec, execTunnelReg, untimedCmd_run ht (congrArg (!·) ha), hb, served, Bool.false_eq_true, if_false, code, tunMod,
    takenState_tun, now_takenState, fin]

variable {w : TunRegWait}

theorem exec_tunRegResp_done (hd : Delivered n c s) (hb : bridgeOf s c.src = some b)
    (hw : regWaitOf s c.src (bodyN c 0x17 1) = some w) (hg : bodyN c 0x14 1 = b.gen.toNat) (hwr : w.write = true) :
    exec (.tunRegResp n c) s = .next (settle (complete w.ticket (bodyN c 0x15 1) 0 (dropRegWait w s))) := by
  simp only [exec, execTunRegResp, receiveCell_delivered hd, regAnswered, hb, hw, hg, hwr, ne_eq, not_true_eq_false, true_or,
    if_true, if_false, fin]

theorem exec_tunRegResp_read (hd : Delivered n c s) (hb : bridgeOf s c.src = some b)
    (hw : regWaitOf s c.src (bodyN c 0x17 1) = some w) (hg : bodyN c 0x14 1 = b.gen.toNat) (hrd : w.write = false)
    (hok : bodyN c 0x15 1 = 0) :
    exec (.tunRegResp n c) s =
      .next (settle (resultThen w.ticket w.resultAddr.toNat ((c.body.drop 8).take (4 * w.count)) 0 (dropRegWait w s))) := by
  simp only [exec, execTunRegResp, receiveCell_delivered hd, regAnswered, hb, hw, hg, hrd, hok, ne_eq, not_true_eq_false, or_self,
    Bool.false_eq_true, if_false, fin]
  rfl

theorem exec_tunnelRegTimeout_due {q : Byte} (hw : regWaitOf s target q.toNat = some w) (hn : w.sent + 16 ≤ now s) :
    exec (.tunnelRegTimeout target q) s = .next (settle (complete w.ticket 9 0 (dropRegWait w s))) := by
  simp only [exec, execTunnelRegTimeout, hw, hn, if_true, fin]; rfl

theorem exec_tunnelRegTimeout_early {q : Byte} (hw : ∀ w, regWaitOf s target q.toNat = some w → now s < w.sent + 16) :
    exec (.tunnelRegTimeout target q) s = .next s := by
  simp only [exec, execTunnelRegTimeout]
  cases hx : regWaitOf s target q.toNat with
  | none => rfl
  | some w => exact if_neg (Nat.not_le.mpr (hw w hx))

theorem exec_remoteWakeWrite_bridged {v : Word} (hb : bridgeOf s (BitVec.ofNat 12 v.toNat) = some b) (hp : s.power.state = .running) :
    exec (.remoteWakeWrite v) s = .next (settle (sendRouted 0x57 (BitVec.ofNat 12 v.toNat) b.hops b.route [b.gen] s)) := by
  simp only [exec, execRemoteWakeWrite, hb, hp, if_true, fin]

end TunnelServer

/-- Settles O42: each command and cell of the server by the case of its bridge entry. -/
theorem tunnelServerBridgesItsTargets : Obligations.TunnelServerBridgesItsTargets := by
  unfold Obligations.TunnelServerBridgesItsTargets
  exact ⟨fun _ _ _ => exec_tunnelClaim_run, fun _ _ _ => exec_tunnelClaim_full, fun _ _ _ _ _ => exec_tunClaimAck_claimed,
    fun _ _ _ _ => exec_tunnelClaimTimeout_due, fun _ _ => exec_tunnelClaimTimeout_early, fun _ _ _ _ => exec_tunWrite_inOrder,
    fun _ _ _ _ => exec_tunWrite_outOfOrder, fun _ _ _ _ => exec_tunRead_inOrder, fun _ _ _ _ => exec_tunIrq_inOrder,
    fun _ _ _ _ => exec_tunYield_bridged, fun _ _ _ _ => exec_tunnelDrop_bridged, fun _ _ _ => exec_tunnelDrop_none,
    fun _ _ _ _ _ => exec_tunnelReg_sent, fun _ _ _ _ _ => exec_tunRegResp_done, fun _ _ _ _ _ => exec_tunRegResp_read,
    fun _ _ _ _ => exec_tunnelRegTimeout_due, fun _ _ _ => exec_tunnelRegTimeout_early,
    fun _ _ _ => exec_remoteWakeWrite_bridged⟩

/-! The target's side of the tunnel (R385–R389, R391). -/

section TunnelTarget

variable {s : State} {n : Fin 16} {c : Cell} {o p : Owner} {r : TunReq} {l : List TunReq}

theorem exec_tunClaim_passed (hh : pathCellHere s n c = true) (hp : c.hop.toNat < c.hops.toNat) :
    exec (.tunClaim n c) s = .next (settle (forwardCell
      { c with body := c.body.take 20 ++ leBytes 8 (setRet (bodyN c 0x28 8) (c.hop.toNat - 1) n) ++ c.body.drop 28 } s)) := by
  simp only [exec, execTunClaim, hh, hp, Bool.not_true, Bool.false_eq_true, if_false, if_true, fin]

theorem exec_tunClaim_here (hh : pathCellHere s n c = true) (hp : c.hops.toNat ≤ c.hop.toNat)
    (ho : o =
      { id := c.src, gen := BitVec.ofNat 8 (bodyN c 0x14 1), eui := BitVec.ofNat 64 (bodyN c 0x18 8),
        hca := BitVec.ofNat 64 (bodyN c 0x20 8), retLinks := BitVec.ofNat 64 (setRet (bodyN c 0x28 8) (c.hop.toNat - 1) n),
        hops := c.hops.toNat, link := n }) :
    exec (.tunClaim n c) s = .next (settle (handleClaim o s)) := by
  have atEnd : ¬ c.hop.toNat < c.hops.toNat := Nat.not_lt.mpr hp
  simp only [exec, execTunClaim, hh, atEnd, Bool.not_true, Bool.false_eq_true, if_false, fin, ho]

theorem handleClaim_refused (hr : hifMode s ≠ 2 ∨ claimAllowed s o.eui.toNat = false) : handleClaim o s = answerClaim o 6 s := by
  have refused : hifMode s ≠ 2 ∨ (!claimAllowed s o.eui.toNat) = true := by simpa using hr
  rw [handleClaim, if_pos refused]; rfl

/-- A claim in MODE 2 that the allowlist admits goes by the owner it is judged against. -/
theorem handleClaim_judged (hm : hifMode s = 2) (ha : claimAllowed s o.eui.toNat = true) :
    handleClaim o s = match ownerOf s with
      | none => acceptClaim o s
      | some p => if newer8 p.gen o.gen ∨ (p.gen = o.gen ∧ p.eui ≠ o.eui) then s else acceptClaim o s := by
  simp only [handleClaim, hm, ha, ne_eq, not_true_eq_false, Bool.not_true, Bool.false_eq_true, or_self, if_false] <;> rfl

theorem acceptClaim_unowned (h : s.hif.owner = none) :
    acceptClaim o s = answerClaim o 0
      { s with hif := { s.hif with polling := false, startPoll := false, dirWait := true, claim := some o } } := by
  simp only [acceptClaim, h, hifMod]; rfl

theorem exec_tunAck_delivered (hd : Delivered n c s) : exec (.tunAck n c) s = .next (settle (settleSnapshots (takeAck c s))) := by
  simp only [exec, execTunAck, receiveCell_delivered hd, fin]

/-- An acknowledgement of the owner that names no bus error and frees `k` requests. -/
theorem takeAck_frees {k : Nat} (ho : fromOwner s c (bodyN c 0x16 1) = true) (hok : bodyN c 0x17 1 = 0)
    (hu : s.tun.unacked = r :: l) (hk : k = (BitVec.ofNat 16 (bodyN c 0x14 2) - r.xid).toNat) (hpos : 1 ≤ k)
    (hle : k ≤ s.tun.unacked.length) :
    takeAck c s = issueHeld { s with tun := { s.tun with lastAck := now s, unacked := s.tun.unacked.drop k } } := by
  have frees : k ≠ 0 := by omega
  rw [hu] at hle
  simp only [takeAck, ho, hok, hu, ← hk, frees, hle, tunMod, Bool.not_true, Bool.false_eq_true, if_false, if_true]
  rfl

theorem resendAll_empty (h : s.tun.unacked = []) : resendAll s = s := by
  rw [resendAll, h]; rfl

theorem takeAck_empty (ho : fromOwner s c (bodyN c 0x16 1) = true) (hok : bodyN c 0x17 1 = 0) (hu : s.tun.unacked = []) :
    takeAck c s = tunMod (fun t => { t with lastAck := now s }) s := by
  have nothingOut : (tunMod (fun t => { t with lastAck := now s }) s).tun.unacked = [] := hu
  have noError : ¬ 0 = St.busError := by decide
  simp only [takeAck, ho, hok, hu, noError, Bool.not_true, Bool.false_eq_true, if_false, if_true, resendAll_empty nothingOut]

theorem exec_tunData_delivered (hd : Delivered n c s) :
    exec (.tunData n c) s = .next (settle (roundAgain (takeData tunFetched c s))) := by
  simp only [exec, execTunData, receiveCell_delivered hd, fin]

/-- The next `k` bytes of a read have come (R387): they stand in the window's memory and are counted. -/
def dataTaken (c : Cell) (r : TunReq) (a k : Nat) (s : State) : State :=
  { s with
    tunMem := memWrite s.tunMem (a + r.got) ((c.body.drop 8).take k)
    tun := { s.tun with unacked := s.tun.unacked.map fun q => if q.xid = r.xid then { q with got := r.got + k } else q } }

/-- The owner's data for a read of the ring fetcher, in order and whole as the cell states it. -/
theorem takeData_fetch {fetched : TunUse → Nat → Nat → State → State} {a : BitVec 64} {len k : Nat}
    (ho : fromOwner s c (bodyN c 0x19 1) = true)
    (hf : s.tun.unacked.find? (fun q => decide (q.xid.toNat = bodyN c 0x14 2)) = some r) (hr : r.kind = .read a len)
    (hu : r.use = .fetch) (hg : r.got < len) (ho' : bodyN c 0x16 2 = r.got) (hs : bodyN c 0x1A 1 = 0)
    (hk : k = min (bodyN c 0x18 1) (len - r.got)) (hkl : k ≤ (c.body.drop 8).length) :
    takeData fetched c s = if r.got + k < len then dataTaken c r a.toNat k s
      else fetched .fetch a.toNat len (dataTaken c r a.toNat k s) := by
  have waits : ¬ len ≤ r.got := Nat.not_le.mpr hg
  have all : ((c.body.drop 8).take k).length = k := List.length_take_of_le hkl
  simp only [takeData, ho, hf, hr, hu, waits, ho', hs, ← hk, all, tunMod, Bool.not_true, Bool.false_eq_true, ne_eq,
    not_true_eq_false, or_self, if_false]
  rfl

theorem exec_tunResend_due (ho : s.hif.owner.isSome = true) (hu : s.tun.unacked = r :: l)
    (hn : r.sent + max 1 (regFld s Reg.hifTunCfg 23 16) ≤ now s) : exec .tunResend s = .next (settle (resendAll s)) := by
  simp only [exec, execTunResend, ho, hu, resendTicks, List.head?_cons, Option.any_some, hn, decide_true, and_self, if_true, fin]

theorem exec_tunResend_early (hu : s.tun.unacked = r :: l) (hn : now s < r.sent + max 1 (regFld s Reg.hifTunCfg 23 16)) :
    exec .tunResend s = .next s := by
  simp only [exec, execTunResend, hu, resendTicks, List.head?_cons, Option.any_some, Nat.not_le.mpr hn, decide_false,
    Bool.false_eq_true, and_false, if_false]

theorem exec_tunnelLost_due (ho : s.hif.owner.isSome = true) (hu : s.tun.unacked = r :: l) (hl : s.hif.tunnelLost = false)
    (hn : s.tun.lastAck + lostTicks s ≤ now s) :
    exec .tunnelLost s = .next (settle (dmaHalt 32 6 true r.kind.addr false false
      (stopRings 6 r.kind.addr false (raise Src.tunnelLost 0 0 { s with hif := { s.hif with tunnelLost := true } })))) := by
  have owned : s.hif.owner.isNone = false := Option.isNone_eq_false_iff.mpr ho
  simp only [exec, execTunnelLost, owned, hu, hl, Nat.not_lt.mpr hn, List.isEmpty_cons, Bool.false_eq_true, or_self, if_false,
    List.head?_cons, Option.elim_some, hifMod, fin]

theorem exec_tunnelLost_early (hn : now s < s.tun.lastAck + lostTicks s) : exec .tunnelLost s = .next s := by
  simp only [exec, execTunnelLost, hn, or_true, if_true]

theorem exec_tunReg_owned {x : List Word × State} (hd : Delivered n c s) (ho : s.hif.owner = some o)
    (hf : fromOwner s c (bodyN c 0x14 1) = true) (hs : regSpanOk (bodyN c 0x16 1) (bodyN c 0x18 4) = true)
    (hx : x = tunRegAccess (bitOf (bodyN c 0x15 1) 0) (bodyN c 0x18 4)
      ((List.range 8).map fun i => BitVec.ofNat 32 (bodyN c (0x1C + 4 * i) 4)) (bodyN c 0x16 1) s) :
    exec (.tunReg n c) s = .next (settle (sendRouted 0x5A o.id o.hops (reverseRoute o.hops o.retLinks)
      ([o.gen, 0] ++ leBytes 1 (bodyN c 0x16 1) ++ leBytes 1 (bodyN c 0x17 1) ++ leBytes 4 (bodyN c 0x18 4) ++
        x.1.flatMap fun w => leBytes 4 w.toNat) x.2)) := by
  subst hx
  simp only [exec, execTunReg, receiveCell_delivered hd, serveReg, ho, hf, hs, Bool.not_true, Bool.false_eq_true, if_false, if_true,
    fin]
  rfl

end TunnelTarget

/-- Settles O41: a claim by the owner it is judged against, an acknowledgement by what it frees, data by whether the read is
whole, and the two timers by what they wait for. -/
theorem tunnelTargetServesItsOwner : Obligations.TunnelTargetServesItsOwner := by
  unfold Obligations.TunnelTargetServesItsOwner
  refine ⟨fun _ _ _ => exec_tunClaim_passed, fun _ _ _ _ => exec_tunClaim_here, fun _ _ => handleClaim_refused, ?_, ?_,
    fun _ _ => acceptClaim_unowned, ?_, ?_, ?_, ?_, fun _ _ _ => exec_tunResend_due, fun _ _ _ => exec_tunResend_early,
    fun _ => resendAll_empty, fun _ _ _ => exec_tunnelLost_due, fun _ => exec_tunnelLost_early,
    fun _ _ _ _ _ => exec_tunReg_owned⟩
  · intro o s hm ha hn
    rw [handleClaim_judged hm ha, hn]
  · intro o p s hm ha hp hnew
    rw [handleClaim_judged hm ha, hp]
    exact if_pos (Or.inl hnew)
  · intro n c s r l hd ho hok hu hpos hle
    rw [exec_tunAck_delivered hd, takeAck_frees ho hok hu rfl hpos hle]
  · intro n c s hd ho hok hu
    rw [exec_tunAck_delivered hd, takeAck_empty ho hok hu]
    rfl
  · intro n c s r a len k hd ho hf hr hu hg hoff hs hk hkl hmore
    rw [exec_tunData_delivered hd, takeData_fetch ho hf hr hu hg hoff hs hk hkl, if_pos hmore]
    rfl
  · intro n c s r a len k hd ho hf hr hu hg hoff hs hk hkl hwhole
    rw [exec_tunData_delivered hd, takeData_fetch ho hf hr hu hg hoff hs hk hkl, if_neg (Nat.not_lt.mpr hwhole)]
    rfl

end Sys2Proof.Machine

namespace Sys2Proof.Machine

/-! A single-bit field that is written. -/

section BitFields

variable {i j : Nat}

theorem fldMask_bit (j : Nat) : fldMask j j = BitVec.ofNat 32 (2 ^ j) := by
  rw [fldMask, Nat.add_sub_cancel_left, pow_one, show 2 - 1 = 1 from rfl, Nat.one_mul]

theorem flag_setFld_zero (w : Word) (h : i < 32) : flag (setFld w i i 0) i = false := by
  rw [flag, setFld, fldMask_bit, Nat.zero_mod, Nat.zero_mul, BitVec.getLsbD_or, BitVec.getLsbD_and, BitVec.getLsbD_not,
    BitVec.getLsbD_ofNat, BitVec.getLsbD_ofNat, Nat.testBit_two_pow_self, Nat.zero_testBit]
  simp [h]

theorem flag_setFld_zero_ne (w : Word) (h : i ≠ j) : flag (setFld w j j 0) i = flag w i := by
  rw [flag, setFld, fldMask_bit, Nat.zero_mod, Nat.zero_mul, BitVec.getLsbD_or, BitVec.getLsbD_and, BitVec.getLsbD_not,
    BitVec.getLsbD_ofNat, BitVec.getLsbD_ofNat, Nat.testBit_two_pow_of_ne h.symm, Nat.zero_testBit, flag]
  by_cases hi : i < 32
  · simp [hi]
  · simp [BitVec.getLsbD_of_ge w i (Nat.not_lt.mp hi)]

theorem regBit_regSetFld_zero (off : Nat) (s : State) (h : i < 32) : regBit (regSetFld off i i 0 s) off i = false := by
  rw [regBit, regSetFld, regMod, regGet_regSet_self, flag_setFld_zero _ h]

theorem regBit_regSetFld_zero_ne (off : Nat) (s : State) (h : i ≠ j) :
    regBit (regSetFld off j j 0 s) off i = regBit s off i := by
  rw [regBit, regSetFld, regMod, regGet_regSet_self, flag_setFld_zero_ne _ h, regBit]

end BitFields

/-- A write below 0x1_0000 outside the protection and severity registers, whose register does more than store, has that
effect. -/
theorem regWrite_midWrite {mode : Word → State → State} {path : AccessPath} {off : Nat} {v : Word} {s t : State}
    (hr : (regRow off).isSome = true) (hlo : 0xA000 ≤ off) (hhi : off < 0x10000) (hw : lowWrite mode off v s = some t) :
    regWrite mode path off v s = t := by
  obtain ⟨r, hr⟩ := Option.isSome_iff_exists.mp hr
  have notProt : ¬ (0x9000 ≤ off ∧ off < 0xA000) := by omega
  have notSump : ¬ (0x8400 ≤ off ∧ off < 0x8800) := by omega
  have notDma : off ≠ Reg.dmaErrStat := by
    have : Reg.dmaErrStat < 0xA000 := by decide
    omega
  simp only [regWrite, hr, if_neg notProt, if_neg notSump, if_neg notDma, if_pos hhi, hw, Option.getD_some]

/-! A two-wire bus: what `mbMod` leaves in it. -/

section BusState

variable {n : Fin 2} {s : State} {f g : MbBus → MbBus}

@[simp] theorem mbMod_self (n : Fin 2) (f : MbBus → MbBus) (s : State) : (mbMod n f s).mb[n] = f s.mb[n] := vmod_get_self _ _ _

theorem mbMod_congr (h : f s.mb[n] = g s.mb[n]) : mbMod n f s = mbMod n g s := by
  simp only [mbMod, vmod, h]

@[simp] theorem sticky_mb (off i : Nat) (s : State) : (sticky off i s).mb = s.mb := (outer_sticky off i s (Outer.refl s)).mb

end BusState

/-! Controller transactions (R431–R433): the commands of a bus start in order. -/

section BusController

variable {h : CmdHdr} {s : State} {n : Fin 2} {t : Ticket} {c : MbCur} {w : MbWire}

theorem exec_mbXfer_taken {a : MbXferArgs} (ht : Taken h false s) (ha : xferBad a = false) :
    exec (.mbXfer h a w) s = .next (settle (mbNext (busOf a.bus) (some w)
      (mbMod (busOf a.bus) (fun b => { b with queue := b.queue ++ [.xfer (ticketOf h s) a s.time.refTime] }) (takenState h s)))) := by
  simp only [exec, execMbXfer, mbXferWith, untimedCmd_run ht ha, takenState_time, fin]

theorem exec_mbReset_taken {bus : Byte} (ht : Taken h false s) (hb : bus.toNat ≤ 1) :
    exec (.mbReset h bus) s = .next (settle (mbNext (busOf bus) none
      (mbMod (busOf bus) (fun b => { b with queue := b.queue ++ [.reset (ticketOf h s)] }) (takenState h s)))) := by
  have valid : decide (1 < bus.toNat) = false := decide_eq_false (Nat.not_lt.mpr hb)
  simp only [exec, execMbReset, untimedCmd_run ht valid, fin]

theorem mbPump_reset {k : Nat} {x : Option MbWire} {l : List MbCmd} (hc : s.mb[n].cur = none) (hr : s.mb[n].rst = .none)
    (hq : s.mb[n].queue = .reset t :: l) :
    mbPump n (k + 1) x s =
      mbMod n (fun b => { b with queue := l, rst := .command t, rstAt := s.time.refTime, free := false }) s := by
  simp only [mbPump, hc, hr, hq, Option.isSome_none, Bool.false_eq_true, ne_eq, not_true_eq_false, or_self, if_false]

/-- A transaction on an enabled controller whose bus is not free waits for it. -/
theorem mbPump_waits {k : Nat} {x : Option MbWire} {a : MbXferArgs} {since : Nat} {l : List MbCmd} (hc : s.mb[n].cur = none)
    (hr : s.mb[n].rst = .none) (hq : s.mb[n].queue = .xfer t a since :: l) (he : regBit s (Reg.mbCtrl n) 0 = true)
    (hd : a.rlen = 0 ∨ dmaHalted s = false) (hf : s.mb[n].free = false) :
    mbPump n (k + 1) x s =
      mbMod n (fun b => { b with cur := some { ticket := t, args := a, since := since, arb := 0, nacks := 0, phase := .waitFree } })
        (mbMod n (fun b => { b with queue := l }) s) := by
  have served : ¬ (a.rlen ≠ 0 ∧ dmaHalted s = true) := by
    rcases hd with hd | hd <;> simp [hd]
  simp only [mbPump, hc, hr, hq, he, hf, served, Option.isSome_none, Bool.not_true, Bool.false_eq_true, ne_eq, not_true_eq_false,
    or_self, if_false]

/-- With nothing left to start, nothing starts. -/
theorem runXfer_acked {l : List Byte} :
    runXfer n c (.answer true c.args.wlen.toNat true l) s =
      if c.args.rlen.toNat = 0 then endXfer n c St.ok c.args.wlen.toNat 0 s
      else if dmaHalted s then endXfer n c St.busError c.args.wlen.toNat c.args.rlen.toNat s
      else resultWith none c.ticket c.args.resultAddr.toNat (readBytes c.args.rlen.toNat l) St.ok
        (mbSpecific c.args.wlen.toNat c.args.rlen.toNat c.arb) (mbMod n (fun b => { b with cur := none, free := false }) s) := by
  simp only [runXfer, Nat.lt_irrefl, Bool.not_true, Bool.false_eq_true, and_false, if_false]

theorem exec_mbAddrNackRetry_repeats (hc : s.mb[n].cur = some c) (hp : c.phase = .nackWait) (ho : s.mb[n].others = false)
    (hs : s.mb[n].stuck = false) (hr : s.mb[n].rst = .none) (hn : mayHavePassed s s.mb[n].nackAt (mbMs * 12 / 10) = true) :
    exec (.mbAddrNackRetry n w) s = .next (settle (mbNext n none (runXfer n c w s))) := by
  simp only [exec, execMbAddrNackRetry, hc, hp, ho, hs, hr, hn, resumeXfer, ne_eq, not_true_eq_false, Bool.not_true,
    Bool.false_eq_true, or_self, if_false, fin]

theorem exec_mbAddrNackRetry_early (hn : mayHavePassed s s.mb[n].nackAt (mbMs * 12 / 10) = false) :
    exec (.mbAddrNackRetry n w) s = .next s := by
  simp only [exec, execMbAddrNackRetry, hn, Bool.not_false, or_true, if_true]
  cases s.mb[n].cur <;> rfl

theorem exec_mbBusFree_resumes (hr : s.mb[n].rst = .none) (hc : s.mb[n].cur = some c) (hp : c.phase = .waitFree) :
    exec (.mbBusFree n w) s = .next (settle (mbNext n none (runXfer n c w (mbMod n (fun b =>
      { b with scl := true, sda := true, free := true, others := false, stuck := false, tgt := none }) s)))) := by
  simp only [exec, execMbBusFree, hr, hc, hp, mbMod_self, resumeXfer, ne_eq, not_true_eq_false, if_false, if_true, fin]

theorem exec_mbXferTimeout_current (hc : s.mb[n].cur = some c) (hp : c.phase = .waitFree) :
    exec (.mbXferTimeout n c.ticket.seq) s = if mayHavePassed s c.since (100 * mbMs)
      then .next (settle (mbNext n none (complete c.ticket 9 (mbSpecific 0 0 c.arb) (mbMod n (fun b => { b with cur := none }) s))))
      else .next s := by
  simp only [exec, execMbXferTimeout, hc, hp, waitedLong, Option.filter_some, decide_true, Bool.and_self, if_true, fin]
  rfl

theorem exec_mbXferTimeout_queued {a : MbXferArgs} {since : Nat} (hc : s.mb[n].cur = none)
    (hq : s.mb[n].queue = [.xfer t a since]) (hn : mayHavePassed s since (100 * mbMs) = true) :
    exec (.mbXferTimeout n t.seq) s = .next (settle (complete t 9 0 (mbMod n (fun b => { b with queue := [] }) s))) := by
  have named : MbCmd.isXfer t.seq (.xfer t a since) = true := decide_eq_true rfl
  have emptied : mbMod n (fun b => { b with queue := b.queue.filter fun x => !MbCmd.isXfer t.seq x }) s =
      mbMod n (fun b => { b with queue := [] }) s :=
    mbMod_congr (by simp only [hq, List.filter_cons, named, Bool.not_true, Bool.false_eq_true, if_false, List.filter_nil])
  simp only [exec, execMbXferTimeout, hc, hq, waitedLong, Option.filter_none, List.find?_cons, named, hn, if_true, emptied, fin]
  rfl

theorem exec_mbStuck_checked {low : Bool} (ht : regFld s (Reg.mbCtrl n) 31 24 ≠ 0) (hs : s.mb[n].stuck = false)
    (ha : regBit s (Reg.mbCtrl n) 14 = false) :
    exec (.mbStuck n low) s = .next (settle (mbNext n none (abandonXfer n 9 (markStuck n
      (mbMod n (fun b => { b with scl := !low, sda := low && b.sda }) s))))) := by
  simp only [exec, execMbStuck, ht, hs, ha, Bool.false_and, Bool.false_eq_true, or_self, if_false, fin]
  rfl

theorem endTarget_rst (n : Fin 2) (s : State) : (endTarget n s).mb[n].rst = s.mb[n].rst := by
  unfold endTarget
  split
  · rfl
  · dsimp only
    rw [mbMod_self]
    split
    · exact congrArg (fun v : Vector MbBus 2 => v[n].rst) (sticky_mb _ _ s)
    · rfl

theorem exec_mbRstReceived_other (hr : s.mb[n].rst = .none) :
    exec (.mbRstReceived n) s = .next (settle (report 0x0F21 n.val [3] (sticky (Reg.mbErrStat n) 3 (abandonXfer n 0x73
      (mbMod n (fun b => { b with rst := .other, free := false, others := false, stuck := false }) (endTarget n s)))))) := by
  have received : mbMod n (fun b =>
        { b with rst := if b.rst = .none then .other else b.rst, free := false, others := false, stuck := false }) (endTarget n s) =
      mbMod n (fun b => { b with rst := .other, free := false, others := false, stuck := false }) (endTarget n s) :=
    mbMod_congr (by simp only [endTarget_rst, hr, if_true])
  simp only [exec, execMbRstReceived, received, hr, fin]
  rfl

theorem exec_mbRstDriveEnd_command (hr : s.mb[n].rst = .command t) :
    exec (.mbRstDriveEnd n) s = if mayHavePassed s s.mb[n].rstAt (rstUnits s n)
      then .next (settle (mbNext n none (complete t 0 0 (mbMod n (fun b => { b with rst := .none, riseAt := some s.time.refTime }) s))))
      else .next s := by
  simp only [exec, execMbRstDriveEnd, hr, fin]; rfl

theorem exec_mbRstReleaseCheck_due {k : Nat} {scl sda : Bool} (hr : s.mb[n].rst = .none) (hk : s.mb[n].riseAt = some k)
    (hn : mayHavePassed s k mbMs = true) :
    exec (.mbRstReleaseCheck n scl sda) s =
      .next (if scl && sda then mbMod n (fun b => { b with scl := scl, sda := sda, riseAt := none }) s
        else settle (markStuck n (mbMod n (fun b => { b with scl := scl, sda := sda, riseAt := none }) s))) := by
  simp only [exec, execMbRstReleaseCheck, hr, hk, hn, Option.elim_some, ne_eq, not_true_eq_false, Bool.not_true, Bool.false_eq_true,
    or_self, if_false, fin]
  split <;> rfl

theorem exec_mbRstReleaseCheck_early {scl sda : Bool} (hk : ∀ k, s.mb[n].riseAt = some k → mayHavePassed s k mbMs = false) :
    exec (.mbRstReleaseCheck n scl sda) s = .next s := by
  have early : s.mb[n].riseAt.elim true (fun t => !mayHavePassed s t mbMs) = true := by
    cases hx : s.mb[n].riseAt with
    | none => rfl
    | some k => exact congrArg (!·) (hk k hx)
  simp only [exec, execMbRstReleaseCheck, early, or_true, if_true]

end BusController

/-- Settles O43: `mbPump` by the command at the front, `runXfer` by the wires' answer, and each timer by whether its time may
have passed. -/
theorem busControllerTransactions : Obligations.BusControllerTransactions := by
  unfold Obligations.BusControllerTransactions
  refine ⟨fun _ _ _ _ => exec_mbXfer_taken, fun _ _ _ => exec_mbReset_taken, fun _ _ _ _ _ => mbPump_reset, ?_, ?_, ?_, ?_, ?_, ?_,
    fun _ _ _ _ => exec_mbAddrNackRetry_repeats, fun _ _ _ => exec_mbAddrNackRetry_early, fun _ _ _ _ => exec_mbBusFree_resumes,
    ?_, ?_, fun _ _ _ _ _ => exec_mbXferTimeout_queued, fun _ _ _ => exec_mbStuck_checked, fun _ _ => exec_mbRstReceived_other,
    ?_, ?_, fun _ _ _ _ _ => exec_mbRstReleaseCheck_due, fun _ _ _ _ => exec_mbRstReleaseCheck_early⟩
  · intro n w t a since s hc hr hq he hd hf
    exact mbPump_waits hc hr hq he hd hf
  · intro n c l s hrl
    rw [runXfer_acked, hrl]
    rfl
  · intro n c l s hrl hd
    have reads : c.args.rlen.toNat ≠ 0 := fun e => hrl (BitVec.eq_of_toNat_eq e)
    rw [runXfer_acked, if_neg reads, hd]
    rfl
  · intro n c k r l s hn
    exact if_pos hn
  · intro n c k r l s hn
    exact if_neg (Nat.not_lt.mpr hn)
  · intro n c k r l s hk
    exact if_pos hk
  · intro n c s hc hp hn
    rw [exec_mbXferTimeout_current hc hp, if_pos hn]
  · intro n c s hc hp hn
    rw [exec_mbXferTimeout_current hc hp, hn]
    rfl
  · intro n t s hr hn
    rw [exec_mbRstDriveEnd_command hr, if_pos hn]
  · intro n t s hr hn
    rw [exec_mbRstDriveEnd_command hr, hn]
    rfl

/-! The target role (R434–R437), and the requests and their service (R438–R441). -/

section BusTarget

variable {s u : State} {n : Fin 2} {b : Byte} {t : MbTgt}

/-- The bus after another device's START and address byte. -/
def addressSeen (n : Fin 2) (s : State) : State := mbMod n (fun x => { x with free := false, others := true, tgt := none, ack := false }) s

theorem exec_mbTargetAddress_other (hu : u = addressSeen n s) (ha : addressed u n b = false) :
    exec (.mbTargetAddress n b) s = .next u := by
  rw [addressSeen] at hu
  simp only [exec, execMbTargetAddress, ← hu, ha, Bool.not_false, if_true]

theorem exec_mbTargetAddress_own (hu : u = addressSeen n s) (ha : addressed u n b = true) (ho : regsOpen u = true)
    (hw : s.mb[n].wakeNack = none) : exec (.mbTargetAddress n b) s = .next (beginTarget n b u) := by
  have awake : u.power.state ≠ .sleep := by
    intro asleep
    simp [regsOpen, asleep] at ho
  have noWake : u.mb[n].wakeNack = none := by rw [hu, addressSeen, mbMod_self, hw]
  rw [addressSeen] at hu
  simp only [exec, execMbTargetAddress, ← hu, ha, ho, awake, noWake, Option.elim_none, Bool.not_true, Bool.false_eq_true, or_self,
    if_false]

theorem exec_mbTargetByte_write (ht : s.mb[n].tgt = some t) (hr : t.read = false) (hn : t.nacked = false) :
    exec (.mbTargetByte n b) s = .next (settle (commitByte n t b s)) := by
  simp only [exec, execMbTargetByte, ht, hr, hn, Bool.false_eq_true, or_self, if_false, fin]

/-- The byte is committed: acknowledged and kept. -/
def byteTaken (n : Fin 2) (t : MbTgt) (b : Byte) (s : State) : State :=
  mbMod n (fun x => { x with ack := true, tgt := some { t with bytes := t.bytes ++ [b] } }) s

/-- The byte is not acknowledged, nor any that follows it. -/
def byteNacked (n : Fin 2) (t : MbTgt) (s : State) : State :=
  mbMod n (fun x => { x with ack := false, tgt := some { t with nacked := true } }) s

theorem commitByte_offset (h : t.bytes.length < 2) : commitByte n t b s = byteTaken n t b s := by
  have short : (t.bytes ++ [b]).length < 3 := by rw [List.length_append, List.length_singleton]; omega
  rw [commitByte]
  exact if_pos short

theorem commitByte_lastOffset (h : t.bytes.length = 2) :
    commitByte n t b s = match offsetOf (t.bytes ++ [b]) with
      | some o => mbMod n (fun x => { x with ptr := o }) (byteTaken n t b s)
      | none => byteNacked n t s := by
  have third : (t.bytes ++ [b]).length = 3 := by rw [List.length_append, List.length_singleton, h]
  simp only [commitByte, third, Nat.lt_irrefl, if_false, if_true]
  rfl

/-- A byte after the offset. -/
theorem commitByte_data (h : 3 ≤ t.bytes.length) :
    commitByte n t b s = if n.val = 0 ∨ 0x3FFFC < s.mb[n].ptr then byteNacked n t s
      else if (t.bytes.length + 1 - 3) % 4 = 0 then
        mbMod n (fun x => { x with ptr := x.ptr + 4 }) (busWrite .mb1 s.mb[n].ptr
          (BitVec.ofNat 32 (ofLe ((t.bytes ++ [b]).drop (t.bytes.length + 1 - 4)))) (byteTaken n t b s))
      else byteTaken n t b s := by
  have notShort : ¬ t.bytes.length + 1 < 3 := by omega
  have notThird : ¬ t.bytes.length + 1 = 3 := by omega
  simp only [commitByte, List.length_append, List.length_singleton, notShort, notThird, if_false]
  rfl

theorem exec_mbTargetReadByte_later {w : Word} (ht : s.mb[n].tgt = some t) (hr : t.read = true) (hi : t.sent % 4 ≠ 0)
    (hw : w = t.word) :
    exec (.mbTargetReadByte n) s = .next (mbMod n (fun x =>
      { x with tgt := some { t with word := w, sent := t.sent + 1 }, sent := BitVec.ofNat 8 (w.toNat / 256 ^ (t.sent % 4)),
               ptr := if t.sent % 4 = 3 then s.mb[n].ptr + 4 else s.mb[n].ptr }) s) := by
  simp only [exec, execMbTargetReadByte, ht, hr, hi, hw, Bool.not_true, Bool.false_eq_true, if_false]

theorem exec_mbTargetReadByte_first {w : Word} (ht : s.mb[n].tgt = some t) (hr : t.read = true) (hi : t.sent % 4 = 0)
    (hw : w = busRead (mbPath n) s s.mb[n].ptr) :
    exec (.mbTargetReadByte n) s = .next (mbMod n (fun x =>
      { x with tgt := some { t with word := w, sent := t.sent + 1 }, sent := BitVec.ofNat 8 w.toNat, ptr := s.mb[n].ptr })
      (afterRead (mbPath n) s.mb[n].ptr s)) := by
  have notFourth : ¬ (0 : Nat) = 3 := by decide
  simp only [exec, execMbTargetReadByte, ht, hr, hi, ← hw, notFourth, pow_zero, Nat.div_one, Bool.not_true, Bool.false_eq_true,
    if_false, if_true]

theorem endTarget_partial (ht : s.mb[n].tgt = some t) (hr : t.read = false) (hl : 3 < t.bytes.length)
    (hp : (t.bytes.length - 3) % 4 ≠ 0) :
    endTarget n s = mbMod n (fun x => { x with tgt := none }) (sticky (Reg.mbErrStat n) 4 s) := by
  have incomplete : (!t.read) = true ∧ 3 < t.bytes.length ∧ (t.bytes.length - 3) % 4 ≠ 0 := ⟨by rw [hr]; rfl, hl, hp⟩
  simp only [endTarget, ht, if_pos incomplete]

theorem exec_mbTargetRequest_sent {e : MbHeaderEnd} (hc : canRequest s n = true)
    (hu : u = mbMod n (fun x => { x with free := false, others := decide (e = .lost), sent := BitVec.ofNat 8 (tgtAddr s n * 2 + 1) }) s) :
    exec (.mbTargetRequest n e) s = .next (if e = .acked then setServed n u else u) := by
  simp only [exec, execMbTargetRequest, hc, Bool.not_true, Bool.false_eq_true, if_false, ← hu]

theorem exec_mbRequestUnserved_flagged (hc : canRequest s n = true) :
    exec (.mbRequestUnserved n) s =
      .next (sticky (Reg.mbErrStat n) 5 (mbMod n (fun b => { b with reqPause := some s.time.refTime }) s)) := if_pos hc

theorem exec_mbServeInband_request (hc : canServe s n 12 = true) (ha : addressed s n b = false) (hb : b.getLsbD 0 = true) :
    exec (.mbServeInband n b) s = .next (reportRequest n b false (mbMod n (fun x => { x with ack := true })
      (mbMod n (fun x => { x with free := false, ack := false }) s))) := by
  simp only [exec, execMbServeInband, hc, ha, hb, Bool.not_true, Bool.false_eq_true, if_false, if_true]

theorem exec_mbAlertServe_served {l : List Byte} {low : Bool} (hc : canServe s n 13 = true) (hf : s.mb[n].free = true)
    (hp : pauseOver s s.mb[n].alertPause = true) :
    exec (.mbAlertServe n l low) s = .next ((l.take 8).foldl (fun s b => reportRequest n b true s)
      (mbMod n (fun x =>
        { x with
          free := false, alertIn := low
          alertPause := if low && decide (8 ≤ l.length) then some s.time.refTime else none }) s)) := by
  simp only [exec, execMbAlertServe, hc, hf, hp, Bool.and_self, Bool.not_true, Bool.false_eq_true, if_false]

theorem exec_mbAraRead_held {w : Bool} (ho : regsOpen s = true) (ha : alertHeld s n = true)
    (hu : u = mbMod n (fun x => { x with free := false, others := true, sent := BitVec.ofNat 8 (tgtAddr s n * 2) }) s) :
    exec (.mbAraRead n w) s = .next (if w then setServed n u else u) := by
  simp only [exec, execMbAraRead, ho, ha, Bool.and_self, Bool.not_true, Bool.false_eq_true, if_false, ← hu]

theorem busWrite_mbTgtReq {path : AccessPath} {v : Word} (n : Fin 2) (hp : path ≠ .mb0) (ho : regsOpen s = true) :
    busWrite path (Reg.mbTgtReq n) v s = writeTgtReq n v s := by
  rw [busWrite_open hp ho]
  match n with
  | 0 => exact regWrite_midWrite (by decide) (by decide) (by decide) rfl
  | 1 => exact regWrite_midWrite (by decide) (by decide) (by decide) rfl

theorem writeTgtReq_sets {v : Word} (n : Nat) (s : State) (hc : flag v 0 = false) (hs : flag v 1 = true) :
    regBit (writeTgtReq n v s) (Reg.mbTgtReq n) 0 = true := by
  simp only [writeTgtReq, hc, hs, Bool.false_eq_true, if_false, if_true]
  exact regBit_regSetFld_one _ _ (by decide)

theorem writeTgtReq_clears {v : Word} (n : Nat) (s : State) (hc : flag v 0 = true) (hs : flag v 1 = false) :
    regBit (writeTgtReq n v s) (Reg.mbTgtReq n) 0 = false ∧ regBit (writeTgtReq n v s) (Reg.mbTgtReq n) 2 = false := by
  simp only [writeTgtReq, hc, hs, Bool.false_eq_true, if_false, if_true]
  exact ⟨regBit_regSetFld_zero _ _ (by decide),
    (regBit_regSetFld_zero_ne _ _ (by decide)).trans (regBit_regSetFld_zero _ _ (by decide))⟩

end BusTarget

/-- Settles O44: an address byte by whether it is this module's, a committed byte by its place, a read by whether it begins a
word, and each request or service by its own permission. -/
theorem busTargetRoleAndRequests : Obligations.BusTargetRoleAndRequests := by
  unfold Obligations.BusTargetRoleAndRequests
  refine ⟨fun _ _ _ _ => exec_mbTargetAddress_other, fun _ _ _ _ => exec_mbTargetAddress_own, fun _ _ _ _ => exec_mbTargetByte_write,
    fun _ _ _ _ => commitByte_offset, ?_, ?_, ?_, fun _ _ _ _ => exec_mbTargetReadByte_later,
    fun _ _ _ _ => exec_mbTargetReadByte_first, ?_, ?_, fun _ _ _ => endTarget_partial, fun _ _ _ _ => exec_mbTargetRequest_sent,
    fun _ _ => exec_mbRequestUnserved_flagged, fun _ _ _ => exec_mbServeInband_request, fun _ _ _ _ => exec_mbAlertServe_served,
    fun _ _ _ _ => exec_mbAraRead_held, ?_, fun n _ s => writeTgtReq_sets n s, fun n _ s => writeTgtReq_clears n s⟩
  · intro n b t o s hl ho
    rw [commitByte_lastOffset hl, ho]
    rfl
  · rintro n b t s (⟨hl, ho⟩ | ⟨hl, rfl⟩)
    · rw [commitByte_lastOffset hl, ho]
      rfl
    · exact (commitByte_data hl).trans (if_pos (Or.inl rfl))
  · intro b t s hl hk hp
    have writable : ¬ ((1 : Fin 2).val = 0 ∨ 0x3FFFC < s.mb[(1 : Fin 2)].ptr) := by
      rintro (h | h)
      · exact absurd h (by decide)
      · omega
    rw [commitByte_data hl, if_neg writable, if_pos hk]
    rfl
  · intro n r s
    simp only [exec, execMbStop, Bool.false_eq_true, and_false, if_false]
  · intro n r s ht
    simp only [exec, execMbStop, ht, and_self, if_true]
  · intro path n v s hp ho
    have written : fin (busWrite path (Reg.mbTgtReq n) v s) = .next (settle (writeTgtReq n v s)) := by
      rw [busWrite_mbTgtReq n hp ho, fin]
    exact ⟨written, written⟩

end Sys2Proof.Machine

namespace Sys2Proof.Machine

/-! The Sump (R452–R458): what raising, reporting, fencing and clearing leave of its records. -/

/-- A field that every step of a fold keeps is kept by the fold. -/
theorem foldl_same {σ β γ : Type} (p : σ → γ) {g : σ → β → σ} (hg : ∀ s x, p (g s x) = p s) (l : List β) (s : σ) :
    p (l.foldl g s) = p s := by
  induction l generalizing s with
  | nil => rfl
  | cons x l ih => exact (ih _).trans (hg s x)

section SumpRecords

variable {src inst : Nat} {u : FenceUnit} {s t : State}

/-- `t` differs from `s` in the Sump and the waiting events alone. -/
def SumpOnly (s t : State) : Prop := ∃ a b, t = { s with sump := a, hif := b }

theorem SumpOnly.trans {r : State} (h1 : SumpOnly r s) (h2 : SumpOnly s t) : SumpOnly r t := by
  obtain ⟨a, b, rfl⟩ := h1
  obtain ⟨c, d, rfl⟩ := h2
  exact ⟨c, d, rfl⟩

theorem SumpOnly.eq (h : SumpOnly s t) : t = { s with sump := t.sump, hif := t.hif } := by
  obtain ⟨a, b, rfl⟩ := h
  rfl

theorem faultEvent_eq (src inst k : Nat) (s : State) :
    faultEvent src inst k s = { s with hif := (faultEvent src inst k s).hif } := by
  unfold faultEvent
  split <;> rfl

theorem sumpOnly_faultEvent (src inst k : Nat) (s : State) : SumpOnly s (faultEvent src inst k s) :=
  ⟨_, _, faultEvent_eq src inst k s⟩

theorem sumpOnly_setInst (src inst : Nat) (x : SumpInst) (s : State) : SumpOnly s (setInst src inst x s) := ⟨_, _, rfl⟩

@[simp] theorem faultEvent_sump (src inst k : Nat) (s : State) : (faultEvent src inst k s).sump = s.sump := by rw [faultEvent_eq]

@[simp] theorem requestService_sump (sev : Nat) (s : State) : (requestService sev s).sump = s.sump := by
  refine foldl_same State.sump (fun s n => ?_) _ s
  dsimp only
  split <;> rfl

theorem sumpInst_eq_mapGetD (src inst : Nat) (s : State) :
    sumpInst s src inst = mapGetD SumpInst.reset s.sump.insts (src * 256 + inst) := rfl

@[simp] theorem sumpInst_setInst_self (src inst : Nat) (x : SumpInst) (s : State) : sumpInst (setInst src inst x s) src inst = x := by
  rw [sumpInst_eq_mapGetD, setInst, mapGetD_mapPutD_self]

theorem sumpInst_setInst_ne {k n : Nat} (x : SumpInst) (s : State) (h : k * 256 + n ≠ src * 256 + inst) :
    sumpInst (setInst src inst x s) k n = sumpInst s k n := by
  rw [sumpInst_eq_mapGetD, setInst, mapGetD_mapPutD_ne _ _ _ _ _ h, sumpInst_eq_mapGetD]

@[simp] theorem sumpInst_faultEvent (k n i j m : Nat) (s : State) : sumpInst (faultEvent i j m s) k n = sumpInst s k n := by
  rw [sumpInst, faultEvent_sump, sumpInst]

@[simp] theorem fenced_faultEvent (i j m : Nat) (s : State) (u : FenceUnit) : fenced (faultEvent i j m s) u = fenced s u := by
  rw [fenced, faultEvent_sump, fenced]

@[simp] theorem sumpInst_requestService (sev k n : Nat) (s : State) : sumpInst (requestService sev s) k n = sumpInst s k n := by
  rw [sumpInst, requestService_sump, sumpInst]

/-- A fence adds to the fences held, and to nothing else in the Sump. -/
theorem fenceFor_sump (src inst : Nat) (s : State) :
    (fenceFor src inst s).sump = { s.sump with fences := (fenceFor src inst s).sump.fences } := by
  unfold fenceFor
  split
  · rfl
  · split
    · rfl
    · rw [faultEvent_sump]

@[simp] theorem sumpInst_fenceFor (src inst k n : Nat) (s : State) : sumpInst (fenceFor src inst s) k n = sumpInst s k n := by
  rw [sumpInst, fenceFor_sump, sumpInst]

@[simp] theorem fenceFor_halted (src inst : Nat) (s : State) : (fenceFor src inst s).sump.halted = s.sump.halted := by
  rw [fenceFor_sump]

theorem fenced_fenceFor (s : State) (h : fenceUnit src inst = some u) : fenced (fenceFor src inst s) u = true := by
  simp only [fenceFor, h]
  split
  · assumption
  · rw [fenced_faultEvent]
    simp [fenced]

/-- A raise where the record is CLEAR latches it (R455): from FAILOVER on, or at its recovery limit. -/
def latches (src inst : Nat) (s : State) : Bool :=
  5 ≤ severity s src ||
    (decide (regFld s (Reg.sumpCfg src) 7 4 ≠ 0) && decide (regFld s (Reg.sumpCfg src) 7 4 ≤ inWindow s src inst))

/-- The record that a raise makes of a CLEAR one. -/
def raisedInst (src inst detail : Nat) (s : State) : SumpInst :=
  { sumpInst s src inst with
    raises := satN 16 ((sumpInst s src inst).raises + 1), detail := detail, sev := severity s src, quietFrom := s.time.refTime,
    quiet := quietOf s src, lastTick := now s, state := if latches src inst s then .latched else .active }

/-- The raise is recorded and reported; the unit is not fenced yet. -/
def raiseRecorded (src inst detail : Nat) (s : State) : State :=
  faultEvent src inst (if latches src inst s then 4 else 1)
    (requestService (severity s src) (setInst src inst (raisedInst src inst detail s) s))

/-- A raise where the record is CLEAR (R452, R455, R457, R460). -/
theorem raise_clear {x : SumpSource} (detail : Nat) (hx : sumpSource src = some x) (hi : inst < x.instances) (hsev : 0 < severity s src)
    (hp : s.power.state ≠ .sleep) (hc : (sumpInst s src inst).state = .clear) :
    raise src inst detail s =
      if severity s src = 6 then
        { fenceFor src inst (raiseRecorded src inst detail s) with
          sump := { (fenceFor src inst (raiseRecorded src inst detail s)).sump with halted := true, haltDue := true } }
      else if 4 ≤ severity s src then fenceFor src inst (raiseRecorded src inst detail s)
      else raiseRecorded src inst detail s := by
  have heard : ¬ (x.instances ≤ inst ∨ severity s src = 0 ∨ s.power.state = .sleep) := by
    simp only [not_or]
    exact ⟨Nat.not_le.mpr hi, Nat.ne_of_gt hsev, hp⟩
  have notActive : decide (FaultState.clear ≠ .active) = true := rfl
  cases hl : latches src inst s with
  | true =>
    have latch := hl
    rw [latches] at latch
    simp only [raise, hx, if_neg heard, hc, notActive, Bool.true_and, latch, if_true, raiseRecorded, raisedInst, hl]
    by_cases six : severity s src = 6
    · simp only [six, if_true, show 4 ≤ 6 by decide]
    · simp only [six, if_false]
  | false =>
    have noLatch := hl
    rw [latches] at noLatch
    have below : ¬ severity s src = 6 := by
      intro six
      simp [six] at noLatch
    simp only [raise, hx, if_neg heard, hc, notActive, Bool.true_and, noLatch, Bool.false_eq_true, if_false, reduceCtorEq,
      raiseRecorded, raisedInst, hl, below]

theorem raise_ignored {detail : Nat} (h : sumpSource src = none ∨ severity s src = 0 ∨ s.power.state = .sleep) :
    raise src inst detail s = s := by
  unfold raise
  split
  · rfl
  · next x hx =>
    have ignored : x.instances ≤ inst ∨ severity s src = 0 ∨ s.power.state = .sleep := by
      rcases h with h | h
      · simp [h] at hx
      · exact Or.inr h
    exact if_pos ignored

theorem raise_latched {x : SumpSource} {detail : Nat} (hx : sumpSource src = some x) (hi : inst < x.instances)
    (hsev : 0 < severity s src) (hp : s.power.state ≠ .sleep) (hl : (sumpInst s src inst).state = .latched) :
    raise src inst detail s =
      setInst src inst { sumpInst s src inst with raises := satN 16 ((sumpInst s src inst).raises + 1) } s := by
  have heard : ¬ (x.instances ≤ inst ∨ severity s src = 0 ∨ s.power.state = .sleep) := by
    simp only [not_or]
    exact ⟨Nat.not_le.mpr hi, Nat.ne_of_gt hsev, hp⟩
  simp only [raise, hx, if_neg heard, hl]

theorem sumpInst_raiseRecorded (detail : Nat) (s : State) :
    sumpInst (raiseRecorded src inst detail s) src inst = raisedInst src inst detail s := by
  rw [raiseRecorded, sumpInst_faultEvent, sumpInst_requestService, sumpInst_setInst_self]

theorem raiseRecorded_halted (detail : Nat) (s : State) : (raiseRecorded src inst detail s).sump.halted = s.sump.halted := by
  rw [raiseRecorded, faultEvent_sump, requestService_sump]; rfl

theorem sumpInst_raise_clear {x : SumpSource} (detail : Nat) (hx : sumpSource src = some x) (hi : inst < x.instances)
    (hsev : 0 < severity s src) (hp : s.power.state ≠ .sleep) (hc : (sumpInst s src inst).state = .clear) :
    sumpInst (raise src inst detail s) src inst = raisedInst src inst detail s := by
  have fencedToo : sumpInst (fenceFor src inst (raiseRecorded src inst detail s)) src inst = raisedInst src inst detail s := by
    rw [sumpInst_fenceFor, sumpInst_raiseRecorded]
  rw [raise_clear detail hx hi hsev hp hc]
  split
  · exact fencedToo
  · split
    · exact fencedToo
    · exact sumpInst_raiseRecorded detail s

theorem raise_clear_halted {x : SumpSource} (detail : Nat) (hx : sumpSource src = some x) (hi : inst < x.instances)
    (hsev : 0 < severity s src) (hp : s.power.state ≠ .sleep) (hc : (sumpInst s src inst).state = .clear) :
    (raise src inst detail s).sump.halted = (s.sump.halted || decide (severity s src = 6)) := by
  rw [raise_clear detail hx hi hsev hp hc]
  split
  · next six => simp [six]
  · next notSix =>
    rw [decide_eq_false notSix, Bool.or_false]
    split
    · rw [fenceFor_halted, raiseRecorded_halted]
    · exact raiseRecorded_halted detail s

theorem fenced_raise_clear {x : SumpSource} (detail : Nat) (hx : sumpSource src = some x) (hi : inst < x.instances)
    (hsev : 4 ≤ severity s src) (hp : s.power.state ≠ .sleep) (hc : (sumpInst s src inst).state = .clear)
    (hu : fenceUnit src inst = some u) : fenced (raise src inst detail s) u = true := by
  rw [raise_clear detail hx hi (by omega) hp hc]
  split
  · exact fenced_fenceFor _ hu
  · exact fenced_fenceFor _ hu

/-! The quiet period (R454). -/

/-- The record once its QUIET has passed. -/
def recoveringInst (src inst : Nat) (s : State) : SumpInst :=
  { sumpInst s src inst with
    state := .recovering, recoveries := satN 16 ((sumpInst s src inst).recoveries + 1),
    window := (s.time.refTime :: (sumpInst s src inst).window).take 15, lastTick := now s, sev := severity s src }

/-- ACTIVE has gone to RECOVERING. -/
def quietPassed (src inst : Nat) (s : State) : State := faultEvent src inst 2 (setInst src inst (recoveringInst src inst s) s)

/-- The state a quiet period that has passed leaves: RECOVERING for a unit that retries, else CLEAR. -/
def quietEnded (src inst : Nat) (s : State) : State :=
  if retries src then quietPassed src inst s
  else faultEvent src inst 3 (setInst src inst { recoveringInst src inst s with state := .clear } (quietPassed src inst s))

theorem exec_faultQuietExpiry_passed {src inst : Byte} (hs : (sumpInst s src.toNat inst.toNat).state = .active)
    (hh : heldForRelease s src.toNat inst.toNat = false)
    (hn : mayHavePassed s (sumpInst s src.toNat inst.toNat).quietFrom (sumpInst s src.toNat inst.toNat).quiet = true) :
    exec (.faultQuietExpiry src inst) s = .next (quietEnded src.toNat inst.toNat s) := by
  simp only [exec, execFaultQuietExpiry, hs, hh, hn, ne_eq, not_true_eq_false, Bool.not_true, Bool.false_eq_true, or_self, if_false,
    quietEnded]
  split <;> rfl

theorem exec_faultQuietExpiry_stays {src inst : Byte} (h : (sumpInst s src.toNat inst.toNat).state ≠ .active ∨
    heldForRelease s src.toNat inst.toNat = true ∨
    mayHavePassed s (sumpInst s src.toNat inst.toNat).quietFrom (sumpInst s src.toNat inst.toNat).quiet = false) :
    exec (.faultQuietExpiry src inst) s = .next s := by
  have stays : (sumpInst s src.toNat inst.toNat).state ≠ .active ∨ heldForRelease s src.toNat inst.toNat = true ∨
      (!mayHavePassed s (sumpInst s src.toNat inst.toNat).quietFrom (sumpInst s src.toNat inst.toNat).quiet) = true := by
    simpa using h
  exact if_pos stays

theorem sumpOnly_quietPassed (src inst : Nat) (s : State) : SumpOnly s (quietPassed src inst s) :=
  (sumpOnly_setInst _ _ _ s).trans (sumpOnly_faultEvent _ _ _ _)

theorem sumpOnly_quietEnded (src inst : Nat) (s : State) : SumpOnly s (quietEnded src inst s) := by
  unfold quietEnded
  split
  · exact sumpOnly_quietPassed src inst s
  · exact (sumpOnly_quietPassed src inst s).trans ((sumpOnly_setInst _ _ _ _).trans (sumpOnly_faultEvent _ _ _ _))

theorem sumpInst_quietEnded (src inst : Nat) (s : State) :
    sumpInst (quietEnded src inst s) src inst =
      { recoveringInst src inst s with state := if retries src then .recovering else .clear } := by
  unfold quietEnded
  split
  · rw [quietPassed, sumpInst_faultEvent, sumpInst_setInst_self]; rfl
  · rw [sumpInst_faultEvent, sumpInst_setInst_self]

theorem sumpInst_quietEnded_ne {k n : Nat} (s : State) (h : k * 256 + n ≠ src * 256 + inst) :
    sumpInst (quietEnded src inst s) k n = sumpInst s k n := by
  have passed : sumpInst (quietPassed src inst s) k n = sumpInst s k n := by
    rw [quietPassed, sumpInst_faultEvent, sumpInst_setInst_ne _ _ h]
  unfold quietEnded
  split
  · exact passed
  · rw [sumpInst_faultEvent, sumpInst_setInst_ne _ _ h, passed]

theorem quietEnded_fences (src inst : Nat) (s : State) : (quietEnded src inst s).sump.fences = s.sump.fences := by
  unfold quietEnded
  split
  · rw [quietPassed, faultEvent_sump]; rfl
  · rw [faultEvent_sump, setInst, quietPassed, faultEvent_sump]; rfl

/-! SUMP_QUERY and SUMP_CLEAR (R463). -/

section SumpCommands

variable {h : CmdHdr}

@[simp] theorem sumpInst_takenState (h : CmdHdr) (s : State) (k n : Nat) : sumpInst (takenState h s) k n = sumpInst s k n := by
  rw [sumpInst, takenState_sump, sumpInst]

@[simp] theorem unitLatched_takenState (h : CmdHdr) (s : State) (u : FenceUnit) : unitLatched (takenState h s) u = unitLatched s u := by
  rw [unitLatched, takenState_sump, unitLatched]

theorem exec_sumpQuery_run {a : SumpQueryArgs} (ht : Taken h false s)
    (hc : a.first.toNat + a.countM1.toNat + 1 ≤ (sumpSource a.source.toNat).elim 0 (fun x => x.instances))
    (ha : aligned8 a.resultAddr = true) :
    exec (.sumpQuery h a) s = .next (settle (resultThen (ticketOf h s) a.resultAddr.toNat
      ((List.range (a.countM1.toNat + 1)).flatMap fun k => sumpRecord (takenState h s) a.source.toNat (a.first.toNat + k)) 0
      (takenState h s))) := by
  have valid : (decide ((sumpSource a.source.toNat).elim 0 (fun x => x.instances) < a.first.toNat + (a.countM1.toNat + 1)) ||
      !aligned8 a.resultAddr) = false := by
    rw [ha, decide_eq_false (by omega)]; rfl
  rw [exec_sumpQuery, execSumpQuery, untimedCmd_run ht valid]
  rfl

/-- A HALT latch, which SUMP_CLEAR leaves. -/
def haltLatched (s : State) (src n : Nat) : Bool :=
  decide ((sumpInst s src n).state = .latched) && decide ((sumpInst s src n).sev = 6)

/-- What SUMP_CLEAR does to one record; the flag says that a latch refuses the release. -/
def clearOne (action src n : Nat) (s : State) : Bool × State :=
  let s1 := if bitOf action 0 then clearLatch src s n else s
  if bitOf action 1 then releaseOne src (false, s1) n else (false, s1)

theorem exec_sumpClear_one {a : SumpClearArgs} (ht : Taken h false s)
    (hi : a.inst.toNat < (sumpSource a.source.toNat).elim 0 (fun x => x.instances)) (hz : a.action.toNat ≠ 0)
    (ha : a.action.toNat < 4) :
    exec (.sumpClear h a) s = .next (settle (complete (ticketOf h s)
      (if haltLatched s a.source.toNat a.inst.toNat then 6
        else if (clearOne a.action.toNat a.source.toNat a.inst.toNat (takenState h s)).1 then 0x40 else 0) 0
      (clearOne a.action.toNat a.source.toNat a.inst.toNat (takenState h s)).2)) := by
  have one : bitOf a.action.toNat 2 = false := by
    have fits : a.action.toNat / 2 ^ 2 = 0 := Nat.div_eq_of_lt ha
    rw [bitOf, fits]; rfl
  have valid : (decide ((sumpSource a.source.toNat).elim 0 (fun x => x.instances) = 0) || decide (a.action.toNat = 0) ||
      decide (8 ≤ a.action.toNat) ||
      (!bitOf a.action.toNat 2 && decide ((sumpSource a.source.toNat).elim 0 (fun x => x.instances) ≤ a.inst.toNat))) = false := by
    rw [decide_eq_false (by omega), decide_eq_false hz, decide_eq_false (by omega), decide_eq_false (by omega), Bool.and_false]; rfl
  rw [exec_sumpClear, execSumpClear, untimedCmd_run ht valid]
  simp only [one, Bool.false_eq_true, if_false, List.any_cons, List.any_nil, Bool.or_false, List.foldl_cons, List.foldl_nil,
    sumpInst_takenState, haltLatched, clearOne, fin]
  rfl

theorem haltLatched_iff (s : State) (src n : Nat) :
    haltLatched s src n = true ↔ (sumpInst s src n).state = .latched ∧ (sumpInst s src n).sev = 6 := by
  simp [haltLatched]

theorem haltLatched_false {n : Nat} (h : (sumpInst s src n).state ≠ .latched ∨ (sumpInst s src n).sev ≠ 6) :
    haltLatched s src n = false := by
  rw [Bool.eq_false_iff, ne_eq, haltLatched_iff]
  tauto

theorem clearLatch_halt {n : Nat} (hs : (sumpInst s src n).sev = 6) : clearLatch src s n = s := if_pos (Or.inr hs)

theorem releaseOne_halt {n : Nat} {x : Bool × State} (hl : (sumpInst x.2 src n).state = .latched) (hs : (sumpInst x.2 src n).sev = 6) :
    releaseOne src x n = x := by
  unfold releaseOne
  split
  · exact if_pos (Or.inr (Or.inr ⟨hl, hs⟩))
  · rfl

theorem clearOne_halt {action n : Nat} (hl : (sumpInst s src n).state = .latched) (hs : (sumpInst s src n).sev = 6) :
    clearOne action src n s = (false, s) := by
  simp only [clearOne, clearLatch_halt hs, ite_self, releaseOne_halt (x := (false, s)) hl hs]

/-- A release of a held unit, where no HALT latch stands. -/
theorem clearOne_release {n : Nat} (hu : fenceUnit src n = some u) (hr : hostReleased u = true) (hf : fenced s u = true)
    (hh : (sumpInst s src n).state ≠ .latched ∨ (sumpInst s src n).sev ≠ 6) :
    clearOne 2 src n s = if unitLatched s u then (true, s) else (false, releaseUnit src n u s) := by
  have free : ¬ ((!hostReleased u) = true ∨ (!fenced s u) = true ∨
      ((sumpInst s src n).state = .latched ∧ (sumpInst s src n).sev = 6)) := by
    rw [hr, hf]
    simp only [Bool.not_true, Bool.false_eq_true, false_or]
    tauto
  have bits : bitOf 2 0 = false ∧ bitOf 2 1 = true := by decide
  simp only [clearOne, bits.1, bits.2, Bool.false_eq_true, if_false, if_true, releaseOne, hu, if_neg free]

end SumpCommands

@[simp] theorem sumpInst_unfenceCh (c : Fin 8) (s : State) (k n : Nat) : sumpInst (unfenceCh c s) k n = sumpInst s k n := by
  unfold unfenceCh
  split
  · exact sumpInst_faultEvent _ _ _ _ _ _
  · rfl

@[simp] theorem sumpInst_chMod (c : Fin 8) (f : PsCh → PsCh) (s : State) (k n : Nat) : sumpInst (chMod c f s) k n = sumpInst s k n :=
  rfl

/-- Clearing a latch empties its window and keeps its count of raises. -/
theorem sumpInst_clearLatch {n : Nat} (hl : (sumpInst s src n).state = .latched) (hs : (sumpInst s src n).sev ≠ 6) :
    sumpInst (clearLatch src s n) src n =
      { sumpInst s src n with state := .clear, window := [], lastTick := now s, sev := 0 } := by
  have latched : ¬ ((sumpInst s src n).state ≠ .latched ∨ (sumpInst s src n).sev = 6) := by
    simp only [not_or, not_not]
    exact ⟨hl, hs⟩
  simp only [clearLatch, if_neg latched]
  split
  · rw [sumpInst_unfenceCh, sumpInst_chMod, sumpInst_faultEvent, sumpInst_setInst_self]
  · rw [sumpInst_faultEvent, sumpInst_setInst_self]

/-- The fence of a unit is lifted, and QUIET of its active instances begins. -/
def fenceLifted (src n : Nat) (u : FenceUnit) (s : State) : State :=
  faultEvent src n 7 (startQuiet u { s with sump := { s.sump with fences := s.sump.fences.filter fun f => decide (f.1 ≠ u) } })

theorem releaseUnit_ofNotLink (n : Nat) (s : State) (h : ∀ l, u ≠ .link l) : releaseUnit src n u s = fenceLifted src n u s := by
  cases u with
  | link l => exact absurd rfl (h l)
  | _ => rfl

theorem fenced_fenceLifted (src n : Nat) (u : FenceUnit) (s : State) : fenced (fenceLifted src n u s) u = false := by
  rw [fenceLifted, fenced_faultEvent]
  simp [fenced, startQuiet]

theorem sumpOnly_fenceLifted (src n : Nat) (u : FenceUnit) (s : State) : SumpOnly s (fenceLifted src n u s) :=
  SumpOnly.trans ⟨_, _, rfl⟩ (sumpOnly_faultEvent _ _ _ _)

end SumpRecords

/-- Settles O50: a raise by the state of its record, the end of the quiet period by `quietEnded`, and SUMP_CLEAR by what it does
to its one record. -/
theorem faultsRaisedQuietedAndCleared : Obligations.FaultsRaisedQuietedAndCleared := by
  unfold Obligations.FaultsRaisedQuietedAndCleared
  refine ⟨fun _ _ _ _ => raise_ignored, ?_, ?_, fun _ _ _ _ _ => raise_latched, ?_, fun _ _ _ => exec_faultQuietExpiry_stays,
    fun _ _ _ => exec_sumpQuery_run, ?_, ?_, ?_, ?_, ?_, ?_⟩
  · intro src inst d x s hx hi hsev hp hc hlim
    have onlySeverity : latches src inst s = decide (5 ≤ severity s src) := by simp [latches, hlim]
    have outcome : (if latches src inst s then FaultState.latched else .active) = if severity s src < 5 then .active else .latched := by
      rw [onlySeverity]
      by_cases low : severity s src < 5 <;> simp [low, Nat.not_le.mpr, Nat.not_lt.mp]
    rw [sumpInst_raise_clear d hx hi hsev hp hc]
    exact ⟨outcome, rfl, rfl, rfl, rfl, rfl, raise_clear_halted d hx hi hsev hp hc⟩
  · intro src inst d x u s hx hi hsev hp hc hu
    exact fenced_raise_clear d hx hi hsev hp hc hu
  · intro src inst s hs hh hn
    refine ⟨_, exec_faultQuietExpiry_passed hs hh hn, (sumpOnly_quietEnded _ _ s).eq, ?_, ?_, ?_, quietEnded_fences _ _ s,
      fun k n hk => sumpInst_quietEnded_ne s hk⟩ <;> rw [sumpInst_quietEnded] <;> rfl
  · intro h a s ht hi ha hh
    have action : a.action.toNat = 1 := by rw [ha]; rfl
    rw [exec_sumpClear_one ht hi (by omega) (by omega), haltLatched_false hh, action]
    rfl
  · intro h a s ht hi ha hl hs
    have action : a.action.toNat ≠ 0 ∧ a.action.toNat < 4 := by
      rcases ha with ha | ha | ha <;> rw [ha] <;> decide
    rw [exec_sumpClear_one ht hi action.1 action.2, (haltLatched_iff _ _ _).mpr ⟨hl, hs⟩,
      clearOne_halt (by rwa [sumpInst_takenState]) (by rwa [sumpInst_takenState])]
    rfl
  · intro h a u s ht hi ha hu hr hf hun hl
    have action : a.action.toNat = 2 := by rw [ha]; rfl
    rw [exec_sumpClear_one ht hi (by omega) (by omega), haltLatched_false (Or.inl hl), action,
      clearOne_release hu hr (by rwa [fenced_takenState]) (by rw [sumpInst_takenState]; exact Or.inl hl), unitLatched_takenState, hun]
    rfl
  · intro h a u s ht hi ha hu hr hf hun hh
    have action : a.action.toNat = 2 := by rw [ha]; rfl
    rw [exec_sumpClear_one ht hi (by omega) (by omega), haltLatched_false hh, action,
      clearOne_release hu hr (by rwa [fenced_takenState]) (by rwa [sumpInst_takenState]), unitLatched_takenState, hun]
    rfl
  · intro src n s hl hs
    rw [sumpInst_clearLatch hl hs]
    exact ⟨rfl, rfl, rfl⟩
  · intro src n u s hu
    rw [releaseUnit_ofNotLink n s hu]
    exact ⟨fenced_fenceLifted src n u s, (sumpOnly_fenceLifted src n u s).eq⟩

end Sys2Proof.Machine

namespace Sys2Proof.Machine

/-! Two-party protection (R465–R469, R476): the registers a raise leaves, a refusal, and what each command does by the proposal
that stands. -/

section RaiseRegisters

variable {off : Nat}

@[simp] theorem faultEvent_regs (src inst k : Nat) (s : State) : (faultEvent src inst k s).regs = s.regs := by rw [faultEvent_eq]

@[simp] theorem fenceFor_regs (src inst : Nat) (s : State) : (fenceFor src inst s).regs = s.regs := by
  unfold fenceFor
  split
  · rfl
  · split
    · rfl
    · rw [faultEvent_regs]

theorem regGet_of_regs {s t : State} (h : t.regs = s.regs) : regGet t off = regGet s off := by rw [regGet, h, regGet]

theorem regGet_requestService (sev : Nat) (s : State) (h : ∀ n : Fin 2, off ≠ Reg.mbTgtReq n) :
    regGet (requestService sev s) off = regGet s off := by
  refine foldl_same (fun s => regGet s off) (fun s n => ?_) _ s
  dsimp only
  split
  · exact regGet_regSetFld_ne _ _ _ _ (h n)
  · rfl

/-- A raise writes no register but the two requests for service (R448). -/
theorem regGet_raise (src inst detail : Nat) (s : State) (h : ∀ n : Fin 2, off ≠ Reg.mbTgtReq n) :
    regGet (raise src inst detail s) off = regGet s off := by
  have recorded (k sev : Nat) (x : SumpInst) :
      regGet (faultEvent src inst k (requestService sev (setInst src inst x s))) off = regGet s off := by
    rw [regGet_of_regs (faultEvent_regs _ _ _ _), regGet_requestService _ _ h]
    rfl
  have fencedToo (t : State) (ht : regGet t off = regGet s off) (q : Prop) [Decidable q] :
      regGet (if q then fenceFor src inst t else t) off = regGet s off := by
    split
    · rw [regGet_of_regs (fenceFor_regs _ _ _), ht]
    · exact ht
  unfold raise
  split
  · rfl
  · dsimp only
    split
    · rfl
    · split
      · rfl
      · split
        · split
          · exact fencedToo _ (recorded _ _ _) (4 ≤ severity s src)
          · exact fencedToo _ (recorded _ _ _) (4 ≤ severity s src)
        · split
          · exact fencedToo (setInst src inst _ s) rfl (4 ≤ severity s src)
          · exact fencedToo _ (recorded _ _ _) (4 ≤ severity s src)

end RaiseRegisters

section Protection

variable {path : AccessPath} {off c n : Nat} {v : Word} {s : State}

/-- A write in the protection registers is judged by the class of its path (R466). -/
theorem busWrite_prot (hp : path ≠ .mb0) (ho : regsOpen s = true) (hr : (regRow off).isSome = true) (hlo : 0x9000 ≤ off)
    (hhi : off < 0xA000) : busWrite path off v s = protWrite path off v s := by
  obtain ⟨r, hr⟩ := Option.isSome_iff_exists.mp hr
  rw [busWrite_open hp ho]
  simp only [regWrite, hr, if_pos (And.intro hlo hhi)]

theorem protWrite_noClass (h : pathClass path = 3) : protWrite path off v s = refuse 3 10 0 s := if_pos h

theorem path_ne_mb0 (h : pathClass path ≠ 3) : path ≠ .mb0 := by
  rintro rfl
  exact h rfl

theorem busWrite_protCmd (hc : pathClass path ≠ 3) (ho : regsOpen s = true) :
    busWrite path Reg.protCmd v s = protCmd (pathClass path) v s := by
  rw [busWrite_prot (path_ne_mb0 hc) ho (by decide) (by decide) (by decide)]
  simp only [protWrite, if_neg hc, if_true]

theorem busWrite_protConfirm (hc : pathClass path ≠ 3) (ho : regsOpen s = true) :
    busWrite path Reg.protConfirm v s = protConfirm (pathClass path) v s := by
  have notCmd : Reg.protConfirm ≠ Reg.protCmd := by decide
  rw [busWrite_prot (path_ne_mb0 hc) ho (by decide) (by decide) (by decide)]
  simp only [protWrite, if_neg hc, if_neg notCmd, if_true]

theorem busWrite_prot_dma (ho : regsOpen s = true) (hr : (regRow off).isSome = true) (hlo : 0x9000 ≤ off) (hhi : off < 0xA000) :
    fin (busWrite .dma off v s) = .next (settle (refuse 3 10 0 s)) := by
  rw [busWrite_prot (by decide) ho hr hlo hhi, protWrite_noClass rfl, fin]

theorem items_all (s : State) (n : Nat) : (List.range n).all (itemOk s) = true ↔ ∀ k, k < n → itemOk s k = true := by
  simp [List.all_eq_true]

theorem propose_class (hc : c < 3) (hs : s.prot.proposed = false) :
    propose c n s =
      if n = 0 ∨ 16 < n ∨ !(List.range n).all (itemOk s) then { s with prot := { s.prot with lastResult := 2 } }
      else { s with
        prot := { s.prot with proposed := true, classA := ⟨c % 4, Nat.mod_lt _ (by decide)⟩, count := n,
                                nonce := BitVec.ofNat 32 (Config.freeValue s.free % 2 ^ 32 % (2 ^ 32 - 1) + 1), proposedAt := s.time.refTime },
        free := s.free + 1 } := by
  rw [propose, if_neg (by omega), if_neg (by simp [hs])]
  rfl

theorem nonce_ne_zero (x : Nat) : BitVec.ofNat 32 (x % (2 ^ 32 - 1) + 1) ≠ 0 := by
  intro h
  have value := congrArg BitVec.toNat h
  have small : x % (2 ^ 32 - 1) < 2 ^ 32 - 1 := Nat.mod_lt _ (by decide)
  rw [BitVec.toNat_ofNat, Nat.mod_eq_of_lt (by omega)] at value
  exact absurd value (Nat.succ_ne_zero _)

theorem propose_busy (hc : c < 3) (hs : s.prot.proposed = true) : propose c n s = refuse c 5 0 s := by
  simp only [propose, show c ≠ 3 by omega, hs, if_false, if_true]; rfl

theorem withdraw_idle (hc : c < 3) (hs : s.prot.proposed = false) : withdraw c s = refuse c 8 0 s := by
  simp only [withdraw, show c ≠ 3 by omega, hs, Bool.not_false, if_false, if_true]; rfl

theorem withdraw_standing (hc : c < 3) (hs : s.prot.proposed = true) :
    withdraw c s = if s.prot.classA.val = c then
      { s with prot := { s.prot with proposed := false, nonce := 0, count := 0, lastResult := 3 } } else refuse c 5 0 s := by
  simp only [withdraw, show c ≠ 3 by omega, hs, Bool.not_true, Bool.false_eq_true, if_false, ne_eq, ite_not]; rfl

theorem protConfirm_idle (hc : c < 3) (hs : s.prot.proposed = false) : protConfirm c v s = refuse c 8 0 s := by
  simp only [protConfirm, show c ≠ 3 by omega, hs, Bool.not_false, if_false, if_true]; rfl

theorem protConfirm_sameClass (hc : c < 3) (hs : s.prot.proposed = true) (hk : s.prot.classA.val = c) :
    protConfirm c v s = refuse c 6 0 s := by
  simp only [protConfirm, show c ≠ 3 by omega, hs, hk, Bool.not_true, Bool.false_eq_true, if_false, if_true]; rfl

/-- A confirmation by another class goes by the check value (R467). -/
theorem protConfirm_otherClass (hc : c < 3) (hs : s.prot.proposed = true) (hk : s.prot.classA.val ≠ c) :
    protConfirm c v s = if v = crc32c (proposalBytes s)
      then commitProposal (crcLeft 6 (crc32c (proposalBytes s)) (proposalBytes s).length s)
      else refuse c 7 0 (endProposal (crcLeft 6 (crc32c (proposalBytes s)) (proposalBytes s).length s)) := by
  simp only [protConfirm, show c ≠ 3 by omega, hs, hk, Bool.not_true, Bool.false_eq_true, if_false]; rfl

theorem severityChanged_prot (src old : Nat) (s : State) : (severityChanged src old s).prot = s.prot := by
  unfold severityChanged
  split
  · refine foldl_same State.prot (fun s n => ?_) _ s
    dsimp only
    split <;> rfl
  · rfl

theorem applyItem_prot (s : State) (k : Nat) : (applyItem s k).prot = s.prot := by
  unfold applyItem
  dsimp only
  split
  · rw [severityChanged_prot]; rfl
  · rfl

/-- An item outside the severity registers writes its own register under its mask, and no other (R467). -/
theorem applyItem_eq {k : Nat} (h : (protItem s k 0).toNat < 0x8400 ∨ 0x8800 ≤ (protItem s k 0).toNat) :
    applyItem s k = regSet (protItem s k 0).toNat
      ((regGet s (protItem s k 0).toNat &&& ~~~ (protItem s k 2)) ||| protItem s k 1) s := by
  have notSeverity : ¬ (0x8400 ≤ (protItem s k 0).toNat ∧ (protItem s k 0).toNat < 0x8800) := by omega
  simp only [applyItem, if_neg notSeverity]

theorem commitProposal_prot (s : State) :
    (commitProposal s).prot =
      { s.prot with
        proposed := false, nonce := 0, count := 0, lastResult := 1, commitSeq := satN 16 (s.prot.commitSeq + 1), storeBusy := true } := by
  simp only [commitProposal, protMod, endProposal, foldl_same State.prot applyItem_prot]

theorem regGet_commitProposal_one (h : s.prot.count = 1) : regGet (commitProposal s) off = regGet (applyItem s 0) off := by
  simp only [commitProposal, h, List.range_one, List.foldl_cons, List.foldl_nil]
  rfl

theorem prot_ne_mbTgtReq (ho : off < 0xB000) : ∀ n : Fin 2, off ≠ Reg.mbTgtReq n := by
  intro n
  simp only [Reg.mbTgtReq]
  omega

/-- A refusal is counted and recorded (R468). -/
theorem refuse_records (c r w : Nat) (s : State) :
    (refuse c r w s).prot = { s.prot with lastResult := r } ∧
    regGet (refuse c r w s) Reg.protLastRefuse = BitVec.ofNat 32 (c % 4 + r * 16 + w * 65536) ∧
    regGet (refuse c r w s) Reg.protRefuseCount =
      BitVec.ofNat 32 (satN 32 ((regGet s Reg.protRefuseCount).toNat + 1)) := by
  refine ⟨?_, ?_, ?_⟩
  · exact (outer_raise _ _ _ _ (Outer.refl _)).prot
  · rw [refuse, regGet_raise _ _ _ _ (prot_ne_mbTgtReq (by decide)), regGet_regSet_self]
  · rw [refuse, regGet_raise _ _ _ _ (prot_ne_mbTgtReq (by decide)), regGet_regSet_ne _ _ (by decide), regGet_bump_self]
    rfl

end Protection

/-- Settles O51: each command by the class that writes it and by whether a proposal stands. -/
theorem protectedValuesTakeTwoClasses : Obligations.ProtectedValuesTakeTwoClasses := by
  unfold Obligations.ProtectedValuesTakeTwoClasses
  refine ⟨?_, ?_, ?_, ?_, ?_, ?_, fun _ _ _ => propose_busy, fun _ _ => withdraw_standing, fun _ _ => withdraw_idle,
    fun _ _ _ => protConfirm_idle, fun _ _ _ => protConfirm_sameClass, ?_, ?_, commitProposal_prot, ?_, refuse_records, ?_, ?_, ?_,
    ?_⟩
  · intro path v s hc ho hv
    show fin (busWrite path Reg.protCmd v s) = _
    simp only [busWrite_protCmd hc ho, protCmd, hv, fin]
  · intro path v s hc ho hv
    show fin (busWrite path Reg.protCmd v s) = _
    simp only [busWrite_protCmd hc ho, protCmd, hv, fin]
  · intro path v s hc ho
    show fin (busWrite path Reg.protConfirm v s) = _
    rw [busWrite_protConfirm hc ho, fin]
  · intro v s ho
    exact ⟨busWrite_prot_dma ho (by decide) (by decide) (by decide), busWrite_prot_dma ho (by decide) (by decide) (by decide),
      busWrite_prot_dma ho (by decide) (by decide) (by decide)⟩
  · intro c n s hc hs hn hm hi
    have valid : ¬ (n = 0 ∨ 16 < n ∨ (!(List.range n).all (itemOk s)) = true) := by
      rw [(items_all s n).mpr hi]
      simp only [Bool.not_true, Bool.false_eq_true, or_false]
      omega
    rw [propose_class hc hs, if_neg valid]
    exact ⟨rfl, Nat.mod_eq_of_lt (by omega), rfl, nonce_ne_zero _, rfl, rfl⟩
  · intro c n s hc hs hbad
    have failed : n = 0 ∨ 16 < n ∨ (!(List.range n).all (itemOk s)) = true := by
      refine hbad.imp_right (Or.imp_right ?_)
      rintro ⟨k, hk, hbad⟩
      rw [Bool.not_eq_true', Bool.eq_false_iff, ne_eq, items_all]
      intro hall
      simp [hall k hk] at hbad
    rw [propose_class hc hs, if_pos failed]
  · intro c v s hc hs hk hv
    rw [protConfirm_otherClass hc hs hk, if_neg hv]
  · intro c s hc hs hk
    rw [protConfirm_otherClass hc hs hk, if_pos rfl]
  · rintro o s h rfl hr
    refine ⟨?_, fun off hoff => ?_⟩
    · rw [regGet_commitProposal_one h, applyItem_eq hr, regGet_regSet_self]
    · rw [regGet_commitProposal_one h, applyItem_eq hr, regGet_regSet_ne _ _ hoff]
  · intro s hs hn
    exact if_pos ⟨hs, hn⟩
  · intro s h
    refine if_neg fun due => ?_
    rcases h with h | h
    · simp [h] at due
    · simp [h] at due
  · intro s hs
    exact if_pos hs
  · intro s hs
    exact if_neg (by simp [hs])

end Sys2Proof.Machine

namespace Sys2Proof.Machine

/-! Ageing (R470–R474): the supply adjustment, proposals, the survey and AGE_DECIDE. -/

section Ageing

variable {s : State} {w : BitVec 16}

/-- 10 s have passed since the last adjustment, and the adjustment is enabled (R471). -/
def mayAdjust (s : State) : Bool :=
  regBit s Reg.ageCtrl 0 &&
    (match s.wear.lastAdjust with | some t => decide (t + 10 * refSecond ≤ s.time.refTime) | none => true)

/-- The worst margin is recorded (R470). -/
def marginTaken (w : BitVec 16) (s : State) : State := { s with wear := { s.wear with marginPs := w.toNat } }

/-- The supply moves by `d` steps. -/
def supplyStepped (w : BitVec 16) (d : Int) (s : State) : State :=
  { s with wear := { s.wear with marginPs := w.toNat, vddSteps := s.wear.vddSteps + d, lastAdjust := some s.time.refTime } }

theorem exec_ageVddAdjust (w : BitVec 16) (s : State) :
    exec (.ageVddAdjust w) s =
      if w.toNat < 40 then
        if 10 ≤ s.wear.vddSteps then .next (settle (proposeStep (raise Src.ageVddLimit 0 0 (marginTaken w s))))
        else if mayAdjust s then .next (supplyStepped w 1 s) else .next (marginTaken w s)
      else if 80 < w.toNat ∧ mayAdjust s ∧ -10 < s.wear.vddSteps then .next (supplyStepped w (-1) s)
      else .next (marginTaken w s) := rfl

theorem mayAdjust_due (he : regBit s Reg.ageCtrl 0 = true)
    (hl : ∀ t, s.wear.lastAdjust = some t → t + 10 * refSecond ≤ s.time.refTime) : mayAdjust s = true := by
  rw [mayAdjust, he, Bool.true_and]
  cases hx : s.wear.lastAdjust with
  | none => rfl
  | some t => exact decide_eq_true (hl t hx)

theorem mayAdjust_not (h : regBit s Reg.ageCtrl 0 = false ∨ ∃ t, s.wear.lastAdjust = some t ∧ s.time.refTime < t + 10 * refSecond) :
    mayAdjust s = false := by
  rcases h with he | ⟨t, ht, hn⟩
  · rw [mayAdjust, he, Bool.false_and]
  · have early : decide (t + 10 * refSecond ≤ s.time.refTime) = false := decide_eq_false (Nat.not_le.mpr hn)
    simp only [mayAdjust, ht, early, Bool.and_false]

theorem proposeAge_new {kind target value : Nat} (h : proposalPending s kind target = false) :
    proposeAge kind target value s =
      report 0x0F30 kind (leBytes 2 (s.wear.nextId + 1).toNat ++ leBytes 2 target ++ leBytes 2 value)
        { s with wear := { s.wear with
                            nextId := s.wear.nextId + 1
                            proposals := s.wear.proposals ++ [{ id := s.wear.nextId + 1, kind := kind, target := target, value := BitVec.ofNat 16 value }] } } := by
  rw [proposeAge, h]; rfl

/-- A proposal changes the list of proposals and the next ID alone in the record of wear. -/
theorem proposeAge_wear (kind target value : Nat) (s : State) :
    (proposeAge kind target value s).wear =
      { s.wear with
        nextId := (proposeAge kind target value s).wear.nextId
        proposals := (proposeAge kind target value s).wear.proposals } := by
  unfold proposeAge
  split <;> rfl

theorem raise_wear (src inst detail : Nat) (s : State) : (raise src inst detail s).wear = s.wear :=
  (outer_raise src inst detail s (Outer.refl s)).wear

theorem surveyEye_ron_boost (s : State) (e : Fin 16 × Byte × Byte × BitVec 4 × BitVec 5) :
    (surveyEye s e).wear.ron = s.wear.ron ∧ (surveyEye s e).wear.boost = s.wear.boost := by
  unfold surveyEye
  dsimp only
  split
  · rw [proposeAge_wear]
    exact ⟨rfl, rfl⟩
  · exact ⟨rfl, rfl⟩

/-- The retention is recorded; the rest of the record, but for a proposal, stays (R470). -/
theorem surveyRetention_wear (r : BitVec 16) (s : State) :
    (surveyRetention r s).wear.retention = r ∧ (surveyRetention r s).wear.ron = s.wear.ron ∧
      (surveyRetention r s).wear.boost = s.wear.boost ∧ (surveyRetention r s).wear.eyes = s.wear.eyes := by
  unfold surveyRetention
  dsimp only
  split
  · rw [proposeAge_wear]
    exact ⟨rfl, rfl, rfl, rfl⟩
  · exact ⟨rfl, rfl, rfl, rfl⟩

/-- The eyes of a survey, where bit 1 of AGE_CTRL asks for them. -/
def eyesSurveyed (r : SurveyResult) (s : State) : State :=
  if regBit s Reg.ageCtrl 1 then
    (r.eyes.filter fun e => decide (s.links[e.1].state = .attached) || decide (s.links[e.1].state = .discovered)).foldl surveyEye s
  else s

/-- The retention of a survey, where bit 2 of AGE_CTRL asks for it. -/
def retentionSurveyed (r : SurveyResult) (s : State) : State :=
  match r.retention with
  | some m => if regBit s Reg.ageCtrl 2 then surveyRetention m (eyesSurveyed r s) else eyesSurveyed r s
  | none => eyesSurveyed r s

/-- The driver resistances and the boosts of a survey. -/
def driversSurveyed (r : SurveyResult) (s : State) : State :=
  wearMod (fun w => { w with
    ron := r.ron.foldl (fun v e => vset v e.1 e.2) w.ron, boost := r.boost.foldl (fun v e => vset v e.1 e.2) w.boost })
    (retentionSurveyed r s)

/-- A worn driver proposes a derating. -/
def wornProposed (r : SurveyResult) (s : State) : State :=
  if (r.ron.any fun e => decide (20 < e.2.toNat)) || (r.boost.any fun e => decide (25 < e.2.toNat)) then
    proposeAge 3 0 (32 + r.derate.toNat % 32) (driversSurveyed r s)
  else driversSurveyed r s

/-- The whole survey: an aged oscillator is raised. -/
def surveyed (r : SurveyResult) (s : State) : State :=
  if 1000 < (signed 16 s.clock.ageing.toNat).natAbs then raise Src.ageMarginLow 4 0 (wornProposed r s) else wornProposed r s

theorem exec_ageSurvey (r : SurveyResult) (s : State) : exec (.ageSurvey r) s = .next (settle (surveyed r s)) := rfl

theorem eyesSurveyed_ron_boost (r : SurveyResult) (s : State) :
    (eyesSurveyed r s).wear.ron = s.wear.ron ∧ (eyesSurveyed r s).wear.boost = s.wear.boost := by
  unfold eyesSurveyed
  split
  · exact ⟨foldl_same (fun s => s.wear.ron) (fun s e => (surveyEye_ron_boost s e).1) _ s,
      foldl_same (fun s => s.wear.boost) (fun s e => (surveyEye_ron_boost s e).2) _ s⟩
  · exact ⟨rfl, rfl⟩

theorem retentionSurveyed_wear (r : SurveyResult) (s : State) :
    (retentionSurveyed r s).wear.ron = s.wear.ron ∧ (retentionSurveyed r s).wear.boost = s.wear.boost ∧
      (retentionSurveyed r s).wear.eyes = (eyesSurveyed r s).wear.eyes := by
  obtain ⟨ron, boost⟩ := eyesSurveyed_ron_boost r s
  unfold retentionSurveyed
  split
  · next m _ =>
    split
    · obtain ⟨-, ron', boost', eyes'⟩ := surveyRetention_wear m (eyesSurveyed r s)
      exact ⟨ron'.trans ron, boost'.trans boost, eyes'⟩
    · exact ⟨ron, boost, rfl⟩
  · exact ⟨ron, boost, rfl⟩

theorem retentionSurveyed_retention {r : SurveyResult} {m : BitVec 16} (hm : r.retention = some m) (he : regBit s Reg.ageCtrl 2 = true) :
    (retentionSurveyed r s).wear.retention = m := by
  simp only [retentionSurveyed, hm, he, if_true]
  exact (surveyRetention_wear m _).1

/-- What the survey leaves in the record of wear is what its drivers step left, but for proposals. -/
theorem surveyed_wear (r : SurveyResult) (s : State) :
    (surveyed r s).wear =
      { (driversSurveyed r s).wear with nextId := (surveyed r s).wear.nextId, proposals := (surveyed r s).wear.proposals } := by
  have worn : (wornProposed r s).wear =
      { (driversSurveyed r s).wear with nextId := (wornProposed r s).wear.nextId, proposals := (wornProposed r s).wear.proposals } := by
    unfold wornProposed
    split
    · exact proposeAge_wear _ _ _ _
    · rfl
  have same : (surveyed r s).wear = (wornProposed r s).wear := by
    unfold surveyed
    split
    · exact raise_wear _ _ _ _
    · rfl
  rw [same]
  exact worn

/-! ### AGE_DECIDE (R473) -/

section Decide

variable {h : CmdHdr} {a : AgeDecideArgs} {p : Proposal} {n : Nat} {late : Bool}

@[simp] theorem namedProposal_takenState (h : CmdHdr) (s : State) (a : AgeDecideArgs) :
    namedProposal (takenState h s) a = namedProposal s a := by
  rw [namedProposal, takenState_wear, namedProposal]

@[simp] theorem inPlan_takenState (h : CmdHdr) (s : State) (k : Nat) : inPlan (takenState h s) k = inPlan s k := by
  unfold inPlan
  rw [takenState_wear]

@[simp] theorem approvesStep_takenState (h : CmdHdr) (s : State) (a : AgeDecideArgs) :
    approvesStep (takenState h s) a = approvesStep s a := by
  rw [approvesStep, namedProposal_takenState, approvesStep]

@[simp] theorem programsMeet_takenState (h : CmdHdr) (s : State) (hz : Nat) : programsMeet (takenState h s) hz = programsMeet s hz := by
  rw [takenState_eq]; rfl

theorem ageRefuse_takenState (h : CmdHdr) (a : AgeDecideArgs) (s : State) : ageRefuse a (takenState h s) = ageRefuse a s := by
  unfold ageRefuse
  rw [inPlan_takenState, namedProposal_takenState]
  simp only [programsMeet_takenState]

/-- ACTION or KIND of an AGE_DECIDE has no meaning. -/
def ageDecideBad (a : AgeDecideArgs) : Bool :=
  decide (a.action.toNat = 0) || decide (3 < a.action.toNat) ||
    (decide (a.action.toNat = 3) && (decide (a.kind.toNat = 0) || decide (4 < a.kind.toNat)))

/-- What AGE_DECIDE does at acceptance: an approved clock step is remembered with its boundary. -/
def stepAccepted (a : AgeDecideArgs) (n : Nat) (t : Ticket) (s : State) : State :=
  if approvesStep s a then wearMod (fun w => { w with step := some { ticket := t, at_ := n, onFab := false, revert := false } }) s else s

/-- A decision that need not wait for the 1 ms of a clock step is a timed command at its own tick. -/
theorem exec_ageDecide_own (he : (approvesStep s a && decide (a.tick.toNat < stepTick s)) = false) :
    exec (.ageDecide h a) s =
      .next (timedCmd h a.tick (ageDecideBad a) (ageRefuse a) (stepAccepted a) (.ageDecide a) s) := by
  rw [exec_ageDecide]
  simp only [execAgeDecide, he, Bool.false_eq_true, if_false, false_and]
  rfl

theorem exec_ageDecide_held (ht : Taken h true s) (hn : schedule a.tick s = some (n, late)) (hb : ageDecideBad a = false)
    (he : (approvesStep s a && decide (a.tick.toNat < stepTick s)) = false) (hr : ageRefuse a s = none) :
    exec (.ageDecide h a) s = .next (hold n (ticketOf h s) late (.ageDecide a)
      (stepAccepted a n { ticketOf h s with late := late } (takenState h s))) := by
  rw [exec_ageDecide_own he, timedCmd_held ht hb hn (by rwa [ageRefuse_takenState])]

theorem exec_ageDecide_noStep (ht : Taken h true s) (hn : schedule a.tick s = some (n, late)) (hb : ageDecideBad a = false)
    (hs : approvesStep s a = false) (hr : ageRefuse a s = none) :
    exec (.ageDecide h a) s = .next (hold n (ticketOf h s) late (.ageDecide a) (takenState h s)) := by
  have notStep : stepAccepted a n { ticketOf h s with late := late } (takenState h s) = takenState h s := by
    rw [stepAccepted, approvesStep_takenState, hs]; rfl
  rw [exec_ageDecide_held ht hn hb (by rw [hs]; rfl) hr, notStep]

theorem approvesStep_ofAction (h : a.action.toNat ≠ 1) : approvesStep s a = false := by
  rw [approvesStep, decide_eq_false h, Bool.false_and]

theorem applyAgeDecide_approve (t : Ticket) (hp : namedProposal s a = some p) (ha : a.action = 1) :
    applyAgeDecide t a s = applyApprove t p s := by
  have action : a.action.toNat = 1 := by rw [ha]; rfl
  have approve : ¬ (1 : Nat) = 3 ∧ ¬ (1 : Nat) = 2 := by decide
  simp only [applyAgeDecide, hp, action, if_neg approve.1, if_neg approve.2]

theorem applyAgeDecide_revert {k : Nat} (t : Ticket) (ha : a.action = 3) (hk : a.kind.toNat = k) :
    applyAgeDecide t a s = applyRevert t k s := by
  have action : a.action.toNat = 3 := by rw [ha]; rfl
  rw [applyAgeDecide, if_pos action, hk]

end Decide

end Ageing

/-- Settles O52: the adjustment by the margin, the survey by what each of its steps records, and AGE_DECIDE by its action. -/
theorem ageingAdjustsSurveysAndDecides : Obligations.AgeingAdjustsSurveysAndDecides := by
  unfold Obligations.AgeingAdjustsSurveysAndDecides
  refine ⟨?_, ?_, ?_, ?_, ?_, fun _ => rfl, fun _ _ _ _ => proposeAge_new, ?_, ?_, ?_, ?_, ?_, ?_, ?_, ?_, ?_, ?_, ?_, ?_, ?_, ?_,
    ?_⟩
  · intro w s hlo hhi
    rw [exec_ageVddAdjust, if_neg (Nat.not_lt.mpr hlo), if_neg (by omega)]
    rfl
  · intro w s hw hv he hl
    rw [exec_ageVddAdjust, if_pos hw, if_neg (by omega), if_pos (mayAdjust_due he hl)]
    rfl
  · intro w s hw hv he hl
    rw [exec_ageVddAdjust, if_neg (by omega), if_pos ⟨hw, mayAdjust_due he hl, hv⟩]
    rfl
  · intro w s hn hv
    have idle : ¬ mayAdjust s = true := by rw [mayAdjust_not hn]; exact Bool.false_ne_true
    rw [exec_ageVddAdjust]
    by_cases low : w.toNat < 40
    · have below := hv low
      rw [if_pos low, if_neg (by omega), if_neg idle]
      rfl
    · rw [if_neg low, if_neg (fun x => idle x.2.1)]
      rfl
  · intro w s hw hv
    rw [exec_ageVddAdjust, if_pos hw, if_pos hv]
    rfl
  · intro r s
    obtain ⟨ron, boost, eyes⟩ := retentionSurveyed_wear r s
    refine ⟨surveyed r s, exec_ageSurvey r s, ?_, ?_, fun m hm he => ?_, fun he => ?_⟩
    · rw [surveyed_wear]
      exact congrArg (fun v => r.ron.foldl (fun v e => vset v e.1 e.2) v) ron
    · rw [surveyed_wear]
      exact congrArg (fun v => r.boost.foldl (fun v e => vset v e.1 e.2) v) boost
    · rw [surveyed_wear]
      exact retentionSurveyed_retention hm he
    · have noEyes : eyesSurveyed r s = s := by rw [eyesSurveyed, he]; rfl
      rw [surveyed_wear]
      exact eyes.trans (by rw [noEyes])
  · rintro n h v p q s _ rfl
    rfl
  · rintro r s _ rfl
    rfl
  · intro h ra s ht
    rw [exec_ageQuery, execAgeQuery, untimedCmd_run ht rfl]
    rfl
  · intro h a p s n late ht hn hp ha
    have action : a.action.toNat = 2 := by rw [ha]; rfl
    refine exec_ageDecide_noStep ht hn ?_ (approvesStep_ofAction (by omega)) ?_
    · simp [ageDecideBad, action]
    · simp [ageRefuse, action, hp]
  · intro h a p s n late ht hn hp ha hk
    have action : a.action.toNat = 1 := by rw [ha]; rfl
    refine exec_ageDecide_noStep ht hn ?_ ?_ ?_
    · simp [ageDecideBad, action]
    · simp [approvesStep, hp, hk]
    · simp [ageRefuse, action, hp, hk]
  · intro h a s n late ht hn ha hk0 hk4 hplan
    have action : a.action.toNat = 3 := by rw [ha]; rfl
    refine exec_ageDecide_noStep ht hn ?_ (approvesStep_ofAction (by omega)) ?_
    · have kind : a.kind.toNat ≠ 0 ∧ ¬ 4 < a.kind.toNat := by omega
      simp [ageDecideBad, action, kind]
    · simp [ageRefuse, action, hplan]
  · rintro h a p _ s n late ht hn hp ha hk hm hstep rfl
    have action : a.action.toNat = 1 := by rw [ha]; rfl
    have approves : approvesStep s a = true := by simp [approvesStep, action, hp, hk]
    have accepted : stepAccepted a n { ticketOf h s with late := late } (takenState h s) = { takenState h s with wear := { s.wear with
        step := some { ticket := { ticketOf h s with late := late }, at_ := n, onFab := false, revert := false } } } := by
      rw [stepAccepted, approvesStep_takenState, approves, ← takenState_wear h s]
      rfl
    rw [exec_ageDecide_held ht hn (by simp [ageDecideBad, action]) (by simp [Nat.not_lt.mpr hstep])
      (by simp [ageRefuse, action, hp, hm]), accepted]
  · intro h a s n late ht hn ha hp
    have action : a.action.toNat = 1 ∨ a.action.toNat = 2 := by
      rcases ha with ha | ha <;> rw [ha] <;> decide
    have notRevert : a.action.toNat ≠ 3 := by omega
    have notStep : approvesStep s a = false := by simp [approvesStep, hp]
    have valid : ageDecideBad a = false := by
      have range : a.action.toNat ≠ 0 ∧ ¬ 3 < a.action.toNat := by omega
      simp [ageDecideBad, range, notRevert]
    have unknown : ageRefuse a (takenState h s) = some (0x41, 0) := by
      rw [ageRefuse_takenState]
      simp [ageRefuse, notRevert, hp]
    rw [exec_ageDecide_own (by rw [notStep]; rfl), timedCmd_refused ht valid hn unknown]
  · intro t a p s hp ha
    have action : a.action.toNat = 2 := by rw [ha]; rfl
    have reject : ¬ (2 : Nat) = 3 := by decide
    simp only [applyAgeDecide, action, if_neg reject, hp, if_true]
  · intro t a p s hp ha hk
    rw [applyAgeDecide_approve t hp ha, applyApprove, hk]
    rfl
  · intro t a p s hp ha hk
    rw [applyAgeDecide_approve t hp ha, applyApprove, hk]
    rfl
  · intro t a p s hp ha hk hl hm
    rw [applyAgeDecide_approve t hp ha, applyApprove, hk]
    simp only [hl, hm, Bool.not_true, Bool.false_eq_true, if_false]
  · intro t a s ha hk hr
    rw [applyAgeDecide_revert t ha (k := 2) (by rw [hk]; rfl)]
    simp [applyRevert, inPlan, hr]
  · intro t a s ha hk hr
    rw [applyAgeDecide_revert t ha (k := 3) (by rw [hk]; rfl)]
    simp [applyRevert, inPlan, hr]

end Sys2Proof.Machine

namespace Sys2Proof.Machine

/-! Images and the configuration store (R488–R494, R500, R530). -/

section Images

variable {h : CmdHdr} {s : State} {c : Commit} {e : StepEnd}

@[simp] theorem armedFor_takenState (h : CmdHdr) (s : State) (n : Nat) : armedFor (takenState h s) n = armedFor s n := by
  rw [takenState_eq]; rfl

/-- A commit as IMG_COMMIT begins it. -/
def commitOf (h : CmdHdr) (a : ImgCommitArgs) (s : State) : Commit :=
  { ticket := ticketOf h s, slot := if a.slot.toNat = 1 then 1 else 0, svnLock := a.svnLock, length := a.length.toNat, addr := a.addr,
    step := 1, copy0 := false, svn := 0, version := 0, crc := regGet s Reg.protImgCrc }

theorem exec_imgCommit_taken {a : ImgCommitArgs} (ht : Taken h false s) (hs : a.slot.toNat ≤ 1) (ha : aligned8 a.addr = true) :
    exec (.imgCommit h a) s = .next (settle (
      if s.flash.commit.isSome then complete (ticketOf h s) 0x54 0 (takenState h s)
      else if s.power.slot.val = a.slot.toNat then complete (ticketOf h s) 0x53 0 (takenState h s)
      else if armedFor s a.slot.toNat = false then complete (ticketOf h s) 0x50 0 (takenState h s)
      else if dmaHalted s then complete (ticketOf h s) 8 0 (takenState h s)
      else flashMod (fun l => { l with commit := some (commitOf h a s) }) (consumeAuth (takenState h s)))) := by
  have valid : (decide (1 < a.slot.toNat) || !aligned8 a.addr) = false := by
    rw [ha, decide_eq_false (Nat.not_lt.mpr hs)]; rfl
  simp only [exec, execImgCommit, untimedCmd_run ht valid, takenState_flash, takenState_power, armedFor_takenState,
    dmaHalted_takenState, regGet_takenState, Bool.not_eq_true', fin]
  rfl

theorem consumeAuth_regGet (s : State) : regGet (consumeAuth s) = regGet (regSetFld Reg.protImgAuth 0 0 0 s) := rfl

theorem foldr_regSet_flash (xs : List (Nat × Word)) (s : State) :
    (xs.foldr (fun x s => regSet x.1 x.2 s) s).flash = s.flash := by
  induction xs with
  | nil => rfl
  | cons x xs ih => exact (regSet_flash _ _ _).trans ih

theorem crcImage_flash (i : ImageCheck) (s : State) : (crcImage i s).flash = s.flash := by
  unfold crcImage crcLeft
  split
  · rfl
  · exact foldr_regSet_flash _ s

theorem exec_imgCommitStepDone (hc : s.flash.commit = some c) :
    exec (.imgCommitStepDone e) s =
      if c.step = 1 then
        if e.ok = false then .next (settle (endCommit c St.busError 0 s))
        else if e.check.crc ≠ c.crc then .next (settle (endCommit c 0x51 0 (crcImage e.check s)))
        else if imageVerifies e.check s.flash.minSvn = false then .next (settle (endCommit c 0x52 0 (crcImage e.check s)))
        else .next (settle (nextStep { c with svn := imgSvn e.check, version := imgVersion e.check }
          (slotMod c.slot (fun x => { x with state := .writing, svn := 0, version := 0, crc := 0 }) (crcImage e.check s))))
      else if e.ok = false then .next (settle (flashFail c s))
      else if c.step = 4 then
        .next (settle (if e.check.crc = c.crc ∧ imageVerifies e.check s.flash.minSvn = true then nextStep c (crcImage e.check s)
          else flashFail c (crcImage e.check s)))
      else if c.step = 5 then .next (settle (flip c s))
      else .next (settle (nextStep c s)) := by
  simp only [exec, execImgCommitStepDone, hc]
  cases ok : e.ok with
  | false =>
    simp only [Bool.false_eq_true, false_and, if_false, Bool.not_false, if_true, true_or, fin]
    split
    · next one => rw [if_pos one]
    · next four => rw [if_neg (by omega)]
    · next five => rw [if_neg (by omega)]
    · next hne _ _ => rw [if_neg hne]
  | true =>
    simp only [true_and, Bool.not_true, Bool.false_eq_true, if_false, false_or, reduceCtorEq, if_true, fin]
    split
    · next one =>
      simp only [one, true_or, if_true, crcImage_flash, Bool.not_eq_true']
    · next four =>
      simp only [four, or_true, if_true, crcImage_flash, Bool.not_eq_true', ne_eq, show ¬ (4 : Nat) = 1 by decide, if_false]
      by_cases good : e.check.crc = c.crc ∧ imageVerifies e.check s.flash.minSvn = true
      · simp [good.1, good.2]
      · have bad : ¬ e.check.crc = c.crc ∨ imageVerifies e.check s.flash.minSvn = false := by
          rw [← Bool.not_eq_true]
          tauto
        rw [if_pos bad, if_neg good]
    · next five =>
      simp only [five, show ¬ (5 : Nat) = 1 by decide, show ¬ (5 : Nat) = 4 by decide, or_self, if_false, if_true]
    · next h1 h4 h5 =>
      have other : ¬ (c.step = 1 ∨ c.step = 4) := by tauto
      simp only [other, if_neg h1, if_neg h4, if_neg h5, if_false]

/-- A flash failure before step 5 leaves the slot INVALID and the commit ended. -/
theorem flashFail_flash (h : c.step ≠ 5) :
    (flashFail c s).flash =
      { s.flash with
        commit := none
        slots := vmod s.flash.slots c.slot (fun x => { x with state := .invalid, svn := 0, version := 0, crc := 0 }) } := by
  rw [flashFail, if_neg h]
  exact (outer_raise _ _ _ _ (outer_complete _ _ _ _ (Outer.refl _))).flash

/-- An entry that is written stands in the log, whether or not the log had to be erased. -/
theorem mem_appendPtr (other : Option Word) (w : Word) (x : StoreCopy) : w ∈ (appendPtr other w x).log := by
  unfold appendPtr
  split
  · simp
  · split
    · next y =>
      by_cases same : y = w <;> simp [same]
    · simp

/-- The pointer entry in both copies. -/
theorem mem_writePtr (w : Word) (s : State) (y : Fin 2) : w ∈ (writePtr1 w (writePtr0 w s)).flash.copies[y].log := by
  match y with
  | 0 =>
    have kept : (writePtr1 w (writePtr0 w s)).flash.copies[(0 : Fin 2)] = (writePtr0 w s).flash.copies[(0 : Fin 2)] :=
      vmod_get_ne _ _ _ _ (by decide)
    have written : (writePtr0 w s).flash.copies[(0 : Fin 2)] =
        appendPtr (latestOf s.flash.copies[(1 : Fin 2)].log) w s.flash.copies[(0 : Fin 2)] :=
      vmod_get_self _ _ _
    rw [kept, written]
    exact mem_appendPtr _ _ _
  | 1 =>
    have written : (writePtr1 w (writePtr0 w s)).flash.copies[(1 : Fin 2)] =
        appendPtr (latestOf (writePtr0 w s).flash.copies[(0 : Fin 2)].log) w (writePtr0 w s).flash.copies[(1 : Fin 2)] :=
      vmod_get_self _ _ _
    rw [written]
    exact mem_appendPtr _ _ _

/-- The fused minimum is raised where SVN_LOCK asks for it (R491). -/
def svnRaised (c : Commit) (s0 s : State) : State :=
  if c.svnLock ∧ s0.flash.minSvn.toNat < c.svn.toNat ∧ s0.flash.raisesLeft ≠ 0 then
    flashMod (fun l => { l with minSvn := c.svn, raisesLeft := l.raisesLeft - 1 }) s
  else s

/-- The state in which step 5 completes its command. -/
def flipped (c : Commit) (s : State) : State :=
  flashMod (fun l => { l with commit := none }) (svnRaised c s
    (slotMod c.slot (fun _ => { state := .valid, svn := c.svn, version := BitVec.ofNat 16 c.version.toNat, crc := c.crc })
      (writePtr1 (ptrWord c.slot (ptrSeq s + 1)) (writePtr0 (ptrWord c.slot (ptrSeq s + 1)) s))))

theorem flip_eq (c : Commit) (s : State) : flip c s = complete c.ticket 0 ((ptrSeq s + 1) % 2 ^ 23) (flipped c s) := rfl

theorem svnRaised_flash (c : Commit) (s0 s : State) :
    (svnRaised c s0 s).flash.slots = s.flash.slots ∧ (svnRaised c s0 s).flash.copies = s.flash.copies ∧
      svnRaised c s0 s = { s with flash := (svnRaised c s0 s).flash } ∧
      (svnRaised c s0 s).flash.minSvn =
        if c.svnLock ∧ s0.flash.minSvn.toNat < c.svn.toNat ∧ s0.flash.raisesLeft ≠ 0 then c.svn else s.flash.minSvn := by
  unfold svnRaised
  split <;> exact ⟨rfl, rfl, rfl, rfl⟩

theorem exec_imgSelect_taken {n : Byte} (ht : Taken h false s) (hn : n.toNat ≤ 1) :
    exec (.imgSelect h n) s = .next (settle (
      if armedFor s n.toNat = false ∨ regGet s Reg.protImgCrc ≠ s.flash.slots[(if n.toNat = 1 then 1 else 0 : Fin 2)].crc then
        complete (ticketOf h s) 0x50 0 (takenState h s)
      else if s.flash.slots[(if n.toNat = 1 then 1 else 0 : Fin 2)].state ≠ .valid then complete (ticketOf h s) 0x57 0 (takenState h s)
      else if s.flash.commit.isSome then complete (ticketOf h s) 0x54 0 (takenState h s)
      else beginStore .imgSelect (some (ticketOf h s)) n.toNat (consumeAuth (takenState h s)))) := by
  have valid : decide (1 < n.toNat) = false := decide_eq_false (Nat.not_lt.mpr hn)
  rw [exec_imgSelect, execImgSelect, untimedCmd_run ht valid]
  simp only [armedFor_takenState, regGet_takenState, takenState_flash, Bool.not_eq_true', fin]

theorem busWrite_glbMediaRate {path : AccessPath} {v : Word} (hp : path ≠ .mb0) (ho : regsOpen s = true) :
    busWrite path Reg.glbMediaRate v s = writeMediaRate v s := by
  rw [busWrite_open hp ho]
  exact regWrite_lowWrite (by decide) (by decide) (by decide) rfl

theorem fld_ofNat_rate {r : Nat} (h : r < 6) : fld (BitVec.ofNat 32 r) 2 0 = r := by
  simp only [fld, bitsOf, BitVec.toNat_ofNat]
  omega

theorem exec_storeWriteDone_first {x : StoreWrite} {l : List StoreWrite} (hw : s.flash.writes = x :: l) :
    exec (.storeWriteDone x.kind) s = .next (settle (
      match x.ticket with
      | some t => complete t 0 (storeEffect x { s with flash := { s.flash with writes := l } }).1
          (storeEffect x { s with flash := { s.flash with writes := l } }).2
      | none => (storeEffect x { s with flash := { s.flash with writes := l } }).2)) := by
  simp only [exec, execStoreWriteDone, flashMod, hw, List.find?_cons, decide_true, List.erase_cons_head, fin]
  rfl

end Images

/-- Settles O55: the commands by their checks in order, a step of the commit by its number and outcome, and the end of a store
write by the kind of the oldest one. -/
theorem imagesCommittedAndStoreWritten : Obligations.ImagesCommittedAndStoreWritten := by
  unfold Obligations.ImagesCommittedAndStoreWritten
  refine ⟨?_, fun _ _ _ => exec_imgCommit_taken, ?_, ?_, ?_, ?_, ?_, ?_, ?_, ?_, fun _ _ => flashFail_flash, ?_, ?_, ?_, ?_, ?_, ?_,
    ?_, ?_, ?_, ?_⟩
  · intro h a s ht hs ha hc hslot harm hd
    rw [exec_imgCommit_taken ht hs ha, hc, if_neg (by decide), if_neg hslot, if_neg (by simp [harm]), if_neg (by simp [hd])]
    rfl
  · intro s
    refine ⟨?_, rfl⟩
    rw [regBit, consumeAuth_regGet]
    exact regBit_regSetFld_zero _ _ (by decide)
  · intro e c s hc h1 hok hcrc hv
    rw [exec_imgCommitStepDone hc, if_pos h1, if_neg (by simp [hok]), if_neg (by simp [hcrc]), if_neg (by simp [hv]), nextStep, h1]
  · intro e c s hc h1 hok hbad
    rw [exec_imgCommitStepDone hc, if_pos h1, if_neg (by simp [hok])]
    by_cases hcrc : e.check.crc = c.crc
    · rw [if_neg (by simp [hcrc]), if_pos (hbad.resolve_left (by simp [hcrc])), if_pos hcrc]
    · rw [if_pos hcrc, if_neg hcrc]
  · intro e c s hc hstep hok
    rw [exec_imgCommitStepDone hc, if_neg (by omega), if_neg (by simp [hok]), if_neg (by omega), if_neg (by omega), nextStep]
  · intro e c s hc h4 hok
    rw [exec_imgCommitStepDone hc, if_neg (by omega), if_neg (by simp [hok]), if_pos h4, nextStep, h4]
  · intro e c s hc hstep hok
    rw [exec_imgCommitStepDone hc, if_neg (by omega), if_pos hok]
  · intro e c s hc h5 hok
    rw [exec_imgCommitStepDone hc, if_neg (by omega), if_neg (by simp [hok]), if_neg (by omega), if_pos h5]
  · intro e s hc
    simp only [exec, execImgCommitStepDone, hc]
  · intro c s
    obtain ⟨slots, copies, frame, minSvn⟩ := svnRaised_flash c s
      (slotMod c.slot (fun _ => { state := .valid, svn := c.svn, version := BitVec.ofNat 16 c.version.toNat, crc := c.crc })
        (writePtr1 (ptrWord c.slot (ptrSeq s + 1)) (writePtr0 (ptrWord c.slot (ptrSeq s + 1)) s)))
    refine ⟨flipped c s, flip_eq c s, rfl, ?_, fun x => ?_, minSvn, ?_⟩
    · show (svnRaised _ _ _).flash.slots[c.slot] = _
      rw [slots]
      exact vmod_get_self _ _ _
    · show _ ∈ (svnRaised _ _ _).flash.copies[x].log
      rw [copies]
      exact mem_writePtr _ _ _
    · rw [flipped, frame]
      rfl
  · intro h n s ht hn harm hcrc hvalid hc
    have passes : ¬ (armedFor s n.toNat = false ∨
        regGet s Reg.protImgCrc ≠ s.flash.slots[(if n.toNat = 1 then 1 else 0 : Fin 2)].crc) := by
      simp only [harm, hcrc, ne_eq, not_true_eq_false, reduceCtorEq, or_self, not_false_eq_true]
    rw [exec_imgSelect_taken ht hn, if_neg passes, if_neg (by simp only [hvalid, ne_eq, not_true_eq_false, not_false_eq_true]), hc]
    rfl
  · intro h n s ht hn hbad
    rw [exec_imgSelect_taken ht hn, if_pos hbad]
  · intro h p s ht hp
    rw [exec_cfgSet, execCfgSet, untimedCmd_run ht (decide_eq_false (Nat.not_lt.mpr hp)), fin]
  · intro path v s hp ho hst hl hr
    have keeps : ¬ (locked s = true ∨ 6 ≤ fld v 2 0) := by
      simp only [hl, Bool.false_eq_true, false_or]
      omega
    show fin (busWrite path Reg.glbMediaRate v s) = _
    simp only [busWrite_glbMediaRate hp ho, writeMediaRate, if_neg keeps, hst, if_true, regFld, regGet_regSet_self, fld_ofNat_rate hr, fin]
  · intro path v s hp ho hst hbad
    show fin (busWrite path Reg.glbMediaRate v s) = _
    simp only [busWrite_glbMediaRate hp ho, writeMediaRate, if_pos hbad, hst, if_true, fin]
  · intro x l t s hw ht hk
    rw [← hk, exec_storeWriteDone_first hw, ht]
    simp only [storeEffect, hk]
    rfl
  · intro x l s hw ht hk
    rw [← hk, exec_storeWriteDone_first hw, ht]
    simp only [storeEffect, hk]
    rfl
  · intro x l t s hw ht hk
    refine ⟨writePtr1 (ptrWord (if x.value = 1 then 1 else 0) (ptrSeq s + 1))
      (writePtr0 (ptrWord (if x.value = 1 then 1 else 0) (ptrSeq s + 1)) { s with flash := { s.flash with writes := l } }), ?_, rfl,
      fun y => mem_writePtr _ _ y, rfl⟩
    rw [← hk, exec_storeWriteDone_first hw, ht]
    simp only [storeEffect, hk]
    rfl
  · intro k s hk
    have none_ : (s.flash.writes.find? fun x => decide (x.kind = k)) = none := by simpa [List.find?_eq_none] using hk
    simp only [exec, execStoreWriteDone, none_]

end Sys2Proof.Machine

namespace Sys2Proof.Machine

/-! The links' frame: going down, training and telling the other nodes of a lost path leave everything but the links, the switch,
the node's sequence number, the registers, the Sump and the events as it is. -/

section LinkFrame

variable {c s t : State} {n : Fin 16}

theorem outer_freeIncoming (key : Nat) (h : Outer c s) : Outer c (freeIncoming key s) := by
  unfold freeIncoming
  split
  · exact h
  · exact h

theorem outer_freeAdd (key : Nat) (h : Outer c s) : Outer c (freeAdd key s) := by
  unfold freeAdd
  split
  · exact h
  · exact h

theorem outer_releaseAdd (key k : Nat) (h : Outer c s) : Outer c (releaseAdd key k s) := by
  unfold releaseAdd
  split
  · exact h
  · split
    · exact outer_freeAdd key h
    · exact h

theorem outer_losePath (a : BitVec 12) (b : Bool) (h : Outer c s) : Outer c (losePath a b s) := by
  have released := outer_releaseAdd (addKey a b) (now s + 1) h
  unfold losePath
  split
  · exact released
  · split
    · exact released
    · refine outer_report _ _ _ _ ?_
      exact outer_regSet _ _ _ released

theorem outer_sendBroken (e : SwEntry) (h : Outer c s) : Outer c (sendBroken n e s) := by
  unfold sendBroken sendOneHop
  dsimp only
  split
  · exact outer_queueCell _ _ _ (outer_takeSeq _ (outer_freshFree _ _ h))
  · exact outer_cellDrop _ _ (outer_takeSeq _ (outer_freshFree _ _ h))

theorem outer_breakEntries (n : Fin 16) (h : Outer c s) : Outer c (breakEntries n s) := by
  unfold breakEntries
  refine outer_foldl (fun s e h => outer_losePath _ _ h) _ (outer_foldl (fun s e h => ?_) _ h)
  have freed := outer_freeIncoming e.1 h
  split
  · exact outer_sendBroken _ freed
  · split
    · split
      · exact outer_sendBroken _ freed
      · exact freed
    · exact freed

theorem outer_setLinkState (n : Fin 16) (x : LinkSt) (h : Outer c s) : Outer c (setLinkState n x s) := by
  unfold setLinkState
  dsimp only
  split
  · exact h
  · exact outer_report _ _ _ _ (outer_linkMod _ _ _ h)

theorem outer_linkDown (n : Fin 16) (count fault : Bool) (h : Outer c s) : Outer c (linkDown n count fault s) := by
  have dropped := outer_linkMod n Link.dropped s h
  have down := outer_setLinkState n .down (outer_breakEntries n dropped)
  have counted : Outer c (if count then bumpFld (Reg.linkEvents n) 15 0 1 (setLinkState n .down (breakEntries n (linkMod n Link.dropped s)))
      else setLinkState n .down (breakEntries n (linkMod n Link.dropped s))) := by
    split
    · exact outer_bumpFld _ _ _ _ _ down
    · exact down
  unfold linkDown
  split
  · exact dropped
  · dsimp only
    split
    · exact outer_raise _ _ _ _ counted
    · exact counted

theorem outer_startTraining (n : Fin 16) (h : Outer c s) : Outer c (startTraining n s) := by
  unfold startTraining
  dsimp only
  split
  · exact outer_setLinkState _ _ (outer_linkMod _ _ _ h)
  · exact h

theorem setLinkState_node (n : Fin 16) (x : LinkSt) (s : State) : (setLinkState n x s).node = s.node := by
  unfold setLinkState
  dsimp only
  split <;> rfl

theorem startTraining_node (n : Fin 16) (s : State) : (startTraining n s).node = s.node := by
  unfold startTraining
  dsimp only
  split
  · exact setLinkState_node _ _ _
  · rfl

end LinkFrame

/-! The state and the squelch of every end, over the same operations. -/

section LinkEnds

variable {s t u : State} {n m : Fin 16}

/-- Every link keeps its state and its squelch. -/
def EndsKept (s t : State) : Prop :=
  ∀ m : Fin 16, t.links[m].state = s.links[m].state ∧ t.links[m].squelch = s.links[m].squelch

theorem EndsKept.refl (s : State) : EndsKept s s := fun _ => ⟨rfl, rfl⟩

theorem EndsKept.trans (h1 : EndsKept s t) (h2 : EndsKept t u) : EndsKept s u :=
  fun m => ⟨(h2 m).1.trans (h1 m).1, (h2 m).2.trans (h1 m).2⟩

theorem endsKept_of_links (h : t.links = s.links) : EndsKept s t := fun m => by rw [h]; exact ⟨rfl, rfl⟩

theorem endsKept_linkMod (n : Fin 16) {f : Link → Link} (hf : ∀ l, (f l).state = l.state ∧ (f l).squelch = l.squelch) (s : State) :
    EndsKept s (linkMod n f s) := by
  intro m
  by_cases same : m = n
  · subst same
    rw [linkMod_link]
    exact hf _
  · rw [linkMod_links, vmod_get_ne _ _ _ _ same]
    exact ⟨rfl, rfl⟩

theorem endsKept_foldl {β : Type} {g : State → β → State} (hg : ∀ s x, EndsKept s (g s x)) (l : List β) (s : State) :
    EndsKept s (l.foldl g s) := by
  induction l generalizing s with
  | nil => exact EndsKept.refl s
  | cons x l ih => exact (hg s x).trans (ih _)

theorem setLinkQueue_ends (l : Link) (k : Nat) (q : List Cell) :
    (setLinkQueue l k q).state = l.state ∧ (setLinkQueue l k q).squelch = l.squelch := by
  unfold setLinkQueue
  split <;> exact ⟨rfl, rfl⟩

theorem raise_links (src inst d : Nat) (s : State) : (raise src inst d s).links = s.links := (calm_raise src inst d s (Calm.refl s)).links

theorem endsKept_queueCell (n : Fin 16) (c : Cell) (s : State) : EndsKept s (queueCell n c s) := by
  unfold queueCell
  dsimp only
  split
  · exact endsKept_linkMod n (fun l => setLinkQueue_ends l _ _) s
  · exact endsKept_of_links (raise_links _ _ _ _)

theorem endsKept_sendBroken (n : Fin 16) (e : SwEntry) (s : State) : EndsKept s (sendBroken n e s) := by
  unfold sendBroken sendOneHop
  dsimp only
  split
  · exact EndsKept.trans (endsKept_of_links rfl) (endsKept_queueCell _ _ _)
  · exact endsKept_of_links rfl

theorem losePath_links (a : BitVec 12) (b : Bool) (s : State) : (losePath a b s).links = s.links := by
  have released : (releaseAdd (addKey a b) (now s + 1) s).links = s.links := by
    unfold releaseAdd freeAdd
    split
    · rfl
    · split
      · split <;> rfl
      · rfl
  unfold losePath
  split
  · exact released
  · split
    · exact released
    · exact released

theorem freeIncoming_links (key : Nat) (s : State) : (freeIncoming key s).links = s.links := by
  unfold freeIncoming
  split <;> rfl

theorem endsKept_breakEntries (n : Fin 16) (s : State) : EndsKept s (breakEntries n s) := by
  unfold breakEntries
  refine (endsKept_foldl (fun s e => ?_) _ s).trans (endsKept_foldl (fun s e => endsKept_of_links (losePath_links _ _ s)) _ _)
  have freed := endsKept_of_links (freeIncoming_links e.1 s)
  split
  · exact freed.trans (endsKept_sendBroken _ _ _)
  · split
    · split
      · exact freed.trans (endsKept_sendBroken _ _ _)
      · exact freed
    · exact freed

/-- A change of state changes the state of its own link alone. -/
theorem setLinkState_ends (n : Fin 16) (x : LinkSt) (s : State) (m : Fin 16) :
    (setLinkState n x s).links[m].state = (if m = n then x else s.links[m].state) ∧
      (setLinkState n x s).links[m].squelch = s.links[m].squelch := by
  by_cases same : m = n
  · subst same
    rw [if_pos rfl]
    unfold setLinkState
    dsimp only
    split
    · next h => exact ⟨h, rfl⟩
    · simp only [report_links, linkMod_link, and_self]
  · rw [if_neg same]
    unfold setLinkState
    dsimp only
    split
    · exact ⟨rfl, rfl⟩
    · simp only [report_links, linkMod_links, vmod_get_ne _ _ _ _ same, and_self]

/-- Going down: the link is DOWN, the others keep their state, and every transmitter its squelch. -/
theorem linkDown_ends (n : Fin 16) (count fault : Bool) (s : State) (m : Fin 16) :
    (linkDown n count fault s).links[m].state = (if m = n then .down else s.links[m].state) ∧
      (linkDown n count fault s).links[m].squelch = s.links[m].squelch := by
  have dropped : EndsKept s (linkMod n Link.dropped s) := endsKept_linkMod n (f := Link.dropped) (fun _ => ⟨rfl, rfl⟩) s
  have broken := (dropped.trans (endsKept_breakEntries n _)) m
  have down := setLinkState_ends n .down (breakEntries n (linkMod n Link.dropped s)) m
  rw [broken.1, broken.2] at down
  unfold linkDown
  split
  · next already =>
    refine ⟨?_, (dropped m).2⟩
    rw [(dropped m).1]
    split
    · next same => rw [same, already]
    · rfl
  · cases count <;> cases fault <;>
      simp only [Bool.false_eq_true, if_false, if_true, raise_links] <;> exact down

end LinkEnds

/-- What a step of a fold establishes for its own element, and every step keeps, holds at the end for every element. -/
theorem foldl_establishes {β : Type} {g : State → β → State} (P : β → State → Prop) (hset : ∀ s x, P x (g s x))
    (hkeep : ∀ s x y, P y s → P y (g s x)) {l : List β} {y : β} (hy : y ∈ l) (s : State) : P y (l.foldl g s) := by
  induction l generalizing s with
  | nil => cases hy
  | cons x l ih =>
    rcases List.mem_cons.mp hy with rfl | hy
    · exact List.foldlRecOn l g (motive := P y) (hset s y) (fun t ht x _ => hkeep t x y ht)
    · exact ih hy _

theorem mem_fins {n : Nat} (i : Fin n) : i ∈ fins n := List.mem_finRange i

/-- Changing entries of a vector one after the other leaves the entries that are not named. -/
theorem foldl_vmod_get_of_notMem {α : Type} {n : Nat} (f : α → α) {l : List (Fin n)} {i : Fin n} (hi : i ∉ l) (v : Vector α n) :
    (l.foldl (fun v j => vmod v j f) v)[i] = v[i] := by
  induction l generalizing v with
  | nil => rfl
  | cons j l ih =>
    obtain ⟨hj, hl⟩ : i ≠ j ∧ i ∉ l := by simpa using hi
    exact (ih hl _).trans (vmod_get_ne v j i f hj)

theorem foldl_vmod_get_of_mem {α : Type} {n : Nat} (f : α → α) {l : List (Fin n)} (hl : l.Nodup) {i : Fin n} (hi : i ∈ l)
    (v : Vector α n) : (l.foldl (fun v j => vmod v j f) v)[i] = f v[i] := by
  induction l generalizing v with
  | nil => cases hi
  | cons j l ih =>
    obtain ⟨hj, hl⟩ := List.nodup_cons.mp hl
    by_cases same : i = j
    · subst same
      exact (foldl_vmod_get_of_notMem f hj _).trans (vmod_get_self v i f)
    · exact (ih hl ((List.mem_cons.mp hi).resolve_left same) _).trans (congrArg f (vmod_get_ne v j i f same))

end Sys2Proof.Machine

namespace Sys2Proof.Machine

/-! Sleep (R495–R497). -/

section Sleep

variable {s : State} {p : SleepPlan}

theorem exec_sleep_held {h : CmdHdr} {a : SleepArgs} {n : Nat} {late : Bool} (ht : Taken h true s)
    (hn : schedule a.tick s = some (n, late)) (hm : a.wakeMask ≠ 0)
    (he : ∀ k : Fin 4, bitOf a.wakeMask.toNat (3 + k.val) = true → evtOut s k = false) (hk : timeOk a.wakeTime = true)
    (hw : bitOf a.wakeMask.toNat 7 = true ∨ timeOf a.wakeTime = 0) :
    exec (.sleep h a) s = .next (settle (hold n (ticketOf h s) late (.sleep a) (takenState h s))) := by
  have someSource : decide (a.wakeMask.toNat = 0) = false := decide_eq_false fun e => hm (BitVec.eq_of_toNat_eq e)
  have inputs : ((fins 4).any fun k => bitOf a.wakeMask.toNat (3 + k.val) && evtOut s k) = false := by
    simpa using fun k _ => he k
  have timer : (!bitOf a.wakeMask.toNat 7 && decide (timeOf a.wakeTime ≠ 0)) = false := by
    rcases hw with hw | hw <;> simp [hw]
  have valid : (decide (a.wakeMask.toNat = 0) || ((fins 4).any fun k => bitOf a.wakeMask.toNat (3 + k.val) && evtOut s k) ||
      !timeOk a.wakeTime || (!bitOf a.wakeMask.toNat 7 && decide (timeOf a.wakeTime ≠ 0))) = false := by
    rw [someSource, inputs, hk, timer]; rfl
  rw [exec_sleep, execSleep, timedCmd_held ht valid hn rfl, fin]
  rfl

theorem applyLinkCmd_detach_power {a : LinkCmdArgs} {n : Fin 16} (hl : a.link.toNat = n.val) (ha : a.action.toNat = 2) (s : State) :
    (applyLinkCmd a s).2.power = s.power := by
  have told (f : Link → Link) (u : State) (hu : Outer s u) : (sendCtrl n 3 0 (now s) (linkMod n f u)).power = s.power :=
    (outer_sendNeighbour _ _ _ _ (outer_linkMod _ _ _ hu)).power
  have broken := outer_breakEntries n (Outer.refl s)
  by_cases he : linkEnabled s n = true
  · cases hs : s.links[n].state <;>
      simp only [applyLinkCmd, toFin?_some hl, ha, hs, he, Bool.not_true, Bool.false_eq_true, if_false]
    case discovered => exact told _ _ broken
    case attached => exact told _ _ broken
  · rw [applyLinkCmd_disabled hl (by simpa using he)]

/-- The links begin to detach. -/
def linksDetaching (s : State) : State :=
  (fins 16).foldl (fun s (n : Fin 16) =>
    if s.links[n].state = .attached ∨ s.links[n].state = .discovered then
      (applyLinkCmd { tick := 0, link := BitVec.ofNat 8 n.val, action := 2 } s).2 else s) s

theorem linksDetaching_power (s : State) : (linksDetaching s).power = s.power := by
  refine foldl_same State.power (fun s n => ?_) _ s
  split
  · have index : (BitVec.ofNat 8 n.val).toNat = n.val := by
      rw [BitVec.toNat_ofNat, Nat.mod_eq_of_lt (by omega)]
    exact applyLinkCmd_detach_power index rfl s
  · rfl

theorem applySleep_idle (a : SleepArgs) (h : sleepBusy s = false) :
    applySleep a s = (0, powerMod (fun p => { p with sleepPlan := some { at_ := now s, mask := a.wakeMask, time := a.wakeTime } })
      (linksDetaching s)) := by
  rw [applySleep, h]; rfl

theorem foldl_linkMod (f : Link → Link) (l : List (Fin 16)) (s : State) :
    l.foldl (fun s n => linkMod n f s) s = { s with links := l.foldl (fun v n => vmod v n f) s.links } := by
  induction l generalizing s with
  | nil => rfl
  | cons n l ih => exact ih _

/-- Every link with its transmitter squelched. -/
def squelched (v : Vector Link 16) : Vector Link 16 :=
  (fins 16).foldl (fun v n => vmod v n fun l => { l with squelch := true, retrain := false }) v

theorem squelchLinks_eq (s : State) : squelchLinks s = { s with links := squelched s.links } := foldl_linkMod _ _ _

theorem squelched_get (v : Vector Link 16) (n : Fin 16) : (squelched v)[n] = { v[n] with squelch := true, retrain := false } :=
  foldl_vmod_get_of_mem _ (List.nodup_finRange 16) (mem_fins n) v

/-- The links go DOWN with the SERDES. -/
def linksStopped (s : State) : State := (fins 16).foldl (fun s n => linkDown n false false s) (squelchLinks s)

theorem outer_linksStopped (s : State) : Outer s (linksStopped s) := by
  have squelch : Outer s (squelchLinks s) := outer_foldl (fun _ _ h => outer_linkMod _ _ _ h) _ (Outer.refl s)
  exact outer_foldl (fun _ n h => outer_linkDown n false false h) _ squelch

theorem linksStopped_ends (s : State) (n : Fin 16) :
    (linksStopped s).links[n].state = .down ∧ (linksStopped s).links[n].squelch = true := by
  constructor
  · refine foldl_establishes (fun n s => s.links[n].state = .down) (fun s n => ?_) (fun s x y hy => ?_) (mem_fins n) _
    · exact (linkDown_ends n false false s n).1.trans (if_pos rfl)
    · rw [(linkDown_ends x false false s y).1, hy, ite_self]
  · refine (foldl_same (fun s => s.links[n].squelch) (fun s x => (linkDown_ends x false false s n).2) _ _).trans ?_
    rw [squelchLinks_eq]
    exact congrArg Link.squelch (squelched_get s.links n)

theorem enterSleep_stops (hp : s.power.sleepPlan = some p) (hr : s.power.state = .running) (hn : p.at_ + 3 ≤ now s)
    (hm : bitOf p.mask.toNat 7 = false) :
    enterSleep s = powerMod (fun x => { x with state := .sleep })
      (clk (fun c => { c with plls := vmap (fun (x : Pll) => { x with locked := false }) c.plls, onFab := false }) (linksStopped s)) := by
  simp only [enterSleep, hp, hr, hn, hm, and_self, if_true, Bool.false_eq_true, false_and, if_false]
  rfl

/-- The links of a woken node train. -/
def linksWoken (s : State) : State :=
  (fins 16).foldl (fun s n =>
    startTraining n (linkMod n (fun l => { l with detachHold := false, squelch := !linkEnabled s n }) s))
    (powerMod (fun p => { p with state := .running, sleepPlan := none }) s)

theorem wake_eq (n : Fin 8) (s : State) : wake n s = report 0x0F02 0 (leBytes 8 n.val ++ leBytes 8 (now s)) (linksWoken s) := rfl

theorem outer_linksWoken (s : State) : Outer (powerMod (fun p => { p with state := .running, sleepPlan := none }) s) (linksWoken s) :=
  outer_foldl (fun _ n h => outer_startTraining n (outer_linkMod _ _ _ h)) _ (Outer.refl _)

/-- The event of a wake: 16 bytes of data and 8 of filling. -/
theorem wake_events (n : Fin 8) (s : State) :
    (wake n s).hif.events = (linksWoken s).hif.events ++
      [{ ty := 0x0F02, index := 0, data := leBytes 8 n.val ++ leBytes 8 (now s) ++ List.replicate 8 0 }] := by
  have size : (leBytes 8 n.val ++ leBytes 8 (now s)).length = 16 := by
    rw [List.length_append, length_leBytes, length_leBytes]
  have whole : ((leBytes 8 n.val ++ leBytes 8 (now s)) ++ List.replicate (24 - 16) (0 : Byte)).take 24 =
      leBytes 8 n.val ++ leBytes 8 (now s) ++ List.replicate 8 0 :=
    List.take_of_length_le (by rw [List.length_append, size, List.length_replicate])
  rw [wake_eq, report, size, whole]
  rfl

theorem bitOf_iff (v i : Nat) : bitOf v i = true ↔ v / 2 ^ i % 2 = 1 := decide_eq_true_iff

theorem wakeTimeCome_plan (hp : s.power.sleepPlan = some p) :
    wakeTimeCome s = decide (timeOf p.time < boundaryTime s + tickSpan s) := by
  rw [wakeTimeCome, hp, Option.elim_some]

theorem wakeBy_enabled {n : Fin 8} (hs : s.power.state = .sleep) (hp : s.power.sleepPlan = some p)
    (hm : bitOf p.mask.toNat n.val = true) : wakeBy n s = wake n s := by
  have enabled := (bitOf_iff _ _).mp hm
  simp only [wakeBy, hs, hp, Option.elim_some, enabled, and_self, if_true]

theorem wakeBy_other {n : Fin 8} (h : s.power.state ≠ .sleep ∨ ∀ p, s.power.sleepPlan = some p → bitOf p.mask.toNat n.val = false) :
    wakeBy n s = s := by
  refine if_neg fun ⟨asleep, enabled⟩ => ?_
  have other := h.resolve_left (not_not.mpr asleep)
  cases hp : s.power.sleepPlan with
  | none => simp [hp] at enabled
  | some p =>
    rw [hp] at enabled
    have set := (bitOf_iff _ _).mpr enabled
    rw [other p hp] at set
    exact Bool.false_ne_true set

end Sleep

/-- Settles O56: the command by its checks, the boundaries by how far the plan has come, and a wake by its source. -/
theorem sleepIsEnteredAndLeft : Obligations.SleepIsEnteredAndLeft := by
  unfold Obligations.SleepIsEnteredAndLeft
  refine ⟨fun _ _ _ _ _ => exec_sleep_held, ?_, ?_, ?_, ?_, ?_, ?_, ?_, ?_⟩
  · intro a s h
    exact if_pos h
  · intro a s h
    rw [applySleep_idle a h]
    exact ⟨rfl, by rw [powerMod, linksDetaching_power]⟩
  · intro p s hp hr hn
    have early : ¬ p.at_ + 3 ≤ now s ∧ ¬ p.at_ + 2 ≤ now s := by omega
    simp only [enterSleep, hp, early.1, early.2, and_false, if_false]
  · intro p s hp hr h2 h3
    refine ⟨squelched s.links, ?_, squelched_get s.links⟩
    simp only [enterSleep, hp, hr, Nat.not_le.mpr h3, h2, and_false, and_self, if_false, if_true, squelchLinks_eq]
  · intro p s hp hr hn hm
    rw [enterSleep_stops hp hr hn hm]
    refine ⟨?_, ?_, fun n => ?_⟩
    · rw [powerMod_power, clk_power, (outer_linksStopped s).power]
    · rw [powerMod_clock, clk_clock, (outer_linksStopped s).clock]
    · rw [powerMod_links, clk_links]
      exact linksStopped_ends s n
  · intro n p s hs hp hm ht
    have due : ¬ (n = 7 ∧ wakeTimeCome s = false) := by
      rintro ⟨timer, notCome⟩
      rw [wakeTimeCome_plan hp, decide_eq_true (ht timer)] at notCome
      exact Bool.noConfusion notCome
    have woken : Outer (powerMod (fun p => { p with state := .running, sleepPlan := none }) s) (wake n s) := by
      rw [wake_eq]
      exact outer_report _ _ _ _ (outer_linksWoken s)
    refine ⟨wake n s, ?_, woken.power, woken.time, ?_, _, wake_events n s⟩
    · simp only [exec, execSleepWake, if_neg due, wakeBy_enabled hs hp hm, fin]
    · rw [wake_events]
      simp
  · intro n s h hn
    have due : ¬ (n = 7 ∧ wakeTimeCome s = false) := by
      rintro ⟨timer, notCome⟩
      exact hn.elim (fun x => x timer) (fun x => by simp [x] at notCome)
    simp only [exec, execSleepWake, if_neg due, wakeBy_other h, fin]
  · intro p s hp ht
    have notCome : wakeTimeCome s = false := by
      rw [wakeTimeCome_plan hp, decide_eq_false (Nat.not_lt.mpr ht)]
    simp only [exec, execSleepWake, notCome, and_self, if_true]

end Sys2Proof.Machine

namespace Sys2Proof.Machine

/-! Boot (R480, R487, R489, R492, R494, R498). -/

section Boot

variable {s : State} {a b : ImageCheck} {x y : Fin 2}

/-- What the boot ROM finds in a slot. -/
def foundIn (a b : ImageCheck) (x : Fin 2) : ImageCheck := if x = 0 then a else b

/-- The slot that the pointer names. -/
def chosenSlot (s : State) : Fin 2 := ptrSlot (latestPtr s)

/-- A slot that does not verify is shown INVALID. -/
def slotRejected (c : ImageCheck) (x : Fin 2) (s : State) : State := slotMod x (fun _ => slotFound .invalid c) s

theorem exec_imageVerified_rom (hs : s.power.stage = .rom) (hp : s.power.state = .running) :
    exec (.imageVerified a b) s =
      if slotBoots s (chosenSlot s) (foundIn a b (chosenSlot s)) then
        .next (bootFrom (chosenSlot s) false (foundIn a b (chosenSlot s)) s)
      else if slotBoots (slotRejected (foundIn a b (chosenSlot s)) (chosenSlot s) s) (otherSlot (chosenSlot s))
          (foundIn a b (otherSlot (chosenSlot s))) then
        .next (bootFault Src.bootFallback (chosenSlot s) (bootFrom (otherSlot (chosenSlot s)) true
          (foundIn a b (otherSlot (chosenSlot s))) (slotRejected (foundIn a b (chosenSlot s)) (chosenSlot s) s)))
      else .next (powerMod (fun p => { p with stage := .romHalt }) (slotRejected (foundIn a b (otherSlot (chosenSlot s)))
        (otherSlot (chosenSlot s)) (slotRejected (foundIn a b (chosenSlot s)) (chosenSlot s) s))) := by
  simp only [exec, execImageVerified, hs, hp, ne_eq, not_true_eq_false, or_self, if_false]
  rfl

theorem eq_otherSlot (h : y ≠ x) : y = otherSlot x := by
  revert h
  revert x y
  decide

theorem otherSlot_ne (x : Fin 2) : otherSlot x ≠ x := by
  revert x
  decide

/-- Settling the slots found WRITING changes slots alone, and none that is INVALID. -/
theorem settleWriting_eq (s : State) : ∃ v, settleWriting s = { s with flash := { s.flash with slots := v } } ∧
    ∀ y : Fin 2, s.flash.slots[y].state = .invalid → v[y].state = .invalid := by
  unfold settleWriting
  refine List.foldlRecOn (fins 2) _
    (motive := fun t : State => ∃ v : Vector SlotInfo 2, t = { s with flash := { s.flash with slots := v } } ∧
    ∀ y : Fin 2, s.flash.slots[y].state = .invalid → v[y].state = .invalid) ⟨s.flash.slots, rfl, fun _ h => h⟩ ?_
  rintro _ ⟨v, rfl, hv⟩ x -
  split
  · refine ⟨_, rfl, fun y hy => ?_⟩
    by_cases same : y = x
    · subst same
      exact congrArg SlotInfo.state (vmod_get_self v y _)
    · exact (congrArg SlotInfo.state (vmod_get_ne v x y _ same)).trans (hv y hy)
  · exact ⟨v, rfl, hv⟩

theorem repairCopies_eq (s : State) : ∃ f c, repairCopies s =
    { s with power := { s.power with bootFaults := f }, flash := { s.flash with copies := c } } := by
  unfold repairCopies
  split
  · exact ⟨_, _, rfl⟩
  · dsimp only
    split
    · split <;> exact ⟨_, _, rfl⟩
    · split <;> exact ⟨_, _, rfl⟩

theorem fillBands_eq (s : State) : ∃ r, fillBands s = { s with regs := r } := by
  unfold fillBands
  refine List.foldlRecOn _ _ (motive := fun t : State => ∃ r : Regs, t = { s with regs := r }) ⟨s.regs, rfl⟩ fun t ht p _ => ?_
  refine List.foldlRecOn _ _ (motive := fun t : State => ∃ r : Regs, t = { s with regs := r }) ht ?_
  rintro _ ⟨r, rfl⟩ e -
  exact ⟨_, rfl⟩

/-- Firmware starts from a slot: the stage, the slots, the copies of the store, the faults remembered and the band tables. -/
theorem bootFrom_eq (x : Fin 2) (fallback : Bool) (c : ImageCheck) (s : State) : ∃ v f cp r,
    bootFrom x fallback c s = { s with
      regs := r, power := { s.power with stage := .verified, slot := x, fallback := fallback, bootFaults := f },
      flash := { s.flash with slots := vmod v x (fun _ => slotFound .valid c), copies := cp } } ∧
    ∀ y : Fin 2, s.flash.slots[y].state = .invalid → v[y].state = .invalid := by
  obtain ⟨v, settled, invalid⟩ := settleWriting_eq s
  obtain ⟨f, cp, repaired⟩ := repairCopies_eq (powerMod (fun p => { p with stage := .verified, slot := x, fallback := fallback })
    (slotMod x (fun _ => slotFound .valid c) (settleWriting s)))
  obtain ⟨r, filled⟩ := fillBands_eq (repairCopies (powerMod (fun p => { p with stage := .verified, slot := x, fallback := fallback })
    (slotMod x (fun _ => slotFound .valid c) (settleWriting s))))
  refine ⟨v, f, cp, r, ?_, invalid⟩
  rw [bootFrom, filled, repaired, settled]
  rfl

theorem slotRejected_state (c : ImageCheck) (x : Fin 2) (s : State) : (slotRejected c x s).flash.slots[x].state = .invalid :=
  congrArg SlotInfo.state (vmod_get_self _ x _)

theorem slotRejected_ne (c : ImageCheck) (s : State) (h : y ≠ x) : (slotRejected c x s).flash.slots[y] = s.flash.slots[y] :=
  vmod_get_ne _ x y _ h

theorem slotBoots_slotRejected (c d : ImageCheck) (s : State) (h : y ≠ x) : slotBoots (slotRejected c x s) y d = slotBoots s y d := by
  rw [slotBoots, slotRejected_ne c s h]
  rfl

/-- The stage HOST_READY, with nothing left to raise. -/
def readied (s : State) : State :=
  powerMod (fun p => { p with stage := .hostReady, watchdogs := 0, bootFaults := [], opt3v3 := true, readyAt := s.time.refTime }) s

/-- What the store holds is loaded, and the ageing plan applied again. -/
def storeLoaded (s : State) : State := setFirs s.wear.newFir (claimId (loadRwp (startTime (readied s))))

/-- The links train. -/
def linksStarted (s : State) : State :=
  (fins 16).foldl (fun s n => startTraining n (linkMod n (fun l => { l with squelch := !linkEnabled s n }) s)) (storeLoaded s)

/-- The state HOST_READY settles: the remembered faults are raised. -/
def hostReadied (s : State) : State := s.power.bootFaults.foldl (fun s f => raise f.1 f.2 0 s) (linksStarted s)

theorem exec_hostReady_verified (hs : s.power.stage = .verified) (hp : s.power.state = .running) :
    exec .hostReady s = .next (settle (hostReadied s)) := by
  simp only [exec, execHostReady, hs, hp, ne_eq, not_true_eq_false, or_self, if_false]
  rfl

theorem outer_setFirs {c : State} (l : List (Nat × (BitVec 4 × BitVec 5))) (h : Outer c s) : Outer c (setFirs l s) := by
  unfold setFirs
  refine outer_foldl (fun s e h => ?_) _ h
  split
  · exact outer_linkMod _ _ _ h
  · exact h

theorem setFirs_node (l : List (Nat × (BitVec 4 × BitVec 5))) (s : State) : (setFirs l s).node = s.node := by
  refine foldl_same State.node (fun s e => ?_) _ s
  split <;> rfl

theorem outer_hostReadied (s : State) : Outer (claimId (loadRwp (startTime (readied s)))) (hostReadied s) :=
  outer_foldl (fun _ _ h => outer_raise _ _ _ _ h) _
    (outer_foldl (fun _ n h => outer_startTraining n (outer_linkMod _ _ _ h)) _ (outer_setFirs _ (Outer.refl _)))

theorem hostReadied_node (s : State) : (hostReadied s).node = (claimId (loadRwp (startTime (readied s)))).node := by
  have raised : (hostReadied s).node = (linksStarted s).node :=
    foldl_same State.node (g := fun s (f : Nat × Nat) => raise f.1 f.2 0 s)
      (fun s f => (calm_raise f.1 f.2 0 s (Calm.refl s)).node) _ _
  have started : (linksStarted s).node = (storeLoaded s).node := by
    refine foldl_same State.node (fun s n => ?_) (fins 16) (storeLoaded s)
    rw [startTraining_node, linkMod_node]
  rw [raised, started, storeLoaded, setFirs_node]

/-- Loading the protected values writes registers and the commit sequence alone. -/
theorem loadRwp_eq (s : State) : ∃ r, loadRwp s =
    { s with regs := r, prot := { s.prot with commitSeq := s.flash.copies[(0 : Fin 2)].commitSeq.toNat } } := by
  obtain ⟨r, hr⟩ : ∃ r, s.flash.copies[(0 : Fin 2)].rwp.foldl
      (fun s e => regSet e.1 ((regGet s e.1 &&& ~~~ rwpMask e.1) ||| (e.2 &&& rwpMask e.1)) s) s = { s with regs := r } := by
    refine List.foldlRecOn _ _ (motive := fun t : State => ∃ r : Regs, t = { s with regs := r }) ⟨s.regs, rfl⟩ ?_
    rintro _ ⟨r, rfl⟩ e -
    exact ⟨_, rfl⟩
  refine ⟨r, ?_⟩
  rw [loadRwp]
  dsimp only
  rw [hr]
  rfl

theorem startTime_eq (s : State) : ∃ k, startTime s = { s with clock := k } := by
  unfold startTime
  split <;> exact ⟨_, rfl⟩

/-- What the store has given before the links train: all but registers, the clock and the node's ID as `readied` left it. -/
theorem claimed_eq (s : State) : ∃ r k i, claimId (loadRwp (startTime (readied s))) =
    { readied s with
      regs := r, clock := k, prot := { s.prot with commitSeq := s.flash.copies[(0 : Fin 2)].commitSeq.toNat },
      node := { s.node with
        id := if s.flash.copies[(0 : Fin 2)].prefId = 0 then s.node.id else s.flash.copies[(0 : Fin 2)].prefId, idState := i } } := by
  obtain ⟨k, started⟩ := startTime_eq (readied s)
  obtain ⟨r, loaded⟩ := loadRwp_eq { readied s with clock := k }
  rw [started, loaded, claimId]
  dsimp only
  split
  · next unset =>
    have unset : s.flash.copies[(0 : Fin 2)].prefId = 0 := unset
    exact ⟨r, k, s.node.idState, by rw [if_pos unset]; rfl⟩
  · next set =>
    have set : ¬ s.flash.copies[(0 : Fin 2)].prefId = 0 := set
    exact ⟨r, k, 0, by rw [if_neg set]; rfl⟩

end Boot

/-- Settles O54: the boot ROM by which slot boots, HOST_READY by what the store gives before the links train, and the check of the
other slot. -/
theorem bootVerifiesAnImageAndLoadsTheStore : Obligations.BootVerifiesAnImageAndLoadsTheStore := by
  unfold Obligations.BootVerifiesAnImageAndLoadsTheStore
  refine ⟨?_, ?_, ?_, ?_, ?_, ?_, ?_, ?_⟩
  · intro a b s h
    exact if_pos h
  · rintro a b _ s hs hp rfl hb
    obtain ⟨v, f, cp, r, booted, -⟩ := bootFrom_eq (chosenSlot s) false (foundIn a b (chosenSlot s)) s
    refine ⟨bootFrom (chosenSlot s) false (foundIn a b (chosenSlot s)) s, ?_, ?_⟩
    · rw [exec_imageVerified_rom hs hp]
      exact if_pos hb
    · rw [booted]
      exact ⟨rfl, rfl, rfl, vmod_get_self v _ _, rfl, rfl, rfl⟩
  · rintro a b _ y s hs hp rfl hy hx hb
    obtain rfl := eq_otherSlot hy
    obtain ⟨v, f, cp, r, booted, invalid⟩ := bootFrom_eq (otherSlot (chosenSlot s)) true (foundIn a b (otherSlot (chosenSlot s)))
      (slotRejected (foundIn a b (chosenSlot s)) (chosenSlot s) s)
    have other : slotBoots (slotRejected (foundIn a b (chosenSlot s)) (chosenSlot s) s) (otherSlot (chosenSlot s))
        (foundIn a b (otherSlot (chosenSlot s))) = true := by
      rw [slotBoots_slotRejected _ _ _ (otherSlot_ne (chosenSlot s))]
      exact hb
    have failed : ¬ slotBoots s (chosenSlot s) (foundIn a b (chosenSlot s)) = true := by
      rw [Bool.not_eq_true]
      exact hx
    refine ⟨_, (exec_imageVerified_rom hs hp).trans ((if_neg failed).trans (if_pos other)), ?_⟩
    have remembered := mem_bootFault Src.bootFallback (chosenSlot s) (bootFrom (otherSlot (chosenSlot s)) true
      (foundIn a b (otherSlot (chosenSlot s))) (slotRejected (foundIn a b (chosenSlot s)) (chosenSlot s) s))
    rw [booted] at remembered ⊢
    refine ⟨rfl, rfl, rfl, ?_, vmod_get_self v _ _, remembered⟩
    exact (congrArg SlotInfo.state (vmod_get_ne v _ _ _ (otherSlot_ne _).symm)).trans (invalid _ (slotRejected_state _ _ _))
  · intro a b s hs hp ha hb
    have none_ (z : Fin 2) : slotBoots s z (foundIn a b z) = false := by
      match z with
      | 0 => exact ha
      | 1 => exact hb
    have failed : ¬ slotBoots s (chosenSlot s) (foundIn a b (chosenSlot s)) = true := by simp [none_]
    have other : ¬ slotBoots (slotRejected (foundIn a b (chosenSlot s)) (chosenSlot s) s) (otherSlot (chosenSlot s))
        (foundIn a b (otherSlot (chosenSlot s))) = true := by
      rw [slotBoots_slotRejected _ _ _ (otherSlot_ne _), none_]
      exact Bool.false_ne_true
    have invalid (z : Fin 2) : (slotRejected (foundIn a b (otherSlot (chosenSlot s))) (otherSlot (chosenSlot s))
        (slotRejected (foundIn a b (chosenSlot s)) (chosenSlot s) s)).flash.slots[z].state = .invalid := by
      by_cases same : z = otherSlot (chosenSlot s)
      · rw [same]
        exact slotRejected_state _ _ _
      · have chosen : z = chosenSlot s := by
          by_contra ne
          exact same (eq_otherSlot ne)
        rw [slotRejected_ne _ _ same, chosen]
        exact slotRejected_state _ _ _
    refine ⟨_, (exec_imageVerified_rom hs hp).trans ((if_neg failed).trans (if_neg other)), rfl, invalid 0, invalid 1, rfl⟩
  · intro s h
    exact if_pos h
  · intro s hs hp
    obtain ⟨r, k, i, claimed⟩ := claimed_eq s
    have kept := outer_hostReadied s
    have node := hostReadied_node s
    have power := kept.power
    have prot := kept.prot
    rw [claimed] at node power prot
    refine ⟨hostReadied s, exec_hostReady_verified hs hp, ?_, ?_, ?_, ?_, fun h => ?_, fun h => ?_, ?_⟩
    · rw [power]; rfl
    · rw [power]; rfl
    · rw [power]; rfl
    · rw [prot]
    · rw [node]; exact if_neg h
    · rw [node]; exact if_pos h
    · rw [kept.flash, claimed]; rfl
  · intro c y s hs hc hy
    have ready : ¬ (s.power.stage ≠ .hostReady ∨ s.flash.commit.isSome = true) := by simp [hs, hc]
    simp only [exec, execSlotCheck, if_neg ready, ← eq_otherSlot hy]
  · intro c s h
    exact if_pos h

end Sys2Proof.Machine

namespace Sys2Proof.Machine

/-! The DMA channels' frame: of the registers whose write does more than store, HIF_CTRL alone reaches the DMA engine. -/

section DmaFrame

variable {s t : State}

theorem endForce_dma (s : State) : (endForce s).dma = s.dma := by
  unfold endForce
  split
  · rfl
  · split <;> rfl

theorem raise_dma (src inst d : Nat) (s : State) : (raise src inst d s).dma = s.dma := (calm_raise src inst d s (Calm.refl s)).dma

theorem sticky_dma (off i : Nat) (s : State) : (sticky off i s).dma = s.dma := rfl

theorem bump_dma (off n : Nat) (s : State) : (bump off n s).dma = s.dma := rfl

theorem regSetFld_dma (off hi lo v : Nat) (s : State) : (regSetFld off hi lo v s).dma = s.dma := rfl

theorem reselect_dma (s : State) : (reselect s).dma = s.dma := by
  unfold reselect
  dsimp only
  split
  · rw [clk_dma, endForce_dma]
  · split
    · rw [clk_dma, sticky_dma, clk_dma, clk_dma, endForce_dma]
    · rw [raise_dma, sticky_dma, clk_dma, sticky_dma, clk_dma, clk_dma, endForce_dma]

theorem refreshCands_dma (s : State) : (refreshCands s).dma = s.dma := by
  refine foldl_same State.dma (fun s n => ?_) _ s
  dsimp only
  split
  · rfl
  · split <;> rfl

theorem writeRefCfg_dma (n : Fin 8) (v : Word) (s : State) : (writeRefCfg n v s).dma = s.dma := by
  unfold writeRefCfg
  dsimp only
  rw [reselect_dma, refreshCands_dma]
  split <;> rfl

theorem muteCh_dma (next : PsRun) (pause : PsPause) (s : State) (c : Fin 8) : (muteCh next pause s c).dma = s.dma := by
  unfold muteCh muteFrom
  dsimp only
  split
  · rfl
  · split
    · rfl
    · split <;> rfl

theorem requestWarm_dma (c : ResetCause) (s : State) : (requestWarm c s).dma = s.dma := by
  unfold requestWarm
  split
  · rfl
  · rw [powerMod_dma]
    exact foldl_same State.dma (muteCh_dma _ _) _ s

theorem writeReset_dma (v : Word) (s : State) : (writeReset v s).dma = s.dma := by
  unfold writeReset
  split
  · exact requestWarm_dma _ s
  · rfl

theorem writeMediaRate_dma (v : Word) (s : State) : (writeMediaRate v s).dma = s.dma := by
  unfold writeMediaRate
  dsimp only
  split <;> split <;> rfl

theorem writeLock_dma (v : Word) (s : State) : (writeLock applyTopology v s).dma = s.dma := by
  unfold writeLock
  split <;> rfl

theorem startMeasure_dma (v : Word) (s : State) : (startMeasure v s).dma = s.dma := by
  unfold startMeasure
  dsimp only
  split
  · rw [clk_dma, regSet_dma]
  · rw [regSet_dma]

theorem writePulseCfg_dma (m : Fin 2) (v : Word) (s : State) : (writePulseCfg m v s).dma = s.dma := by
  unfold writePulseCfg
  dsimp only
  split <;> rfl

theorem writeEvtCfg_dma (v : Word) (s : State) : (writeEvtCfg v s).dma = s.dma := by
  refine foldl_same State.dma (fun t k => ?_) _ (regSet Reg.timeEvtCfg (v &&& 0xFF) s)
  split <;> rfl

theorem writeTgtReq_dma (n : Nat) (v : Word) (s : State) : (writeTgtReq n v s).dma = s.dma := by
  unfold writeTgtReq
  dsimp only
  split <;> split <;> rfl

theorem writeMeterCtrl_dma (v : Word) (s : State) : (writeMeterCtrl v s).dma = s.dma := by
  unfold writeMeterCtrl
  dsimp only
  split <;> rfl

theorem setCrcValue_dma (u v : Nat) (s : State) : (setCrcValue u v s).dma = s.dma := by
  unfold setCrcValue
  rw [regSet_dma, regSet_dma]

theorem crcStart_dma (u : Nat) (s : State) : (crcStart u s).dma = s.dma := by
  rw [crcStart, regSet_dma, setCrcValue_dma]

theorem crcFeedUnit_dma (u : Nat) (bs : List Byte) (s : State) : (crcFeedUnit u bs s).dma = s.dma := by
  unfold crcFeedUnit
  rw [bump_dma, setCrcValue_dma]

theorem crcWrite_dma {off : Nat} {v : Word} (h : crcWrite off v s = some t) : t.dma = s.dma := by
  unfold crcWrite at h
  dsimp only at h
  split at h
  · obtain rfl := Option.some.inj h
    rfl
  · split at h
    · obtain rfl := Option.some.inj h
      split
      · exact crcStart_dma _ s
      · rfl
    · exact Option.some.inj h ▸ crcFeedUnit_dma _ _ s
    · exact Option.some.inj h ▸ crcFeedUnit_dma _ _ s
    · exact Option.some.inj h ▸ crcFeedUnit_dma _ _ s
    · cases h

/-- A write below 0x1_0000 that does more than store is one of HIF_CTRL, or leaves the DMA channels. -/
theorem lowWrite_dma {mode : Word → State → State} {off : Nat} {v : Word} (h : lowWrite mode off v s = some t) :
    t = mode v s ∨ t.dma = s.dma := by
  unfold lowWrite at h
  split at h
  · exact Or.inr (Option.some.inj h ▸ writeMediaRate_dma v s)
  · exact Or.inr (Option.some.inj h ▸ writeReset_dma v s)
  · exact Or.inr (Option.some.inj h ▸ writeLock_dma v s)
  · exact Or.inr (Option.some.inj h ▸ startMeasure_dma v s)
  · exact Or.inr (Option.some.inj h ▸ writePulseCfg_dma 0 v s)
  · exact Or.inr (Option.some.inj h ▸ writePulseCfg_dma 1 v s)
  · exact Or.inr (Option.some.inj h ▸ writeEvtCfg_dma v s)
  · exact Or.inl (Option.some.inj h).symm
  · exact Or.inr (Option.some.inj h ▸ writeTgtReq_dma 0 v s)
  · exact Or.inr (Option.some.inj h ▸ writeTgtReq_dma 1 v s)
  · exact Or.inr (Option.some.inj h ▸ writeMeterCtrl_dma v s)
  · right
    split at h
    · exact crcWrite_dma h
    · split at h
      · obtain ⟨n, -, rfl⟩ := Option.map_eq_some_iff.mp h
        exact writeRefCfg_dma n v s
      · split at h
        · obtain ⟨e, -, rfl⟩ := Option.map_eq_some_iff.mp h
          rfl
        · cases h

theorem serdesIdle_dma (s : State) : (serdesIdle s).dma = s.dma := by
  unfold serdesIdle
  split <;> rfl

theorem writeLinkCtrl_dma (n : Fin 16) (v : Word) (s : State) : (writeLinkCtrl n v s).dma = s.dma := by
  unfold writeLinkCtrl
  dsimp only
  split
  · split
    · rfl
    · exact (outer_startTraining n (outer_linkMod _ _ _ (Outer.refl _))).dma
  · rw [serdesIdle_dma]
    exact (outer_linkDown n false false (Outer.refl _)).dma

theorem ethDown_dma (p : Fin 4) (s : State) : (ethDown p s).dma = s.dma := by
  unfold ethDown
  dsimp only
  split <;> rfl

theorem writeEthCtrl_dma (p : Fin 4) (v : Word) (s : State) : (writeEthCtrl p v s).dma = s.dma := by
  unfold writeEthCtrl
  dsimp only
  split
  · rw [raise_dma, ethDown_dma]
    rfl
  · rfl

theorem writePauseStat_dma (p : Fin 4) (v : Word) (s : State) : (writePauseStat p v s).dma = s.dma := by
  unfold writePauseStat
  split <;> rfl

theorem ptpCfgWritten_dma (p : Fin 4) (was : Bool) (s : State) : (ptpCfgWritten p was s).dma = s.dma := by
  unfold ptpCfgWritten
  split
  · rfl
  · split <;> rfl

theorem clearCounts_dma (off : Nat) (v : Word) (s : State) : (clearCounts off v s).dma = s.dma := by
  refine foldl_same State.dma (fun s x => ?_) _ s
  split <;> rfl

theorem refuse_dma (c r w : Nat) (s : State) : (refuse c r w s).dma = s.dma := raise_dma _ _ _ _

theorem plainWrite_dma (r : RegRow) (path : AccessPath) (off : Nat) (v : Word) (s : State) : (plainWrite r path off v s).dma = s.dma := by
  unfold plainWrite
  dsimp only
  split
  · exact clearCounts_dma _ _ _
  · rw [refuse_dma]
    exact clearCounts_dma _ _ _

theorem writeDbgCtrl_dma (path : AccessPath) (v : Word) (s : State) : (writeDbgCtrl path v s).dma = s.dma := by
  unfold writeDbgCtrl
  split <;> rfl

theorem writeTraceCtrl_dma (v : Word) (s : State) : (writeTraceCtrl v s).dma = s.dma := by
  unfold writeTraceCtrl
  dsimp only
  split <;> rfl

theorem highWrite_dma {path : AccessPath} {off : Nat} {v : Word} (h : highWrite path off v s = some t) : t.dma = s.dma := by
  unfold highWrite at h
  split at h
  · obtain ⟨n, -, rfl⟩ := Option.map_eq_some_iff.mp h
    exact writeLinkCtrl_dma n v s
  · split at h
    · obtain ⟨p, -, h⟩ := Option.bind_eq_some_iff.mp h
      split at h
      · obtain rfl := Option.some.inj h
        split
        · rfl
        · exact writeEthCtrl_dma p v s
      · split at h
        · exact Option.some.inj h ▸ writePauseStat_dma p v s
        · split at h
          · obtain ⟨r, -, rfl⟩ := Option.map_eq_some_iff.mp h
            rw [ptpCfgWritten_dma, plainWrite_dma]
          · cases h
    · split at h
      · exact Option.some.inj h ▸ writeDbgCtrl_dma path v s
      · split at h
        · exact Option.some.inj h ▸ writeTraceCtrl_dma v s
        · cases h

theorem severityChanged_dma (src old : Nat) (s : State) : (severityChanged src old s).dma = s.dma := by
  unfold severityChanged
  split
  · refine foldl_same State.dma (fun s n => ?_) _ s
    dsimp only
    split <;> rfl
  · rfl

/-- A write by DMA is one of HIF_CTRL, or leaves the DMA channels. -/
theorem regWrite_dma (mode : Word → State → State) (off : Nat) (v : Word) (s : State) :
    regWrite mode .dma off v s = mode v s ∨ (regWrite mode .dma off v s).dma = s.dma := by
  unfold regWrite
  split
  · exact Or.inr rfl
  · split
    · rw [protWrite_noClass rfl]
      exact Or.inr (refuse_dma _ _ _ _)
    · split
      · right
        dsimp only
        rw [severityChanged_dma, plainWrite_dma]
      · split
        · exact Or.inr (plainWrite_dma _ _ _ _ _)
        · next r _ _ _ _ =>
          dsimp only
          split
          · cases hw : lowWrite mode off v s with
            | none => exact Or.inr (plainWrite_dma r _ _ _ _)
            | some t => exact lowWrite_dma hw
          · cases hw : highWrite .dma off v s with
            | none => exact Or.inr (plainWrite_dma r _ _ _ _)
            | some t => exact Or.inr (highWrite_dma hw)

end DmaFrame

/-! A channel that is HALTED stays so, whatever a COPY writes (R403). -/

section HaltKept

variable {s t u : State}

/-- Every channel that is HALTED stays HALTED. -/
def HaltKept (s t : State) : Prop := ∀ d : Fin 32, s.dma[d].state = .halted → t.dma[d].state = .halted

theorem HaltKept.refl (s : State) : HaltKept s s := fun _ h => h

theorem HaltKept.trans (h1 : HaltKept s t) (h2 : HaltKept t u) : HaltKept s u := fun d h => h2 d (h1 d h)

theorem haltKept_of_dma (h : t.dma = s.dma) : HaltKept s t := fun d hd => by rwa [h]

theorem haltKept_foldl {β : Type} {g : State → β → State} (hg : ∀ s x, HaltKept s (g s x)) (l : List β) (s : State) :
    HaltKept s (l.foldl g s) := by
  induction l generalizing s with
  | nil => exact HaltKept.refl s
  | cons x l ih => exact (hg s x).trans (ih _)

theorem haltKept_dmaMod (d : Fin 32) {f : DmaCh → DmaCh} (hf : ∀ c, c.state = .halted → (f c).state = .halted) (s : State) :
    HaltKept s (dmaMod d f s) := by
  intro k h
  by_cases same : k = d
  · subst same
    exact (congrArg DmaCh.state (vmod_get_self s.dma k f)).trans (hf _ h)
  · exact (congrArg DmaCh.state (vmod_get_ne s.dma d k f same)).trans h

theorem outer_writeWaiting {c : State} (h : Outer c s) : Outer c (writeWaiting s) := by
  refine outer_foldl (fun s w h => ?_) _ h
  dsimp only
  split
  · exact h
  · exact outer_postRec _ _ _ _ (outer_ringDone _ _ (outer_unreserve _ _ _ h))

theorem haltKept_readDirectory (s : State) : HaltKept s (readDirectory s) := by
  unfold readDirectory
  dsimp only
  split
  · exact haltKept_of_dma rfl
  · intro d h
    rw [(outer_writeWaiting (Outer.refl _)).dma, reserveOld, hifMod_dma]
    simpa only [vmapIdx_get, dmaEntry, hifMod_dma] using h

theorem dmaSettle_dma (s : State) : (dmaSettle s).dma = s.dma :=
  foldl_same State.dma (fun s (w : DmaWait) => (outer_completeAt w.tick w.ticket (okOf w.ticket) 0 s (Outer.refl s)).dma) _ _

end HaltKept

end Sys2Proof.Machine

namespace Sys2Proof.Machine

/-! What moves the data of a COPY, and what ends it, keeps HALTED channels (R399–R403). -/

section HaltedChannels

variable {s t u : State}

/-- The records lost with an owner: those that wait to be written and those whose results have come. -/
def lostRecords (s : State) : State :=
  s.tun.results.foldl (fun t _ => recordLost t) (s.hif.waiting.foldl (fun t _ => recordLost t) s)

/-- The host interface without an owner. -/
def ownerDropped (h : HostIf) : HostIf :=
  { h with
    polling := false, startPoll := false, dirOk := false, dirWait := false, stopTry := none, owner := none, claim := none,
    epoch := h.epoch + 1, again := false, events := [], eventsNow := [], waiting := [],
    rings := vmap (fun (r : CmdRing) => { r with outstanding := 0 }) h.rings,
    irqs := vmap (fun (i : IrqSource) => { i with due := false }) h.irqs }

theorem dropOwner_eq (f : State → State) (s : State) : dropOwner f s =
    tunMod (fun t => { t with unacked := [], unissued := [], come := [], results := [] })
      (dmaDrop (hifMod ownerDropped (lostRecords (f s)))) := rfl

theorem recordLost_dma (s : State) : (recordLost s).dma = s.dma := (calm_recordLost s (Calm.refl s)).dma

theorem lostRecords_dma (s : State) : (lostRecords s).dma = s.dma :=
  (foldl_same State.dma (fun t _ => recordLost_dma t) _ _).trans (foldl_same State.dma (fun t _ => recordLost_dma t) _ _)

/-- Every channel but a HALTED one is STOPPED, and none has a descriptor. -/
theorem dmaDrop_get (s : State) (d : Fin 32) : (dmaDrop s).dma[d] =
    { s.dma[d] with state := if s.dma[d].state = .halted then .halted else .stopped, cur := none, blocks := [], under := false } := by
  rw [dmaDrop, dmaSettle_dma]
  exact vmap_get _ _ d

theorem haltKept_dropOwner {f : State → State} (hf : ∀ s, HaltKept s (f s)) (s : State) : HaltKept s (dropOwner f s) := by
  have lost := (hf s).trans (haltKept_of_dma (lostRecords_dma (f s)))
  have dropped : HaltKept (lostRecords (f s)) (dmaDrop (hifMod ownerDropped (lostRecords (f s)))) := fun d h => by
    rw [dmaDrop_get, hifMod_dma, h, if_pos rfl]
  rw [dropOwner_eq]
  exact (lost.trans dropped).trans (haltKept_of_dma (tunMod_dma _ _))

theorem haltKept_dmaMode (v : Word) (s : State) : HaltKept s (dmaMode v s) := by
  have dropped : HaltKept s
      (if hifMode s ≠ 0 then dropOwner (fun t => id (regSetFld Reg.hifCtrl 1 0 (hifMode s) t)) s else s) := by
    split
    · exact haltKept_dropOwner (fun t => haltKept_of_dma (regSetFld_dma _ _ _ _ _)) s
    · exact HaltKept.refl s
  have set := dropped.trans (haltKept_of_dma (regSetFld_dma Reg.hifCtrl 1 0 (fld v 1 0) _))
  unfold dmaMode writeMode
  dsimp only
  split
  · exact haltKept_of_dma (regSetFld_dma _ _ _ _ _)
  · split
    · exact set.trans (haltKept_readDirectory _)
    · exact set

theorem haltKept_pathWrite (off : Nat) (v : Word) (s : State) : HaltKept s (pathWrite dmaMode .dma off v s) := by
  unfold pathWrite
  split
  · exact HaltKept.refl s
  · rcases regWrite_dma dmaMode off v s with h | h
    · rw [h]
      exact haltKept_dmaMode v s
    · exact haltKept_of_dma h

theorem haltKept_devWrite (a : Nat) (bs : List Byte) (s : State) : HaltKept s (devWrite dmaMode .dma a bs s) := by
  unfold devWrite
  split
  · exact haltKept_foldl (fun s _ => haltKept_pathWrite _ _ s) _ s
  · exact haltKept_of_dma rfl
  · exact HaltKept.refl s

theorem afterRead_dma (path : AccessPath) (off : Nat) (s : State) : (afterRead path off s).dma = s.dma := by
  unfold afterRead
  split
  · cases path <;> rfl
  · rfl

theorem devRead_dma (path : AccessPath) (a n : Nat) (s : State) : (devRead path a n s).2.dma = s.dma := by
  unfold devRead
  split
  · exact foldl_same (fun (r : List Byte × State) => r.2.dma) (fun r _ => afterRead_dma _ _ r.2) _ ([], s)
  · rfl
  · rfl

theorem recordErr_dma (kind master : Nat) (write : Bool) (addr : Nat) (s : State) : (recordErr kind master write addr s).dma = s.dma := by
  rw [recordErr, regSet_dma, regSet_dma, regSet_dma]

theorem matrixError_dma (r : Resp) (master : Nat) (write : Bool) (addr : Nat) (s : State) :
    (matrixError r master write addr s).dma = s.dma := by
  cases r with
  | okay => rfl
  | decerr => rw [matrixError, raise_dma, sticky_dma, bump_dma, recordErr_dma]
  | deny => rw [matrixError, raise_dma, sticky_dma, bump_dma, recordErr_dma]
  | slverr => rw [matrixError, raise_dma, sticky_dma, recordErr_dma]

theorem haltKept_deviceMove (x : DmaDesc) (l : List (Nat × Nat)) (s : State) : HaltKept s (deviceMove x l s).2.2.2 := by
  induction l generalizing s with
  | nil => exact HaltKept.refl s
  | cons b rest ih =>
    unfold deviceMove
    split
    · refine HaltKept.trans ?_ (ih _)
      split
      · exact haltKept_of_dma (devRead_dma _ _ _ s)
      · exact haltKept_devWrite _ _ s
    · exact haltKept_of_dma (matrixError_dma _ _ _ _ s)

theorem haltKept_dmaMove (d : Fin 32) (x : DmaDesc) (l : List (Nat × Nat)) (s : State) : HaltKept s (dmaMove d x l s).2.2 := by
  unfold dmaMove
  dsimp only
  split
  · exact haltKept_deviceMove x l s
  · exact (haltKept_deviceMove x l s).trans (haltKept_of_dma (outer_useWrite _ _ _ _ (Outer.refl _)).dma)

theorem haltKept_dmaPartial (d : Fin 32) (x : DmaCur) (s : State) : HaltKept s (dmaPartial d x s).2.2 :=
  (haltKept_of_dma (outer_freshFree 32 s (Outer.refl s)).dma).trans (haltKept_dmaMove d x.desc _ _)

theorem dmaReadBack_dma (d : Fin 32) (c : DmaCur) (s : State) : (dmaReadBack d c s).dma = s.dma := by
  unfold dmaReadBack deviceReadBack
  split
  · rfl
  · split
    · exact (outer_useRead _ _ _ _ (Outer.refl s)).dma
    · split
      · split
        · exact afterRead_dma _ _ s
        · rfl
      · rfl

theorem haltKept_dmaRecord (d : Fin 32) (c : DmaCur) (status flags residue : Nat) (s : State) :
    HaltKept s (dmaRecord d c status flags residue s) := by
  have owned (a : Nat) (own : Byte) (g : HostIf → HostIf) : HaltKept s (hifMod g (useWrite (.dma d) a [own] (dmaReadBack d c s))) :=
    haltKept_of_dma (((outer_useWrite _ _ _ _ (Outer.refl _)).dma).trans (dmaReadBack_dma d c s))
  have written (u : State) (bytes : List Byte) (h : HaltKept s u) :
      HaltKept s (writeRec 5 16 3 bytes (dmaMod d (fun c => { c with under := false }) u)) :=
    (h.trans (haltKept_dmaMod d (f := fun c => { c with under := false }) (fun _ h => h) u)).trans
      (haltKept_of_dma (outer_writeRec _ _ _ _ _ (Outer.refl _)).dma)
  unfold dmaRecord
  dsimp only
  split
  · exact (written _ _ (owned _ _ _)).trans (haltKept_of_dma (outer_callIrq _ _ (Outer.refl _)).dma)
  · exact written _ _ (owned _ _ _)

/-- A channel that the halt has reached. -/
def haltedCh (c : DmaCh) : DmaCh := { c with state := .halted, cur := none, blocks := [], under := false }

/-- What a channel's halt ends, and the state with the data moved before it. -/
def haltBegun (moved : Bool) (d : Fin 32) (s : State) : List DmaCur × State :=
  match s.dma[d].cur with
  | none => (s.dma[d].blocks.filterMap fun b => b.last, s)
  | some x =>
    if s.dma[d].mode = 1 ∧ !moved then ((s.dma[d].blocks.filterMap fun b => b.last) ++ [(dmaPartial d x s).1], (dmaPartial d x s).2.2)
    else ((s.dma[d].blocks.filterMap fun b => b.last) ++ [x], s)

theorem haltKept_haltBegun (moved : Bool) (d : Fin 32) (s : State) : HaltKept s (haltBegun moved d s).2 := by
  unfold haltBegun
  split
  · exact HaltKept.refl s
  · split
    · exact haltKept_dmaPartial d _ s
    · exact HaltKept.refl s

theorem haltCh_eq (lost moved : Bool) (d : Fin 32) (s : State) : haltCh lost moved d s = dmaMod d haltedCh
    (if lost then hifMod (fun h => { h with dcq := { h.dcq with reserved := h.dcq.reserved - (haltBegun moved d s).1.length } })
        (haltBegun moved d s).2
      else (haltBegun moved d s).1.foldl (fun s x => dmaRecord d x St.busError 0 (x.desc.length - x.done) s) (haltBegun moved d s).2) := rfl

theorem haltCh_halts (lost moved : Bool) (d : Fin 32) (s : State) : (haltCh lost moved d s).dma[d].state = .halted := by
  rw [haltCh_eq]
  exact congrArg DmaCh.state (vmod_get_self _ d haltedCh)

theorem haltKept_haltCh (lost moved : Bool) (d : Fin 32) (s : State) : HaltKept s (haltCh lost moved d s) := by
  rw [haltCh_eq]
  refine HaltKept.trans ?_ (haltKept_dmaMod d (fun _ _ => rfl) _)
  have begun := haltKept_haltBegun moved d s
  split
  · exact begun.trans (haltKept_of_dma (hifMod_dma _ _))
  · exact begun.trans (haltKept_foldl (fun s x => haltKept_dmaRecord _ _ _ _ _ s) _ _)

theorem haltCommands_dma (s : State) : (haltCommands s).dma = s.dma := by
  have results := (outer_failResults s (Outer.refl s)).dma
  unfold haltCommands
  dsimp only
  rw [foldl_same State.dma]
  · split
    · split
      · rw [endCommit, (outer_complete _ _ _ _ (Outer.refl _)).dma, flashMod_dma, results]
      · exact results
    · exact results
  · intro s n
    split
    · rfl
    · exact (outer_complete _ _ _ _ (Outer.refl _)).dma

/-- The halt of the engine halts every channel (R403). -/
theorem dmaHalt_halts (ch cause addr : Nat) (host moved fails : Bool) (hs : dmaHalted s = false) (d : Fin 32) :
    (dmaHalt ch cause host addr moved fails s).dma[d].state = .halted := by
  have running : ¬ dmaHalted s = true := by simp [hs]
  have halted (s : State) : ((fins 32).foldl
      (fun s (d : Fin 32) => haltCh (fails && decide (d.val = ch)) (moved && decide (d.val = ch)) d s) s).dma[d].state = .halted :=
    foldl_establishes (fun d s => s.dma[d].state = .halted) (fun s x => haltCh_halts _ _ x s)
      (fun s x y hy => haltKept_haltCh _ _ x s y hy) (mem_fins d) s
  rw [dmaHalt, if_neg running]
  dsimp only
  rw [report_dma, raise_dma, haltCommands_dma]
  exact halted _

end HaltedChannels

/-! DMA_CTRL, and a descriptor from its beginning to its end. -/

section Descriptors

variable {s : State} {d : Fin 32} {x : DmaCur}

theorem exec_dmaCtrl_held {h : CmdHdr} {a : DmaCtrlArgs} {n : Nat} {late : Bool} (ht : Taken h true s)
    (hn : schedule a.tick s = some (n, late)) (hm : a.chMask ≠ 0) (h1 : 1 ≤ a.action.toNat) (h4 : a.action.toNat ≤ 4) :
    exec (.dmaCtrl h a) s = .next (settle (hold n (ticketOf h s) late (.dmaCtrl a) (takenState h s))) := by
  have action : a.action ≠ 0 := by
    intro e
    rw [e] at h1
    exact absurd h1 (by decide)
  have valid : decide (a.chMask = 0 ∨ a.action = 0 ∨ 4 < a.action.toNat) = false :=
    decide_eq_false (not_or.mpr ⟨hm, not_or.mpr ⟨action, Nat.not_lt.mpr h4⟩⟩)
  exact congrArg fin (timedCmd_held ht valid hn rfl)

/-- A descriptor is taken only by a running channel with none in progress, from a ring that is not empty, while the engine is not
halted and the record queue has an entry free (R393, R395). -/
theorem dmaNext_some (h : dmaNext d s = some x) : s.dma[d].state = .running ∧ s.dma[d].cur = none ∧
    s.dma[d].head ≠ s.dma[d].tail ∧ dmaHalted s = false ∧ 0 < s.hif.dcq.free ∧ x.index = s.dma[d].head ∧ x.done = 0 := by
  unfold dmaNext at h
  dsimp only at h
  split at h
  · cases h
  · next may =>
    split at h
    · obtain rfl := Option.some.inj h
      simp only [not_or, not_not, Bool.not_eq_true, Option.isSome_eq_false_iff, Option.isNone_iff_eq_none] at may
      obtain ⟨running, none_, halted, waiting, -, -, free⟩ := may
      exact ⟨running, none_, waiting, halted, Nat.pos_of_ne_zero free, rfl, rfl⟩
    · cases h

theorem exec_dmaDescriptorBegin {l : List HostStore} (hm : (hostStores l s).dma[d].mode ≠ 4) (hx : dmaNext d (hostStores l s) = some x) :
    exec (.dmaDescriptorBegin d l) s = fin (if x.desc.badArg then dmaRecord d x 4 0 x.desc.length (dmaTake d x.desc (hostStores l s))
      else dmaMod d (fun c => { c with cur := some x }) (dmaTake d x.desc (hostStores l s))) := by
  simp only [exec, execDmaDescriptorBegin, if_neg hm, dmaBegin, hx]
  rfl

theorem exec_dmaDescriptorComplete_copy (hx : s.dma[d].cur = some x) (hm : s.dma[d].mode = 1) (hw : copyWaits d x s = false) :
    exec (.dmaDescriptorComplete d) s =
      match (dmaMove d x.desc (dmaLeft x) s).2.1 with
      | none => fin (dmaEnd d { x with done := x.done + (dmaMove d x.desc (dmaLeft x) s).1 } 0 (dmaMove d x.desc (dmaLeft x) s).2.2)
      | some e => fin (dmaHalt d e.1.cause false e.2 true false (dmaMod d
          (fun c => { c with cur := some { x with done := x.done + (dmaMove d x.desc (dmaLeft x) s).1 } })
          (dmaMove d x.desc (dmaLeft x) s).2.2)) := by
  simp only [exec, execDmaDescriptorComplete, hx, hm, hw, Bool.false_eq_true, and_false, if_false, if_true] <;> rfl

end Descriptors

/-- Settles O40: the command by its checks, a descriptor by what its channel allows and its bursts answer, and the halt by the
channels it reaches in turn. -/
theorem dmaDescriptorsBegunEndedAndHalted : Obligations.DmaDescriptorsBegunEndedAndHalted := by
  unfold Obligations.DmaDescriptorsBegunEndedAndHalted
  refine ⟨fun _ _ _ _ _ => exec_dmaCtrl_held, ?_, ?_, ?_, ?_, fun _ _ _ => dmaNext_some, ?_, ?_, ?_, ?_, fun _ _ => rfl,
    fun _ _ _ _ _ _ _ => dmaHalt_halts _ _ _ _ _ _, ?_⟩
  · intro t a d s hd ha
    have refused : (!((maskUnits 32 a.chMask.toNat).filter fun d => !(fun _ => false) d).all
        fun d => dmaAllows a.action.toNat s.dma[d].state) = true := by
      simp only [Bool.not_false, List.filter_true, Bool.not_eq_true', List.all_eq_false]
      exact ⟨d, hd, ne_true_of_eq_false ha⟩
    exact if_pos refused
  · intro t a d s hd ha hs
    have allowed : dmaAllows 1 s.dma[d].state = true := by rw [hs]; rfl
    have action : a.action.toNat = 1 := by rw [ha]; rfl
    simp only [applyDma, hd, action, Bool.not_false, List.filter_true, List.all_cons, List.all_nil, allowed, Bool.and_true, Bool.not_true,
      Bool.false_eq_true, if_false]
    rfl
  · rintro d l x s _ rfl hm hx hb
    rw [exec_dmaDescriptorBegin hm hx, hb]
    rfl
  · rintro d l x s _ rfl hm hx hb
    rw [exec_dmaDescriptorBegin hm hx, hb]
    rfl
  · rintro d x _ k s u hx hm hw hr rfl
    rw [exec_dmaDescriptorComplete_copy hx hm hw, hr]
    rfl
  · intro d x k r a s u hx hm hw hr
    rw [exec_dmaDescriptorComplete_copy hx hm hw, hr]
    rfl
  · intro d x s hx hm hw
    simp only [exec, execDmaDescriptorComplete, hx, hm, hw, and_self, if_true]
  · intro d x s hx hm
    have notCopy : ¬ (4 : Nat) = 1 := by decide
    simp only [exec, execDmaDescriptorComplete, hx, hm, notCopy, false_and, if_false, if_true]
    rfl
  · intro ch cause addr host moved fails s hs
    exact if_pos hs

end Sys2Proof.Machine

namespace Sys2Proof.Machine

/-! The rings: their owner (R366), the rounds that poll them (R369–R371, R389), and what stops them (R404). -/

section Rings

variable {s t : State}

/-- The host's stores that come with a write of HIF_CTRL. -/
def storesWith (l : List HostStore) (s : State) : State :=
  l.foldl (fun u x => if x.bar2 then bar2Store x.addr.toNat x.bytes u
    else { u with localMem := memWrite u.localMem x.addr.toNat x.bytes }) s

theorem storesWith_power (l : List HostStore) (s : State) : (storesWith l s).power = s.power := by
  refine foldl_same State.power (fun u x => ?_) l s
  split
  · exact (outer_bar2Store _ _ u (Outer.refl u)).power
  · rfl

theorem exec_hifModeWrite {path : AccessPath} (v : Word) (l : List HostStore) (hp : path ≠ .mb0) (ho : regsOpen s = true) :
    exec (.hifModeWrite path v l) s = fin (writeMode dmaMoves v (storesWith l s)) := by
  have served : regsOpen (storesWith l s) = true := by
    rw [regsOpen, storesWith_power]
    exact ho
  refine congrArg fin ((busWrite_open hp served).trans ?_)
  exact regWrite_lowWrite (by decide) (by decide) (by decide) rfl

theorem writeMode_same {f : State → State} {v : Word} (h : hifMode (regSetFld Reg.hifCtrl 1 0 (fld v 1 0) s) = hifMode s) :
    writeMode f v s = regSetFld Reg.hifCtrl 1 0 (fld v 1 0) s := if_pos h.symm

theorem writeMode_claimed {f : State → State} {v : Word} (h0 : hifMode s = 0)
    (h1 : hifMode (regSetFld Reg.hifCtrl 1 0 (fld v 1 0) s) = 1) :
    writeMode f v s = readDirectory (regSetFld Reg.hifCtrl 1 0 (fld v 1 0) s) := by
  have changed : ¬ (0 : Nat) = 1 := by decide
  have unowned : ¬ (0 : Nat) ≠ 0 := fun h => h rfl
  unfold writeMode
  dsimp only
  rw [h0, h1, if_neg changed, if_pos rfl, if_neg unowned]

/-- With no directory a completion is only counted as lost. -/
theorem completeAt_hif_of_noDirectory {tick : Nat} {x : Ticket} {status specific : Nat}
    (h : s.hif.dirOk = false ∧ s.hif.dirWait = false) :
    (completeAt tick x status specific s).hif = s.hif := by
  have lost : x.epoch ≠ s.hif.epoch ∨ (!s.hif.dirOk && !s.hif.dirWait) = true := .inr (by rw [h.1, h.2]; rfl)
  by_cases late : status = St.okLate
  · simp only [completeAt, late, if_true, lost]
    rfl
  · simp only [completeAt, late, if_false, lost, if_true]
    rfl

theorem dmaSettle_hif_of_noDirectory (h : s.hif.dirOk = false ∧ s.hif.dirWait = false) : (dmaSettle s).hif = s.hif := by
  refine List.foldlRecOn _ _ (motive := fun t : State => t.hif = s.hif) rfl fun t ht w _ => ?_
  refine (completeAt_hif_of_noDirectory ?_).trans ht
  rw [ht]
  exact h

theorem dropOwner_hif (f : State → State) (s : State) : (dropOwner f s).hif = ownerDropped (lostRecords (f s)).hif := by
  rw [dropOwner_eq, tunMod_hif, dmaDrop, dmaSettle_hif_of_noDirectory ⟨rfl, rfl⟩]
  rfl

theorem dropOwner_dma (f : State → State) (s : State) (d : Fin 32) :
    (dropOwner f s).dma[d].cur = none ∧ (dropOwner f s).dma[d].blocks = [] := by
  rw [dropOwner_eq, tunMod_dma, dmaDrop_get]
  exact ⟨rfl, rfl⟩

theorem exec_ringsStopped {c : BitVec 4} {a : BitVec 64} {e : Bool} (hm : hifMode s ≠ 0) :
    exec (.ringsStopped c a e) s = fin (stopRings c.toNat a.toNat e s) := if_neg hm

theorem stopRings_running {c a : Nat} {e : Bool} (h : s.hif.ringsStopped = false) : stopRings c a e s =
    report 0x0F11 0 (leBytes 8 c ++ leBytes 8 a) (raise Src.hostBusErr 0 a (sticky Reg.hifErrStat 0
      (regSet Reg.hifErrAddrLo (BitVec.ofNat 32 a) (regSet Reg.hifErrAddrHi (BitVec.ofNat 32 (a / 2 ^ 32))
        { s with hif := { s.hif with polling := false, startPoll := false, ringsStopped := true, stopTry := some e } })))) := by
  have running : ¬ s.hif.ringsStopped = true := by rw [h]; exact Bool.false_ne_true
  exact if_neg running

theorem may_poll (hp : s.hif.polling = true) (hr : s.power.state = .running) :
    ¬ ((!s.hif.polling) = true ∨ s.power.state ≠ .running) := by
  simp [hp, hr]

theorem pollOnce_local (hp : s.hif.polling = true) (hr : s.power.state = .running) (hm : hifMode s ≠ 2)
    (h : hifMode s ≠ 1 ∨ s.pcie.perst = false) :
    pollOnce s = acceptAll (waitingDescriptors (readDoorbell s) + 1) (readDoorbell s) := by
  have endpoint : ¬ (hifMode s = 1 ∧ s.pcie.perst = true) := fun ⟨one, reset⟩ => by
    rcases h with h | h
    · exact h one
    · exact Bool.false_ne_true (h.symm.trans reset)
  rw [pollOnce, if_neg (may_poll hp hr), if_neg endpoint, if_neg hm]

theorem pollOnce_tunnel (hp : s.hif.polling = true) (hr : s.power.state = .running) (hm : hifMode s = 2) :
    pollOnce s = if roundRuns s then s else useRead .fetch (hcaOf s) 0xC0 s := by
  have endpoint : ¬ (hifMode s = 1 ∧ s.pcie.perst = true) := fun ⟨one, _⟩ => absurd (hm.symm.trans one) (by decide)
  rw [pollOnce, if_neg (may_poll hp hr), if_neg endpoint, if_pos hm]

/-- The failure found first is of the read or of the write: either may be. -/
theorem pollOnce_endpointReset (hp : s.hif.polling = true) (hr : s.power.state = .running) (hm : hifMode s = 1)
    (h : s.pcie.perst = true) :
    pollOnce s = stopRings (3 + Config.freeValue s.free % 2) (hcaOf s) true { s with free := s.free + 1 } := by
  rw [pollOnce, if_neg (may_poll hp hr), if_pos ⟨hm, h⟩]
  rfl

theorem acceptAll_none {k : Nat} (h : visitRings s = (false, s)) : acceptAll (k + 1) s = s := by
  rw [acceptAll, h]
  rfl

theorem acceptAll_some {k : Nat} (h : (visitRings s).1 = true) : acceptAll (k + 1) s = acceptAll k (visitRings s).2 := by
  simp only [acceptAll, h, if_true]

theorem takeNext_none {r : Fin 8} (h : s.hif.rings[r].log2 = 0 ∨ s.hif.rings[r].head = s.hif.rings[r].tail ∨
    bitOf (desc (hostRead s (s.hif.rings[r].base.toNat + 64 * s.hif.rings[r].head) 64) 2 1) 0 = false) : takeNext r s = none := by
  unfold takeNext
  dsimp only
  split
  · rfl
  · next ready =>
    obtain ⟨used, filled, -⟩ : _ ∧ _ ∧ _ := by simpa only [not_or] using ready
    have unwritten := (h.resolve_left used).resolve_left filled
    refine if_pos (.inl ?_)
    rw [Bool.not_eq_true']
    exact unwritten

end Rings

/-- Settles O39: the owner by the mode written, the rounds by the mode and what stands in their way. -/
theorem ringsOwnedPolledAndStopped : Obligations.RingsOwnedPolledAndStopped := by
  unfold Obligations.RingsOwnedPolledAndStopped
  refine ⟨?_, fun _ _ _ => writeMode_same, fun _ _ _ => writeMode_claimed, ?_, ?_, ?_, fun _ => pollOnce_local, fun _ => pollOnce_tunnel,
    fun _ => rfl, ?_, ?_, fun _ _ => acceptAll_none, fun _ _ => acceptAll_some, fun _ _ => takeNext_none, ?_, ?_, ?_, fun _ _ => rfl⟩
  · rintro path v l s _ hp ho rfl
    exact exec_hifModeWrite v l hp ho
  · intro f s
    rw [dropOwner_hif]
    exact ⟨rfl, rfl, rfl, rfl, rfl, rfl, dropOwner_dma f s⟩
  · intro c a e s hm hs
    rw [exec_ringsStopped hm, stopRings_running hs, fin]
  · rintro l s _ rfl
    rfl
  · intro s ha hr
    have again : s.hif.again = true ∧ (!roundRuns s) = true := ⟨ha, by rw [hr]; rfl⟩
    exact if_pos again
  · intro s hp hr hm h
    refine ⟨_, ?_, pollOnce_endpointReset hp hr hm h⟩
    have two := Nat.mod_lt (Config.freeValue s.free) (show 0 < 2 by decide)
    omega
  · rintro l s _ rfl hp hs
    have ready : ¬ (hostStores l s).pcie.perst = true := by rw [hp]; exact Bool.false_ne_true
    simp only [exec, execWakeWrite, if_neg ready, if_neg hs, fin]
  · rintro l s _ rfl hp hs
    have ready : ¬ (hostStores l s).pcie.perst = true := by rw [hp]; exact Bool.false_ne_true
    simp only [exec, execWakeWrite, if_neg ready, if_pos hs, fin]
  · intro n c s hd ho
    simp only [exec, execTunWake, receiveCell_delivered hd, ho, if_true, fin]

end Sys2Proof.Machine
